-- ==== Sys2Proof/Word.lean ====
section
/-! DEFINITION. The words of the module: bytes, 32-bit registers, 64-bit micro-ops and Slates. -/

namespace Sys2Proof

/-- One byte. -/
abbrev Byte := BitVec 8

/-- The contents of a 32-bit register, or of an FP32 value (R72). -/
abbrev W32 := BitVec 32

/-- A micro-op (R234), a Slate (R15) or any 64-bit quantity. -/
abbrev W64 := BitVec 64

end Sys2Proof
end

