-- ==== Sys2Proof/Syntax.lean ====
section
/-! DEFINITION. The commands the module takes, one constructor for each row of the table of operations and events, with the external
inputs each one brings: addresses, values, packets, measured quantities, and which tile, port, flow or entry it concerns. -/

namespace Sys2Proof

/-- An NRT packet (R413, R414): its header fields, its payload, and what the receiver sees of it: the port it came in on, a CE mark, and
whether its ECRC holds. -/
structure Packet where
  ver : Nat
  op : Nat
  dgram : Bool
  retx : Bool
  dstFlow : Nat
  srcFlow : Nat
  epoch : Nat
  path : Nat
  psn : Nat
  key : Nat
  offset : Nat
  length : Nat
  slate : Nat
  bitmap : Nat
  payload : List Byte
  port : Nat
  ce : Bool
  ecrcOk : Bool
deriving DecidableEq, Repr

/-- A read that stage firmware asks the NRT engine for (R438): the key and the offset it reads at, its bytes, where the response goes, and its Slate. -/
structure ReadAsk where
  key : Nat
  offset : Nat
  length : Nat
  respKey : Nat
  respOffset : Nat
  slate : Nat
deriving DecidableEq, Repr

/-- A sending turn of a flow (R427): the flow, and a read that stage firmware has first put into its queue through its command queue (R438). -/
structure Transmit where
  flow : Nat
  ask : Option ReadAsk
deriving DecidableEq, Repr

/-- An Ethernet frame as the receiving MAC judges it (R387): its length in bytes, whether its FCS holds, its addresses and tags (TPID and TCI),
its EtherType, what the checks of IP and UDP find, whether no buffer space remains for it, whether it is a peer-delay message and whether that is a request, a
Sync, or an LLDPDU with TLVs that the hardware agent does not consume, whether it is a PTP message that only a master sends (R391), the KiB that each priority's receive buffer then holds (R390), and its content. -/
structure Frame where
  length : Nat
  fcsOk : Bool
  dst : Nat
  src : Nat
  tags : List (Nat × Nat)
  etherType : Nat
  pfcOpcode : Nat
  ipOk : Bool
  ipDst : Nat
  proto : Nat
  udpPort : Nat
  udpSumOk : Bool
  nrtOk : Bool
  noBuf : Bool
  pdelay : Bool
  ask : Bool
  sync : Bool
  other : Bool
  master : Bool
  buffered : List Nat
  data : List Byte
deriving DecidableEq, Repr

/-- A management message (R345): its type, the manager epoch, the sender and its count, the Slate, and the argument bytes. -/
structure Msg where
  type : Nat
  epoch : Nat
  module : Nat
  seq : Nat
  slate : Nat
  arg : List Byte
deriving DecidableEq, Repr

/-- What the twin sends of a group at a restore (R370, R371): the group, the step of the copy, its master and states as FP32 tensors row by row, and its
bias powers. -/
structure RestoreCopy where
  group : Nat
  step : Nat
  p : List W32
  s1 : List W32
  s2 : List W32
  bp1 : W32
  bp2 : W32
deriving DecidableEq, Repr

/-- A Craxis message (R486): LEN, TAG, ADDR, MASTER, FLAGS and its data; for one that arrives, the channel it came on and the number of its
first flit, for a response that the hub sends, in the same place, the module of its request (R490). Its opcode is the command's, but for one that arrives with a
reserved opcode, which `code` gives (R487). -/
structure CxMsg where
  len : Nat
  tag : Nat
  addr : Nat
  master : Nat
  poison : Bool
  fail : Bool
  data : List Byte
  vc : Nat
  num : Nat
  code : Option Nat
deriving DecidableEq, Repr

/-- A register access over a stack's sideband (R481, R502): its master, its address, and the value of a write. -/
structure SideAccess where
  master : Nat
  addr : Nat
  value : Option Nat
deriving DecidableEq, Repr

/-- What goes over a stack's sideband (R481, R502): from the stack a message of link training or link management, or another; or a register access to it. -/
inductive SideMsg where
  | link
  | other
  | access (a : SideAccess)
deriving DecidableEq, Repr

/-- A flit that fails its CRC (R485): its module, the numbered flits of the message in work that have come in before it, and its 32 bytes. -/
structure BadFlit where
  mod : Nat
  good : Nat
  bytes : List Byte
deriving DecidableEq, Repr

/-- The ring whose FLASH_WRITE is performed, and whether a reset cuts the write off (R564). -/
structure FlashRun where
  ring : Nat
  cut : Bool
deriving DecidableEq, Repr

/-- An address of the flash, and whether the flash reports a failure there (R570). -/
structure FlashPlace where
  addr : Nat
  fails : Bool
deriving DecidableEq, Repr

/-- A tile that has been copied to its stand-in, and the program addresses of the instruction words found uncorrectable in the copy (R592). -/
structure SwapCopy where
  tile : Nat
  bad : List Nat
deriving DecidableEq, Repr

/-- A temperature reading (R531): the sensor's row and index, and its value in 1/8 °C. -/
structure Temp where
  row : Nat
  index : Nat
  value : Int
deriving DecidableEq, Repr

/-- What the supply survey measures (R28, R29, R45): the 12 V inputs of the slot and both connectors, 3.3 V and 3.3 Vaux in mV, and for each
connector which of SENSE1 and SENSE0 are open. -/
structure Supply where
  slot : Nat
  conn0 : Nat
  conn1 : Nat
  v33 : Nat
  vaux : Nat
  sense0 : Nat
  sense1 : Nat
deriving DecidableEq, Repr

/-- What the host has put into a function's configuration space by the time of an ATTACH (R470, R471). -/
structure PciControl where
  busMaster : Bool
  msixOn : Bool
  msixMask : Bool
deriving DecidableEq, Repr

/-- A 12 V input that returns (R47): 0 the slot's, 1 and 2 those of the connectors; and what the survey then measures. -/
structure SupplyReturn where
  input : Nat
  now : Supply
deriving DecidableEq, Repr

/-- A PLDM operation with the SMBus address that its request names (R39). -/
structure PldmOp where
  addr : Nat
  op : Nat
deriving DecidableEq, Repr

/-- An SPDM request with the SMBus address that it names (R574). -/
structure SpdmReq where
  addr : Nat
  bytes : List Byte
deriving DecidableEq, Repr

/-- Draws in 0.1 W: of the classes COMPUTE, MEMORY, UPDATE and HUB (R522), and of the slot's 12 V input and of both connectors (R31). -/
structure Draws where
  classes : List Nat
  inputs : List Nat
deriving DecidableEq, Repr

/-- The Clapper map of a job image (R247, R258): the logical tiles of each on-die channel, and the modules and local tiles of each
cross-module channel. -/
structure ClapMap where
  onDie : List (List Nat)
  modules : List (List Nat)
  tiles : List (List Nat)
deriving DecidableEq, Repr

/-- Where an error of R579 is found: a T0, T1 or T2 byte address, by a scrub or by any other read; a micro-op of a tile's instruction memory; a tile's descriptor queues or sequencer
state; the residue of a tile's array; and in hub SRAM a key-table entry, the stored copy of an unacknowledged packet of a flow, a received packet of
a port, a collective chunk or a Reel line on its way to an address, the oldest event record; a word of the update die's SRAM. -/
inductive EccPlace where
  | mem (addr : Nat)
  | read (addr : Nat)
  | imem (tile pc : Nat)
  | parity (tile : Nat)
  | residue (tile : Nat)
  | key (index : Nat)
  | packet (flow psn : Nat)
  | received (port : Nat)
  | chunk (bucket step q first pair : Nat)
  | reelLine (addr : Nat)
  | event
  | updSram (word : Nat)
deriving DecidableEq, Repr


/-- The commands: one constructor for each row of the table of operations and events, in its order. -/
inductive Instr where
  /-- REGISTER_WRITE (R8). A write to a register that has no row of its own takes effect according to its access type. -/
  | registerWrite (master : Nat) (off : Nat) (value : Nat)
  /-- CSR_BAD_ACCESS (R10). An unaligned, word-crossing or narrow register access returns zero or is ignored and raises EV_CSR_ACCESS. -/
  | csrBadAccess (master : Nat) (off : Nat) (size : Nat) (write : Bool)
  /-- LO_READ_LATCH (R14). A read of NAME_LO latches NAME_HI for the reading master. -/
  | loReadLatch (master : Nat) (off : Nat)
  /-- RWS_SHADOW_APPLY (R12). At a block's operation boundary every pending RWS shadow of the block takes effect whole in one hub cycle. -/
  | rwsShadowApply (block : Nat)
  /-- UNMAPPED_ACCESS (R4). A read of an unmapped address returns zero, a write is dropped, and EV_UNMAPPED_ACCESS is raised. -/
  | unmappedAccess (master : Nat) (addr : Nat) (write : Bool)
  /-- KEEPER_BOOT (R568). After option commit the keeper ROM selects and verifies a keeper image and keeper firmware starts. -/
  | keeperBoot (supply : Supply)
  /-- SUPPLY_SURVEY_RETRY (R46). While the ceiling is below 300 W the supply survey repeats every 1 s and the start continues when it passes. -/
  | supplySurveyRetry (supply : Supply)
  /-- SUPPLY_INPUT_OUT_OF_RANGE (R47). A 12 V input leaving range makes the keeper recompute the ceiling and lower the cap, or brown out below 300 W. -/
  | supplyInputOutOfRange (supply : Supply)
  /-- SUPPLY_INPUT_RESTORED (R47). An input back in range for 1 s raises the ceiling again. -/
  | supplyInputRestored (supply : SupplyReturn)
  /-- CAGE_SURVEY_START (R48). The cage survey starts on all five cages, reading presence and starting CMIS reads. -/
  | cageSurveyStart (present : List Bool)
  /-- CMIS_READ_DONE (R48). A cage's CMIS read completes, the power-class limit is applied and the transmitters are enabled. -/
  | cmisReadDone (cage : Nat) (media : Nat) (length : Nat) (klass : Nat) (watts : Nat)
  /-- CMIS_READ_TIMEOUT (R48). A CMIS read not complete in 100 ms is retried once, then recorded with CMIS_OK 0. -/
  | cmisReadTimeout (cage : Nat)
  /-- CAGE_SIGNAL_DETECT (R48). 100 ms after transmitter enable the per-lane signal detect is recorded. -/
  | cageSignalDetect (cage : Nat) (lanes : Nat)
  /-- MODPRSL_CHANGE (R50). A ModPrsL change restarts a survey read in progress or re-runs the cage survey and raises EV_CAGE_CHANGE. -/
  | modprslChange (cage : Nat) (present : Bool)
  /-- RESURVEY (R50). A write of IDENT_SURVEY.RESURVEY re-runs the cage survey unless one runs. -/
  | resurvey (master : Nat) (value : Nat) (present : List Bool)
  /-- AIRFLOW_REVERSED (R43). An outlet more than 2 °C colder than inlet for 60 s above 200 W raises EV_AIRFLOW_REVERSED. -/
  | airflowReversed
  /-- PLDM_REQUEST (R39). A PLDM request over MCTP on SMBus is answered with sensor readings. -/
  | pldmRequest (op : PldmOp) (arg : Nat)
  /-- GET_VERSION (R574). SPDM GET_VERSION is answered. -/
  | getVersion (req : SpdmReq)
  /-- GET_CAPABILITIES (R574). SPDM GET_CAPABILITIES is answered. -/
  | getCapabilities (req : SpdmReq)
  /-- NEGOTIATE_ALGORITHMS (R574). SPDM NEGOTIATE_ALGORITHMS is answered with P-384 and SHA-384. -/
  | negotiateAlgorithms (req : SpdmReq)
  /-- GET_DIGESTS (R574). SPDM GET_DIGESTS is answered. -/
  | getDigests (req : SpdmReq)
  /-- GET_CERTIFICATE (R574). SPDM GET_CERTIFICATE returns the certificate chain from the factory area. -/
  | getCertificate (req : SpdmReq)
  /-- CHALLENGE (R574). SPDM CHALLENGE is signed with the device key. -/
  | challenge (req : SpdmReq)
  /-- GET_MEASUREMENTS (R574). SPDM GET_MEASUREMENTS returns measurement slots 0 to 5. -/
  | getMeasurements (req : SpdmReq)
  /-- MATMUL (R232). A MATMUL micro-op copies its array descriptor into the array queue. -/
  | matmul (tile : Nat)
  /-- ARRAY_DESCRIPTOR (R161). The array takes up a descriptor and checks it, rejecting an invalid one. -/
  | arrayDescriptor (tile : Nat)
  /-- ARRAY_PREPASS_START (R137). A pre-pass held by span overlap starts once the draining descriptor writes its last row. -/
  | arrayPrepassStart (tile : Nat)
  /-- ARRAY_PREPASS_DONE (R100). The anchor pre-pass completes with the anchors and skip units, and streaming may begin. -/
  | arrayPrepassDone (tile : Nat)
  /-- ARRAY_PASS_DONE (R124). A pass's last contributions accumulate and its states are copied to the drain buffer. -/
  | arrayPassDone (tile : Nat)
  /-- OUTPUT_STAGE_DRAINED (R118). The output stage finishes rounding and writing a pass's rows once. -/
  | outputStageDrained (tile : Nat)
  /-- SPLIT_PARTIAL_RECEIVE (R113). A split-group member receives a partial record and combines it at its tree level. -/
  | splitPartialReceive (tile : Nat)
  /-- SPLIT_STALL (R114). A partial missing SPLIT_WAIT × 10 µs after the receiver's own is complete fails the descriptor. -/
  | splitStall (tile : Nat)
  /-- CHAIN (R232). A CHAIN micro-op copies its chain descriptor into the chain queue. -/
  | chain (tile : Nat)
  /-- CHAIN_DESCRIPTOR (R192). The chain takes up a descriptor, checks it and begins reading vectors. -/
  | chainDescriptor (tile : Nat)
  /-- CHAIN_INTERLOCK_START (R194). A chain descriptor held by overlap with the previous one's outputs starts after its last write. -/
  | chainInterlockStart (tile : Nat)
  /-- CHAIN_VECTOR (R187). A vector passes the six stages and is packed, setting sticky flags for active lanes. -/
  | chainVector (tile : Nat)
  /-- CHAIN_DESCRIPTOR_COMPLETE (R193). A chain descriptor writes its last line and completes. -/
  | chainDescriptorComplete (tile : Nat)
  /-- DISPATCH (R232). A DISPATCH micro-op copies its descriptor into the dispatch queue. -/
  | dispatch (tile : Nat)
  /-- BUILD (R205). BUILD judges router choices, fills placement lists, gate planes and the load vector. -/
  | build (tile : Nat)
  /-- SEAL (R213). SEAL zeroes the unfilled slots of a receive buffer from the fill records. -/
  | seal (tile : Nat)
  /-- EXPAND (R221). EXPAND turns a skip record's BLOCKS map into a row or chain mask. -/
  | expand (tile : Nat)
  /-- NOP (R235). A NOP micro-op issues and does nothing. -/
  | nop (tile : Nat)
  /-- END (R235). An END micro-op ends the tile program. -/
  | endProgram (tile : Nat)
  /-- FENCE (R242). FENCE issues once all earlier work of the named units is complete. -/
  | fence (tile : Nat)
  /-- SETIX (R236). SETIX sets or adds to an index register. -/
  | setix (tile : Nat)
  /-- MOVE_LOCAL (R239). MOVE LOCAL copies lines within the tile's scratchpad in ascending order. -/
  | moveLocal (tile : Nat)
  /-- MOVE_TO_TILE (R242). MOVE TO_TILE moves lines to another tile's scratchpad. -/
  | moveToTile (tile : Nat)
  /-- MOVE_FROM_OBJ (R275). MOVE FROM_OBJ reads object lines into the scratchpad from the selected place. -/
  | moveFromObj (tile : Nat)
  /-- MOVE_TO_OBJ (R275). MOVE TO_OBJ writes scratchpad lines into an object place. -/
  | moveToObj (tile : Nat)
  /-- LIST_OUT (R212). LIST_OUT moves a list's token rows to the placement's receive buffer and a fill record. -/
  | listOut (tile : Nat)
  /-- LIST_BACK (R212). LIST_BACK returns output rows to the source's return buffer. -/
  | listBack (tile : Nat)
  /-- MOVE_COMPLETE (R242). A move's last line is written at its destination and the move completes. -/
  | moveComplete (tile : Nat)
  /-- SEND (R242). SEND hands lines to the NRT engine as writes on a key. -/
  | send (tile : Nat)
  /-- SEND_NOTIFY (R243). SEND_NOTIFY sends lines with a WRITE_NOTIFY at the end. -/
  | sendNotify (tile : Nat)
  /-- SEND_LIST (R212). SEND_LIST sends a list's rows to a remote placement. -/
  | sendList (tile : Nat)
  /-- RECV (R231). RECV issues when its notification counter holds N and subtracts N. -/
  | recv (tile : Nat)
  /-- SIGNAL (R243). SIGNAL queues an increment for another tile's event counter. -/
  | signal (tile : Nat)
  /-- SIGNAL_DELIVER (R243). A signal is delivered after earlier moves toward the target complete. -/
  | signalDeliver (tile : Nat)
  /-- WAIT (R231). WAIT issues when its signal counter holds N and subtracts N. -/
  | wait (tile : Nat)
  /-- CLAP (R248). CLAP arrives at an on-die channel and waits for release. -/
  | clap (tile : Nat)
  /-- ARRIVE (R248). ARRIVE arrives at an on-die channel and goes on. -/
  | arrive (tile : Nat)
  /-- CLAP_WAIT (R248). CLAP_WAIT waits for the release of the tile's last arrival. -/
  | clapWait (tile : Nat)
  /-- CLAPX (R249). CLAPX arrives at a cross-module channel; the hub arrives for the module when all local participants have. -/
  | clapx (tile : Nat)
  /-- CLAPPER_TIMEOUT (R251). A Clapper wait beyond CLAP_LIMIT raises EV_CLAPPER_TIMEOUT and fails the Take or stops the job. -/
  | clapperTimeout (tile : Nat)
  /-- CUE (R244). CUE issues once every applying Reel entry is placed or resolved by its fallback. -/
  | cue (tile : Nat)
  /-- LOOP (R237). LOOP with a count from COUNT pushes a loop level. -/
  | loopCount (tile : Nat)
  /-- LOOP_IX (R237). LOOP with a count from IX[IXSEL] pushes a level, skipping the body on 0. -/
  | loopIx (tile : Nat)
  /-- SKIP_TEST (R238). SKIP TEST reads the skip record, locks it and jumps if the layer is skipped. -/
  | skipTest (tile : Nat)
  /-- SKIP_RELEASE (R219). SKIP RELEASE unlocks the micro-batch's skip record and clears its shard log. -/
  | skipRelease (tile : Nat)
  /-- SLATE_SET (R246). SLATE SET changes the tile's step, micro-batch, phase or stage. -/
  | slateSet (tile : Nat)
  /-- TAKE_BEGIN (R252). TAKE_BEGIN opens a Take and records the restart state. -/
  | takeBegin (tile : Nat)
  /-- TAKE_END (R252). TAKE_END closes the Take once its work has completed. -/
  | takeEnd (tile : Nat)
  /-- TAKE_ABORT (R255). The Take controller aborts every tile of the group after a failure. -/
  | takeAbort (tile : Nat)
  /-- STANDIN_SWAP_REACTIVE (R592). A reactive stand-in swap completes, remapping the tile and reloading its resident region. -/
  | standinSwapReactive (tile : Nat)
  /-- TAKE_REPLAY_RESUME (R255). Group tiles restore their records, raise the Take number, pass channel 15 and resume. -/
  | takeReplayResume (tile : Nat)
  /-- TILE_RUN_WRITE (R261). A write of TILE_SEQ_CTRL.RUN starts the sequencer at address 0 or stops issue and discards queued work. -/
  | tileRunWrite (master : Nat) (tile : Nat) (value : Nat)
  /-- TILE_SEQ_EC_WRITE (R265). A write of TILE_SEQ_EC sets two event counters from the next tile cycle. -/
  | tileSeqEcWrite (master : Nat) (tile : Nat) (n : Nat) (value : Nat)
  /-- REEL_RUN_WRITE (R300). A write of REEL_CTRL.RUN starts the table copy or abandons every transfer. -/
  | reelRunWrite (master : Nat) (value : Nat)
  /-- REEL_TABLE_COPY_DONE (R274). The object and Reel tables have been copied into hub SRAM and CUEs may proceed. -/
  | reelTableCopyDone
  /-- REEL_ENTRY_PLACED (R288). An entry-tile transfer places its last line. -/
  | reelEntryPlaced (entry : Nat) (tile : Nat)
  /-- REEL_DEADLINE_MISS (R292). An entry still unplaced DEADLINE µs after its cue takes its fallback. -/
  | reelDeadlineMiss (entry : Nat) (tile : Nat)
  /-- VERSIONED_READ_RESUME (R282). A versioned read waiting for its VER proceeds when VER equals its version. -/
  | versionedReadResume (flow : Bool) (n : Nat)
  /-- SLOT_B_WRITE_RELEASE (R283). A held slot B write proceeds once no open Take or read needs the old version. -/
  | slotBWriteRelease (upd : Bool) (flow : Nat)
  /-- VER_WRITE_BACK (R274). A changed VER field is written back to the T1 object table. -/
  | verWriteBack (object : Nat)
  /-- UPD_CMD (R313). An update or snapshot command enters the die's queue, or is dropped when full. -/
  | updCmd (msg : Msg)
  /-- LAYER_GRADIENT_PRESENT (R314). When all of a layer's buckets are written for the step, the die takes up its groups. -/
  | layerGradientPresent (layer : Nat) (step : Nat)
  /-- GROUP_UPDATE (R316). The die judges a group against its STEP and applies, skips or refuses the update. -/
  | groupUpdate
  /-- GROUP_UPDATE_DONE (R326). A group's masters, states, copy, replicas and mirror are written. -/
  | groupUpdateDone
  /-- GRADIENT_WRITE_RELEASE (R315). A next-step bucket write held until the update read the group proceeds. -/
  | gradientWriteRelease (bucket : Nat) (step : Nat)
  /-- SNAP_COMMAND (R332). The die takes up a SNAP command. -/
  | snapCommand
  /-- SNAP_GROUP_READ (R332). A group whose STEP equals v is read and sent to the evaluation node. -/
  | snapGroupRead
  /-- UPDT_RUN_WRITE (R336). A write of UPDT_CTRL.RUN starts command acceptance after the scratch checks, or stops it. -/
  | updtRunWrite (master : Nat) (value : Nat)
  /-- UPDT_GROUP_APPLY (R339). A write of UPDT_GROUP_CTL.APPLY sets the selected group's FROZEN flag. -/
  | updtGroupApply (master : Nat) (value : Nat)
  /-- JOIN (R346). The manager receives a JOIN and admits the job once all modules have joined and match. -/
  | join (msg : Msg)
  /-- JOIN_TIMEOUT (R346). JOINs incomplete 10 s after the manager's own raise EV_JOIN_TIMEOUT. -/
  | joinTimeout
  /-- JOIN_ACK (R346). A module receives JOIN_ACK with the starting step. -/
  | joinAck (msg : Msg)
  /-- HEARTBEAT_SEND (R364). A module sends HEARTBEAT to the manager and standby every 1 ms, or 100 µs between them. -/
  | heartbeatSend (dest : Nat)
  /-- HEARTBEAT (R364). A HEARTBEAT arrives and refreshes the sender's liveness. -/
  | heartbeat (msg : Msg)
  /-- MODULE_LOSS_TIMEOUT (R364). No message from a module for LOSS_MS makes it lost to the receiver. -/
  | moduleLossTimeout (module : Nat)
  /-- DRAINED_REPORT (R353). A module reports DRAINED once its step has no open Take, relay or bucket left. -/
  | drainedReport (step : Nat)
  /-- DRAINED (R352). The manager records a DRAINED report and may send UPD_CMD under flush. -/
  | drained (msg : Msg)
  /-- UPD_DONE_REPORT (R353). A module reports UPD_DONE once UPDT_DONE and its VERs reach t. -/
  | updDoneReport (t : Nat)
  /-- UPD_DONE (R352). The manager records an UPD_DONE report and may send commands or release channel 7. -/
  | updDone (msg : Msg)
  /-- CLAP_ARRIVE (R249). The manager records a module's arrival at a cross-module channel and releases when all have arrived. -/
  | clapArrive (msg : Msg)
  /-- CLAP_RELEASE (R351). A hub receiving a release sets COLL_STEP for channel 7 and releases its tiles. -/
  | clapRelease (msg : Msg)
  /-- JOURNAL (R365). The standby records a manager state change and acknowledges it. -/
  | journal (msg : Msg)
  /-- JOURNAL_ACK (R365). The manager acts on a change once its journal is acknowledged. -/
  | journalAck (msg : Msg)
  /-- MANAGER (R366). A MANAGER message sets the epoch and standby; a receiving manager demotes itself. -/
  | manager (msg : Msg)
  /-- HOLD (R369). On HOLD a module aborts its Takes, clears tile RUN and drops queued update commands. -/
  | hold (msg : Msg)
  /-- RESTORE (R370). On RESTORE owners roll back to step r from mirrors and rebuild version places. -/
  | restore (msg : Msg) (copies : List RestoreCopy)
  /-- RESTORED (R370). The manager records a RESTORED report. -/
  | restored (msg : Msg)
  /-- COLL_RESUME (R376). A write of COLL_CTRL.RESUME on the manager sends JOIN_ACK and releases channel 7. -/
  | collResume (master : Nat) (value : Nat)
  /-- COLL_RUN_WRITE (R379). A write of COLL_CTRL.RUN checks the bucket and replica tables and starts or stops participation. -/
  | collRunWrite (master : Nat) (value : Nat)
  /-- COLLECTIVE_STALL (R362). A child chunk absent 100 ms after the node's own is ready raises EV_COLLECTIVE_STALL. -/
  | collectiveStall (bucket : Nat) (step : Nat) (child : Nat)
  /-- PORT_SIGNAL_DETECT (R383). Signal on a DOWN port's lanes starts training. -/
  | portSignalDetect (port : Nat)
  /-- AUTONEG_RETRY (R382). A port without a common ability retries auto-negotiation every 1 s. -/
  | autonegRetry (port : Nat) (common : Bool)
  /-- PORT_UP (R383). Alignment and FEC lock bring a port UP and raise EV_PORT_UP. -/
  | portUp (port : Nat)
  /-- PORT_DOWN (R383). A port leaving UP raises EV_PORT_DOWN and its queued packets move to other paths. -/
  | portDown (port : Nat)
  /-- LINK_RETRAIN (R384). Too many uncorrectable codewords or lost alignment start a retrain. -/
  | linkRetrain (port : Nat) (corrected : Nat) (uncorrected : Nat) (markersLost : Bool)
  /-- RETRAIN (R404). A write of MAC_CTRL.RETRAIN starts a retrain. -/
  | retrain (master : Nat) (port : Nat) (value : Nat)
  /-- RETRAIN_TIMEOUT (R384). A port not back in UP within the retrain limit enters DOWN. -/
  | retrainTimeout (port : Nat)
  /-- MAC_RUN_WRITE (R404). A write of MAC_CTRL.RUN enables or disables the port. -/
  | macRunWrite (master : Nat) (port : Nat) (value : Nat)
  /-- FRAME_RECEIVE (R387). A received frame is checked and accepted or dropped under its first failing cause. -/
  | frameReceive (port : Nat) (frame : Frame)
  /-- PFC_FRAME (R390). A received PFC frame pauses the enabled priorities for its quanta. -/
  | pfcFrame (port : Nat) (mask : Nat) (quanta : List Nat) (kib : List Nat)
  /-- MGMT_QUEUE_SEND (R389). Stage firmware sends a frame through the management queue with its egress timestamp. -/
  | mgmtQueueSend (port : Nat) (frame : Frame)
  /-- LLDP_TRANSMIT (R394). The LLDP agent sends an LLDPDU every INTERVAL and on entering UP. -/
  | lldpTransmit (port : Nat)
  /-- LLDPDU_RECEIVE (R395). A partner's LLDPDU fills the topology table. -/
  | lldpduReceive (port : Nat) (mac : Nat) (cap : Option Nat) (tw : Option Nat) (ttl : Nat)
  /-- LLDP_PARTNER_EXPIRE (R395). A partner not heard for its TTL is cleared from the table. -/
  | lldpPartnerExpire (port : Nat)
  /-- TOPOLOGY_PUBLISH (R347). Stage firmware publishes the topology table and increments TOPO_GEN. -/
  | topologyPublish
  /-- PDELAY_EXCHANGE (R393). A peer-delay exchange runs, one of 16 at 1 ms intervals. -/
  | pdelayExchange (port : Nat) (answer : Option Int)
  /-- PTP_LOST (R392). No Sync for 2 s raises EV_PTP_LOST. -/
  | ptpLost (port : Nat)
  /-- STEP_DOWN_REQUEST (R399). A port under 10 % use for 200 windows requests a step down. -/
  | stepDownRequest (port : Nat)
  /-- STEP_UP_REQUEST (R399). Backlog or utilisation makes a stepped port request a step up. -/
  | stepUpRequest (port : Nat)
  /-- STEP_TLV (R400). A received step request or acknowledgement TLV is answered or accepted. -/
  | stepTlv (port : Nat) (ack : Bool) (up : Bool) (target : Nat)
  /-- STEP_SPEED_CHANGE (R400). 100 µs after the acknowledgement both ends change speed. -/
  | stepSpeedChange (port : Nat)
  /-- STEP_SPEED_UP (R401). A stepped port realigns, returns to UP and releases its held queue. -/
  | stepSpeedUp (port : Nat)
  /-- STEP_REQUEST_ABANDON (R400). A step request unanswered for 10 ms is abandoned. -/
  | stepRequestAbandon (port : Nat)
  /-- LPI_ENTER (R402). A transmit side idle for LPI_IDLE µs signals LPI. -/
  | lpiEnter (port : Nat) (partner : Bool)
  /-- LPI_WAKE (R402). A frame queued during LPI wakes the port and waits the wake time. -/
  | lpiWake (port : Nat) (partner : Bool)
  /-- WRITE (R421). An NRT WRITE is admitted and written, or refused with a NAK. -/
  | write (pkt : Packet)
  /-- WRITE_NOTIFY (R434). A WRITE_NOTIFY's data is written and its notification held until lower PSNs are placed. -/
  | writeNotify (pkt : Packet)
  /-- READ_REQ (R438). A READ_REQ is admitted and answered with READ_RESP packets. -/
  | readReq (pkt : Packet)
  /-- READ_RESP (R438). A READ_RESP is admitted against RESP_KEY and written at the requester. -/
  | readResp (pkt : Packet)
  /-- ACK (R430). A received ACK acknowledges PSNs and may trigger reorder retransmission and rate cuts. -/
  | ack (pkt : Packet)
  /-- NAK (R422). A received NAK places a final PSN and raises EV_NRT_REMOTE_FAULT, or schedules a retry. -/
  | nak (pkt : Packet)
  /-- MGMT (R415). A MGMT packet delivers one management message. -/
  | mgmt (pkt : Packet)
  /-- NOTIFICATION_DELIVER (R433). A held notification is delivered to its target once every lower PSN is placed. -/
  | notificationDeliver (flow : Nat)
  /-- ACK_SEND (R430). A receiver sends an ACK after ACK_PKTS placements or ACK_US µs. -/
  | ackSend (flow : Nat)
  /-- PACKET_TRANSMIT (R427). A sender transmits a PSN within its window on the chosen path at its rate. -/
  | packetTransmit (turn : Transmit)
  /-- RTO_RETRANSMIT (R431). An unacknowledged PSN past its timeout is retransmitted. -/
  | rtoRetransmit (flow : Nat) (psn : Nat)
  /-- NAK_RETRY (R422). A PSN refused with a retry-class NAK is sent again after RETRY_US. -/
  | nakRetry (flow : Nat) (psn : Nat)
  /-- FLOW_FAIL (R432). A flow whose retransmissions or paths run out fails and raises EV_NRT_FLOW_FAILED. -/
  | flowFail (flow : Nat)
  /-- RATE_PERIOD (R442). Each CUT_US period without CE marks raises the flow's rate. -/
  | ratePeriod (flow : Nat)
  /-- RING_FULL_TIMEOUT (R436). A ring full for 1 ms raises EV_NRT_RING_FULL. -/
  | ringFullTimeout (ring : Nat)
  /-- KEY_INSTALL (R420). KEYT_CMD INSTALL makes the staged entry VALID, or is refused. -/
  | keyInstall (master : Nat) (value : Nat)
  /-- KEY_REVOKE (R440). KEYT_CMD REVOKE makes the entry REVOKING and refuses new accesses. -/
  | keyRevoke (master : Nat) (value : Nat)
  /-- KEY_CLEAR (R420). KEYT_CMD CLEAR sets every entry FREE with GEN 0. -/
  | keyClear (master : Nat) (value : Nat)
  /-- KEY_RETIRE (R440). A revoking entry whose INUSE reaches 0 becomes FREE and raises EV_KEY_REVOKED. -/
  | keyRetire (index : Nat)
  /-- KEY_REVOKE_SLOW (R440). INUSE still above 0 after 10 ms raises EV_KEY_REVOKE_SLOW. -/
  | keyRevokeSlow (index : Nat)
  /-- FLOW_INSTALL (R424). NRT_FLOW_SEL.INSTALL installs a flow record and makes the context ACTIVE. -/
  | flowInstall (master : Nat) (value : Nat)
  /-- FLOW_RESET (R432). NRT_FLOW_SEL.RESET raises the epoch and clears both PSN spaces. -/
  | flowReset (master : Nat) (value : Nat)
  /-- NRT_RUN_WRITE (R445). A write of NRT_CTRL.RUN checks the bases and starts or stops the engine. -/
  | nrtRunWrite (master : Nat) (value : Nat)
  /-- HOST_NOP (R464). Host command NOP completes. -/
  | hostNop (fn : Nat) (ring : Nat)
  /-- LOAD_JOB (R464). Host command LOAD_JOB checks and loads a job image. -/
  | loadJob (fn : Nat) (ring : Nat) (clap : ClapMap)
  /-- START_JOB (R464). Host command START_JOB sets unit RUN bits and sends JOIN. -/
  | startJob (fn : Nat) (ring : Nat)
  /-- STOP_JOB (R464). Host command STOP_JOB clears every RUN bit. -/
  | stopJob (fn : Nat) (ring : Nat)
  /-- QUERY (R464). Host command QUERY returns job state, role and steps. -/
  | query (fn : Nat) (ring : Nat)
  /-- SNAPSHOT (R464). Host command SNAPSHOT has the manager send SNAP commands to every module. -/
  | snapshot (fn : Nat) (ring : Nat)
  /-- FLASH_WRITE (R564). Host command FLASH_WRITE writes flash under keeper control, refusing forbidden regions. -/
  | flashWrite (fn : Nat) (run : FlashRun)
  /-- DETACH (R464). Host command DETACH ends the epoch after its completion. -/
  | detach (fn : Nat) (ring : Nat)
  /-- SQ_DOORBELL (R467). An SQ doorbell sets the ring tail or is dropped as stale or invalid. -/
  | sqDoorbell (master : Nat) (fn : Nat) (ring : Nat) (value : Nat)
  /-- SQ_ENTRY_READ (R468). The module reads a submission entry and performs it if current. -/
  | sqEntryRead (fn : Nat) (ring : Nat) (entry : List Byte)
  /-- SQ_ENTRY_REREAD (R468). A non-current entry is re-read every 1 µs, stalling the ring after 16 tries. -/
  | sqEntryReread (fn : Nat) (ring : Nat) (entry : List Byte)
  /-- CQ_DOORBELL (R469). A CQ doorbell frees completion entries. -/
  | cqDoorbell (master : Nat) (fn : Nat) (ring : Nat) (value : Nat)
  /-- CQ_FULL_TIMEOUT (R469). A completion ring full for 1 s raises EV_HOST_CQ_FULL. -/
  | cqFullTimeout (fn : Nat) (ring : Nat)
  /-- EVR_HEAD_WRITE (R467). An event-ring head write frees event records. -/
  | evrHeadWrite (master : Nat) (fn : Nat) (value : Nat)
  /-- INTERRUPT_COALESCE (R470). COAL_US after an unsignalled completion the ring sends its MSI-X vector. -/
  | interruptCoalesce (fn : Nat) (ring : Nat)
  /-- ATTACH (R471). A write of FN_CTRL.ATTACH checks the rings and attaches with a new epoch. -/
  | attach (master : Nat) (fn : Nat) (value : Nat) (pci : PciControl) (numVfs : Nat)
  /-- FN_DETACH_WRITE (R472). A write of FN_CTRL.DETACH detaches the function. -/
  | fnDetachWrite (master : Nat) (fn : Nat) (value : Nat)
  /-- FN_LIVE (R471). A write of FN_LIVE renews the function's liveness. -/
  | fnLive (master : Nat) (fn : Nat) (value : Nat)
  /-- LIVE_EXPIRE (R472). No FN_LIVE write for LIVE_MS detaches the function and rewrites its backlog. -/
  | liveExpire (fn : Nat)
  /-- BUS_MASTER_CLEAR (R472). Clearing bus mastering detaches the function. -/
  | busMasterClear (fn : Nat)
  /-- DMA_ERROR (R472). A DMA request answered UR or CA detaches the function. -/
  | dmaError (fn : Nat)
  /-- PERST (R474). PERST#, hot reset or link down resets the PCIe controller and detaches every function. -/
  | perst
  /-- FLR_PF (R474). An FLR of the physical function resets it and every virtual function. -/
  | flrPf
  /-- FLR_VF (R474). An FLR of a virtual function resets that function only. -/
  | flrVf (fn : Nat)
  /-- PCIE_LINK_UP (R451). The PCIe link trains; a narrow link raises EV_HOST_LINK_DEGRADED. -/
  | pcieLinkUp (rate : Nat) (width : Nat)
  /-- BAR2_ACCESS (R457). A BAR2 access is mapped through its aperture to T1 or T2. -/
  | bar2Access (fn : Nat) (aperture : Nat) (offset : Nat) (length : Nat) (data : Option (List Byte))
  /-- FLIT_CRC_FAIL (R485). A flit failing its CRC is discarded and REPLAY is sent. -/
  | flitCrcFail (flit : BadFlit)
  /-- LINK_ACK (R485). A Craxis ACK releases acknowledged flits from the retry buffer. -/
  | linkAck (mod : Nat) (seq : Nat)
  /-- LINK_REPLAY (R485). A Craxis REPLAY resends flits from its number, retraining at REPLAY_LIMIT. -/
  | linkReplay (mod : Nat) (seq : Nat)
  /-- CRAXIS_ACK_SEND (R485). The receiver sends an ACK per 32 flits or within 16 ns. -/
  | craxisAckSend (mod : Nat)
  /-- REPLAY_REPEAT (R485). A waiting receiver repeats REPLAY every 32 ns. -/
  | replayRepeat (mod : Nat)
  /-- RD (R487). An RD request reads up to 8 line pairs. -/
  | rd (out : Bool) (via : Nat) (msg : CxMsg)
  /-- RD_LINE (R487). An RD_LINE request reads one line. -/
  | rdLine (out : Bool) (via : Nat) (msg : CxMsg)
  /-- FLUSH (R490). FLUSH completes once earlier posted writes of its master are performed. -/
  | flush (out : Bool) (via : Nat) (msg : CxMsg)
  /-- CSR_RD (R487). A CSR_RD reads a register on the far die. -/
  | csrRd (out : Bool) (via : Nat) (msg : CxMsg)
  /-- WR (R487). A WR writes up to 8 line pairs. -/
  | wr (out : Bool) (via : Nat) (msg : CxMsg)
  /-- WR_LINE (R487). A WR_LINE writes one line. -/
  | wrLine (out : Bool) (via : Nat) (msg : CxMsg)
  /-- CSR_WR (R487). A CSR_WR writes a register on the far die. -/
  | csrWr (out : Bool) (via : Nat) (msg : CxMsg)
  /-- RD_DATA (R487). RD_DATA returns read data, possibly poisoned. -/
  | rdData (out : Bool) (via : Nat) (msg : CxMsg)
  /-- CSR_DATA (R487). CSR_DATA returns register data. -/
  | csrData (out : Bool) (via : Nat) (msg : CxMsg)
  /-- CMPL (R487). CMPL completes a FLUSH. -/
  | cmpl (out : Bool) (via : Nat) (msg : CxMsg)
  /-- CAP (R499). A CAP message exchanges die, revision, credits and the applied lane plan. -/
  | cap (out : Bool) (via : Nat) (msg : CxMsg)
  /-- ERR (R487). An ERR message reports an error from the far die. -/
  | err (mod : Nat) (msg : CxMsg) (addr : Nat) (ue : Bool)
  /-- FIREWALL_TIMEOUT (R502). A request to a stack unanswered TIMEOUT µs is a TIMEOUT violation. -/
  | firewallTimeout (stack : Nat) (tag : Nat)
  /-- PWR (R537). A PWR message carries a report, limit or alert. -/
  | pwr (out : Bool) (via : Nat) (msg : CxMsg)
  /-- RESET_NOTE (R552). A RESET_NOTE announces a reset or reports a die READY. -/
  | resetNote (out : Bool) (via : Nat) (msg : CxMsg)
  /-- MODULE_TRAINED (R494). A Craxis module completes training, lane plan, CAP and credits and becomes ACTIVE. -/
  | moduleTrained (mod : Nat) (hubFail : Nat) (farFail : Nat) (cap : List Byte)
  /-- TRAINING_TIMEOUT (R494). A module not ACTIVE in 1 ms retries once, then goes OUT. -/
  | trainingTimeout (mod : Nat)
  /-- LANE_FAULT (R497). A PHY lane fault starts a module retrain. -/
  | laneFault (mod : Nat)
  /-- RECALIBRATION (R497). Every CAL_MS a module is retrained as recalibration. -/
  | recalibration (mod : Nat)
  /-- CRAXIS_RETRAIN_DONE (R497). A retrain completes with a new plan and replays from the last acknowledged flit. -/
  | craxisRetrainDone (mod : Nat) (hubFail : Nat) (farFail : Nat)
  /-- INTERLEAVE_REBUILD_DONE (R493). The rebuild finishes and the link resumes. -/
  | interleaveRebuildDone (link : Nat)
  /-- FAR_DIE_RESET_ENTER (R498). A far die entering reset poisons its outstanding reads and drops its writes. -/
  | farDieResetEnter (die : Nat)
  /-- FAR_DIE_RESET_RELEASE (R498). A far die's reset release starts bring-up with the BAD record. -/
  | farDieResetRelease (die : Nat)
  /-- RELEARN (R506). A write of RELEARN clears the BAD records and retrains modules one at a time. -/
  | relearn (master : Nat) (link : Nat) (value : Nat)
  /-- POWER_CONTROL_TICK (R522). Every 10 µs the controller forms measured and estimated power. -/
  | powerControlTick (m : Nat) (e : Nat) (draws : Draws)
  /-- SENSOR_RECOVER (R523). 1 s of plausible samples recovers the sensor. -/
  | sensorRecover
  /-- POWER_MODEL_DIVERGENCE (R524). Divergence beyond 15 % for 1 ms raises EV_POWER_MODEL_DIVERGENCE. -/
  | powerModelDivergence
  /-- DIVERGENCE_CLEAR (R524). Agreement for 10 ms ends divergence handling. -/
  | divergenceClear
  /-- COMPUTE_POINT_LOWER (R519). COMPUTE over its budget lowers tile group points one per 100 µs. -/
  | computePointLower (group : Nat)
  /-- COMPUTE_POINT_RAISE (R519). A fitting estimate raises a group one point per 1 ms. -/
  | computePointRaise (group : Nat)
  /-- POINT_CHANGE_DONE (R513). A group's voltage and frequency change completes. -/
  | pointChangeDone (group : Nat)
  /-- RECAL (R525). A write of PWRM_CTRL.RECAL restarts learning from an empty table. -/
  | recal (master : Nat) (value : Nat)
  /-- POWER_FRAC_WRITE (R541). A PWRM_FRAC write summing above 128 is ignored and raises EV_POWER_CONFIG. -/
  | powerFracWrite (master : Nat) (value : Nat)
  /-- DROOP_DETECT (R526). A rail below threshold stretches the group clock to half frequency. -/
  | droopDetect (group : Nat)
  /-- DROOP_STRETCH_END (R526). 64 tile cycles above threshold end the stretch. -/
  | droopStretchEnd (group : Nat)
  /-- DROOP_PERSISTENT (R527). Over 10 % stretched cycles in 1 ms lowers the group and raises EV_DROOP_PERSISTENT. -/
  | droopPersistent (group : Nat)
  /-- THERMAL_SAMPLE (R531). Every 100 µs the module reads its temperature sensors. -/
  | thermalSample (temps : List Temp)
  /-- THERMAL_THROTTLE (R532). A sensor above throttle holds back its domain once per 1 ms. -/
  | thermalThrottle (row : Nat) (index : Nat)
  /-- THERMAL_RECOVER (R532). A sensor 3 °C below throttle recovers its domain once per 10 ms. -/
  | thermalRecover (row : Nat) (index : Nat)
  /-- PWR_REPORT_OVERDUE (R531). A PWR report 1 ms overdue counts its sensor at throttle. -/
  | pwrReportOverdue (row : Nat) (index : Nat)
  /-- THERMAL_TRIP (R534). A trip threshold asserts thermal trip reset within 1 ms. -/
  | thermalTrip (row : Nat) (index : Nat)
  /-- TILE_RETAIN (R510). A tile whose RUN has been clear 100 µs goes to RETAIN. -/
  | tileRetain (tile : Nat)
  /-- TILE_WAKE (R510). A tile completes its wake to ON with check bits initialised and poison cleared. -/
  | tileWake (tile : Nat)
  /-- TILE_GROUP_PLL_STOP (R512). A group with no tile ON or RETAIN for 1 ms stops its PLL. -/
  | tileGroupPllStop (group : Nat)
  /-- HOUR_RECORD (R516). The keeper writes the operating-hour count to flash every 24 h. -/
  | hourRecord (hours : Nat)
  /-- CLKG_STEP_WRITE (R514). A write of CLKG_STEP steps the time counter, slowing for negative steps. -/
  | clkgStepWrite (master : Nat) (value : Nat)
  /-- CLKG_TRIM_WRITE (R514). A write of CLKG_TRIM changes the time counter rate from the next edge. -/
  | clkgTrimWrite (master : Nat) (value : Nat)
  /-- POWER_ON (R548). 3.3 V rising after both were absent asserts power-on reset. -/
  | powerOn
  /-- BROWNOUT (R548). A brownout asserts a FULL reset. -/
  | brownout
  /-- NRESET (R548). nRESET low for 10 µs asserts a FULL reset. -/
  | nreset
  /-- KEEPER_WATCHDOG (R548). No RSTC_WDOG write for 100 ms asserts a FULL reset. -/
  | keeperWatchdog
  /-- KEEPER_WDOG_KICK (R576). A keeper write of RSTC_WDOG restarts the watchdog. -/
  | keeperWdogKick (master : Nat) (value : Nat)
  /-- DEVICE_RESET (R576). RSTC_CTRL.DEVICE_RESET with the key asserts a CSR device reset. -/
  | deviceReset (master : Nat) (value : Nat)
  /-- TWIN_REQ (R553). RSTC_CTRL.TWIN_REQ with the key sends the twin reset TLV. -/
  | twinReq (master : Nat) (value : Nat)
  /-- TWIN_REQ_REPEAT (R553). The twin reset TLV is sent again at 1 ms intervals, three times in all. -/
  | twinReqRepeat
  /-- TWIN_RESET_REQUEST (R553). A received twin reset TLV is accepted as a reset or refused. -/
  | twinResetRequest (pair : Nat) (job : Nat)
  /-- READY (R556). RSTC_CTRL.READY from stage firmware makes the start RUNNING. -/
  | ready (master : Nat) (value : Nat)
  /-- START_FAILURE (R556). A start not RUNNING 2 s after release ends in a start-failure reset. -/
  | startFailure
  /-- RESET_INTERVAL_END (R550). The release that ends a reset interval begins the start of its widest reach. -/
  | resetIntervalEnd (source : Nat)
  /-- DIE_RELEASE (R554). The hub releases the next die once the previous link is ACTIVE. -/
  | dieRelease (die : Nat)
  /-- THERMAL_WAIT_END (R555). After 10 s and a cool hub the start leaves THERMAL_WAIT. -/
  | thermalWaitEnd
  /-- STAGE_BOOT (R554). The keeper verifies the stage image and loads the management cores. -/
  | stageBoot
  /-- BLOCK_RESET_UPD (R558). RSTC_BLOCK.UPD resets the update die. -/
  | blockResetUpd (master : Nat) (value : Nat)
  /-- BLOCK_RESET_STACK (R558). RSTC_BLOCK.STK resets a memory stack. -/
  | blockResetStack (master : Nat) (value : Nat)
  /-- BLOCK_RESET_FIELD (R558). RSTC_BLOCK.FLD resets a compute field. -/
  | blockResetField (master : Nat) (value : Nat)
  /-- BLOCK_RESET_MGMT (R571). RSTC_BLOCK.MGMT restarts stage firmware. -/
  | blockResetMgmt (master : Nat) (value : Nat)
  /-- BLOCK_RESET_DONE (R558). A reset block is back and its bit reads 0. -/
  | blockResetDone (bit : Nat)
  /-- STAGE_WDOG_KICK (R571). A stage firmware write of RSTC_STAGE_WDOG restarts its watchdog. -/
  | stageWdogKick (master : Nat) (value : Nat)
  /-- STAGE_WATCHDOG (R571). No kick for STAGE_WDOG_MS makes the keeper restart stage firmware. -/
  | stageWatchdog
  /-- STAGE_RESTART_DONE (R571). Restarted stage firmware writes READY and held events are delivered. -/
  | stageRestartDone (master : Nat) (value : Nat)
  /-- RECOVERY_READ (R570). Recovery READ copies flash into the buffer. -/
  | recoveryRead (addr : Nat) (len : Nat)
  /-- RECOVERY_ERASE (R570). Recovery ERASE erases a 64 KiB sector. -/
  | recoveryErase (place : FlashPlace)
  /-- RECOVERY_PROGRAM (R570). Recovery PROGRAM writes LEN bytes from the buffer. -/
  | recoveryProgram (place : FlashPlace) (len : Nat) (data : List Byte)
  /-- RECOVERY_EXIT (R570). Recovery EXIT writes a CLEAR record and asserts a start-failure reset. -/
  | recoveryExit
  /-- SCRUB_STEP (R595). Background scrub reads a line or burst and corrects or poisons it. -/
  | scrubStep (place : EccPlace) (error : Nat) (raced : Bool)
  /-- DRAM_ROW_REPAIR (R594). A T1 row repair completes its bank hold and soft repair. -/
  | dramRowRepair (addr : Nat) (bad : List Nat)
  /-- BACKGROUND_FORCED (R595). Background work past its deferral limit takes its forced slot. -/
  | backgroundForced (kind : Nat)
  /-- PLANNED_SWAP_REQUEST (R592). RAS_SWAP.REQUEST arms a planned swap of a tile. -/
  | plannedSwapRequest (master : Nat) (value : Nat)
  /-- PLANNED_SWAP_COMPLETE (R592). A planned swap remaps the tile and sends the withheld arrival. -/
  | plannedSwapComplete (copy : SwapCopy)
  /-- EVENT_RING_WRITE (R588). The hub writes an event record to the module event ring. -/
  | eventRingWrite
  /-- EVENT_RING_COPY (R589). Stage firmware copies an event record to entitled function rings. -/
  | eventRingCopy
  /-- DAILIES_TICK (R616). Every PERIOD the dailies tick latches every counter. -/
  | dailiesTick
  /-- DAILIES_RECORD_WRITE (R617). A stream's record is written to its ring and PROD advanced. -/
  | dailiesRecordWrite (stream : Nat)
  /-- DLY_ENABLE_WRITE (R632). A write of DLY_CTRL.ENABLE starts a stream with SEQ and PROD at 0, or fails on a bad base. -/
  | dlyEnableWrite (master : Nat) (stream : Nat) (value : Nat)
  /-- BW_WINDOW_END (R615). At each window end a monitor updates LAST, MIN, MAX and COUNT. -/
  | bwWindowEnd
  /-- BW_WINDOW_WRITE (R615). A write of WINDOW restarts every monitor at the next whole window. -/
  | bwWindowWrite (master : Nat) (value : Nat)
  /-- SAMPLE_WRITE (R624). A completed or aborted sample is written to the tile's buffer. -/
  | sampleWrite (tile : Nat)
  /-- POWER_LOSS (R548). 3.3 V and 3.3 Vaux both fall away and the whole module, its retained state included, loses power. -/
  | powerLoss
  /-- PORT_SIGNAL_LOST (R383). Signal vanishes from the lanes of a port in TRAINING or RETRAIN and the port enters DOWN. -/
  | portSignalLost (port : Nat)
  /-- PFC_PAUSE_EXPIRE (R390). The pause quanta received for a priority run out and frames of that PCP may be transmitted again. -/
  | pfcPauseExpire (port : Nat) (prio : Nat) (kib : List Nat)
  /-- ROOM_TONE_LEVEL_ZERO (R528). A tile's room-tone filler level falls to 0 after ROOM_US and room tone ends without a release. -/
  | roomToneLevelZero (tile : Nat)
  /-- NEGATIVE_STEP_ABSORBED (R514). The time counter, running at half rate after a negative step, has absorbed the step and returns to its trimmed rate. -/
  | negativeStepAbsorbed
  /-- SIDEBAND_MESSAGE (R502). A sideband message arrives from a memory stack and the hub firewall judges it under class SIDEBAND; or
  a register access goes to the stack. -/
  | sidebandMessage (stack : Nat) (msg : SideMsg)
  /-- CREDIT_RETURN (R491). A flit's LCTL returns CREDITS for a channel and a sender held for want of credits may send its message. -/
  | creditReturn (mod : Nat) (vc : Nat) (flits : Nat)
deriving DecidableEq, Repr

end Sys2Proof
end

