-- ==== Sys2Proof/Config.lean ====
section
/-! DEFINITION. What the spec leaves open and the model leaves free: constants without a body, so that nothing proved of the
model rests on a value of theirs. Each is named in the assumption log. -/

namespace Sys2Proof

/-- The byte at address `a` of memory whose content the spec calls undefined (R255, R288, R510, R558, R559):
one free value for each time (`epoch`) that a range became undefined. -/
opaque Config.freeByte (epoch a : Nat) : Byte

/-- The micro-op at an address of a tile's instruction memory that nothing has written since its last wake from OFF (R510). -/
opaque Config.freeUop (tile wakes addr : Nat) : W64

/-- A fresh free value for each use: the step counts the uses in `State.freeCount`. -/
opaque Config.freeValue (use : Nat) : Nat

/-- The index that the source of an event carries when the hub raises it for no unit that has a master code (R585). -/
opaque Config.hubIndex : Nat

/-- The SHA-384 digest of a byte string, as 48 bytes in digest order: the spec names the function and its own standard. -/
opaque Config.sha384 (bytes : List Byte) : List Byte

/-- Does an ECDSA P-384 signature verify over a digest under the key with the given hash (R560, R568)? -/
opaque Config.ecdsaVerifies (keyHash digest signature : List Byte) : Bool

/-- The module's signature over a SPDM transcript (R574). -/
opaque Config.spdmSign (transcript : List Byte) : List Byte

/-- The module's own random nonce for the n-th SPDM answer that carries one (R574). -/
opaque Config.spdmNonce (n : Nat) : List Byte

/-- The bytes of the flash as the module is delivered (R564), and of the signer key's hash fused at test (R561). -/
opaque Config.flashByte (a : Nat) : Byte

/-- A byte of the flash in a range whose write or erase was cut off (R564, R570), one for each time. -/
opaque Config.tornByte (use a : Nat) : Byte
opaque Config.fusedKeyHash : List Byte

/-- Fused values: the minimum die revisions of TW6C, TW6U and the stacks, the minimum image versions of keeper and stage (R562), the die revision of the
hub and its credits (R499), the operating-hour thresholds H1 and H2 (R516), and the calibrated latency of a port at a speed in 1/16 ns (R392, R411). -/
opaque Config.fusedRevC : Nat
opaque Config.fusedRevU : Nat
opaque Config.fusedRevStack : Nat

/-- The three in the places of OPTS_MIN_REV. -/
def Config.fusedMinRev : Nat := Config.fusedRevC % 256 + Config.fusedRevU % 256 * 256 + Config.fusedRevStack % 256 * 65536
opaque Config.fusedKeeperVersion : Nat
opaque Config.fusedStageVersion : Nat
opaque Config.dieRev : Nat
opaque Config.credits (vc : Nat) : Nat
opaque Config.hours1 : Nat
opaque Config.hours2 : Nat
opaque Config.ptpLatency (port speed : Nat) : Nat

/-- The transmit wake time of a port in ns (R402), the SPARE map that CAP byte 14 gives for the lanes replaced by S0 and S1 (R499), and how many repair rows
a stack has (R590). -/
opaque Config.wakeTime (port : Nat) : Nat
opaque Config.spareMap (spare0 spare1 : Nat) : Nat
opaque Config.repairRows (stack : Nat) : Nat

/-- The row of a stack's DRAM that a T1 burst lies in, by the burst's number: the spec does not give the rows' places (R590). -/
opaque Config.t1Row (burst : Nat) : Nat

/-- The unit that the detail of EV_ECC_UNCORRECTED names for an SRAM, and its width: no field defines them (R580, R584). Units: 0 T0, 1 instruction memory, 2
descriptor queues and sequencer state, 3 accumulators, 4 the key table, 5 packet buffers, 6 collective buffers, 7 Reel buffers, 8 the event buffer, 9 the
update die's. -/
opaque Config.sramUnit (unit : Nat) : Nat
opaque Config.sramUnitBits : Nat

/-- Has stage firmware parked a management core at a time (R511)? No command parks one: it is the firmware's own decision. -/
opaque Config.coreParked (core time : Nat) : Bool

/-- The voltage tables fused at test (R515), in mV: of a tile group at a point, of the hub and of the update die, each in an age column. The spec gives no values. -/
opaque Config.groupMv (group point column : Nat) : Nat
opaque Config.hubMv (column : Nat) : Nat
opaque Config.updMv (column : Nat) : Nat

/-- The estimate of COMPUTE in 0.1 W with one group at a point and its voltage, from the present draw (R519). -/
opaque Config.nextEstimate (group point mv draw : Nat) : Nat

/-- The share in 1/256 that a class is held to next, by its draw, its budget and its share in force (R519): class 0 is MEMORY, 1 UPDATE. -/
opaque Config.nextShare (cls draw budget share : Nat) : Nat

/-- The reticle field nearest to a TW6H junction sensor (R532), and the row of R531 and the index of the sensor that a PWR message of TW6U names (R537). -/
opaque Config.hubField (sensor : Nat) : Nat
opaque Config.updSensor (sensor : Nat) : Nat

/-- The answers of R574 for which the spec points to another standard: the bytes answered to a request after a transcript. -/
opaque Config.spdmAnswer (request transcript : List Byte) : List Byte

/-- Resuisk's vendor ID, which R452 takes from the IDENT block: no rule gives its value or its offset there. -/
opaque Config.vendorId : BitVec 16

/-- The device certificate chain as it lies in the factory area's bytes (R574). -/
opaque Config.spdmChain (factory : List Byte) : List Byte

/-! The geometry of list-driven transfers (R212): the spec names the buffers and gives no place that holds where they lie. `kind` is 0 for
the source's token tensor, 1 for a placement's receive buffer, 2 for its output buffer, 3 for the source's return buffer; p is the list. -/

/-- The first scratchpad line of a stored row, and the lines of a row. -/
opaque Config.listLine (kind p row : Nat) : Nat
opaque Config.listRowLines (p : Nat) : Nat

/-- The byte offset of a row's scale bytes in their plane, and their number. -/
opaque Config.listScale (kind p row : Nat) : Nat
opaque Config.listScaleBytes (p : Nat) : Nat

/-- The byte offset of the fill counts in the receiving scratchpad. -/
opaque Config.listFill (p : Nat) : Nat

/-- The first line of the resident region that section number k of the image brings for a logical tile (R258): the section table gives its
bytes and no line. -/
opaque Config.residentLine (tile k : Nat) : Nat

/-- The flow, the key and the byte offset of a row in a placement's receive buffer on another module. -/
opaque Config.listFlow (p : Nat) : Nat
opaque Config.listKey (p : Nat) : Nat
opaque Config.listOffset (p row : Nat) : Nat

end Sys2Proof
end

