-- ==== Sys2Proof/Machine/Store.lean ====
section
/-! DEFINITION. Sparse data by key: a list of key and value pairs in one canonical form (keys strictly rising, no entry
equal to what an unlisted key reads as), so that equal stores are equal lists. -/

namespace Sys2Proof.Machine

/-- A sparse map from keys to values. -/
abbrev Store (α : Type) := List (Nat × α)

/-- What key `k` reads as; an unlisted key reads as `d k`. -/
def Store.get {α : Type} (d : Nat → α) : Store α → Nat → α
  | [], k => d k
  | (j, v) :: t, k => if k = j then v else if k < j then d k else Store.get d t k

/-- Write `v` at key `k`, keeping the canonical form. -/
def Store.set {α : Type} [DecidableEq α] (d : Nat → α) : Store α → Nat → α → Store α
  | [], k, v => if v = d k then [] else [(k, v)]
  | (j, w) :: t, k, v =>
    if k = j then (if v = d k then t else (k, v) :: t)
    else if k < j then (if v = d k then (j, w) :: t else (k, v) :: (j, w) :: t)
    else (j, w) :: Store.set d t k v

/-- Change the value at key `k` by `f`. -/
def Store.update {α : Type} [DecidableEq α] (d : Nat → α) (l : Store α) (k : Nat) (f : α → α) : Store α :=
  Store.set d l k (f (Store.get d l k))

/-- Drop every entry whose key satisfies `p`. -/
def Store.drop {α : Type} (l : Store α) (p : Nat → Bool) : Store α :=
  l.filter (fun e => !p e.1)

/-- Every key of the list is above `k`. -/
def Store.above {α : Type} (k : Nat) : Store α → Bool
  | [] => true
  | (j, _) :: t => decide (k < j) && Store.above k t

/-- The canonical form: keys strictly rising, and no entry equal to what its key reads as unlisted. -/
def Store.wf {α : Type} [DecidableEq α] (d : Nat → α) : Store α → Bool
  | [] => true
  | (k, v) :: t => decide (v ≠ d k) && Store.above k t && Store.wf d t

end Sys2Proof.Machine
end

