-- ==== Sys2Proof/Machine/CollState.lean ====
section
/-! DEFINITION. What the collective engine and the manager logic hold (R343 to R371): management messages, the manager's state with its
journal, Clapper generations, shard generations, and the buckets in work. -/

namespace Sys2Proof.Machine

/-- A JOIN as the manager recorded it (R346). -/
structure JoinRec where
  module : Nat
  jobId : Nat
  digest : Nat
  pair : Nat
  rejoin : Bool
deriving DecidableEq, Repr

/-- The changes of the manager's state that the journal carries (R365). -/
inductive Change where
  | stepOpened (chan gen step : Nat)
  | released (chan gen : Nat)
  | updSent (t : Nat)
  | reportDrained (module step : Nat)
  | reportUpdDone (module t : Nat)
  | arrived (module chan gen : Nat)
  | joined (j : JoinRec)
  | admitted (s0 : Nat)
  | hold (lost : Nat)
  | restore (r : Nat)
  | restored (module r : Nat)
deriving DecidableEq, Repr

/-- The manager's state, and on the standby the copy that the journal has built. -/
structure Mgr where
  joins : List JoinRec
  admitted : Bool
  s0 : Nat
  opened : Option Nat
  updSent : List Nat
  drained : List (Nat × Nat)
  updDone : List (Nat × Nat)
  arrivals : List (Nat × Nat × Nat)
  released : List (Nat × Nat)
  held : Bool
  restore : Option Nat
  restored : List Nat
  lost : List Nat
  standby : Option Nat
deriving DecidableEq, Repr

/-- A manager that has recorded nothing. -/
def Mgr.empty : Mgr :=
  { joins := [], admitted := false, s0 := 0, opened := none, updSent := [], drained := [], updDone := [], arrivals := [], released := []
    held := false, restore := none, restored := [], lost := [], standby := none }

/-- An entry of the bucket table (R357). -/
structure Bucket where
  layer : Nat
  rgroup : Nat
  gobj : Nat
  dobj : Nat
  off : Nat
  lpairs : Nat
  owner : Nat
  all : Bool
  flow : Nat
  resv : Bool
deriving DecidableEq, Repr

/-- An entry of the replica-group table (R358): the module of each member, by replica index, and its collective receive key. -/
structure RGroup where
  members : List Nat
  keys : List Nat
deriving DecidableEq, Repr

/-- A chunk received from a member for a bucket and step: the sender's tree position, its first line pair in the bucket, its line pairs (none for an
elided one); `down` marks a sum on its way down under MODE ALL (R360, R361). -/
structure Chunk where
  bucket : Nat
  step : Nat
  q : Nat
  first : Nat
  down : Bool
  pairs : List (Option (List Byte))
deriving DecidableEq, Repr

/-- A bucket started in a step: the chunks it has summed, those done here, those sent down to its children, and whether it has stalled
(R359 to R363). -/
structure BucketRun where
  bucket : Nat
  step : Nat
  sent : List Nat
  done : List Nat
  lowered : List Nat
  complete : Bool
  stalled : Bool
deriving DecidableEq, Repr

/-- The collective engine. `seq` counts the messages sent to each module (R345); `heard` is when a module was last heard (R364); `journal`
the changes sent to the standby and not yet acknowledged, oldest first, each with its SEQ; `fullLeft` the number of FULL parts not yet
acknowledged (R367); `gens` the next generation of each cross-module channel on this hub; `arrived` the generations this hub has arrived at
and that have not been released (R368); `rejoin` that the job was loaded with REJOIN (R464); `shardGen` GEN of each place (R354); `later` the children's chunks that the buffer cannot take yet (R362);
`standby` the standby as this module knows it (R364, R367); `ownRestore` a restore whose part on the manager's own module is to be done, `restoring` the restart
step of a restore that this module's part of is in work, `copies` what its twin has sent for it, `twinLost` that the twin is the lost module, and `restartReads` the
restart step that reads its own version (R370, R371). -/
structure Coll where
  seq : List (Nat × Nat)
  heard : List (Nat × Nat)
  mgr : Mgr
  manager : Nat
  journal : List (Nat × Change)
  fullTo : Option Nat
  fullLeft : List Nat
  gens : List (Nat × Nat)
  arrived : List (Nat × Nat)
  drainedSent : List Nat
  updDoneSent : List Nat
  rejoin : Bool
  shardGen : List (Nat × Nat × Nat)
  buckets : List Bucket
  rgroups : List RGroup
  runs : List BucketRun
  chunks : List Chunk
  gradHeld : List (Nat × Nat)
  later : List Chunk
  standby : Option Nat
  ownRestore : Option Nat
  restoring : Option Nat
  copies : List RestoreCopy
  twinLost : Bool
  restartReads : Option Nat
deriving DecidableEq, Repr

/-- An engine that has taken no part yet. -/
def Coll.empty : Coll :=
  { seq := [], heard := [], mgr := Mgr.empty, manager := 0, journal := [], fullTo := none, fullLeft := [], gens := [], arrived := []
    drainedSent := [], updDoneSent := [], rejoin := false, shardGen := [], buckets := [], rgroups := [], runs := [], chunks := []
    gradHeld := [], later := [], standby := none, ownRestore := none, restoring := none, copies := [], twinLost := false
    restartReads := none }

end Sys2Proof.Machine
end

