-- ==== Sys2Proof/Machine/CxState.lean ====
section
/-! DEFINITION. What the hub's ends of the Craxis links hold besides their registers (R479 to R504). -/

namespace Sys2Proof.Machine

/-- A message of a retry buffer (R485): the number of its first flit, how many flits it takes, its opcode and itself. -/
structure CxSent where
  first : Nat
  flits : Nat
  op : Nat
  msg : CxMsg
deriving DecidableEq, Repr

/-- The hub's end of a module. `next` is the number of the next numbered flit sent, `sent` the messages not wholly acknowledged, oldest first;
`rxNext` the number expected, `rxPart` the flits received of the message in work, `rxSince` the numbered flits received since the last ACK; `waiting` that the receiver discards until the expected
flit arrives; `replay` the number last asked to be replayed and how often in a row; `credits` the credits held for each VC; `room` the buffer for
responses that the hub's own CAP advertised, in flits; `held` messages that wait, oldest first; `badSpares` the BAD record of S0 and S1; `tries` the training attempts; `again` that a disagreement with the plan has made it
retrain once (R496); `calibrating` that its retrain is a recalibration. -/
structure CxMod where
  next : Nat
  sent : List CxSent
  rxNext : Nat
  rxPart : Nat
  rxSince : Nat
  waiting : Bool
  replay : Nat × Nat
  credits : List Nat
  room : Nat
  held : List (Nat × CxMsg)
  badSpares : Nat
  tries : Nat
  again : Bool
  calibrating : Bool
deriving DecidableEq, Repr

def CxMod.empty : CxMod :=
  { next := 0, sent := [], rxNext := 0, rxPart := 0, rxSince := 0, waiting := false, replay := (0, 0), credits := [0, 0, 0, 0], room := 0, held := [], badSpares := 0
    tries := 0, again := false, calibrating := false }

/-- No module: a request that waits for its link's table has none yet. -/
def cxNone : Nat := 104

/-- A request that waits for its response: its link and module, its opcode, TAG, LEN and MASTER, and whether it has gone out, and so holds a
reservation of the buffer for its response (R491). -/
structure CxReq where
  link : Nat
  mod : Nat
  op : Nat
  tag : Nat
  len : Nat
  master : Nat
  sent : Bool
deriving DecidableEq, Repr

/-- The links. `reqs` are the outstanding requests; `caps` the first CAP of each link; `rebuilt` when each link's last table rebuild was; `inReset`
the far dies held in reset (0 TW6U, 1 to 4 the stacks, 5 to 7 the compute fields); `resends` the messages that a rebuild sends again, before the new ones,
`pending`, which wait for it; `flushes` the FLUSHes that wait for writes of other modules, each with its module; `mgt` and `esc` the times of each stack's MGT
messages of the last microsecond and of its violations of the last millisecond; `raised` when EV_FIREWALL_VIOLATION was last raised for a stack and
class; `dropped` counts the posted writes dropped on each link; `relearn` the modules still to be retrained under RELEARN. -/
structure Cx where
  mods : Store CxMod
  reqs : List CxReq
  caps : List (Nat × List Byte)
  rebuilt : List (Nat × Nat)
  inReset : List Nat
  resends : List (Nat × Nat × CxMsg)
  pending : List (Nat × Nat × CxMsg)
  flushes : List (Nat × CxMsg)
  mgt : List (Nat × Nat)
  esc : List (Nat × Nat)
  raised : List (Nat × Nat × Nat)
  dropped : Store Nat
  relearn : List Nat
deriving DecidableEq, Repr

def Cx.empty : Cx :=
  { mods := [], reqs := [], caps := [], rebuilt := [], inReset := [0, 1, 2, 3, 4, 5, 6, 7], resends := [], pending := [], flushes := [], mgt := [], esc := [], raised := []
    dropped := [], relearn := [] }

end Sys2Proof.Machine
end

