-- ==== Sys2Proof/Machine/HostState.lean ====
section
/-! DEFINITION. What the host interface holds besides its registers (R451 to R475): the functions, their rings and the commands in progress. -/

namespace Sys2Proof.Machine

/-- A submission entry taken up (R462): its bytes; `begun` once START_JOB has set its RUN bits and waits for the tiles to run; `orphan` when its
function has detached since (R472); `held` the status and the result of its completion while the completion ring has no free entry (R469). -/
structure HostCmd where
  entry : List Byte
  begun : Bool
  orphan : Bool
  held : Option (Nat × List Byte)
deriving DecidableEq, Repr

/-- A ring pair (R461 to R470). `on` says that it is in use since ATTACH; `tail` is the tail of the last accepted doorbell; `serial` the SERIAL
expected next; `cqTail` the next completion slot, with its pass; `cqHead` the head of the last accepted doorbell; `tries` the re-reads of an entry
that is not current; `cur` the command in progress; `fullRaised` that EV_HOST_CQ_FULL has been raised; `unsig` the completions unsignalled. -/
structure HRing where
  on : Bool
  tail : Nat
  serial : Nat
  cqTail : Nat
  phase : Bool
  cqHead : Nat
  tries : Option Nat
  cur : Option HostCmd
  fullRaised : Bool
  unsig : Nat
deriving DecidableEq, Repr

def HRing.empty : HRing :=
  { on := false, tail := 0, serial := 0, cqTail := 0, phase := true, cqHead := 0, tries := none, cur := none, fullRaised := false, unsig := 0 }

/-- A function (R452, R471, R473): bus mastering, MSI-X Enable and Function Mask (R470), its rings, its event ring with the next place and the consumer's head, the records it has
missed, and the event records appended to its backlog since the detach with those overwritten. -/
structure HFn where
  busMaster : Bool
  msixOn : Bool
  msixMask : Bool
  rings : List HRing
  evrOn : Bool
  evrTail : Nat
  evrHead : Nat
  missed : Nat
  backProd : Nat
  backDropped : Nat
deriving DecidableEq, Repr

def HFn.empty : HFn :=
  { busMaster := false, msixOn := false, msixMask := false, rings := List.replicate 4 HRing.empty, evrOn := false, evrTail := 0, evrHead := 0, missed := 0, backProd := 0
    backDropped := 0 }

/-- The host interface: its nine functions, NumVFs, the ring served last (4 f + q, R466), the PLDM event log whose unread records assert SMBALERT# (R38, R589), and the MSI-X tables with
the pending bits set in the order given (R455, R470): word w of function f's table is at 1024 f + w, four words to a vector, bit 0 of the fourth
its mask. -/
structure HostIf where
  fns : Store HFn
  numVfs : Nat
  turn : Nat
  pldmLog : List Nat
  msix : Store W32
  msixPend : List (Nat × Nat)
deriving DecidableEq, Repr

def HostIf.empty : HostIf := { fns := [], numVfs := 0, turn := 35, pldmLog := [], msix := [], msixPend := [] }

/-- What an MSI-X table reads as until it is written: every vector masked, as PCIe has it (PRESUMED, in the assumption log). -/
def msixReset (k : Nat) : W32 := if k % 4 = 3 then 1 else 0

end Sys2Proof.Machine
end

