-- ==== Sys2Proof/Machine/HubState.lean ====
section
/-! DEFINITION. What the hub holds besides its registers and engines: the held steps of the format-health tables (R88). -/

namespace Sys2Proof.Machine

/-- A format-health table: the step it holds, if any, and whether that step has closed (R88). -/
structure FmthTable where
  held : Option Nat
  closed : Bool
deriving DecidableEq, Repr

/-- A latch of every counter (R616): the device time and the step, the registers as they stood, and the streams whose records are due. -/
structure DailyLatch where
  time : Nat
  step : Nat
  regs : Store W32
  due : List Nat
deriving DecidableEq, Repr

/-- A dailies stream (R617 to R620): the ticks taken since it was enabled, the records skipped since its last one, and when it last raised EV_DAILIES_OVERRUN. -/
structure DlyStream where
  seq : Nat
  missed : Nat
  raisedAt : Option Nat
deriving DecidableEq, Repr

/-- The hub's own holdings. `bw` counts the bytes of each bandwidth monitor in the window in work (R615); `swapArmed` are the tiles a
planned swap is armed for, `swapping` those whose arrival is withheld for one (R592); `retired` the physical tiles taken out of service; `rows` the spare T0 rows in use, each as its physical tile
and bank (R590); `lastCue` the last cue that tile 0 issued (R521). `bwSkip` says that the
window in work was cut short (R615); `bar2Rest` the bytes moved through BAR2 since the last whole 96 (R611); `latch` is the counters' latch while records are due; `ceAt` when each store last raised EV_ECC_CORRECTED (R580);
`ceRows` the T0 rows with a correctable error, each with the scrub pass of its last one, `t1Rows` the same of T1 and `t1Repair` the T1 rows that a repair is wanted for (R590); `alloc` the guests to which hub counters are allotted, as in force (R626); `bgAt` when each kind of background work last raised its event (R595). -/
structure Hub where
  bw : Store Nat
  swapArmed : List Nat
  swapping : List Nat
  retired : List Nat
  rows : List (Nat × Nat)
  lastCue : Option Nat
  bwSkip : Bool
  bar2Rest : Nat
  latch : Option DailyLatch
  streams : Store DlyStream
  ceAt : List (Nat × Nat)
  ceRows : List (Nat × Nat)
  t1Rows : List (Nat × Nat)
  t1Repair : List Nat
  bgAt : List (Nat × Nat)
  alloc : Store Nat
  fmth0 : FmthTable
  fmth1 : FmthTable
deriving DecidableEq, Repr

/-- As at power-on: neither table holds a step. -/
def Hub.empty : Hub := { bw := [], swapArmed := [], swapping := [], retired := [], rows := [], lastCue := none, bwSkip := false, bar2Rest := 0, latch := none, streams := [], ceAt := [], ceRows := [], t1Rows := [], t1Repair := [], bgAt := [], alloc := [], fmth0 := ⟨none, false⟩, fmth1 := ⟨none, false⟩ }

end Sys2Proof.Machine
end

