-- ==== Sys2Proof/Machine/EventCodes.lean ====
section
/-! DEFINITION. The event codes of R586, each with its base severity (R585). -/

namespace Sys2Proof.Machine

/-- An event's code and base severity: 0 INFO, 1 WARN, 2 REPAIR, 3 STOP, 4 FATAL. -/
structure Ev where
  code : Nat
  sev : Nat
deriving DecidableEq, Repr

/-- EV_OPTIONS_DEFAULT (R562). -/
def Ev.optionsDefault : Ev := ⟨0x0101, 1⟩
/-- EV_CONFIG_INVALID (R565). -/
def Ev.configInvalid : Ev := ⟨0x0102, 1⟩
/-- EV_FLASH_DENIED (R564). -/
def Ev.flashDenied : Ev := ⟨0x0103, 1⟩
/-- EV_RECOVERY_MODE (R569). -/
def Ev.recoveryMode : Ev := ⟨0x0104, 4⟩
/-- EV_STAGE_RESTART (R571). -/
def Ev.stageRestart : Ev := ⟨0x0105, 1⟩
/-- EV_STAGE_UNSTABLE (R571). -/
def Ev.stageUnstable : Ev := ⟨0x0106, 1⟩
/-- EV_TWIN_RESET_REFUSED (R553). -/
def Ev.twinResetRefused : Ev := ⟨0x0107, 1⟩
/-- EV_BLOCK_RESET_STOP (R559). -/
def Ev.blockResetStop : Ev := ⟨0x0108, 3⟩
/-- EV_CONFIG_WHILE_RUNNING (R13). -/
def Ev.configWhileRunning : Ev := ⟨0x0109, 1⟩
/-- EV_START (RUNNING reached; detail: cause, COUNT). -/
def Ev.start : Ev := ⟨0x010A, 0⟩
/-- EV_SUPPLY_INSUFFICIENT (R46). -/
def Ev.supplyInsufficient : Ev := ⟨0x0201, 1⟩
/-- EV_AIRFLOW_REVERSED (R43). -/
def Ev.airflowReversed : Ev := ⟨0x0202, 1⟩
/-- EV_POWER_SENSOR_FAILED (R523). -/
def Ev.powerSensorFailed : Ev := ⟨0x0203, 1⟩
/-- EV_POWER_MODEL_DIVERGENCE (R524). -/
def Ev.powerModelDivergence : Ev := ⟨0x0204, 1⟩
/-- EV_DROOP_PERSISTENT (R527). -/
def Ev.droopPersistent : Ev := ⟨0x0205, 1⟩
/-- EV_THERMAL_WARN (R533). -/
def Ev.thermalWarn : Ev := ⟨0x0206, 1⟩
/-- EV_THERMAL_TRIP (R534). -/
def Ev.thermalTrip : Ev := ⟨0x0207, 4⟩
/-- EV_MATCH_LOST (R536). -/
def Ev.matchLost : Ev := ⟨0x0208, 1⟩
/-- EV_POWER_CONFIG (R541). -/
def Ev.powerConfig : Ev := ⟨0x0209, 1⟩
/-- EV_VF_AGE_COLUMN (R516). -/
def Ev.vfAgeColumn : Ev := ⟨0x020A, 0⟩
/-- EV_TIME_STEP (R514). -/
def Ev.timeStep : Ev := ⟨0x020B, 0⟩
/-- EV_CRAXIS_MODULE_DOWN (R494). -/
def Ev.craxisModuleDown : Ev := ⟨0x0301, 2⟩
/-- EV_CRAXIS_LANE_SPARED (R495). -/
def Ev.craxisLaneSpared : Ev := ⟨0x0302, 2⟩
/-- EV_CRAXIS_WIDTH_DEGRADED (R495). -/
def Ev.craxisWidthDegraded : Ev := ⟨0x0303, 2⟩
/-- EV_CRAXIS_WIDTH_MISMATCH (R496). -/
def Ev.craxisWidthMismatch : Ev := ⟨0x0304, 2⟩
/-- EV_CRAXIS_RETRAIN (R497). -/
def Ev.craxisRetrain : Ev := ⟨0x0305, 2⟩
/-- EV_CRAXIS_PEER_RESET (R498). -/
def Ev.craxisPeerReset : Ev := ⟨0x0306, 0⟩
/-- EV_CRAXIS_REVISION (R500). -/
def Ev.craxisRevision : Ev := ⟨0x0307, 1⟩
/-- EV_FIREWALL_VIOLATION (R503). -/
def Ev.firewallViolation : Ev := ⟨0x0308, 1⟩
/-- EV_FIREWALL_ISOLATE (R504). -/
def Ev.firewallIsolate : Ev := ⟨0x0309, 3⟩
/-- EV_UNMAPPED_ACCESS (R4). -/
def Ev.unmappedAccess : Ev := ⟨0x0401, 1⟩
/-- EV_CSR_ACCESS (R10, R576). -/
def Ev.csrAccess : Ev := ⟨0x0402, 1⟩
/-- EV_CSR_PRIVILEGE (R11, R572). -/
def Ev.csrPrivilege : Ev := ⟨0x0403, 1⟩
/-- EV_OBJECT_BOUNDS (R275). -/
def Ev.objectBounds : Ev := ⟨0x0404, 1⟩
/-- EV_VERSION_RETIRED (R282). -/
def Ev.versionRetired : Ev := ⟨0x0405, 3⟩
/-- EV_REEL_INEXACT (R294). -/
def Ev.reelInexact : Ev := ⟨0x0406, 1⟩
/-- EV_ECC_CORRECTED (R580). -/
def Ev.eccCorrected : Ev := ⟨0x0407, 0⟩
/-- EV_ECC_UNCORRECTED (R580). -/
def Ev.eccUncorrected : Ev := ⟨0x0408, 2⟩
/-- EV_POISON_EXPORT (R583). -/
def Ev.poisonExport : Ev := ⟨0x0409, 1⟩
/-- EV_SRAM_ROW_SPARED (Spare resources). -/
def Ev.sramRowSpared : Ev := ⟨0x040A, 2⟩
/-- EV_DRAM_ROW_REPAIRED (Spare resources). -/
def Ev.dramRowRepaired : Ev := ⟨0x040B, 2⟩
/-- EV_REPAIR_EXHAUSTED (Spare resources). -/
def Ev.repairExhausted : Ev := ⟨0x040C, 1⟩
/-- EV_BACKGROUND_FORCED (Background work). -/
def Ev.backgroundForced : Ev := ⟨0x040D, 0⟩
/-- EV_EVENT_RING_OVERFLOW (R589). -/
def Ev.eventRingOverflow : Ev := ⟨0x040E, 1⟩
/-- EV_DAILIES_OVERRUN (Performance Counters and Dailies). -/
def Ev.dailiesOverrun : Ev := ⟨0x040F, 1⟩
/-- EV_DESCRIPTOR_INVALID (R78, R104, R123, R161, R192, R224). -/
def Ev.descriptorInvalid : Ev := ⟨0x0501, 1⟩
/-- EV_ANCHOR_MISMATCH (R113). -/
def Ev.anchorMismatch : Ev := ⟨0x0502, 1⟩
/-- EV_SPLIT_STALL (R114). -/
def Ev.splitStall : Ev := ⟨0x0503, 1⟩
/-- EV_OPERAND_OVERWRITE (R138, R195). -/
def Ev.operandOverwrite : Ev := ⟨0x0504, 1⟩
/-- EV_SPARSE_METADATA (R145). -/
def Ev.sparseMetadata : Ev := ⟨0x0505, 1⟩
/-- EV_CHAIN_INVALID (R187). -/
def Ev.chainInvalid : Ev := ⟨0x0506, 1⟩
/-- EV_ROUTE_INDEX (R202). -/
def Ev.routeIndex : Ev := ⟨0x0507, 1⟩
/-- EV_ROUTE_OVERFLOW (R202). -/
def Ev.routeOverflow : Ev := ⟨0x0508, 0⟩
/-- EV_SKIP_MAP_STALE (R218). -/
def Ev.skipMapStale : Ev := ⟨0x0509, 1⟩
/-- EV_SKIP_MAP_LATE (R219). -/
def Ev.skipMapLate : Ev := ⟨0x050A, 1⟩
/-- EV_SEQ_COUNTER_SATURATED (R233). -/
def Ev.seqCounterSaturated : Ev := ⟨0x050B, 1⟩
/-- EV_SEQ_FAULT (R240). -/
def Ev.seqFault : Ev := ⟨0x050C, 3⟩
/-- EV_CLAPPER_TIMEOUT (R251). -/
def Ev.clapperTimeout : Ev := ⟨0x050D, 1⟩
/-- EV_TAKE_FAILED (R255). -/
def Ev.takeFailed : Ev := ⟨0x050E, 2⟩
/-- EV_TILE_FAULT (R591). -/
def Ev.tileFault : Ev := ⟨0x050F, 2⟩
/-- EV_STANDIN_SWAP (R592). -/
def Ev.standinSwap : Ev := ⟨0x0510, 2⟩
/-- EV_STANDIN_EXHAUSTED (R593). -/
def Ev.standinExhausted : Ev := ⟨0x0511, 1⟩
/-- EV_MASK_POISON (R633). -/
def Ev.maskPoison : Ev := ⟨0x0512, 1⟩
/-- EV_CAGE_CONFIG (R32, R33). -/
def Ev.cageConfig : Ev := ⟨0x0601, 1⟩
/-- EV_CAGE_POWER (R36). -/
def Ev.cagePower : Ev := ⟨0x0602, 1⟩
/-- EV_CAGE_CHANGE (R50). -/
def Ev.cageChange : Ev := ⟨0x0603, 0⟩
/-- EV_PORT_UP (R383). -/
def Ev.portUp : Ev := ⟨0x0604, 0⟩
/-- EV_PORT_DOWN (R383). -/
def Ev.portDown : Ev := ⟨0x0605, 1⟩
/-- EV_LINK_RETRAIN (R384). -/
def Ev.linkRetrain : Ev := ⟨0x0606, 2⟩
/-- EV_PTP_LOST (R392). -/
def Ev.ptpLost : Ev := ⟨0x0607, 1⟩
/-- EV_TWIN_MISCABLED (R396). -/
def Ev.twinMiscabled : Ev := ⟨0x0608, 1⟩
/-- EV_NRT_ECRC (R417). -/
def Ev.nrtEcrc : Ev := ⟨0x0609, 1⟩
/-- EV_NRT_KEY_FAULT (R422). -/
def Ev.nrtKeyFault : Ev := ⟨0x060A, 1⟩
/-- EV_NRT_REMOTE_FAULT (R422). -/
def Ev.nrtRemoteFault : Ev := ⟨0x060B, 1⟩
/-- EV_NRT_FLOW_FAILED (R432). -/
def Ev.nrtFlowFailed : Ev := ⟨0x060C, 1⟩
/-- EV_NRT_RING_FULL (R436). -/
def Ev.nrtRingFull : Ev := ⟨0x060D, 1⟩
/-- EV_KEY_REVOKED (R440). -/
def Ev.keyRevoked : Ev := ⟨0x060E, 0⟩
/-- EV_KEY_REVOKE_SLOW (R440). -/
def Ev.keyRevokeSlow : Ev := ⟨0x060F, 1⟩
/-- EV_NRT_RING_INVALID (R436). -/
def Ev.nrtRingInvalid : Ev := ⟨0x0610, 1⟩
/-- EV_HOST_LINK_DEGRADED (R451). -/
def Ev.hostLinkDegraded : Ev := ⟨0x0701, 1⟩
/-- EV_HOST_WINDOW_FAULT (R458). -/
def Ev.hostWindowFault : Ev := ⟨0x0702, 1⟩
/-- EV_HOST_DOORBELL_INVALID (R467). -/
def Ev.hostDoorbellInvalid : Ev := ⟨0x0703, 1⟩
/-- EV_HOST_DOORBELL_EARLY (R468). -/
def Ev.hostDoorbellEarly : Ev := ⟨0x0704, 0⟩
/-- EV_HOST_CQ_FULL (R469). -/
def Ev.hostCqFull : Ev := ⟨0x0705, 1⟩
/-- EV_HOST_DETACHED (R472). -/
def Ev.hostDetached : Ev := ⟨0x0706, 0⟩
/-- EV_UPDATE_QUEUE_FULL (R313). -/
def Ev.updateQueueFull : Ev := ⟨0x0801, 1⟩
/-- EV_STEP_SKEW (R316). -/
def Ev.stepSkew : Ev := ⟨0x0802, 1⟩
/-- EV_FROZEN_UPDATE (R319). -/
def Ev.frozenUpdate : Ev := ⟨0x0803, 1⟩
/-- EV_UPDATE_NONFINITE (R323). -/
def Ev.updateNonfinite : Ev := ⟨0x0804, 1⟩
/-- EV_VERSION_COMMIT (R327). -/
def Ev.versionCommit : Ev := ⟨0x0805, 1⟩
/-- EV_MIRROR_LOST (R331). -/
def Ev.mirrorLost : Ev := ⟨0x0806, 1⟩
/-- EV_SNAP_LATE (R332). -/
def Ev.snapLate : Ev := ⟨0x0807, 1⟩
/-- EV_TAKE_LIMIT (R18). -/
def Ev.takeLimit : Ev := ⟨0x0901, 3⟩
/-- EV_STEP_LIMIT (R19). -/
def Ev.stepLimit : Ev := ⟨0x0902, 3⟩
/-- EV_FORMAT_OVERFLOW (R90). -/
def Ev.formatOverflow : Ev := ⟨0x0903, 1⟩
/-- EV_FORMAT_VANISH (R90). -/
def Ev.formatVanish : Ev := ⟨0x0904, 1⟩
/-- EV_TIED_WEIGHT (R162). -/
def Ev.tiedWeight : Ev := ⟨0x0905, 1⟩
/-- EV_JOB_IMAGE_INVALID (R259, R379). -/
def Ev.jobImageInvalid : Ev := ⟨0x0906, 1⟩
/-- EV_JOB_BUSY (R259). -/
def Ev.jobBusy : Ev := ⟨0x0907, 0⟩
/-- EV_JOIN_MISMATCH (R346). -/
def Ev.joinMismatch : Ev := ⟨0x0908, 1⟩
/-- EV_JOIN_TIMEOUT (R346). -/
def Ev.joinTimeout : Ev := ⟨0x0909, 1⟩
/-- EV_STALE_SHARD (R356). -/
def Ev.staleShard : Ev := ⟨0x090A, 1⟩
/-- EV_COLLECTIVE_STALL (R362). -/
def Ev.collectiveStall : Ev := ⟨0x090B, 1⟩
/-- EV_MANAGER_FAILOVER (R366). -/
def Ev.managerFailover : Ev := ⟨0x090C, 2⟩
/-- EV_MODULE_LOST (R369). -/
def Ev.moduleLost : Ev := ⟨0x090D, 3⟩
/-- EV_RESTORE_IMPOSSIBLE (R371). -/
def Ev.restoreImpossible : Ev := ⟨0x090E, 3⟩
/-- EV_RESTORE_INEXACT (R371). -/
def Ev.restoreInexact : Ev := ⟨0x090F, 1⟩
/-- EV_JOB_STOPPED (R587). -/
def Ev.jobStopped : Ev := ⟨0x0910, 3⟩

end Sys2Proof.Machine
end

