-- ==== Sys2Proof/Machine/OutState.lean ====
section
/-! DEFINITION. Event records (R584) and what the module sends to the outside world, as plain data. -/

namespace Sys2Proof.Machine

/-- An event record of R584: code, severity, the REPEAT, DEMOTION and HW marks, sequence number, source, 80-bit detail, Slate, time. -/
structure Event where
  code : Nat
  sev : Nat
  rep : Bool
  demotion : Bool
  hw : Bool
  seq : Nat
  kind : Nat
  index : Nat
  detail : Nat
  slate : Nat
  time : Nat
deriving DecidableEq, Repr

/-- An NRT packet as a port sends it (R386, R413, R414): its flow and path, its 802.1Q tag control information where the port tags, the IP version and the
peer's address, TTL or hop limit and DF, the UDP ports, the ECN mark of data packets, and the ECRC. -/
structure NrtFrame where
  port : Nat
  flow : Nat
  path : Nat
  tag : Option Nat
  ipv6 : Bool
  ip : Nat
  hops : Nat
  df : Bool
  udpSrc : Nat
  udpDst : Nat
  ect : Bool
  pkt : Packet
  ecrc : Nat
deriving DecidableEq, Repr

/-- An LLDPDU as a port sends it (R394): Chassis ID, Port ID, TTL, the maximum frame size, the wake time where it carries the EEE TLV (R402), and the
capability TLV's OUI and content. -/
structure Lldpdu where
  port : Nat
  chassis : Nat
  portId : Nat
  ttl : Nat
  maxFrame : Nat
  eee : Option Nat
  oui : Nat
  cap : Nat
deriving DecidableEq, Repr

/-- What the module gives to the outside. -/
inductive Out where
  /-- Data answered to a master's register or memory access (R8 to R14, R4). -/
  | readData (master addr value : Nat)
  /-- An NRT packet on a port. -/
  | packet (x : NrtFrame)
  /-- A frame of the management queue (R389), tagged and padded as it leaves (R386, R388). -/
  | frame (port : Nat) (f : Frame)
  /-- A PFC frame for a priority (R390), with its tag (R386). -/
  | pfc (port : Nat) (tag : Option Nat) (prio : Nat) (xoff : Bool)
  /-- An LLDPDU. -/
  | lldp (x : Lldpdu)
  /-- A capability TLV of subtype 0x02 (R400). -/
  | stepTlv (port : Nat) (ack up : Bool) (target : Nat)
  /-- A peer-delay request (R393), with its tag; the answer to the partner's, with the time t2 the request came in, and the follow-up with the time t3 the
  answer left, in nanoseconds and sixteenths (R391). -/
  | pdelay (port : Nat) (tag : Option Nat)
  | pdelayResp (port : Nat) (tag : Option Nat) (t2 : Nat × Nat)
  | pdelayFollow (port : Nat) (tag : Option Nat) (t3 : Nat × Nat)
  /-- A mirror write to the twin over port 8 (R330): its frames and their tag, the group, the copy's parity, the planes, and the commit. -/
  | mirror (frames : Nat) (tag : Option Nat) (group copy : Nat) (p s1 s2 : List W32) (step : Nat) (bp1 bp2 : W32)
  /-- The module writes to host memory for a function (R463, R589, R617). -/
  | hostWrite (fn addr : Nat) (bytes : List Byte)
  /-- An MSI-X message (R470). -/
  | msix (fn vector : Nat)
  /-- Data answered through an aperture, and the PCIe poisoned bit (R457). -/
  | bar2 (fn : Nat) (bytes : List Byte) (poisoned : Bool)
  /-- A Craxis message sent on a module, with its opcode and its flits as they go out (R483, R486). -/
  | craxis (mod op : Nat) (m : CxMsg) (flits : List (List Byte))
  /-- A link message ACK or REPLAY with its SEQ (R484, R485), and credits returned (R491), each with its flit. -/
  | craxisAck (mod seq : Nat) (flit : List Byte)
  | craxisReplay (mod seq : Nat) (flit : List Byte)
  | craxisCredits (mod vc credits : Nat) (flit : List Byte)
  /-- A register access over a stack's sideband (R502). -/
  | sideband (stack : Nat) (a : SideAccess)
  /-- A request over Craxis is completed to its master: its TAG, its marks and its data (R487, R498, R504). -/
  | craxisDone (master tag : Nat) (poison fail : Bool) (data : List Byte)
  /-- The lane plan sent to a far die over the sideband (R495). -/
  | lanePlan (mod width half spare0 spare1 : Nat)
  /-- A twin reset request TLV on port 8 (R553). -/
  | twinReset (pair job : Nat)
  /-- Answers over MCTP: a PLDM answer (R39, R40) and an SPDM answer (R574). -/
  | pldm (op arg : Nat) (values : List Nat)
  | spdm (bytes : List Byte)
  /-- The bytes a recovery READ has put into the buffer (R570). -/
  | recovery (bytes : List Byte)
deriving DecidableEq, Repr

end Sys2Proof.Machine
end

