-- ==== Sys2Proof/Machine/MacState.lean ====
section
/-! DEFINITION. What a port holds besides its registers (R382 to R402): its management queues, its partner from LLDP, paused priorities,
the peer-delay measurement in work, and the speed step in work. -/

namespace Sys2Proof.Machine

/-- A frame in a management queue with its timestamp: nanoseconds and a 4-bit sub-nanosecond fraction (R389). -/
structure MFrame where
  frame : Frame
  ns : Nat
  frac : Nat
deriving DecidableEq, Repr

/-- What the LLDP agent knows of the partner (R395): its MAC address and port, its capability, its TTL in seconds, and when it was heard. -/
structure Partner where
  mac : Nat
  port : Nat
  nrt : Bool
  eee : Bool
  step : Bool
  module : Nat
  tw : Nat
  ttl : Nat
  heard : Nat
deriving DecidableEq, Repr

/-- A port. `noAbility` says that the partner advertises no common ability (R382); `xoff` are the priorities it has sent XOFF for and `rxKib` what their
receive buffers hold (R390); `stepTo` is the direction and target of its own request in flight, `agreed` the target both ends change to, `changing` the
direction of a change under way; `delays` the answered exchanges of R393 as (t4 − t1) − (t3 − t2) in 1/16 ns; `ptp` the round trip and the length they
gave; `held` the frames of its held, paused or waking transmit queue, each with its priority and its length; `lldpAt` when the last LLDPDU came in (R410); `winUs`,
`txWin` and `rxWin` the microseconds and the bytes of the window of 1 ms under way, `low` the windows in a row below 10 % and `busy` whether the last one was
above UP_SHARE, `backUs` and `idleUs` the microseconds in a row of backlog and of an idle transmit side (R399, R402). -/
structure Port where
  noAbility : Bool
  rxq : List MFrame
  txq : List MFrame
  partner : Option Partner
  paused : List Nat
  xoff : List Nat
  rxKib : List Nat
  stepTo : Option (Bool × Nat)
  agreed : Option Nat
  changing : Option Bool
  abandoned : Nat
  noSteps : Bool
  exchanges : Nat
  delays : List Int
  ptp : Option (Nat × Nat)
  held : List (Nat × Nat × Out)
  lldpAt : Option Nat
  winUs : Nat
  txWin : Nat
  rxWin : Nat
  low : Nat
  busy : Bool
  backUs : Nat
  idleUs : Nat
deriving DecidableEq, Repr

/-- A port that has seen nothing. -/
def Port.empty : Port :=
  { noAbility := false, rxq := [], txq := [], partner := none, paused := [], xoff := [], rxKib := List.replicate 8 0, stepTo := none
    agreed := none, changing := none, abandoned := 0, noSteps := false, exchanges := 16, delays := [], ptp := none, held := []
    lldpAt := none, winUs := 0, txWin := 0, rxWin := 0, low := 0, busy := false, backUs := 0, idleUs := 0 }

end Sys2Proof.Machine
end

