-- ==== Sys2Proof/Machine/Num.lean ====
section
/-! DEFINITION. Exact numbers and the module's two rounding modes: dyadic rationals, the one rounding rule of R80 and R81, and
FP32, BF16 and binary16 as exact values (R72 to R74). Every format of the module is a `Grid`; nothing here knows of State. -/

namespace Sys2Proof.Machine

/-- Bits `hi` to `lo` of a number. -/
def bitsOf (x hi lo : Nat) : Nat := x / 2 ^ lo % 2 ^ (hi + 1 - lo)

/-- Bit `i` of a number. -/
def bitOf (x i : Nat) : Bool := x.testBit i

/-- A w-bit number read as two's complement. -/
def signedOf (w x : Nat) : Int := if x % 2 ^ w < 2 ^ (w - 1) then (x % 2 ^ w : Nat) else (x % 2 ^ w : Nat) - (2 ^ w : Nat)

/-- The two's complement of an integer in w bits. -/
def toBits (w : Nat) (x : Int) : Nat := (x % (2 ^ w : Nat)).toNat

/-- An exact dyadic rational, m × 2^e. -/
structure Dy where
  m : Int
  e : Int
deriving DecidableEq, Repr

/-- Zero. -/
def Dy.zero : Dy := ⟨0, 0⟩

/-- An integer as a dyadic. -/
def Dy.ofInt (n : Int) : Dy := ⟨n, 0⟩

/-- Exact product. -/
def Dy.mul (a b : Dy) : Dy := ⟨a.m * b.m, a.e + b.e⟩

/-- Exact sum. -/
def Dy.add (a b : Dy) : Dy :=
  if a.e ≤ b.e then ⟨a.m + b.m * 2 ^ (b.e - a.e).toNat, a.e⟩
  else ⟨a.m * 2 ^ (a.e - b.e).toNat + b.m, b.e⟩

/-- Exact negation. -/
def Dy.neg (a : Dy) : Dy := ⟨-a.m, a.e⟩

/-- Exact difference. -/
def Dy.sub (a b : Dy) : Dy := a.add b.neg

/-- Magnitude. -/
def Dy.abs (a : Dy) : Dy := ⟨a.m.natAbs, a.e⟩

/-- Multiply by 2^k. -/
def Dy.scale (a : Dy) (k : Int) : Dy := ⟨a.m, a.e + k⟩

/-- a < b, exactly. -/
def Dy.lt (a b : Dy) : Bool := decide ((a.sub b).m < 0)

/-- a ≤ b, exactly. -/
def Dy.le (a b : Dy) : Bool := decide ((a.sub b).m ≤ 0)

/-- a = b as values. -/
def Dy.eqv (a b : Dy) : Bool := decide ((a.sub b).m = 0)

/-- Is the value zero? -/
def Dy.isZero (a : Dy) : Bool := decide (a.m = 0)

/-- ⌊log2 |a|⌋ of a nonzero value. -/
def Dy.log2 (a : Dy) : Int := (Nat.log2 a.m.natAbs : Int) + a.e

/-- ⌊a / 2^q⌋ for the magnitude of a. -/
def Dy.floorMag (a : Dy) (q : Int) : Nat :=
  if q ≤ a.e then a.m.natAbs * 2 ^ (a.e - q).toNat else a.m.natAbs / 2 ^ (q - a.e).toNat

/-- ⌈a / 2^q⌉ for the magnitude of a. -/
def Dy.ceilMag (a : Dy) (q : Int) : Nat :=
  if q ≤ a.e then a.m.natAbs * 2 ^ (a.e - q).toNat
  else (a.m.natAbs + (2 ^ (q - a.e).toNat - 1)) / 2 ^ (q - a.e).toNat

/-- The two rounding modes of the module: nearest-even, and deterministic stochastic rounding with the element's own
16 bits (R80, R81, R83). -/
inductive Rnd where
  | rne
  | sr (rbits : Nat)
deriving DecidableEq, Repr

/-- A number format's grid: mantissa bits, lowest unbiased exponent, exponent of the top binade. The largest finite value is
(2^(M+1) − 1) × 2^(Etop − M) (R59; FP32, BF16 and binary16 have the same shape). -/
structure Grid where
  mant : Nat
  emin : Int
  etop : Int
deriving DecidableEq, Repr

/-- The grids of R59 and of IEEE 754. -/
def Grid.s8 : Grid := ⟨3, -6, 8⟩
def Grid.s12 : Grid := ⟨7, -6, 8⟩
def Grid.s16 : Grid := ⟨9, -30, 32⟩
def Grid.fp32 : Grid := ⟨23, -126, 127⟩
def Grid.bf16 : Grid := ⟨7, -126, 127⟩
def Grid.f16 : Grid := ⟨10, -14, 15⟩

/-- The result of rounding a nonzero magnitude onto a grid: n × 2^q, with what was noticed. -/
structure Rounded where
  n : Nat
  q : Int
  inexact : Bool
  overflow : Bool
  subnormal : Bool
deriving DecidableEq, Repr

/-- Round the magnitude of a nonzero dyadic onto a grid: the spacing at the magnitude, the fraction, and the rule of
R80 and R81. `overflow` says that the result passes the largest finite value; `subnormal` that it is below 2^emin. -/
def Grid.round (g : Grid) (r : Rnd) (a : Dy) : Rounded :=
  let e := max a.log2 g.emin
  let q := e - (g.mant : Int)
  let n := a.floorMag q
  let up : Bool × Bool :=
    if q ≤ a.e then (false, false)
    else
      let s := (q - a.e).toNat
      let rem := a.m.natAbs % 2 ^ s
      (match r with
        | .rne => decide (2 ^ s < rem * 2) || (decide (rem * 2 = 2 ^ s) && decide (n % 2 = 1))
        | .sr b => decide (65536 ≤ rem * 65536 / 2 ^ s + b),
       decide (rem ≠ 0))
  let n' := if up.1 then n + 1 else n
  let v : Dy := ⟨(n' : Int), q⟩
  let top : Dy := ⟨(2 ^ (g.mant + 1) - 1 : Nat), g.etop - g.mant⟩
  { n := n', q := q, inexact := up.2, overflow := top.lt v
    subnormal := decide (n' ≠ 0) && v.lt ⟨1, g.emin⟩ }

/-- The code, without sign, of n × 2^q on a grid (exponent field and mantissa together). -/
def Grid.pack (g : Grid) (n : Nat) (q : Int) : Nat :=
  ((q - (g.emin - g.mant)) * (2 ^ g.mant : Nat) + n).toNat

/-- The code of the largest finite value. -/
def Grid.maxCode (g : Grid) : Nat := g.pack (2 ^ (g.mant + 1) - 1) (g.etop - g.mant)

/-- The exact magnitude of a code without its sign. -/
def Grid.value (g : Grid) (code : Nat) : Dy :=
  let ex := code / 2 ^ g.mant
  let m := code % 2 ^ g.mant
  if ex = 0 then ⟨(m : Int), g.emin - g.mant⟩
  else ⟨((2 ^ g.mant + m : Nat) : Int), (ex : Int) + g.emin - 1 - g.mant⟩

/-- What an FP32 value is. -/
inductive FCls where
  | nan
  | inf (neg : Bool)
  | zero (neg : Bool)
  | fin (v : Dy)
deriving DecidableEq, Repr

/-- The canonical NaN and the poison NaN (R71). -/
def fpNaN : W32 := 0x7FC00000
def fpPoison : W32 := 0x7FC00001

/-- An infinity, a zero and the largest finite value of either sign. -/
def fpInf (neg : Bool) : W32 := if neg then 0xFF800000 else 0x7F800000
def fpZero (neg : Bool) : W32 := if neg then 0x80000000 else 0
def fpMax (neg : Bool) : W32 := if neg then 0xFF7FFFFF else 0x7F7FFFFF

/-- The class and exact value of an FP32 word. -/
def fpCls (x : W32) : FCls :=
  let n := x.toNat
  let neg := bitOf n 31
  let mag := n % 2 ^ 31
  if 0x7F800000 < mag then .nan
  else if mag = 0x7F800000 then .inf neg
  else if mag = 0 then .zero neg
  else
    let v := Grid.fp32.value mag
    .fin (if neg then v.neg else v)

/-- Put a sign on a 31-bit magnitude code. -/
def fpSigned (neg : Bool) (code : Nat) : W32 := BitVec.ofNat 32 (if neg then 2 ^ 31 + code else code)

/-- Is the word a NaN? -/
def fpIsNaN (x : W32) : Bool := decide (fpCls x = .nan)

/-- Is the word a NaN or an infinity? -/
def fpNonFinite (x : W32) : Bool := decide (0x7F800000 ≤ x.toNat % 2 ^ 31)

/-- An exact value rounded into FP32 under nearest-even or stochastic rounding; an overflow gives an infinity. A zero result keeps the sign
of the value; an exact zero takes the sign given. -/
def fpRound (r : Rnd) (zeroNeg : Bool) (v : Dy) : W32 :=
  if v.isZero then fpZero zeroNeg
  else
    let neg := decide (v.m < 0)
    let o := Grid.fp32.round r v
    if o.overflow then fpInf neg else fpSigned neg (Grid.fp32.pack o.n o.q)

/-- Nearest-even rounding of an exact value into FP32. -/
def fpOf (v : Dy) : W32 := fpRound .rne false v

/-- FP32 negation and magnitude (sign bit alone). -/
def fpNeg (x : W32) : W32 := x ^^^ 0x80000000
def fpAbs (x : W32) : W32 := x &&& 0x7FFFFFFF
def fpSign (x : W32) : Bool := x.getLsbD 31

/-- The quiet form of a NaN, its sign and payload kept (R169). -/
def fpQuiet (x : W32) : W32 := x ||| 0x00400000

/-- FP32 fused multiply-add x × y + z with one nearest-even rounding (IEEE 754, R169): the first NaN operand is the result, made quiet; another NaN
result is the canonical NaN. The flag says that the operation is invalid with no NaN operand (∞ × 0, or ∞ − ∞). -/
def fpFma (x y z : W32) : W32 × Bool :=
  let sxy := xor (fpSign x) (fpSign y)
  match fpCls x, fpCls y, fpCls z with
  | .nan, _, _ => (fpQuiet x, false)
  | _, .nan, _ => (fpQuiet y, false)
  | _, _, .nan => (fpQuiet z, false)
  | .inf _, .zero _, _ => (fpNaN, true)
  | .zero _, .inf _, _ => (fpNaN, true)
  | .inf _, _, .inf n => if n = sxy then (fpInf sxy, false) else (fpNaN, true)
  | _, .inf _, .inf n => if n = sxy then (fpInf sxy, false) else (fpNaN, true)
  | .inf _, _, _ => (fpInf sxy, false)
  | _, .inf _, _ => (fpInf sxy, false)
  | _, _, .inf n => (fpInf n, false)
  | .fin a, .fin b, .zero _ => (fpOf (a.mul b), false)
  | .fin a, .fin b, .fin c => (fpRound .rne false ((a.mul b).add c), false)
  | _, _, .zero n => (fpZero (n && sxy), false)
  | _, _, .fin _ => (z, false)

/-- FP32 product: x × y + (zero of the product's sign). -/
def fpMul (x y : W32) : W32 × Bool := fpFma x y (fpZero (xor (fpSign x) (fpSign y)))

/-- FP32 sum: x × 1 + y. -/
def fpAdd (x y : W32) : W32 × Bool := fpFma x 0x3F800000 y

/-- FP32 difference. -/
def fpSub (x y : W32) : W32 × Bool := fpAdd x (if fpIsNaN y then y else fpNeg y)

/-- ⌊n / d⌋ of a positive quotient n/d × 2^e carried to enough bits that rounding it once is rounding the quotient once: 64 quotient
bits and a sticky bit. -/
def quotDy (n d : Nat) (e : Int) : Dy :=
  let sh := 66 + Nat.log2 d
  let q := n * 2 ^ sh / d
  let st := if n * 2 ^ sh % d = 0 then 0 else 1
  ⟨((2 * q + st : Nat) : Int), e - sh - 1⟩

/-- FP32 quotient x / y, correctly rounded, a NaN as in R169. Flags: invalid, division by zero. -/
def fpDiv (x y : W32) : W32 × Bool × Bool :=
  let s := xor (fpSign x) (fpSign y)
  match fpCls x, fpCls y with
  | .nan, _ => (fpQuiet x, false, false)
  | _, .nan => (fpQuiet y, false, false)
  | .inf _, .inf _ => (fpNaN, true, false)
  | .zero _, .zero _ => (fpNaN, true, false)
  | .inf _, _ => (fpInf s, false, false)
  | _, .inf _ => (fpZero s, false, false)
  | .zero _, _ => (fpZero s, false, false)
  | .fin _, .zero _ => (fpInf s, false, true)
  | .fin a, .fin b =>
    let q := quotDy a.m.natAbs b.m.natAbs (a.e - b.e)
    (fpRound .rne s (if s then q.neg else q), false, false)

/-- The square root of a positive dyadic carried to at least 45 bits, with a sticky bit, so that rounding it once into a 24-bit grid is
rounding the root once. -/
def sqrtDy (a : Dy) : Dy :=
  let sh := 92 - Nat.log2 a.m.natAbs
  let sh2 := if (a.e - (sh : Int)) % 2 = 0 then sh else sh + 1
  let n := a.m.natAbs * 2 ^ sh2
  let r := Nat.sqrt n
  let st := if r * r = n then 0 else 1
  ⟨((2 * r + st : Nat) : Int), (a.e - (sh2 : Int)) / 2 - 1⟩

/-- FP32 square root, correctly rounded, a NaN as in R169; the flag says invalid (a negative operand other than −0). -/
def fpSqrt (x : W32) : W32 × Bool :=
  match fpCls x with
  | .nan => (fpQuiet x, false)
  | .zero n => (fpZero n, false)
  | .inf false => (fpInf false, false)
  | .inf true => (fpNaN, true)
  | .fin a => if a.m < 0 then (fpNaN, true) else (fpOf (sqrtDy a), false)

/-- FP32 comparisons of two words that are not NaN; −0 equals +0. -/
def fpLt (x y : W32) : Bool :=
  match fpCls x, fpCls y with
  | .nan, _ => false
  | _, .nan => false
  | .inf n, .inf m => n && !m
  | .inf n, _ => n
  | _, .inf n => !n
  | .zero _, .zero _ => false
  | .zero _, .fin b => decide (0 < b.m)
  | .fin a, .zero _ => decide (a.m < 0)
  | .fin a, .fin b => a.lt b

/-- The exact value of a finite FP32 word, 0 for any other. -/
def fpVal (x : W32) : Dy :=
  match fpCls x with
  | .fin a => a
  | _ => Dy.zero

/-- CRC-32C (Castagnoli, reflected) of a byte string. -/
def crc32c (bytes : List Byte) : Nat :=
  let step := fun (c : Nat) (b : Byte) =>
    (List.range 8).foldl (fun c _ => if c % 2 = 1 then c / 2 ^^^ 0x82F63B78 else c / 2) (c ^^^ b.toNat)
  bytes.foldl step 0xFFFFFFFF ^^^ 0xFFFFFFFF

/-- A little-endian number from bytes (R21). -/
def leNat : List Byte → Nat
  | [] => 0
  | b :: t => b.toNat + 256 * leNat t

/-- The n little-endian bytes of a number (R21). -/
def leBytes : Nat → Nat → List Byte
  | 0, _ => []
  | n + 1, x => BitVec.ofNat 8 x :: leBytes n (x / 256)

/-- Bytes `lo` to `lo + n - 1` of a byte string, read little-endian; bytes past the end read as 0. -/
def leAt (bs : List Byte) (lo n : Nat) : Nat := leNat ((bs.drop lo).take n)

/-- ⌈a / b⌉. -/
def ceilDiv (a b : Nat) : Nat := (a + b - 1) / b

/-- The bit-mixing function of R83. -/
def fmix (z : Nat) : Nat :=
  let m := 2 ^ 64
  let z := z ^^^ z / 2 ^ 33
  let z := z * 0xFF51AFD7ED558CCD % m
  let z := z ^^^ z / 2 ^ 33
  let z := z * 0xC4CEB9FE1A85EC53 % m
  z ^^^ z / 2 ^ 33

/-- The 16 stochastic-rounding bits of an element (R83, R84): the Take and the reserved field of the Slate are masked out. -/
def srBits (jobSeed slate layer sub cls row col : Nat) : Nat :=
  let s := slate &&& 0xFFFFFFFFFFF0FFF0
  let h := fmix (jobSeed ^^^ fmix s)
  let h := fmix (h ^^^ layer * 2 ^ 8 ^^^ sub * 2 ^ 4 ^^^ cls)
  let h := fmix (h ^^^ ((row % 2 ^ 32) * 2 ^ 32 + col % 2 ^ 32))
  h % 65536

end Sys2Proof.Machine
end

