-- ==== Sys2Proof/Machine/NrtState.lean ====
section
/-! DEFINITION. What the NRT engine and the key table hold: key-table entries (R419), flow contexts with both PSN spaces (R423 to R432),
held notifications and their identities (R434 to R437), and the packets waiting to be sent. -/

namespace Sys2Proof.Machine

/-- A key-table entry (R419). `state`: 0 FREE, 1 VALID, 2 REVOKING. -/
structure KeyEntry where
  base : Nat
  length : Nat
  gen : Nat
  r : Bool
  w : Bool
  n : Bool
  dest : Nat
  state : Nat
  guest : Nat
  nkind : Nat
  ctr : Nat
  tile0 : Nat
  ntiles : Nat
  obj : Nat
  inuse : Nat
  slowRaised : Bool
deriving DecidableEq, Repr

/-- A FREE entry of GEN 0 (R420). -/
def KeyEntry.free : KeyEntry := ⟨0, 0, 0, false, false, false, 0, 0, 0, 0, 0, 0, 0, 0, 0, false⟩

/-- A path of a flow (R424). -/
structure NPath where
  port : Nat
  ipv6 : Bool
  valid : Bool
  ip : Nat
deriving DecidableEq, Repr

/-- A sequenced packet of this end: not yet sent (`sent` none), or sent and not yet acknowledged (R427, R431). `tile` and `ord` name the tile's send it carries;
`quiet` says that its next sending is counted already, or not counted: it was queued for a port that left UP (R425), or waits for a path to be sent again
after a NAK of the retry class (R422). -/
structure TxPkt where
  psn : Nat
  pkt : Packet
  tile : Option Nat
  ord : Nat
  sent : Option Nat
  path : Nat
  tries : Nat
  timeouts : Nat
  retryAt : Option Nat
  quiet : Bool
deriving DecidableEq, Repr

/-- A write accepted and not yet placed: held under R283, or waiting for its version (R282). -/
structure RxHeld where
  psn : Nat
  pkt : Packet
deriving DecidableEq, Repr

/-- A notification held until every lower PSN is placed (R434). -/
structure RxNote where
  psn : Nat
  pkt : Packet
deriving DecidableEq, Repr

/-- A READ_REQ admitted and being answered (R438): how many bytes have been handed to responses, and whether it waits for its version. -/
structure RxRead where
  pkt : Packet
  done : Nat
  waiting : Bool
deriving DecidableEq, Repr

/-- A read that this end has asked for (R438): its READ_REQ's PSN and packet, and the spans of the response, as offset and length, that have been placed. -/
structure Ask where
  psn : Nat
  pkt : Packet
  got : List (Nat × Nat)
deriving DecidableEq, Repr

/-- A NAK that ends a read, behind the responses before it (R438, R583): the PSN of the last of them, the READ_REQ's PSN, and its Slate. -/
structure NakDue where
  after : Nat
  psn : Nat
  slate : Nat
deriving DecidableEq, Repr

/-- A flow context. `state`: 0 FREE, 1 ACTIVE, 2 FAILED. `next` is the next PSN to give out, `una` the oldest not acknowledged;
`epsn` the lowest PSN not yet placed, `placed` the PSNs above it that are placed; `taint` the refused PSNs whose taint stands,
`wns` the PSNs of the WRITE_NOTIFYs received that a taint may still look for (R435);
`ids` the last 64 delivered identities, newest first (R437); `ackedAt` when the last sent of the acknowledged packets was sent (R431);
`asks` the reads of this end that are not complete; `acks` the ACKs and NAKs that wait for a path, `back` those that a port has given back (R425), `nakDue` the
NAKs that wait for their responses to be sent; `lastCut` when the rate was last cut, if ever (R442). -/
structure Flow where
  state : Nat
  epoch : Nat
  peerFlow : Nat
  loopback : Bool
  big : Bool
  guest : Nat
  peerModule : Nat
  rateMax : Nat
  paths : List NPath
  next : Nat
  una : Nat
  tx : List TxPkt
  epsn : Nat
  placed : List Nat
  held : List RxHeld
  notes : List RxNote
  taint : List Nat
  wns : List Nat
  ids : List (Nat × Nat × Nat × Nat)
  ceCount : Nat
  sinceAck : Nat
  ackDue : Bool
  acks : List Packet
  back : List Packet
  nakDue : List NakDue
  reads : List RxRead
  rate : Dy
  rate0 : Dy
  alpha : Dy
  ceInPeriod : Bool
  lastCut : Option Nat
  ackedAt : Nat
  asks : List Ask
  lastEvent : List (Nat × Nat)
deriving DecidableEq, Repr

/-- A FREE context. -/
def Flow.free : Flow :=
  { state := 0, epoch := 0, peerFlow := 0, loopback := false, big := false, guest := 0, peerModule := 0, rateMax := 0, paths := []
    next := 0, una := 0, tx := [], epsn := 0, placed := [], held := [], notes := [], taint := [], wns := [], ids := [], ceCount := 0
    sinceAck := 0, ackDue := false, acks := [], back := [], nakDue := [], reads := [], rate := Dy.zero, rate0 := Dy.zero, alpha := Dy.ofInt 1
    ceInPeriod := false, lastCut := none, ackedAt := 0, asks := [], lastEvent := [] }

/-- The NRT engine and the key table. `hops` says which (port, peer address) next hops are resolved (R425); `ecrcAt` when each port last
raised EV_NRT_ECRC; `ringFull` the rings found full, each with the flow and the Slate of the WRITE_NOTIFY refused; `lost` the Slates of tile sends that a failed flow discarded (R432); `lostKeys` the
entries lost to an uncorrectable error that the keeper is still to reinstall (R581); `keyEvents` the guests of the keys that events of revocation are about, by the
events' SEQ (R589). -/
structure Nrt where
  keys : Store KeyEntry
  flows : Store Flow
  hops : List (Nat × Nat)
  ecrcAt : List (Nat × Nat)
  ringFull : List (Nat × Nat × Nat)
  lost : List Nat
  lostKeys : List Nat
  keyEvents : List (Nat × Nat)
deriving DecidableEq, Repr

/-- An engine with every key FREE and every context FREE. -/
def Nrt.empty : Nrt := { keys := [], flows := [], hops := [], ecrcAt := [], ringFull := [], lost := [], lostKeys := [], keyEvents := [] }

end Sys2Proof.Machine
end

