-- ==== Sys2Proof/Machine/PwrState.lean ====
section
/-! DEFINITION. What the power controller and the clocks hold besides their registers (R510 to R536), and the time counter's fractions (R514). -/

namespace Sys2Proof.Machine

/-- A tile group's clock: the point its voltage and frequency are changing to; after a persistent droop the point it may not be raised above and
until when (R527); whether COMPUTE's budget holds it down (R519); and the point that sensors hold it to, with the points they have lowered it by (R532). -/
structure GroupClk where
  target : Option Nat
  ceiling : Option (Nat × Nat)
  bound : Bool
  hot : Option (Nat × Nat)
deriving DecidableEq, Repr

def GroupClk.empty : GroupClk := { target := none, ceiling := none, bound := false, hot := none }

/-- What LEARN has learned of a phase (R521): the demands of MEMORY, UPDATE and HUB in 0.1 W / 2^16. -/
structure Phase where
  memory : Nat
  update : Nat
  hub : Nat
deriving DecidableEq, Repr

/-- A visit of a phase: its number, the samples taken, the sums of the three draws. -/
structure Visit where
  phase : Nat
  n : Nat
  memory : Nat
  update : Nat
  hub : Nat
deriving DecidableEq, Repr

/-- A far die's last PWR report of a sensor (R537): its link and its sensor, the power it measures in mW, the share and the point in force, and its time. -/
structure PwrReport where
  link : Nat
  sensor : Nat
  power : Nat
  share : Nat
  point : Nat
  time : Nat
deriving DecidableEq, Repr

/-- The power controller. `frac` is the fraction of the time counter's next nanosecond in parts of 10^9, `neg` the nanoseconds of negative steps not
yet absorbed, `usNs` the nanoseconds into the microsecond in work; `effecter` the PLDM cap; `sumM`, `sumE`, `sumN` the samples of the millisecond in
work; `m` and `e` the last M and E, `sameE` E when M last changed, `same` the ticks since; `good` the plausible ticks since the sensor failed; `apart` and
`near` the ticks for which E and M have differed and agreed; `diverged` that max(E, M) governs; `governs` the value that capping uses; `inputs` the draws of the slot's 12 V and of both connectors in 0.1 W (R31); `draws` and
`budgets` of COMPUTE, MEMORY, UPDATE, HUB in 0.1 W, `excess` the ticks each has exceeded its own, `cuts` the eighths that sensors take from MEMORY and
UPDATE; `shares` the shares in 1/256 that MEMORY and UPDATE are held to (R519, R537); `reports` the far dies' last reports; `learnLeft` the step openings until LEARN's table has filled, `learned` the table, `visit` the phase in work and `raised` the budgets raised in
it; `temps` the last readings by row and index in 1/8 °C, `warned`, `throttled` and `overdue` the sensors in those states, `therm` THERM#; `matchStep`
the step for which EV_MATCH_LOST was last raised; `ageNext` the column that waits to take effect; `tripAt` the time of the last thermal trip; `levels`
the tile groups whose activity rises in stages (R529): when the rise began and its level then, in 1/65,536. -/
structure Pwr where
  frac : Nat
  neg : Nat
  usNs : Nat
  effecter : Option Nat
  sumM : Nat
  sumE : Nat
  sumN : Nat
  m : Nat
  e : Nat
  sameE : Nat
  same : Nat
  good : Nat
  apart : Nat
  near : Nat
  diverged : Bool
  governs : Nat
  draws : List Nat
  inputs : List Nat
  budgets : List Nat
  excess : List Nat
  cuts : List Nat
  shares : List Nat
  reports : List PwrReport
  learnLeft : Nat
  learned : Store Phase
  visit : Option Visit
  raised : List (Nat × Nat)
  groups : Store GroupClk
  temps : List (Nat × Nat × Int)
  warned : List (Nat × Nat)
  throttled : List (Nat × Nat)
  overdue : List (Nat × Nat)
  therm : Bool
  matchStep : Option Nat
  ageNext : Option Nat
  tripAt : Option Nat
  levels : List (Nat × Nat × Nat)
deriving DecidableEq, Repr

def Pwr.empty : Pwr :=
  { frac := 0, neg := 0, usNs := 0, effecter := none, sumM := 0, sumE := 0, sumN := 0, m := 0, e := 0, sameE := 0, same := 0, good := 0, apart := 0
    near := 0, diverged := false, governs := 0, draws := [0, 0, 0, 0], inputs := [0, 0, 0], budgets := [0, 0, 0, 0], excess := [0, 0, 0, 0], cuts := [0, 0]
    shares := [256, 256], reports := []
    learnLeft := 0, learned := [], visit := none, raised := [], groups := [], temps := []
    warned := [], throttled := [], overdue := [], therm := false, matchStep := none, ageNext := none, tripAt := none, levels := [] }

end Sys2Proof.Machine
end

