-- ==== Sys2Proof/Machine/ReelState.lean ====
section
/-! DEFINITION. What the Reel engine and the hub's object table hold (R272 to R296), and the job that stage firmware has loaded
(R257 to R259). -/

namespace Sys2Proof.Machine

/-- An entry of the object table in the hub's own copy (R272, R274). -/
structure Obj where
  tier : Nat
  fmt : Nat
  sparse : Nat
  versioned : Bool
  actTag : Nat
  kind : Nat
  layer : Nat
  sub : Nat
  group : Nat
  rows : Nat
  cols : Nat
  addr0 : Nat
  addr1 : Nat
  size : Nat
  ver0 : Nat
  ver1 : Nat
  nshard : Nat
  resv : Bool
deriving DecidableEq, Repr

/-- A Reel entry in the hub's own copy (R284). -/
structure ReelEntry where
  obj : Nat
  cue : Nat
  start : Nat
  tile0 : Nat
  ntm1 : Nat
  srcOff : Nat
  lines : Nat
  bcast : Bool
  destLine : Nat
  dtierT1 : Bool
  mbStride : Nat
  mbAdv : Nat
  deadline : Nat
  fallback : Nat
  alt : Bool
  rskip : Nat
  dobj : Nat
  doff : Nat
  resv : Bool
deriving DecidableEq, Repr

/-- How the transfer of an armed entry for a tile stands (R287 to R292). -/
inductive XferState where
  | queued | placed | missed | lower
deriving DecidableEq, Repr

/-- An entry armed for a tile: the step and micro-batch of its occurrence, how its transfer stands, the place of its cue in the order in which cues have been
reached, if it has been (R289), and whether it has missed while it waits (R291). -/
structure Xfer where
  entry : Nat
  tile : Nat
  step : Nat
  mb : Nat
  st : XferState
  reached : Option Nat
  missed : Bool
deriving DecidableEq, Repr

/-- The Reel engine: `copying` until its tables are in the hub's SRAM; the tables; the armed entries in the order armed; which (entry, tile)
pairs have had their cue since RUN, so that START arms them again; the armed record of each tile with a Take open (R296); VER fields whose
write-back is due (R274); `reaches` counts the cues reached and `cueSeq` keeps that of each tile's last (R289); the last step for which EV_REEL_INEXACT was raised. -/
structure Reel where
  copying : Bool
  ready : Bool
  objects : List Obj
  entries : List ReelEntry
  xfers : List Xfer
  takeRecord : List (Nat × List Xfer)
  verDue : List (Nat × Nat)
  inexactSteps : List Nat
  commits : List (Nat × Nat × List Nat)
  reaches : Nat
  cueSeq : List (Nat × Nat)
deriving DecidableEq, Repr

/-- No tables, nothing armed. -/
def Reel.empty : Reel :=
  { copying := false, ready := false, objects := [], entries := [], xfers := [], takeRecord := [], verDue := [], inexactSteps := []
    commits := [], reaches := 0, cueSeq := [] }

/-- The tile map of the job image (R258): stage, group and skip-table line of a logical tile. -/
structure TileMap where
  stage : Nat
  group : Nat
  skipLine : Nat
deriving DecidableEq, Repr

/-- A section of the job image (R258), at its offset from the image. -/
structure Section where
  type : Nat
  index : Nat
  offset : Nat
  length : Nat
deriving DecidableEq, Repr

/-- The job loaded on the module: where its image lies, what its header says (R257), its sections, its tile map and its Clapper map, and
whether it runs: `running` from START_JOB, and `started` once its tiles have been set running (R259). -/
structure Job where
  base : Nat
  jobId : Nat
  seed : Nat
  overlap : Bool
  strictFrozen : Bool
  module : Nat
  modules : Nat
  tiles : Nat
  shape : List Byte
  sections : List Section
  tileMap : List TileMap
  clap : ClapMap
  owner : Nat
  running : Bool
  started : Bool
  stopped : Bool
deriving DecidableEq, Repr

end Sys2Proof.Machine
end

