-- ==== Sys2Proof/Machine/RegMap.lean ====
section
/-! DEFINITION. The register map: every register the spec gives the module, at its offset in the register region
(the block table of 00_scope.md and the register tables of each chapter), with each field's place, access type
(R8) and reset value. One table per block; `Reg.<NAME>` is a register's offset, `Fl.<NAME>_<FIELD>` one of its fields. -/

namespace Sys2Proof.Machine

/-- The register access types of R8. `w1a` is the W1C field of R478 that any written 1 clears whole. -/
inductive FType where
  | rw | ro | w1c | w1a | wo | rws | rwl
deriving DecidableEq, Repr

/-- How a register takes part in a 64-bit quantity (R14). -/
inductive RegKind where
  | plain | lo | hi
deriving DecidableEq, Repr

/-- One field of a register: bits `lo` to `lo + width - 1`, its type, whether it is static (R13), its reset value. -/
structure FieldSpec where
  lo : Nat
  width : Nat
  ty : FType
  static : Bool
  reset : Nat
deriving DecidableEq, Repr

/-- A register, or an array of `n1` by `n2` of them at strides `s1` and `s2`, at `off` in its block. `run` is the
register offset and bit of the RUN bit that judges its static fields; `runMoves` says that it moves with the array. -/
structure RegSpec where
  off : Nat
  n1 : Nat
  s1 : Nat
  n2 : Nat
  s2 : Nat
  kind : RegKind
  run : Option (Nat × Nat)
  runMoves : Bool
  fields : List FieldSpec
deriving DecidableEq, Repr

/-- A block of registers, or `count` copies of it at `stride`. -/
structure BlockSpec where
  base : Nat
  stride : Nat
  count : Nat
  regs : List RegSpec
deriving DecidableEq, Repr

/-- A place in a register: the register's offset, the field's lowest bit and its width. -/
structure Fld where
  off : Nat
  lo : Nat
  width : Nat
deriving DecidableEq, Repr

/-- The mask of a field within its 32-bit register. -/
def FieldSpec.mask (f : FieldSpec) : Nat := (2 ^ f.width - 1) * 2 ^ f.lo

/-- Registers of block IDENT, part 1 (R52, R53, R54, R55). -/
def regsIdent1 : List RegSpec := [
  -- IDENT_SURVEY (R52)
  ⟨0x100, 1, 0x0, 1, 0x0, .plain, none, false,
    [⟨0, 1, .ro, false, 0x0⟩, ⟨1, 1, .ro, false, 0x0⟩, ⟨8, 8, .ro, false, 0x0⟩, ⟨16, 1, .wo, false, 0x0⟩]⟩,
  -- IDENT_SUPPLY_SLOT (R53)
  ⟨0x104, 1, 0x0, 1, 0x0, .plain, none, false,
    [⟨0, 16, .ro, false, 0x0⟩, ⟨16, 2, .ro, false, 0x0⟩, ⟨20, 10, .ro, false, 0x0⟩]⟩,
  -- IDENT_SUPPLY_CONN0 (R53)
  ⟨0x108, 1, 0x0, 1, 0x0, .plain, none, false,
    [⟨0, 16, .ro, false, 0x0⟩, ⟨16, 2, .ro, false, 0x0⟩, ⟨20, 10, .ro, false, 0x0⟩]⟩,
  -- IDENT_SUPPLY_CONN1 (R53)
  ⟨0x10C, 1, 0x0, 1, 0x0, .plain, none, false,
    [⟨0, 16, .ro, false, 0x0⟩, ⟨16, 2, .ro, false, 0x0⟩, ⟨20, 10, .ro, false, 0x0⟩]⟩,
  -- IDENT_CAP_CEILING (R54)
  ⟨0x110, 1, 0x0, 1, 0x0, .plain, none, false,
    [⟨0, 10, .ro, false, 0x0⟩]⟩,
  -- IDENT_CAGE (R55)
  ⟨0x120, 5, 0x4, 1, 0x0, .plain, none, false,
    [⟨0, 1, .ro, false, 0x0⟩, ⟨1, 1, .ro, false, 0x0⟩, ⟨2, 2, .ro, false, 0x0⟩, ⟨4, 4, .ro, false, 0x0⟩, ⟨8, 8, .ro, false, 0x0⟩, ⟨16, 4, .ro, false, 0x0⟩, ⟨20, 4, .ro, false, 0x0⟩, ⟨24, 4, .ro, false, 0xF⟩, ⟨28, 1, .ro, false, 0x0⟩]⟩
]

/-- Registers of block RSTC, part 1 (R576, R577). -/
def regsRstc1 : List RegSpec := [
  -- RSTC_CTRL (R576)
  ⟨0x0, 1, 0x0, 1, 0x0, .plain, none, false,
    [⟨0, 1, .wo, false, 0x0⟩, ⟨1, 1, .wo, false, 0x0⟩, ⟨2, 1, .wo, false, 0x0⟩, ⟨8, 8, .wo, false, 0x0⟩]⟩,
  -- RSTC_STATE (R576)
  ⟨0x4, 1, 0x0, 1, 0x0, .plain, none, false,
    [⟨0, 4, .ro, false, 0x0⟩]⟩,
  -- RSTC_CAUSE (R576)
  ⟨0x8, 1, 0x0, 1, 0x0, .plain, none, false,
    [⟨0, 4, .ro, false, 0x1⟩, ⟨4, 4, .ro, false, 0x0⟩, ⟨8, 1, .ro, false, 0x1⟩]⟩,
  -- RSTC_CAUSE_TIME_LO (R576)
  ⟨0xC, 1, 0x0, 1, 0x0, .lo, none, false,
    [⟨0, 32, .ro, false, 0x0⟩]⟩,
  -- RSTC_CAUSE_TIME_HI (R576)
  ⟨0x10, 1, 0x0, 1, 0x0, .hi, none, false,
    [⟨0, 32, .ro, false, 0x0⟩]⟩,
  -- RSTC_BLOCK (R576)
  ⟨0x14, 1, 0x0, 1, 0x0, .plain, none, false,
    [⟨0, 1, .rwl, false, 0x0⟩, ⟨1, 4, .rwl, false, 0x0⟩, ⟨5, 3, .rwl, false, 0x0⟩, ⟨8, 1, .rwl, false, 0x0⟩]⟩,
  -- RSTC_WDOG (R576)
  ⟨0x18, 1, 0x0, 1, 0x0, .plain, none, false,
    [⟨0, 32, .rwl, false, 0x0⟩]⟩,
  -- RSTC_STAGE_WDOG (R576)
  ⟨0x1C, 1, 0x0, 1, 0x0, .plain, none, false,
    [⟨0, 32, .wo, false, 0x0⟩]⟩,
  -- RSTC_COUNT_LO (R577)
  ⟨0x40, 5, 0x8, 1, 0x0, .lo, none, false,
    [⟨0, 32, .rw, false, 0x0⟩]⟩,
  -- RSTC_COUNT_HI (R577)
  ⟨0x44, 5, 0x8, 1, 0x0, .hi, none, false,
    [⟨0, 16, .rw, false, 0x0⟩]⟩
]

/-- Registers of block OPTS, part 1 (R578). -/
def regsOpts1 : List RegSpec := [
  -- OPTS_STATUS (R578)
  ⟨0x0, 1, 0x0, 1, 0x0, .plain, none, false,
    [⟨0, 2, .ro, false, 0x0⟩, ⟨2, 1, .ro, false, 0x0⟩, ⟨3, 1, .ro, false, 0x0⟩, ⟨4, 1, .ro, false, 0x0⟩, ⟨5, 1, .ro, false, 0x0⟩, ⟨6, 1, .ro, false, 0x0⟩]⟩,
  -- OPTS_SEQ (R578)
  ⟨0x4, 1, 0x0, 1, 0x0, .plain, none, false,
    [⟨0, 32, .ro, false, 0x0⟩]⟩,
  -- OPTS_VALUES (R578)
  ⟨0x8, 1, 0x0, 1, 0x0, .plain, none, false,
    [⟨0, 1, .ro, false, 0x0⟩, ⟨1, 1, .ro, false, 0x0⟩, ⟨16, 16, .ro, false, 0x3E8⟩]⟩,
  -- OPTS_MIN_REV (R578)
  ⟨0xC, 1, 0x0, 1, 0x0, .plain, none, false,
    [⟨0, 8, .ro, false, 0x0⟩, ⟨8, 8, .ro, false, 0x0⟩, ⟨16, 8, .ro, false, 0x0⟩]⟩,
  -- OPTS_MEAS (R578)
  ⟨0x100, 6, 0x40, 12, 0x4, .plain, none, false,
    [⟨0, 32, .ro, false, 0x0⟩]⟩
]

/-- Registers of block PWRM, part 1 (R539, R540, R541, R542, R543, R544). -/
def regsPwrm1 : List RegSpec := [
  -- PWRM_CTRL (R539)
  ⟨0x0, 1, 0x0, 1, 0x0, .plain, none, false,
    [⟨0, 1, .rws, false, 0x0⟩, ⟨1, 1, .rws, false, 0x0⟩, ⟨2, 1, .wo, false, 0x0⟩, ⟨4, 8, .rw, false, 0x40⟩, ⟨12, 4, .rws, false, 0x3⟩, ⟨16, 8, .rws, false, 0x8⟩]⟩,
  -- PWRM_CAP (R540)
  ⟨0x4, 1, 0x0, 1, 0x0, .plain, none, false,
    [⟨0, 10, .rw, false, 0x320⟩, ⟨16, 10, .ro, false, 0x0⟩]⟩,
  -- PWRM_FRAC (R541)
  ⟨0x8, 1, 0x0, 1, 0x0, .plain, none, false,
    [⟨0, 8, .rws, false, 0x1C⟩, ⟨8, 8, .rws, false, 0xC⟩, ⟨16, 8, .rws, false, 0x2A⟩]⟩,
  -- PWRM_STATUS (R542)
  ⟨0xC, 1, 0x0, 1, 0x0, .plain, none, false,
    [⟨0, 1, .ro, false, 0x0⟩, ⟨1, 1, .ro, false, 0x0⟩, ⟨2, 1, .w1c, false, 0x0⟩, ⟨3, 1, .ro, false, 0x0⟩, ⟨4, 1, .w1c, false, 0x0⟩, ⟨5, 1, .ro, false, 0x0⟩, ⟨6, 1, .ro, false, 0x0⟩, ⟨7, 1, .ro, false, 0x0⟩]⟩,
  -- PWRM_POWER (R543)
  ⟨0x10, 1, 0x0, 1, 0x0, .plain, none, false,
    [⟨0, 16, .ro, false, 0x0⟩, ⟨16, 16, .ro, false, 0x0⟩]⟩,
  -- PWRM_THERM (R543)
  ⟨0x14, 1, 0x0, 1, 0x0, .plain, none, false,
    [⟨0, 8, .ro, false, 0x0⟩, ⟨8, 8, .ro, false, 0x0⟩, ⟨16, 8, .ro, false, 0x0⟩, ⟨24, 8, .ro, false, 0x0⟩]⟩,
  -- PWRM_COUNT_LO (R544)
  ⟨0x40, 6, 0x8, 1, 0x0, .lo, none, false,
    [⟨0, 32, .rw, false, 0x0⟩]⟩,
  -- PWRM_COUNT_HI (R544)
  ⟨0x44, 6, 0x8, 1, 0x0, .hi, none, false,
    [⟨0, 16, .rw, false, 0x0⟩]⟩
]

/-- Registers of block CLKG, part 1 (R546). -/
def regsClkg1 : List RegSpec := [
  -- CLKG_TIME_LO (R546)
  ⟨0x0, 1, 0x0, 1, 0x0, .lo, none, false,
    [⟨0, 32, .ro, false, 0x0⟩]⟩,
  -- CLKG_TIME_HI (R546)
  ⟨0x4, 1, 0x0, 1, 0x0, .hi, none, false,
    [⟨0, 32, .ro, false, 0x0⟩]⟩,
  -- CLKG_TRIM (R546)
  ⟨0x8, 1, 0x0, 1, 0x0, .plain, none, false,
    [⟨0, 20, .rw, false, 0x0⟩]⟩,
  -- CLKG_STEP (R546)
  ⟨0xC, 1, 0x0, 1, 0x0, .plain, none, false,
    [⟨0, 32, .wo, false, 0x0⟩]⟩,
  -- CLKG_MATCH (R546)
  ⟨0x10, 1, 0x0, 1, 0x0, .plain, none, false,
    [⟨0, 11, .rw, false, 0x640⟩]⟩,
  -- CLKG_HOURS (R546)
  ⟨0x14, 1, 0x0, 1, 0x0, .plain, none, false,
    [⟨0, 32, .ro, false, 0x0⟩]⟩,
  -- CLKG_GROUP (R546)
  ⟨0x100, 12, 0x4, 1, 0x0, .plain, none, false,
    [⟨0, 4, .ro, false, 0x0⟩, ⟨4, 2, .ro, false, 0x0⟩, ⟨6, 1, .ro, false, 0x1⟩, ⟨7, 1, .ro, false, 0x0⟩, ⟨8, 11, .ro, false, 0x0⟩]⟩
]

/-- Registers of block HOSTIF, part 1 (R477). -/
def regsHostif1 : List RegSpec := [
  -- HOSTIF_LINK (R477)
  ⟨0x0, 1, 0x0, 1, 0x0, .plain, none, false,
    [⟨0, 3, .ro, false, 0x0⟩, ⟨3, 5, .ro, false, 0x0⟩, ⟨8, 1, .ro, false, 0x0⟩, ⟨9, 1, .ro, false, 0x0⟩]⟩,
  -- HOSTIF_TILE_WIN (R477)
  ⟨0x4, 1, 0x0, 1, 0x0, .plain, none, false,
    [⟨0, 8, .rw, false, 0x0⟩]⟩,
  -- HOSTIF_BACKLOG_BASE_LO (R477)
  ⟨0x8, 1, 0x0, 1, 0x0, .lo, none, false,
    [⟨0, 32, .rwl, false, 0x0⟩]⟩,
  -- HOSTIF_BACKLOG_BASE_HI (R477)
  ⟨0xC, 1, 0x0, 1, 0x0, .hi, none, false,
    [⟨0, 16, .rwl, false, 0x0⟩]⟩,
  -- HOSTIF_GUEST_BASE_LO (R477)
  ⟨0x110, 8, 0x10, 1, 0x0, .lo, none, false,
    [⟨0, 32, .rwl, false, 0x0⟩]⟩,
  -- HOSTIF_GUEST_BASE_HI (R477)
  ⟨0x114, 8, 0x10, 1, 0x0, .hi, none, false,
    [⟨0, 16, .rwl, false, 0x0⟩]⟩,
  -- HOSTIF_GUEST_SIZE (R477)
  ⟨0x118, 8, 0x10, 1, 0x0, .plain, none, false,
    [⟨0, 18, .rwl, false, 0x0⟩]⟩,
  -- HOSTIF_GUEST_CFG (R477)
  ⟨0x11C, 8, 0x10, 1, 0x0, .plain, none, false,
    [⟨0, 1, .rwl, false, 0x0⟩, ⟨1, 1, .rwl, false, 0x0⟩, ⟨2, 1, .rwl, false, 0x0⟩]⟩
]

/-- Registers of block FN, part 1 (R478). -/
def regsFn1 : List RegSpec := [
  -- FN_CTRL (R478)
  ⟨0x0, 1, 0x0, 1, 0x0, .plain, none, false,
    [⟨0, 1, .wo, false, 0x0⟩, ⟨1, 1, .wo, false, 0x0⟩, ⟨16, 16, .rw, false, 0x3E8⟩]⟩,
  -- FN_STATUS (R478)
  ⟨0x4, 1, 0x0, 1, 0x0, .plain, none, false,
    [⟨0, 1, .ro, false, 0x0⟩, ⟨1, 3, .ro, false, 0x0⟩, ⟨4, 1, .w1c, false, 0x0⟩, ⟨8, 8, .w1a, false, 0x0⟩]⟩,
  -- FN_LIVE (R478)
  ⟨0x8, 1, 0x0, 1, 0x0, .plain, none, false,
    [⟨0, 32, .wo, false, 0x0⟩]⟩,
  -- FN_EPOCH (R478)
  ⟨0xC, 1, 0x0, 1, 0x0, .plain, none, false,
    [⟨0, 8, .ro, false, 0x0⟩]⟩,
  -- FN_JOB (R478)
  ⟨0x10, 1, 0x0, 1, 0x0, .plain, none, false,
    [⟨0, 2, .ro, false, 0x0⟩, ⟨2, 4, .ro, false, 0x0⟩]⟩,
  -- FN_WIN_LO (R478)
  ⟨0x40, 8, 0x8, 1, 0x0, .plain, none, false,
    [⟨0, 32, .rw, false, 0x0⟩]⟩,
  -- FN_WIN_HI (R478)
  ⟨0x44, 8, 0x8, 1, 0x0, .plain, none, false,
    [⟨0, 16, .rw, false, 0x0⟩, ⟨31, 1, .rw, false, 0x0⟩]⟩,
  -- SQ_BASE_LO (R478)
  ⟨0x80, 4, 0x20, 1, 0x0, .lo, some (0x90, 12), true,
    [⟨0, 32, .rw, true, 0x0⟩]⟩,
  -- SQ_BASE_HI (R478)
  ⟨0x84, 4, 0x20, 1, 0x0, .hi, some (0x90, 12), true,
    [⟨0, 32, .rw, true, 0x0⟩]⟩,
  -- CQ_BASE_LO (R478)
  ⟨0x88, 4, 0x20, 1, 0x0, .lo, some (0x90, 12), true,
    [⟨0, 32, .rw, true, 0x0⟩]⟩,
  -- CQ_BASE_HI (R478)
  ⟨0x8C, 4, 0x20, 1, 0x0, .hi, some (0x90, 12), true,
    [⟨0, 32, .rw, true, 0x0⟩]⟩,
  -- RING_CFG (R478)
  ⟨0x90, 4, 0x20, 1, 0x0, .plain, some (0x90, 12), true,
    [⟨0, 4, .rw, true, 0x4⟩, ⟨4, 4, .rw, true, 0x4⟩, ⟨8, 4, .rw, true, 0x1⟩, ⟨12, 1, .rw, false, 0x0⟩, ⟨16, 8, .rw, false, 0x0⟩, ⟨24, 8, .rw, false, 0x0⟩]⟩,
  -- SQ_DB (R478)
  ⟨0x94, 4, 0x20, 1, 0x0, .plain, none, false,
    [⟨0, 12, .wo, false, 0x0⟩, ⟨16, 8, .wo, false, 0x0⟩]⟩,
  -- CQ_DB (R478)
  ⟨0x98, 4, 0x20, 1, 0x0, .plain, none, false,
    [⟨0, 12, .wo, false, 0x0⟩, ⟨16, 8, .wo, false, 0x0⟩]⟩,
  -- RING_STATUS (R478)
  ⟨0x9C, 4, 0x20, 1, 0x0, .plain, none, false,
    [⟨0, 12, .ro, false, 0x0⟩, ⟨12, 1, .ro, false, 0x0⟩, ⟨13, 1, .ro, false, 0x0⟩]⟩,
  -- EVR_BASE_LO (R478)
  ⟨0x100, 1, 0x0, 1, 0x0, .lo, some (0x108, 4), false,
    [⟨0, 32, .rw, true, 0x0⟩]⟩
]

/-- Registers of block FN, part 2 (R478). -/
def regsFn2 : List RegSpec := [
  -- EVR_BASE_HI (R478)
  ⟨0x104, 1, 0x0, 1, 0x0, .hi, some (0x108, 4), false,
    [⟨0, 32, .rw, true, 0x0⟩]⟩,
  -- EVR_CFG (R478)
  ⟨0x108, 1, 0x0, 1, 0x0, .plain, some (0x108, 4), false,
    [⟨0, 4, .rw, true, 0x6⟩, ⟨4, 1, .rw, false, 0x0⟩]⟩,
  -- EVR_HEAD (R478)
  ⟨0x10C, 1, 0x0, 1, 0x0, .plain, none, false,
    [⟨0, 15, .wo, false, 0x0⟩, ⟨16, 8, .wo, false, 0x0⟩]⟩
]

/-- Registers of block MAC, part 1 (R404, R405, R406, R407, R408, R409, R410, R411, R412). -/
def regsMac1 : List RegSpec := [
  -- MAC_CTRL (R404)
  ⟨0x0, 1, 0x0, 1, 0x0, .plain, some (0x0, 0), false,
    [⟨0, 1, .rw, false, 0x0⟩, ⟨1, 2, .rw, true, 0x3⟩, ⟨3, 1, .rw, true, 0x0⟩, ⟨4, 1, .rw, true, 0x0⟩, ⟨5, 1, .rw, false, 0x1⟩, ⟨6, 1, .rw, false, 0x0⟩, ⟨7, 1, .wo, false, 0x0⟩, ⟨16, 8, .rw, false, 0x10⟩]⟩,
  -- MAC_STATUS (R405)
  ⟨0x4, 1, 0x0, 1, 0x0, .plain, none, false,
    [⟨0, 3, .ro, false, 0x0⟩, ⟨3, 2, .ro, false, 0x0⟩, ⟨5, 1, .ro, false, 0x0⟩, ⟨6, 1, .ro, false, 0x0⟩, ⟨7, 1, .ro, false, 0x0⟩, ⟨8, 1, .ro, false, 0x0⟩, ⟨9, 1, .w1c, false, 0x0⟩, ⟨16, 16, .ro, false, 0x0⟩]⟩,
  -- MAC_ADDR_LO (R406)
  ⟨0x8, 1, 0x0, 1, 0x0, .lo, some (0x0, 0), false,
    [⟨0, 32, .rw, true, 0x0⟩]⟩,
  -- MAC_ADDR_HI (R406)
  ⟨0xC, 1, 0x0, 1, 0x0, .hi, some (0x0, 0), false,
    [⟨0, 16, .rw, true, 0x0⟩]⟩,
  -- MAC_VLAN (R407)
  ⟨0x10, 1, 0x0, 1, 0x0, .plain, some (0x0, 0), false,
    [⟨0, 12, .rw, true, 0x0⟩, ⟨12, 1, .rw, true, 0x0⟩, ⟨13, 3, .rws, false, 0x0⟩, ⟨16, 3, .rws, false, 0x6⟩]⟩,
  -- MAC_PFC (R408)
  ⟨0x14, 1, 0x0, 1, 0x0, .plain, some (0x0, 0), false,
    [⟨0, 8, .rw, true, 0x0⟩, ⟨8, 8, .rw, true, 0x40⟩, ⟨16, 8, .rw, true, 0x20⟩]⟩,
  -- MAC_LP (R409)
  ⟨0x18, 1, 0x0, 1, 0x0, .plain, none, false,
    [⟨0, 8, .rw, false, 0x14⟩, ⟨8, 8, .rw, false, 0x20⟩, ⟨16, 7, .rw, false, 0x50⟩]⟩,
  -- MAC_LLDP (R410)
  ⟨0x1C, 1, 0x0, 1, 0x0, .plain, none, false,
    [⟨0, 8, .rw, false, 0x1⟩, ⟨8, 1, .rw, false, 0x1⟩, ⟨16, 16, .ro, false, 0xFFFF⟩]⟩,
  -- MAC_IPV4 (R406)
  ⟨0x20, 1, 0x0, 1, 0x0, .plain, some (0x0, 0), false,
    [⟨0, 32, .rw, true, 0x0⟩]⟩,
  -- MAC_IPV6 (R406)
  ⟨0x24, 4, 0x4, 1, 0x0, .plain, some (0x0, 0), false,
    [⟨0, 32, .rw, true, 0x0⟩]⟩,
  -- MAC_PTP_LAT (R411)
  ⟨0x40, 1, 0x0, 1, 0x0, .plain, none, false,
    [⟨0, 16, .ro, false, 0x0⟩, ⟨16, 16, .ro, false, 0x0⟩]⟩,
  -- MAC_PTP_DELAY (R411)
  ⟨0x44, 1, 0x0, 1, 0x0, .plain, none, false,
    [⟨0, 24, .ro, false, 0x0⟩, ⟨24, 1, .ro, false, 0x0⟩]⟩,
  -- MAC_COUNT_LO (R412)
  ⟨0x100, 12, 0x8, 1, 0x0, .lo, none, false,
    [⟨0, 32, .rw, false, 0x0⟩]⟩,
  -- MAC_COUNT_HI (R412)
  ⟨0x104, 12, 0x8, 1, 0x0, .hi, none, false,
    [⟨0, 16, .rw, false, 0x0⟩]⟩,
  -- MAC_DROP_LO (R412)
  ⟨0x200, 12, 0x8, 1, 0x0, .lo, none, false,
    [⟨0, 32, .rw, false, 0x0⟩]⟩,
  -- MAC_DROP_HI (R412)
  ⟨0x204, 12, 0x8, 1, 0x0, .hi, none, false,
    [⟨0, 16, .rw, false, 0x0⟩]⟩
]

/-- Registers of block NRT, part 1 (R445, R446, R447, R448, R450). -/
def regsNrt1 : List RegSpec := [
  -- NRT_CTRL (R445)
  ⟨0x0, 1, 0x0, 1, 0x0, .plain, some (0x0, 0), false,
    [⟨0, 1, .rw, false, 0x0⟩, ⟨16, 16, .rw, true, 0xBB29⟩]⟩,
  -- NRT_STATUS (R445)
  ⟨0x4, 1, 0x0, 1, 0x0, .plain, none, false,
    [⟨0, 1, .ro, false, 0x0⟩, ⟨1, 1, .w1c, false, 0x0⟩, ⟨2, 1, .w1c, false, 0x0⟩, ⟨3, 1, .w1c, false, 0x0⟩, ⟨4, 1, .w1c, false, 0x0⟩, ⟨16, 12, .ro, false, 0x0⟩]⟩,
  -- NRT_TIMING (R446)
  ⟨0x8, 1, 0x0, 1, 0x0, .plain, some (0x0, 0), false,
    [⟨0, 8, .rw, true, 0x64⟩, ⟨8, 8, .rw, true, 0x8⟩, ⟨16, 4, .rw, true, 0x2⟩, ⟨20, 5, .rw, true, 0x10⟩, ⟨25, 7, .rw, true, 0x19⟩]⟩,
  -- NRT_RATE (R446)
  ⟨0xC, 1, 0x0, 1, 0x0, .plain, some (0x0, 0), false,
    [⟨0, 8, .rw, true, 0xA⟩, ⟨8, 8, .rw, true, 0x1⟩, ⟨16, 4, .rw, true, 0x4⟩, ⟨20, 8, .rw, true, 0xA⟩]⟩,
  -- NRT_RING_BASE_LO (R447)
  ⟨0x10, 1, 0x0, 1, 0x0, .lo, some (0x0, 0), false,
    [⟨0, 32, .rw, true, 0x0⟩]⟩,
  -- NRT_RING_BASE_HI (R447)
  ⟨0x14, 1, 0x0, 1, 0x0, .hi, some (0x0, 0), false,
    [⟨0, 16, .rw, true, 0x0⟩]⟩,
  -- NRT_DEDUP_BASE_LO (R447)
  ⟨0x18, 1, 0x0, 1, 0x0, .lo, some (0x0, 0), false,
    [⟨0, 32, .rw, true, 0x0⟩]⟩,
  -- NRT_DEDUP_BASE_HI (R447)
  ⟨0x1C, 1, 0x0, 1, 0x0, .hi, some (0x0, 0), false,
    [⟨0, 16, .rw, true, 0x0⟩]⟩,
  -- NRT_FLOW_SEL (R448)
  ⟨0x20, 1, 0x0, 1, 0x0, .plain, none, false,
    [⟨0, 12, .rw, false, 0x0⟩, ⟨12, 1, .wo, false, 0x0⟩, ⟨13, 1, .wo, false, 0x0⟩]⟩,
  -- NRT_FLOW_STATE (R448)
  ⟨0x24, 1, 0x0, 1, 0x0, .plain, none, false,
    [⟨0, 2, .ro, false, 0x0⟩, ⟨8, 8, .ro, false, 0x0⟩, ⟨16, 8, .ro, false, 0x0⟩]⟩,
  -- NRT_FLOW_REC_LO (R447)
  ⟨0x28, 1, 0x0, 1, 0x0, .lo, none, false,
    [⟨0, 32, .rw, false, 0x0⟩]⟩,
  -- NRT_FLOW_REC_HI (R447)
  ⟨0x2C, 1, 0x0, 1, 0x0, .hi, none, false,
    [⟨0, 16, .rw, false, 0x0⟩]⟩,
  -- NRT_COUNT_LO (R450)
  ⟨0x40, 14, 0x8, 1, 0x0, .lo, none, false,
    [⟨0, 32, .rw, false, 0x0⟩]⟩,
  -- NRT_COUNT_HI (R450)
  ⟨0x44, 14, 0x8, 1, 0x0, .hi, none, false,
    [⟨0, 16, .rw, false, 0x0⟩]⟩,
  -- NRT_KEYFAULT_LO (R450)
  ⟨0x108, 8, 0x8, 1, 0x0, .lo, none, false,
    [⟨0, 32, .rw, false, 0x0⟩]⟩,
  -- NRT_KEYFAULT_HI (R450)
  ⟨0x10C, 8, 0x8, 1, 0x0, .hi, none, false,
    [⟨0, 16, .rw, false, 0x0⟩]⟩
]

/-- Registers of block KEYT, part 1 (R449). -/
def regsKeyt1 : List RegSpec := [
  -- KEYT_CMD (R449)
  ⟨0x0, 1, 0x0, 1, 0x0, .plain, none, false,
    [⟨0, 18, .rwl, false, 0x0⟩, ⟨18, 2, .rwl, false, 0x0⟩]⟩,
  -- KEYT_STATUS (R449)
  ⟨0x4, 1, 0x0, 1, 0x0, .plain, none, false,
    [⟨0, 1, .ro, false, 0x0⟩, ⟨1, 1, .w1c, false, 0x0⟩, ⟨2, 1, .w1c, false, 0x0⟩, ⟨8, 18, .ro, false, 0x0⟩]⟩,
  -- KEYT_KEY (R449)
  ⟨0x8, 1, 0x0, 1, 0x0, .plain, none, false,
    [⟨0, 32, .ro, false, 0x0⟩]⟩,
  -- KEYT_SALT (R449)
  ⟨0xC, 1, 0x0, 1, 0x0, .plain, none, false,
    [⟨0, 32, .rwl, false, 0x0⟩]⟩,
  -- KEYT_STAGE (R449)
  ⟨0x20, 8, 0x4, 1, 0x0, .plain, none, false,
    [⟨0, 32, .rwl, false, 0x0⟩]⟩
]

/-- Registers of block FWALL, part 1 (R508). -/
def regsFwall1 : List RegSpec := [
  -- FWALL_CTRL (R508)
  ⟨0x0, 1, 0x0, 1, 0x0, .plain, none, false,
    [⟨0, 12, .rwl, false, 0x498⟩, ⟨16, 8, .rwl, false, 0x10⟩]⟩,
  -- FWALL_OPS (R508)
  ⟨0x4, 1, 0x0, 1, 0x0, .plain, none, false,
    [⟨0, 32, .rwl, false, 0x7070000⟩]⟩,
  -- FWALL_LIMIT (R508)
  ⟨0x8, 1, 0x0, 1, 0x0, .plain, none, false,
    [⟨0, 8, .rwl, false, 0x4⟩, ⟨16, 8, .rwl, false, 0xA⟩]⟩,
  -- FWALL_STATUS (R508)
  ⟨0xC, 1, 0x0, 1, 0x0, .plain, none, false,
    [⟨0, 6, .w1c, false, 0x0⟩, ⟨6, 1, .ro, false, 0x0⟩]⟩,
  -- FWALL_WIN_BASE0 (R508)
  ⟨0x10, 1, 0x0, 1, 0x0, .plain, none, false,
    [⟨0, 28, .rwl, false, 0x0⟩, ⟨31, 1, .rwl, false, 0x1⟩]⟩,
  -- FWALL_WIN_LIMIT0 (R508)
  ⟨0x14, 1, 0x0, 1, 0x0, .plain, none, false,
    [⟨0, 28, .rwl, false, 0xBFFFFFF⟩]⟩,
  -- FWALL_WIN_BASE (R508)
  ⟨0x18, 3, 0x8, 1, 0x0, .plain, none, false,
    [⟨0, 28, .rwl, false, 0x0⟩, ⟨31, 1, .rwl, false, 0x0⟩]⟩,
  -- FWALL_WIN_LIMIT (R508)
  ⟨0x1C, 3, 0x8, 1, 0x0, .plain, none, false,
    [⟨0, 28, .rwl, false, 0x0⟩]⟩,
  -- FWALL_VIOL_LO (R508)
  ⟨0x40, 6, 0x8, 1, 0x0, .lo, none, false,
    [⟨0, 32, .rw, false, 0x0⟩]⟩,
  -- FWALL_VIOL_HI (R508)
  ⟨0x44, 6, 0x8, 1, 0x0, .hi, none, false,
    [⟨0, 16, .rw, false, 0x0⟩]⟩
]

/-- Registers of block CRAXIS, part 1 (R506, R507). -/
def regsCraxis1 : List RegSpec := [
  -- CRAXIS_LINK_CFG (R506)
  ⟨0x10, 6, 0x4, 1, 0x0, .plain, none, false,
    [⟨0, 1, .rwl, false, 0x1⟩, ⟨8, 8, .rwl, false, 0x64⟩, ⟨16, 4, .rwl, false, 0x8⟩, ⟨24, 1, .rwl, false, 0x0⟩]⟩,
  -- CRAXIS_LINK_STATUS (R506)
  ⟨0x40, 6, 0x4, 1, 0x0, .plain, none, false,
    [⟨0, 7, .ro, false, 0x0⟩, ⟨8, 6, .ro, false, 0x0⟩, ⟨14, 1, .ro, false, 0x0⟩, ⟨15, 1, .ro, false, 0x0⟩, ⟨16, 8, .ro, false, 0x0⟩]⟩,
  -- CRAXIS_MOD_STATUS (R506)
  ⟨0x100, 104, 0x4, 1, 0x0, .plain, none, false,
    [⟨0, 3, .ro, false, 0x0⟩, ⟨3, 1, .ro, false, 0x0⟩, ⟨4, 1, .ro, false, 0x0⟩, ⟨5, 1, .ro, false, 0x0⟩, ⟨6, 5, .ro, false, 0x1F⟩, ⟨11, 5, .ro, false, 0x1F⟩, ⟨16, 16, .ro, false, 0x0⟩]⟩,
  -- CRAXIS_COUNT_LO (R507)
  ⟨0x400, 6, 0x40, 6, 0x8, .lo, none, false,
    [⟨0, 32, .rw, false, 0x0⟩]⟩,
  -- CRAXIS_COUNT_HI (R507)
  ⟨0x404, 6, 0x40, 6, 0x8, .hi, none, false,
    [⟨0, 16, .rw, false, 0x0⟩]⟩
]

/-- Registers of block REEL, part 1 (R300, R301, R302, R303, R304). -/
def regsReel1 : List RegSpec := [
  -- REEL_CTRL (R300)
  ⟨0x0, 1, 0x0, 1, 0x0, .plain, some (0x0, 0), false,
    [⟨0, 1, .rw, false, 0x0⟩, ⟨8, 7, .rw, true, 0x40⟩]⟩,
  -- REEL_STATUS (R301)
  ⟨0x4, 1, 0x0, 1, 0x0, .plain, none, false,
    [⟨0, 1, .ro, false, 0x0⟩, ⟨1, 1, .w1c, false, 0x0⟩, ⟨2, 1, .w1c, false, 0x0⟩, ⟨3, 1, .w1c, false, 0x0⟩, ⟨8, 7, .ro, false, 0x0⟩]⟩,
  -- REEL_OT_BASE_LO (R302)
  ⟨0x8, 1, 0x0, 1, 0x0, .lo, some (0x0, 0), false,
    [⟨0, 32, .rw, true, 0x0⟩]⟩,
  -- REEL_OT_BASE_HI (R302)
  ⟨0xC, 1, 0x0, 1, 0x0, .hi, some (0x0, 0), false,
    [⟨0, 16, .rw, true, 0x0⟩]⟩,
  -- REEL_OT_COUNT (R303)
  ⟨0x10, 1, 0x0, 1, 0x0, .plain, some (0x0, 0), false,
    [⟨0, 17, .rw, true, 0x0⟩]⟩,
  -- REEL_TAB_BASE_LO (R302)
  ⟨0x14, 1, 0x0, 1, 0x0, .lo, some (0x0, 0), false,
    [⟨0, 32, .rw, true, 0x0⟩]⟩,
  -- REEL_TAB_BASE_HI (R302)
  ⟨0x18, 1, 0x0, 1, 0x0, .hi, some (0x0, 0), false,
    [⟨0, 16, .rw, true, 0x0⟩]⟩,
  -- REEL_TAB_COUNT (R303)
  ⟨0x1C, 1, 0x0, 1, 0x0, .plain, some (0x0, 0), false,
    [⟨0, 17, .rw, true, 0x0⟩]⟩,
  -- REEL_COUNT_LO (R304)
  ⟨0x40, 8, 0x8, 1, 0x0, .lo, none, false,
    [⟨0, 32, .rw, false, 0x0⟩]⟩,
  -- REEL_COUNT_HI (R304)
  ⟨0x44, 8, 0x8, 1, 0x0, .hi, none, false,
    [⟨0, 16, .rw, false, 0x0⟩]⟩
]

/-- Registers of block COLL, part 1 (R347, R376, R377, R378, R380). -/
def regsColl1 : List RegSpec := [
  -- COLL_CTRL (R376)
  ⟨0x0, 1, 0x0, 1, 0x0, .plain, some (0x0, 0), false,
    [⟨0, 1, .rw, false, 0x0⟩, ⟨1, 1, .rw, true, 0x0⟩, ⟨2, 1, .wo, false, 0x0⟩, ⟨8, 8, .rw, true, 0xA⟩]⟩,
  -- COLL_STATUS (R377)
  ⟨0x4, 1, 0x0, 1, 0x0, .plain, none, false,
    [⟨0, 2, .ro, false, 0x0⟩, ⟨2, 1, .ro, false, 0x0⟩, ⟨3, 1, .w1c, false, 0x0⟩, ⟨4, 1, .w1c, false, 0x0⟩, ⟨5, 1, .w1c, false, 0x0⟩, ⟨6, 1, .w1c, false, 0x0⟩, ⟨7, 1, .w1c, false, 0x0⟩, ⟨8, 8, .ro, false, 0x0⟩, ⟨16, 1, .ro, false, 0x0⟩]⟩,
  -- COLL_STEP (R378)
  ⟨0x8, 1, 0x0, 1, 0x0, .plain, none, false,
    [⟨0, 32, .ro, false, 0xFFFFFFFF⟩]⟩,
  -- COLL_BKT_BASE_LO (R378)
  ⟨0x10, 1, 0x0, 1, 0x0, .lo, some (0x0, 0), false,
    [⟨0, 32, .rw, true, 0x0⟩]⟩,
  -- COLL_BKT_BASE_HI (R378)
  ⟨0x14, 1, 0x0, 1, 0x0, .hi, some (0x0, 0), false,
    [⟨0, 16, .rw, true, 0x0⟩]⟩,
  -- COLL_BKT_COUNT (R378)
  ⟨0x18, 1, 0x0, 1, 0x0, .plain, some (0x0, 0), false,
    [⟨0, 16, .rw, true, 0x0⟩]⟩,
  -- COLL_RG_BASE_LO (R378)
  ⟨0x1C, 1, 0x0, 1, 0x0, .lo, some (0x0, 0), false,
    [⟨0, 32, .rw, true, 0x0⟩]⟩,
  -- COLL_RG_BASE_HI (R378)
  ⟨0x20, 1, 0x0, 1, 0x0, .hi, some (0x0, 0), false,
    [⟨0, 16, .rw, true, 0x0⟩]⟩,
  -- COLL_RG_COUNT (R378)
  ⟨0x24, 1, 0x0, 1, 0x0, .plain, some (0x0, 0), false,
    [⟨0, 13, .rw, true, 0x0⟩]⟩,
  -- COLL_COUNT_LO (R380)
  ⟨0x40, 6, 0x8, 1, 0x0, .lo, none, false,
    [⟨0, 32, .rw, false, 0x0⟩]⟩,
  -- COLL_COUNT_HI (R380)
  ⟨0x44, 6, 0x8, 1, 0x0, .hi, none, false,
    [⟨0, 16, .rw, false, 0x0⟩]⟩,
  -- TOPO_GEN (R347)
  ⟨0x400, 1, 0x0, 1, 0x0, .plain, none, false,
    [⟨0, 32, .ro, false, 0x0⟩]⟩,
  -- TOPO_CEILING (R347)
  ⟨0x404, 1, 0x0, 1, 0x0, .plain, none, false,
    [⟨0, 10, .ro, false, 0x0⟩]⟩,
  -- TOPO_PORTS (R347)
  ⟨0x408, 1, 0x0, 1, 0x0, .plain, none, false,
    [⟨0, 9, .ro, false, 0x0⟩]⟩,
  -- the reserved word of the header (R347)
  ⟨0x40C, 1, 0x0, 1, 0x0, .plain, none, false, []⟩,
  -- TOPO_PARTNER_LO (R347)
  ⟨0x410, 9, 0x10, 1, 0x0, .plain, none, false,
    [⟨0, 32, .ro, false, 0x0⟩]⟩,
  -- TOPO_PARTNER_HI (R347)
  ⟨0x414, 9, 0x10, 1, 0x0, .plain, none, false,
    [⟨0, 16, .ro, false, 0x0⟩, ⟨16, 4, .ro, false, 0x0⟩, ⟨20, 4, .ro, false, 0x0⟩, ⟨24, 1, .ro, false, 0x0⟩, ⟨25, 1, .ro, false, 0x0⟩, ⟨26, 1, .ro, false, 0x0⟩]⟩
]

/-- Registers of block COLL, part 2 (R347). -/
def regsColl2 : List RegSpec := [
  -- TOPO_LENGTH (R347)
  ⟨0x418, 9, 0x10, 1, 0x0, .plain, none, false,
    [⟨0, 16, .ro, false, 0x0⟩, ⟨16, 16, .ro, false, 0x0⟩]⟩,
  -- TOPO_PORT (R347)
  ⟨0x41C, 9, 0x10, 1, 0x0, .plain, none, false,
    [⟨0, 8, .ro, false, 0x0⟩]⟩
]

/-- Registers of block UPDT, part 1 (R336, R337, R338, R339, R340, R341, R342). -/
def regsUpdt1 : List RegSpec := [
  -- UPDT_CTRL (R336)
  ⟨0x0, 1, 0x0, 1, 0x0, .plain, some (0x0, 0), false,
    [⟨0, 1, .rw, false, 0x0⟩, ⟨1, 1, .rw, true, 0x0⟩, ⟨2, 1, .rw, true, 0x0⟩, ⟨8, 8, .rw, true, 0x28⟩]⟩,
  -- UPDT_STATUS (R337)
  ⟨0x4, 1, 0x0, 1, 0x0, .plain, none, false,
    [⟨0, 1, .ro, false, 0x0⟩, ⟨1, 1, .w1c, false, 0x0⟩, ⟨2, 1, .w1c, false, 0x0⟩, ⟨3, 1, .w1c, false, 0x0⟩, ⟨4, 1, .w1c, false, 0x0⟩, ⟨5, 1, .w1c, false, 0x0⟩, ⟨6, 1, .w1c, false, 0x0⟩, ⟨8, 4, .ro, false, 0x0⟩]⟩,
  -- UPDT_SCRATCH_BASE_LO (R338)
  ⟨0x8, 1, 0x0, 1, 0x0, .lo, some (0x0, 0), false,
    [⟨0, 32, .rw, true, 0x0⟩]⟩,
  -- UPDT_SCRATCH_BASE_HI (R338)
  ⟨0xC, 1, 0x0, 1, 0x0, .hi, some (0x0, 0), false,
    [⟨0, 16, .rw, true, 0x0⟩]⟩,
  -- UPDT_SCRATCH_SIZE (R338)
  ⟨0x10, 1, 0x0, 1, 0x0, .plain, some (0x0, 0), false,
    [⟨0, 16, .rw, true, 0x0⟩]⟩,
  -- UPDT_GROUP_CTL (R339)
  ⟨0x14, 1, 0x0, 1, 0x0, .plain, none, false,
    [⟨0, 12, .rw, false, 0x0⟩, ⟨12, 1, .rw, false, 0x0⟩, ⟨13, 1, .wo, false, 0x0⟩]⟩,
  -- UPDT_GROUP_STEP (R340)
  ⟨0x18, 1, 0x0, 1, 0x0, .plain, none, false,
    [⟨0, 32, .ro, false, 0x0⟩]⟩,
  -- UPDT_MIRROR_STEP (R340)
  ⟨0x1C, 1, 0x0, 1, 0x0, .plain, none, false,
    [⟨0, 32, .ro, false, 0x0⟩]⟩,
  -- UPDT_DONE (R341)
  ⟨0x20, 1, 0x0, 1, 0x0, .plain, none, false,
    [⟨0, 32, .ro, false, 0xFFFFFFFF⟩]⟩,
  -- UPDT_COUNT_LO (R342)
  ⟨0x40, 9, 0x8, 1, 0x0, .lo, none, false,
    [⟨0, 32, .rw, false, 0x0⟩]⟩,
  -- UPDT_COUNT_HI (R342)
  ⟨0x44, 9, 0x8, 1, 0x0, .hi, none, false,
    [⟨0, 16, .rw, false, 0x0⟩]⟩
]

/-- Registers of block PMON, part 1 (R607, R631). -/
def regsPmon1 : List RegSpec := [
  -- PMON_CTRL (R631)
  ⟨0x0, 1, 0x0, 1, 0x0, .plain, some (0x0, 0), false,
    [⟨0, 1, .rw, false, 0x0⟩, ⟨1, 1, .w1c, false, 0x0⟩, ⟨15, 17, .rw, true, 0x64⟩]⟩,
  -- PMON_BW_CTRL (R631)
  ⟨0x4, 1, 0x0, 1, 0x0, .plain, none, false,
    [⟨0, 20, .rw, false, 0x3E8⟩]⟩,
  -- PMON_RANGE_BASE_LO (R631)
  ⟨0x10, 2, 0x10, 1, 0x0, .lo, none, false,
    [⟨0, 32, .rw, false, 0x0⟩]⟩,
  -- PMON_RANGE_BASE_HI (R631)
  ⟨0x14, 2, 0x10, 1, 0x0, .hi, none, false,
    [⟨0, 16, .rw, false, 0x0⟩]⟩,
  -- PMON_RANGE_LIMIT_LO (R631)
  ⟨0x18, 2, 0x10, 1, 0x0, .lo, none, false,
    [⟨0, 32, .rw, false, 0x0⟩]⟩,
  -- PMON_RANGE_LIMIT_HI (R631)
  ⟨0x1C, 2, 0x10, 1, 0x0, .hi, none, false,
    [⟨0, 16, .rw, false, 0x0⟩]⟩,
  -- PMON_TILE_SEL (R631)
  ⟨0x40, 1, 0x0, 1, 0x0, .plain, none, false,
    [⟨0, 8, .rw, false, 0x0⟩]⟩,
  -- PMON_SMP_BASE_LO (R631)
  ⟨0x48, 1, 0x0, 1, 0x0, .lo, some (0x0, 0), false,
    [⟨0, 32, .rw, true, 0x0⟩]⟩,
  -- PMON_SMP_BASE_HI (R631)
  ⟨0x4C, 1, 0x0, 1, 0x0, .hi, some (0x0, 0), false,
    [⟨0, 16, .rw, true, 0x0⟩]⟩,
  -- PMON_HUB_SEL (R607)
  ⟨0x100, 64, 0x10, 1, 0x0, .plain, none, false,
    [⟨0, 8, .rw, false, 0x0⟩, ⟨8, 1, .rw, false, 0x0⟩, ⟨9, 1, .rw, false, 0x0⟩, ⟨10, 1, .rw, false, 0x0⟩, ⟨11, 1, .w1c, false, 0x0⟩, ⟨16, 8, .rw, false, 0xFF⟩]⟩,
  -- PMON_HUB_FILT (R607)
  ⟨0x104, 64, 0x10, 1, 0x0, .plain, none, false,
    [⟨0, 11, .rw, false, 0x7FF⟩, ⟨16, 8, .rw, false, 0x0⟩, ⟨24, 8, .rw, false, 0x0⟩]⟩,
  -- PMON_HUB_CNT_LO (R607)
  ⟨0x108, 64, 0x10, 1, 0x0, .lo, none, false,
    [⟨0, 32, .rw, false, 0x0⟩]⟩,
  -- PMON_HUB_CNT_HI (R607)
  ⟨0x10C, 64, 0x10, 1, 0x0, .hi, none, false,
    [⟨0, 16, .rw, false, 0x0⟩]⟩,
  -- PMON_UPD_SEL (R607)
  ⟨0x500, 16, 0x10, 1, 0x0, .plain, none, false,
    [⟨0, 8, .rw, false, 0x0⟩, ⟨8, 1, .rw, false, 0x0⟩, ⟨9, 1, .rw, false, 0x0⟩, ⟨10, 1, .rw, false, 0x0⟩, ⟨11, 1, .w1c, false, 0x0⟩, ⟨16, 8, .rw, false, 0xFF⟩]⟩,
  -- PMON_UPD_FILT (R607)
  ⟨0x504, 16, 0x10, 1, 0x0, .plain, none, false,
    [⟨0, 11, .rw, false, 0x7FF⟩, ⟨16, 8, .rw, false, 0x0⟩, ⟨24, 8, .rw, false, 0x0⟩]⟩,
  -- PMON_UPD_CNT_LO (R607)
  ⟨0x508, 16, 0x10, 1, 0x0, .lo, none, false,
    [⟨0, 32, .rw, false, 0x0⟩]⟩
]

/-- Registers of block PMON, part 2 (R607, R631, R632). -/
def regsPmon2 : List RegSpec := [
  -- PMON_UPD_CNT_HI (R607)
  ⟨0x50C, 16, 0x10, 1, 0x0, .hi, none, false,
    [⟨0, 16, .rw, false, 0x0⟩]⟩,
  -- PMON_ALLOC (R631)
  ⟨0x800, 64, 0x4, 1, 0x0, .plain, none, false,
    [⟨0, 4, .rw, false, 0x0⟩]⟩,
  -- DLY_CTRL (R632)
  ⟨0x900, 9, 0x20, 1, 0x0, .plain, some (0x900, 0), true,
    [⟨0, 1, .rw, false, 0x0⟩, ⟨1, 1, .rw, true, 0x0⟩, ⟨16, 16, .rw, true, 0x1⟩]⟩,
  -- DLY_BASE_LO (R632)
  ⟨0x904, 9, 0x20, 1, 0x0, .lo, some (0x900, 0), true,
    [⟨0, 32, .rw, true, 0x0⟩]⟩,
  -- DLY_BASE_HI (R632)
  ⟨0x908, 9, 0x20, 1, 0x0, .hi, some (0x900, 0), true,
    [⟨0, 32, .rw, true, 0x0⟩]⟩,
  -- DLY_CFG (R632)
  ⟨0x90C, 9, 0x20, 1, 0x0, .plain, some (0x900, 0), true,
    [⟨0, 7, .rw, true, 0x0⟩, ⟨8, 4, .rw, true, 0x4⟩, ⟨16, 9, .ro, false, 0x0⟩]⟩,
  -- DLY_PROD (R632)
  ⟨0x910, 9, 0x20, 1, 0x0, .plain, none, false,
    [⟨0, 32, .ro, false, 0x0⟩]⟩,
  -- DLY_CONS (R632)
  ⟨0x914, 9, 0x20, 1, 0x0, .plain, none, false,
    [⟨0, 32, .rw, false, 0x0⟩]⟩,
  -- BW_LAST (R632)
  ⟨0xC00, 32, 0x10, 1, 0x0, .plain, none, false,
    [⟨0, 24, .ro, false, 0x0⟩]⟩,
  -- BW_MIN (R632)
  ⟨0xC04, 32, 0x10, 1, 0x0, .plain, none, false,
    [⟨0, 24, .ro, false, 0xFFFFFF⟩]⟩,
  -- BW_MAX (R632)
  ⟨0xC08, 32, 0x10, 1, 0x0, .plain, none, false,
    [⟨0, 24, .ro, false, 0x0⟩]⟩,
  -- BW_COUNT (R632)
  ⟨0xC0C, 32, 0x10, 1, 0x0, .plain, none, false,
    [⟨0, 32, .ro, false, 0x0⟩]⟩
]

/-- Registers of block RAS, part 1 (R603, R604). -/
def regsRas1 : List RegSpec := [
  -- RAS_CTRL (R603)
  ⟨0x0, 1, 0x0, 1, 0x0, .plain, none, false,
    [⟨0, 1, .rw, false, 0x1⟩, ⟨1, 1, .rw, false, 0x1⟩, ⟨8, 8, .rw, false, 0x64⟩]⟩,
  -- RAS_STATUS (R603)
  ⟨0x4, 1, 0x0, 1, 0x0, .plain, none, false,
    [⟨0, 1, .ro, false, 0x0⟩, ⟨1, 1, .ro, false, 0x0⟩, ⟨2, 1, .w1c, false, 0x0⟩, ⟨3, 1, .w1c, false, 0x0⟩, ⟨4, 1, .ro, false, 0x0⟩]⟩,
  -- RAS_EVR_BASE_LO (R603)
  ⟨0x8, 1, 0x0, 1, 0x0, .lo, none, false,
    [⟨0, 32, .rw, false, 0x0⟩]⟩,
  -- RAS_EVR_BASE_HI (R603)
  ⟨0xC, 1, 0x0, 1, 0x0, .hi, none, false,
    [⟨0, 16, .rw, false, 0x0⟩]⟩,
  -- RAS_EVR_CFG (R603)
  ⟨0x10, 1, 0x0, 1, 0x0, .plain, some (0x10, 4), false,
    [⟨0, 4, .rw, true, 0xC⟩, ⟨4, 1, .rw, false, 0x0⟩]⟩,
  -- RAS_EVR_PROD (R603)
  ⟨0x14, 1, 0x0, 1, 0x0, .plain, none, false,
    [⟨0, 32, .ro, false, 0x0⟩]⟩,
  -- RAS_EVR_CONS (R603)
  ⟨0x18, 1, 0x0, 1, 0x0, .plain, none, false,
    [⟨0, 32, .rw, false, 0x0⟩]⟩,
  -- RAS_SWAP (R603)
  ⟨0x1C, 1, 0x0, 1, 0x0, .plain, none, false,
    [⟨0, 8, .rw, false, 0x0⟩, ⟨8, 1, .wo, false, 0x0⟩]⟩,
  -- RAS_SPARES (R603)
  ⟨0x20, 1, 0x0, 1, 0x0, .plain, none, false,
    [⟨0, 3, .ro, false, 0x4⟩, ⟨3, 3, .ro, false, 0x4⟩, ⟨6, 3, .ro, false, 0x4⟩, ⟨16, 16, .ro, false, 0x2D00⟩]⟩,
  -- RAS_COUNT_LO (R604)
  ⟨0x40, 9, 0x8, 1, 0x0, .lo, none, false,
    [⟨0, 32, .rw, false, 0x0⟩]⟩,
  -- RAS_COUNT_HI (R604)
  ⟨0x44, 9, 0x8, 1, 0x0, .hi, none, false,
    [⟨0, 16, .rw, false, 0x0⟩]⟩,
  -- RAS_TILEMAP (R603)
  ⟨0x400, 180, 0x4, 1, 0x0, .plain, none, false,
    [⟨0, 8, .ro, false, 0x0⟩, ⟨8, 1, .ro, false, 0x0⟩]⟩
]

/-- Registers of block TELE, part 1 (R92, R93, R94, R95, R96). -/
def regsTele1 : List RegSpec := [
  -- TELE_FMTH_CTRL (R92)
  ⟨0x800, 1, 0x0, 1, 0x0, .plain, none, false,
    [⟨0, 1, .rws, false, 0x0⟩, ⟨16, 13, .rws, false, 0x0⟩]⟩,
  -- TELE_FMTH_BASE_LO (R93)
  ⟨0x804, 1, 0x0, 1, 0x0, .lo, none, false,
    [⟨0, 32, .rws, false, 0x0⟩]⟩,
  -- TELE_FMTH_BASE_HI (R93)
  ⟨0x808, 1, 0x0, 1, 0x0, .hi, none, false,
    [⟨0, 16, .rws, false, 0x0⟩]⟩,
  -- TELE_FMTH_THRESH (R94)
  ⟨0x80C, 1, 0x0, 1, 0x0, .plain, none, false,
    [⟨0, 16, .rws, false, 0x0⟩, ⟨16, 16, .rws, false, 0x0⟩]⟩,
  -- TELE_FMTH_STATUS (R95)
  ⟨0x810, 1, 0x0, 1, 0x0, .plain, none, false,
    [⟨0, 1, .ro, false, 0x0⟩, ⟨1, 1, .w1c, false, 0x0⟩, ⟨2, 1, .w1c, false, 0x0⟩, ⟨8, 8, .ro, false, 0x0⟩]⟩,
  -- TELE_FMTH_CLOSED (R96)
  ⟨0x814, 1, 0x0, 1, 0x0, .plain, none, false,
    [⟨0, 32, .ro, false, 0xFFFFFFFF⟩]⟩
]

/-- Registers of block TILE, part 1 (R164, R165, R261, R262, R263, R264, R265, R266). -/
def regsTile1 : List RegSpec := [
  -- TILE_SEQ_CTRL (R261)
  ⟨0x100, 1, 0x0, 1, 0x0, .plain, some (0x100, 0), false,
    [⟨0, 1, .rw, false, 0x0⟩, ⟨8, 8, .rw, true, 0x64⟩]⟩,
  -- TILE_SEQ_STATUS (R262)
  ⟨0x104, 1, 0x0, 1, 0x0, .plain, none, false,
    [⟨0, 3, .ro, false, 0x0⟩, ⟨3, 1, .ro, false, 0x0⟩, ⟨4, 1, .w1c, false, 0x0⟩, ⟨5, 1, .w1c, false, 0x0⟩, ⟨6, 1, .w1c, false, 0x0⟩]⟩,
  -- TILE_SEQ_PC (R263)
  ⟨0x108, 1, 0x0, 1, 0x0, .plain, none, false,
    [⟨0, 13, .ro, false, 0x0⟩, ⟨16, 13, .ro, false, 0x0⟩]⟩,
  -- TILE_SEQ_SLATE_LO (R264)
  ⟨0x10C, 1, 0x0, 1, 0x0, .lo, none, false,
    [⟨0, 32, .ro, false, 0x0⟩]⟩,
  -- TILE_SEQ_SLATE_HI (R264)
  ⟨0x110, 1, 0x0, 1, 0x0, .hi, none, false,
    [⟨0, 32, .ro, false, 0x0⟩]⟩,
  -- TILE_SEQ_EC (R265)
  ⟨0x120, 8, 0x4, 1, 0x0, .plain, none, false,
    [⟨0, 16, .rw, false, 0x0⟩, ⟨16, 16, .rw, false, 0x0⟩]⟩,
  -- TILE_SEQ_ISSUE_LO (R266)
  ⟨0x140, 1, 0x0, 1, 0x0, .lo, none, false,
    [⟨0, 32, .rw, false, 0x0⟩]⟩,
  -- TILE_SEQ_ISSUE_HI (R266)
  ⟨0x144, 1, 0x0, 1, 0x0, .hi, none, false,
    [⟨0, 16, .rw, false, 0x0⟩]⟩,
  -- TILE_SEQ_WAIT_LO (R266)
  ⟨0x148, 1, 0x0, 1, 0x0, .lo, none, false,
    [⟨0, 32, .rw, false, 0x0⟩]⟩,
  -- TILE_SEQ_WAIT_HI (R266)
  ⟨0x14C, 1, 0x0, 1, 0x0, .hi, none, false,
    [⟨0, 16, .rw, false, 0x0⟩]⟩,
  -- TILE_ARR_STATUS (R164)
  ⟨0x200, 1, 0x0, 1, 0x0, .plain, none, false,
    [⟨0, 1, .ro, false, 0x0⟩, ⟨1, 2, .ro, false, 0x0⟩, ⟨3, 1, .w1c, false, 0x0⟩, ⟨4, 1, .w1c, false, 0x0⟩, ⟨5, 1, .w1c, false, 0x0⟩]⟩,
  -- TILE_ARR_STREAM_LO (R165)
  ⟨0x204, 1, 0x0, 1, 0x0, .lo, none, false,
    [⟨0, 32, .rw, false, 0x0⟩]⟩,
  -- TILE_ARR_STREAM_HI (R165)
  ⟨0x208, 1, 0x0, 1, 0x0, .hi, none, false,
    [⟨0, 16, .rw, false, 0x0⟩]⟩,
  -- TILE_ARR_SKIP_LO (R165)
  ⟨0x20C, 1, 0x0, 1, 0x0, .lo, none, false,
    [⟨0, 32, .rw, false, 0x0⟩]⟩,
  -- TILE_ARR_SKIP_HI (R165)
  ⟨0x210, 1, 0x0, 1, 0x0, .hi, none, false,
    [⟨0, 16, .rw, false, 0x0⟩]⟩,
  -- TILE_ARR_STALL_LO (R165)
  ⟨0x214, 1, 0x0, 1, 0x0, .lo, none, false,
    [⟨0, 32, .rw, false, 0x0⟩]⟩
]

/-- Registers of block TILE, part 2 (R127, R128, R129, R165, R199, R200, R227, R228, R229). -/
def regsTile2 : List RegSpec := [
  -- TILE_ARR_STALL_HI (R165)
  ⟨0x218, 1, 0x0, 1, 0x0, .hi, none, false,
    [⟨0, 16, .rw, false, 0x0⟩]⟩,
  -- TILE_LA_CTRL (R127)
  ⟨0x300, 1, 0x0, 1, 0x0, .plain, none, false,
    [⟨0, 1, .rws, false, 0x1⟩, ⟨8, 8, .rws, false, 0xA⟩]⟩,
  -- TILE_LA_STATUS (R128)
  ⟨0x304, 1, 0x0, 1, 0x0, .plain, none, false,
    [⟨0, 1, .w1c, false, 0x0⟩, ⟨1, 1, .w1c, false, 0x0⟩, ⟨2, 1, .w1c, false, 0x0⟩, ⟨3, 1, .w1c, false, 0x0⟩, ⟨4, 1, .w1c, false, 0x0⟩]⟩,
  -- TILE_LA_TRUNC_LO (R129)
  ⟨0x308, 1, 0x0, 1, 0x0, .lo, none, false,
    [⟨0, 32, .rw, false, 0x0⟩]⟩,
  -- TILE_LA_TRUNC_HI (R129)
  ⟨0x30C, 1, 0x0, 1, 0x0, .hi, none, false,
    [⟨0, 16, .rw, false, 0x0⟩]⟩,
  -- TILE_LA_VANISH_LO (R129)
  ⟨0x310, 1, 0x0, 1, 0x0, .lo, none, false,
    [⟨0, 32, .rw, false, 0x0⟩]⟩,
  -- TILE_LA_VANISH_HI (R129)
  ⟨0x314, 1, 0x0, 1, 0x0, .hi, none, false,
    [⟨0, 16, .rw, false, 0x0⟩]⟩,
  -- TILE_CHN_STATUS (R199)
  ⟨0x400, 1, 0x0, 1, 0x0, .plain, none, false,
    [⟨0, 1, .ro, false, 0x0⟩, ⟨1, 1, .w1c, false, 0x0⟩, ⟨2, 1, .w1c, false, 0x0⟩, ⟨3, 1, .w1c, false, 0x0⟩, ⟨4, 1, .w1c, false, 0x0⟩, ⟨5, 1, .w1c, false, 0x0⟩, ⟨6, 1, .w1c, false, 0x0⟩, ⟨7, 1, .w1c, false, 0x0⟩]⟩,
  -- TILE_CHN_VEC_LO (R200)
  ⟨0x404, 1, 0x0, 1, 0x0, .lo, none, false,
    [⟨0, 32, .rw, false, 0x0⟩]⟩,
  -- TILE_CHN_VEC_HI (R200)
  ⟨0x408, 1, 0x0, 1, 0x0, .hi, none, false,
    [⟨0, 16, .rw, false, 0x0⟩]⟩,
  -- TILE_CHN_STALL_LO (R200)
  ⟨0x40C, 1, 0x0, 1, 0x0, .lo, none, false,
    [⟨0, 32, .rw, false, 0x0⟩]⟩,
  -- TILE_CHN_STALL_HI (R200)
  ⟨0x410, 1, 0x0, 1, 0x0, .hi, none, false,
    [⟨0, 16, .rw, false, 0x0⟩]⟩,
  -- TILE_DSP_CTRL (R227)
  ⟨0x500, 1, 0x0, 1, 0x0, .plain, some (0x100, 0), false,
    [⟨0, 15, .rw, true, 0x0⟩]⟩,
  -- TILE_DSP_STATUS (R228)
  ⟨0x504, 1, 0x0, 1, 0x0, .plain, none, false,
    [⟨0, 1, .ro, false, 0x0⟩, ⟨1, 1, .w1c, false, 0x0⟩, ⟨2, 1, .w1c, false, 0x0⟩, ⟨3, 1, .w1c, false, 0x0⟩, ⟨4, 1, .w1c, false, 0x0⟩, ⟨5, 1, .w1c, false, 0x0⟩]⟩,
  -- TILE_DSP_ROUTED_LO (R229)
  ⟨0x508, 1, 0x0, 1, 0x0, .lo, none, false,
    [⟨0, 32, .rw, false, 0x0⟩]⟩,
  -- TILE_DSP_ROUTED_HI (R229)
  ⟨0x50C, 1, 0x0, 1, 0x0, .hi, none, false,
    [⟨0, 16, .rw, false, 0x0⟩]⟩
]

/-- Registers of block TILE, part 3 (R229, R607, R629). -/
def regsTile3 : List RegSpec := [
  -- TILE_DSP_DROPPED_LO (R229)
  ⟨0x510, 1, 0x0, 1, 0x0, .lo, none, false,
    [⟨0, 32, .rw, false, 0x0⟩]⟩,
  -- TILE_DSP_DROPPED_HI (R229)
  ⟨0x514, 1, 0x0, 1, 0x0, .hi, none, false,
    [⟨0, 16, .rw, false, 0x0⟩]⟩,
  -- TILE_DSP_BADCHOICE_LO (R229)
  ⟨0x518, 1, 0x0, 1, 0x0, .lo, none, false,
    [⟨0, 32, .rw, false, 0x0⟩]⟩,
  -- TILE_DSP_BADCHOICE_HI (R229)
  ⟨0x51C, 1, 0x0, 1, 0x0, .hi, none, false,
    [⟨0, 16, .rw, false, 0x0⟩]⟩,
  -- TILE_DSP_SKIPTOK_LO (R229)
  ⟨0x520, 1, 0x0, 1, 0x0, .lo, none, false,
    [⟨0, 32, .rw, false, 0x0⟩]⟩,
  -- TILE_DSP_SKIPTOK_HI (R229)
  ⟨0x524, 1, 0x0, 1, 0x0, .hi, none, false,
    [⟨0, 16, .rw, false, 0x0⟩]⟩,
  -- TILE_DSP_STALL_LO (R229)
  ⟨0x528, 1, 0x0, 1, 0x0, .lo, none, false,
    [⟨0, 32, .rw, false, 0x0⟩]⟩,
  -- TILE_DSP_STALL_HI (R229)
  ⟨0x52C, 1, 0x0, 1, 0x0, .hi, none, false,
    [⟨0, 16, .rw, false, 0x0⟩]⟩,
  -- TILE_PMU_SEL (R607)
  ⟨0x600, 16, 0x10, 1, 0x0, .plain, none, false,
    [⟨0, 8, .rw, false, 0x0⟩, ⟨8, 1, .rw, false, 0x0⟩, ⟨9, 1, .rw, false, 0x0⟩, ⟨10, 1, .rw, false, 0x0⟩, ⟨11, 1, .w1c, false, 0x0⟩, ⟨16, 8, .rw, false, 0xFF⟩]⟩,
  -- TILE_PMU_FILT (R607)
  ⟨0x604, 16, 0x10, 1, 0x0, .plain, none, false,
    [⟨0, 11, .rw, false, 0x7FF⟩, ⟨16, 8, .rw, false, 0x0⟩, ⟨24, 8, .rw, false, 0x0⟩]⟩,
  -- TILE_PMU_CNT_LO (R607)
  ⟨0x608, 16, 0x10, 1, 0x0, .lo, none, false,
    [⟨0, 32, .rw, false, 0x0⟩]⟩,
  -- TILE_PMU_CNT_HI (R607)
  ⟨0x60C, 16, 0x10, 1, 0x0, .hi, none, false,
    [⟨0, 16, .rw, false, 0x0⟩]⟩,
  -- TILE_SMP_CTRL (R629)
  ⟨0x700, 1, 0x0, 1, 0x0, .plain, some (0x700, 0), false,
    [⟨0, 1, .rw, false, 0x0⟩, ⟨1, 11, .rw, true, 0x7FF⟩, ⟨16, 16, .rw, true, 0x400⟩]⟩,
  -- TILE_SMP_PROD (R629)
  ⟨0x704, 1, 0x0, 1, 0x0, .plain, none, false,
    [⟨0, 32, .ro, false, 0x0⟩]⟩,
  -- TILE_SMP_CONS (R629)
  ⟨0x708, 1, 0x0, 1, 0x0, .plain, none, false,
    [⟨0, 32, .rw, false, 0x0⟩]⟩,
  -- TILE_PMU_PCRANGE (R629)
  ⟨0x70C, 1, 0x0, 1, 0x0, .plain, none, false,
    [⟨0, 13, .rw, false, 0x0⟩, ⟨16, 13, .rw, false, 0x1FFF⟩]⟩
]

/-- Registers of block TILE, part 4 (R629). -/
def regsTile4 : List RegSpec := [
  -- TILE_SMP_LOST_LO (R629)
  ⟨0x710, 1, 0x0, 1, 0x0, .lo, none, false,
    [⟨0, 32, .rw, false, 0x0⟩]⟩,
  -- TILE_SMP_LOST_HI (R629)
  ⟨0x714, 1, 0x0, 1, 0x0, .hi, none, false,
    [⟨0, 16, .rw, false, 0x0⟩]⟩,
  -- TILE_SMP_SKIPPED_LO (R629)
  ⟨0x718, 1, 0x0, 1, 0x0, .lo, none, false,
    [⟨0, 32, .rw, false, 0x0⟩]⟩,
  -- TILE_SMP_SKIPPED_HI (R629)
  ⟨0x71C, 1, 0x0, 1, 0x0, .hi, none, false,
    [⟨0, 16, .rw, false, 0x0⟩]⟩
]

/-- Every block, with the offsets of the block table of 00_scope.md. -/
def blocks : List BlockSpec := [
  ⟨0x0, 0x0, 1, regsIdent1⟩,
  ⟨0x10000, 0x0, 1, regsRstc1⟩,
  ⟨0x20000, 0x0, 1, regsOpts1⟩,
  ⟨0x30000, 0x0, 1, regsPwrm1⟩,
  ⟨0x40000, 0x0, 1, regsClkg1⟩,
  ⟨0x100000, 0x0, 1, regsHostif1⟩,
  ⟨0x101000, 0x1000, 9, regsFn1 ++ regsFn2⟩,
  ⟨0x200000, 0x10000, 9, regsMac1⟩,
  ⟨0x300000, 0x0, 1, regsNrt1⟩,
  ⟨0x400000, 0x0, 1, regsKeyt1⟩,
  ⟨0x500100, 0x100, 4, regsFwall1⟩,
  ⟨0x600000, 0x0, 1, regsCraxis1⟩,
  ⟨0x700000, 0x0, 1, regsReel1⟩,
  ⟨0x800000, 0x0, 1, regsColl1 ++ regsColl2⟩,
  ⟨0x900000, 0x0, 1, regsUpdt1⟩,
  ⟨0xA00000, 0x0, 1, regsPmon1 ++ regsPmon2⟩,
  ⟨0xB00000, 0x0, 1, regsRas1⟩,
  ⟨0xC00000, 0x0, 1, regsTele1⟩,
  ⟨0x10000000, 0x10000, 180, regsTile1 ++ regsTile2 ++ regsTile3 ++ regsTile4⟩
]

/-- The index of a place in an array of `n` at stride `s` that starts at 0, for a distance `d` from its start. -/
def arrayAt (n s d w : Nat) : Bool :=
  if s = 0 then decide (d = w) else (decide (d / s < n) && decide (d % s = w))

/-- Is relative offset `d` the register `r`, or a place of its array? -/
def RegSpec.hits (r : RegSpec) (d : Nat) : Bool :=
  decide (r.off ≤ d) &&
    (let e := d - r.off
     if r.s1 = 0 then decide (e = 0)
     else decide (e / r.s1 < r.n1) && arrayAt r.n2 r.s2 (e % r.s1) 0)

/-- A register found: its spec, and the absolute place of the RUN bit that judges its static fields. -/
structure RegHit where
  spec : RegSpec
  run : Option Fld
deriving DecidableEq, Repr

/-- The register of block `b` at register-region offset `a`. -/
def BlockSpec.find (b : BlockSpec) (a : Nat) : Option RegHit :=
  if a < b.base then none
  else
    let d := a - b.base
    let k := if b.stride = 0 then 0 else d / b.stride
    if b.count ≤ k then none
    else
      let rel := d - k * b.stride
      match b.regs.find? (fun r => r.hits rel) with
      | none => none
      | some r =>
        some ⟨r, r.run.map (fun p =>
          let step := if r.runMoves && r.s1 ≠ 0 then (rel - r.off) / r.s1 * r.s1 else 0
          ⟨b.base + k * b.stride + p.1 + step, p.2, 1⟩)⟩

/-- The register at a register-region offset, or none at an unassigned offset (R4). -/
def findReg (a : Nat) : Option RegHit :=
  if a % 4 ≠ 0 then none
  else blocks.foldl (fun acc b => match acc with | some h => some h | none => b.find a) none

/-- The mask of the implemented bits of the register at an offset; reserved bits read as 0 (R9). -/
def implMask (a : Nat) : Nat :=
  match findReg a with
  | none => 0
  | some h => h.spec.fields.foldl (fun m f => m ||| f.mask) 0

/-- The physical tile of logical tile n before any swap. The spec leaves the map to each chip's fuses (R603); this one lets the first 60 tiles
of each field serve and keeps the last four as its stand-ins. DESIGN CHOICE, in the assumption log. -/
def firstPhys (n : Nat) : Nat := 64 * (n / 60) + n % 60

/-- The reset value of the register at an offset; that of OPTS_MIN_REV is fused (R578). -/
def regReset (a : Nat) : BitVec 32 :=
  if 0xB00400 ≤ a ∧ a < 0xB006D0 ∧ a % 4 = 0 then BitVec.ofNat 32 (firstPhys ((a - 0xB00400) / 4))
  else if a = 0x2000C then BitVec.ofNat 32 Config.fusedMinRev
  else match findReg a with
  | none => 0
  | some h => BitVec.ofNat 32 (h.spec.fields.foldl (fun m f => m ||| f.reset * 2 ^ f.lo) 0)

/-! The offset of every register, by its name in the spec (an array is indexed by its number). -/

def Reg.IDENT_SURVEY : Nat := 0x0 + 0x100
def Reg.IDENT_SUPPLY_SLOT : Nat := 0x0 + 0x104
def Reg.IDENT_SUPPLY_CONN0 : Nat := 0x0 + 0x108
def Reg.IDENT_SUPPLY_CONN1 : Nat := 0x0 + 0x10C
def Reg.IDENT_CAP_CEILING : Nat := 0x0 + 0x110
def Reg.IDENT_CAGE (i : Nat) : Nat := 0x0 + 0x120 + i * 0x4
def Reg.RSTC_CTRL : Nat := 0x10000 + 0x0
def Reg.RSTC_STATE : Nat := 0x10000 + 0x4
def Reg.RSTC_CAUSE : Nat := 0x10000 + 0x8
def Reg.RSTC_CAUSE_TIME_LO : Nat := 0x10000 + 0xC
def Reg.RSTC_CAUSE_TIME_HI : Nat := 0x10000 + 0x10
def Reg.RSTC_BLOCK : Nat := 0x10000 + 0x14
def Reg.RSTC_WDOG : Nat := 0x10000 + 0x18
def Reg.RSTC_STAGE_WDOG : Nat := 0x10000 + 0x1C
def Reg.RSTC_COUNT_LO (i : Nat) : Nat := 0x10000 + 0x40 + i * 0x8
def Reg.RSTC_COUNT_HI (i : Nat) : Nat := 0x10000 + 0x44 + i * 0x8
def Reg.OPTS_STATUS : Nat := 0x20000 + 0x0
def Reg.OPTS_SEQ : Nat := 0x20000 + 0x4
def Reg.OPTS_VALUES : Nat := 0x20000 + 0x8
def Reg.OPTS_MIN_REV : Nat := 0x20000 + 0xC
def Reg.OPTS_MEAS (i j : Nat) : Nat := 0x20000 + 0x100 + i * 0x40 + j * 0x4
def Reg.PWRM_CTRL : Nat := 0x30000 + 0x0
def Reg.PWRM_CAP : Nat := 0x30000 + 0x4
def Reg.PWRM_FRAC : Nat := 0x30000 + 0x8
def Reg.PWRM_STATUS : Nat := 0x30000 + 0xC
def Reg.PWRM_POWER : Nat := 0x30000 + 0x10
def Reg.PWRM_THERM : Nat := 0x30000 + 0x14
def Reg.PWRM_COUNT_LO (i : Nat) : Nat := 0x30000 + 0x40 + i * 0x8
def Reg.PWRM_COUNT_HI (i : Nat) : Nat := 0x30000 + 0x44 + i * 0x8
def Reg.CLKG_TIME_LO : Nat := 0x40000 + 0x0
def Reg.CLKG_TIME_HI : Nat := 0x40000 + 0x4
def Reg.CLKG_TRIM : Nat := 0x40000 + 0x8
def Reg.CLKG_STEP : Nat := 0x40000 + 0xC
def Reg.CLKG_MATCH : Nat := 0x40000 + 0x10
def Reg.CLKG_HOURS : Nat := 0x40000 + 0x14
def Reg.CLKG_GROUP (i : Nat) : Nat := 0x40000 + 0x100 + i * 0x4
def Reg.HOSTIF_LINK : Nat := 0x100000 + 0x0
def Reg.HOSTIF_TILE_WIN : Nat := 0x100000 + 0x4
def Reg.HOSTIF_BACKLOG_BASE_LO : Nat := 0x100000 + 0x8
def Reg.HOSTIF_BACKLOG_BASE_HI : Nat := 0x100000 + 0xC
def Reg.HOSTIF_GUEST_BASE_LO (i : Nat) : Nat := 0x100000 + 0x110 + i * 0x10
def Reg.HOSTIF_GUEST_BASE_HI (i : Nat) : Nat := 0x100000 + 0x114 + i * 0x10
def Reg.HOSTIF_GUEST_SIZE (i : Nat) : Nat := 0x100000 + 0x118 + i * 0x10
def Reg.HOSTIF_GUEST_CFG (i : Nat) : Nat := 0x100000 + 0x11C + i * 0x10
def Reg.FN_CTRL (n : Nat) : Nat := 0x101000 + n * 0x1000 + 0x0
def Reg.FN_STATUS (n : Nat) : Nat := 0x101000 + n * 0x1000 + 0x4
def Reg.FN_LIVE (n : Nat) : Nat := 0x101000 + n * 0x1000 + 0x8
def Reg.FN_EPOCH (n : Nat) : Nat := 0x101000 + n * 0x1000 + 0xC
def Reg.FN_JOB (n : Nat) : Nat := 0x101000 + n * 0x1000 + 0x10
def Reg.FN_WIN_LO (n i : Nat) : Nat := 0x101000 + n * 0x1000 + 0x40 + i * 0x8
def Reg.FN_WIN_HI (n i : Nat) : Nat := 0x101000 + n * 0x1000 + 0x44 + i * 0x8
def Reg.SQ_BASE_LO (n i : Nat) : Nat := 0x101000 + n * 0x1000 + 0x80 + i * 0x20
def Reg.SQ_BASE_HI (n i : Nat) : Nat := 0x101000 + n * 0x1000 + 0x84 + i * 0x20
def Reg.CQ_BASE_LO (n i : Nat) : Nat := 0x101000 + n * 0x1000 + 0x88 + i * 0x20
def Reg.CQ_BASE_HI (n i : Nat) : Nat := 0x101000 + n * 0x1000 + 0x8C + i * 0x20
def Reg.RING_CFG (n i : Nat) : Nat := 0x101000 + n * 0x1000 + 0x90 + i * 0x20
def Reg.SQ_DB (n i : Nat) : Nat := 0x101000 + n * 0x1000 + 0x94 + i * 0x20
def Reg.CQ_DB (n i : Nat) : Nat := 0x101000 + n * 0x1000 + 0x98 + i * 0x20
def Reg.RING_STATUS (n i : Nat) : Nat := 0x101000 + n * 0x1000 + 0x9C + i * 0x20
def Reg.EVR_BASE_LO (n : Nat) : Nat := 0x101000 + n * 0x1000 + 0x100
def Reg.EVR_BASE_HI (n : Nat) : Nat := 0x101000 + n * 0x1000 + 0x104
def Reg.EVR_CFG (n : Nat) : Nat := 0x101000 + n * 0x1000 + 0x108
def Reg.EVR_HEAD (n : Nat) : Nat := 0x101000 + n * 0x1000 + 0x10C
def Reg.MAC_CTRL (n : Nat) : Nat := 0x200000 + n * 0x10000 + 0x0
def Reg.MAC_STATUS (n : Nat) : Nat := 0x200000 + n * 0x10000 + 0x4
def Reg.MAC_ADDR_LO (n : Nat) : Nat := 0x200000 + n * 0x10000 + 0x8
def Reg.MAC_ADDR_HI (n : Nat) : Nat := 0x200000 + n * 0x10000 + 0xC
def Reg.MAC_VLAN (n : Nat) : Nat := 0x200000 + n * 0x10000 + 0x10
def Reg.MAC_PFC (n : Nat) : Nat := 0x200000 + n * 0x10000 + 0x14
def Reg.MAC_LP (n : Nat) : Nat := 0x200000 + n * 0x10000 + 0x18
def Reg.MAC_LLDP (n : Nat) : Nat := 0x200000 + n * 0x10000 + 0x1C
def Reg.MAC_IPV4 (n : Nat) : Nat := 0x200000 + n * 0x10000 + 0x20
def Reg.MAC_IPV6 (n i : Nat) : Nat := 0x200000 + n * 0x10000 + 0x24 + i * 0x4
def Reg.MAC_PTP_LAT (n : Nat) : Nat := 0x200000 + n * 0x10000 + 0x40
def Reg.MAC_PTP_DELAY (n : Nat) : Nat := 0x200000 + n * 0x10000 + 0x44
def Reg.MAC_COUNT_LO (n i : Nat) : Nat := 0x200000 + n * 0x10000 + 0x100 + i * 0x8
def Reg.MAC_COUNT_HI (n i : Nat) : Nat := 0x200000 + n * 0x10000 + 0x104 + i * 0x8
def Reg.MAC_DROP_LO (n i : Nat) : Nat := 0x200000 + n * 0x10000 + 0x200 + i * 0x8
def Reg.MAC_DROP_HI (n i : Nat) : Nat := 0x200000 + n * 0x10000 + 0x204 + i * 0x8
def Reg.NRT_CTRL : Nat := 0x300000 + 0x0
def Reg.NRT_STATUS : Nat := 0x300000 + 0x4
def Reg.NRT_TIMING : Nat := 0x300000 + 0x8
def Reg.NRT_RATE : Nat := 0x300000 + 0xC
def Reg.NRT_RING_BASE_LO : Nat := 0x300000 + 0x10
def Reg.NRT_RING_BASE_HI : Nat := 0x300000 + 0x14
def Reg.NRT_DEDUP_BASE_LO : Nat := 0x300000 + 0x18
def Reg.NRT_DEDUP_BASE_HI : Nat := 0x300000 + 0x1C
def Reg.NRT_FLOW_SEL : Nat := 0x300000 + 0x20
def Reg.NRT_FLOW_STATE : Nat := 0x300000 + 0x24
def Reg.NRT_FLOW_REC_LO : Nat := 0x300000 + 0x28
def Reg.NRT_FLOW_REC_HI : Nat := 0x300000 + 0x2C
def Reg.NRT_COUNT_LO (i : Nat) : Nat := 0x300000 + 0x40 + i * 0x8
def Reg.NRT_COUNT_HI (i : Nat) : Nat := 0x300000 + 0x44 + i * 0x8
def Reg.NRT_KEYFAULT_LO (i : Nat) : Nat := 0x300000 + 0x108 + i * 0x8
def Reg.NRT_KEYFAULT_HI (i : Nat) : Nat := 0x300000 + 0x10C + i * 0x8
def Reg.KEYT_CMD : Nat := 0x400000 + 0x0
def Reg.KEYT_STATUS : Nat := 0x400000 + 0x4
def Reg.KEYT_KEY : Nat := 0x400000 + 0x8
def Reg.KEYT_SALT : Nat := 0x400000 + 0xC
def Reg.KEYT_STAGE (i : Nat) : Nat := 0x400000 + 0x20 + i * 0x4
def Reg.FWALL_CTRL (n : Nat) : Nat := 0x500100 + n * 0x100 + 0x0
def Reg.FWALL_OPS (n : Nat) : Nat := 0x500100 + n * 0x100 + 0x4
def Reg.FWALL_LIMIT (n : Nat) : Nat := 0x500100 + n * 0x100 + 0x8
def Reg.FWALL_STATUS (n : Nat) : Nat := 0x500100 + n * 0x100 + 0xC
def Reg.FWALL_WIN_BASE0 (n : Nat) : Nat := 0x500100 + n * 0x100 + 0x10
def Reg.FWALL_WIN_LIMIT0 (n : Nat) : Nat := 0x500100 + n * 0x100 + 0x14
def Reg.FWALL_WIN_BASE (n i : Nat) : Nat := 0x500100 + n * 0x100 + 0x18 + i * 0x8
def Reg.FWALL_WIN_LIMIT (n i : Nat) : Nat := 0x500100 + n * 0x100 + 0x1C + i * 0x8
def Reg.FWALL_VIOL_LO (n i : Nat) : Nat := 0x500100 + n * 0x100 + 0x40 + i * 0x8
def Reg.FWALL_VIOL_HI (n i : Nat) : Nat := 0x500100 + n * 0x100 + 0x44 + i * 0x8
def Reg.CRAXIS_LINK_CFG (i : Nat) : Nat := 0x600000 + 0x10 + i * 0x4
def Reg.CRAXIS_LINK_STATUS (i : Nat) : Nat := 0x600000 + 0x40 + i * 0x4
def Reg.CRAXIS_MOD_STATUS (i : Nat) : Nat := 0x600000 + 0x100 + i * 0x4
def Reg.CRAXIS_COUNT_LO (i j : Nat) : Nat := 0x600000 + 0x400 + i * 0x40 + j * 0x8
def Reg.CRAXIS_COUNT_HI (i j : Nat) : Nat := 0x600000 + 0x404 + i * 0x40 + j * 0x8
def Reg.REEL_CTRL : Nat := 0x700000 + 0x0
def Reg.REEL_STATUS : Nat := 0x700000 + 0x4
def Reg.REEL_OT_BASE_LO : Nat := 0x700000 + 0x8
def Reg.REEL_OT_BASE_HI : Nat := 0x700000 + 0xC
def Reg.REEL_OT_COUNT : Nat := 0x700000 + 0x10
def Reg.REEL_TAB_BASE_LO : Nat := 0x700000 + 0x14
def Reg.REEL_TAB_BASE_HI : Nat := 0x700000 + 0x18
def Reg.REEL_TAB_COUNT : Nat := 0x700000 + 0x1C
def Reg.REEL_COUNT_LO (i : Nat) : Nat := 0x700000 + 0x40 + i * 0x8
def Reg.REEL_COUNT_HI (i : Nat) : Nat := 0x700000 + 0x44 + i * 0x8
def Reg.COLL_CTRL : Nat := 0x800000 + 0x0
def Reg.COLL_STATUS : Nat := 0x800000 + 0x4
def Reg.COLL_STEP : Nat := 0x800000 + 0x8
def Reg.COLL_BKT_BASE_LO : Nat := 0x800000 + 0x10
def Reg.COLL_BKT_BASE_HI : Nat := 0x800000 + 0x14
def Reg.COLL_BKT_COUNT : Nat := 0x800000 + 0x18
def Reg.COLL_RG_BASE_LO : Nat := 0x800000 + 0x1C
def Reg.COLL_RG_BASE_HI : Nat := 0x800000 + 0x20
def Reg.COLL_RG_COUNT : Nat := 0x800000 + 0x24
def Reg.COLL_COUNT_LO (i : Nat) : Nat := 0x800000 + 0x40 + i * 0x8
def Reg.COLL_COUNT_HI (i : Nat) : Nat := 0x800000 + 0x44 + i * 0x8
def Reg.TOPO_GEN : Nat := 0x800000 + 0x400
def Reg.TOPO_CEILING : Nat := 0x800000 + 0x404
def Reg.TOPO_PORTS : Nat := 0x800000 + 0x408
def Reg.TOPO_PARTNER_LO (i : Nat) : Nat := 0x800000 + 0x410 + i * 0x10
def Reg.TOPO_PARTNER_HI (i : Nat) : Nat := 0x800000 + 0x414 + i * 0x10
def Reg.TOPO_LENGTH (i : Nat) : Nat := 0x800000 + 0x418 + i * 0x10
def Reg.TOPO_PORT (i : Nat) : Nat := 0x800000 + 0x41C + i * 0x10
def Reg.UPDT_CTRL : Nat := 0x900000 + 0x0
def Reg.UPDT_STATUS : Nat := 0x900000 + 0x4
def Reg.UPDT_SCRATCH_BASE_LO : Nat := 0x900000 + 0x8
def Reg.UPDT_SCRATCH_BASE_HI : Nat := 0x900000 + 0xC
def Reg.UPDT_SCRATCH_SIZE : Nat := 0x900000 + 0x10
def Reg.UPDT_GROUP_CTL : Nat := 0x900000 + 0x14
def Reg.UPDT_GROUP_STEP : Nat := 0x900000 + 0x18
def Reg.UPDT_MIRROR_STEP : Nat := 0x900000 + 0x1C
def Reg.UPDT_DONE : Nat := 0x900000 + 0x20
def Reg.UPDT_COUNT_LO (i : Nat) : Nat := 0x900000 + 0x40 + i * 0x8
def Reg.UPDT_COUNT_HI (i : Nat) : Nat := 0x900000 + 0x44 + i * 0x8
def Reg.PMON_CTRL : Nat := 0xA00000 + 0x0
def Reg.PMON_BW_CTRL : Nat := 0xA00000 + 0x4
def Reg.PMON_RANGE_BASE_LO (i : Nat) : Nat := 0xA00000 + 0x10 + i * 0x10
def Reg.PMON_RANGE_BASE_HI (i : Nat) : Nat := 0xA00000 + 0x14 + i * 0x10
def Reg.PMON_RANGE_LIMIT_LO (i : Nat) : Nat := 0xA00000 + 0x18 + i * 0x10
def Reg.PMON_RANGE_LIMIT_HI (i : Nat) : Nat := 0xA00000 + 0x1C + i * 0x10
def Reg.PMON_TILE_SEL : Nat := 0xA00000 + 0x40
def Reg.PMON_SMP_BASE_LO : Nat := 0xA00000 + 0x48
def Reg.PMON_SMP_BASE_HI : Nat := 0xA00000 + 0x4C
def Reg.PMON_HUB_SEL (i : Nat) : Nat := 0xA00000 + 0x100 + i * 0x10
def Reg.PMON_HUB_FILT (i : Nat) : Nat := 0xA00000 + 0x104 + i * 0x10
def Reg.PMON_HUB_CNT_LO (i : Nat) : Nat := 0xA00000 + 0x108 + i * 0x10
def Reg.PMON_HUB_CNT_HI (i : Nat) : Nat := 0xA00000 + 0x10C + i * 0x10
def Reg.PMON_UPD_SEL (i : Nat) : Nat := 0xA00000 + 0x500 + i * 0x10
def Reg.PMON_UPD_FILT (i : Nat) : Nat := 0xA00000 + 0x504 + i * 0x10
def Reg.PMON_UPD_CNT_LO (i : Nat) : Nat := 0xA00000 + 0x508 + i * 0x10
def Reg.PMON_UPD_CNT_HI (i : Nat) : Nat := 0xA00000 + 0x50C + i * 0x10
def Reg.PMON_ALLOC (i : Nat) : Nat := 0xA00000 + 0x800 + i * 0x4
def Reg.DLY_CTRL (i : Nat) : Nat := 0xA00000 + 0x900 + i * 0x20
def Reg.DLY_BASE_LO (i : Nat) : Nat := 0xA00000 + 0x904 + i * 0x20
def Reg.DLY_BASE_HI (i : Nat) : Nat := 0xA00000 + 0x908 + i * 0x20
def Reg.DLY_CFG (i : Nat) : Nat := 0xA00000 + 0x90C + i * 0x20
def Reg.DLY_PROD (i : Nat) : Nat := 0xA00000 + 0x910 + i * 0x20
def Reg.DLY_CONS (i : Nat) : Nat := 0xA00000 + 0x914 + i * 0x20
def Reg.BW_LAST (i : Nat) : Nat := 0xA00000 + 0xC00 + i * 0x10
def Reg.BW_MIN (i : Nat) : Nat := 0xA00000 + 0xC04 + i * 0x10
def Reg.BW_MAX (i : Nat) : Nat := 0xA00000 + 0xC08 + i * 0x10
def Reg.BW_COUNT (i : Nat) : Nat := 0xA00000 + 0xC0C + i * 0x10
def Reg.RAS_CTRL : Nat := 0xB00000 + 0x0
def Reg.RAS_STATUS : Nat := 0xB00000 + 0x4
def Reg.RAS_EVR_BASE_LO : Nat := 0xB00000 + 0x8
def Reg.RAS_EVR_BASE_HI : Nat := 0xB00000 + 0xC
def Reg.RAS_EVR_CFG : Nat := 0xB00000 + 0x10
def Reg.RAS_EVR_PROD : Nat := 0xB00000 + 0x14
def Reg.RAS_EVR_CONS : Nat := 0xB00000 + 0x18
def Reg.RAS_SWAP : Nat := 0xB00000 + 0x1C
def Reg.RAS_SPARES : Nat := 0xB00000 + 0x20
def Reg.RAS_COUNT_LO (i : Nat) : Nat := 0xB00000 + 0x40 + i * 0x8
def Reg.RAS_COUNT_HI (i : Nat) : Nat := 0xB00000 + 0x44 + i * 0x8
def Reg.RAS_TILEMAP (i : Nat) : Nat := 0xB00000 + 0x400 + i * 0x4
def Reg.TELE_FMTH_CTRL : Nat := 0xC00000 + 0x800
def Reg.TELE_FMTH_BASE_LO : Nat := 0xC00000 + 0x804
def Reg.TELE_FMTH_BASE_HI : Nat := 0xC00000 + 0x808
def Reg.TELE_FMTH_THRESH : Nat := 0xC00000 + 0x80C
def Reg.TELE_FMTH_STATUS : Nat := 0xC00000 + 0x810
def Reg.TELE_FMTH_CLOSED : Nat := 0xC00000 + 0x814
def Reg.TILE_SEQ_CTRL (n : Nat) : Nat := 0x10000000 + n * 0x10000 + 0x100
def Reg.TILE_SEQ_STATUS (n : Nat) : Nat := 0x10000000 + n * 0x10000 + 0x104
def Reg.TILE_SEQ_PC (n : Nat) : Nat := 0x10000000 + n * 0x10000 + 0x108
def Reg.TILE_SEQ_SLATE_LO (n : Nat) : Nat := 0x10000000 + n * 0x10000 + 0x10C
def Reg.TILE_SEQ_SLATE_HI (n : Nat) : Nat := 0x10000000 + n * 0x10000 + 0x110
def Reg.TILE_SEQ_EC (n i : Nat) : Nat := 0x10000000 + n * 0x10000 + 0x120 + i * 0x4
def Reg.TILE_SEQ_ISSUE_LO (n : Nat) : Nat := 0x10000000 + n * 0x10000 + 0x140
def Reg.TILE_SEQ_ISSUE_HI (n : Nat) : Nat := 0x10000000 + n * 0x10000 + 0x144
def Reg.TILE_SEQ_WAIT_LO (n : Nat) : Nat := 0x10000000 + n * 0x10000 + 0x148
def Reg.TILE_SEQ_WAIT_HI (n : Nat) : Nat := 0x10000000 + n * 0x10000 + 0x14C
def Reg.TILE_ARR_STATUS (n : Nat) : Nat := 0x10000000 + n * 0x10000 + 0x200
def Reg.TILE_ARR_STREAM_LO (n : Nat) : Nat := 0x10000000 + n * 0x10000 + 0x204
def Reg.TILE_ARR_STREAM_HI (n : Nat) : Nat := 0x10000000 + n * 0x10000 + 0x208
def Reg.TILE_ARR_SKIP_LO (n : Nat) : Nat := 0x10000000 + n * 0x10000 + 0x20C
def Reg.TILE_ARR_SKIP_HI (n : Nat) : Nat := 0x10000000 + n * 0x10000 + 0x210
def Reg.TILE_ARR_STALL_LO (n : Nat) : Nat := 0x10000000 + n * 0x10000 + 0x214
def Reg.TILE_ARR_STALL_HI (n : Nat) : Nat := 0x10000000 + n * 0x10000 + 0x218
def Reg.TILE_LA_CTRL (n : Nat) : Nat := 0x10000000 + n * 0x10000 + 0x300
def Reg.TILE_LA_STATUS (n : Nat) : Nat := 0x10000000 + n * 0x10000 + 0x304
def Reg.TILE_LA_TRUNC_LO (n : Nat) : Nat := 0x10000000 + n * 0x10000 + 0x308
def Reg.TILE_LA_TRUNC_HI (n : Nat) : Nat := 0x10000000 + n * 0x10000 + 0x30C
def Reg.TILE_LA_VANISH_LO (n : Nat) : Nat := 0x10000000 + n * 0x10000 + 0x310
def Reg.TILE_LA_VANISH_HI (n : Nat) : Nat := 0x10000000 + n * 0x10000 + 0x314
def Reg.TILE_CHN_STATUS (n : Nat) : Nat := 0x10000000 + n * 0x10000 + 0x400
def Reg.TILE_CHN_VEC_LO (n : Nat) : Nat := 0x10000000 + n * 0x10000 + 0x404
def Reg.TILE_CHN_VEC_HI (n : Nat) : Nat := 0x10000000 + n * 0x10000 + 0x408
def Reg.TILE_CHN_STALL_LO (n : Nat) : Nat := 0x10000000 + n * 0x10000 + 0x40C
def Reg.TILE_CHN_STALL_HI (n : Nat) : Nat := 0x10000000 + n * 0x10000 + 0x410
def Reg.TILE_DSP_CTRL (n : Nat) : Nat := 0x10000000 + n * 0x10000 + 0x500
def Reg.TILE_DSP_STATUS (n : Nat) : Nat := 0x10000000 + n * 0x10000 + 0x504
def Reg.TILE_DSP_ROUTED_LO (n : Nat) : Nat := 0x10000000 + n * 0x10000 + 0x508
def Reg.TILE_DSP_ROUTED_HI (n : Nat) : Nat := 0x10000000 + n * 0x10000 + 0x50C
def Reg.TILE_DSP_DROPPED_LO (n : Nat) : Nat := 0x10000000 + n * 0x10000 + 0x510
def Reg.TILE_DSP_DROPPED_HI (n : Nat) : Nat := 0x10000000 + n * 0x10000 + 0x514
def Reg.TILE_DSP_BADCHOICE_LO (n : Nat) : Nat := 0x10000000 + n * 0x10000 + 0x518
def Reg.TILE_DSP_BADCHOICE_HI (n : Nat) : Nat := 0x10000000 + n * 0x10000 + 0x51C
def Reg.TILE_DSP_SKIPTOK_LO (n : Nat) : Nat := 0x10000000 + n * 0x10000 + 0x520
def Reg.TILE_DSP_SKIPTOK_HI (n : Nat) : Nat := 0x10000000 + n * 0x10000 + 0x524
def Reg.TILE_DSP_STALL_LO (n : Nat) : Nat := 0x10000000 + n * 0x10000 + 0x528
def Reg.TILE_DSP_STALL_HI (n : Nat) : Nat := 0x10000000 + n * 0x10000 + 0x52C
def Reg.TILE_PMU_SEL (n i : Nat) : Nat := 0x10000000 + n * 0x10000 + 0x600 + i * 0x10
def Reg.TILE_PMU_FILT (n i : Nat) : Nat := 0x10000000 + n * 0x10000 + 0x604 + i * 0x10
def Reg.TILE_PMU_CNT_LO (n i : Nat) : Nat := 0x10000000 + n * 0x10000 + 0x608 + i * 0x10
def Reg.TILE_PMU_CNT_HI (n i : Nat) : Nat := 0x10000000 + n * 0x10000 + 0x60C + i * 0x10
def Reg.TILE_SMP_CTRL (n : Nat) : Nat := 0x10000000 + n * 0x10000 + 0x700
def Reg.TILE_SMP_PROD (n : Nat) : Nat := 0x10000000 + n * 0x10000 + 0x704
def Reg.TILE_SMP_CONS (n : Nat) : Nat := 0x10000000 + n * 0x10000 + 0x708
def Reg.TILE_PMU_PCRANGE (n : Nat) : Nat := 0x10000000 + n * 0x10000 + 0x70C
def Reg.TILE_SMP_LOST_LO (n : Nat) : Nat := 0x10000000 + n * 0x10000 + 0x710
def Reg.TILE_SMP_LOST_HI (n : Nat) : Nat := 0x10000000 + n * 0x10000 + 0x714
def Reg.TILE_SMP_SKIPPED_LO (n : Nat) : Nat := 0x10000000 + n * 0x10000 + 0x718
def Reg.TILE_SMP_SKIPPED_HI (n : Nat) : Nat := 0x10000000 + n * 0x10000 + 0x71C

/-! Every field, by register and field name. -/

def Fl.IDENT_SURVEY_DONE : Fld := ⟨Reg.IDENT_SURVEY, 0, 1⟩
def Fl.IDENT_SURVEY_SUPPLY_OK : Fld := ⟨Reg.IDENT_SURVEY, 1, 1⟩
def Fl.IDENT_SURVEY_COUNT : Fld := ⟨Reg.IDENT_SURVEY, 8, 8⟩
def Fl.IDENT_SURVEY_RESURVEY : Fld := ⟨Reg.IDENT_SURVEY, 16, 1⟩
def Fl.IDENT_SUPPLY_SLOT_VOLTAGE : Fld := ⟨Reg.IDENT_SUPPLY_SLOT, 0, 16⟩
def Fl.IDENT_SUPPLY_SLOT_SENSE : Fld := ⟨Reg.IDENT_SUPPLY_SLOT, 16, 2⟩
def Fl.IDENT_SUPPLY_SLOT_LIMIT : Fld := ⟨Reg.IDENT_SUPPLY_SLOT, 20, 10⟩
def Fl.IDENT_SUPPLY_CONN0_VOLTAGE : Fld := ⟨Reg.IDENT_SUPPLY_CONN0, 0, 16⟩
def Fl.IDENT_SUPPLY_CONN0_SENSE : Fld := ⟨Reg.IDENT_SUPPLY_CONN0, 16, 2⟩
def Fl.IDENT_SUPPLY_CONN0_LIMIT : Fld := ⟨Reg.IDENT_SUPPLY_CONN0, 20, 10⟩
def Fl.IDENT_SUPPLY_CONN1_VOLTAGE : Fld := ⟨Reg.IDENT_SUPPLY_CONN1, 0, 16⟩
def Fl.IDENT_SUPPLY_CONN1_SENSE : Fld := ⟨Reg.IDENT_SUPPLY_CONN1, 16, 2⟩
def Fl.IDENT_SUPPLY_CONN1_LIMIT : Fld := ⟨Reg.IDENT_SUPPLY_CONN1, 20, 10⟩
def Fl.IDENT_CAP_CEILING_CEILING : Fld := ⟨Reg.IDENT_CAP_CEILING, 0, 10⟩
def Fl.IDENT_CAGE_PRESENT (i : Nat) : Fld := ⟨Reg.IDENT_CAGE i, 0, 1⟩
def Fl.IDENT_CAGE_CMIS_OK (i : Nat) : Fld := ⟨Reg.IDENT_CAGE i, 1, 1⟩
def Fl.IDENT_CAGE_MODE (i : Nat) : Fld := ⟨Reg.IDENT_CAGE i, 2, 2⟩
def Fl.IDENT_CAGE_MEDIA (i : Nat) : Fld := ⟨Reg.IDENT_CAGE i, 4, 4⟩
def Fl.IDENT_CAGE_LENGTH (i : Nat) : Fld := ⟨Reg.IDENT_CAGE i, 8, 8⟩
def Fl.IDENT_CAGE_POWER_CLASS (i : Nat) : Fld := ⟨Reg.IDENT_CAGE i, 16, 4⟩
def Fl.IDENT_CAGE_SIGNAL (i : Nat) : Fld := ⟨Reg.IDENT_CAGE i, 20, 4⟩
def Fl.IDENT_CAGE_FIRST_PORT (i : Nat) : Fld := ⟨Reg.IDENT_CAGE i, 24, 4⟩
def Fl.IDENT_CAGE_LOWPWR (i : Nat) : Fld := ⟨Reg.IDENT_CAGE i, 28, 1⟩
def Fl.RSTC_CTRL_DEVICE_RESET : Fld := ⟨Reg.RSTC_CTRL, 0, 1⟩
def Fl.RSTC_CTRL_TWIN_REQ : Fld := ⟨Reg.RSTC_CTRL, 1, 1⟩
def Fl.RSTC_CTRL_READY : Fld := ⟨Reg.RSTC_CTRL, 2, 1⟩
def Fl.RSTC_CTRL_KEY : Fld := ⟨Reg.RSTC_CTRL, 8, 8⟩
def Fl.RSTC_STATE_STATE : Fld := ⟨Reg.RSTC_STATE, 0, 4⟩
def Fl.RSTC_CAUSE_CAUSE : Fld := ⟨Reg.RSTC_CAUSE, 0, 4⟩
def Fl.RSTC_CAUSE_COUNT : Fld := ⟨Reg.RSTC_CAUSE, 4, 4⟩
def Fl.RSTC_CAUSE_LOST : Fld := ⟨Reg.RSTC_CAUSE, 8, 1⟩
def Fl.RSTC_CAUSE_TIME_LO_TIME : Fld := ⟨Reg.RSTC_CAUSE_TIME_LO, 0, 32⟩
def Fl.RSTC_CAUSE_TIME_HI_TIME : Fld := ⟨Reg.RSTC_CAUSE_TIME_HI, 0, 32⟩
def Fl.RSTC_BLOCK_UPD : Fld := ⟨Reg.RSTC_BLOCK, 0, 1⟩
def Fl.RSTC_BLOCK_STK : Fld := ⟨Reg.RSTC_BLOCK, 1, 4⟩
def Fl.RSTC_BLOCK_FLD : Fld := ⟨Reg.RSTC_BLOCK, 5, 3⟩
def Fl.RSTC_BLOCK_MGMT : Fld := ⟨Reg.RSTC_BLOCK, 8, 1⟩
def Fl.RSTC_WDOG_KICK : Fld := ⟨Reg.RSTC_WDOG, 0, 32⟩
def Fl.RSTC_STAGE_WDOG_KICK : Fld := ⟨Reg.RSTC_STAGE_WDOG, 0, 32⟩
def Fl.RSTC_COUNT_LO_COUNT (i : Nat) : Fld := ⟨Reg.RSTC_COUNT_LO i, 0, 32⟩
def Fl.RSTC_COUNT_HI_COUNT (i : Nat) : Fld := ⟨Reg.RSTC_COUNT_HI i, 0, 16⟩
def Fl.OPTS_STATUS_SOURCE : Fld := ⟨Reg.OPTS_STATUS, 0, 2⟩
def Fl.OPTS_STATUS_A_BAD : Fld := ⟨Reg.OPTS_STATUS, 2, 1⟩
def Fl.OPTS_STATUS_B_BAD : Fld := ⟨Reg.OPTS_STATUS, 3, 1⟩
def Fl.OPTS_STATUS_CFG_DEFAULT : Fld := ⟨Reg.OPTS_STATUS, 4, 1⟩
def Fl.OPTS_STATUS_KEEPER_SLOT : Fld := ⟨Reg.OPTS_STATUS, 5, 1⟩
def Fl.OPTS_STATUS_STAGE_SLOT : Fld := ⟨Reg.OPTS_STATUS, 6, 1⟩
def Fl.OPTS_SEQ_SEQ : Fld := ⟨Reg.OPTS_SEQ, 0, 32⟩
def Fl.OPTS_VALUES_HOST_RESET_REACH : Fld := ⟨Reg.OPTS_VALUES, 0, 1⟩
def Fl.OPTS_VALUES_TWIN_RESET_EN : Fld := ⟨Reg.OPTS_VALUES, 1, 1⟩
def Fl.OPTS_VALUES_STAGE_WDOG_MS : Fld := ⟨Reg.OPTS_VALUES, 16, 16⟩
def Fl.OPTS_MIN_REV_C : Fld := ⟨Reg.OPTS_MIN_REV, 0, 8⟩
def Fl.OPTS_MIN_REV_U : Fld := ⟨Reg.OPTS_MIN_REV, 8, 8⟩
def Fl.OPTS_MIN_REV_STACK : Fld := ⟨Reg.OPTS_MIN_REV, 16, 8⟩
def Fl.OPTS_MEAS_BYTES (i j : Nat) : Fld := ⟨Reg.OPTS_MEAS i j, 0, 32⟩
def Fl.PWRM_CTRL_MODE : Fld := ⟨Reg.PWRM_CTRL, 0, 1⟩
def Fl.PWRM_CTRL_MATCHED : Fld := ⟨Reg.PWRM_CTRL, 1, 1⟩
def Fl.PWRM_CTRL_RECAL : Fld := ⟨Reg.PWRM_CTRL, 2, 1⟩
def Fl.PWRM_CTRL_ROOM_US : Fld := ⟨Reg.PWRM_CTRL, 4, 8⟩
def Fl.PWRM_CTRL_PHASE_SHIFT : Fld := ⟨Reg.PWRM_CTRL, 12, 4⟩
def Fl.PWRM_CTRL_CAL_STEPS : Fld := ⟨Reg.PWRM_CTRL, 16, 8⟩
def Fl.PWRM_CAP_CAP : Fld := ⟨Reg.PWRM_CAP, 0, 10⟩
def Fl.PWRM_CAP_IN_FORCE : Fld := ⟨Reg.PWRM_CAP, 16, 10⟩
def Fl.PWRM_FRAC_MEMORY : Fld := ⟨Reg.PWRM_FRAC, 0, 8⟩
def Fl.PWRM_FRAC_UPDATE : Fld := ⟨Reg.PWRM_FRAC, 8, 8⟩
def Fl.PWRM_FRAC_HUB : Fld := ⟨Reg.PWRM_FRAC, 16, 8⟩
def Fl.PWRM_STATUS_LEARNING : Fld := ⟨Reg.PWRM_STATUS, 0, 1⟩
def Fl.PWRM_STATUS_FALLBACK : Fld := ⟨Reg.PWRM_STATUS, 1, 1⟩
def Fl.PWRM_STATUS_DIVERGED : Fld := ⟨Reg.PWRM_STATUS, 2, 1⟩
def Fl.PWRM_STATUS_SENSOR_FAILED : Fld := ⟨Reg.PWRM_STATUS, 3, 1⟩
def Fl.PWRM_STATUS_MATCH_LOST : Fld := ⟨Reg.PWRM_STATUS, 4, 1⟩
def Fl.PWRM_STATUS_THROTTLED : Fld := ⟨Reg.PWRM_STATUS, 5, 1⟩
def Fl.PWRM_STATUS_CAP_BOUND : Fld := ⟨Reg.PWRM_STATUS, 6, 1⟩
def Fl.PWRM_STATUS_THERM_WARN : Fld := ⟨Reg.PWRM_STATUS, 7, 1⟩
def Fl.PWRM_POWER_MEASURED : Fld := ⟨Reg.PWRM_POWER, 0, 16⟩
def Fl.PWRM_POWER_ESTIMATE : Fld := ⟨Reg.PWRM_POWER, 16, 16⟩
def Fl.PWRM_THERM_HOTTEST : Fld := ⟨Reg.PWRM_THERM, 0, 8⟩
def Fl.PWRM_THERM_WHICH : Fld := ⟨Reg.PWRM_THERM, 8, 8⟩
def Fl.PWRM_THERM_INLET : Fld := ⟨Reg.PWRM_THERM, 16, 8⟩
def Fl.PWRM_THERM_OUTLET : Fld := ⟨Reg.PWRM_THERM, 24, 8⟩
def Fl.PWRM_COUNT_LO_COUNT (i : Nat) : Fld := ⟨Reg.PWRM_COUNT_LO i, 0, 32⟩
def Fl.PWRM_COUNT_HI_COUNT (i : Nat) : Fld := ⟨Reg.PWRM_COUNT_HI i, 0, 16⟩
def Fl.CLKG_TIME_LO_TIME : Fld := ⟨Reg.CLKG_TIME_LO, 0, 32⟩
def Fl.CLKG_TIME_HI_TIME : Fld := ⟨Reg.CLKG_TIME_HI, 0, 32⟩
def Fl.CLKG_TRIM_RATE : Fld := ⟨Reg.CLKG_TRIM, 0, 20⟩
def Fl.CLKG_STEP_STEP : Fld := ⟨Reg.CLKG_STEP, 0, 32⟩
def Fl.CLKG_MATCH_MHZ : Fld := ⟨Reg.CLKG_MATCH, 0, 11⟩
def Fl.CLKG_HOURS_HOURS : Fld := ⟨Reg.CLKG_HOURS, 0, 32⟩
def Fl.CLKG_GROUP_POINT (i : Nat) : Fld := ⟨Reg.CLKG_GROUP i, 0, 4⟩
def Fl.CLKG_GROUP_AGE (i : Nat) : Fld := ⟨Reg.CLKG_GROUP i, 4, 2⟩
def Fl.CLKG_GROUP_STOPPED (i : Nat) : Fld := ⟨Reg.CLKG_GROUP i, 6, 1⟩
def Fl.CLKG_GROUP_STRETCHED (i : Nat) : Fld := ⟨Reg.CLKG_GROUP i, 7, 1⟩
def Fl.CLKG_GROUP_MHZ (i : Nat) : Fld := ⟨Reg.CLKG_GROUP i, 8, 11⟩
def Fl.HOSTIF_LINK_RATE : Fld := ⟨Reg.HOSTIF_LINK, 0, 3⟩
def Fl.HOSTIF_LINK_WIDTH : Fld := ⟨Reg.HOSTIF_LINK, 3, 5⟩
def Fl.HOSTIF_LINK_UP : Fld := ⟨Reg.HOSTIF_LINK, 8, 1⟩
def Fl.HOSTIF_LINK_DEGRADED : Fld := ⟨Reg.HOSTIF_LINK, 9, 1⟩
def Fl.HOSTIF_TILE_WIN_FIRST : Fld := ⟨Reg.HOSTIF_TILE_WIN, 0, 8⟩
def Fl.HOSTIF_BACKLOG_BASE_LO_BASE : Fld := ⟨Reg.HOSTIF_BACKLOG_BASE_LO, 0, 32⟩
def Fl.HOSTIF_BACKLOG_BASE_HI_BASE : Fld := ⟨Reg.HOSTIF_BACKLOG_BASE_HI, 0, 16⟩
def Fl.HOSTIF_GUEST_BASE_LO_BASE (i : Nat) : Fld := ⟨Reg.HOSTIF_GUEST_BASE_LO i, 0, 32⟩
def Fl.HOSTIF_GUEST_BASE_HI_BASE (i : Nat) : Fld := ⟨Reg.HOSTIF_GUEST_BASE_HI i, 0, 16⟩
def Fl.HOSTIF_GUEST_SIZE_SIZE (i : Nat) : Fld := ⟨Reg.HOSTIF_GUEST_SIZE i, 0, 18⟩
def Fl.HOSTIF_GUEST_CFG_ENABLE (i : Nat) : Fld := ⟨Reg.HOSTIF_GUEST_CFG i, 0, 1⟩
def Fl.HOSTIF_GUEST_CFG_LOAD (i : Nat) : Fld := ⟨Reg.HOSTIF_GUEST_CFG i, 1, 1⟩
def Fl.HOSTIF_GUEST_CFG_SNAP (i : Nat) : Fld := ⟨Reg.HOSTIF_GUEST_CFG i, 2, 1⟩
def Fl.FN_CTRL_ATTACH (n : Nat) : Fld := ⟨Reg.FN_CTRL n, 0, 1⟩
def Fl.FN_CTRL_DETACH (n : Nat) : Fld := ⟨Reg.FN_CTRL n, 1, 1⟩
def Fl.FN_CTRL_LIVE_MS (n : Nat) : Fld := ⟨Reg.FN_CTRL n, 16, 16⟩
def Fl.FN_STATUS_ATTACHED (n : Nat) : Fld := ⟨Reg.FN_STATUS n, 0, 1⟩
def Fl.FN_STATUS_CAUSE (n : Nat) : Fld := ⟨Reg.FN_STATUS n, 1, 3⟩
def Fl.FN_STATUS_ATTACH_FAIL (n : Nat) : Fld := ⟨Reg.FN_STATUS n, 4, 1⟩
def Fl.FN_STATUS_STALE_DB (n : Nat) : Fld := ⟨Reg.FN_STATUS n, 8, 8⟩
def Fl.FN_LIVE_LIVE (n : Nat) : Fld := ⟨Reg.FN_LIVE n, 0, 32⟩
def Fl.FN_EPOCH_EPOCH (n : Nat) : Fld := ⟨Reg.FN_EPOCH n, 0, 8⟩
def Fl.FN_JOB_STATE (n : Nat) : Fld := ⟨Reg.FN_JOB n, 0, 2⟩
def Fl.FN_JOB_OWNER (n : Nat) : Fld := ⟨Reg.FN_JOB n, 2, 4⟩
def Fl.FN_WIN_LO_BASE (n i : Nat) : Fld := ⟨Reg.FN_WIN_LO n i, 0, 32⟩
def Fl.FN_WIN_HI_BASE (n i : Nat) : Fld := ⟨Reg.FN_WIN_HI n i, 0, 16⟩
def Fl.FN_WIN_HI_EN (n i : Nat) : Fld := ⟨Reg.FN_WIN_HI n i, 31, 1⟩
def Fl.SQ_BASE_LO_BASE (n i : Nat) : Fld := ⟨Reg.SQ_BASE_LO n i, 0, 32⟩
def Fl.SQ_BASE_HI_BASE (n i : Nat) : Fld := ⟨Reg.SQ_BASE_HI n i, 0, 32⟩
def Fl.CQ_BASE_LO_BASE (n i : Nat) : Fld := ⟨Reg.CQ_BASE_LO n i, 0, 32⟩
def Fl.CQ_BASE_HI_BASE (n i : Nat) : Fld := ⟨Reg.CQ_BASE_HI n i, 0, 32⟩
def Fl.RING_CFG_SQ_LOG2 (n i : Nat) : Fld := ⟨Reg.RING_CFG n i, 0, 4⟩
def Fl.RING_CFG_CQ_LOG2 (n i : Nat) : Fld := ⟨Reg.RING_CFG n i, 4, 4⟩
def Fl.RING_CFG_VECTOR (n i : Nat) : Fld := ⟨Reg.RING_CFG n i, 8, 4⟩
def Fl.RING_CFG_ENABLE (n i : Nat) : Fld := ⟨Reg.RING_CFG n i, 12, 1⟩
def Fl.RING_CFG_COAL_COUNT (n i : Nat) : Fld := ⟨Reg.RING_CFG n i, 16, 8⟩
def Fl.RING_CFG_COAL_US (n i : Nat) : Fld := ⟨Reg.RING_CFG n i, 24, 8⟩
def Fl.SQ_DB_TAIL (n i : Nat) : Fld := ⟨Reg.SQ_DB n i, 0, 12⟩
def Fl.SQ_DB_EPOCH (n i : Nat) : Fld := ⟨Reg.SQ_DB n i, 16, 8⟩
def Fl.CQ_DB_HEAD (n i : Nat) : Fld := ⟨Reg.CQ_DB n i, 0, 12⟩
def Fl.CQ_DB_EPOCH (n i : Nat) : Fld := ⟨Reg.CQ_DB n i, 16, 8⟩
def Fl.RING_STATUS_SQ_HEAD (n i : Nat) : Fld := ⟨Reg.RING_STATUS n i, 0, 12⟩
def Fl.RING_STATUS_STALLED (n i : Nat) : Fld := ⟨Reg.RING_STATUS n i, 12, 1⟩
def Fl.RING_STATUS_CQ_FULL (n i : Nat) : Fld := ⟨Reg.RING_STATUS n i, 13, 1⟩
def Fl.EVR_BASE_LO_BASE (n : Nat) : Fld := ⟨Reg.EVR_BASE_LO n, 0, 32⟩
def Fl.EVR_BASE_HI_BASE (n : Nat) : Fld := ⟨Reg.EVR_BASE_HI n, 0, 32⟩
def Fl.EVR_CFG_LOG2 (n : Nat) : Fld := ⟨Reg.EVR_CFG n, 0, 4⟩
def Fl.EVR_CFG_ENABLE (n : Nat) : Fld := ⟨Reg.EVR_CFG n, 4, 1⟩
def Fl.EVR_HEAD_HEAD (n : Nat) : Fld := ⟨Reg.EVR_HEAD n, 0, 15⟩
def Fl.EVR_HEAD_EPOCH (n : Nat) : Fld := ⟨Reg.EVR_HEAD n, 16, 8⟩
def Fl.MAC_CTRL_RUN (n : Nat) : Fld := ⟨Reg.MAC_CTRL n, 0, 1⟩
def Fl.MAC_CTRL_LP_MODE (n : Nat) : Fld := ⟨Reg.MAC_CTRL n, 1, 2⟩
def Fl.MAC_CTRL_JUMBO (n : Nat) : Fld := ⟨Reg.MAC_CTRL n, 3, 1⟩
def Fl.MAC_CTRL_PFC_EN (n : Nat) : Fld := ⟨Reg.MAC_CTRL n, 4, 1⟩
def Fl.MAC_CTRL_PDELAY_EN (n : Nat) : Fld := ⟨Reg.MAC_CTRL n, 5, 1⟩
def Fl.MAC_CTRL_GM_EN (n : Nat) : Fld := ⟨Reg.MAC_CTRL n, 6, 1⟩
def Fl.MAC_CTRL_RETRAIN (n : Nat) : Fld := ⟨Reg.MAC_CTRL n, 7, 1⟩
def Fl.MAC_CTRL_RETRAIN_THRESH (n : Nat) : Fld := ⟨Reg.MAC_CTRL n, 16, 8⟩
def Fl.MAC_STATUS_STATE (n : Nat) : Fld := ⟨Reg.MAC_STATUS n, 0, 3⟩
def Fl.MAC_STATUS_SPEED (n : Nat) : Fld := ⟨Reg.MAC_STATUS n, 3, 2⟩
def Fl.MAC_STATUS_LPI_TX (n : Nat) : Fld := ⟨Reg.MAC_STATUS n, 5, 1⟩
def Fl.MAC_STATUS_LPI_RX (n : Nat) : Fld := ⟨Reg.MAC_STATUS n, 6, 1⟩
def Fl.MAC_STATUS_STEP_OK (n : Nat) : Fld := ⟨Reg.MAC_STATUS n, 7, 1⟩
def Fl.MAC_STATUS_FEC_LOCK (n : Nat) : Fld := ⟨Reg.MAC_STATUS n, 8, 1⟩
def Fl.MAC_STATUS_MISCABLED (n : Nat) : Fld := ⟨Reg.MAC_STATUS n, 9, 1⟩
def Fl.MAC_STATUS_TW (n : Nat) : Fld := ⟨Reg.MAC_STATUS n, 16, 16⟩
def Fl.MAC_ADDR_LO_ADDR (n : Nat) : Fld := ⟨Reg.MAC_ADDR_LO n, 0, 32⟩
def Fl.MAC_ADDR_HI_ADDR (n : Nat) : Fld := ⟨Reg.MAC_ADDR_HI n, 0, 16⟩
def Fl.MAC_VLAN_VID (n : Nat) : Fld := ⟨Reg.MAC_VLAN n, 0, 12⟩
def Fl.MAC_VLAN_TAG_EN (n : Nat) : Fld := ⟨Reg.MAC_VLAN n, 12, 1⟩
def Fl.MAC_VLAN_DATA_PCP (n : Nat) : Fld := ⟨Reg.MAC_VLAN n, 13, 3⟩
def Fl.MAC_VLAN_MGMT_PCP (n : Nat) : Fld := ⟨Reg.MAC_VLAN n, 16, 3⟩
def Fl.MAC_PFC_PRIO_EN (n : Nat) : Fld := ⟨Reg.MAC_PFC n, 0, 8⟩
def Fl.MAC_PFC_XOFF (n : Nat) : Fld := ⟨Reg.MAC_PFC n, 8, 8⟩
def Fl.MAC_PFC_XON (n : Nat) : Fld := ⟨Reg.MAC_PFC n, 16, 8⟩
def Fl.MAC_LP_LPI_IDLE (n : Nat) : Fld := ⟨Reg.MAC_LP n, 0, 8⟩
def Fl.MAC_LP_STEP_BACKLOG (n : Nat) : Fld := ⟨Reg.MAC_LP n, 8, 8⟩
def Fl.MAC_LP_UP_SHARE (n : Nat) : Fld := ⟨Reg.MAC_LP n, 16, 7⟩
def Fl.MAC_LLDP_INTERVAL (n : Nat) : Fld := ⟨Reg.MAC_LLDP n, 0, 8⟩
def Fl.MAC_LLDP_TX_EN (n : Nat) : Fld := ⟨Reg.MAC_LLDP n, 8, 1⟩
def Fl.MAC_LLDP_PARTNER_AGE (n : Nat) : Fld := ⟨Reg.MAC_LLDP n, 16, 16⟩
def Fl.MAC_IPV4_ADDR (n : Nat) : Fld := ⟨Reg.MAC_IPV4 n, 0, 32⟩
def Fl.MAC_IPV6_ADDR (n i : Nat) : Fld := ⟨Reg.MAC_IPV6 n i, 0, 32⟩
def Fl.MAC_PTP_LAT_TX_LAT (n : Nat) : Fld := ⟨Reg.MAC_PTP_LAT n, 0, 16⟩
def Fl.MAC_PTP_LAT_RX_LAT (n : Nat) : Fld := ⟨Reg.MAC_PTP_LAT n, 16, 16⟩
def Fl.MAC_PTP_DELAY_DELAY (n : Nat) : Fld := ⟨Reg.MAC_PTP_DELAY n, 0, 24⟩
def Fl.MAC_PTP_DELAY_VALID (n : Nat) : Fld := ⟨Reg.MAC_PTP_DELAY n, 24, 1⟩
def Fl.MAC_COUNT_LO_COUNT (n i : Nat) : Fld := ⟨Reg.MAC_COUNT_LO n i, 0, 32⟩
def Fl.MAC_COUNT_HI_COUNT (n i : Nat) : Fld := ⟨Reg.MAC_COUNT_HI n i, 0, 16⟩
def Fl.MAC_DROP_LO_COUNT (n i : Nat) : Fld := ⟨Reg.MAC_DROP_LO n i, 0, 32⟩
def Fl.MAC_DROP_HI_COUNT (n i : Nat) : Fld := ⟨Reg.MAC_DROP_HI n i, 0, 16⟩
def Fl.NRT_CTRL_RUN : Fld := ⟨Reg.NRT_CTRL, 0, 1⟩
def Fl.NRT_CTRL_UDP_PORT : Fld := ⟨Reg.NRT_CTRL, 16, 16⟩
def Fl.NRT_STATUS_BUSY : Fld := ⟨Reg.NRT_STATUS, 0, 1⟩
def Fl.NRT_STATUS_BADBASE : Fld := ⟨Reg.NRT_STATUS, 1, 1⟩
def Fl.NRT_STATUS_ECRC : Fld := ⟨Reg.NRT_STATUS, 2, 1⟩
def Fl.NRT_STATUS_FLOW_FAILED : Fld := ⟨Reg.NRT_STATUS, 3, 1⟩
def Fl.NRT_STATUS_REFUSED : Fld := ⟨Reg.NRT_STATUS, 4, 1⟩
def Fl.NRT_STATUS_FAILED : Fld := ⟨Reg.NRT_STATUS, 16, 12⟩
def Fl.NRT_TIMING_RTO_US : Fld := ⟨Reg.NRT_TIMING, 0, 8⟩
def Fl.NRT_TIMING_REORDER_US : Fld := ⟨Reg.NRT_TIMING, 8, 8⟩
def Fl.NRT_TIMING_ACK_US : Fld := ⟨Reg.NRT_TIMING, 16, 4⟩
def Fl.NRT_TIMING_ACK_PKTS : Fld := ⟨Reg.NRT_TIMING, 20, 5⟩
def Fl.NRT_TIMING_RETRY_US : Fld := ⟨Reg.NRT_TIMING, 25, 7⟩
def Fl.NRT_RATE_AI : Fld := ⟨Reg.NRT_RATE, 0, 8⟩
def Fl.NRT_RATE_MIN : Fld := ⟨Reg.NRT_RATE, 8, 8⟩
def Fl.NRT_RATE_G_SHIFT : Fld := ⟨Reg.NRT_RATE, 16, 4⟩
def Fl.NRT_RATE_CUT_US : Fld := ⟨Reg.NRT_RATE, 20, 8⟩
def Fl.NRT_RING_BASE_LO_BASE : Fld := ⟨Reg.NRT_RING_BASE_LO, 0, 32⟩
def Fl.NRT_RING_BASE_HI_BASE : Fld := ⟨Reg.NRT_RING_BASE_HI, 0, 16⟩
def Fl.NRT_DEDUP_BASE_LO_BASE : Fld := ⟨Reg.NRT_DEDUP_BASE_LO, 0, 32⟩
def Fl.NRT_DEDUP_BASE_HI_BASE : Fld := ⟨Reg.NRT_DEDUP_BASE_HI, 0, 16⟩
def Fl.NRT_FLOW_SEL_FLOW : Fld := ⟨Reg.NRT_FLOW_SEL, 0, 12⟩
def Fl.NRT_FLOW_SEL_INSTALL : Fld := ⟨Reg.NRT_FLOW_SEL, 12, 1⟩
def Fl.NRT_FLOW_SEL_RESET : Fld := ⟨Reg.NRT_FLOW_SEL, 13, 1⟩
def Fl.NRT_FLOW_STATE_STATE : Fld := ⟨Reg.NRT_FLOW_STATE, 0, 2⟩
def Fl.NRT_FLOW_STATE_EPOCH : Fld := ⟨Reg.NRT_FLOW_STATE, 8, 8⟩
def Fl.NRT_FLOW_STATE_USABLE : Fld := ⟨Reg.NRT_FLOW_STATE, 16, 8⟩
def Fl.NRT_FLOW_REC_LO_BASE : Fld := ⟨Reg.NRT_FLOW_REC_LO, 0, 32⟩
def Fl.NRT_FLOW_REC_HI_BASE : Fld := ⟨Reg.NRT_FLOW_REC_HI, 0, 16⟩
def Fl.NRT_COUNT_LO_COUNT (i : Nat) : Fld := ⟨Reg.NRT_COUNT_LO i, 0, 32⟩
def Fl.NRT_COUNT_HI_COUNT (i : Nat) : Fld := ⟨Reg.NRT_COUNT_HI i, 0, 16⟩
def Fl.NRT_KEYFAULT_LO_COUNT (i : Nat) : Fld := ⟨Reg.NRT_KEYFAULT_LO i, 0, 32⟩
def Fl.NRT_KEYFAULT_HI_COUNT (i : Nat) : Fld := ⟨Reg.NRT_KEYFAULT_HI i, 0, 16⟩
def Fl.KEYT_CMD_INDEX : Fld := ⟨Reg.KEYT_CMD, 0, 18⟩
def Fl.KEYT_CMD_OP : Fld := ⟨Reg.KEYT_CMD, 18, 2⟩
def Fl.KEYT_STATUS_BUSY : Fld := ⟨Reg.KEYT_STATUS, 0, 1⟩
def Fl.KEYT_STATUS_DONE : Fld := ⟨Reg.KEYT_STATUS, 1, 1⟩
def Fl.KEYT_STATUS_REFUSED : Fld := ⟨Reg.KEYT_STATUS, 2, 1⟩
def Fl.KEYT_STATUS_REVOKING : Fld := ⟨Reg.KEYT_STATUS, 8, 18⟩
def Fl.KEYT_KEY_KEY : Fld := ⟨Reg.KEYT_KEY, 0, 32⟩
def Fl.KEYT_SALT_SALT : Fld := ⟨Reg.KEYT_SALT, 0, 32⟩
def Fl.KEYT_STAGE_STAGE (i : Nat) : Fld := ⟨Reg.KEYT_STAGE i, 0, 32⟩
def Fl.FWALL_CTRL_ACT (n : Nat) : Fld := ⟨Reg.FWALL_CTRL n, 0, 12⟩
def Fl.FWALL_CTRL_ESC (n : Nat) : Fld := ⟨Reg.FWALL_CTRL n, 16, 8⟩
def Fl.FWALL_OPS_OPS (n : Nat) : Fld := ⟨Reg.FWALL_OPS n, 0, 32⟩
def Fl.FWALL_LIMIT_RATE (n : Nat) : Fld := ⟨Reg.FWALL_LIMIT n, 0, 8⟩
def Fl.FWALL_LIMIT_TIMEOUT (n : Nat) : Fld := ⟨Reg.FWALL_LIMIT n, 16, 8⟩
def Fl.FWALL_STATUS_VIOL (n : Nat) : Fld := ⟨Reg.FWALL_STATUS n, 0, 6⟩
def Fl.FWALL_STATUS_ISOLATED (n : Nat) : Fld := ⟨Reg.FWALL_STATUS n, 6, 1⟩
def Fl.FWALL_WIN_BASE0_BASE (n : Nat) : Fld := ⟨Reg.FWALL_WIN_BASE0 n, 0, 28⟩
def Fl.FWALL_WIN_BASE0_EN (n : Nat) : Fld := ⟨Reg.FWALL_WIN_BASE0 n, 31, 1⟩
def Fl.FWALL_WIN_LIMIT0_LIMIT (n : Nat) : Fld := ⟨Reg.FWALL_WIN_LIMIT0 n, 0, 28⟩
def Fl.FWALL_WIN_BASE_BASE (n i : Nat) : Fld := ⟨Reg.FWALL_WIN_BASE n i, 0, 28⟩
def Fl.FWALL_WIN_BASE_EN (n i : Nat) : Fld := ⟨Reg.FWALL_WIN_BASE n i, 31, 1⟩
def Fl.FWALL_WIN_LIMIT_LIMIT (n i : Nat) : Fld := ⟨Reg.FWALL_WIN_LIMIT n i, 0, 28⟩
def Fl.FWALL_VIOL_LO_COUNT (n i : Nat) : Fld := ⟨Reg.FWALL_VIOL_LO n i, 0, 32⟩
def Fl.FWALL_VIOL_HI_COUNT (n i : Nat) : Fld := ⟨Reg.FWALL_VIOL_HI n i, 0, 16⟩
def Fl.CRAXIS_LINK_CFG_RATE (i : Nat) : Fld := ⟨Reg.CRAXIS_LINK_CFG i, 0, 1⟩
def Fl.CRAXIS_LINK_CFG_CAL_MS (i : Nat) : Fld := ⟨Reg.CRAXIS_LINK_CFG i, 8, 8⟩
def Fl.CRAXIS_LINK_CFG_REPLAY_LIMIT (i : Nat) : Fld := ⟨Reg.CRAXIS_LINK_CFG i, 16, 4⟩
def Fl.CRAXIS_LINK_CFG_RELEARN (i : Nat) : Fld := ⟨Reg.CRAXIS_LINK_CFG i, 24, 1⟩
def Fl.CRAXIS_LINK_STATUS_IN_SERVICE (i : Nat) : Fld := ⟨Reg.CRAXIS_LINK_STATUS i, 0, 7⟩
def Fl.CRAXIS_LINK_STATUS_X8 (i : Nat) : Fld := ⟨Reg.CRAXIS_LINK_STATUS i, 8, 6⟩
def Fl.CRAXIS_LINK_STATUS_DRAINING (i : Nat) : Fld := ⟨Reg.CRAXIS_LINK_STATUS i, 14, 1⟩
def Fl.CRAXIS_LINK_STATUS_ISOLATED (i : Nat) : Fld := ⟨Reg.CRAXIS_LINK_STATUS i, 15, 1⟩
def Fl.CRAXIS_LINK_STATUS_W (i : Nat) : Fld := ⟨Reg.CRAXIS_LINK_STATUS i, 16, 8⟩
def Fl.CRAXIS_MOD_STATUS_STATE (i : Nat) : Fld := ⟨Reg.CRAXIS_MOD_STATUS i, 0, 3⟩
def Fl.CRAXIS_MOD_STATUS_WIDTH (i : Nat) : Fld := ⟨Reg.CRAXIS_MOD_STATUS i, 3, 1⟩
def Fl.CRAXIS_MOD_STATUS_HALF (i : Nat) : Fld := ⟨Reg.CRAXIS_MOD_STATUS i, 4, 1⟩
def Fl.CRAXIS_MOD_STATUS_RATE (i : Nat) : Fld := ⟨Reg.CRAXIS_MOD_STATUS i, 5, 1⟩
def Fl.CRAXIS_MOD_STATUS_SPARE0 (i : Nat) : Fld := ⟨Reg.CRAXIS_MOD_STATUS i, 6, 5⟩
def Fl.CRAXIS_MOD_STATUS_SPARE1 (i : Nat) : Fld := ⟨Reg.CRAXIS_MOD_STATUS i, 11, 5⟩
def Fl.CRAXIS_MOD_STATUS_BAD (i : Nat) : Fld := ⟨Reg.CRAXIS_MOD_STATUS i, 16, 16⟩
def Fl.CRAXIS_COUNT_LO_COUNT (i j : Nat) : Fld := ⟨Reg.CRAXIS_COUNT_LO i j, 0, 32⟩
def Fl.CRAXIS_COUNT_HI_COUNT (i j : Nat) : Fld := ⟨Reg.CRAXIS_COUNT_HI i j, 0, 16⟩
def Fl.REEL_CTRL_RUN : Fld := ⟨Reg.REEL_CTRL, 0, 1⟩
def Fl.REEL_CTRL_INFLIGHT_MAX : Fld := ⟨Reg.REEL_CTRL, 8, 7⟩
def Fl.REEL_STATUS_BUSY : Fld := ⟨Reg.REEL_STATUS, 0, 1⟩
def Fl.REEL_STATUS_INEXACT : Fld := ⟨Reg.REEL_STATUS, 1, 1⟩
def Fl.REEL_STATUS_RETIRED : Fld := ⟨Reg.REEL_STATUS, 2, 1⟩
def Fl.REEL_STATUS_BADBASE : Fld := ⟨Reg.REEL_STATUS, 3, 1⟩
def Fl.REEL_STATUS_INFLIGHT : Fld := ⟨Reg.REEL_STATUS, 8, 7⟩
def Fl.REEL_OT_BASE_LO_BASE : Fld := ⟨Reg.REEL_OT_BASE_LO, 0, 32⟩
def Fl.REEL_OT_BASE_HI_BASE : Fld := ⟨Reg.REEL_OT_BASE_HI, 0, 16⟩
def Fl.REEL_OT_COUNT_COUNT : Fld := ⟨Reg.REEL_OT_COUNT, 0, 17⟩
def Fl.REEL_TAB_BASE_LO_BASE : Fld := ⟨Reg.REEL_TAB_BASE_LO, 0, 32⟩
def Fl.REEL_TAB_BASE_HI_BASE : Fld := ⟨Reg.REEL_TAB_BASE_HI, 0, 16⟩
def Fl.REEL_TAB_COUNT_COUNT : Fld := ⟨Reg.REEL_TAB_COUNT, 0, 17⟩
def Fl.REEL_COUNT_LO_COUNT (i : Nat) : Fld := ⟨Reg.REEL_COUNT_LO i, 0, 32⟩
def Fl.REEL_COUNT_HI_COUNT (i : Nat) : Fld := ⟨Reg.REEL_COUNT_HI i, 0, 16⟩
def Fl.COLL_CTRL_RUN : Fld := ⟨Reg.COLL_CTRL, 0, 1⟩
def Fl.COLL_CTRL_STALE_ACTION : Fld := ⟨Reg.COLL_CTRL, 1, 1⟩
def Fl.COLL_CTRL_RESUME : Fld := ⟨Reg.COLL_CTRL, 2, 1⟩
def Fl.COLL_CTRL_LOSS_MS : Fld := ⟨Reg.COLL_CTRL, 8, 8⟩
def Fl.COLL_STATUS_ROLE : Fld := ⟨Reg.COLL_STATUS, 0, 2⟩
def Fl.COLL_STATUS_HELD : Fld := ⟨Reg.COLL_STATUS, 2, 1⟩
def Fl.COLL_STATUS_STALE : Fld := ⟨Reg.COLL_STATUS, 3, 1⟩
def Fl.COLL_STATUS_INEXACT : Fld := ⟨Reg.COLL_STATUS, 4, 1⟩
def Fl.COLL_STATUS_LOST : Fld := ⟨Reg.COLL_STATUS, 5, 1⟩
def Fl.COLL_STATUS_FAILOVER : Fld := ⟨Reg.COLL_STATUS, 6, 1⟩
def Fl.COLL_STATUS_BADBASE : Fld := ⟨Reg.COLL_STATUS, 7, 1⟩
def Fl.COLL_STATUS_EPOCH : Fld := ⟨Reg.COLL_STATUS, 8, 8⟩
def Fl.COLL_STATUS_RESTORED : Fld := ⟨Reg.COLL_STATUS, 16, 1⟩
def Fl.COLL_STEP_STEP : Fld := ⟨Reg.COLL_STEP, 0, 32⟩
def Fl.COLL_BKT_BASE_LO_BASE : Fld := ⟨Reg.COLL_BKT_BASE_LO, 0, 32⟩
def Fl.COLL_BKT_BASE_HI_BASE : Fld := ⟨Reg.COLL_BKT_BASE_HI, 0, 16⟩
def Fl.COLL_BKT_COUNT_COUNT : Fld := ⟨Reg.COLL_BKT_COUNT, 0, 16⟩
def Fl.COLL_RG_BASE_LO_BASE : Fld := ⟨Reg.COLL_RG_BASE_LO, 0, 32⟩
def Fl.COLL_RG_BASE_HI_BASE : Fld := ⟨Reg.COLL_RG_BASE_HI, 0, 16⟩
def Fl.COLL_RG_COUNT_COUNT : Fld := ⟨Reg.COLL_RG_COUNT, 0, 13⟩
def Fl.COLL_COUNT_LO_COUNT (i : Nat) : Fld := ⟨Reg.COLL_COUNT_LO i, 0, 32⟩
def Fl.COLL_COUNT_HI_COUNT (i : Nat) : Fld := ⟨Reg.COLL_COUNT_HI i, 0, 16⟩
def Fl.TOPO_GEN_GEN : Fld := ⟨Reg.TOPO_GEN, 0, 32⟩
def Fl.TOPO_CEILING_CEILING : Fld := ⟨Reg.TOPO_CEILING, 0, 10⟩
def Fl.TOPO_PORTS_PORTS_UP : Fld := ⟨Reg.TOPO_PORTS, 0, 9⟩
def Fl.TOPO_PARTNER_LO_PARTNER_LO (i : Nat) : Fld := ⟨Reg.TOPO_PARTNER_LO i, 0, 32⟩
def Fl.TOPO_PARTNER_HI_PARTNER_HI (i : Nat) : Fld := ⟨Reg.TOPO_PARTNER_HI i, 0, 16⟩
def Fl.TOPO_PARTNER_HI_SPEED (i : Nat) : Fld := ⟨Reg.TOPO_PARTNER_HI i, 16, 4⟩
def Fl.TOPO_PARTNER_HI_MEDIA (i : Nat) : Fld := ⟨Reg.TOPO_PARTNER_HI i, 20, 4⟩
def Fl.TOPO_PARTNER_HI_NRT (i : Nat) : Fld := ⟨Reg.TOPO_PARTNER_HI i, 24, 1⟩
def Fl.TOPO_PARTNER_HI_EEE (i : Nat) : Fld := ⟨Reg.TOPO_PARTNER_HI i, 25, 1⟩
def Fl.TOPO_PARTNER_HI_PTP_LEN (i : Nat) : Fld := ⟨Reg.TOPO_PARTNER_HI i, 26, 1⟩
def Fl.TOPO_LENGTH_LENGTH (i : Nat) : Fld := ⟨Reg.TOPO_LENGTH i, 0, 16⟩
def Fl.TOPO_LENGTH_RTT (i : Nat) : Fld := ⟨Reg.TOPO_LENGTH i, 16, 16⟩
def Fl.TOPO_PORT_PARTNER_PORT (i : Nat) : Fld := ⟨Reg.TOPO_PORT i, 0, 8⟩
def Fl.UPDT_CTRL_RUN : Fld := ⟨Reg.UPDT_CTRL, 0, 1⟩
def Fl.UPDT_CTRL_SKEW_ACTION : Fld := ⟨Reg.UPDT_CTRL, 1, 1⟩
def Fl.UPDT_CTRL_NONFINITE : Fld := ⟨Reg.UPDT_CTRL, 2, 1⟩
def Fl.UPDT_CTRL_MIRROR_RATE : Fld := ⟨Reg.UPDT_CTRL, 8, 8⟩
def Fl.UPDT_STATUS_BUSY : Fld := ⟨Reg.UPDT_STATUS, 0, 1⟩
def Fl.UPDT_STATUS_SKEW : Fld := ⟨Reg.UPDT_STATUS, 1, 1⟩
def Fl.UPDT_STATUS_FROZEN_STRICT : Fld := ⟨Reg.UPDT_STATUS, 2, 1⟩
def Fl.UPDT_STATUS_NONFINITE : Fld := ⟨Reg.UPDT_STATUS, 3, 1⟩
def Fl.UPDT_STATUS_SNAP_LATE : Fld := ⟨Reg.UPDT_STATUS, 4, 1⟩
def Fl.UPDT_STATUS_BADBASE : Fld := ⟨Reg.UPDT_STATUS, 5, 1⟩
def Fl.UPDT_STATUS_MIRROR_LOST : Fld := ⟨Reg.UPDT_STATUS, 6, 1⟩
def Fl.UPDT_STATUS_QUEUED : Fld := ⟨Reg.UPDT_STATUS, 8, 4⟩
def Fl.UPDT_SCRATCH_BASE_LO_BASE : Fld := ⟨Reg.UPDT_SCRATCH_BASE_LO, 0, 32⟩
def Fl.UPDT_SCRATCH_BASE_HI_BASE : Fld := ⟨Reg.UPDT_SCRATCH_BASE_HI, 0, 16⟩
def Fl.UPDT_SCRATCH_SIZE_SIZE : Fld := ⟨Reg.UPDT_SCRATCH_SIZE, 0, 16⟩
def Fl.UPDT_GROUP_CTL_GROUP : Fld := ⟨Reg.UPDT_GROUP_CTL, 0, 12⟩
def Fl.UPDT_GROUP_CTL_FROZEN_VAL : Fld := ⟨Reg.UPDT_GROUP_CTL, 12, 1⟩
def Fl.UPDT_GROUP_CTL_APPLY : Fld := ⟨Reg.UPDT_GROUP_CTL, 13, 1⟩
def Fl.UPDT_GROUP_STEP_STEP : Fld := ⟨Reg.UPDT_GROUP_STEP, 0, 32⟩
def Fl.UPDT_MIRROR_STEP_STEP : Fld := ⟨Reg.UPDT_MIRROR_STEP, 0, 32⟩
def Fl.UPDT_DONE_DONE : Fld := ⟨Reg.UPDT_DONE, 0, 32⟩
def Fl.UPDT_COUNT_LO_COUNT (i : Nat) : Fld := ⟨Reg.UPDT_COUNT_LO i, 0, 32⟩
def Fl.UPDT_COUNT_HI_COUNT (i : Nat) : Fld := ⟨Reg.UPDT_COUNT_HI i, 0, 16⟩
def Fl.PMON_CTRL_EN : Fld := ⟨Reg.PMON_CTRL, 0, 1⟩
def Fl.PMON_CTRL_BADBASE : Fld := ⟨Reg.PMON_CTRL, 1, 1⟩
def Fl.PMON_CTRL_PERIOD : Fld := ⟨Reg.PMON_CTRL, 15, 17⟩
def Fl.PMON_BW_CTRL_WINDOW : Fld := ⟨Reg.PMON_BW_CTRL, 0, 20⟩
def Fl.PMON_RANGE_BASE_LO_BASE (i : Nat) : Fld := ⟨Reg.PMON_RANGE_BASE_LO i, 0, 32⟩
def Fl.PMON_RANGE_BASE_HI_BASE (i : Nat) : Fld := ⟨Reg.PMON_RANGE_BASE_HI i, 0, 16⟩
def Fl.PMON_RANGE_LIMIT_LO_LIMIT (i : Nat) : Fld := ⟨Reg.PMON_RANGE_LIMIT_LO i, 0, 32⟩
def Fl.PMON_RANGE_LIMIT_HI_LIMIT (i : Nat) : Fld := ⟨Reg.PMON_RANGE_LIMIT_HI i, 0, 16⟩
def Fl.PMON_TILE_SEL_TILE : Fld := ⟨Reg.PMON_TILE_SEL, 0, 8⟩
def Fl.PMON_SMP_BASE_LO_BASE : Fld := ⟨Reg.PMON_SMP_BASE_LO, 0, 32⟩
def Fl.PMON_SMP_BASE_HI_BASE : Fld := ⟨Reg.PMON_SMP_BASE_HI, 0, 16⟩
def Fl.PMON_HUB_SEL_EVENT (i : Nat) : Fld := ⟨Reg.PMON_HUB_SEL i, 0, 8⟩
def Fl.PMON_HUB_SEL_EN (i : Nat) : Fld := ⟨Reg.PMON_HUB_SEL i, 8, 1⟩
def Fl.PMON_HUB_SEL_ADDR_EN (i : Nat) : Fld := ⟨Reg.PMON_HUB_SEL i, 9, 1⟩
def Fl.PMON_HUB_SEL_RANGE (i : Nat) : Fld := ⟨Reg.PMON_HUB_SEL i, 10, 1⟩
def Fl.PMON_HUB_SEL_OVF (i : Nat) : Fld := ⟨Reg.PMON_HUB_SEL i, 11, 1⟩
def Fl.PMON_HUB_SEL_CLASS (i : Nat) : Fld := ⟨Reg.PMON_HUB_SEL i, 16, 8⟩
def Fl.PMON_HUB_FILT_PRIV (i : Nat) : Fld := ⟨Reg.PMON_HUB_FILT i, 0, 11⟩
def Fl.PMON_HUB_FILT_MASTER (i : Nat) : Fld := ⟨Reg.PMON_HUB_FILT i, 16, 8⟩
def Fl.PMON_HUB_FILT_MMASK (i : Nat) : Fld := ⟨Reg.PMON_HUB_FILT i, 24, 8⟩
def Fl.PMON_HUB_CNT_LO_CNT (i : Nat) : Fld := ⟨Reg.PMON_HUB_CNT_LO i, 0, 32⟩
def Fl.PMON_HUB_CNT_HI_CNT (i : Nat) : Fld := ⟨Reg.PMON_HUB_CNT_HI i, 0, 16⟩
def Fl.PMON_UPD_SEL_EVENT (i : Nat) : Fld := ⟨Reg.PMON_UPD_SEL i, 0, 8⟩
def Fl.PMON_UPD_SEL_EN (i : Nat) : Fld := ⟨Reg.PMON_UPD_SEL i, 8, 1⟩
def Fl.PMON_UPD_SEL_ADDR_EN (i : Nat) : Fld := ⟨Reg.PMON_UPD_SEL i, 9, 1⟩
def Fl.PMON_UPD_SEL_RANGE (i : Nat) : Fld := ⟨Reg.PMON_UPD_SEL i, 10, 1⟩
def Fl.PMON_UPD_SEL_OVF (i : Nat) : Fld := ⟨Reg.PMON_UPD_SEL i, 11, 1⟩
def Fl.PMON_UPD_SEL_CLASS (i : Nat) : Fld := ⟨Reg.PMON_UPD_SEL i, 16, 8⟩
def Fl.PMON_UPD_FILT_PRIV (i : Nat) : Fld := ⟨Reg.PMON_UPD_FILT i, 0, 11⟩
def Fl.PMON_UPD_FILT_MASTER (i : Nat) : Fld := ⟨Reg.PMON_UPD_FILT i, 16, 8⟩
def Fl.PMON_UPD_FILT_MMASK (i : Nat) : Fld := ⟨Reg.PMON_UPD_FILT i, 24, 8⟩
def Fl.PMON_UPD_CNT_LO_CNT (i : Nat) : Fld := ⟨Reg.PMON_UPD_CNT_LO i, 0, 32⟩
def Fl.PMON_UPD_CNT_HI_CNT (i : Nat) : Fld := ⟨Reg.PMON_UPD_CNT_HI i, 0, 16⟩
def Fl.PMON_ALLOC_GUEST (i : Nat) : Fld := ⟨Reg.PMON_ALLOC i, 0, 4⟩
def Fl.DLY_CTRL_ENABLE (i : Nat) : Fld := ⟨Reg.DLY_CTRL i, 0, 1⟩
def Fl.DLY_CTRL_HOST (i : Nat) : Fld := ⟨Reg.DLY_CTRL i, 1, 1⟩
def Fl.DLY_CTRL_DIV (i : Nat) : Fld := ⟨Reg.DLY_CTRL i, 16, 16⟩
def Fl.DLY_BASE_LO_BASE (i : Nat) : Fld := ⟨Reg.DLY_BASE_LO i, 0, 32⟩
def Fl.DLY_BASE_HI_BASE (i : Nat) : Fld := ⟨Reg.DLY_BASE_HI i, 0, 32⟩
def Fl.DLY_CFG_MASK (i : Nat) : Fld := ⟨Reg.DLY_CFG i, 0, 7⟩
def Fl.DLY_CFG_LOG2 (i : Nat) : Fld := ⟨Reg.DLY_CFG i, 8, 4⟩
def Fl.DLY_CFG_SLOT (i : Nat) : Fld := ⟨Reg.DLY_CFG i, 16, 9⟩
def Fl.DLY_PROD_PROD (i : Nat) : Fld := ⟨Reg.DLY_PROD i, 0, 32⟩
def Fl.DLY_CONS_CONS (i : Nat) : Fld := ⟨Reg.DLY_CONS i, 0, 32⟩
def Fl.BW_LAST_RATE (i : Nat) : Fld := ⟨Reg.BW_LAST i, 0, 24⟩
def Fl.BW_MIN_RATE (i : Nat) : Fld := ⟨Reg.BW_MIN i, 0, 24⟩
def Fl.BW_MAX_RATE (i : Nat) : Fld := ⟨Reg.BW_MAX i, 0, 24⟩
def Fl.BW_COUNT_COUNT (i : Nat) : Fld := ⟨Reg.BW_COUNT i, 0, 32⟩
def Fl.RAS_CTRL_SCRUB_EN : Fld := ⟨Reg.RAS_CTRL, 0, 1⟩
def Fl.RAS_CTRL_PLANNED_SWAP : Fld := ⟨Reg.RAS_CTRL, 1, 1⟩
def Fl.RAS_CTRL_CE_EVENT_MS : Fld := ⟨Reg.RAS_CTRL, 8, 8⟩
def Fl.RAS_STATUS_SWAP_BUSY : Fld := ⟨Reg.RAS_STATUS, 0, 1⟩
def Fl.RAS_STATUS_SWAP_ARMED : Fld := ⟨Reg.RAS_STATUS, 1, 1⟩
def Fl.RAS_STATUS_UE : Fld := ⟨Reg.RAS_STATUS, 2, 1⟩
def Fl.RAS_STATUS_EXHAUSTED : Fld := ⟨Reg.RAS_STATUS, 3, 1⟩
def Fl.RAS_STATUS_RING_FULL : Fld := ⟨Reg.RAS_STATUS, 4, 1⟩
def Fl.RAS_EVR_BASE_LO_BASE : Fld := ⟨Reg.RAS_EVR_BASE_LO, 0, 32⟩
def Fl.RAS_EVR_BASE_HI_BASE : Fld := ⟨Reg.RAS_EVR_BASE_HI, 0, 16⟩
def Fl.RAS_EVR_CFG_LOG2 : Fld := ⟨Reg.RAS_EVR_CFG, 0, 4⟩
def Fl.RAS_EVR_CFG_ENABLE : Fld := ⟨Reg.RAS_EVR_CFG, 4, 1⟩
def Fl.RAS_EVR_PROD_PROD : Fld := ⟨Reg.RAS_EVR_PROD, 0, 32⟩
def Fl.RAS_EVR_CONS_CONS : Fld := ⟨Reg.RAS_EVR_CONS, 0, 32⟩
def Fl.RAS_SWAP_TILE : Fld := ⟨Reg.RAS_SWAP, 0, 8⟩
def Fl.RAS_SWAP_REQUEST : Fld := ⟨Reg.RAS_SWAP, 8, 1⟩
def Fl.RAS_SPARES_FIELD0 : Fld := ⟨Reg.RAS_SPARES, 0, 3⟩
def Fl.RAS_SPARES_FIELD1 : Fld := ⟨Reg.RAS_SPARES, 3, 3⟩
def Fl.RAS_SPARES_FIELD2 : Fld := ⟨Reg.RAS_SPARES, 6, 3⟩
def Fl.RAS_SPARES_ROWS : Fld := ⟨Reg.RAS_SPARES, 16, 16⟩
def Fl.RAS_COUNT_LO_COUNT (i : Nat) : Fld := ⟨Reg.RAS_COUNT_LO i, 0, 32⟩
def Fl.RAS_COUNT_HI_COUNT (i : Nat) : Fld := ⟨Reg.RAS_COUNT_HI i, 0, 16⟩
def Fl.RAS_TILEMAP_PHYS (i : Nat) : Fld := ⟨Reg.RAS_TILEMAP i, 0, 8⟩
def Fl.RAS_TILEMAP_SWAPPED (i : Nat) : Fld := ⟨Reg.RAS_TILEMAP i, 8, 1⟩
def Fl.TELE_FMTH_CTRL_ENABLE : Fld := ⟨Reg.TELE_FMTH_CTRL, 0, 1⟩
def Fl.TELE_FMTH_CTRL_LAYERS : Fld := ⟨Reg.TELE_FMTH_CTRL, 16, 13⟩
def Fl.TELE_FMTH_BASE_LO_BASE : Fld := ⟨Reg.TELE_FMTH_BASE_LO, 0, 32⟩
def Fl.TELE_FMTH_BASE_HI_BASE : Fld := ⟨Reg.TELE_FMTH_BASE_HI, 0, 16⟩
def Fl.TELE_FMTH_THRESH_OVF_SHARE : Fld := ⟨Reg.TELE_FMTH_THRESH, 0, 16⟩
def Fl.TELE_FMTH_THRESH_VAN_SHARE : Fld := ⟨Reg.TELE_FMTH_THRESH, 16, 16⟩
def Fl.TELE_FMTH_STATUS_BADBASE : Fld := ⟨Reg.TELE_FMTH_STATUS, 0, 1⟩
def Fl.TELE_FMTH_STATUS_LATE : Fld := ⟨Reg.TELE_FMTH_STATUS, 1, 1⟩
def Fl.TELE_FMTH_STATUS_RANGE : Fld := ⟨Reg.TELE_FMTH_STATUS, 2, 1⟩
def Fl.TELE_FMTH_STATUS_DROPPED : Fld := ⟨Reg.TELE_FMTH_STATUS, 8, 8⟩
def Fl.TELE_FMTH_CLOSED_STEP : Fld := ⟨Reg.TELE_FMTH_CLOSED, 0, 32⟩
def Fl.TILE_SEQ_CTRL_RUN (n : Nat) : Fld := ⟨Reg.TILE_SEQ_CTRL n, 0, 1⟩
def Fl.TILE_SEQ_CTRL_CLAP_LIMIT (n : Nat) : Fld := ⟨Reg.TILE_SEQ_CTRL n, 8, 8⟩
def Fl.TILE_SEQ_STATUS_STATE (n : Nat) : Fld := ⟨Reg.TILE_SEQ_STATUS n, 0, 3⟩
def Fl.TILE_SEQ_STATUS_TAKE_OPEN (n : Nat) : Fld := ⟨Reg.TILE_SEQ_STATUS n, 3, 1⟩
def Fl.TILE_SEQ_STATUS_FAULT (n : Nat) : Fld := ⟨Reg.TILE_SEQ_STATUS n, 4, 1⟩
def Fl.TILE_SEQ_STATUS_TAKE_FAILED (n : Nat) : Fld := ⟨Reg.TILE_SEQ_STATUS n, 5, 1⟩
def Fl.TILE_SEQ_STATUS_SATURATED (n : Nat) : Fld := ⟨Reg.TILE_SEQ_STATUS n, 6, 1⟩
def Fl.TILE_SEQ_PC_PC (n : Nat) : Fld := ⟨Reg.TILE_SEQ_PC n, 0, 13⟩
def Fl.TILE_SEQ_PC_FAULT_PC (n : Nat) : Fld := ⟨Reg.TILE_SEQ_PC n, 16, 13⟩
def Fl.TILE_SEQ_SLATE_LO_SLATE (n : Nat) : Fld := ⟨Reg.TILE_SEQ_SLATE_LO n, 0, 32⟩
def Fl.TILE_SEQ_SLATE_HI_SLATE (n : Nat) : Fld := ⟨Reg.TILE_SEQ_SLATE_HI n, 0, 32⟩
def Fl.TILE_SEQ_EC_EVEN (n i : Nat) : Fld := ⟨Reg.TILE_SEQ_EC n i, 0, 16⟩
def Fl.TILE_SEQ_EC_ODD (n i : Nat) : Fld := ⟨Reg.TILE_SEQ_EC n i, 16, 16⟩
def Fl.TILE_SEQ_ISSUE_LO_COUNT (n : Nat) : Fld := ⟨Reg.TILE_SEQ_ISSUE_LO n, 0, 32⟩
def Fl.TILE_SEQ_ISSUE_HI_COUNT (n : Nat) : Fld := ⟨Reg.TILE_SEQ_ISSUE_HI n, 0, 16⟩
def Fl.TILE_SEQ_WAIT_LO_COUNT (n : Nat) : Fld := ⟨Reg.TILE_SEQ_WAIT_LO n, 0, 32⟩
def Fl.TILE_SEQ_WAIT_HI_COUNT (n : Nat) : Fld := ⟨Reg.TILE_SEQ_WAIT_HI n, 0, 16⟩
def Fl.TILE_ARR_STATUS_BUSY (n : Nat) : Fld := ⟨Reg.TILE_ARR_STATUS n, 0, 1⟩
def Fl.TILE_ARR_STATUS_KIND (n : Nat) : Fld := ⟨Reg.TILE_ARR_STATUS n, 1, 2⟩
def Fl.TILE_ARR_STATUS_OVERWRITE (n : Nat) : Fld := ⟨Reg.TILE_ARR_STATUS n, 3, 1⟩
def Fl.TILE_ARR_STATUS_METADATA (n : Nat) : Fld := ⟨Reg.TILE_ARR_STATUS n, 4, 1⟩
def Fl.TILE_ARR_STATUS_REJECT (n : Nat) : Fld := ⟨Reg.TILE_ARR_STATUS n, 5, 1⟩
def Fl.TILE_ARR_STREAM_LO_COUNT (n : Nat) : Fld := ⟨Reg.TILE_ARR_STREAM_LO n, 0, 32⟩
def Fl.TILE_ARR_STREAM_HI_COUNT (n : Nat) : Fld := ⟨Reg.TILE_ARR_STREAM_HI n, 0, 16⟩
def Fl.TILE_ARR_SKIP_LO_COUNT (n : Nat) : Fld := ⟨Reg.TILE_ARR_SKIP_LO n, 0, 32⟩
def Fl.TILE_ARR_SKIP_HI_COUNT (n : Nat) : Fld := ⟨Reg.TILE_ARR_SKIP_HI n, 0, 16⟩
def Fl.TILE_ARR_STALL_LO_COUNT (n : Nat) : Fld := ⟨Reg.TILE_ARR_STALL_LO n, 0, 32⟩
def Fl.TILE_ARR_STALL_HI_COUNT (n : Nat) : Fld := ⟨Reg.TILE_ARR_STALL_HI n, 0, 16⟩
def Fl.TILE_LA_CTRL_COUNT_EN (n : Nat) : Fld := ⟨Reg.TILE_LA_CTRL n, 0, 1⟩
def Fl.TILE_LA_CTRL_SPLIT_WAIT (n : Nat) : Fld := ⟨Reg.TILE_LA_CTRL n, 8, 8⟩
def Fl.TILE_LA_STATUS_OVF (n : Nat) : Fld := ⟨Reg.TILE_LA_STATUS n, 0, 1⟩
def Fl.TILE_LA_STATUS_NAR (n : Nat) : Fld := ⟨Reg.TILE_LA_STATUS n, 1, 1⟩
def Fl.TILE_LA_STATUS_TRUNC (n : Nat) : Fld := ⟨Reg.TILE_LA_STATUS n, 2, 1⟩
def Fl.TILE_LA_STATUS_VANISH (n : Nat) : Fld := ⟨Reg.TILE_LA_STATUS n, 3, 1⟩
def Fl.TILE_LA_STATUS_MISMATCH (n : Nat) : Fld := ⟨Reg.TILE_LA_STATUS n, 4, 1⟩
def Fl.TILE_LA_TRUNC_LO_COUNT (n : Nat) : Fld := ⟨Reg.TILE_LA_TRUNC_LO n, 0, 32⟩
def Fl.TILE_LA_TRUNC_HI_COUNT (n : Nat) : Fld := ⟨Reg.TILE_LA_TRUNC_HI n, 0, 16⟩
def Fl.TILE_LA_VANISH_LO_COUNT (n : Nat) : Fld := ⟨Reg.TILE_LA_VANISH_LO n, 0, 32⟩
def Fl.TILE_LA_VANISH_HI_COUNT (n : Nat) : Fld := ⟨Reg.TILE_LA_VANISH_HI n, 0, 16⟩
def Fl.TILE_CHN_STATUS_BUSY (n : Nat) : Fld := ⟨Reg.TILE_CHN_STATUS n, 0, 1⟩
def Fl.TILE_CHN_STATUS_OVERWRITE (n : Nat) : Fld := ⟨Reg.TILE_CHN_STATUS n, 1, 1⟩
def Fl.TILE_CHN_STATUS_REJECT (n : Nat) : Fld := ⟨Reg.TILE_CHN_STATUS n, 2, 1⟩
def Fl.TILE_CHN_STATUS_INVALID (n : Nat) : Fld := ⟨Reg.TILE_CHN_STATUS n, 3, 1⟩
def Fl.TILE_CHN_STATUS_DIVZERO (n : Nat) : Fld := ⟨Reg.TILE_CHN_STATUS n, 4, 1⟩
def Fl.TILE_CHN_STATUS_OVERFLOW (n : Nat) : Fld := ⟨Reg.TILE_CHN_STATUS n, 5, 1⟩
def Fl.TILE_CHN_STATUS_NAN_IN (n : Nat) : Fld := ⟨Reg.TILE_CHN_STATUS n, 6, 1⟩
def Fl.TILE_CHN_STATUS_TRAPPED (n : Nat) : Fld := ⟨Reg.TILE_CHN_STATUS n, 7, 1⟩
def Fl.TILE_CHN_VEC_LO_COUNT (n : Nat) : Fld := ⟨Reg.TILE_CHN_VEC_LO n, 0, 32⟩
def Fl.TILE_CHN_VEC_HI_COUNT (n : Nat) : Fld := ⟨Reg.TILE_CHN_VEC_HI n, 0, 16⟩
def Fl.TILE_CHN_STALL_LO_COUNT (n : Nat) : Fld := ⟨Reg.TILE_CHN_STALL_LO n, 0, 32⟩
def Fl.TILE_CHN_STALL_HI_COUNT (n : Nat) : Fld := ⟨Reg.TILE_CHN_STALL_HI n, 0, 16⟩
def Fl.TILE_DSP_CTRL_SKIP_LINE (n : Nat) : Fld := ⟨Reg.TILE_DSP_CTRL n, 0, 15⟩
def Fl.TILE_DSP_STATUS_BUSY (n : Nat) : Fld := ⟨Reg.TILE_DSP_STATUS n, 0, 1⟩
def Fl.TILE_DSP_STATUS_REJECT (n : Nat) : Fld := ⟨Reg.TILE_DSP_STATUS n, 1, 1⟩
def Fl.TILE_DSP_STATUS_BADCHOICE (n : Nat) : Fld := ⟨Reg.TILE_DSP_STATUS n, 2, 1⟩
def Fl.TILE_DSP_STATUS_OVERFLOW (n : Nat) : Fld := ⟨Reg.TILE_DSP_STATUS n, 3, 1⟩
def Fl.TILE_DSP_STATUS_LATE (n : Nat) : Fld := ⟨Reg.TILE_DSP_STATUS n, 4, 1⟩
def Fl.TILE_DSP_STATUS_STALE (n : Nat) : Fld := ⟨Reg.TILE_DSP_STATUS n, 5, 1⟩
def Fl.TILE_DSP_ROUTED_LO_COUNT (n : Nat) : Fld := ⟨Reg.TILE_DSP_ROUTED_LO n, 0, 32⟩
def Fl.TILE_DSP_ROUTED_HI_COUNT (n : Nat) : Fld := ⟨Reg.TILE_DSP_ROUTED_HI n, 0, 16⟩
def Fl.TILE_DSP_DROPPED_LO_COUNT (n : Nat) : Fld := ⟨Reg.TILE_DSP_DROPPED_LO n, 0, 32⟩
def Fl.TILE_DSP_DROPPED_HI_COUNT (n : Nat) : Fld := ⟨Reg.TILE_DSP_DROPPED_HI n, 0, 16⟩
def Fl.TILE_DSP_BADCHOICE_LO_COUNT (n : Nat) : Fld := ⟨Reg.TILE_DSP_BADCHOICE_LO n, 0, 32⟩
def Fl.TILE_DSP_BADCHOICE_HI_COUNT (n : Nat) : Fld := ⟨Reg.TILE_DSP_BADCHOICE_HI n, 0, 16⟩
def Fl.TILE_DSP_SKIPTOK_LO_COUNT (n : Nat) : Fld := ⟨Reg.TILE_DSP_SKIPTOK_LO n, 0, 32⟩
def Fl.TILE_DSP_SKIPTOK_HI_COUNT (n : Nat) : Fld := ⟨Reg.TILE_DSP_SKIPTOK_HI n, 0, 16⟩
def Fl.TILE_DSP_STALL_LO_COUNT (n : Nat) : Fld := ⟨Reg.TILE_DSP_STALL_LO n, 0, 32⟩
def Fl.TILE_DSP_STALL_HI_COUNT (n : Nat) : Fld := ⟨Reg.TILE_DSP_STALL_HI n, 0, 16⟩
def Fl.TILE_PMU_SEL_EVENT (n i : Nat) : Fld := ⟨Reg.TILE_PMU_SEL n i, 0, 8⟩
def Fl.TILE_PMU_SEL_EN (n i : Nat) : Fld := ⟨Reg.TILE_PMU_SEL n i, 8, 1⟩
def Fl.TILE_PMU_SEL_ADDR_EN (n i : Nat) : Fld := ⟨Reg.TILE_PMU_SEL n i, 9, 1⟩
def Fl.TILE_PMU_SEL_RANGE (n i : Nat) : Fld := ⟨Reg.TILE_PMU_SEL n i, 10, 1⟩
def Fl.TILE_PMU_SEL_OVF (n i : Nat) : Fld := ⟨Reg.TILE_PMU_SEL n i, 11, 1⟩
def Fl.TILE_PMU_SEL_CLASS (n i : Nat) : Fld := ⟨Reg.TILE_PMU_SEL n i, 16, 8⟩
def Fl.TILE_PMU_FILT_PRIV (n i : Nat) : Fld := ⟨Reg.TILE_PMU_FILT n i, 0, 11⟩
def Fl.TILE_PMU_FILT_MASTER (n i : Nat) : Fld := ⟨Reg.TILE_PMU_FILT n i, 16, 8⟩
def Fl.TILE_PMU_FILT_MMASK (n i : Nat) : Fld := ⟨Reg.TILE_PMU_FILT n i, 24, 8⟩
def Fl.TILE_PMU_CNT_LO_CNT (n i : Nat) : Fld := ⟨Reg.TILE_PMU_CNT_LO n i, 0, 32⟩
def Fl.TILE_PMU_CNT_HI_CNT (n i : Nat) : Fld := ⟨Reg.TILE_PMU_CNT_HI n i, 0, 16⟩
def Fl.TILE_SMP_CTRL_EN (n : Nat) : Fld := ⟨Reg.TILE_SMP_CTRL n, 0, 1⟩
def Fl.TILE_SMP_CTRL_CLASSES (n : Nat) : Fld := ⟨Reg.TILE_SMP_CTRL n, 1, 11⟩
def Fl.TILE_SMP_CTRL_PERIOD (n : Nat) : Fld := ⟨Reg.TILE_SMP_CTRL n, 16, 16⟩
def Fl.TILE_SMP_PROD_PROD (n : Nat) : Fld := ⟨Reg.TILE_SMP_PROD n, 0, 32⟩
def Fl.TILE_SMP_CONS_CONS (n : Nat) : Fld := ⟨Reg.TILE_SMP_CONS n, 0, 32⟩
def Fl.TILE_PMU_PCRANGE_LOW (n : Nat) : Fld := ⟨Reg.TILE_PMU_PCRANGE n, 0, 13⟩
def Fl.TILE_PMU_PCRANGE_HIGH (n : Nat) : Fld := ⟨Reg.TILE_PMU_PCRANGE n, 16, 13⟩
def Fl.TILE_SMP_LOST_LO_COUNT (n : Nat) : Fld := ⟨Reg.TILE_SMP_LOST_LO n, 0, 32⟩
def Fl.TILE_SMP_LOST_HI_COUNT (n : Nat) : Fld := ⟨Reg.TILE_SMP_LOST_HI n, 0, 16⟩
def Fl.TILE_SMP_SKIPPED_LO_COUNT (n : Nat) : Fld := ⟨Reg.TILE_SMP_SKIPPED_LO n, 0, 32⟩
def Fl.TILE_SMP_SKIPPED_HI_COUNT (n : Nat) : Fld := ⟨Reg.TILE_SMP_SKIPPED_HI n, 0, 16⟩

end Sys2Proof.Machine
end

