-- ==== Sys2Proof/Machine/RstState.lean ====
section
/-! DEFINITION. What resets, the start, the flash, the firmware and the surveys hold besides their registers (R28 to R50, R547 to R574). -/

namespace Sys2Proof.Machine

/-- A range of a memory, or of the flash, whose content is undefined: its first and last byte address, the epoch it became so (of the flash a free value), and, where
a single stack has been reset, that stack: then only the T1 bytes that lie on it. -/
structure UndefRange where
  lo : Nat
  hi : Nat
  epoch : Nat
  only : Option Nat
deriving DecidableEq, Repr

/-- A cage in its survey (R48, R49): whether a QSFP112 module is present, the tries of the read in work and its restarts, whether the read has ended and
with what, whether the cage has finished, and whether its ModPrsL change is what the survey is for. -/
structure CageRead where
  present : Bool
  tries : Nat
  restarts : Nat
  read : Bool
  ok : Bool
  media : Nat
  length : Nat
  klass : Nat
  lowPower : Bool
  signal : Nat
  finished : Bool
  changed : Bool
deriving DecidableEq, Repr

/-- What runs as stage firmware (R571): nothing, loaded and not ready, running, or stopped for good. -/
inductive Stage where
  | none | loaded | running | stopped
deriving DecidableEq, Repr

/-- The states of the option state machine before DONE (R562). -/
inductive OptState where
  | readA | checkA | readB | checkB | select | commit
deriving DecidableEq, Repr

/-- The option state machine at work: its state, the two staging areas, whether each copy is valid, and the copy that SELECT has taken (1 A, 2 B, 0 neither). -/
structure OptLoad where
  st : OptState
  a : List Byte
  b : List Byte
  okA : Bool
  okB : Bool
  src : Nat
deriving DecidableEq, Repr

def OptLoad.begin : OptLoad := { st := .readA, a := [], b := [], okA := false, okB := false, src := 0 }

/-- Resets and the start. `asserted` are the reset sources asserted, by code of R548 (4 for PERST#, hot reset and link down with HOST reach, 20 for them with
FULL reach); `interval` says that a reset interval is open, `widest` its widest reach (1 HOST, 2 FULL, 3 POWER); `hostHeld` that a HOST source holds the host
interface; `powered` that 3.3 V or 3.3 Vaux is present; `lost` that retained state was lost; `bootFailed` that no keeper slot was acceptable, which counts
at the next start (R568); `flash` the flash's bytes that have been written and `torn` the ranges whose last write or erase was cut off (R564, R570); `opt` the option state machine while it loads; `cfg` the configuration record in force; `minKeeper` and `minStage` the lowest
image versions in force; `keyBad` of R561; `released` the far dies released from reset (0 TW6U, 1 to 4 the stacks, 5 to 7 the fields), `ready` those that have
sent READY; `stage` firmware's state and when it has been restarted; `twinLeft` the twin-reset TLVs still to send; `survey` the cages of a survey in
work; `firstSurvey` that the start's survey has ended; `volts` the measured inputs (slot 12 V, connectors 0 and 1, 3.3 V, 3.3 Vaux) in mV; `recBuf`,
`recAddr`, `recSize`, `recRefused` and `recError` the recovery function's buffer, ADDR, LEN, REFUSED and ERROR (R570); `spdm` the SPDM transcript (R574), `nonces` the nonces given; `softRepairs` the stacks with a
pending soft repair, one entry each, and `hardRepairs` the hard repairs of each stack (R594). -/
structure Rst where
  asserted : List Nat
  interval : Bool
  widest : Nat
  hostHeld : Bool
  powered : Bool
  lost : Bool
  bootFailed : Bool
  flash : Store Byte
  torn : List UndefRange
  opt : Option OptLoad
  cfg : List Byte
  minKeeper : Nat
  minStage : Nat
  keyBad : Bool
  released : List Nat
  ready : List Nat
  stage : Stage
  restarts : List Nat
  twinLeft : Nat
  survey : List (Nat × CageRead)
  firstSurvey : Bool
  volts : List Nat
  recBuf : Store Byte
  recAddr : Nat
  recSize : Nat
  recRefused : Bool
  recError : Bool
  spdm : List Byte
  nonces : Nat
  softRepairs : List Nat
  hardRepairs : Store Nat
deriving DecidableEq, Repr

/-- As power-on reset is asserted: nothing has started, and retained state has been lost. -/
def Rst.powerOn : Rst :=
  { asserted := [1], interval := true, widest := 3, hostHeld := false, powered := true, lost := true, bootFailed := false, flash := [], torn := [], opt := none, cfg := []
    minKeeper := 0, minStage := 0, keyBad := false, released := [], ready := [], stage := .none, restarts := [], twinLeft := 0, survey := []
    firstSurvey := false, volts := [0, 0, 0, 0, 0], recBuf := [], recAddr := 0, recSize := 0, recRefused := false, recError := false, spdm := [], nonces := 0, softRepairs := [], hardRepairs := [] }

end Sys2Proof.Machine
end

