-- ==== Sys2Proof/Machine/Func.lean ====
section
/-! DEFINITION. The function stage of the chain (R175), correctly rounded from the exact real value. Each function is evaluated in
fixed point with `fxP` fraction bits, far beyond the 24 bits of the result, and rounded once; results that are exactly
representable (powers of two, log2 of one) are found exactly. UNVERIFIED: that no FP32 argument has a result so close to a
rounding boundary that `fxP` bits decide it wrongly (assumption log). -/

namespace Sys2Proof.Machine

/-- Fraction bits of the fixed-point evaluation. -/
def fxP : Nat := 640

/-- A dyadic in fixed point, rounded toward −∞. -/
def fxOf (d : Dy) : Int := if 0 ≤ d.e + fxP then d.m * 2 ^ (d.e + fxP).toNat else d.m / 2 ^ (-(d.e + fxP)).toNat

/-- Fixed-point product and quotient. -/
def fxMul (a b : Int) : Int := a * b / 2 ^ fxP
def fxDiv (a b : Int) : Int := a * 2 ^ fxP / b

/-- One in fixed point. -/
def fxOne : Int := 2 ^ fxP

/-- An inexact fixed-point value as a dyadic, with a sticky bit. -/
def fxDy (a : Int) : Dy := ⟨2 * a + 1, -(fxP : Int) - 1⟩

/-- Σ y^(2k+1)/(2k+1): the inverse hyperbolic tangent of |y| ≤ 1/3. -/
def fxAtanh (y : Int) : Int :=
  let y2 := fxMul y y
  ((List.range 220).foldl (fun (p : Int × Int) k => (p.1 + p.2 / (2 * k + 1 : Nat), fxMul p.2 y2)) (0, y)).1

/-- ln 2. -/
def fxLn2 : Int := 2 * fxAtanh (fxOne / 3)

/-- The arctangent of 1/n, by its series. -/
def fxAtanInv (n : Nat) : Int :=
  ((List.range 480).foldl (fun (p : Int × Int) k =>
    (if k % 2 = 0 then p.1 + p.2 / (2 * k + 1 : Nat) else p.1 - p.2 / (2 * k + 1 : Nat), p.2 / (n * n : Nat))) (0, fxOne / (n : Int))).1

/-- π, by Machin's formula. -/
def fxPi : Int := 4 * (4 * fxAtanInv 5 - fxAtanInv 239)

/-- The square root of a nonnegative fixed-point value. -/
def fxSqrt (a : Int) : Int := (Nat.sqrt (a.toNat * 2 ^ fxP) : Nat)

/-- √(2/π). -/
def fxSqrt2OverPi : Int := fxSqrt (fxDiv (2 * fxOne) fxPi)

/-- e^r for 0 ≤ r < 1, by its series. -/
def fxExpSmall (r : Int) : Int :=
  ((List.range 170).foldl (fun (p : Int × Int) k => (p.1 + p.2, fxMul p.2 r / (k + 1 : Nat))) (0, fxOne)).1

/-- e^x of a fixed-point x, as a mantissa in fixed point and a power of two. -/
def fxExp (x : Int) : Int × Int :=
  let k := x / fxLn2
  (fxExpSmall (x - k * fxLn2), k)

/-- e^x for x ≤ 0, in fixed point. -/
def fxExpNeg (x : Int) : Int :=
  let p := fxExp x
  p.1 / 2 ^ (-p.2).toNat

/-- ln of a positive fixed-point value given as m × 2^k with m in [1, 2). -/
def fxLn (m : Int) (k : Int) : Int :=
  k * fxLn2 + 2 * fxAtanh (fxDiv (m - fxOne) (m + fxOne))

/-- ln(1 + a) for 0 ≤ a ≤ 1. -/
def fxLn1p (a : Int) : Int := 2 * fxAtanh (fxDiv a (2 * fxOne + a))

/-- 1 / (1 + e^−y) of a fixed-point y: the logistic function, with full relative precision on both sides. -/
def fxSigmoid (y : Int) : Int :=
  if 0 ≤ y then fxDiv fxOne (fxOne + fxExpNeg (-y))
  else
    let e := fxExpNeg y
    fxDiv e (fxOne + e)

/-- x × √(2/π) × e^(−x²/2) × Σ x^(2n)/(2n+1)!! = erf(x/√2) for x ≥ 0, given x and x² in fixed point. -/
def fxErfHalf (x x2 : Int) : Int :=
  let s := ((List.range 900).foldl (fun (p : Int × Int) n => (p.1 + p.2, fxMul p.2 x2 / (2 * n + 3 : Nat))) (0, fxOne)).1
  fxMul (fxMul x fxSqrt2OverPi) (fxMul s (fxExpNeg (-(x2 / 2))))

/-- erf(x) = (2/√π) x e^(−x²) Σ (2x²)^n/(2n+1)!! for x ≥ 0. -/
def fxErf (x x2 : Int) : Int :=
  let s := ((List.range 900).foldl (fun (p : Int × Int) n => (p.1 + p.2, fxMul p.2 (2 * x2) / (2 * n + 3 : Nat))) (0, fxOne)).1
  fxMul (fxDiv (2 * x) (fxSqrt fxPi)) (fxMul s (fxExpNeg (-x2)))

/-- The functions of R175. -/
inductive Fn where
  | pass | exp2 | exp | log2 | log | recip | sqrt | rsqrt | sigmoid | tanh | silu | softplus | geluTanh | geluErf | erf
deriving DecidableEq, Repr

/-- The FN codes of R175; 0x0F to 0x1F are reserved. -/
def Fn.ofCode : Nat → Option Fn
  | 0 => some .pass | 1 => some .exp2 | 2 => some .exp | 3 => some .log2 | 4 => some .log | 5 => some .recip | 6 => some .sqrt
  | 7 => some .rsqrt | 8 => some .sigmoid | 9 => some .tanh | 10 => some .silu | 11 => some .softplus | 12 => some .geluTanh
  | 13 => some .geluErf | 14 => some .erf | _ => none

/-- Lanes per tile cycle of a function (R175). -/
def Fn.rate : Fn → Nat
  | .exp | .log | .sigmoid | .tanh | .silu | .softplus => 32
  | .geluTanh | .geluErf | .erf => 16
  | _ => 64

/-- A result with its flags: INVALID, DIVZERO, OVERFLOW, NAN_IN (R187). -/
structure FRes where
  val : W32
  invalid : Bool
  divzero : Bool
  overflow : Bool
  nanIn : Bool
deriving DecidableEq, Repr

/-- A result that raises nothing. -/
def FRes.plain (v : W32) : FRes := ⟨v, false, false, false, false⟩

/-- A value below every FP32 magnitude, of either sign: it rounds to a zero that keeps its sign. -/
def tinyDy (neg : Bool) : Dy := ⟨if neg then -1 else 1, -1000⟩

/-- The exact dyadic, or the approximation with a sticky bit, of f at a finite nonzero argument. -/
def fnFinite (f : Fn) (d : Dy) : Dy :=
  let neg := decide (d.m < 0)
  let x := fxOf d
  let ax := if neg then -x else x
  let x2 := fxOf (d.mul d)
  let below := fun (n : Int) => d.lt (Dy.ofInt n)
  let above := fun (n : Int) => (Dy.ofInt n).lt d
  let big := fun (n : Int) => (Dy.ofInt n).lt d.abs
  match f with
  | .pass => d
  | .exp2 =>
    if above 200 then ⟨1, 200⟩ else if below (-200) then tinyDy false
    else
      let k := x / fxOne
      let r := x - k * fxOne
      if r = 0 then ⟨1, k⟩ else (fxDy (fxExpSmall (fxMul r fxLn2))).scale k
  | .exp =>
    if above 200 then ⟨1, 200⟩ else if below (-200) then tinyDy false
    else
      let p := fxExp x
      (fxDy p.1).scale p.2
  | .log2 =>
    let k := d.log2
    let m := fxOf (d.scale (-k))
    if m = fxOne then Dy.ofInt k else fxDy (fxDiv (fxLn m k) fxLn2)
  | .log =>
    let k := d.log2
    let m := fxOf (d.scale (-k))
    if m = fxOne ∧ k = 0 then Dy.zero else fxDy (fxLn m k)
  | .recip =>
    let q := quotDy 1 d.m.natAbs (-d.e)
    if neg then q.neg else q
  | .sqrt => sqrtDy d
  | .rsqrt =>
    -- √(2^(2s) / m) with s past every significant bit; the exponent is made even first
    let m := if d.e % 2 = 0 then d.m.natAbs else 2 * d.m.natAbs
    let e := if d.e % 2 = 0 then d.e else d.e - 1
    let n := 2 ^ 240 / m
    let r := Nat.sqrt n
    let st := if r * r * m = 2 ^ 240 then 0 else 1
    ⟨((2 * r + st : Nat) : Int), -e / 2 - 121⟩
  | .sigmoid => if above 200 then ⟨2 ^ 200 - 1, -200⟩ else if below (-200) then tinyDy false else fxDy (fxSigmoid x)
  | .tanh =>
    let v := if big 200 then ⟨2 ^ 200 - 1, -200⟩
      else
        let e := fxExpNeg (-(2 * ax))
        fxDy (fxDiv (fxOne - e) (fxOne + e))
    if neg then v.neg else v
  | .silu =>
    if above 200 then d.mul ⟨2 ^ 200 - 1, -200⟩ else if below (-200) then tinyDy true else fxDy (fxMul x (fxSigmoid x))
  | .softplus =>
    if above 200 then d.add ⟨1, -400⟩ else if below (-200) then tinyDy false
    else if neg then fxDy (fxLn1p (fxExpNeg x)) else fxDy (x + fxLn1p (fxExpNeg (-x)))
  | .geluTanh =>
    if above 40 then d.mul ⟨2 ^ 200 - 1, -200⟩ else if below (-15) then tinyDy true
    else
      let x3 := fxOf ((d.mul d).mul d)
      let u := fxMul fxSqrt2OverPi (x + x3 * 44715 / 1000000)
      fxDy (fxMul x (fxSigmoid (2 * u)))
  | .geluErf =>
    if above 20 then d.mul ⟨2 ^ 200 - 1, -200⟩ else if below (-20) then tinyDy true
    else
      let e := fxErfHalf ax x2
      fxDy (fxMul x (if neg then fxOne - e else fxOne + e) / 2)
  | .erf =>
    let v := if big 15 then ⟨2 ^ 200 - 1, -200⟩ else fxDy (fxErf ax x2)
    if neg then v.neg else v

/-- f(x′) of R175, with its special arguments and flags. -/
def fnApply (f : Fn) (x : W32) : FRes :=
  let bad : FRes := ⟨fpNaN, true, false, false, false⟩
  match fpCls x with
  | .nan => if f = .pass then FRes.plain x else ⟨fpQuiet x, false, false, false, true⟩
  | .inf neg =>
    match f with
    | .pass => .plain x
    | .exp2 | .exp | .softplus => .plain (if neg then 0 else fpInf false)
    | .log2 | .log => if neg then bad else .plain (fpInf false)
    | .recip => .plain (fpZero neg)
    | .sqrt => if neg then bad else .plain (fpInf false)
    | .rsqrt => if neg then bad else .plain 0
    | .sigmoid => .plain (if neg then 0 else 0x3F800000)
    | .tanh | .erf => .plain (if neg then 0xBF800000 else 0x3F800000)
    | .silu | .geluTanh | .geluErf => .plain (if neg then fpZero true else fpInf false)
  | .zero neg =>
    match f with
    | .pass => .plain x
    | .exp2 | .exp => .plain 0x3F800000
    | .log2 | .log => ⟨fpInf true, false, true, false, false⟩
    | .recip | .rsqrt => ⟨fpInf neg, false, true, false, false⟩
    | .sqrt | .tanh | .silu | .geluTanh | .geluErf | .erf => .plain x
    | .sigmoid => .plain 0x3F000000
    | .softplus => .plain (fpOf (fxDy fxLn2))
  | .fin d =>
    match f with
    | .pass => .plain x
    | .log2 | .log | .sqrt | .rsqrt =>
      if d.m < 0 then bad else .plain (fpOf (fnFinite f d))
    | _ =>
      let v := fnFinite f d
      let r := fpRound .rne false v
      ⟨r, false, false, decide (r = fpInf (decide (v.m < 0))), false⟩

end Sys2Proof.Machine
end

