-- ==== Sys2Proof/Machine/Operands.lean ====
section
/-! DEFINITION. The element formats of the module and every way an element is read or written: the Sniril formats S8, S12 and S16 with
their block scales, widening and narrowing (R57 to R85), the conversion word (R76 to R78), and the line layout of R66. -/

namespace Sys2Proof.Machine

/-- The formats of R77. -/
inductive Fmt where
  | s8 | s12 | s16 | fp32 | bf16 | f16
deriving DecidableEq, Repr

/-- The FMT codes of R77; the rest are reserved. -/
def Fmt.ofCode : Nat → Option Fmt
  | 0 => some .s8 | 1 => some .s12 | 2 => some .s16 | 3 => some .fp32 | 4 => some .bf16 | 5 => some .f16 | _ => none

/-- Bits of an element (R57, R66). -/
def Fmt.width : Fmt → Nat
  | .s8 => 8 | .s12 => 12 | .s16 => 16 | .fp32 => 32 | .bf16 => 16 | .f16 => 16

/-- Elements of a 96-byte line (R66). -/
def Fmt.perLine : Fmt → Nat
  | .s8 => 96 | .s12 => 64 | .s16 => 48 | .fp32 => 24 | .bf16 => 48 | .f16 => 48

/-- Elements of a block (R57). -/
def Fmt.block : Fmt → Nat
  | .s8 => 32 | .s12 => 32 | .s16 => 16 | _ => 1

/-- Is it one of the block-scaled formats? -/
def Fmt.sniril : Fmt → Bool
  | .s8 => true | .s12 => true | .s16 => true | _ => false

/-- The grid of a format. -/
def Fmt.grid : Fmt → Grid
  | .s8 => .s8 | .s12 => .s12 | .s16 => .s16 | .fp32 => .fp32 | .bf16 => .bf16 | .f16 => .f16

/-- The format's code in the format-health table (R89). -/
def Fmt.healthCode : Fmt → Nat
  | .s8 => 0 | .s12 => 1 | .s16 => 2 | _ => 3

/-- The NaR code: the negative-zero code (R59, R60). -/
def Fmt.nar (f : Fmt) : Nat := 2 ^ (f.width - 1)

/-- An element's value: not a real, or an exact real (R58). -/
inductive EVal where
  | nar
  | val (d : Dy)
deriving DecidableEq, Repr

/-- The element value of a Sniril code, before the block scale (R58). -/
def elemValue (f : Fmt) (code : Nat) : EVal :=
  if code = f.nar then .nar
  else
    let neg := bitOf code (f.width - 1)
    let v := f.grid.value (code % 2 ^ (f.width - 1))
    .val (if neg then v.neg else v)

/-- The block scale of a scale byte: none for the zero block 0x80, else k from −127 to +127 (R63). -/
def scaleOf (b : Nat) : Option Int := if b % 256 = 0x80 then none else some (signedOf 8 b)

/-- An element read under its scale byte: a zero block's element is +0 whatever its code (R63, R64). -/
def elemRead (f : Fmt) (code scaleByte : Nat) : EVal :=
  match scaleOf scaleByte with
  | none => .val Dy.zero
  | some k =>
    match elemValue f code with
    | .nar => .nar
    | .val d => .val (d.scale k)

/-- The conversion word (R76). -/
structure Conv where
  fmt : Nat
  sr : Bool
  ovfNar : Bool
  fixed : Bool
  resv : Bool
  fixedScale : Nat
  cls : Nat
  layer : Nat
  sub : Nat
deriving DecidableEq, Repr

/-- Decode a conversion word; `resv` says that a reserved bit is set. -/
def Conv.decode (w : Nat) : Conv :=
  { fmt := bitsOf w 2 0, sr := bitOf w 3, ovfNar := bitOf w 4, fixed := bitOf w 5
    resv := decide (bitsOf w 7 6 ≠ 0) || bitOf w 19 || decide (bitsOf w 63 36 ≠ 0)
    fixedScale := bitsOf w 15 8, cls := bitsOf w 18 16, layer := bitsOf w 31 20, sub := bitsOf w 35 32 }

/-- The target format; a reserved code is read as S8 and never reached by an accepted descriptor. -/
def Conv.format (c : Conv) : Fmt := (Fmt.ofCode c.fmt).getD .s8

/-- R78: is the conversion word well formed? -/
def Conv.ok (c : Conv) : Bool :=
  decide (c.fmt ≤ 5) && decide (c.cls ≤ 5) && !c.resv &&
    !(c.fixed && decide (c.fmt ≤ 2) && decide (c.fixedScale = 0x80))

/-- Format-health counts of one (layer, format, class) (R86). -/
structure Health where
  total : Nat
  overflow : Nat
  vanish : Nat
  nar : Nat
  subnormal : Nat
  zeroBlock : Nat
deriving DecidableEq, Repr

/-- No counts. -/
def Health.zero : Health := ⟨0, 0, 0, 0, 0, 0⟩

/-- Sum of counts. -/
def Health.add (a b : Health) : Health :=
  ⟨a.total + b.total, a.overflow + b.overflow, a.vanish + b.vanish, a.nar + b.nar, a.subnormal + b.subnormal, a.zeroBlock + b.zeroBlock⟩

/-- What one element's encoding or widening counts as (R82, R86). -/
inductive Noted where
  | plain | overflow | vanish | nar | subnormal
deriving DecidableEq, Repr

/-- The counts of one element. -/
def Noted.health : Noted → Health
  | .plain => ⟨1, 0, 0, 0, 0, 0⟩
  | .overflow => ⟨1, 1, 0, 0, 0, 0⟩
  | .vanish => ⟨1, 0, 1, 0, 0, 0⟩
  | .nar => ⟨1, 0, 0, 1, 0, 0⟩
  | .subnormal => ⟨1, 0, 0, 0, 1, 0⟩

/-- The sum of the counts of several elements. -/
def healthOf (l : List Noted) : Health := l.foldl (fun h n => h.add n.health) Health.zero

/-- The rounding mode of a conversion word for an element whose SR bits are given (R76, R83). -/
def Conv.rnd (c : Conv) (rbits : Nat) : Rnd := if c.sr then .sr rbits else .rne

/-- Encode one element from its exact value under block scale k (R80 to R82). -/
def encodeElem (f : Fmt) (c : Conv) (k : Int) (rbits : Nat) (x : EVal) : Nat × Noted :=
  match x with
  | .nar => (f.nar, .nar)
  | .val d =>
    if d.isZero then (0, .plain)
    else
      let neg := decide (d.m < 0)
      let sgn := fun (code : Nat) => if neg then 2 ^ (f.width - 1) + code else code
      let r := f.grid.round (c.rnd rbits) (d.scale (-k))
      if r.overflow then (if c.ovfNar then f.nar else sgn f.grid.maxCode, .overflow)
      else if r.n = 0 then (0, .vanish)
      else (sgn (f.grid.pack r.n r.q), if r.subnormal then .subnormal else .plain)

/-- The MAXABS scale of a block whose largest nonzero magnitude is a (R79, steps 2 to 4). -/
def maxAbsScale (f : Fmt) (a : Dy) : Int :=
  let g := f.grid
  let s0 := a.log2 - g.etop
  let up := decide (2 ^ (g.mant + 1) - 1 < (a.scale (-s0)).ceilMag (g.etop - g.mant))
  let s := if up then s0 + 1 else s0
  max (-127) (min 127 s)

/-- The largest magnitude of the real values of a list, if any is nonzero. -/
def maxMag (xs : List EVal) : Option Dy :=
  xs.foldl (fun m x =>
    match x with
    | .nar => m
    | .val d => if d.isZero then m else match m with
      | none => some d.abs
      | some a => if a.lt d.abs then some d.abs else m) none

/-- A block as encoded: its scale byte, its codes, and what was counted. -/
structure EncBlock where
  scale : Nat
  codes : List Nat
  health : Health
deriving DecidableEq, Repr

/-- An element to be encoded: its value, its SR bits, and what it counts as when that is already decided (R105, R120). -/
structure EIn where
  x : EVal
  rbits : Nat
  note : Option Noted
deriving DecidableEq, Repr

/-- Encode one block of values, pad excluded; the caller appends pad codes of 0 (R65, R69, R79). -/
def encodeBlock (f : Fmt) (c : Conv) (xs : List EIn) : EncBlock :=
  let k : Int :=
    if c.fixed then signedOf 8 c.fixedScale
    else match maxMag (xs.map (·.x)) with
      | none => 0
      | some a => maxAbsScale f a
  let es := xs.map (fun x =>
    let e := encodeElem f c k x.rbits x.x
    (e.1, x.note.getD e.2))
  let codes := es.map (·.1)
  let h := healthOf (es.map (·.2))
  if codes.all (fun x => decide (x = 0)) then
    ⟨0x80, codes, if xs.isEmpty then h else { h with zeroBlock := 1 }⟩
  else if codes.all (fun x => decide (x = 0 ∨ x = f.nar)) then ⟨0, codes, h⟩
  else ⟨toBits 8 k, codes, h⟩

/-- Widen a Sniril element to FP32 (R73), with what R86 counts under FP32. -/
def widenElem (f : Fmt) (code scaleByte : Nat) : W32 × Noted :=
  match elemRead f code scaleByte with
  | .nar => (fpNaN, .nar)
  | .val d =>
    if d.isZero then (0, .plain)
    else
      let neg := decide (d.m < 0)
      let r := Grid.fp32.round .rne d
      if r.overflow then (fpInf neg, .overflow)
      else if r.n = 0 then (0, .vanish)
      else (fpSigned neg (Grid.fp32.pack r.n r.q), if r.subnormal then .subnormal else .plain)

/-- Widen BF16 to FP32: exact, payload carried (R73). -/
def widenBf16 (code : Nat) : W32 := BitVec.ofNat 32 (code % 65536 * 65536)

/-- Widen binary16 to FP32: exact; a NaN becomes quiet with its payload in bits [21:13] (R73). -/
def widenF16 (code : Nat) : W32 :=
  let neg := bitOf code 15
  let mag := code % 2 ^ 15
  if 0x7C00 < mag then fpSigned neg (0x7FC00000 + mag % 512 * 2 ^ 13)
  else if mag = 0x7C00 then fpInf neg
  else if mag = 0 then fpZero neg
  else
    let r := Grid.fp32.round .rne (Grid.f16.value mag)
    fpSigned neg (Grid.fp32.pack r.n r.q)

/-- Narrow FP32 to BF16 or binary16 (R74). -/
def narrow16 (f : Fmt) (c : Conv) (rbits : Nat) (x : W32) : Nat :=
  let infCode := (2 ^ (15 - f.grid.mant) - 1) * 2 ^ f.grid.mant
  let sgn := fun (neg : Bool) (code : Nat) => if neg then 2 ^ 15 + code else code
  match fpCls x with
  | .nan => if f = .bf16 then 0x7FC0 else 0x7E00
  | .inf n => sgn n infCode
  | .zero n => sgn n 0
  | .fin d =>
    let neg := decide (d.m < 0)
    let r := f.grid.round (c.rnd rbits) d
    if r.overflow then sgn neg (if c.ovfNar then infCode else f.grid.maxCode)
    else sgn neg (f.grid.pack r.n r.q)

/-- What a write of an FP32 word counts as (R86): NaN, infinity, a subnormal; a vanished or replaced value is the writer's to say. -/
def notedFp32 (x : W32) : Noted :=
  match fpCls x with
  | .nan => .nar
  | .inf _ => .overflow
  | .zero _ => .plain
  | .fin d => if d.abs.lt ⟨1, -126⟩ then .subnormal else .plain

/-- An exact value written into an FP32 target under a conversion word: rounded once; SATURATE replaces an overflow by the largest finite
value, NAR leaves the infinity. -/
def encodeFp32 (c : Conv) (rbits : Nat) (zeroNeg : Bool) (v : Dy) : W32 × Noted :=
  if v.isZero then (fpZero zeroNeg, .plain)
  else
    let neg := decide (v.m < 0)
    let r := Grid.fp32.round (c.rnd rbits) v
    if r.overflow then (if c.ovfNar then fpInf neg else fpMax neg, .overflow)
    else if r.n = 0 then (fpZero neg, .vanish)
    else (fpSigned neg (Grid.fp32.pack r.n r.q), if r.subnormal then .subnormal else .plain)

/-- The exact value of an FP32 word as an element to encode: NaN and infinities are NaR (R80). -/
def fpEVal (x : W32) : EVal :=
  match fpCls x with
  | .fin d => .val d
  | .zero _ => .val Dy.zero
  | _ => .nar

/-- Element i of a line read as a 768-bit little-endian integer (R66). -/
def lineElem (f : Fmt) (line : Nat) (i : Nat) : Nat := line / 2 ^ (f.width * i) % 2 ^ f.width

/-- Element i of a line of bytes. -/
def bytesElem (f : Fmt) (line : List Byte) (i : Nat) : Nat :=
  let lo := f.width * i
  leAt line (lo / 8) ((lo % 8 + f.width + 7) / 8) / 2 ^ (lo % 8) % 2 ^ f.width

/-- What a unit of a tile sees of its scratchpad: each byte by its offset, and which lines are poisoned. -/
structure TMem where
  byte : Nat → Byte
  bad : Nat → Bool

/-- The little-endian number in n bytes at an offset. -/
def TMem.le (v : TMem) (off n : Nat) : Nat := leNat ((List.range n).map (fun i => v.byte (off + i)))

/-- A stored place: the offset of the byte that holds the first bit of element (row, col) of a plane, and the bit within it. Lines hold
768 bits in every format, so a row is one run of bits (R66, R68). -/
def elemOff (f : Fmt) (dataLine pitch row col : Nat) : Nat × Nat :=
  ((dataLine + row * pitch) * 96 + f.width * col / 8, f.width * col % 8)

/-- The code of a stored element, and whether its line is poisoned. -/
def TMem.code (v : TMem) (f : Fmt) (dataLine pitch row col : Nat) : Nat × Bool :=
  let p := elemOff f dataLine pitch row col
  (v.le p.1 ((p.2 + f.width + 7) / 8) / 2 ^ p.2 % 2 ^ f.width, v.bad (p.1 / 96))

/-- A scale byte at a byte offset of a scale plane, and whether its line is poisoned (R71: it then reads as 0). -/
def TMem.scale (v : TMem) (scaleLine off : Nat) : Nat × Bool :=
  let a := scaleLine * 96 + off
  if v.bad (a / 96) then (0, true) else ((v.byte a).toNat, false)

/-- A steering byte (R633): a byte of a poisoned line reads as 0, and says so. -/
def TMem.steer (v : TMem) (line off : Nat) : Nat × Bool := v.scale line off

/-- An FP32 word of a line, the poison NaN where the line is poisoned (R71). -/
def TMem.word (v : TMem) (off : Nat) : W32 :=
  if v.bad (off / 96) then fpPoison else BitVec.ofNat 32 (v.le off 4)

/-- A write of bytes to the scratchpad at an offset. -/
structure Wr where
  off : Nat
  bytes : List Byte
  whole : Bool
deriving DecidableEq, Repr

/-- Bytes from codes of a format, element 0 in the lowest bits. -/
def packCodes (f : Fmt) (codes : List Nat) : List Byte :=
  leBytes ((codes.length * f.width + 7) / 8) (codes.reverse.foldl (fun acc c => acc * 2 ^ f.width + c % 2 ^ f.width) 0)

/-- Do two inclusive line intervals meet? -/
def spanMeets (a b : Nat × Nat) : Bool := decide (a.1 ≤ b.2) && decide (b.1 ≤ a.2)

/-- Does any interval of one list meet any of another? -/
def spansMeet (a b : List (Nat × Nat)) : Bool := a.any (fun x => b.any (fun y => spanMeets x y))

/-- The lines of a run of bytes of a plane, from byte `lo` to byte `hi` inclusive. -/
def byteSpan (line lo hi : Nat) : Nat × Nat := (line + lo / 96, line + hi / 96)

/-- The lines of stored rows r0 to r1 and columns c0 to c1 of a data plane, from the lowest to the highest (R137). -/
def dataSpan (f : Fmt) (line pitch r0 r1 c0 c1 : Nat) : Nat × Nat :=
  (line + r0 * pitch + c0 / f.perLine, line + r1 * pitch + c1 / f.perLine)

/-- A line of bytes from the codes of its elements, element 0 first; short lists are filled with +0 (R66, R69). -/
def packLine (f : Fmt) (codes : List Nat) : List Byte :=
  leBytes 96 (codes.reverse.foldl (fun acc c => acc * 2 ^ f.width + c % 2 ^ f.width) 0)

end Sys2Proof.Machine
end

