-- ==== Sys2Proof/Machine/LongAcc.lean ====
section
/-! DEFINITION. Long accumulation and the output stage as arithmetic: the accumulator cell (R97 to R105), the partial record and its
combination (R111, R113), the output-stage control block (R115 to R117), the exact real work of R118, the row bound (R122). -/

namespace Sys2Proof.Machine

/-- An accumulator state with its anchor; `masked` marks an output that a mask leaves out (R153), `mism` one whose combined partials had
different anchors (R113). -/
structure Cell where
  v : Int
  t : Int
  n : Bool
  a : Int
  masked : Bool
  mism : Bool
deriving DecidableEq, Repr

/-- An output with no formed pair (R100). -/
def Cell.none : Cell := ⟨0, 0, false, -512, false, false⟩

/-- The anchor offset F of an operand pair (R99). -/
def anchorOffset (x w : Fmt) : Int := x.grid.etop + w.grid.etop + 2

/-- R102: add a contribution, exactly, with the wrap noted in T. -/
def laAdd (s : Cell) (c : Int) : Cell :=
  let t := s.v + c
  if 2 ^ 111 ≤ t then { s with v := t - 2 ^ 112, t := s.t + 1 }
  else if t < -2 ^ 111 then { s with v := t + 2 ^ 112, t := s.t - 1 }
  else { s with v := t }

/-- The contribution of a formed pair (R101): the truncated integer, whether it vanished, whether it was truncated. -/
def contribution (ex ew : Dy) (sx sw a : Int) : Int × Bool × Bool :=
  let p := (ex.mul ew).scale (sx + sw + 88 - a)
  let c := p.floorMag 0
  let exact := (Dy.ofInt c).eqv p.abs
  (if p.m < 0 then -(c : Int) else c, !p.isZero && decide (c = 0), decide (c ≠ 0) && !exact)

/-- R113: combine two partial states of one output; different anchors mark the output as mismatched. -/
def Cell.combine (p q : Cell) : Cell :=
  laAdd { p with t := p.t + q.t, n := p.n || q.n, mism := p.mism || q.mism || decide (p.a ≠ q.a) } q.v

/-- The 16-byte partial record of R111 as a number. -/
def Cell.record (c : Cell) : Nat :=
  toBits 112 c.v + toBits 2 c.t * 2 ^ 112 + (if c.n then 2 ^ 114 else 0) + toBits 10 c.a * 2 ^ 116

/-- The state a partial record carries. -/
def Cell.ofRecord (r : Nat) : Cell :=
  ⟨signedOf 112 r, signedOf 2 (bitsOf r 113 112), bitOf r 114, signedOf 10 (bitsOf r 125 116), false, false⟩

/-- The value of an extended real: a NaN, an infinity, or an exact dyadic. -/
inductive XR where
  | nan
  | inf (neg : Bool)
  | val (d : Dy)
deriving DecidableEq, Repr

/-- An FP32 word as an extended real. -/
def XR.ofFp (x : W32) : XR :=
  match fpCls x with
  | .nan => .nan
  | .inf n => .inf n
  | .zero _ => .val Dy.zero
  | .fin d => .val d

/-- Exact product; 0 × ∞ is NaN. -/
def XR.mul : XR → XR → XR
  | .nan, _ => .nan
  | _, .nan => .nan
  | .inf a, .inf b => .inf (xor a b)
  | .inf a, .val d => if d.isZero then .nan else .inf (xor a (decide (d.m < 0)))
  | .val d, .inf a => if d.isZero then .nan else .inf (xor a (decide (d.m < 0)))
  | .val a, .val b => .val (a.mul b)

/-- Exact sum; ∞ − ∞ is NaN. -/
def XR.add : XR → XR → XR
  | .nan, _ => .nan
  | _, .nan => .nan
  | .inf a, .inf b => if a = b then .inf a else .nan
  | .inf a, _ => .inf a
  | _, .inf a => .inf a
  | .val a, .val b => .val (a.add b)

/-- a < b of extended reals that are not NaN. -/
def XR.lt : XR → XR → Bool
  | .nan, _ => false
  | _, .nan => false
  | .inf a, .inf b => a && !b
  | .inf a, .val _ => a
  | .val _, .inf b => !b
  | .val a, .val b => a.lt b

/-- Rounded once to FP32 under RNE (the argument of a function-class activation, R117). -/
def XR.fp32 : XR → W32
  | .nan => fpNaN
  | .inf n => fpInf n
  | .val d => fpOf d

/-- The value as an element to encode: NaN and the infinities are NaR (R80). -/
def XR.elem : XR → EVal
  | .val d => .val d
  | _ => .nar

/-- The output-stage control block (R115, R116). -/
structure Osc where
  out : Conv
  pre : Conv
  act : Nat
  scaleSrc : Nat
  biasSrc : Nat
  preEn : Bool
  rbEn : Bool
  leaky : Nat
  resv : Bool
  scale : W32
  clampLo : W32
  clampHi : W32
  scaleLine : Nat
  biasLine : Nat
  rbLine : Nat
  preLine : Nat
deriving DecidableEq, Repr

/-- Decode the 48 bytes of R115. -/
def Osc.decode (b : List Byte) : Osc :=
  let c := leAt b 16 4
  let ln := fun (i : Nat) => leAt b i 2
  { out := Conv.decode (leAt b 0 8), pre := Conv.decode (leAt b 8 8), act := bitsOf c 3 0, scaleSrc := bitsOf c 5 4
    biasSrc := bitsOf c 7 6, preEn := bitOf c 8, rbEn := bitOf c 9, leaky := bitsOf c 13 10
    resv := decide (bitsOf c 31 14 ≠ 0) || bitOf (ln 32) 15 || bitOf (ln 34) 15 || bitOf (ln 36) 15 || bitOf (ln 38) 15 ||
      decide (leAt b 40 8 ≠ 0)
    scale := BitVec.ofNat 32 (leAt b 20 4), clampLo := BitVec.ofNat 32 (leAt b 24 4), clampHi := BitVec.ofNat 32 (leAt b 28 4)
    scaleLine := ln 32 % 2 ^ 15, biasLine := ln 34 % 2 ^ 15, rbLine := ln 36 % 2 ^ 15, preLine := ln 38 % 2 ^ 15 }

/-- R123 but for the destination rule of R121: `ranges` is the number of row ranges. -/
def Osc.bad (o : Osc) (ranges : Nat) : Bool :=
  decide (8 < o.act) || decide (o.biasSrc = 3) || o.resv || (decide (o.act = 2) && decide (o.leaky = 0)) ||
    (decide (o.act = 3) && (fpIsNaN o.clampLo || fpIsNaN o.clampHi || fpLt o.clampHi o.clampLo)) ||
    (decide (2 ≤ o.scaleSrc) && decide (32765 < o.scaleLine)) || (decide (o.biasSrc ≠ 0) && decide (32765 < o.biasLine)) ||
    (o.rbEn && decide (32765 < o.rbLine + 3 * (ranges - 1)))

/-- Is the activation of the function class (R117)? -/
def Osc.func (o : Osc) : Bool := decide (4 ≤ o.act)

/-- An exact-class activation (R117). -/
def Osc.exactAct (o : Osc) (w : XR) : XR :=
  match o.act with
  | 1 => match w with
    | .nan => .nan
    | w => if (XR.val Dy.zero).lt w then w else .val Dy.zero
  | 2 => match w with
    | .val d => if d.m < 0 then .val (d.scale (-(o.leaky : Int))) else w
    | w => w
  | 3 => match w with
    | .nan => .nan
    | w =>
      let lo := XR.ofFp o.clampLo
      let hi := XR.ofFp o.clampHi
      let m := if w.lt lo then lo else w
      if hi.lt m then hi else m
  | _ => w

/-- The function of a function-class activation. -/
def Osc.fn (o : Osc) : Fn :=
  match o.act with
  | 4 => .geluTanh | 5 => .geluErf | 6 => .silu | 7 => .sigmoid | _ => .tanh

/-- What an output is about to be written as: a NaR or NaN decided by the accumulator (with what it counts as), an exact or extended
real, or the FP32 word of a function-class activation. -/
inductive OutVal where
  | acc (note : Noted)
  | real (x : XR)
  | word (x : W32)
deriving DecidableEq, Repr

/-- One output through R118, where one of mismatched anchors is written and counted as NaR (R113): the primary value, the pre-activation value, and the w that enters the row bound. -/
def outputStage (o : Osc) (c : Cell) (sigma beta : XR) : OutVal × OutVal × Option XR :=
  if c.n || c.mism then (.acc .nar, .acc .nar, none)
  else if c.t ≠ 0 then (.acc .overflow, .acc .overflow, none)
  else
    let v : XR := .val (if c.a = -512 then Dy.zero else ⟨c.v, c.a - 88⟩)
    let w := (v.mul sigma).add beta
    let r : OutVal := if o.func then .word (fnApply o.fn w.fp32).val else .real (o.exactAct w)
    (r, .real w, if w = .nan then none else some w)

/-- An output as an element of a Sniril target. -/
def OutVal.elemIn (v : OutVal) (rbits : Nat) : EIn :=
  match v with
  | .acc n => ⟨.nar, rbits, some n⟩
  | .real x => ⟨x.elem, rbits, none⟩
  | .word x => ⟨fpEVal x, rbits, none⟩

/-- An extended real rounded into an FP32 target (R119). -/
def XR.toFp32 (x : XR) (c : Conv) (rbits : Nat) : W32 × Noted :=
  match x with
  | .nan => (fpNaN, .nar)
  | .inf n => (fpInf n, .overflow)
  | .val d => encodeFp32 c rbits false d

/-- An output written into an FP32 target, with what it counts as (R119, R120). -/
def OutVal.toFp32 (v : OutVal) (c : Conv) (rbits : Nat) : W32 × Noted :=
  match v with
  | .acc n => (fpNaN, n)
  | .real x => x.toFp32 c rbits
  | .word x => (x, notedFp32 x)

/-- An output written into a BF16 or binary16 target: one rounding from the exact value (R119); only the NaN of the accumulator
counts. DESIGN CHOICE: that of mismatched anchors does too, as R113 has it counted, though R120 names T and N alone. -/
def OutVal.to16 (f : Fmt) (v : OutVal) (c : Conv) (rbits : Nat) : Nat × Option Noted :=
  let nanCode := if f = .bf16 then 0x7FC0 else 0x7E00
  let infCode := (2 ^ (15 - f.grid.mant) - 1) * 2 ^ f.grid.mant
  let sgn := fun (neg : Bool) (code : Nat) => if neg then 2 ^ 15 + code else code
  match v with
  | .acc n => (nanCode, some n)
  | .word x => (narrow16 f c rbits x, none)
  | .real .nan => (nanCode, none)
  | .real (.inf n) => (sgn n infCode, none)
  | .real (.val d) =>
    if d.isZero then (0, none)
    else
      let neg := decide (d.m < 0)
      let r := f.grid.round (c.rnd rbits) d
      (sgn neg (if r.overflow then (if c.ovfNar then infCode else f.grid.maxCode) else f.grid.pack r.n r.q), none)

/-- b(w) of R122: w rounded toward +∞ to 8 significand bits, in the FP32 exponent range with subnormals kept. -/
def rowBoundOf (w : XR) : W32 :=
  match w with
  | .nan => fpNaN
  | .inf n => if n then fpMax true else fpInf false
  | .val d =>
    if d.isZero then 0
    else
      let big : Dy := ⟨2 ^ 24 - 1, 104⟩
      let neg := decide (d.m < 0)
      if big.lt d then fpInf false
      else if neg && big.lt d.abs then fpMax true
      else
        let q := max d.log2 (-126) - 7
        let n := if neg then d.floorMag q else d.ceilMag q
        if n = 0 then fpZero neg
        else
          let v : Dy := ⟨if neg then -(n : Int) else n, q⟩
          if big.lt v then fpMax false else fpOf v

/-- The larger of two row bounds, neither of them NaN; +0 lies above −0, as in R172. -/
def rowBoundMax (a b : W32) : W32 := if fpLt a b ∨ (a = 0x80000000 ∧ b = 0) then b else a

end Sys2Proof.Machine
end

