-- ==== Sys2Proof/Machine/ArrayUnit.lean ====
section
/-! DEFINITION. The array's descriptor and passes as pure functions of the scratchpad: decoding and checks (R155 to R161), spans (R137),
passes (R130), anchors, skip units and metadata checks of the pre-pass (R100, R145, R149), the accumulated outputs of a pass
(R98 to R103, R144 to R153), its stream cycles (R133, R139 to R142), and the rows the output stage writes (R118 to R122). -/

namespace Sys2Proof.Machine

/-- An operand record (R157). -/
structure OpRec where
  dataLine : Nat
  pitch : Nat
  scaleLine : Nat
  spitch : Nat
  row0 : Nat
  fmtCode : Nat
  trans : Bool
  col0 : Nat
  srow0 : Nat
  scol0 : Nat
  metaLine : Nat
  mpitch : Nat
  resv : Bool
deriving DecidableEq, Repr

/-- Decode the 32 bytes of an operand record. -/
def OpRec.decode (b : List Byte) : OpRec :=
  let w := fun (i : Nat) => leAt b i 4
  { dataLine := bitsOf (w 0) 14 0, pitch := bitsOf (w 0) 30 16, scaleLine := bitsOf (w 4) 14 0, spitch := bitsOf (w 4) 31 16
    row0 := bitsOf (w 8) 23 0, fmtCode := bitsOf (w 8) 25 24, trans := bitOf (w 8) 26, col0 := bitsOf (w 12) 23 0
    srow0 := bitsOf (w 16) 23 0, scol0 := bitsOf (w 20) 23 0, metaLine := bitsOf (w 24) 14 0, mpitch := bitsOf (w 24) 31 16
    resv := bitOf (w 0) 15 || bitOf (w 0) 31 || bitOf (w 4) 15 || decide (bitsOf (w 8) 31 27 ≠ 0) || decide (bitsOf (w 12) 31 24 ≠ 0) ||
      decide (bitsOf (w 16) 31 24 ≠ 0) || decide (bitsOf (w 20) 31 24 ≠ 0) || bitOf (w 24) 15 || decide (w 28 ≠ 0) }

/-- The format of an operand; a reserved code is read as S8 and never reached by an accepted descriptor. -/
def OpRec.fmt (r : OpRec) : Fmt := (Fmt.ofCode (if r.fmtCode = 3 then 7 else r.fmtCode)).getD .s8

/-- The destination record (R158). -/
structure DstRec where
  dataLine : Nat
  pitch : Nat
  scaleLine : Nat
  spitch : Nat
  drow0 : Nat
  dcol0 : Nat
  metaLine : Nat
  mpitch : Nat
  resv : Bool
deriving DecidableEq, Repr

/-- Decode the 32 bytes of a destination record. -/
def DstRec.decode (b : List Byte) : DstRec :=
  let w := fun (i : Nat) => leAt b i 4
  { dataLine := bitsOf (w 0) 14 0, pitch := bitsOf (w 0) 30 16, scaleLine := bitsOf (w 4) 14 0, spitch := bitsOf (w 4) 31 16
    drow0 := bitsOf (w 8) 23 0, dcol0 := bitsOf (w 12) 23 0, metaLine := bitsOf (w 16) 14 0, mpitch := bitsOf (w 16) 31 16
    resv := bitOf (w 0) 15 || bitOf (w 0) 31 || bitOf (w 4) 15 || decide (bitsOf (w 8) 31 24 ≠ 0) || decide (bitsOf (w 12) 31 24 ≠ 0) ||
      bitOf (w 16) 15 || decide (leAt b 20 12 ≠ 0) }

/-- The kinds of R156. -/
inductive AKind where
  | fwd | igrad | wgrad | general
deriving DecidableEq, Repr

/-- An array descriptor (R155, R156). -/
structure ADesc where
  kind : AKind
  kindCode : Nat
  sparse : Nat
  maskMode : Nat
  maskZero : Bool
  xlist : Bool
  list : Nat
  gsize : Nat
  member : Nat
  m : Nat
  n : Nat
  k : Nat
  kstart : Nat
  klen : Nat
  maskLine : Nat
  group : List Nat
  resv : Bool
  x : OpRec
  w : OpRec
  dst : DstRec
  os : Osc
deriving DecidableEq, Repr

/-- Decode the 192 bytes of an array descriptor. -/
def ADesc.decode (b : List Byte) : ADesc :=
  let w := fun (i : Nat) => leAt b i 4
  let c := w 0
  { kind := match bitsOf c 1 0 with
      | 0 => .fwd | 1 => .igrad | 2 => .wgrad | _ => .general
    kindCode := bitsOf c 1 0, sparse := bitsOf c 3 2, maskMode := bitsOf c 5 4, maskZero := bitOf c 6, xlist := bitOf c 7
    list := bitsOf c 15 8, gsize := bitsOf c 19 16, member := bitsOf c 23 20
    m := bitsOf (w 4) 23 0, n := bitsOf (w 8) 23 0, k := w 12, kstart := bitsOf (w 16) 23 0, klen := bitsOf (w 20) 23 0
    maskLine := bitsOf (w 24) 14 0, group := (List.range 16).map (fun i => leAt b (28 + i) 1)
    resv := decide (bitsOf c 31 24 ≠ 0) || decide (bitsOf (w 4) 31 24 ≠ 0) || decide (bitsOf (w 8) 31 24 ≠ 0) ||
      decide (bitsOf (w 16) 31 24 ≠ 0) || decide (bitsOf (w 20) 31 24 ≠ 0) || decide (bitsOf (w 24) 31 15 ≠ 0) || decide (w 44 ≠ 0)
    x := OpRec.decode ((b.drop 48).take 32), w := OpRec.decode ((b.drop 80).take 32)
    dst := DstRec.decode ((b.drop 112).take 32), os := Osc.decode (b.drop 144) }

/-- Kept elements of every 8 dense columns: 8 when dense (R144). -/
def ADesc.nkeep (d : ADesc) : Nat := match d.sparse with
  | 1 => 4 | 2 => 2 | _ => 8

/-- Is the W operand read sparse (FWD and IGRAD), or the destination written compressed (WGRAD)? -/
def ADesc.sparseW (d : ADesc) : Bool := decide (d.sparse ≠ 0) && decide (d.kind = .fwd ∨ d.kind = .igrad)
def ADesc.sparseD (d : ADesc) : Bool := decide (d.sparse ≠ 0) && decide (d.kind = .wgrad)

/-- Stored destination columns of the product (R130). -/
def ADesc.ncols (d : ADesc) : Nat := if d.sparseD then d.n * d.nkeep / 8 else d.n

/-- Column passes and, for a number of computed rows, row ranges (R130, R151). -/
def ADesc.colPasses (d : ADesc) : Nat := ceilDiv d.ncols 64

/-- The pitch of the pre-activation destination and the first line of its scale plane (R634). -/
def ADesc.prePitch (d : ADesc) : Nat := ceilDiv (d.dst.pitch * d.os.out.format.perLine) d.os.pre.format.perLine
def ADesc.preScaleLine (d : ADesc) : Nat :=
  let e := d.os.preLine + (d.dst.drow0 + d.m) * d.prePitch
  e + e % 2
def ADesc.preSpitch (d : ADesc) : Nat := d.prePitch * (d.os.pre.format.perLine / d.os.pre.format.block)

/-- The spans an operand is read over (R137, R159): data, scale, and the metadata of a sparse operand; `rows` overrides the stored rows of
an XLIST operand. -/
def ADesc.opSpans (d : ADesc) (r : OpRec) (outer : Nat) (isW : Bool) (rows : Option (Nat × Nat)) : List (Nat × Nat) :=
  let f := r.fmt
  let sp := isW && d.sparseW
  let nk := if sp then d.nkeep else 8
  let stc := fun (x : Nat) => if sp then nk * (x / 8) else x
  let stcUp := fun (x : Nat) => if sp then nk * ceilDiv x 8 else x
  let klast := d.kstart + d.klen - 1
  let o0 := (rows.map (·.1)).getD 0
  let o1 := (rows.map (·.2)).getD (outer - 1)
  let data :=
    if r.trans then dataSpan f r.dataLine r.pitch r.row0 (r.row0 + (d.klen - 1)) (r.col0 + stc 0) (r.col0 + stcUp outer - 1)
    else dataSpan f r.dataLine r.pitch (r.row0 + o0) (r.row0 + o1)
      (r.col0 + stc d.kstart - stc d.kstart) (r.col0 + stcUp (klast + 1) - 1 - stc d.kstart)
  let scale :=
    if r.trans then byteSpan r.scaleLine (r.srow0 * r.spitch + (r.scol0 + stc 0) / f.block)
      ((r.srow0 + (d.k - 1)) * r.spitch + (r.scol0 + stcUp outer - 1) / f.block)
    else byteSpan r.scaleLine ((r.srow0 + o0) * r.spitch + (r.scol0 + stc 0) / f.block)
      ((r.srow0 + o1) * r.spitch + (r.scol0 + stcUp d.k - 1) / f.block)
  let metaS :=
    if !sp then []
    else if r.trans then [byteSpan r.metaLine (r.srow0 * r.mpitch + r.scol0 / nk) ((r.srow0 + (d.k - 1)) * r.mpitch + r.scol0 / nk + (outer - 1) / 8)]
    else [byteSpan r.metaLine (r.srow0 * r.mpitch + r.scol0 / nk) ((r.srow0 + (outer - 1)) * r.mpitch + r.scol0 / nk + (d.k - 1) / 8)]
  (if d.klen = 0 then [] else [data]) ++ [scale] ++ metaS

/-- The passes counted over all row ranges and column passes, for a number of computed rows. -/
def ADesc.passes (d : ADesc) (rows : Nat) : Nat := ceilDiv rows 64 * d.colPasses

/-- Spans the descriptor reads: operands, masks, destination metadata and vectors (R137). -/
def ADesc.readSpans (d : ADesc) (xrows : Option (Nat × Nat)) : List (Nat × Nat) :=
  d.opSpans d.x d.m false xrows ++ d.opSpans d.w d.n true none ++
    (match d.maskMode with
      | 1 => [byteSpan d.maskLine 0 ((d.m - 1) / 8)]
      | 2 => [byteSpan d.maskLine 0 (2 * d.passes d.m - 1)]
      | _ => []) ++
    (if d.sparseD then [byteSpan d.dst.metaLine (d.dst.drow0 * d.dst.mpitch + d.dst.dcol0 / d.nkeep)
        ((d.dst.drow0 + (d.m - 1)) * d.dst.mpitch + d.dst.dcol0 / d.nkeep + (d.n - 1) / 8)] else []) ++
    (if 2 ≤ d.os.scaleSrc then [(d.os.scaleLine, d.os.scaleLine + 2)] else []) ++
    (if d.os.biasSrc ≠ 0 then [(d.os.biasLine, d.os.biasLine + 2)] else [])

/-- The last stored column a target is written to: the product's last, and in a Sniril target the pad to the end of its block (R121). -/
def ADesc.lastCol (d : ADesc) (f : Fmt) : Nat :=
  let last := d.dst.dcol0 + d.ncols - 1
  if f.sniril then (last / f.block + 1) * f.block - 1 else last

/-- Destination spans, primary and pre-activation (R122, R634). -/
def ADesc.destSpans (d : ADesc) : List (Nat × Nat) :=
  let f := d.os.out.format
  let r1 := d.dst.drow0 + (d.m - 1)
  let p := d.os.pre.format
  [dataSpan f d.dst.dataLine d.dst.pitch d.dst.drow0 r1 d.dst.dcol0 (d.lastCol f)] ++
    (if f.sniril then [byteSpan d.dst.scaleLine (d.dst.drow0 * d.dst.spitch + d.dst.dcol0 / f.block)
      (r1 * d.dst.spitch + d.lastCol f / f.block)] else []) ++
    (if d.os.preEn then [dataSpan p d.os.preLine d.prePitch d.dst.drow0 r1 d.dst.dcol0 (d.lastCol p)] ++
      (if p.sniril then [byteSpan d.preScaleLine (d.dst.drow0 * d.preSpitch + d.dst.dcol0 / p.block)
        (r1 * d.preSpitch + d.lastCol p / p.block)] else []) else [])

/-- The span of the row-bound vectors (R115, R122), and every span that the descriptor writes (R137). DESIGN CHOICE: the row-bound vectors are among them, so a later
descriptor whose spans they meet waits. -/
def ADesc.rbSpan (d : ADesc) : List (Nat × Nat) := if d.os.rbEn then [(d.os.rbLine, d.os.rbLine + 3 * ceilDiv d.m 64 - 1)] else []
def ADesc.writeSpans (d : ADesc) : List (Nat × Nat) := d.destSpans ++ d.rbSpan

/-- R78, R104, R121, R123 and R161: is the descriptor rejected on this logical tile? `xrows` is the least and greatest stored row of an
XLIST operand. DESIGN CHOICE: an operand's PITCH or SPITCH of 0, outside the range that R157 gives it, counts as a reserved code; R158 gives a
destination's PITCH no range, and one of 0 passes. DESIGN CHOICE: the lines of the row-bound vectors count as a vector span and as a destination span of R161, so one
that meets a span the descriptor reads rejects it. -/
def ADesc.reject (d : ADesc) (tile : Nat) (xrows : Option (Nat × Nat)) : Bool :=
  let bx := d.x.fmt.block
  let bw := d.w.fmt.block
  let bo := d.os.out.format.block
  let bp := d.os.pre.format.block
  let opBad := fun (r : OpRec) (b : Nat) (sp : Bool) =>
    decide (r.fmtCode = 3) || r.resv || decide (r.pitch = 0) || decide (r.spitch = 0) ||
    (if r.trans then decide (((r.col0 : Int) - r.scol0) % b ≠ 0)
     else !sp && decide (((r.col0 : Int) - d.kstart - r.scol0) % b ≠ 0)) ||
    (sp && (decide (r.scol0 % 32 ≠ 0) || decide (r.col0 % 32 ≠ 0)))
  let spansR := d.readSpans xrows
  let spansW := d.writeSpans
  !d.os.out.ok || (d.os.preEn && !d.os.pre.ok) || decide (16777215 < d.k) || d.os.bad (ceilDiv d.m 64) || d.resv ||
    decide (d.sparse = 3) || decide (d.maskMode = 3) || d.dst.resv ||
    opBad d.x bx false || opBad d.w bw d.sparseW ||
    decide (d.m = 0) || decide (d.n = 0) || (decide (d.klen = 0) && decide (d.gsize = 0)) || decide (d.k < d.kstart + d.klen) ||
    decide (d.kstart % (if d.x.fmt = .s16 ∧ d.w.fmt = .s16 then 16 else 32) ≠ 0) ||
    (d.sparseD && decide (d.dst.dcol0 % 32 ≠ 0)) || decide (d.dst.dcol0 % bo ≠ 0) || (d.os.preEn && decide (d.dst.dcol0 % bp ≠ 0)) ||
    (match d.kind with
      | .fwd => d.x.trans || d.w.trans
      | .igrad => d.x.trans || !d.w.trans
      | .wgrad => !d.x.trans || !d.w.trans
      | .general => decide (d.sparse ≠ 0)) ||
    (decide (d.sparse ≠ 0) && (match d.kind with
      | .fwd => decide (d.k % 8 ≠ 0)
      | _ => decide (d.n % 8 ≠ 0))) ||
    (d.xlist && (d.x.trans || decide (d.maskMode ≠ 0))) ||
    (decide (0 < d.gsize) && (decide (d.gsize < d.member) || (d.group.take (d.gsize + 1)).any (fun t => decide (179 < t)) ||
      decide (d.group.getD d.member 255 ≠ tile))) ||
    (spansR ++ spansW).any (fun s => decide (32767 < s.2)) ||
    spansMeet d.destSpans (spansR ++ d.rbSpan) || spansMeet d.rbSpan spansR

/-- The stored index of dense column x of a row whose mask bytes are given by group (R145), and whether x is kept. -/
def keptAt (byteOf : Nat → Nat) (nkeep x : Nat) : Nat × Bool :=
  let b := byteOf (x / 8)
  (nkeep * (x / 8) + ((List.range (x % 8)).filter (fun i => bitOf b i)).length, bitOf b (x % 8))

/-- The dense column stored at index s of a row (R144, R148). -/
def denseAt (byteOf : Nat → Nat) (nkeep s : Nat) : Nat :=
  let b := byteOf (s / nkeep)
  8 * (s / nkeep) + ((List.range 8).filter (fun i => bitOf b i)).getD (s % nkeep) 0

/-- The mask byte of W for stored row `row` and group `g`, and of the destination (R159); a byte of a poisoned line reads as 0 (R633). -/
def ADesc.wMask (d : ADesc) (v : TMem) (row g : Nat) : Nat :=
  (v.steer d.w.metaLine ((d.w.srow0 + row) * d.w.mpitch + d.w.scol0 / d.nkeep + g)).1
def ADesc.dMask (d : ADesc) (v : TMem) (row g : Nat) : Nat :=
  (v.steer d.dst.metaLine ((d.dst.drow0 + row) * d.dst.mpitch + d.dst.dcol0 / d.nkeep + g)).1

/-- An operand element as the cell meets it: its scale byte, whether it is NaR by poison, and its code. -/
structure AElem where
  scale : Nat
  bad : Bool
  code : Nat
deriving DecidableEq, Repr

/-- The scale byte of X(i, k), and of W(k, j), by R159; for sparse W the stored index is found from the mask. -/
def ADesc.xScale (d : ADesc) (v : TMem) (xrow : Nat → Nat) (i k : Nat) : Nat × Bool :=
  let r := d.x
  if r.trans then v.scale r.scaleLine ((r.srow0 + k) * r.spitch + (r.scol0 + i) / r.fmt.block)
  else v.scale r.scaleLine ((r.srow0 + xrow i) * r.spitch + (r.scol0 + k) / r.fmt.block)
def ADesc.wScale (d : ADesc) (v : TMem) (k j : Nat) : Nat × Bool :=
  let r := d.w
  if r.trans then
    let c := if d.sparseW then (keptAt (d.wMask v k) d.nkeep j).1 else j
    v.scale r.scaleLine ((r.srow0 + k) * r.spitch + (r.scol0 + c) / r.fmt.block)
  else
    let c := if d.sparseW then (keptAt (d.wMask v j) d.nkeep k).1 else k
    v.scale r.scaleLine ((r.srow0 + j) * r.spitch + (r.scol0 + c) / r.fmt.block)

/-- The element code of X(i, k) and of W(k, j) (R159), and whether its line is poisoned. -/
def ADesc.xCode (d : ADesc) (v : TMem) (xrow : Nat → Nat) (i k : Nat) : Nat × Bool :=
  let r := d.x
  if r.trans then v.code r.fmt r.dataLine r.pitch (r.row0 + (k - d.kstart)) (r.col0 + i)
  else v.code r.fmt r.dataLine r.pitch (r.row0 + xrow i) (r.col0 + (k - d.kstart))
def ADesc.wCode (d : ADesc) (v : TMem) (k j : Nat) : Nat × Bool :=
  let r := d.w
  if r.trans then
    let c := if d.sparseW then (keptAt (d.wMask v k) d.nkeep j).1 else j
    v.code r.fmt r.dataLine r.pitch (r.row0 + (k - d.kstart)) (r.col0 + c)
  else
    let c := if d.sparseW then (keptAt (d.wMask v j) d.nkeep k).1 - d.nkeep * d.kstart / 8 else k - d.kstart
    v.code r.fmt r.dataLine r.pitch (r.row0 + j) (r.col0 + c)

/-- Is W(k, j) kept by structured sparsity? -/
def ADesc.wKept (d : ADesc) (v : TMem) (k j : Nat) : Bool :=
  if d.sparseW then
    (if d.w.trans then (keptAt (d.wMask v k) d.nkeep j).2 else (keptAt (d.wMask v j) d.nkeep k).2)
  else true

/-- A pass: its number, its product rows in pass order, its first stored column and how many. -/
structure APass where
  no : Nat
  range : Nat
  rows : List Nat
  col0 : Nat
  cols : Nat
deriving DecidableEq, Repr

/-- Pass p over the computed product rows (R130, R151). -/
def ADesc.passAt (d : ADesc) (rows : List Nat) (p : Nat) : APass :=
  let q := p / d.colPasses
  let c := p % d.colPasses
  ⟨p, q, (rows.drop (64 * q)).take 64, 64 * c, min 64 (d.ncols - 64 * c)⟩

/-- The product rows a ROW mask computes, in ascending order (R151); all of them without one. -/
def ADesc.rowsOf (d : ADesc) (v : TMem) : List Nat :=
  (List.range d.m).filter (fun i => if d.maskMode = 1 then bitOf (v.steer d.maskLine (i / 8)).1 (i % 8) else true)

/-- The BLOCK word of a pass (R152). -/
def ADesc.blockWord (d : ADesc) (v : TMem) (p : Nat) : Nat :=
  if d.maskMode = 2 then (v.steer d.maskLine (2 * p)).1 + 256 * (v.steer d.maskLine (2 * p + 1)).1 else 0xFFFF

/-- Does the mask of a pass compute the output at pass row `pr` and pass column `pc`? -/
def blockKeeps (word pr pc : Nat) : Bool := bitOf word (2 * (pr / 8) + pc / 32)

/-- The dense product column of pass column `pc` in product row i. -/
def ADesc.denseCol (d : ADesc) (v : TMem) (ps : APass) (i pc : Nat) : Nat :=
  if d.sparseD then denseAt (d.dMask v i) d.nkeep (ps.col0 + pc) else ps.col0 + pc

/-- The scale sum of the pair (i, k, j), if it is formed (R98). -/
def ADesc.formed (d : ADesc) (v : TMem) (xrow : Nat → Nat) (i k j : Nat) : Option (Int × Int) :=
  if !d.wKept v k j then none
  else match scaleOf (d.xScale v xrow i k).1, scaleOf (d.wScale v k j).1 with
    | some sx, some sw => some (sx, sw)
    | _, _ => none

/-- The anchor of an output, over the whole K (R100, R110). -/
def ADesc.anchor (d : ADesc) (v : TMem) (xrow : Nat → Nat) (i j : Nat) : Int :=
  (List.range d.k).foldl (fun (a : Int) k =>
    match d.formed v xrow i k j with
    | none => a
    | some s => max a (s.1 + s.2 + anchorOffset d.x.fmt d.w.fmt)) (-512)

/-- What a pre-pass finds: the anchors, row-major over the pass, and which skip units of the share are skipped (R149). -/
structure APre where
  pass : Nat
  anchors : List Int
  skip : List Bool
deriving DecidableEq, Repr

/-- The pass's outputs as (pass row, product row, pass column), row-major. -/
def APass.outputs (ps : APass) : List (Nat × Nat × Nat) :=
  ps.rows.zipIdx.flatMap (fun r => (List.range ps.cols).map (fun c => (r.2, r.1, c)))

/-- R145: the mask bytes a pass uses, each as its group byte. DESIGN CHOICE: those of outputs that the pass's BLOCK word masks are used too. -/
def ADesc.passMasks (d : ADesc) (v : TMem) (ps : APass) : List Nat :=
  if d.sparseW then
    (if d.w.trans then
      (List.range d.k).flatMap (fun k => (List.range (ceilDiv (ps.col0 + ps.cols) 8 - ps.col0 / 8)).map (fun g => d.wMask v k (ps.col0 / 8 + g)))
     else (List.range ps.cols).flatMap (fun c => (List.range (ceilDiv d.k 8)).map (fun g => d.wMask v (ps.col0 + c) g)))
  else if d.sparseD then
    ps.rows.flatMap (fun i =>
      (List.range (ceilDiv (ps.col0 + ps.cols) d.nkeep - ps.col0 / d.nkeep)).map (fun g => d.dMask v i (ps.col0 / d.nkeep + g)))
  else []

/-- Set bits of a byte. -/
def popByte (b : Nat) : Nat := ((List.range 8).filter (fun i => bitOf b i)).length

/-- Does any mask byte of the pass have the wrong count of set bits (R145)? -/
def ADesc.metaBad (d : ADesc) (v : TMem) (ps : APass) : Bool :=
  (d.passMasks v ps).any (fun b => decide (popByte b ≠ d.nkeep))

/-- R633: the first poisoned line of the array mask that the pass needs. For a ROW mask the bytes up to the one that holds the pass's last
computed row, and in the last range, DESIGN CHOICE, to the end of the mask, which alone shows that no row follows; for a BLOCK mask its own word. -/
def ADesc.maskPoison (d : ADesc) (v : TMem) (ps : APass) (lastRange : Bool) : Option Nat :=
  let lines :=
    match d.maskMode with
    | 1 =>
      let hi := if lastRange then (d.m - 1) / 8 else (ps.rows.getLastD (d.m - 1)) / 8
      (List.range (hi / 96 + 1)).map (fun l => d.maskLine + l)
    | 2 => [d.maskLine + 2 * ps.no / 96]
    | _ => []
  lines.find? v.bad

/-- The k of skip unit u of the share (R149). -/
def ADesc.unitKs (d : ADesc) (u : Nat) : List Nat := (List.range (min 32 (d.klen - 32 * u))).map (fun i => d.kstart + 32 * u + i)

/-- The pre-pass of a pass. -/
def ADesc.prepass (d : ADesc) (v : TMem) (xrow : Nat → Nat) (ps : APass) : APre :=
  let word := d.blockWord v ps.no
  let outs := ps.outputs.filter (fun o => blockKeeps word o.1 o.2.2)
  { pass := ps.no
    anchors := ps.outputs.map (fun o => if blockKeeps word o.1 o.2.2 then d.anchor v xrow o.2.1 (d.denseCol v ps o.2.1 o.2.2) else -512)
    skip := (List.range (ceilDiv d.klen 32)).map (fun u =>
      (d.unitKs u).all (fun k => outs.all (fun o => (d.formed v xrow o.2.1 k (d.denseCol v ps o.2.1 o.2.2)).isNone))) }

/-- One output accumulated over the share of k: the cell, and how many contributions were truncated and vanished (R101 to R103). -/
def ADesc.accumulate (d : ADesc) (v : TMem) (xrow : Nat → Nat) (a : Int) (i j : Nat) : Cell × Nat × Nat :=
  (List.range d.klen).foldl (fun (s : Cell × Nat × Nat) e =>
    let k := d.kstart + e
    match d.formed v xrow i k j with
    | none => s
    | some sc =>
      let xc := d.xCode v xrow i k
      let wc := d.wCode v k j
      let bad := xc.2 || wc.2 || (d.xScale v xrow i k).2 || (d.wScale v k j).2
      match elemValue d.x.fmt xc.1, elemValue d.w.fmt wc.1 with
      | .val ex, .val ew =>
        if bad then ({ s.1 with n := true }, s.2)
        else
          let c := contribution ex ew sc.1 sc.2 a
          (laAdd s.1 c.1, s.2.1 + (if c.2.2 then 1 else 0), s.2.2 + (if c.2.1 then 1 else 0))
      | _, _ => ({ s.1 with n := true }, s.2)) ({ Cell.none with a := a }, 0, 0)

/-- The cells of a pass with the counts of truncated and vanished contributions (R97 to R103, R152, R153). -/
def ADesc.passCells (d : ADesc) (v : TMem) (xrow : Nat → Nat) (ps : APass) (pre : APre) : List Cell × Nat × Nat :=
  let word := d.blockWord v ps.no
  let rs := (ps.outputs.zip pre.anchors).map (fun p =>
    if blockKeeps word p.1.1 p.1.2.2 then d.accumulate v xrow p.2 p.1.2.1 (d.denseCol v ps p.1.2.1 p.1.2.2)
    else ({ Cell.none with masked := true }, 0, 0))
  (rs.map (·.1), (rs.map (·.2.1)).sum, (rs.map (·.2.2)).sum)

/-- k steps per tile cycle of a dense pass, in quarters (R133). -/
def rateQuarters (x w : Fmt) : Nat :=
  if x = .s16 ∧ w = .s16 then 1 else if x = .s8 ∧ w = .s8 then 8 else 4

/-- Distinct values of a list of lines. -/
def countDistinct (l : List Nat) : Nat := (l.foldl (fun (a : List Nat) x => if a.contains x then a else x :: a) []).length

/-- Lines of a transposed operand that step k needs for the pass's outer columns `cs` (R141): of a sparse operand's row only the kept columns are
stored. -/
def ADesc.stepLines (d : ADesc) (v : TMem) (r : OpRec) (isW : Bool) (k : Nat) (cs : List Nat) : Nat :=
  let sp := isW && d.sparseW
  let st := if sp then (cs.map (keptAt (d.wMask v k) d.nkeep)).filterMap (fun x => if x.2 then some x.1 else none) else cs
  let row := r.dataLine + (r.row0 + (k - d.kstart)) * r.pitch
  countDistinct (st.map (fun c => row + (r.col0 + c) / r.fmt.perLine)) +
    countDistinct (st.map (fun c => r.scaleLine + ((r.srow0 + k) * r.spitch + (r.scol0 + c) / r.fmt.block) / 96)) +
    (if sp then countDistinct (cs.map (fun c => r.metaLine + ((r.srow0 + k) * r.mpitch + r.scol0 / d.nkeep + c / 8) / 96)) else 0)

/-- c_k of step k in units of 1/1152 tile cycle (R140 to R142). -/
def ADesc.stepCost (d : ADesc) (v : TMem) (ps : APass) (k : Nat) : Nat :=
  let mul := if d.kind = .fwd then 8 / d.nkeep else 1
  let direct := fun (r : OpRec) (isW : Bool) =>
    let dens := if isW && d.sparseW then 8 / d.nkeep else 1
    64 * 192 / (r.fmt.perLine * dens) + 64 * 192 / (96 * r.fmt.block * dens) + (if isW && d.sparseW then 16 else 0)
  let lines := fun (r : OpRec) (isW : Bool) (cs : List Nat) => if r.trans then 192 * d.stepLines v r isW k cs else direct r isW
  let dense := if d.sparseD then 8 / d.nkeep else 1
  let dx := lines d.x false ps.rows
  let dw := lines d.w true ((List.range (ps.cols * dense)).map (fun i => ps.col0 * dense + i))
  max (1152 * 4 / (rateQuarters d.x.fmt d.w.fmt * mul)) (max dx dw)

/-- Tile cycles a pass streams, skip units it skips, and stream cycles lost to the feed budget (R142, R149, R165). -/
def ADesc.passCycles (d : ADesc) (v : TMem) (ps : APass) (pre : APre) : Nat × Nat × Nat :=
  let ks := (List.range (ceilDiv d.klen 32)).flatMap (fun u => if pre.skip.getD u false then [] else d.unitKs u)
  let s := ceilDiv ((ks.map (d.stepCost v ps)).sum) 1152
  let mul := if d.kind = .fwd then 8 / d.nkeep else 1
  let ideal := ceilDiv (ks.length * 4) (rateQuarters d.x.fmt d.w.fmt * mul)
  (s, (pre.skip.filter (fun b => b)).length, s - ideal)

/-- The poisoned lines among the data and scale lines a pass reads, for the count of R583: each distinct line once. -/
def ADesc.poisonLines (d : ADesc) (v : TMem) (xrow : Nat → Nat) (ps : APass) : Nat :=
  let ks := (List.range d.klen).map (fun e => d.kstart + e)
  let xs := ps.rows.flatMap (fun i => ks.flatMap (fun k =>
    let r := d.x
    let row := if r.trans then k - d.kstart else xrow i
    let col := if r.trans then i else k - d.kstart
    let srow := if r.trans then k else xrow i
    let scol := if r.trans then i else k
    [(elemOff r.fmt r.dataLine r.pitch (r.row0 + row) (r.col0 + col)).1 / 96,
     r.scaleLine + ((r.srow0 + srow) * r.spitch + (r.scol0 + scol) / r.fmt.block) / 96]))
  let ws := (List.range ps.cols).flatMap (fun c => ks.flatMap (fun k =>
    let r := d.w
    let j := ps.col0 + c
    let row := if r.trans then k - d.kstart else j
    let col := if r.trans then j else k - d.kstart
    let srow := if r.trans then k else j
    let scol := if r.trans then j else k
    [(elemOff r.fmt r.dataLine r.pitch (r.row0 + row) (r.col0 + col)).1 / 96,
     r.scaleLine + ((r.srow0 + srow) * r.spitch + (r.scol0 + scol) / r.fmt.block) / 96]))
  countDistinct ((xs ++ ws).filter v.bad)

/-- A tensor target of the output stage: its format, its conversion word, and where its planes lie. -/
structure Target where
  f : Fmt
  c : Conv
  dataLine : Nat
  pitch : Nat
  scaleLine : Nat
  spitch : Nat
deriving DecidableEq, Repr

/-- The primary and the pre-activation target (R158, R634). -/
def ADesc.outTarget (d : ADesc) : Target :=
  ⟨d.os.out.format, d.os.out, d.dst.dataLine, d.dst.pitch, d.dst.scaleLine, d.dst.spitch⟩
def ADesc.preTarget (d : ADesc) : Target :=
  ⟨d.os.pre.format, d.os.pre, d.os.preLine, d.prePitch, d.preScaleLine, d.preSpitch⟩

/-- What writing a row of a pass gives: writes and format-health counts, each under its (layer, format, class). -/
structure RowOut where
  writes : List Wr
  health : List (Nat × Health)
deriving DecidableEq, Repr

/-- The format-health key of R89 without the entry size: (layer × 4 + format) × 8 + class. -/
def healthKey (c : Conv) (fmtCode : Nat) : Nat := (c.layer * 4 + fmtCode) * 8 + c.cls

/-- Join neighbouring writes of one row, so that lines covered by several blocks are written whole. -/
def joinWrites : List Wr → List Wr
  | [] => []
  | w :: t =>
    match joinWrites t with
    | [] => [w]
    | u :: r => if w.off + w.bytes.length = u.off && w.whole == u.whole then ⟨w.off, w.bytes ++ u.bytes, w.whole⟩ :: r else w :: u :: r

/-- The bytes between the end of each plane of the pre-activation destination and the next multiple of 192, written as zero (R69): R634 gives that object its
rows, so its planes end at DROW0 + M − 1. -/
def ADesc.preTail (d : ADesc) : List Wr :=
  if d.os.preEn then
    let e := d.os.preLine + (d.dst.drow0 + d.m) * d.prePitch
    let b := d.preScaleLine * 96 + (d.dst.drow0 + d.m) * d.preSpitch
    (if e % 2 = 1 then [⟨e * 96, List.replicate 96 0, true⟩] else []) ++
      (if d.os.pre.format.sniril ∧ b % 192 ≠ 0 then [⟨b, List.replicate (192 - b % 192) 0, true⟩] else [])
  else []

/-- Write the values of stored columns c0, c0 + 1, … of stored row r of a target; `none` marks a masked output. Blocks of a Sniril target
are encoded whole; a block all masked is left, or zeroed under `zero` (R153). `last` pads the final block (R121, R69). -/
def Target.writeRow (t : Target) (rb : Nat → Nat) (r c0 : Nat) (vals : List (Option OutVal)) (zero : Bool) : RowOut :=
  let f := t.f
  if f.sniril then
    let nb := ceilDiv vals.length f.block
    let outs := (List.range nb).map (fun b =>
      let vs := (vals.drop (b * f.block)).take f.block
      let col := c0 + b * f.block
      let off := (elemOff f t.dataLine t.pitch r col).1
      let soff := t.scaleLine * 96 + r * t.spitch + col / f.block
      if vs.all Option.isNone then
        (if zero then (([⟨off, packCodes f (List.replicate f.block 0), true⟩] : List Wr), ([⟨soff, [0x80], false⟩] : List Wr), Health.zero)
         else ([], [], Health.zero))
      else
        let e := encodeBlock f t.c (vs.zipIdx.map (fun p => (p.1.getD (.real (.val Dy.zero))).elemIn (rb (col + p.2))))
        ([⟨off, packCodes f (e.codes ++ List.replicate (f.block - e.codes.length) 0), true⟩], [⟨soff, leBytes 1 e.scale, false⟩], e.health))
    ⟨joinWrites (outs.flatMap (·.1)) ++ joinWrites (outs.flatMap (·.2.1)),
     outs.map (fun o => (healthKey t.c f.healthCode, o.2.2))⟩
  else
    let es := vals.zipIdx.map (fun p =>
      let off := (elemOff f t.dataLine t.pitch r (c0 + p.2)).1
      match p.1 with
      | none => (if zero then ([⟨off, packCodes f [0], true⟩] : List Wr) else [], ([] : List (Nat × Health)))
      | some v =>
        match f with
        | .fp32 =>
          let e := v.toFp32 t.c (rb (c0 + p.2))
          ([⟨off, leBytes 4 e.1.toNat, true⟩], [(healthKey t.c 3, e.2.health)])
        | _ =>
          let e := v.to16 f t.c (rb (c0 + p.2))
          ([⟨off, leBytes 2 e.1, true⟩], match e.2 with
            | none => []
            | some n => [(healthKey t.c 3, n.health)]))
    ⟨joinWrites (es.flatMap (·.1)), es.flatMap (·.2)⟩

/-- What the draining of a pass does: writes, health counts, LA status bits, and the row bounds of its rows. -/
structure Drained where
  writes : List Wr
  health : List (Nat × Health)
  ovf : Bool
  nar : Bool
  bounds : List (Option W32)
deriving DecidableEq, Repr

/-- σ and β of an output at pass row pr and pass column pc (R115, R116); a vector read from a poisoned line gives the poison NaN. -/
def ADesc.vecAt (d : ADesc) (v : TMem) (src line pr pc : Nat) : W32 :=
  v.word (line * 96 + 4 * (if src = 0 then pc % 64 else pr % 64))

/-- The output stage of a pass (R118 to R121, R153). DESIGN CHOICE: OVF is set for every T that is not 0, as R105 and R128 have it, also where N is set or the
anchors differ, for which R118's procedure sets NAR alone or nothing. `sr` gives the SR bits of a conversion word at a stored row and column; `rb` is what
the row bounds already hold, one entry for each pass row. -/
def ADesc.drain (d : ADesc) (v : TMem) (sr : Conv → Nat → Nat → Nat) (ps : APass) (cells : List Cell) (rb : List (Option W32)) : Drained :=
  let one : XR := .val (Dy.ofInt 1)
  let rows := ps.rows.zipIdx.map (fun r =>
    let cs := (cells.drop (r.2 * ps.cols)).take ps.cols
    let outs := cs.zipIdx.map (fun c =>
      if c.1.masked then none
      else
        let sigma := match d.os.scaleSrc with
          | 0 => one
          | 1 => XR.ofFp d.os.scale
          | s => XR.ofFp (d.vecAt v (s - 2) d.os.scaleLine r.2 c.2)
        let beta := match d.os.biasSrc with
          | 0 => XR.val Dy.zero
          | s => XR.ofFp (d.vecAt v (s - 1) d.os.biasLine r.2 c.2)
        some (outputStage d.os c.1 sigma beta))
    let drow := d.dst.drow0 + r.1
    let dcol := d.dst.dcol0 + ps.col0
    let main := d.outTarget.writeRow (sr d.os.out drow) drow dcol (outs.map (Option.map (·.1))) d.maskZero
    let pre := if d.os.preEn then d.preTarget.writeRow (sr d.os.pre drow) drow dcol (outs.map (Option.map (·.2.1))) d.maskZero else ⟨[], []⟩
    let bound := outs.foldl (fun (m : Option W32) o =>
      match o with
      | some (_, _, some w) =>
        let b := rowBoundOf w
        some (match m with
          | none => b
          | some x => rowBoundMax x b)
      | _ => m) (rb.getD r.2 none)
    (pre, main, bound))
  { writes := rows.flatMap (fun r => r.1.writes ++ r.2.1.writes), health := rows.flatMap (fun r => r.1.health ++ r.2.1.health)
    ovf := cells.any (fun c => !c.masked && decide (c.t ≠ 0)), nar := cells.any (fun c => !c.masked && c.n)
    bounds := rows.map (·.2.2) }

/-- The rows that a ROW mask leaves out, zeroed under MASK_WRITE ZERO (R151, R153): each is a whole destination row of the product. -/
def ADesc.zeroRows (d : ADesc) (computed : List Nat) : List Wr :=
  if d.maskMode = 1 ∧ d.maskZero then
    ((List.range d.m).filter (fun i => !computed.contains i)).flatMap (fun i =>
      let r := d.dst.drow0 + i
      let vals := List.replicate d.ncols (none : Option OutVal)
      (d.outTarget.writeRow (fun _ => 0) r d.dst.dcol0 vals true).writes ++
        (if d.os.preEn then (d.preTarget.writeRow (fun _ => 0) r d.dst.dcol0 vals true).writes else []))
  else []

/-- The outputs of a pass that its BLOCK word of 0 skips whole, zeroed under MASK_WRITE ZERO (R152, R153). -/
def ADesc.zeroPass (d : ADesc) (ps : APass) : List Wr :=
  if d.maskZero then
    ps.rows.flatMap (fun i =>
      let vals := List.replicate ps.cols (none : Option OutVal)
      (d.outTarget.writeRow (fun _ => 0) (d.dst.drow0 + i) (d.dst.dcol0 + ps.col0) vals true).writes ++
        (if d.os.preEn then (d.preTarget.writeRow (fun _ => 0) (d.dst.drow0 + i) (d.dst.dcol0 + ps.col0) vals true).writes else []))
  else []

/-- The row-bound vector of a row range (R122): 64 FP32 values and zero bytes to the end of its three lines. -/
def rowBoundVector (rowsInRange : Nat) (rb : List (Option W32)) : List Byte :=
  ((List.range 64).flatMap (fun i =>
    leBytes 4 (if i < rowsInRange then ((rb.getD i none).getD fpNaN).toNat else 0xFF800000))) ++ List.replicate 32 0

end Sys2Proof.Machine
end

