-- ==== Sys2Proof/Machine/ChainUnit.lean ====
section
/-! DEFINITION. The vector chain's descriptor and stages as pure functions of the scratchpad: decoding and checks (R188 to R192), the
lanes of a vector through unpack, arithmetic A, function and arithmetic B (R166 to R175), sums, scans and selections (R176 to R179), and
the blocks and elements that pack writes (R180 to R186). -/

namespace Sys2Proof.Machine

/-- The first NaN of a list of operands, in order. -/
def firstNaN (l : List W32) : Option W32 := l.find? fpIsNaN

/-- Is the word an infinity? -/
def fpIsInf (x : W32) : Bool := decide (x.toNat % 2 ^ 31 = 0x7F800000)

/-- An operation of R169 on operands: a NaN operand is the result, made quiet; a finite operation that gives an infinity raises OVERFLOW. -/
def fpOp (ops : List W32) (r : W32 × Bool) : FRes :=
  match firstNaN ops with
  | some n => ⟨fpQuiet n, false, false, false, true⟩
  | none => ⟨r.1, r.2, false, !ops.any fpNonFinite && fpIsInf r.1, false⟩

/-- Join the flags of two results, keeping the value of the second. -/
def FRes.after (a b : FRes) : FRes :=
  ⟨b.val, a.invalid || b.invalid, a.divzero || b.divzero, a.overflow || b.overflow, a.nanIn || b.nanIn⟩

/-- FP32 addition, minimum and maximum under R169 and R172. -/
def chAdd (a b : W32) : FRes := fpOp [a, b] (fpAdd a b)
def chMin (a b : W32) : FRes :=
  fpOp [a, b] (if fpLt a b then a else if fpLt b a then b else if fpSign a then a else b, false)
def chMax (a b : W32) : FRes :=
  fpOp [a, b] (if fpLt b a then a else if fpLt a b then b else if fpSign a then b else a, false)

/-- A compare: 1.0 or +0.0, quiet (R172). -/
def chCmp (t : Bool) : FRes := .plain (if t then 0x3F800000 else 0)

/-- The operations of R172. ABS and NEG of a NaN keep its sign (R169); COPYSIGN reads only the sign of b. -/
def chArith (op : Nat) (a b c : W32) : FRes :=
  let nan := fpIsNaN a || fpIsNaN b
  match op with
  | 0 => .plain a
  | 1 => chAdd a b
  | 2 => fpOp [a, b] (fpSub a b)
  | 3 => chMin a b
  | 4 => chMax a b
  | 5 => fpOp [a] (fpAbs a, false)
  | 6 => fpOp [a] (fpNeg a, false)
  | 7 =>
    let m := chMax a b
    m.after (chMin m.val c)
  | 8 =>
    let x := if c.toNat % 2 ^ 31 ≠ 0 then a else b
    let r := fpOp [x] (x, false)
    { r with nanIn := r.nanIn || fpIsNaN c }
  | 9 => chCmp (!nan && fpLt b a)
  | 10 => chCmp (!nan && !fpLt a b)
  | 11 => chCmp (!nan && !fpLt a b && !fpLt b a)
  | 12 =>
    let s : W32 := (if fpIsNaN a then fpQuiet a else a) &&& 0x7FFFFFFF ||| (b &&& 0x80000000)
    ⟨s, false, false, false, fpIsNaN a⟩
  | 13 => fpOp [a, b] (fpMul a b)
  | 14 => fpOp [a, b, c] (fpFma a b c)
  | _ => fpOp [a, b, c] (fpFma a b (fpNeg c))

/-- Is the operation a compare? -/
def opCompare (op : Nat) : Bool := decide (9 ≤ op) && decide (op ≤ 11)

/-- How many of SRC_A, SRC_B, SRC_C an operation uses (R173). -/
def opUses (op : Nat) : Nat :=
  match op with
  | 0 | 5 | 6 => 1
  | 7 | 8 | 14 | 15 => 3
  | _ => 2

/-- An input record (R190). -/
structure CIn where
  dataLine : Nat
  pitch : Nat
  scaleLine : Nat
  spitch : Nat
  row0 : Nat
  fmtCode : Nat
  shape : Nat
  col0 : Nat
  resv : Bool
deriving DecidableEq, Repr

/-- Decode 16 bytes. -/
def CIn.decode (b : List Byte) : CIn :=
  let w := fun (i : Nat) => leAt b i 4
  { dataLine := bitsOf (w 0) 14 0, pitch := bitsOf (w 0) 30 16, scaleLine := bitsOf (w 4) 14 0, spitch := bitsOf (w 4) 31 16
    row0 := bitsOf (w 8) 23 0, fmtCode := bitsOf (w 8) 26 24, shape := bitsOf (w 8) 28 27, col0 := bitsOf (w 12) 23 0
    resv := bitOf (w 0) 15 || bitOf (w 0) 31 || bitOf (w 4) 15 || decide (bitsOf (w 8) 31 29 ≠ 0) || decide (bitsOf (w 12) 31 24 ≠ 0) }

/-- Is the stream off (R171)? Its format otherwise. -/
def CIn.off (i : CIn) : Bool := decide (i.fmtCode = 7)
def CIn.fmt (i : CIn) : Fmt := (Fmt.ofCode i.fmtCode).getD .s8

/-- An output record (R191). -/
structure COut where
  dataLine : Nat
  pitch : Nat
  scaleLine : Nat
  spitch : Nat
  row0 : Nat
  shape : Nat
  col0 : Nat
  conv : Conv
  resv : Bool
deriving DecidableEq, Repr

/-- Decode 24 bytes. -/
def COut.decode (b : List Byte) : COut :=
  let w := fun (i : Nat) => leAt b i 4
  let c := Conv.decode (leAt b 16 8)
  { dataLine := bitsOf (w 0) 14 0, pitch := bitsOf (w 0) 30 16, scaleLine := bitsOf (w 4) 14 0, spitch := bitsOf (w 4) 31 16
    row0 := bitsOf (w 8) 23 0, shape := bitsOf (w 8) 25 24, col0 := bitsOf (w 12) 23 0, conv := c
    resv := bitOf (w 0) 15 || bitOf (w 0) 31 || bitOf (w 4) 15 || decide (bitsOf (w 8) 31 26 ≠ 0) || decide (bitsOf (w 12) 31 24 ≠ 0) ||
      c.resv }

/-- An arithmetic word (R189). -/
structure COp where
  op : Nat
  a : Nat
  b : Nat
  c : Nat
  pred : Bool
  resv : Bool
deriving DecidableEq, Repr

/-- Decode an arithmetic word; PRED belongs to arithmetic A alone. -/
def COp.decode (w : Nat) (isA : Bool) : COp :=
  { op := bitsOf w 3 0, a := bitsOf w 7 4, b := bitsOf w 11 8, c := bitsOf w 15 12, pred := isA && bitOf w 16
    resv := if isA then decide (bitsOf w 31 17 ≠ 0) else decide (bitsOf w 31 16 ≠ 0) }

/-- The source fields an operation uses. -/
def COp.used (o : COp) : List Nat := [o.a, o.b, o.c].take (opUses o.op)

/-- A chain descriptor (R188, R189). -/
structure CDesc where
  maskSrc : Nat
  maskZero : Bool
  trap : Bool
  predInv : Bool
  rows : Nat
  cols : Nat
  maskLine : Nat
  mpitch : Nat
  opA : COp
  fn : Nat
  fnSrc : Nat
  fnMul : Nat
  opB : COp
  ssop : Nat
  ssSrc : Nat
  kSel : Nat
  segLen : Nat
  out0Src : Nat
  out1Src : Nat
  out0En : Bool
  out1En : Bool
  consts : List W32
  ins : List CIn
  out0 : COut
  out1 : COut
  resv : Bool
deriving DecidableEq, Repr

/-- Decode the 192 bytes of a chain descriptor. -/
def CDesc.decode (b : List Byte) : CDesc :=
  let w := fun (i : Nat) => leAt b i 4
  let part := fun (lo n : Nat) => (b.drop lo).take n
  { maskSrc := bitsOf (w 0) 1 0, maskZero := bitOf (w 0) 2, trap := bitOf (w 0) 3, predInv := bitOf (w 0) 4
    rows := bitsOf (w 4) 23 0, cols := bitsOf (w 8) 23 0, maskLine := bitsOf (w 12) 14 0, mpitch := bitsOf (w 12) 31 16
    opA := COp.decode (w 16) true, fn := bitsOf (w 20) 4 0, fnSrc := bitsOf (w 20) 11 8, fnMul := bitsOf (w 20) 15 12
    opB := COp.decode (w 24) false, ssop := bitsOf (w 28) 2 0, ssSrc := bitsOf (w 28) 6 3, kSel := bitsOf (w 28) 10 7
    segLen := bitsOf (w 28) 23 11, out0Src := bitsOf (w 32) 3 0, out1Src := bitsOf (w 32) 7 4, out0En := bitOf (w 32) 8
    out1En := bitOf (w 32) 9, consts := (List.range 4).map (fun i => BitVec.ofNat 32 (w (36 + 4 * i)))
    ins := (List.range 3).map (fun i => CIn.decode (part (64 + 16 * i) 16))
    out0 := COut.decode (part 112 24), out1 := COut.decode (part 136 24)
    resv := decide (bitsOf (w 0) 31 5 ≠ 0) || decide (bitsOf (w 4) 31 24 ≠ 0) || decide (bitsOf (w 8) 31 24 ≠ 0) || bitOf (w 12) 15 ||
      decide (bitsOf (w 20) 7 5 ≠ 0) || decide (bitsOf (w 20) 31 16 ≠ 0) || decide (bitsOf (w 28) 31 24 ≠ 0) ||
      decide (bitsOf (w 32) 31 10 ≠ 0) || decide (leAt b 52 12 ≠ 0) || decide (leAt b 160 32 ≠ 0) }

/-- The enabled outputs, each with its source. -/
def CDesc.outs (d : CDesc) : List (COut × Nat) :=
  (if d.out0En then [(d.out0, d.out0Src)] else []) ++ (if d.out1En then [(d.out1, d.out1Src)] else [])

/-- Does MASK_SRC include the stream, and the predicate? -/
def CDesc.maskStream (d : CDesc) : Bool := bitOf d.maskSrc 0
def CDesc.maskPred (d : CDesc) : Bool := bitOf d.maskSrc 1

/-- Which stages are live (R173). -/
structure CLive where
  a : Bool
  f : Bool
  b : Bool
  s : Bool
deriving DecidableEq, Repr

/-- Liveness, run back from the outputs. -/
def CDesc.live (d : CDesc) : CLive :=
  let o := d.outs.map (·.2)
  let s := o.contains 0xE || o.contains 0xF
  let o := if s then d.ssSrc :: o else o
  let b := o.contains 0xD
  let o := if b then d.opB.used ++ o else o
  let f := o.contains 0xC
  let o := if f then d.fnSrc :: d.fnMul :: o else o
  ⟨o.contains 0xB || (d.opA.pred && d.maskPred), f, b, s⟩

/-- Live source fields, each with the highest code available at its stage (R173). -/
def CDesc.sources (d : CDesc) : List (Nat × Nat) :=
  let l := d.live
  d.outs.map (fun o => (o.2, if d.ssop = 4 then 0xF else 0xE)) ++ (if l.s then [(d.ssSrc, 0xD)] else []) ++
    (if l.b then d.opB.used.map (fun c => (c, 0xC)) else []) ++ (if l.f then [(d.fnSrc, 0xB), (d.fnMul, 0xB)] else []) ++
    (if l.a then d.opA.used.map (fun c => (c, 0xA)) else [])

/-- Is an output's source per segment (R180)? -/
def CDesc.perSeg (d : CDesc) (src : Nat) : Bool := decide (src = 0xF) || (decide (src = 0xE) && decide (d.ssop = 1 ∨ d.ssop = 4))

/-- Segments of a row, the length of a segment and the slots of each (R176, R180). -/
def CDesc.segSize (d : CDesc) : Nat := if d.segLen = 0 then d.cols else d.segLen
def CDesc.nseg (d : CDesc) : Nat := if d.segLen = 0 then 1 else ceilDiv d.cols d.segLen
def CDesc.slots (d : CDesc) : Nat := if d.ssop = 4 then d.kSel else 1

/-- Vectors of a row and of the descriptor (R167). -/
def CDesc.perRow (d : CDesc) : Nat := ceilDiv d.cols 64
def CDesc.vectors (d : CDesc) : Nat := d.rows * d.perRow

/-- The highest line that the R values of a ROWVEC stream touch, 64 in each stored row and the rest in the last, given the line of a stored row
and column counted from its first (R137, R170). -/
def CDesc.rowvecTop (d : CDesc) (lineOf : Nat → Nat → Nat) : Nat :=
  let n := ceilDiv d.rows 64
  max (lineOf (n - 1) ((d.rows - 1) % 64)) (if 1 < n then lineOf (n - 2) 63 else 0)

/-- The lines of the data plane of a stream from its first stored row and column, and of its scale plane, given its last column (R137). -/
def CDesc.planes (d : CDesc) (f : Fmt) (rowvec : Bool) (line pitch scaleLine spitch row0 col0 rows last : Nat) : List (Nat × Nat) :=
  let data := fun (r c : Nat) => line + r * pitch + c / f.perLine
  let scale := fun (r c : Nat) => scaleLine + (r * spitch + c / f.block) / 96
  let top := fun (at_ : Nat → Nat → Nat) => if rowvec then d.rowvecTop (fun r c => at_ (row0 + r) (col0 + c)) else at_ (row0 + rows - 1) last
  [(data row0 col0, top data)] ++ (if f.sniril then [(scale row0 col0, top scale)] else [])

/-- The lines an input is read over. -/
def CDesc.inSpan (d : CDesc) (i : CIn) : List (Nat × Nat) :=
  if i.off then []
  else d.planes i.fmt (i.shape = 1) i.dataLine i.pitch i.scaleLine i.spitch i.row0 i.col0 (if i.shape = 2 then 1 else d.rows) (i.col0 + d.cols - 1)

/-- The lines an output writes, its pad included (R182). -/
def CDesc.outSpan (d : CDesc) (o : COut) (src : Nat) : List (Nat × Nat) :=
  let f := o.conv.format
  let last := o.col0 + (if d.perSeg src then d.nseg * d.slots else d.cols) - 1
  d.planes f (o.shape = 1) o.dataLine o.pitch o.scaleLine o.spitch o.row0 o.col0 d.rows
    (if f.sniril then (last / f.block + 1) * f.block - 1 else last)

/-- The lines of the mask stream. -/
def CDesc.maskSpan (d : CDesc) : List (Nat × Nat) :=
  if d.maskStream then [byteSpan d.maskLine 0 ((d.rows - 1) * d.mpitch + (d.cols - 1) / 8)] else []

/-- All spans read, and all spans written. -/
def CDesc.readSpans (d : CDesc) : List (Nat × Nat) := d.ins.flatMap d.inSpan ++ d.maskSpan
def CDesc.writeSpans (d : CDesc) : List (Nat × Nat) := d.outs.flatMap (fun o => d.outSpan o.1 o.2)

/-- The in-place exception of R192. -/
def CDesc.inPlace (d : CDesc) (o : COut) (src : Nat) (i : CIn) : Bool :=
  !d.perSeg src && decide (i.shape = 0) && decide (o.shape = 0) && decide (i.fmt = o.conv.format) && !i.off &&
    decide (o.dataLine = i.dataLine) && decide (o.pitch = i.pitch) && decide (o.row0 = i.row0) && decide (o.col0 = i.col0) &&
    (!i.fmt.sniril || (decide (o.scaleLine = i.scaleLine) && decide (o.spitch = i.spitch)))

/-- R78 and R192: is the descriptor rejected? The conversion words of both outputs are judged. DESIGN CHOICE: the SHAPE of a stream that is OFF, or of an
output that is disabled, is not used, so a reserved code there rejects nothing. -/
def CDesc.reject (d : CDesc) : Bool :=
  let outs := d.outs
  d.resv || d.opA.resv || d.opB.resv || d.ins.any (·.resv) || d.out0.resv || d.out1.resv || !d.out0.conv.ok || !d.out1.conv.ok ||
    d.ins.any (fun i => decide (i.fmtCode = 6) || (!i.off && decide (i.shape = 3))) || decide (4 < d.ssop) || decide (14 < d.fn) ||
    decide (13 ≤ d.opA.op) || decide (d.rows = 0) || decide (d.cols = 0) || outs.isEmpty ||
    d.sources.any (fun s => decide (s.2 < s.1) || (decide (s.1 ≤ 2) && ((d.ins[s.1]?).map CIn.off).getD true)) ||
    decide (4096 < d.segLen) || (d.opA.pred && !opCompare d.opA.op) || (d.maskPred && !d.opA.pred) ||
    (decide (d.ssop = 4) && (decide (d.kSel = 0) || decide (8 < d.kSel) || decide (d.segLen = 0) || decide (256 < d.segLen))) ||
    outs.any (fun o =>
      let f := o.1.conv.format
      decide (1 < o.1.shape) ||
        (decide (o.1.shape = 1) && (decide (f ≠ .fp32) || !d.perSeg o.2 || decide (d.nseg * d.slots ≠ 1))) ||
        (decide (o.2 = 0xF) && decide (f ≠ .fp32)) || (f.sniril && decide (o.1.col0 % f.block ≠ 0)) ||
        d.ins.any (fun i => !d.inPlace o.1 o.2 i && spansMeet (d.outSpan o.1 o.2) (d.inSpan i)) ||
        spansMeet (d.outSpan o.1 o.2) d.maskSpan) ||
    (d.out0En && d.out1En && spansMeet (d.outSpan d.out0 d.out0Src) (d.outSpan d.out1 d.out1Src)) ||
    (d.readSpans ++ d.writeSpans).any (fun s => decide (32767 < s.2))

/-- The mask bit of window element (r, c), and the poisoned line that its byte lies in (R184, R633). -/
def CDesc.maskBit (d : CDesc) (v : TMem) (r c : Nat) : Bool × Option Nat :=
  if d.maskStream then
    let off := r * d.mpitch + c / 8
    let b := v.steer d.maskLine off
    (bitOf b.1 (c % 8), if b.2 then some (d.maskLine + off / 96) else none)
  else (true, none)

/-- Where window element (r, c) of a stream is stored (R170). -/
def CIn.at (i : CIn) (r c : Nat) : Nat × Nat :=
  match i.shape with
  | 1 => (i.row0 + r / 64, i.col0 + r % 64)
  | 2 => (i.row0, i.col0 + c)
  | _ => (i.row0 + r, i.col0 + c)

/-- One element unpacked: its FP32 value, what its widening counts as (Sniril only), and the poisoned lines it was read from
(R71, R73, R170). -/
def CIn.unpack (i : CIn) (v : TMem) (r c : Nat) : W32 × Option Noted × List Nat :=
  if i.off then (0, none, [])
  else
    let f := i.fmt
    let p := i.at r c
    let e := v.code f i.dataLine i.pitch p.1 p.2
    let line := (elemOff f i.dataLine i.pitch p.1 p.2).1 / 96
    let bad := if e.2 then [line] else []
    match f with
    | .fp32 => (if e.2 then fpPoison else BitVec.ofNat 32 e.1, none, bad)
    | .bf16 => (widenBf16 (if e.2 then 0x7FC0 else e.1), none, bad)
    | .f16 => (widenF16 (if e.2 then 0x7E00 else e.1), none, bad)
    | _ =>
      let so := p.1 * i.spitch + p.2 / f.block
      let s := v.scale i.scaleLine so
      let code := if e.2 || s.2 then f.nar else e.1
      let x := if s.2 then (fpNaN, Noted.nar) else widenElem f code s.1
      (x.1, some x.2, bad ++ (if s.2 then [i.scaleLine + so / 96] else []))

/-- A lane after arithmetic B: is it active, the value of every source code up to BOUT, its flags, its widenings, and the poisoned lines
read for it. -/
structure CLane where
  active : Bool
  vals : List W32
  flags : FRes
  notes : List Noted
  bad : List Nat
deriving DecidableEq, Repr

/-- A lane that is not read: outside the window, or shut out by the mask stream (R185). -/
def CLane.off : CLane := ⟨false, List.replicate 14 0, .plain 0, [], []⟩

/-- The value of a source code at a lane. -/
def CLane.src (l : CLane) (code : Nat) : W32 := l.vals.getD code 0

/-- Lane of window element (r, c) through unpack, A, function and B (R170 to R175). DESIGN CHOICE: an element of a ROWVEC or COLVEC stream that serves
several lanes or rows is widened, and counted under R73, once for each of them. -/
def CDesc.lane (d : CDesc) (v : TMem) (r c : Nat) : CLane :=
  if d.cols ≤ c ∨ !(d.maskBit v r c).1 then CLane.off
  else
    let us := d.ins.map (fun i => i.unpack v r c)
    let base := us.map (·.1) ++ d.consts ++ [0, 0x3F800000, fpOf (Dy.ofInt c), fpOf (Dy.ofInt r)]
    let l := d.live
    let nop : FRes := .plain 0
    let get := fun (vs : List W32) (k : Nat) => vs.getD k 0
    let a := if l.a then chArith d.opA.op (get base d.opA.a) (get base d.opA.b) (get base d.opA.c) else nop
    let va := base ++ [a.val]
    let f := if l.f then
        let x := get va d.fnSrc
        let m := if d.fnMul = 8 then FRes.plain x else
          let y := get va d.fnMul
          fpOp [x, y] (fpMul x y)
        m.after (fnApply ((Fn.ofCode d.fn).getD .pass) m.val)
      else nop
    let vf := va ++ [f.val]
    let b := if l.b then chArith d.opB.op (get vf d.opB.a) (get vf d.opB.b) (get vf d.opB.c) else nop
    let pred := if d.maskPred then xor (decide (a.val ≠ 0)) d.predInv else true
    { active := pred, vals := vf ++ [b.val], flags := (a.after f).after b
      notes := us.filterMap (·.2.1), bad := us.flatMap (·.2.2) }

/-- A segment sum over values, inactive ones already +0.0, with its flags (R177). -/
def segSum (xs : List W32) : FRes :=
  let tree := fun (t : List W32) =>
    (List.range 6).foldl (fun (s : List W32 × FRes) _ =>
      let prs := (List.range (s.1.length / 2)).map (fun i => chAdd (s.1.getD (2 * i) 0) (s.1.getD (2 * i + 1) 0))
      (prs.map (·.val), prs.foldl (fun f p => f.after p) s.2)) (t ++ List.replicate (64 - t.length) 0, FRes.plain 0)
  let chunks := (List.range (ceilDiv xs.length 64)).map (fun i => (xs.drop (64 * i)).take 64)
  let first := tree (chunks.headD [])
  let init : FRes := first.2.after (.plain (first.1.headD 0))
  (chunks.drop 1).foldl (fun s ch =>
    let t := tree ch
    let r := chAdd s.val (t.1.headD 0)
    (s.after t.2).after r) init

/-- The running sums of a segment, inclusive and exclusive, each lane with the flags its own addition raises (R178). DESIGN CHOICE: under the exclusive scan too the
flags of an addition belong to the lane whose element is added (R187), so those of a segment's last addition, which no output shows, are raised, and trap, at its
last lane. -/
def segScan : Option W32 → List W32 → List (W32 × FRes)
  | _, [] => []
  | none, x :: t => (0, .plain x) :: segScan (some x) t
  | some s, x :: t =>
    let r := chAdd s x
    (s, r) :: segScan (some r.val) t

/-- Is value a before value b in the order of TOPK (R179), the first being at the lower index? -/
def topkBefore (a b : W32) : Bool :=
  if fpIsNaN a then false else if fpIsNaN b then true else fpLt b a

/-- The first k of a segment's active lanes in the order of R179: each repeatedly the first lane no other is before. -/
def topkPick : Nat → List (W32 × Nat) → List (W32 × Nat)
  | 0, _ => []
  | _, [] => []
  | k + 1, h :: t =>
    let m := t.foldl (fun (b x : W32 × Nat) => if topkBefore x.1 b.1 then x else b) h
    m :: topkPick k ((h :: t).filter (fun x => decide (x.2 ≠ m.2)))

/-- The value slots and index slots of a segment under TOPK (R179). -/
def topk (k : Nat) (xs : List (W32 × Bool)) : List W32 × List W32 :=
  let act := (xs.zipIdx.filter (fun p => p.1.2)).map (fun p => (p.1.1, p.2))
  let p := topkPick k act
  let fill := k - p.length
  (p.map (·.1) ++ List.replicate fill 0xFF800000, p.map (fun x => fpOf (Dy.ofInt x.2)) ++ List.replicate fill 0xBF800000)

/-- What the chain holds of the row in work between its vectors: the source of sum and select at every lane so far, with whether the lane
is active, and the slots of the segments completed so far (R177 to R181). -/
structure CRow where
  lanes : List (W32 × Bool)
  slots : List W32
  idx : List W32
deriving DecidableEq, Repr

/-- A row of which nothing has passed. -/
def CRow.empty : CRow := ⟨[], [], []⟩

/-- What a vector leaves: the row's new holdings, the writes of pack, format health by key, the flags, the lowest trapping column, and the
poisoned lines read. -/
structure CVec where
  row : CRow
  writes : List Wr
  health : List (Nat × Health)
  flags : FRes
  trapCol : Option Nat
  bad : List Nat
deriving DecidableEq, Repr

/-- Write one run of elements of a row of an output: `none` marks an inactive element (R181 to R183, R186). A Sniril run begins at a block
boundary and is padded to one. -/
def COut.writeRun (o : COut) (rb : Nat → Nat) (count zero : Bool) (r c0 : Nat) (vals : List (Option W32)) : RowOut :=
  let f := o.conv.format
  if f.sniril then
    let outs := (List.range (ceilDiv vals.length f.block)).map (fun b =>
      let vs := (vals.drop (b * f.block)).take f.block
      let col := c0 + b * f.block
      let off := (elemOff f o.dataLine o.pitch r col).1
      let soff := o.scaleLine * 96 + r * o.spitch + col / f.block
      if vs.all Option.isNone then
        (if zero then (([⟨off, packCodes f (List.replicate f.block 0), true⟩] : List Wr), ([⟨soff, [0x80], true⟩] : List Wr), Health.zero)
         else ([], [], Health.zero))
      else
        let e := encodeBlock f o.conv (vs.zipIdx.map (fun p => ⟨fpEVal (p.1.getD 0), rb (col + p.2), none⟩))
        let off0 := (vs.filter Option.isNone).length
        ([⟨off, packCodes f (e.codes ++ List.replicate (f.block - e.codes.length) 0), true⟩], [⟨soff, leBytes 1 e.scale, true⟩],
          { e.health with total := e.health.total - off0 }))
    ⟨joinWrites (outs.flatMap (·.1)) ++ joinWrites (outs.flatMap (·.2.1)),
     outs.map (fun t => (healthKey o.conv f.healthCode, t.2.2))⟩
  else
    let es := vals.zipIdx.map (fun p =>
      let off := (elemOff f o.dataLine o.pitch r (c0 + p.2)).1
      match p.1 with
      | none => (if zero then ([⟨off, packCodes f [0], true⟩] : List Wr) else [], ([] : List (Nat × Health)))
      | some x =>
        match f with
        | .fp32 => ([⟨off, leBytes 4 x.toNat, true⟩], if count then [(healthKey o.conv 3, (notedFp32 x).health)] else [])
        | _ => ([⟨off, leBytes 2 (narrow16 f o.conv (rb (c0 + p.2)) x), true⟩], []))
    ⟨joinWrites (es.flatMap (·.1)), es.flatMap (·.2)⟩

/-- The slots newly written by a per-segment output when the row's slots grow from n0 to n1 (`done`: the row ends): whole blocks in a
Sniril target, single values otherwise (R180, R181). -/
def COut.slotRun (o : COut) (done : Bool) (n0 n1 : Nat) : Nat × Nat :=
  let f := o.conv.format
  if f.sniril then (n0 / f.block * f.block, if done then n1 else n1 / f.block * f.block) else (n0, n1)

/-- Vector u of row r through all six stages. `sr` gives the SR bits of a conversion word at a stored row and column; `h` is what the
row's earlier vectors left. -/
def CDesc.vector (d : CDesc) (v : TMem) (sr : Conv → Nat → Nat → Nat) (h : CRow) (r u : Nat) : CVec :=
  let ls := (List.range 64).map (fun l => d.lane v r (64 * u + l))
  let ins := ls.take (min 64 (d.cols - 64 * u))
  let live := d.live
  let n0 := h.lanes.length
  let lanes := h.lanes ++ ins.map (fun l => (l.src d.ssSrc, l.active))
  let n1 := lanes.length
  let clean := lanes.map (fun p => if p.2 then p.1 else 0)
  let sz := d.segSize
  -- segments whose last column lies in this vector
  let segs := (List.range d.nseg).filter (fun s => let e := min ((s + 1) * sz) d.cols; decide (n0 < e) && decide (e ≤ n1))
  let segOf := fun {α : Type} (xs : List α) (s : Nat) => (xs.drop (s * sz)).take sz
  let sums := if live.s && decide (d.ssop = 1) then segs.map (fun s => (min ((s + 1) * sz) d.cols - 1, segSum (segOf clean s))) else []
  let tops := if live.s && decide (d.ssop = 4) then segs.map (fun s => topk d.kSel (segOf lanes s)) else []
  let scans := if live.s && decide (d.ssop = 2 ∨ d.ssop = 3)
    then (((List.range d.nseg).flatMap (fun s => segScan none (segOf clean s))).drop n0).take (n1 - n0) else []
  let ssout := fun (i : Nat) (l : CLane) =>
    match d.ssop with
    | 2 => ((scans.getD i (0, .plain 0)).2).val
    | 3 => (scans.getD i (0, .plain 0)).1
    | _ => l.src d.ssSrc
  let laneFlags := ins.zipIdx.map (fun p => (64 * u + p.2, p.1.active,
    if scans.isEmpty then p.1.flags else p.1.flags.after (scans.getD p.2 (0, .plain 0)).2))
  let acts := (laneFlags.filter (fun p => p.2.1)).map (fun p => (p.1, p.2.2)) ++ sums
  let flags := acts.foldl (fun f p => f.after p.2) (FRes.plain 0)
  let trapCol := acts.foldl (fun (m : Option Nat) p =>
    if p.2.invalid || p.2.divzero then some (match m with
      | none => p.1
      | some c => min c p.1) else m) none
  let row : CRow := ⟨lanes, h.slots ++ sums.map (fun p => p.2.val) ++ tops.flatMap (·.1), h.idx ++ tops.flatMap (·.2)⟩
  let done := decide (n1 = d.cols)
  let outs := d.outs.map (fun o =>
    if d.perSeg o.2 then
      let vals := if o.2 = 0xF then row.idx else row.slots
      let old := if o.2 = 0xF then h.idx.length else h.slots.length
      let run := o.1.slotRun done old vals.length
      let xs := ((vals.drop run.1).take (run.2 - run.1)).map some
      if o.1.shape = 1 then
        let sc := o.1.col0 + r % 64
        o.1.writeRun (sr o.1.conv (o.1.row0 + r / 64)) (decide (o.2 ≠ 0xF)) d.maskZero (o.1.row0 + r / 64) sc xs
      else o.1.writeRun (sr o.1.conv (o.1.row0 + r)) (decide (o.2 ≠ 0xF)) d.maskZero (o.1.row0 + r) (o.1.col0 + run.1) xs
    else
      let xs := ins.zipIdx.map (fun p => if p.1.active then some (if o.2 = 0xE then ssout p.2 p.1 else p.1.src o.2) else none)
      o.1.writeRun (sr o.1.conv (o.1.row0 + r)) true d.maskZero (o.1.row0 + r) (o.1.col0 + 64 * u) xs)
  let wkey := (d.outs.head?.map (fun o => healthKey o.1.conv 3)).getD 0
  let widen := ins.flatMap (fun l => if l.active then l.notes else [])
  { row := if done then CRow.empty else row
    writes := outs.flatMap (·.writes), health := (wkey, healthOf widen) :: outs.flatMap (·.health)
    flags := flags, trapCol := trapCol, bad := ins.flatMap (·.bad) }

/-- The first poisoned line of the mask stream that vector u of row r needs (R633). -/
def CDesc.maskPoison (d : CDesc) (v : TMem) (r u : Nat) : Option Nat :=
  ((List.range (min 64 (d.cols - 64 * u))).filterMap (fun l => (d.maskBit v r (64 * u + l)).2)).head?

end Sys2Proof.Machine
end

