-- ==== Sys2Proof/Machine/DispatchUnit.lean ====
section
/-! DEFINITION. The dispatch unit's descriptor and its three operations as pure functions of the scratchpad: decoding and checks (R223,
R224), BUILD (R201 to R209), SEAL (R213) and EXPAND (R221). -/

namespace Sys2Proof.Machine

/-- A dispatch descriptor (R223). -/
structure DDesc where
  op : Nat
  k : Nat
  tmask : Bool
  dropEvent : Bool
  chainForm : Bool
  nsrc : Nat
  src : Nat
  t : Nat
  e : Nat
  nplace : Nat
  idxLine : Nat
  idxPitch : Nat
  gateLine : Nat
  gatePitch : Nat
  ptLine : Nat
  listsLine : Nat
  goutLine : Nat
  loadLine : Nat
  maskLine : Nat
  mpitch : Nat
  mb : Nat
  bufLine : Nat
  bufPitch : Nat
  bufScale : Nat
  bufSpitch : Nat
  bufFmt : Nat
  capacity : Nat
  fillLine : Nat
  resv : Bool
deriving DecidableEq, Repr

/-- Decode the 96 bytes of a dispatch descriptor. -/
def DDesc.decode (b : List Byte) : DDesc :=
  let w := fun (i : Nat) => leAt b (4 * i) 4
  let c := w 0
  let two := fun (i : Nat) => bitOf (w i) 15 || bitOf (w i) 31
  { op := bitsOf c 1 0, k := bitsOf c 4 2 + 1, tmask := bitOf c 5, dropEvent := bitOf c 6, chainForm := bitOf c 7
    nsrc := bitsOf c 11 8 + 1, src := bitsOf c 15 12, t := bitsOf (w 1) 23 0, e := bitsOf (w 2) 8 0, nplace := bitsOf (w 2) 24 16
    idxLine := bitsOf (w 3) 14 0, idxPitch := bitsOf (w 3) 30 16, gateLine := bitsOf (w 4) 14 0, gatePitch := bitsOf (w 4) 30 16
    ptLine := bitsOf (w 5) 14 0, listsLine := bitsOf (w 5) 30 16, goutLine := bitsOf (w 6) 14 0, loadLine := bitsOf (w 6) 30 16
    maskLine := bitsOf (w 7) 14 0, mpitch := bitsOf (w 7) 31 16, mb := bitsOf (w 8) 4 0, bufLine := bitsOf (w 9) 14 0
    bufPitch := bitsOf (w 9) 30 16, bufScale := bitsOf (w 10) 14 0, bufSpitch := bitsOf (w 10) 31 16, bufFmt := bitsOf (w 11) 2 0
    capacity := bitsOf (w 11) 31 16, fillLine := bitsOf (w 12) 14 0
    resv := decide (bitsOf c 31 16 ≠ 0) || decide (bitsOf (w 1) 31 24 ≠ 0) || decide (bitsOf (w 2) 15 9 ≠ 0) ||
      decide (bitsOf (w 2) 31 25 ≠ 0) || two 3 || two 4 || two 5 || two 6 || bitOf (w 7) 15 || decide (bitsOf (w 8) 31 5 ≠ 0) ||
      two 9 || bitOf (w 10) 15 || decide (bitsOf (w 11) 15 3 ≠ 0) || decide (bitsOf (w 12) 31 15 ≠ 0) || decide (leAt b 52 44 ≠ 0) }

/-- A placement entry (R203). -/
structure Place where
  expert : Nat
  valid : Bool
  module : Nat
  tile : Nat
  capacity : Nat
  resv : Bool
deriving DecidableEq, Repr

/-- Placement entry p of the table. -/
def DDesc.place (d : DDesc) (v : TMem) (p : Nat) : Place :=
  let x := v.le (d.ptLine * 96 + 8 * p) 8
  { expert := bitsOf x 7 0, valid := bitOf x 8, module := bitsOf x 23 16, tile := bitsOf x 31 24, capacity := bitsOf x 47 32
    resv := decide (bitsOf x 15 9 ≠ 0) || decide (bitsOf x 63 48 ≠ 0) }

/-- The share of source s of a capacity, and its first slot (R205). -/
def shareOf (capacity nsrc s : Nat) : Nat := capacity / nsrc + (if s < capacity % nsrc then 1 else 0)
def shareOff (capacity nsrc s : Nat) : Nat := ((List.range s).map (shareOf capacity nsrc)).sum

/-- The placements of a BUILD. -/
def DDesc.places (d : DDesc) (v : TMem) : List Place := (List.range d.nplace).map (d.place v)

/-- The share a BUILD owns of a placement: none of an invalid one. -/
def DDesc.share (d : DDesc) (p : Place) : Nat := if p.valid then shareOf p.capacity d.nsrc d.src else 0

/-- The number of lines a list takes (R206). -/
def listLines (n : Nat) : Nat := ceilDiv n 24

/-- An interval of n lines, none if n is 0. -/
def lineRun (line n : Nat) : List (Nat × Nat) := if n = 0 then [] else [(line, line + n - 1)]

/-- The spans a descriptor reads (R224). `skipLine` is TILE_DSP_CTRL.SKIP_LINE with bit 0 taken as 0. -/
def DDesc.readSpans (d : DDesc) (skipLine : Nat) : List (Nat × Nat) :=
  match d.op with
  | 0 =>
    [dataSpan .fp32 d.idxLine d.idxPitch 0 (d.t - 1) 0 (d.k - 1), dataSpan .fp32 d.gateLine d.gatePitch 0 (d.t - 1) 0 (d.k - 1)] ++
      lineRun d.ptLine (ceilDiv d.nplace 12) ++ (if d.tmask then [byteSpan d.maskLine 0 ((d.t - 1) / 8)] else [])
  | 1 => [(d.fillLine, d.fillLine)]
  | _ => [(skipLine + 2 * d.mb, skipLine + 2 * d.mb + 1)]

/-- The spans a descriptor writes, each list at its full share (R224). -/
def DDesc.writeSpans (d : DDesc) (v : TMem) : List (Nat × Nat) :=
  match d.op with
  | 0 =>
    lineRun d.listsLine (((d.places v).map (fun p => listLines (d.share p))).sum) ++
      lineRun d.goutLine (3 * d.k * ceilDiv d.t 64) ++ [(d.loadLine, d.loadLine + 10)]
  | 1 =>
    if d.capacity = 0 then []
    else lineRun d.bufLine (d.capacity * d.bufPitch) ++
      (if d.bufFmt ≤ 2 ∧ 0 < d.bufSpitch then [byteSpan d.bufScale 0 (d.capacity * d.bufSpitch - 1)] else [])
  | _ =>
    if d.chainForm then (if d.mpitch = 0 then [] else [byteSpan d.maskLine 0 (d.t * d.mpitch - 1)])
    else [byteSpan d.maskLine 0 ((d.t - 1) / 8)]

/-- R224: is the descriptor rejected? -/
def DDesc.reject (d : DDesc) (v : TMem) (skipLine : Nat) : Bool :=
  decide (d.op = 3) || d.resv || (decide (d.op ≠ 1) && decide (d.t = 0)) ||
    (match d.op with
      | 0 =>
        decide (d.e = 0) || decide (256 < d.e) || decide (d.nplace = 0) || decide (256 < d.nplace) || decide (d.e < d.k) ||
          decide (d.nsrc ≤ d.src) ||
          (d.places v).any (fun p => p.resv ||
            (p.valid && (decide (d.e ≤ p.expert) || decide (179 < p.tile) || decide (63 < p.module) || decide (p.capacity = 0))))
      | 1 => decide (6 ≤ d.bufFmt)
      | _ => d.chainForm && decide (d.mpitch = 0)) ||
    (d.readSpans skipLine ++ d.writeSpans v).any (fun s => decide (32767 < s.2)) ||
    spansMeet (d.writeSpans v) (d.readSpans skipLine)

/-- The outcome of judging a choice, but for the free slot (R201). -/
inductive Judged where
  | masked | absent | bad
  | ok (expert : Nat)
deriving DecidableEq, Repr

/-- The index of a choice as an expert number, if it is an exact integer in range. −0 is 0. -/
def expertOf (e : Nat) (x : W32) : Option Nat :=
  match fpCls x with
  | .zero _ => if 0 < e then some 0 else none
  | .fin d =>
    if d.m < 0 then none
    else
      let n := d.floorMag 0
      if (Dy.ofInt n).eqv d ∧ n < e then some n else none
  | _ => none

/-- The index and the gate of choice (t, j). -/
def DDesc.idxAt (d : DDesc) (v : TMem) (t j : Nat) : W32 := v.word ((elemOff .fp32 d.idxLine d.idxPitch t j).1)
def DDesc.gateAt (d : DDesc) (v : TMem) (t j : Nat) : W32 := v.word ((elemOff .fp32 d.gateLine d.gatePitch t j).1)

/-- R201, the rows but the last two. -/
def DDesc.judge (d : DDesc) (v : TMem) (t j : Nat) : Judged :=
  if d.tmask ∧ !bitOf (v.steer d.maskLine (t / 8)).1 (t % 8) then .masked
  else if d.idxAt v t j = 0xBF800000 then .absent
  else match expertOf d.e (d.idxAt v t j) with
    | none => .bad
    | some x =>
      let g := d.gateAt v t j
      if (List.range j).any (fun i => decide (expertOf d.e (d.idxAt v t i) = some x)) then .bad
      else if fpIsNaN g ∨ fpLt g 0 then .bad
      else .ok x

/-- Change entry n of a list. -/
def modAt {α : Type} (l : List α) (n : Nat) (f : α → α) : List α :=
  match l, n with
  | [], _ => []
  | x :: t, 0 => f x :: t
  | x :: t, n + 1 => x :: modAt t n f

/-- What BUILD has done so far: the lists (each entry a word, latest first), the load of each expert, the gates in rank-major order, latest
first, and the counts. -/
structure Built where
  lists : List (List Nat)
  load : List (Nat × Nat)
  gout : List W32
  routed : Nat
  dropped : Nat
  bad : Nat
  skipTok : Nat
  firstBad : Option (Nat × Nat)
deriving DecidableEq, Repr

/-- One choice of R205. -/
def DDesc.buildStep (d : DDesc) (v : TMem) (ps : List Place) (b : Built) (jt : Nat × Nat) : Built :=
  let j := jt.1
  let t := jt.2
  let none1 : Built := { b with gout := 0xBF800000 :: b.gout }
  match d.judge v t j with
  | .masked => { none1 with skipTok := b.skipTok + (if j = 0 then 1 else 0) }
  | .absent => none1
  | .bad => { none1 with bad := b.bad + 1, firstBad := some (b.firstBad.getD (t, j)) }
  | .ok e =>
    match (ps.zip b.lists).findIdx? (fun p => p.1.valid && decide (p.1.expert = e) && decide (p.2.length < d.share p.1)) with
    | none => { none1 with load := modAt b.load e (fun x => (x.1, x.2 + 1)), dropped := b.dropped + 1 }
    | some p =>
      { b with lists := modAt b.lists p (fun l => (t + j * 2 ^ 24) :: l), load := modAt b.load e (fun x => (x.1 + 1, x.2))
               gout := d.gateAt v t j :: b.gout, routed := b.routed + 1 }

/-- All choices, in rank-major order (R205). -/
def DDesc.build (d : DDesc) (v : TMem) : Built :=
  let ps := d.places v
  ((List.range d.k).flatMap (fun j => (List.range d.t).map (fun t => (j, t)))).foldl (d.buildStep v ps)
    ⟨List.replicate d.nplace [], List.replicate d.e (0, 0), [], 0, 0, 0, 0, none⟩

/-- A directory entry (R207): BASE_LINE, LENGTH, SLOT0, and the SRC and T of the BUILD that set it, which a transfer of the list needs (R212). -/
structure ListDir where
  base : Nat
  length : Nat
  slot0 : Nat
  src : Nat
  tokens : Nat
deriving DecidableEq, Repr

/-- An entry after a tile reset (R207). -/
def ListDir.none : ListDir := ⟨0, 0, 0, 0, 0⟩

/-- Pad bytes with zeros to whole lines. -/
def padLines (b : List Byte) : List Byte := b ++ List.replicate (ceilDiv b.length 96 * 96 - b.length) 0

/-- The directory entries BUILD sets (R207), and its writes: the lists, the gate planes and the load vector (R206, R208, R209). -/
def DDesc.buildDir (d : DDesc) (v : TMem) (b : Built) : List ListDir :=
  ((d.places v).zip b.lists).foldl (fun (a : Nat × List ListDir) p =>
    let n := p.2.length
    (a.1 + listLines n, a.2 ++ [⟨a.1, n, if p.1.valid then shareOff p.1.capacity d.nsrc d.src else 0, d.src, d.t⟩])) (d.listsLine, []) |>.2

/-- A word saturated to 16 bits. -/
def sat16 (n : Nat) : Nat := min n 65535

/-- The bytes BUILD writes. A list entry is written whole; the bytes of a list's last line after its last entry are left. A gate plane is an FP32 tensor of 64 columns
(R170, R208): the pad of each row's third line is written as zero (R69). -/
def DDesc.buildWrites (d : DDesc) (v : TMem) (b : Built) : List Wr :=
  let lists := ((d.buildDir v b).zip b.lists).filterMap (fun p =>
    if p.2.isEmpty then none else some (⟨p.1.base * 96, p.2.reverse.flatMap (leBytes 4), true⟩ : Wr))
  let g := b.gout.reverse
  let planes := (List.range d.k).flatMap (fun j => (List.range (ceilDiv d.t 64)).map (fun q =>
    let vals := (List.range (min 64 (d.t - 64 * q))).map (fun i => g.getD (j * d.t + 64 * q + i) 0)
    (⟨(d.goutLine + 3 * (j * ceilDiv d.t 64 + q)) * 96, vals.flatMap (fun x => leBytes 4 x.toNat), true⟩ : Wr))) ++
    (List.range (d.k * ceilDiv d.t 64)).map (fun q => (⟨(d.goutLine + 3 * q) * 96 + 256, List.replicate 32 0, true⟩ : Wr))
  let load := (b.load.flatMap (fun x => leBytes 4 (sat16 x.1 + sat16 x.2 * 65536)))
  lists ++ planes ++ [⟨d.loadLine * 96, load ++ List.replicate (11 * 96 - load.length) 0, true⟩]

/-- R633: the first poisoned line of the token mask of a BUILD. -/
def DDesc.maskPoison (d : DDesc) (v : TMem) : Option Nat :=
  if d.op = 0 ∧ d.tmask then ((List.range ((d.t - 1) / 8 / 96 + 1)).map (fun l => d.maskLine + l)).find? v.bad else none

/-- The fill counts of a SEAL, by source (R213). -/
def DDesc.fills (d : DDesc) (v : TMem) : List Nat := (List.range d.nsrc).map (fun s => v.le (d.fillLine * 96 + 2 * s) 2)

/-- R213: does a fill count exceed its share? -/
def DDesc.sealBad (d : DDesc) (v : TMem) : Bool :=
  (d.fills v).zipIdx.any (fun f => decide (shareOf d.capacity d.nsrc f.2 < f.1))

/-- The bytes SEAL writes: zero rows, and scale bytes 0x80 (R213). -/
def DDesc.sealWrites (d : DDesc) (v : TMem) : List Wr :=
  (d.fills v).zipIdx.flatMap (fun f =>
    let off := shareOff d.capacity d.nsrc f.2
    (List.range (shareOf d.capacity d.nsrc f.2 - f.1)).flatMap (fun i =>
      let r := off + f.1 + i
      [(⟨(d.bufLine + r * d.bufPitch) * 96, List.replicate (96 * d.bufPitch) 0, true⟩ : Wr)] ++
        (if d.bufFmt ≤ 2 then [⟨d.bufScale * 96 + r * d.bufSpitch, List.replicate d.bufSpitch 0x80, true⟩] else [])))

/-- Is token row i kept by the skip record at a line (R217, R221)? -/
def skipKeeps (v : TMem) (line i : Nat) : Bool :=
  let nb := v.le (line * 96 + 8) 2 % 512
  decide (i / 64 < nb) && !bitOf (v.le (line * 96 + 16 + i / 64 / 8) 1) (i / 64 % 8)

/-- The bytes EXPAND writes (R221). -/
def DDesc.expandWrites (d : DDesc) (v : TMem) (skipLine : Nat) : List Wr :=
  let line := skipLine + 2 * d.mb
  if d.chainForm then
    [⟨d.maskLine * 96, (List.range d.t).flatMap (fun i =>
      List.replicate d.mpitch (if skipKeeps v line i then (0xFF : Byte) else 0)), true⟩]
  else
    [⟨d.maskLine * 96, (List.range (ceilDiv d.t 8)).map (fun g => BitVec.ofNat 8
      (((List.range 8).filter (fun i => decide (8 * g + i < d.t) && skipKeeps v line (8 * g + i))).map (fun i => 2 ^ i)).sum), true⟩]

end Sys2Proof.Machine
end

