-- ==== Sys2Proof/Machine/TileState.lean ====
section
/-! DEFINITION. What a tile holds besides its registers and its scratchpad: the sequencer (R230, R252), the queues of its units (R231),
the runs of the array, the chain and the movers, the dispatch directory (R207), the locks of the skip table (R219), its Clapper
arrivals (R247, R248) and the format-health counts of open Takes (R87). -/

namespace Sys2Proof.Machine

/-- A descriptor copied into a unit's queue at issue, with the Slate, the program address and the scratchpad line of its micro-op
(R232, R245), and its place in the order of issue (R211). -/
structure QDesc where
  bytes : List Byte
  slate : Nat
  pc : Nat
  line : Nat
  ord : Nat
deriving DecidableEq, Repr

/-- A loop level (R230, R237): first body address, last body address, the count (0 repeats until END), its index register, the pass in
work. -/
structure LoopLevel where
  start : Nat
  last : Nat
  count : Nat
  ix : Nat
  pass : Nat
deriving DecidableEq, Repr

/-- The record of TAKE_BEGIN (R252), with the totals that RECV subtracts inside the Take, and the tile's Clapper
arrivals then (R255). -/
structure TakeRec where
  pc : Nat
  ix : List Nat
  loops : List LoopLevel
  ec : List Nat
  slate : Nat
  recv : List Nat
  arrivals : List Nat
deriving DecidableEq, Repr

/-- An entry of the target table (R239). -/
structure Target16 where
  type : Nat
  aux : Nat
  target : Nat
  offset : Nat
deriving DecidableEq, Repr

/-- The kinds of move (R235). -/
inductive MoveKind where
  | localCopy | toTile | fromObj | toObj | listOut | listBack
deriving DecidableEq, Repr

/-- A move in the movers' queue: its local line and line count, the remote line, the entry it names, and for a list-driven move its list as
it stood at issue (R239, R212). `held` says that it waits: a versioned read for its VER (R282), a slot B write for a reader (R283). -/
structure Move where
  kind : MoveKind
  line : Nat
  count : Nat
  remote : Nat
  target : Target16
  list : Nat
  slate : Nat
  pc : Nat
  held : Bool
  ord : Nat
deriving DecidableEq, Repr

/-- The kinds of send (R235). -/
inductive SendKind where
  | plain | notify | list
deriving DecidableEq, Repr

/-- An entry of the send queue (R231, R239): lines of the scratchpad, the target entry and the byte offset within the key's range. -/
structure SendItem where
  kind : SendKind
  line : Nat
  count : Nat
  offset : Nat
  target : Target16
  list : Nat
  slate : Nat
  pc : Nat
  ord : Nat
deriving DecidableEq, Repr

/-- A signal on its way (R243): the target tile, its counter, the increment; `after` counts the earlier moves of this tile toward the
target that are not yet complete. -/
structure SignalItem where
  tile : Nat
  ctr : Nat
  inc : Nat
  slate : Nat
  after : Nat
  ord : Nat
deriving DecidableEq, Repr

/-- The drain buffer (R124): the pass it holds, its cells, and how many levels of the reduction tree have been combined (R112). -/
structure DrainBuf where
  pass : Nat
  cells : List Cell
  level : Nat
deriving DecidableEq, Repr

/-- Why a pre-pass fails a descriptor: an invalid mask byte (R145), or a poisoned line of its mask (R633). -/
inductive ArrBad where
  | metadata
  | mask (line : Nat)
deriving DecidableEq, Repr

/-- An array descriptor in work: its rows as read at take-up (R160) or by the mask (R151), and how far its passes have come; `skipped` are the passes
that their BLOCK word skips whole (R152), `bad` says that the pre-pass after `prepassed` has failed it. -/
structure ArrRun where
  q : QDesc
  m : Nat
  xrows : List Nat
  waiting : Bool
  rows : List Nat
  started : Bool
  ready : List APre
  prepassed : Nat
  streamed : Nat
  drained : Nat
  bounds : List (Option W32)
  skipped : List Nat
  bad : Option ArrBad
  mismatch : Bool
  overwritten : Bool
deriving DecidableEq, Repr

/-- A chain descriptor in work: the next vector, what its row has gathered, and whether it waits under R194. -/
structure ChainRun where
  q : QDesc
  waiting : Bool
  next : Nat
  row : CRow
  overwritten : Bool
deriving DecidableEq, Repr

/-- What a sequencer waits at: nothing, or a Clapper, a cross-module channel c as 16 + c (R248, R251); `toArrive` waits for the release of
an earlier generation. -/
inductive SeqWait where
  | none
  | toArrive (chan : Nat)
  | clap (chan : Nat)
  | clapWait (chan : Nat)
  | clapx (chan : Nat)
deriving DecidableEq, Repr

/-- Why a Take failed, as the Take controller needs it (R254, R255). -/
structure TakeFail where
  slate : Nat
  swap : Bool
deriving DecidableEq, Repr

/-- A precise sample being gathered (R622, R623): the micro-op's address and word, its Slate, its place in the order of issue, how often it
waited before it issued, and whether a planned swap came upon it (R625). -/
structure SampleRec where
  pc : Nat
  word : Nat
  slate : Nat
  ord : Nat
  waited : Nat
  swapped : Bool
deriving DecidableEq, Repr

/-- An entry of a shard log (R355, R356): the micro-batch slot, the key, the GEN recorded, and whether it has mismatched before. -/
structure ShardRec where
  slot : Nat
  obj : Nat
  step : Nat
  mb : Nat
  gen : Nat
  again : Bool
  renew : Bool
deriving DecidableEq, Repr

/-- A tile's power state (R510). -/
inductive TilePower where
  | off | retain | waking | on
deriving DecidableEq, Repr

/-- Everything a logical tile holds besides registers and scratchpad. `im` is its instruction memory (R230); `arrivals` the Clapper channels
it has arrived at and that have not been released, a cross-module channel c as 16 + c; `health` the counts held for (step, micro-batch) by
key (R87); `rejects` the rejections of the Take in work and the one before it, each by program address, line and Take number (R254); `shardLog` its shard log
(R355); `sendsOut` the sends handed over and not yet acknowledged
(R242); `issued` counts the micro-ops issued; `waited` the waits of the oldest unissued one; `samples` are the samples outstanding, `sampled` those
complete and not yet written (R624); `tone` room tone (R528): when it started and its
filler level then, in 1/65536 of full current; `cueReached` says that the CUE at the program address has been reached (R291); `wakeRun` says that RUN has been set while the tile was not ON, and takes effect when it is; `wakes` counts its wakes
from OFF, after which its instruction memory is undefined until written (R510); `pairRest` the pairs formed since
the last 64 counted (R610). -/
structure Tile where
  im : Store W64
  ix : List Nat
  loops : List LoopLevel
  take : Option TakeRec
  targets : List Target16
  arrayQ : List QDesc
  chainQ : List QDesc
  dispQ : List QDesc
  moveQ : List Move
  sendQ : List SendItem
  signals : List SignalItem
  arr : List ArrRun
  drain : Option DrainBuf
  chn : List ChainRun
  dir : Store ListDir
  locks : List Nat
  shardLog : List ShardRec
  health : List (Nat × Nat × Health)
  wait : SeqWait
  arrivals : List Nat
  sendsOut : Nat
  issued : Nat
  tone : Option (Nat × Nat)
  cueReached : Bool
  failed : Option TakeFail
  rejects : List (Nat × Nat × Nat)
  samples : List SampleRec
  sampled : List (List Byte)
  sampleCount : Nat
  waited : Nat
  wakeRun : Bool
  wakes : Nat
  pairRest : Nat
deriving DecidableEq, Repr

/-- A tile with nothing in it: as after a tile reset, all 16 index registers 0 and nothing queued (R207, R230). -/
def Tile.empty : Tile :=
  { im := [], ix := List.replicate 16 0, loops := [], take := none, targets := [], arrayQ := [], chainQ := [], dispQ := []
    moveQ := [], sendQ := [], signals := [], arr := [], drain := none, chn := [], dir := [], locks := [], shardLog := []
    health := [], wait := .none, arrivals := [], sendsOut := 0, issued := 0, tone := none, cueReached := false, failed := none, rejects := [], samples := []
    sampled := [], sampleCount := 0, waited := 0, wakeRun := false, wakes := 0, pairRest := 0 }

end Sys2Proof.Machine
end

