-- ==== Sys2Proof/Machine/UpdState.lean ====
section
/-! DEFINITION. What the update die holds besides its registers and T2: the tables of the coefficient section (R308 to R310), each group's
step, bias powers and FROZEN flag, the command queue (R312, R313), and the commands in work. -/

namespace Sys2Proof.Machine

/-- A coefficient-table entry (R308, R309), with what changes of it while the job runs: STEP, the bias powers and FROZEN (R316, R321,
R339). -/
structure Group where
  frozen : Bool
  s2En : Bool
  bc1 : Bool
  bc2 : Bool
  polish : Bool
  polishBlock : Bool
  iters : Nat
  mirrorEn : Bool
  obj : Nat
  layer : Nat
  sub : Nat
  row0 : Nat
  rows : Nat
  cols : Nat
  pAddr : Nat
  s1Addr : Nat
  s2Addr : Nat
  gAddr : Nat
  curveAddr : Nat
  nEta : Nat
  nLam : Nat
  a1 : W32
  b1 : W32
  a2 : W32
  b2 : W32
  eps : W32
  sc : W32
  pp : W32
  pq : W32
  pr : W32
  nEps : W32
  conv : Conv
  repl0 : Nat
  nRepl : Nat
  nShard : Nat
  step : Nat
  bp1 : W32
  bp2 : W32
  resv : Bool
deriving DecidableEq, Repr

/-- A layer-table entry (R310). -/
structure LayerRow where
  layer : Nat
  first : Nat
  groups : Nat
  buckets : Nat
deriving DecidableEq, Repr

/-- A replica-table entry (R310). -/
structure ReplRow where
  key0 : Nat
  key1 : Nat
  flow : Nat
  off : Nat
deriving DecidableEq, Repr

/-- A mirror-table entry (R310), with the commits recorded since the job loaded it (R330): its latest committed step, and the step and the two bias
powers that each copy holds, the even one first. -/
structure MirrorRow where
  tgroup : Nat
  s2En : Bool
  rows : Nat
  cols : Nat
  ma0 : Nat
  ma1 : Nat
  step0 : Nat
  committed : Option Nat
  held0 : Option Nat
  held1 : Option Nat
  powers0 : W32 × W32
  powers1 : W32 × W32
deriving DecidableEq, Repr

/-- An update or snapshot command (R312). -/
structure UpdCmd where
  slate : Nat
  t : Nat
  first : Nat
  count : Nat
  key : Nat
  flow : Nat
  kind : Nat
  offset : Nat
deriving DecidableEq, Repr

/-- What a group in work does: an applied update with its results, or a no-op or refusal that copies the old version (R316, R317). -/
inductive GroupWork where
  | apply (g : Nat) (p s1 s2 : List W32)
  | copy (g : Nat)
  | nothing (g : Nat)
deriving DecidableEq, Repr

/-- The UPD command in work: the groups not yet taken up, in the order of their layers' presence; those still waiting for their layer; and
what has been raised or is to be done at its end (R313 to R323). `frozen` are the groups FROZEN at take-up (R319); `held` says that the copy
waits under R283; `cut` that RUN or a HOLD dropped the rest of the command; `spoiled` the words of the group in
work that an uncorrectable error in the die's SRAM has met (R579). -/
structure UpdRun where
  cmd : UpdCmd
  waiting : List Nat
  ready : List Nat
  frozen : List Nat
  work : Option GroupWork
  held : Bool
  cut : Bool
  stopCode : Nat
  nonfinRaised : Bool
  health : List (Nat × Health)
  spoiled : List Nat
deriving DecidableEq, Repr

/-- The SNAP command in work (R332, R333): the groups not yet sent, and the manifest records of those sent. -/
structure SnapRun where
  cmd : UpdCmd
  left : List Nat
  records : List (List Byte)
  next : Nat
deriving DecidableEq, Repr

/-- The update die. `present` holds the (layer, step) whose gradient has become present, in that order;
`closed` is the last step whose UPD command has completed; `buckets` the (layer, step, bucket) reported so far;
`mirroring` is off from the loss of port 8 to the first UPD command after its return (R331); `localCommits` counts, per object and
version, the groups of this module that have written it (R327). -/
structure Upd where
  groups : List Group
  layers : List LayerRow
  repls : List ReplRow
  mirrors : List MirrorRow
  queue : List UpdCmd
  run : Option UpdRun
  snap : Option SnapRun
  present : List (Nat × Nat)
  closed : Option Nat
  buckets : List (Nat × Nat × Nat)
  mirroring : Bool
  localCommits : List (Nat × Nat × Nat)
  lost : Bool
deriving DecidableEq, Repr

/-- An update die with no tables. -/
def Upd.empty : Upd :=
  { groups := [], layers := [], repls := [], mirrors := [], queue := [], run := none, snap := none, present := [], closed := none, buckets := []
    mirroring := true, localCommits := [], lost := false }

end Sys2Proof.Machine
end

