-- ==== Sys2Proof/Machine/State.lean ====
section
/-! DEFINITION. The state of the module as plain data, the reasons a step can stop, and the state right after power-on. -/

namespace Sys2Proof.Machine

/-- The state of the module. `time` is the device time counter in ns (R20); `regs` the registers that differ from their reset values, `shadows` the
RWS shadows (R12), `latches` and `holds` the read latches and holding registers of each master (R14); `mem` the bytes of the tiers, `undef` the ranges
whose content is undefined, counted by `epoch`; `poison0` to `poison2` the poison marks of T0 lines, T1 bursts and T2 bursts (R582); `events` the event
buffer, `evSeq` the module event count (R584); `out` what the module has given to the outside, newest first; `freeCount` the free values used; `phys` the
power states of the physical tiles (R510). `out`, `freeCount`, `epoch`, `undef` and `pending` are the model's own fields. -/
structure State where
  time : Nat
  regs : Store W32
  shadows : Store (Option W32)
  latches : Store (Option W32)
  holds : Store (Option W32)
  mem : Store Byte
  undef : List UndefRange
  epoch : Nat
  poison0 : Store Bool
  poison1 : Store Bool
  poison2 : Store Bool
  events : List Event
  evSeq : Nat
  out : List Out
  freeCount : Nat
  tiles : Store Tile
  phys : Store TilePower
  reel : Reel
  job : Option Job
  upd : Upd
  coll : Coll
  nrt : Nrt
  ports : Store Port
  hub : Hub
  host : HostIf
  cx : Cx
  pwr : Pwr
  rst : Rst
  pending : List Instr
deriving DecidableEq, Repr

/-- No command of this module stops on a fault: the spec gives every one of them an effect. -/
inductive Fault where
deriving DecidableEq, Repr

/-- Why a command is refused. -/
inductive Refusal where
  /-- Raised by an arm of `exec` whose command has no meaning yet, under its name in the table. Safe: nothing is said of it. -/
  | notModelled (mnemonic : String)
deriving DecidableEq, Repr

/-- The module right after power-on reset is asserted: the counter at 0, no content of T0, T1 and T2 defined, every tile OFF. -/
def State.reset : State :=
  { time := 0, regs := [], shadows := [], latches := [], holds := [], mem := []
    undef := [⟨0x40000000, 0x7FFFFFFF, 0, none⟩, ⟨0x1000000000, 0x33FFFFFFFF, 0, none⟩, ⟨0x4000000000, 0x7FFFFFFBFF, 0, none⟩], epoch := 0, poison0 := [], poison1 := []
    poison2 := [], events := [], evSeq := 0, out := [], freeCount := 0, tiles := [], phys := [], reel := Reel.empty, job := none
    upd := Upd.empty, coll := Coll.empty, nrt := Nrt.empty, ports := [], hub := Hub.empty
    host := HostIf.empty, cx := Cx.empty, pwr := Pwr.empty, rst := Rst.powerOn
    pending := [] }

end Sys2Proof.Machine
end

