-- ==== Sys2Proof/Machine/Act.lean ====
section
/-! DEFINITION. The elementary changes of the state, and programs of them: a meaning is a program that looks at the state and makes
elementary changes in order. Whatever a command does, it does through these. -/

namespace Sys2Proof.Machine

/-- The elementary changes. Those of a whole part (`nrt`, `hub`, `host`, `cx`, `pwr`, `rst`) leave its tables alone: the tables have changes of their
own. -/
inductive Act where
  | time (t : Nat)
  | reg (off : Nat) (v : W32)
  | shadow (off : Nat) (v : Option W32)
  | latch (key : Nat) (v : Option W32)
  | hold (key : Nat) (v : Option W32)
  | write (a : Nat) (bytes : List Byte)
  | undef (a n : Nat)
  | undefStack (k : Nat)
  | poison0 (k : Nat) (b : Bool)
  | poison1 (k : Nat) (b : Bool)
  | poison2 (k : Nat) (b : Bool)
  | event (e : Event)
  | dropEvents (n : Nat)
  | out (o : Out)
  | free
  | tile (n : Nat) (f : Tile → Tile)
  | phys (p : Nat) (v : TilePower)
  | reel (f : Reel → Reel)
  | job (f : Option Job → Option Job)
  | upd (f : Upd → Upd)
  | coll (f : Coll → Coll)
  | nrt (f : Nrt → Nrt)
  | port (n : Nat) (f : Port → Port)
  | hub (f : Hub → Hub)
  | host (f : HostIf → HostIf)
  | cx (f : Cx → Cx)
  | pwr (f : Pwr → Pwr)
  | rst (f : Rst → Rst)
  | cxm (h : Nat) (f : CxMod → CxMod)
  | clk (g : Nat) (f : GroupClk → GroupClk)
  | fn (n : Nat) (f : HFn → HFn)
  | msix (k : Nat) (v : W32)
  | msixDrop (n : Nat)
  | flow (n : Nat) (f : Flow → Flow)
  | sends (f : TxPkt → TxPkt)
  | key (i : Nat) (f : KeyEntry → KeyEntry)
  | keysClear
  | alloc (n g : Nat)
  | stream (n : Nat) (f : DlyStream → DlyStream)
  | flash (a : Nat) (bytes : List Byte)
  | reset (power : Bool)

/-- A program of elementary changes and looks at the state. -/
inductive Prog where
  | done
  | act (a : Act) (k : Prog)
  | get (k : State → Prog)

/-- The monad in which meanings are written. -/
abbrev M := ContT Prog Id

/-- One elementary change. -/
def act (a : Act) : M Unit := fun k => Prog.act a (k ())

/-- A look at the state. -/
def look {α : Type} (f : State → α) : M α := fun k => Prog.get (fun s => k (f s))

end Sys2Proof.Machine
end

