-- ==== Sys2Proof/Machine/Ops.lean ====
section
/-! DEFINITION. The named operations over the state: what each elementary change does, registers and their access rules (R8 to R14),
device memory with its undefined ranges and poison (R3, R7, R582), events (R584, R585), the tile's view of its scratchpad, and the
failing of a Take (R254). -/

namespace Sys2Proof.Machine

/-! Addresses. -/

/-- The bases of the regions of R3. -/
def baseT0 : Nat := 0x40000000
def baseT1 : Nat := 0x1000000000
def baseT2 : Nat := 0x4000000000

/-- The bytes of a line, and of a scratchpad. -/
def lineBytes : Nat := 96
def tileBytes : Nat := 32768 * 96

/-- Is the address in T1, and in T2? -/
def inT1 (a : Nat) : Bool := decide (baseT1 ≤ a) && decide (a < 0x3400000000)
def inT2 (a : Nat) : Bool := decide (baseT2 ≤ a) && decide (a < 0x7FFFFFFC00)

/-- The physical tile of a T0 address that lies in a scratchpad. -/
def physAt (a : Nat) : Option Nat :=
  if baseT0 ≤ a ∧ a < 0x80000000 then
    (let p := (a - baseT0) / 0x400000
     if p < 192 ∧ (a - baseT0) % 0x400000 < tileBytes then some p else none)
  else none

/-- Is the address that of a byte of storage (R3, R4)? -/
def storage (a : Nat) : Bool := inT1 a || inT2 a || (physAt a).isSome

/-- The start of a physical tile's window. -/
def physBase (p : Nat) : Nat := baseT0 + p * 0x400000

/-- The base that lines are counted from (R7). -/
def regionBase (a : Nat) : Nat := if baseT2 ≤ a then baseT2 else if baseT1 ≤ a then baseT1 else baseT0 + (a - baseT0) / 0x400000 * 0x400000

/-- Is the address on a line pair (R7)? The multiple of 192 is counted from the base of the region that holds the address. -/
def onPair (a : Nat) : Bool := decide ((a - regionBase a) % 192 = 0)

/-! Memory. -/

/-- Where the hub holds a T1 byte (R269): the stack, the pseudo-channel of the stack, and the 64-byte burst of the pseudo-channel. -/
structure T1Place where
  stack : Nat
  pseudo : Nat
  slot : Nat
deriving DecidableEq, Repr

def t1Map (a : Nat) : T1Place :=
  let off := a - baseT1
  let b := 3 * (off / 192 / 4) + off % 192 / 64
  ⟨off / 192 % 4, b % 32, b / 32⟩

/-- The stack of a T1 address. -/
def t1Stack (a : Nat) : Nat := (t1Map a).stack

/-- Where the update die holds a T2 byte (R271): the package, the x16 channel of the package, and the 32-byte burst of the channel. -/
structure T2Place where
  package : Nat
  channel : Nat
  slot : Nat
deriving DecidableEq, Repr

def t2Map (a : Nat) : T2Place :=
  let off := a - baseT2
  let b := 6 * (off / 192 / 8) + off % 192 / 32
  ⟨off / 192 % 8, b % 4, b / 4⟩

/-- Is an address in an undefined range? -/
def UndefRange.has (r : UndefRange) (a : Nat) : Bool :=
  decide (r.lo ≤ a) && decide (a ≤ r.hi) &&
    (match r.only with
      | none => true
      | some k => decide (t1Stack a = k))

/-- Unlisted memory reads as 0, but in an undefined range as a free byte. -/
def State.byte (s : State) (a : Nat) : Byte :=
  match s.undef.find? (·.has a) with
  | some r => Config.freeByte r.epoch a
  | none => Store.get (fun _ => 0) s.mem a

/-- n bytes at an address, and their little-endian number (R21). -/
def State.bytes (s : State) (a n : Nat) : List Byte := (List.range n).map (fun i => s.byte (a + i))
def State.le (s : State) (a n : Nat) : Nat := leNat (s.bytes a n)

/-- Take the addresses lo to hi out of a list of ranges. -/
def cutRanges (l : List UndefRange) (lo hi : Nat) : List UndefRange :=
  l.flatMap (fun r =>
    if hi < r.lo ∨ r.hi < lo then [r]
    else (if r.lo < lo then [{ r with hi := lo - 1 }] else []) ++ (if hi < r.hi then [{ r with lo := hi + 1 }] else []))

/-- Write bytes where there is storage; the rest is dropped. -/
def writeBytes (m : Store Byte) (a : Nat) (bs : List Byte) : Store Byte :=
  (bs.zipIdx).foldl (fun m p => if storage (a + p.2) then Store.set (fun _ => 0) m (a + p.2) p.1 else m) m

/-- Clear the marks of the units of u bytes, counted from `base`, that a write of n bytes at a covers whole (R582); `key` is the number of
the unit at `base`. -/
def clearWhole (st : Store Bool) (base u key a n : Nat) : Store Bool :=
  let first := ceilDiv (a - base) u
  let last := (a + n - base) / u
  Store.drop st (fun k => decide (key + first ≤ k) && decide (k < key + last))

/-- Is the line at a T0, T1 or T2 address marked poisoned (R582)? -/
def State.marked (s : State) (a : Nat) : Bool :=
  match physAt a with
  | some p => Store.get (fun _ => false) s.poison0 (p * 32768 + (a - physBase p) / 96)
  | none =>
    if inT1 a then
      let o := (a - baseT1) / 96 * 96
      Store.get (fun _ => false) s.poison1 (o / 64) || Store.get (fun _ => false) s.poison1 ((o + 95) / 64)
    else if inT2 a then
      let b := (a - baseT2) / 96 * 3
      Store.get (fun _ => false) s.poison2 b || Store.get (fun _ => false) s.poison2 (b + 1) ||
        Store.get (fun _ => false) s.poison2 (b + 2)
    else false

/-! Registers. -/

/-- The value of a register, and of a field. -/
def State.reg (s : State) (off : Nat) : W32 := Store.get regReset s.regs off
def State.fld (s : State) (f : Fld) : Nat := bitsOf (s.reg f.off).toNat (f.lo + f.width - 1) f.lo

/-- A value put into a field of a register's word. -/
def Fld.put (f : Fld) (w : W32) (v : Nat) : W32 :=
  let keep := w.toNat - bitsOf w.toNat (f.lo + f.width - 1) f.lo * 2 ^ f.lo
  BitVec.ofNat 32 (keep + v % 2 ^ f.width * 2 ^ f.lo)

/-- A 64-bit quantity held in a LO register and the HI register that follows it. -/
def State.reg64 (s : State) (lo : Nat) : Nat := (s.reg lo).toNat + (s.reg (lo + 4)).toNat * 2 ^ 32

/-! Elementary changes. -/

/-- Set the sequence number and time of an event, and give it a place among the waiting records: beyond 4,096 it is lost and counted
(R584, R588). -/
def addEvent (s : State) (e : Event) : State :=
  let e := { e with seq := s.evSeq % 256, time := s.time }
  let s := { s with evSeq := s.evSeq + 1 }
  if s.events.length < 4096 then { s with events := s.events ++ [e] }
  else
    let off := Reg.RAS_COUNT_LO 8
    let n := min (s.reg64 off + 1) (2 ^ 48 - 1)
    { s with regs := Store.set regReset (Store.set regReset s.regs off (BitVec.ofNat 32 n)) (off + 4) (BitVec.ofNat 32 (n / 2 ^ 32)) }

/-- The registers that a FULL reset keeps: the cause record and the RSTC counts in retained state (R547, R577), the operating hours with the voltage column in use (R516), FN_EPOCH, which is 0
only until the first ATTACH after power-on (R478), the publications of the topology table and the surveys since power-on (R52, R347). -/
def keptRegs : List Nat :=
  [Reg.RSTC_CAUSE, Reg.RSTC_CAUSE_TIME_LO, Reg.RSTC_CAUSE_TIME_HI, Reg.CLKG_HOURS, Reg.TOPO_GEN] ++
    (List.range 5).flatMap (fun n => [Reg.RSTC_COUNT_LO n, Reg.RSTC_COUNT_LO n + 4]) ++ (List.range 9).map Reg.FN_EPOCH

/-- Everything that a reset of FULL reach puts back, or with `power` one of POWER reach (R547): the whole module but the time counter and retained state.
The contents of the tiers are undefined afterwards, the option values and BAD records are kept under FULL. The waiting commands and what has been
given to the outside stand. -/
def resetAll (s : State) (power : Bool) : State :=
  let r := State.reset
  if power then
    { r with
      epoch := s.epoch + 1, undef := r.undef.map (fun u => { u with epoch := s.epoch + 1 })
      out := s.out, freeCount := s.freeCount, pending := s.pending
      rst := { r.rst with flash := s.rst.flash, torn := s.rst.torn, hardRepairs := s.rst.hardRepairs, nonces := s.rst.nonces } }
  else
    let opts := (List.range 16).map (fun i => 0x20000 + 4 * i)
    let keep := keptRegs ++ opts
    let survey := s.fld ⟨Reg.IDENT_SURVEY, 8, 8⟩
    let mods := (List.range 104).map (fun h => (h, (s.fld (Fl.CRAXIS_MOD_STATUS_BAD h))))
    let regs := keep.foldl (fun m k => Store.set regReset m k (s.reg k)) r.regs
    let regs := (List.range 12).foldl (fun m g =>
      Store.set regReset m (Reg.CLKG_GROUP g) (BitVec.ofNat 32 (s.fld (Fl.CLKG_GROUP_AGE g) * 16 + 64))) regs
    let regs := mods.foldl (fun m k =>
      Store.set regReset m (Reg.CRAXIS_MOD_STATUS k.1) (BitVec.ofNat 32 (0xFFC0 + k.2 * 65536))) regs
    { r with
      time := s.time, regs := Store.set regReset regs Reg.IDENT_SURVEY (BitVec.ofNat 32 (survey * 256))
      epoch := s.epoch + 1, undef := r.undef.map (fun u => { u with epoch := s.epoch + 1 })
      out := s.out, freeCount := s.freeCount, pending := s.pending
      cx := { r.cx with mods := (s.cx.mods.filter (fun e => decide (e.2.badSpares ≠ 0))).map (fun e => (e.1, { CxMod.empty with badSpares := e.2.badSpares })) }
      pwr := { r.pwr with frac := s.pwr.frac, neg := s.pwr.neg, usNs := s.pwr.usNs, ageNext := s.pwr.ageNext, tripAt := s.pwr.tripAt }
      rst := { s.rst with
        released := [], ready := [], stage := .none, restarts := [], twinLeft := 0, survey := [], firstSurvey := false
        opt := none, cfg := [], recBuf := [], recAddr := 0, recSize := 0, recRefused := false, recError := false, spdm := [], softRepairs := [] }
      host := { r.host with fns := [] } }

/-- What an elementary change does. -/
def Act.apply (x : Act) (s : State) : State :=
  match x with
  | .time t => { s with time := t % 2 ^ 64 }
  | .reg off v => { s with regs := Store.set regReset s.regs off (v &&& BitVec.ofNat 32 (implMask off)) }
  | .shadow off v => { s with shadows := Store.set (fun _ => none) s.shadows off v }
  | .latch k v => { s with latches := Store.set (fun _ => none) s.latches k v }
  | .hold k v => { s with holds := Store.set (fun _ => none) s.holds k v }
  | .write a bs =>
    if bs.isEmpty then s
    else
      { s with
        mem := writeBytes s.mem a bs
        undef := cutRanges s.undef a (a + bs.length - 1)
        poison0 := (match physAt a with
          | some p => clearWhole s.poison0 (physBase p) 96 (p * 32768) a bs.length
          | none => s.poison0)
        poison1 := if inT1 a then clearWhole s.poison1 baseT1 64 0 a bs.length else s.poison1
        poison2 := if inT2 a then clearWhole s.poison2 baseT2 32 0 a bs.length else s.poison2 }
  | .undef a n =>
    if n = 0 then s
    else
      { s with
        mem := Store.drop s.mem (fun k => decide (a ≤ k) && decide (k < a + n))
        undef := ⟨a, a + n - 1, s.epoch + 1, none⟩ :: cutRanges s.undef a (a + n - 1)
        epoch := s.epoch + 1 }
  | .undefStack k =>
    { s with
      mem := Store.drop s.mem (fun a => inT1 a && decide (t1Stack a = k))
      undef := ⟨baseT1, 0x33FFFFFFFF, s.epoch + 1, some k⟩ :: s.undef.filter (fun r => decide (r.only ≠ some k))
      poison1 := Store.drop s.poison1 (fun b => decide (b / 3 % 4 = k))
      epoch := s.epoch + 1 }
  | .poison0 k b => { s with poison0 := Store.set (fun _ => false) s.poison0 k b }
  | .poison1 k b => { s with poison1 := Store.set (fun _ => false) s.poison1 k b }
  | .poison2 k b => { s with poison2 := Store.set (fun _ => false) s.poison2 k b }
  | .event e => addEvent s e
  | .dropEvents n => { s with events := s.events.drop n }
  | .out o => { s with out := o :: s.out }
  | .free => { s with freeCount := s.freeCount + 1 }
  | .tile n f => { s with tiles := Store.update (fun _ => Tile.empty) s.tiles n f }
  | .phys p v => { s with phys := Store.set (fun _ => TilePower.off) s.phys p v }
  | .reel f => { s with reel := f s.reel }
  | .job f => { s with job := f s.job }
  | .upd f => { s with upd := f s.upd }
  | .coll f => { s with coll := f s.coll }
  | .nrt f => { s with nrt := { f s.nrt with flows := s.nrt.flows, keys := s.nrt.keys } }
  | .port n f => { s with ports := Store.update (fun _ => Port.empty) s.ports n f }
  | .hub f => { s with hub := { f s.hub with alloc := s.hub.alloc, streams := s.hub.streams } }
  | .host f => { s with host := { f s.host with fns := s.host.fns, msix := s.host.msix } }
  | .cx f => { s with cx := { f s.cx with mods := s.cx.mods } }
  | .pwr f => { s with pwr := { f s.pwr with groups := s.pwr.groups } }
  | .rst f => { s with rst := { f s.rst with flash := s.rst.flash } }
  | .cxm h f => { s with cx := { s.cx with mods := Store.update (fun _ => CxMod.empty) s.cx.mods h f } }
  | .clk g f => { s with pwr := { s.pwr with groups := Store.update (fun _ => GroupClk.empty) s.pwr.groups g f } }
  | .fn n f => { s with host := { s.host with fns := Store.update (fun _ => HFn.empty) s.host.fns n f } }
  | .msix k v => { s with host := { s.host with msix := Store.set msixReset s.host.msix k v } }
  | .msixDrop n => { s with host := { s.host with msix := Store.drop s.host.msix (fun k => decide (k / 1024 = n)) } }
  | .flow n f => { s with nrt := { s.nrt with flows := Store.update (fun _ => Flow.free) s.nrt.flows n f } }
  | .sends f => { s with nrt := { s.nrt with flows := s.nrt.flows.map (fun e => (e.1, { e.2 with tx := e.2.tx.map f })) } }
  | .key i f => { s with nrt := { s.nrt with keys := Store.update (fun _ => KeyEntry.free) s.nrt.keys i f } }
  | .keysClear => { s with nrt := { s.nrt with keys := [], lostKeys := [] } }
  | .alloc n g => { s with hub := { s.hub with alloc := Store.set (fun _ => 0) s.hub.alloc n g } }
  | .stream n f => { s with hub := { s.hub with streams := Store.update (fun _ => ⟨0, 0, none⟩) s.hub.streams n f } }
  | .flash a bs =>
    { s with rst := { s.rst with
      flash := bs.zipIdx.foldl (fun m b => Store.set Config.flashByte m (a + b.2) b.1) s.rst.flash
      torn := if bs.isEmpty then s.rst.torn else cutRanges s.rst.torn a (a + bs.length - 1) } }
  | .reset power => resetAll s power

/-- What a program does. -/
def Prog.run : Prog → State → State
  | .done, s => s
  | .act a k, s => k.run (a.apply s)
  | .get k, s => (k s).run s

/-- Run a meaning. -/
def M.run (m : M Unit) (s : State) : State := Prog.run (m (fun _ => Prog.done)) s

/-- A meaning's outcome: the next state. -/
def M.next (m : M Unit) (s : State) : Host.Outcome State Fault Refusal := .next (m.run s)

/-- The type of a command's meaning once its operands are given. -/
abbrev Meaning := State → Host.Outcome State Fault Refusal

/-! Register and field operations. -/

/-- Read and write a register; read, write, add to a field. -/
def getReg (off : Nat) : M W32 := look (·.reg off)
def setReg (off : Nat) (v : W32) : M Unit := act (.reg off v)
def getFld (f : Fld) : M Nat := look (·.fld f)
def setFld (f : Fld) (v : Nat) : M Unit := do
  let w ← getReg f.off
  setReg f.off (f.put w v)

/-- Set a one-bit field. -/
def setBit (f : Fld) : M Unit := setFld f 1

/-- Add n to a 48-bit count that saturates at 2^48 − 1 (R200 and its like). -/
def bump (lo : Nat) (n : Nat) : M Unit := do
  if n = 0 then return
  let v ← look (·.reg64 lo)
  let w := min (v + n) (2 ^ 48 - 1)
  setReg lo (BitVec.ofNat 32 w)
  setReg (lo + 4) (BitVec.ofNat 32 (w / 2 ^ 32))

/-- Add n to a field that saturates at its greatest value. -/
def bumpFld (f : Fld) (n : Nat) : M Unit := do
  let v ← getFld f
  setFld f (min (v + n) (2 ^ f.width - 1))

/-- A fresh free value. -/
def freeValue : M Nat := do
  let n ← look (·.freeCount)
  act .free
  pure (Config.freeValue n)

/-! Masters and events. -/

/-- Master codes of R585. -/
def mReel : Nat := 0xC0
def mColl : Nat := 0xC1
def mNrt : Nat := 0xC2
def mUpd : Nat := 0xC3
def mKeeper : Nat := 0xC4
def mStage : Nat := 0xC5
def mScrub : Nat := 0xC9

/-- The source of an event that names its requesting master (R585). -/
def masterSrc (m : Nat) : Nat × Nat :=
  if m ≤ 0xB3 then (1, m)
  else if m = mKeeper then (9, 0)
  else if 0xC5 ≤ m ∧ m ≤ 0xC8 then (0xA, m - 0xC5)
  else if 0xD0 ≤ m ∧ m ≤ 0xD8 then (8, m - 0xD0)
  else (0, m)

/-- Sources of R585: a hub unit, a logical tile, a physical tile, TW6U, a stack, a port, a Craxis module, a flow, a function, the keeper,
stage firmware. An event of the hub that belongs to no unit with a master code has a free index. -/
def srcUnit (m : Nat) : Nat × Nat := (0, m)
def srcHub : Nat × Nat := (0, Config.hubIndex)
def srcTile (n : Nat) : Nat × Nat := (1, n)
def srcPhys (p : Nat) : Nat × Nat := (2, p)
def srcUpd : Nat × Nat := (3, 0)
def srcStack (n : Nat) : Nat × Nat := (4, n)
def srcPort (n : Nat) : Nat × Nat := (5, n)
def srcLink (h : Nat) : Nat × Nat := (6, h)
def srcFlow (f : Nat) : Nat × Nat := (7, f)
def srcFn (f : Nat) : Nat × Nat := (8, f)
def srcKeeper : Nat × Nat := (9, 0)
def srcStage : Nat × Nat := (0xA, 0)

/-- An event with its base severity, no mark set. -/
def evOf (e : Ev) (src : Nat × Nat) (detail slate : Nat) : Event :=
  { code := e.code, sev := e.sev, rep := false, demotion := false, hw := false, seq := 0, kind := src.1, index := src.2
    detail := detail % 2 ^ 80, slate := slate, time := 0 }

/-! Programmable counters (R605 to R613). -/

/-- An occurrence with the attributes it carries (R608): the privilege bits, the master, whether its address lies in range 0 and in range 1
(for a tile both say that its program address passes), and the class bit. -/
structure Occ where
  priv : Option Nat
  master : Option Nat
  inRange : Option (Bool × Bool)
  cls : Option Nat
deriving DecidableEq, Repr

/-- Does a counter with these SEL and FILT words count the occurrence (R606 to R608)? -/
def Occ.counts (o : Occ) (ev sel filt : Nat) : Bool :=
  decide (bitsOf sel 7 0 = ev) && bitOf sel 8 &&
    (match o.priv with
      | some b => bitOf filt b
      | none => true) &&
    (match o.master with
      | some m => decide ((m ^^^ bitsOf filt 23 16) &&& bitsOf filt 31 24 = 0)
      | none => true) &&
    (match o.inRange with
      | some r => !bitOf sel 9 || (if bitOf sel 10 then r.2 else r.1)
      | none => true) &&
    (match o.cls with
      | some c => bitOf (bitsOf sel 23 16) c
      | none => true)

/-- Add n to the counter whose SEL register is at an offset: modulo 2^48, OVF set on a wrap (R606). -/
def pmuAdd (sel n : Nat) : M Unit := do
  let v ← look (·.reg64 (sel + 8))
  let w := v % 2 ^ 48 + n
  setReg (sel + 8) (BitVec.ofNat 32 w)
  setReg (sel + 12) (BitVec.ofNat 32 (w % 2 ^ 48 / 2 ^ 32))
  if 2 ^ 48 ≤ w then
    let x ← getReg sel
    setReg sel (x ||| 0x800)

/-- Count n occurrences in a block of counters. -/
def pmuCount (base count ev n : Nat) (o : Occ) : M Unit := do
  if n = 0 then return
  let hits ← look (fun s => (List.range count).filter (fun i =>
    o.counts ev (s.reg (base + 16 * i)).toNat (s.reg (base + 16 * i + 4)).toNat))
  for i in hits do pmuAdd (base + 16 * i) n

/-- The privilege bit of the job owner's guest. -/
def State.ownerBit (s : State) : Nat := 2 + (s.job.map (·.owner)).getD 0

/-- A tile event (R610). `pc` is the program address responsible, where the event carries one. -/
def pmuTile (n ev amount : Nat) (pc : Option Nat) (slate : Nat) (priv : Bool) : M Unit := do
  let own ← look (·.ownerBit)
  let r ← look (fun s => pc.map (fun p =>
    decide (s.fld (Fl.TILE_PMU_PCRANGE_LOW n) ≤ p) && decide (p ≤ s.fld (Fl.TILE_PMU_PCRANGE_HIGH n))))
  pmuCount (Reg.TILE_PMU_SEL n 0) 16 ev amount
    ⟨if priv then some own else none, some n, r.map (fun b => (b, b)), some (bitsOf slate 15 12)⟩

/-- A hub event (R611) with its attributes; `priv` none leaves the privilege out. -/
def pmuHub (ev amount : Nat) (priv master addr cls : Option Nat) : M Unit := do
  let r ← look (fun s => addr.map (fun a =>
    let inR := fun (r : Nat) => decide (s.reg64 (Reg.PMON_RANGE_BASE_LO r) ≤ a) && decide (a ≤ s.reg64 (Reg.PMON_RANGE_LIMIT_LO r))
    (inR 0, inR 1)))
  pmuCount (Reg.PMON_HUB_SEL 0) 64 ev amount ⟨priv, master, r, cls⟩

/-- Does a run of n bytes from an address lie in a selected range (R608, R631)? -/
def State.inPmonRange (s : State) (x : Nat × Nat) (r : Nat) : Bool :=
  decide (s.reg64 (Reg.PMON_RANGE_BASE_LO r) ≤ x.1) && decide (x.1 + x.2 ≤ s.reg64 (Reg.PMON_RANGE_LIMIT_LO r) + 1)

/-- Hub events of a request that touches several places, one occurrence for each: its address and its bytes, all of which are to lie in the range (R609). -/
def pmuHubEach (ev : Nat) (priv master cls : Option Nat) (places : List (Nat × Nat)) : M Unit := do
  if places.isEmpty then return
  let counts ← look (fun s => (List.range 64).map (fun i =>
    (i, (places.filter (fun x => (⟨priv, master, some (s.inPmonRange x 0, s.inPmonRange x 1), cls⟩ : Occ).counts ev
      (s.reg (Reg.PMON_HUB_SEL i)).toNat (s.reg (Reg.PMON_HUB_FILT i)).toNat)).length)))
  for c in counts.filter (fun c => decide (c.2 ≠ 0)) do pmuAdd (Reg.PMON_HUB_SEL c.1) c.2

/-- The line pairs that lines from an address touch in T1: each whole, or the one line of it that is touched alone (R270). -/
def pairsOf (a lines : Nat) : List (Nat × Nat) :=
  let l0 := (a - baseT1) / 96
  (List.range ((l0 + lines - 1) / 2 + 1 - l0 / 2)).map (fun i =>
    let p := l0 / 2 + i
    if 2 * p < l0 then (baseT1 + p * 192 + 96, 96) else if l0 + lines ≤ 2 * p + 1 then (baseT1 + p * 192, 96) else (baseT1 + p * 192, 192))

/-- Count hub traffic of whole lines (R611), with the attributes that its requester has: T1 reads or writes with lone lines, or T2 lines through link 5. -/
def trafficOf (write : Bool) (a lines : Nat) (priv master cls : Option Nat) : M Unit := do
  if lines = 0 then return
  if inT1 a then
    let ps := pairsOf a lines
    pmuHubEach (if write then 3 else 2) priv master cls ps
    pmuHubEach 4 priv master cls (ps.filter (fun x => decide (x.2 = 96)))
  else if inT2 a then
    pmuHubEach (if write then 7 else 6) priv master cls ((List.range lines).map (fun i => (a + i * 96, 96)))
def traffic (write : Bool) (a lines : Nat) (priv master cls : Nat) : M Unit := trafficOf write a lines (some priv) (some master) (some cls)

/-- The traffic of n bytes from an address: the lines they touch. -/
def byteTraffic (write : Bool) (a n : Nat) (priv master cls : Option Nat) : M Unit :=
  let o := a - regionBase a
  if n = 0 then pure () else trafficOf write (regionBase a + o / 96 * 96) ((o + n - 1) / 96 + 1 - o / 96) priv master cls

/-- An update-die event (R612). -/
def pmuUpd (ev amount : Nat) : M Unit := do
  let own ← look (·.ownerBit)
  pmuCount (Reg.PMON_UPD_SEL 0) 16 ev amount ⟨some own, none, none, none⟩

/-! Isolated stacks (R504). -/

/-- Does a line lie in a stack that is isolated? A line that does, or that is marked, is read as poisoned (R504, R582). -/
def State.isolatedLine (s : State) (a : Nat) : Bool := inT1 a && decide (s.fld (Fl.FWALL_STATUS_ISOLATED (t1Stack a)) = 1)
def State.poisoned (s : State) (a : Nat) : Bool := s.marked a || s.isolatedLine a

/-- Posted writes to a link's die that are dropped are counted. -/
def cxDropped (l n : Nat) : M Unit := act (.cx (fun c => { c with dropped := Store.update (fun _ => 0) c.dropped l (· + n) }))

/-- The lines that n bytes from an address touch, and the bytes of a write that fall in one of them: where they start, and they. -/
def linesOf (a n : Nat) : List Nat :=
  let o := a - regionBase a
  if n = 0 then [] else (List.range ((o + n - 1) / 96 + 1 - o / 96)).map (fun i => regionBase a + (o / 96 + i) * 96)
def partIn (a : Nat) (bs : List Byte) (l : Nat) : Nat × List Byte := (max a l, (bs.drop (l - a)).take (l + 96 - max a l))

/-- A write that the hub passes on: what goes to an isolated stack is dropped, and counted on that stack's link. -/
def tierWrite (a : Nat) (bs : List Byte) : M Unit := do
  let lost ← look (fun s => (linesOf a bs.length).filter s.isolatedLine)
  if lost.isEmpty then act (.write a bs)
  else
    for l in (linesOf a bs.length).filter (fun l => !lost.contains l) do act (.write (partIn a bs l).1 (partIn a bs l).2)
    for k in (lost.map (fun l => 1 + t1Stack l)).eraseDups do cxDropped k 1

/-- Bytes that a bandwidth monitor counts in the window in work (R614, R615). -/
def bwCount (m k : Nat) : M Unit := act (.hub (fun h => { h with bw := Store.update (fun _ => 0) h.bw m (· + k) }))

/-! Raising events. -/

/-- Raise a whole event record; the hub counts it (R611, EVENTS). -/
def raiseEvent (e : Event) : M Unit := do
  act (.event e)
  pmuHub 0x15 1 none none none (some e.sev)

/-- Raise an event. -/
def raise (e : Ev) (src : Nat × Nat) (detail slate : Nat) : M Unit := raiseEvent (evOf e src detail slate)

/-- Raise an event whose outcome stops the job: it carries STOP (R585). -/
def raiseStop (e : Ev) (src : Nat × Nat) (detail slate : Nat) : M Unit :=
  raiseEvent { evOf e src detail slate with sev := max e.sev 3 }

/-! Access rules of registers. -/

/-- Is the RUN bit that judges a register's static fields set (R13)? -/
def State.running (s : State) (h : RegHit) : Bool :=
  match h.run with
  | none => false
  | some f => decide (s.fld f ≠ 0)

/-- What a write does to a field (R8, R11, R13): the field's new value, and whether a refused change raises EV_CSR_PRIVILEGE or
EV_CONFIG_WHILE_RUNNING. An RWS field keeps its value here; its shadow is written apart. -/
structure FieldWrite where
  value : Nat
  privilege : Bool
  whileRunning : Bool
deriving DecidableEq, Repr

/-- The rule of one field. `running` is the RUN bit before the write. -/
def FieldSpec.write (f : FieldSpec) (master : Nat) (running : Bool) (old new : Nat) : FieldWrite :=
  let diff := decide (old ≠ new)
  match f.ty with
  | .ro => ⟨old, false, false⟩
  | .wo => ⟨0, false, false⟩
  | .rws => ⟨old, false, false⟩
  | .w1c => ⟨old - (old &&& new), false, false⟩
  | .w1a => ⟨if new ≠ 0 then 0 else old, false, false⟩
  | .rw => if f.static && running then ⟨old, false, diff⟩ else ⟨new, false, false⟩
  | .rwl =>
    if master ≠ mKeeper then ⟨old, diff, false⟩
    else if f.static && running then ⟨old, false, diff⟩ else ⟨new, false, false⟩

/-- A whole word written into a register: its new value and the events of the refused fields. -/
def RegSpec.write (r : RegSpec) (master : Nat) (running : Bool) (old new : Nat) : FieldWrite :=
  r.fields.foldl (fun a f =>
    let part := fun (x : Nat) => bitsOf x (f.lo + f.width - 1) f.lo
    let w := f.write master running (part old) (part new)
    ⟨a.value + w.value * 2 ^ f.lo, a.privilege || w.privilege, a.whileRunning || w.whileRunning⟩) ⟨0, false, false⟩

/-- Does the register hold an RWS field? -/
def RegSpec.hasRws (r : RegSpec) : Bool := r.fields.any (fun f => decide (f.ty = .rws))

/-- The value that takes effect in the RWS fields of a register: the shadow's bits there, the register's own elsewhere. -/
def RegSpec.applyShadow (r : RegSpec) (old shadow : Nat) : Nat :=
  r.fields.foldl (fun a f =>
    let part := fun (x : Nat) => bitsOf x (f.lo + f.width - 1) f.lo
    a + (if f.ty = .rws then part shadow else part old) * 2 ^ f.lo) 0

/-- Is the block of a register with RWS fields idle, so that a write takes effect at once (R8)? A tile's long accumulation is in work
while a descriptor occupies its array (R127); power and telemetry while a job's tiles have been set running (R538, R91, R259); a port sends whole frames (R403). -/
def State.blockIdle (s : State) (off : Nat) : Bool :=
  if 0x10000000 ≤ off then ((Store.get (fun _ => Tile.empty) s.tiles ((off - 0x10000000) / 0x10000)).arr.isEmpty)
  else if (0x30000 ≤ off ∧ off < 0x40000) ∨ (0xC00000 ≤ off ∧ off < 0xD00000) then
    (match s.job with
      | some j => !j.started
      | none => true)
  else true

/-- The key of a holding register or a read latch: one for each master and register (R14). -/
def masterKey (master off : Nat) : Nat := master * 2 ^ 32 + off

/-- Store a whole word into a register by the rules of its fields, with the events of refused fields and the shadow of RWS fields. -/
def commitReg (master : Nat) (h : RegHit) (off value : Nat) : M Unit := do
  let run ← look (·.running h)
  let old ← getReg off
  let w := h.spec.write master run old.toNat value
  setReg off (BitVec.ofNat 32 w.value)
  if w.privilege then raise Ev.csrPrivilege (masterSrc master) off 0
  if w.whileRunning then raise Ev.configWhileRunning (masterSrc master) (off + value % 2 ^ 32 * 2 ^ 32) 0
  if h.spec.hasRws then
    let idle ← look (·.blockIdle off)
    if idle then
      let now ← getReg off
      setReg off (BitVec.ofNat 32 (h.spec.applyShadow now.toNat value))
      act (.shadow off none)
    else act (.shadow off (some (BitVec.ofNat 32 value)))

/-- The registers that keeper firmware may only read (R572): those of the ports, NRT, the Reel, the collective engine, the update die, the tiles, and of event
routing. -/
def keeperReads (off : Nat) : Bool :=
  (decide (0x200000 ≤ off) && decide (off < 0x400000)) || (decide (0x700000 ≤ off) && decide (off < 0xA00000)) ||
  (decide (0xB00008 ≤ off) && decide (off < 0xB0001C)) || decide (0x10000000 ≤ off) ||
  (decide (0x101000 ≤ off) && decide (off < 0x10A000) && decide (0x100 ≤ off % 0x1000) && decide (off % 0x1000 < 0x110))

/-- A write `w` of a register by a master: from keeper firmware, of one that it may only read, it has no effect and is told of (R572). DEDUCED: the rule says
which registers it may read; the event is that of the same table's refused write of RSTC_STAGE_WDOG. -/
def byMaster (master off : Nat) (w : M Unit) : M Unit :=
  if master = mKeeper ∧ keeperReads off = true then raise Ev.csrPrivilege (masterSrc master) off 0 else w

/-- A whole-word write by a master (R8 to R14): LO fills the holding register of the master, HI commits both halves. An unassigned
offset is unmapped (R4). -/
def regWrite (master off value : Nat) : M Unit := do
  match findReg off with
  | none => raise Ev.unmappedAccess (masterSrc master) off 0
  | some h => byMaster master off (do
    match h.spec.kind with
    | .plain => commitReg master h off value
    | .lo => act (.hold (masterKey master off) (some (BitVec.ofNat 32 value)))
    | .hi =>
      let key := masterKey master (off - 4)
      let held ← look (fun s => Store.get (fun _ => none) s.holds key)
      match held, findReg (off - 4) with
      | some v, some l => commitReg master l (off - 4) v.toNat
      | _, _ => pure ()
      act (.hold key none)
      commitReg master h off value)

/-- Every pending shadow of the registers from lo to hi takes effect together (R12). -/
def applyShadows (lo hi : Nat) : M Unit := do
  let l ← look (fun s => s.shadows.filter (fun e => decide (lo ≤ e.1) && decide (e.1 < hi)))
  for e in l do
    match e.2, findReg e.1 with
    | some v, some h =>
      let now ← getReg e.1
      setReg e.1 (BitVec.ofNat 32 (h.spec.applyShadow now.toNat v.toNat))
      act (.shadow e.1 none)
    | _, _ => pure ()

/-! Memory and tiles. -/

/-- The bytes at an address; a write of a tile or the update die in its own memory. -/
def memBytes (a n : Nat) : M (List Byte) := look (·.bytes a n)
def memLe (a n : Nat) : M Nat := look (·.le a n)
def memWrite (a : Nat) (bs : List Byte) : M Unit := act (.write a bs)

/-- Mark the line at an address poisoned: the T0 line, the T1 burst that it alone touches (its other half is its partner's, R270), or its T2
bursts. -/
def poisonLine (a : Nat) : M Unit := do
  match physAt a with
  | some p => act (.poison0 (p * 32768 + (a - physBase p) / 96) true)
  | none =>
    if inT1 a then
      let o := (a - baseT1) / 96 * 96
      act (.poison1 (if o / 96 % 2 = 0 then o / 64 else (o + 95) / 64) true)
    else if inT2 a then
      let b := (a - baseT2) / 96 * 3
      act (.poison2 b true)
      act (.poison2 (b + 1) true)
      act (.poison2 (b + 2) true)

/-- A logical tile. -/
def State.tile (s : State) (n : Nat) : Tile := Store.get (fun _ => Tile.empty) s.tiles n
def getTile (n : Nat) : M Tile := look (·.tile n)
def modTile (n : Nat) (f : Tile → Tile) : M Unit := act (.tile n f)

/-- The physical tile of a logical tile, and the start of its scratchpad (R6). -/
def State.physOf (s : State) (n : Nat) : Nat := s.fld (Fl.RAS_TILEMAP_PHYS n)
def State.tileBase (s : State) (n : Nat) : Nat := physBase (s.physOf n)

/-- The logical tile that a physical tile serves, if any. -/
def State.logicalOf (s : State) (p : Nat) : Option Nat := (List.range 180).find? (fun n => decide (s.physOf n = p))

/-- What the units of a tile see of its scratchpad. -/
def State.tmem (s : State) (n : Nat) : TMem :=
  let p := s.physOf n
  { byte := fun o => s.byte (physBase p + o), bad := fun l => Store.get (fun _ => false) s.poison0 (p * 32768 + l) }
def tileMem (n : Nat) : M TMem := look (·.tmem n)

/-- The running job, if any. -/
def State.runJob (s : State) : Option Job := s.job.bind (fun j => if j.running then some j else none)

end Sys2Proof.Machine
end

