-- ==== Sys2Proof/Machine/Fmth.lean ====
section
/-! DEFINITION. Format health in the hub: the commits of counts into the two tables in T1 (R88, R89) and the close of a step (R90). -/

namespace Sys2Proof.Machine

/-- LAYERS in effect, and the bytes of one table (R89, R92). DESIGN CHOICE: a value above 4,096 reads back as written, and is taken as 4,096 where it is used. -/
def State.fmthLayers (s : State) : Nat := min (s.fld Fl.TELE_FMTH_CTRL_LAYERS) 4096
def State.fmthBytes (s : State) : Nat := s.fmthLayers * 1024

/-- Does the base in effect pass R93? -/
def State.fmthBaseOk (s : State) : Bool :=
  let b := s.reg64 Reg.TELE_FMTH_BASE_LO
  onPair b && inT1 b && decide (b + 2 * s.fmthBytes ≤ 0x3400000000)

/-- BADBASE reads whether the base in effect fails (R95). It is judged at a write of the block, at a commit and at a close: DESIGN CHOICE: until the first of them
after reset it reads the 0 that the table gives it, though base 0 fails R93. -/
def fmthSync : M Unit := do
  let ok ← look (·.fmthBaseOk)
  setFld Fl.TELE_FMTH_STATUS_BADBASE (if ok then 0 else 1)

/-- The table of a step's parity, and the address of its first entry. -/
def State.fmthTable (s : State) (step : Nat) : FmthTable := if step % 2 = 0 then s.hub.fmth0 else s.hub.fmth1
def State.fmthAddr (s : State) (step : Nat) : Nat :=
  s.reg64 Reg.TELE_FMTH_BASE_LO + (if step % 2 = 0 then 0 else s.fmthBytes)

/-- Set the held step of a step's parity. -/
def fmthHold (step : Nat) (closed : Bool) : M Unit :=
  act (.hub (fun h => if step % 2 = 0 then { h with fmth0 := ⟨some step, closed⟩ } else { h with fmth1 := ⟨some step, closed⟩ }))

/-- Zero the table of a step's parity. -/
def fmthZero (step : Nat) : M Unit := do
  let a ← look (·.fmthAddr step)
  let n ← look (·.fmthBytes)
  tierWrite a (List.replicate n 0)
  byteTraffic true a n none none none

/-- Add counts to one entry; each count saturates (R89). -/
def fmthAdd (a : Nat) (h : Health) : M Unit := do
  let b ← memBytes a 32
  let up := fun (off n x : Nat) => leBytes n (min (leAt b off n + x) (2 ^ (8 * n) - 1))
  tierWrite a (up 0 8 h.total ++ up 8 4 h.overflow ++ up 12 4 h.vanish ++ up 16 4 h.nar ++ up 20 4 h.subnormal ++
    up 24 4 h.zeroBlock ++ List.replicate 4 0)
  byteTraffic false a 32 none none none
  byteTraffic true a 32 none none none

/-- A commit of counts for a step (R88): RANGE first, then the base, then the held step. DESIGN CHOICE: ENABLE (R92) is judged at the commit, not when the counts
arise. -/
def fmthCommit (step : Nat) (key : Nat) (h : Health) : M Unit := do
  let en ← getFld Fl.TELE_FMTH_CTRL_ENABLE
  if en = 0 then return
  let layers ← look (·.fmthLayers)
  if layers ≤ key / 32 then setBit Fl.TELE_FMTH_STATUS_RANGE
  else
    fmthSync
    let ok ← look (·.fmthBaseOk)
    if ok then
      let t ← look (·.fmthTable step)
      let a ← look (·.fmthAddr step)
      let later := (match t.held with
        | none => true
        | some h => decide (h < step))
      if later then
        fmthZero step
        fmthHold step false
        fmthAdd (a + key * 32) h
      else if t.held = some step ∧ !t.closed then fmthAdd (a + key * 32) h
      else setBit Fl.TELE_FMTH_STATUS_LATE

/-- The Slate that carries a step, with micro-batch 0 and phase UPD (R90). -/
def updSlate (step : Nat) : Nat := step % 2 ^ 32 * 2 ^ 32 + 2 * 2 ^ 12

/-- The events that the close of a table at an address calls for, in order of entry offset (R90). DESIGN CHOICE: of the two events of one entry EV_FORMAT_OVERFLOW
comes first, which matters to the limit of 64. -/
def State.fmthJudge (s : State) (a : Nat) : List (Ev × Nat) :=
  let ovf := s.fld Fl.TELE_FMTH_THRESH_OVF_SHARE
  let van := s.fld Fl.TELE_FMTH_THRESH_VAN_SHARE
  (List.range (s.fmthLayers * 32)).flatMap (fun k =>
    let b := s.bytes (a + k * 32) 32
    let total := leAt b 0 8
    let bad := leAt b 8 4 + leAt b 16 4
    let lost := leAt b 12 4
    let name := k / 32 + k / 8 % 4 * 2 ^ 12 + k % 8 * 2 ^ 14
    (if ovf ≠ 0 ∧ total * ovf < bad * 65536 then [(Ev.formatOverflow, name + min bad (2 ^ 32 - 1) * 2 ^ 17)] else []) ++
      (if van ≠ 0 ∧ total * van < lost * 65536 then [(Ev.formatVanish, name + lost * 2 ^ 17)] else []))

/-- The table of a step closes (R88, R90), and then the pending writes of the block take effect (R91). -/
def fmthClose (step : Nat) : M Unit := do
  let t ← look (·.fmthTable step)
  let a ← look (·.fmthAddr step)
  let ok ← look (·.fmthBaseOk)
  setFld Fl.TELE_FMTH_STATUS_DROPPED 0
  if t.held.any (fun h => decide (step < h)) then setBit Fl.TELE_FMTH_STATUS_LATE
  else if t.held = some step then
    if ok then
      let evs ← look (·.fmthJudge a)
      for e in evs.take 64 do raise e.1 (srcHub) e.2 (updSlate step)
      setFld Fl.TELE_FMTH_STATUS_DROPPED (min (evs.length - 64) 255)
    fmthHold step true
  else
    if ok then fmthZero step
    fmthHold step true
  setFld Fl.TELE_FMTH_CLOSED_STEP step
  applyShadows 0xC00000 0xD00000
  fmthSync

end Sys2Proof.Machine
end

