-- ==== Sys2Proof/Machine/PwrOps.lean ====
section
/-! DEFINITION. Shared operations of the power controller and the clocks (R510 to R536): points and the holds on them, the cap, the budgets and LEARN's
phases, temperatures. -/

namespace Sys2Proof.Machine

/-- A physical tile's power state (R510). -/
def State.power (s : State) (p : Nat) : TilePower := Store.get (fun _ => TilePower.off) s.phys p

/-! Power domains (R509, R511). -/

/-- The separately switched power domains of the module. -/
inductive Domain where
  | tile (p : Nat)
  | mesh (k : Nat)
  | field (f : Nat)
  | port (n : Nat)
  | stackLink (k : Nat)
  | computeLink (f : Nat)
  | updLink | pcie
  | core (k : Nat)
  | nrt | collReel | sram | fabric | xspi
  | updLanes | updPolish | updSram | updT2 | updHub
  | aoClock | aoKeeper | aoMonitor
deriving DecidableEq, Repr

/-- All of them. -/
def Domain.all : List Domain :=
  let rest : List Domain :=
    [.updLink, .pcie, .nrt, .collReel, .sram, .fabric, .xspi, .updLanes, .updPolish, .updSram, .updT2, .updHub, .aoClock, .aoKeeper, .aoMonitor]
  (List.range 192).map Domain.tile ++ (List.range 6).map Domain.mesh ++ (List.range 3).map Domain.field ++ (List.range 9).map Domain.port ++
    (List.range 4).map Domain.stackLink ++ (List.range 3).map Domain.computeLink ++ (List.range 4).map Domain.core ++ rest

/-- What a domain can be. -/
inductive DomainState where
  | on | retention | off
deriving DecidableEq, Repr

/-- Is any tile of a reticle field ON or in RETAIN? A tile on its way to ON counts (DEDUCED). -/
def State.fieldInUse (s : State) (f : Nat) : Bool := (List.range 64).any (fun i => decide (s.power (64 * f + i) ≠ .off))

/-- The power state of a domain. R511 gives no condition under which the remaining domains of the hub and of TW6U are gated. -/
def State.domain (s : State) (d : Domain) : DomainState :=
  if !s.rst.powered then .off
  else
    match d with
    | .tile p =>
      match s.power p with
      | .off => .off
      | .retain => .retention
      | _ => .on
    | .mesh k => if s.fieldInUse (k / 2) then .on else .off
    | .field f => if s.fieldInUse f then .on else .off
    | .computeLink f => if s.fieldInUse f then .on else .off
    | .port n => if s.fld (Fl.MAC_STATUS_STATE n) = 0 then .off else .on
    | .core k => if Config.coreParked k s.time then .off else .on
    | .updLanes => if s.fld Fl.UPDT_CTRL_RUN = 0 then .retention else .on
    | .updPolish => if s.fld Fl.UPDT_CTRL_RUN = 0 then .retention else .on
    | .updSram => if s.fld Fl.UPDT_CTRL_RUN = 0 then .retention else .on
    | _ => .on

/-! Points (R513). -/

/-- The point frequencies in MHz. -/
def pointMhz : List Nat := [800, 900, 1000, 1100, 1200, 1300, 1400, 1450, 1500, 1550, 1600, 1650, 1700, 1750, 1800, 1900]

/-- The highest point whose frequency does not exceed a frequency; point 0 below them all (R536). -/
def mhzPoint (mhz : Nat) : Nat := (pointMhz.filter (fun f => decide (f ≤ mhz))).length - 1

/-- A tile group's clock, its point in force, a change. -/
def State.clk (s : State) (g : Nat) : GroupClk := Store.get (fun _ => GroupClk.empty) s.pwr.groups g
def State.point (s : State) (g : Nat) : Nat := s.fld (Fl.CLKG_GROUP_POINT g)
def modClk (g : Nat) (f : GroupClk → GroupClk) : M Unit :=
  act (.clk g f)

/-- The matched point, in matched mode (R536). -/
def State.matchPoint (s : State) : Option Nat :=
  if s.fld Fl.PWRM_CTRL_MATCHED = 1 then some (mhzPoint (s.fld Fl.CLKG_MATCH_MHZ)) else none

/-- The highest point that a group may have by everything but the cap: the matched point, a droop's bound, its sensors' hold. -/
def State.allowed (s : State) (g : Nat) : Nat :=
  let k := s.clk g
  let c := match k.ceiling with
    | some (p, t) => if s.time < t then p else 15
    | none => 15
  min (min ((s.matchPoint).getD 15) c) ((k.hot.map (·.1)).getD 15)

/-- MHZ follows: 0 while the PLL is stopped, half while the clock is stretched (R526); on the way down the frequency falls first. -/
def mhzSync (g : Nat) : M Unit := do
  let p ← look (·.point g)
  let k ← look (·.clk g)
  let off ← getFld (Fl.CLKG_GROUP_STOPPED g)
  let half ← getFld (Fl.CLKG_GROUP_STRETCHED g)
  let f := pointMhz.getD (min p (k.target.getD p)) 0
  setFld (Fl.CLKG_GROUP_MHZ g) (if off = 1 then 0 else if half = 1 then f / 2 else f)

/-- A group forced below the matched point: told of once in a step (R536). -/
def matchForced (p : Nat) : M Unit := do
  let mp ← look (·.matchPoint)
  let step ← look (fun s => (s.reg Reg.COLL_STEP).toNat)
  let last ← look (·.pwr.matchStep)
  if p < mp.getD 0 then
    setBit Fl.PWRM_STATUS_MATCH_LOST
    if last ≠ some step then
      act (.pwr (fun x => { x with matchStep := some step }))
      raise Ev.matchLost srcHub 0 0

/-- A group begins to change to a point. -/
def pointTo (g p : Nat) : M Unit := do
  modClk g (fun k => { k with target := some p })
  mhzSync g

/-- A group is lowered one point: from the point it is changing to, if any. -/
def pointDown (g : Nat) : M Nat := do
  let p ← look (fun s => ((s.clk g).target.getD (s.point g)) - 1)
  pointTo g p
  matchForced p
  pure p

/-- In matched mode every group whose PLL runs goes to the matched point, as far as nothing holds it below (R536). -/
def matchSync : M Unit := do
  let mp ← look (·.matchPoint)
  match mp with
  | none => pure ()
  | some mp =>
    for g in List.range 12 do
      let off ← getFld (Fl.CLKG_GROUP_STOPPED g)
      let p ← look (fun s => (s.clk g).target.getD (s.point g))
      let top ← look (·.allowed g)
      let k ← look (·.clk g)
      if off = 0 then
        if mp < p then pointTo g mp
        else if top < mp ∨ (k.bound ∧ p < mp) then matchForced (min top p)
        else if p < mp then pointTo g mp

/-- A tile group's PLL starts when a tile of the group is woken (R512); in matched mode it goes to the matched point (R536). -/
def clkStart (g : Nat) : M Unit := do
  let off ← getFld (Fl.CLKG_GROUP_STOPPED g)
  if off = 1 then
    setFld (Fl.CLKG_GROUP_STOPPED g) 0
    mhzSync g
    matchSync

/-- The activity of a tile group rises in stages from a level (R529). -/
def riseFrom (g level : Nat) : M Unit := do
  let now ← look (·.time)
  act (.pwr (fun p => { p with levels := (g, now, level) :: p.levels.filter (fun e => decide (e.1 ≠ g)) }))

/-- A physical tile is ON. If it was not, the PLL of its group runs, and the group's activity rises from 0 (R510, R512, R529). -/
def tileOn (p : Nat) : M Unit := do
  let st ← look (·.power p)
  if st ≠ .on then
    clkStart (p / 16)
    riseFrom (p / 16) 0
  act (.phys p .on)

/-- Is a group's rise still under way: 1/16 of full in a microsecond? -/
def State.rising (s : State) (e : Nat × Nat × Nat) : Bool := decide ((s.time - e.2.1) * 65536 < (65536 - e.2.2) * 16000)

/-! The cap and the budgets (R518 to R521). -/

/-- The cap in force in W (R518, R30). -/
def State.cap (s : State) : Nat :=
  let c := min (s.fld Fl.PWRM_CAP_CAP) (s.fld Fl.IDENT_CAP_CEILING_CEILING)
  max 300 (match s.pwr.effecter with
    | some e => min c e
    | none => c)

/-- The limits of the slot's 12 V and of both connectors that count now in W (R53). DESIGN CHOICE: an input back in range for less than the 1 s of R47
counts 0 W, and the power controller holds its draw to that (R31). -/
def State.limits (s : State) : List Nat :=
  [s.fld Fl.IDENT_SUPPLY_SLOT_LIMIT, s.fld Fl.IDENT_SUPPLY_CONN0_LIMIT, s.fld Fl.IDENT_SUPPLY_CONN1_LIMIT]

/-- Does the draw of the slot's 12 V or of a connector exceed its limit? Where that binds before the cap does, it governs (R31). -/
def State.inputOver (s : State) : Bool := (s.pwr.inputs.zip s.limits).any (fun e => decide (10 * e.2 < e.1))

/-- IN_FORCE follows. -/
def capSync : M Unit := do
  let c ← look (·.cap)
  setFld Fl.PWRM_CAP_IN_FORCE c

/-- Is LEARN at work, and does its table govern (R521, R525)? -/
def State.learns (s : State) : Bool := decide (s.fld Fl.PWRM_CTRL_MODE = 1 ∧ s.fld Fl.PWRM_STATUS_FALLBACK = 0)
def State.learned (s : State) : Bool := s.learns && decide (s.pwr.learnLeft = 0)

/-- LEARNING reads 1 while the table fills. -/
def learnSync : M Unit := do
  let b ← look (fun s => s.learns && decide (s.pwr.learnLeft ≠ 0))
  setFld Fl.PWRM_STATUS_LEARNING (if b then 1 else 0)

/-- The Reel phase (R521). -/
def State.phase (s : State) : Option Nat := s.hub.lastCue.map (fun c => c / 2 ^ s.fld Fl.PWRM_CTRL_PHASE_SHIFT % 256)

/-- What LEARN knows of a phase: nothing is known before its first visit. -/
def State.phaseOf (s : State) (p : Nat) : Phase := Store.get (fun _ => ⟨0, 0, 0⟩) s.pwr.learned p

/-- The budgets of COMPUTE, MEMORY, UPDATE and HUB in 0.1 W: learned demands with 5 % (R521), else the fixed fractions (R520); what sensors cut
from MEMORY and UPDATE (R532) goes to nobody. What HUB draws beyond its budget comes out of COMPUTE (R519). -/
def State.classBudgets (s : State) : List Nat :=
  let cap := 10 * s.cap
  let fixed := fun (f : Fld) => s.fld f * cap / 256
  let raisedTo := fun (c v : Nat) => max v (((s.pwr.raised.find? (fun e => decide (e.1 = c))).map (·.2)).getD 0)
  let cut := fun (c v : Nat) => v - v * s.pwr.cuts.getD c 0 / 8
  match (if s.learned then s.pwr.visit else none) with
  | some v =>
    let d := s.phaseOf v.phase
    let of := fun (x : Nat) => x * 105 / 100 / 65536
    let m := raisedTo 1 (of d.memory)
    let u := raisedTo 2 (of d.update)
    let h := raisedTo 3 (of d.hub)
    [cap - (m + u + h) - (s.pwr.draws.getD 3 0 - h), cut 0 m, cut 1 u, h]
  | none =>
    let m := fixed Fl.PWRM_FRAC_MEMORY
    let u := fixed Fl.PWRM_FRAC_UPDATE
    let h := fixed Fl.PWRM_FRAC_HUB
    [cap - (m + u + h) - (s.pwr.draws.getD 3 0 - h), cut 0 m, cut 1 u, h]
def budgetSync : M Unit := do
  let b ← look (·.classBudgets)
  act (.pwr (fun p => { p with budgets := b }))

/-- The voltage column in use, and the voltages in force (R515, R516). -/
def State.column (s : State) : Nat := s.fld (Fl.CLKG_GROUP_AGE 0)
def State.groupVoltage (s : State) (g p : Nat) : Nat := Config.groupMv g p (s.fld (Fl.CLKG_GROUP_AGE g))
def State.hubVoltage (s : State) : Nat := Config.hubMv s.column
def State.updVoltage (s : State) : Nat := Config.updMv s.column

/-- The point that a group has, or is changing to. -/
def State.toward (s : State) (g : Nat) : Nat := (s.clk g).target.getD (s.point g)

/-- Does the next point of a group fit: its estimate COMPUTE's budget, module power the cap, each input's draw its limit (R31, R519)? -/
def State.raiseFits (s : State) (g : Nat) : Bool :=
  let pt := s.toward g + 1
  decide (Config.nextEstimate g pt (s.groupVoltage g pt) (s.pwr.draws.getD 0 0) ≤ s.pwr.budgets.getD 0 0) && decide (s.pwr.governs ≤ 10 * s.cap) && !s.inputOver

/-- Does the budget hold a group below the highest point that all else allows it (R542): one it has lowered and not let up again, or one whose raise does not
fit? -/
def State.capHeld (s : State) (g : Nat) : Bool :=
  decide (s.fld (Fl.CLKG_GROUP_STOPPED g) = 0) && decide (s.toward g < s.allowed g) && ((s.clk g).bound || !s.raiseFits g)

/-- CAP_BOUND reads whether the budget holds any group. -/
def boundSync : M Unit := do
  let b ← look (fun s => (List.range 12).any s.capHeld)
  setFld Fl.PWRM_STATUS_CAP_BOUND (if b then 1 else 0)

/-- The shares that MEMORY and UPDATE are held to follow their draws and budgets (R519). -/
def shareSync : M Unit :=
  act (.pwr (fun p => { p with
    shares := (List.range 2).map (fun c => min 256 (Config.nextShare c (p.draws.getD (c + 1) 0) (p.budgets.getD (c + 1) 0) (p.shares.getD c 256))) }))

/-- The visit in work ends: the demands move 1/8 of the way toward its mean draws. -/
def visitEnd : M Unit := do
  let v ← look (·.pwr.visit)
  match v with
  | none => pure ()
  | some v =>
    if v.n ≠ 0 then
      let moved := fun (old sum : Nat) => old + sum * 65536 / v.n / 8 - old / 8
      act (.pwr (fun p => { p with learned := Store.update (fun _ => ⟨0, 0, 0⟩) p.learned v.phase (fun d =>
        ⟨moved d.memory v.memory, moved d.update v.update, moved d.hub v.hub⟩) }))
    act (.pwr (fun p => { p with visit := none, raised := [] }))

/-- Under LEARN a new Reel phase is entered (R521). -/
def phaseEntry : M Unit := do
  let on ← look (·.learns)
  let p ← look (·.phase)
  let v ← look (·.pwr.visit)
  match p with
  | none => pure ()
  | some p =>
    if on ∧ (v.map (·.phase)) ≠ some p then
      visitEnd
      act (.pwr (fun x => { x with visit := some ⟨p, 0, 0, 0, 0⟩ }))
      budgetSync

/-- LEARN starts again from an empty table (R521, R525); CAL_STEPS 0 is taken as 1 (R539). The opening of the step after them ends the filling. -/
def learnRestart : M Unit := do
  let n ← getFld Fl.PWRM_CTRL_CAL_STEPS
  act (.pwr (fun p => { p with learned := [], visit := none, raised := [], learnLeft := max n 1 + 1 }))
  setFld Fl.PWRM_STATUS_FALLBACK 0
  learnSync
  phaseEntry
  budgetSync

/-- A LEARN controller falls back to FIXED (R523, R524). -/
def learnFallback : M Unit := do
  let mode ← getFld Fl.PWRM_CTRL_MODE
  if mode = 1 then
    setFld Fl.PWRM_STATUS_FALLBACK 1
    act (.pwr (fun p => { p with visit := none, raised := [] }))
    learnSync
    budgetSync

/-- What the RWS fields of the power block in effect say is followed (R520, R521, R536). -/
def powerSync : M Unit := do
  learnSync
  budgetSync
  matchSync

/-- A step opens: the power block's operation boundary (R538), and LEARN counts it. -/
def powerStep : M Unit := do
  applyShadows 0x30000 0x40000
  act (.pwr (fun p => { p with learnLeft := p.learnLeft - 1 }))
  powerSync

/-! Temperatures (R531 to R534). -/

/-- The source of a sensor's events (R585). -/
def srcSensor (row index : Nat) : Nat × Nat := (0xB, row * 32 + index)

/-- The thresholds of R531 in 1/8 °C: throttle, warning, trip, for the rows that have one. -/
def sensorThrottle (row : Nat) : Option Int := if row ≤ 2 then some 760 else if row ≤ 4 then some 680 else none
def sensorWarn (row : Nat) : Option Int :=
  if row ≤ 2 then some 800 else if row ≤ 4 then some 720 else if row = 5 then some 320 else if row = 6 then some 440 else none
def sensorTrip (row : Nat) : Option Int := if row ≤ 2 then some 880 else if row ≤ 4 then some 800 else none

/-- A sensor's last reading. One that is overdue counts as at its throttle threshold. -/
def State.temp (s : State) (row index : Nat) : Option Int :=
  if s.pwr.overdue.contains (row, index) then sensorThrottle row
  else (s.pwr.temps.find? (fun e => decide (e.1 = row ∧ e.2.1 = index))).map (·.2.2)

/-- A reading in whole °C, as 8 bits. -/
def degrees (t : Int) : Nat := ((t / 8) % 256).toNat

/-- A warning applies: the outlet's only above 200 W of module power (R533). -/
def State.warns (s : State) (row : Nat) : Bool := decide (row ≠ 6) || decide (2000 < s.pwr.governs)

/-- The sensors with what they count as now: those that have reported, and those that are overdue and never have (R531). -/
def State.readings (s : State) : List (Nat × Nat × Int) :=
  s.pwr.temps.map (fun e => (e.1, e.2.1, (s.temp e.1 e.2.1).getD e.2.2)) ++
    (s.pwr.overdue.filter (fun e => !s.pwr.temps.any (fun t => decide ((t.1, t.2.1) = e)))).filterMap (fun e =>
      (sensorThrottle e.1).map (fun v => (e.1, e.2, v)))

/-- PWRM_THERM, THERM_WARN and THERM# follow the readings: THERM# holds until every sensor is 5 °C below its warning threshold. -/
def thermSync : M Unit := do
  let was ← look (·.pwr.therm)
  let all ← look (·.readings)
  let live ← look (fun s => all.filter (fun e => s.warns e.1))
  let above := live.filter (fun e =>
    match sensorWarn e.1 with
    | some w => decide (w < e.2.2)
    | none => false)
  let near := live.any (fun e =>
    match sensorWarn e.1 with
    | some w => decide (w - 40 < e.2.2)
    | none => false)
  let known ← look (·.pwr.warned)
  act (.pwr (fun p => { p with warned := above.map (fun e => (e.1, e.2.1)), therm := !above.isEmpty || (was && near) }))
  for e in above do
    if !known.contains (e.1, e.2.1) then raise Ev.thermalWarn (srcSensor e.1 e.2.1) 0 0
  let now ← look (·.pwr.therm)
  setFld Fl.PWRM_STATUS_THERM_WARN (if now then 1 else 0)
  let hot := (all.filter (fun e => decide (e.1 ≤ 4))).foldl (fun (b : Option (Nat × Nat × Int)) e =>
    match b with
    | some x => if x.2.2 < e.2.2 then some e else some x
    | none => some e) none
  match hot with
  | some e =>
    setFld Fl.PWRM_THERM_HOTTEST (degrees e.2.2)
    setFld Fl.PWRM_THERM_WHICH (e.1 * 32 + e.2.1)
  | none => pure ()
  for e in all do
    if e.1 = 5 then setFld Fl.PWRM_THERM_INLET (degrees e.2.2)
    if e.1 = 6 then setFld Fl.PWRM_THERM_OUTLET (degrees e.2.2)

/-- New readings: a report ends a sensor's being overdue. -/
def readTemps (l : List Temp) : M Unit := do
  for t in l do
    act (.pwr (fun p => { p with
      temps := (p.temps.filter (fun e => decide (e.1 < t.row ∨ (e.1 = t.row ∧ e.2.1 < t.index)))) ++ (t.row, t.index, t.value) ::
        p.temps.filter (fun e => decide (t.row < e.1 ∨ (e.1 = t.row ∧ t.index < e.2.1)))
      overdue := p.overdue.filter (fun e => decide (e ≠ (t.row, t.index))) }))
  thermSync

/-- The tile groups of a sensor's domain: its own group, or those of the field nearest to a hub sensor (R532). -/
def sensorGroups (row index : Nat) : List Nat :=
  if row = 0 then [index] else if row = 1 then (List.range 4).map (4 * (Config.hubField index % 3) + ·) else []

/-- The class whose budget a sensor cuts, by its place in `cuts`. -/
def sensorClass (row : Nat) : Option Nat := if row = 3 then some 0 else if row = 2 ∨ row = 4 then some 1 else none

/-- THROTTLED reads whether any hold is in force. -/
def throttleSync : M Unit := do
  let b ← look (fun s => s.pwr.groups.any (fun e => e.2.hot.isSome) || s.pwr.cuts.any (fun c => decide (c ≠ 0)))
  setFld Fl.PWRM_STATUS_THROTTLED (if b then 1 else 0)

/-! Operating hours (R516). -/

/-- The column that an hour count selects. -/
def ageColumn (hours : Nat) : Nat := if hours < Config.hours1 then 0 else if hours < Config.hours2 then 1 else 2

/-- A voltage column that waits takes effect. -/
def ageApply : M Unit := do
  let w ← look (·.pwr.ageNext)
  match w with
  | none => pure ()
  | some c =>
    for i in List.range 12 do setFld (Fl.CLKG_GROUP_AGE i) c
    act (.pwr (fun p => { p with ageNext := none }))

end Sys2Proof.Machine
end

