-- ==== Sys2Proof/Machine/ReelTab.lean ====
section
/-! DEFINITION. The tables of the Reel: the object table and its places (R272, R274, R279), the entries (R284), and where a transfer writes (R288, R292). -/

namespace Sys2Proof.Machine

/-! The object table. -/

/-- An object-table entry from its 64 bytes (R272). -/
def Obj.decode (b : List Byte) : Obj :=
  let w := fun (i : Nat) => leAt b (4 * i) 4
  { tier := bitsOf (w 0) 1 0, fmt := bitsOf (w 0) 4 2, sparse := bitsOf (w 0) 6 5, versioned := bitOf (w 0) 7, actTag := bitsOf (w 0) 9 8
    kind := bitsOf (w 0) 11 10, layer := bitsOf (w 1) 11 0, sub := bitsOf (w 1) 15 12, group := bitsOf (w 1) 31 16
    rows := bitsOf (w 2) 23 0, cols := bitsOf (w 3) 23 0, addr0 := bitsOf (leAt b 16 8) 47 0, addr1 := bitsOf (leAt b 24 8) 47 0
    size := bitsOf (leAt b 32 8) 39 0, ver0 := w 10, ver1 := w 11, nshard := bitsOf (leAt b 48 1) 6 0
    resv := decide (bitsOf (w 0) 31 12 ≠ 0) || decide (bitsOf (w 2) 31 24 ≠ 0) || decide (bitsOf (w 3) 31 24 ≠ 0) ||
      decide (bitsOf (leAt b 16 8) 63 48 ≠ 0) || decide (bitsOf (leAt b 24 8) 63 48 ≠ 0) || decide (bitsOf (leAt b 32 8) 63 40 ≠ 0) ||
      bitOf (leAt b 48 1) 7 || decide (leAt b 49 15 ≠ 0) }

/-- A Reel entry from its 32 bytes (R284). -/
def ReelEntry.decode (b : List Byte) : ReelEntry :=
  let two := fun (o : Nat) => leAt b o 2
  { obj := two 0, cue := two 2, start := two 4, tile0 := leAt b 6 1, ntm1 := leAt b 7 1, srcOff := leAt b 8 4
    lines := bitsOf (two 12) 14 0, bcast := bitOf (two 12) 15, destLine := bitsOf (two 14) 14 0, dtierT1 := bitOf (two 14) 15
    mbStride := bitsOf (leAt b 16 4) 23 0, mbAdv := bitsOf (leAt b 16 4) 28 24, deadline := two 20, fallback := bitsOf (leAt b 22 1) 1 0
    alt := bitOf (leAt b 22 1) 2, rskip := bitsOf (two 24) 12 0, dobj := two 26, doff := leAt b 28 4
    resv := decide (bitsOf (leAt b 16 4) 31 29 ≠ 0) || decide (bitsOf (leAt b 22 1) 7 3 ≠ 0) || decide (leAt b 23 1 ≠ 0) ||
      decide (bitsOf (two 24) 15 13 ≠ 0) }

/-- The version value of a place that holds none (R279). -/
def noVer : Nat := 0xFFFFFFFF

/-- An object of the running job: from the hub's own copy, or before there is one from the table in T1 (R274). -/
def State.objAt (s : State) (o : Nat) : Obj :=
  match s.reel.objects[o]? with
  | some x => x
  | none => Obj.decode (s.bytes (s.reg64 Reg.REEL_OT_BASE_LO + 64 * o) 64)

/-- The number of objects of the table. -/
def State.objCount (s : State) : Nat := s.fld Fl.REEL_OT_COUNT_COUNT

/-- The objects of the table: of the hub's own copy, or while the copy is on its way of the table in T1 (R274). -/
def State.tableObjects (s : State) : List Obj :=
  if s.reel.copying then (List.range s.objCount).map (fun i => Obj.decode (s.bytes (s.reg64 Reg.REEL_OT_BASE_LO + 64 * i) 64)) else s.reel.objects

/-- The place of a version, its address and its VER (R279). -/
def Obj.addr (o : Obj) (v : Nat) : Nat := if o.versioned ∧ v % 2 = 1 then o.addr1 else o.addr0
def Obj.ver (o : Obj) (v : Nat) : Nat := if v % 2 = 0 then o.ver0 else o.ver1

/-- An entry of the table. -/
def State.entry (s : State) (e : Nat) : ReelEntry := (s.reel.entries[e]?).getD (ReelEntry.decode [])

/-- The destination of a transfer: a T0 or T1 byte address (R288). -/
def State.xferDst (s : State) (x : Xfer) : Nat :=
  let e := s.entry x.entry
  if e.dtierT1 then (s.objAt e.dobj).addr0 + (e.doff + x.mb % 32 * e.mbStride) * 96 else s.tileBase x.tile + e.destLine * 96

/-- The first line of the skip table (R217, R227): bit 0 of SKIP_LINE is taken as 0. -/
def State.skipTable (s : State) (n : Nat) : Nat := s.fld (Fl.TILE_DSP_CTRL_SKIP_LINE n) / 2 * 2

/-- The locked skip records of the scratchpad that holds an address, each as its first and last byte address (R219). -/
def State.lockedBytes (s : State) (a : Nat) : List (Nat × Nat) :=
  match physAt a with
  | none => []
  | some p =>
    match s.logicalOf p with
    | none => []
    | some n => (s.tile n).locks.map (fun m =>
        let b := physBase p + (s.skipTable n + 2 * m) * 96
        (b, b + 191))

/-- Work stopped in the midst of writing n bytes at an address leaves them undefined, but for locked skip records, which it could not write (R219, R255,
R292). -/
def undefDev (a n : Nat) : M Unit := do
  if n = 0 then return
  let ls ← look (·.lockedBytes a)
  for r in ls.foldl (fun (l : List UndefRange) k => cutRanges l k.1 k.2) [⟨a, a + n - 1, 0, none⟩] do act (.undef r.lo (r.hi + 1 - r.lo))

/-- An abandoned transfer leaves its destination lines with undefined content: which of them it had completed is not told (R292). -/
def abandonXfer (x : Xfer) : M Unit := do
  if x.st = .queued then
    let e ← look (·.entry x.entry)
    let d ← look (·.xferDst x)
    undefDev d ((e.lines + 1) * 96)

end Sys2Proof.Machine
end

