-- ==== Sys2Proof/Machine/TileOps.lean ====
section
/-! DEFINITION. Shared operations of a tile: the Slate, the failing of a descriptor and of a Take (R254), the stopping of a job (R587),
writes into a scratchpad with the overwrite rules (R138, R195) and the skip-record locks (R219), and copies of lines with their poison. -/

namespace Sys2Proof.Machine

/-! The Slate (R15). -/

def slateStep (x : Nat) : Nat := bitsOf x 63 32
def slateMb (x : Nat) : Nat := bitsOf x 31 20
def slateTake (x : Nat) : Nat := bitsOf x 19 16
def slatePhase (x : Nat) : Nat := bitsOf x 15 12
def slateStage (x : Nat) : Nat := bitsOf x 11 4
def mkSlate (step mb take phase stage : Nat) : Nat :=
  step % 2 ^ 32 * 2 ^ 32 + mb % 4096 * 2 ^ 20 + take % 16 * 2 ^ 16 + phase % 16 * 2 ^ 12 + stage % 256 * 16

/-- A Slate as a receiver reads it: bits [3:0] are ignored. -/
def slateRead (x : Nat) : Nat := x / 16 * 16

/-- A tile's current Slate (R264). -/
def State.slate (s : State) (n : Nat) : Nat := s.reg64 (Reg.TILE_SEQ_SLATE_LO n)
def setSlate (n x : Nat) : M Unit := do
  setReg (Reg.TILE_SEQ_SLATE_LO n) (BitVec.ofNat 32 x)
  setReg (Reg.TILE_SEQ_SLATE_LO n + 4) (BitVec.ofNat 32 (x / 2 ^ 32))

/-- The job's rounding seed (R83), 0 when no job is loaded. -/
def State.jobSeed (s : State) : Nat := (s.job.map (·.seed)).getD 0

/-- The stochastic-rounding bits of a conversion word under a Slate (R83, R84). -/
def srOf (seed slate : Nat) (c : Conv) (row col : Nat) : Nat := srBits seed slate c.layer c.sub c.cls row col

/-! Sequencer states (R262). -/

def seqIdle : Nat := 0
def seqIssuing : Nat := 1
def seqWaiting : Nat := 2
def seqAborting : Nat := 3
def seqFault : Nat := 4
def seqEnded : Nat := 5

/-- A tile's queues and queued sends discarded (R261, R255). Running descriptors go on. -/
def Tile.discardQueued (t : Tile) : Tile :=
  { t with arrayQ := [], chainQ := [], dispQ := [], moveQ := [], sendQ := [], signals := [] }

/-- Everything a tile runs stopped as well. -/
def Tile.stopAll (t : Tile) : Tile := { t.discardQueued with arr := [], drain := none, chn := [] }

/-! Room tone (R528, R529). -/

/-- Room tone starts on a tile: its filler level is the tile's activity over the previous 10 µs, which is a free value of at most full current. -/
def toneStart (n : Nat) : M Unit := do
  let t ← getTile n
  if t.tone.isNone then
    let a ← freeValue
    let now ← look (·.time)
    modTile n (fun t => { t with tone := some (now, a % 65537) })

/-- The filler level of a tile: it falls linearly to 0 over ROOM_US, taken as 50 when below. -/
def State.toneLevel (s : State) (n : Nat) : Nat :=
  match (s.tile n).tone with
  | none => 0
  | some (t0, a) => a - a * (s.time - t0) / (max (s.fld Fl.PWRM_CTRL_ROOM_US) 50 * 1000)

/-- Room tone ends on a tile: the group's activity may rise from the level in force (R529). -/
def toneEnd (n : Nat) : M Unit := do
  let t ← getTile n
  if t.tone.isSome then
    let l ← look (·.toneLevel n)
    let g ← look (fun s => s.physOf n / 16)
    riseFrom g l
    modTile n (fun t => { t with tone := none })

/-- SWAP_ARMED reads whether a planned swap waits, SWAP_BUSY whether one is in progress (R603). -/
def swapSync : M Unit := do
  let h ← look (·.hub)
  setFld Fl.RAS_STATUS_SWAP_ARMED (if h.swapArmed.isEmpty then 0 else 1)
  setFld Fl.RAS_STATUS_SWAP_BUSY (if h.swapping.isEmpty then 0 else 1)

/-- A tile that leaves its Clapper otherwise than by its release ends the swap in progress for it; a swap armed for it waits for its next arrival (R592). -/
def swapLeave (n : Nat) : M Unit := do
  let on ← look (·.hub.swapping.contains n)
  if on then
    act (.hub (fun h => { h with swapping := h.swapping.filter (fun x => decide (x ≠ n)) }))
    swapSync

/-- RUN of a tile cleared: it stops issuing, discards its queued work, and begins room tone (R261, R528). The counts of the Take that is cut short, which never
completes, are discarded (R87). -/
def tileStop (n : Nat) : M Unit := do
  let was ← getFld (Fl.TILE_SEQ_CTRL_RUN n)
  setFld (Fl.TILE_SEQ_CTRL_RUN n) 0
  setFld (Fl.TILE_DSP_STATUS_BUSY n) 0
  modTile n (fun t => { t.discardQueued with wait := .none, failed := none, cueReached := false, wakeRun := false, health := [] })
  swapLeave n
  if was ≠ 0 then toneStart n
  let st ← getFld (Fl.TILE_SEQ_STATUS_STATE n)
  if st ≠ seqFault then setFld (Fl.TILE_SEQ_STATUS_STATE n) seqIdle

/-- The Reel's transfers abandoned (R300). -/
def reelStop : M Unit := do
  let xs ← look (·.reel.xfers)
  for x in xs do abandonXfer x
  act (.reel (fun r => { r with ready := false, copying := false, xfers := [], takeRecord := [] }))
  setFld Fl.REEL_CTRL_RUN 0
  setFld Fl.REEL_STATUS_BUSY 0
  setFld Fl.REEL_STATUS_INFLIGHT 0

/-- The die finishes the group in progress and drops the rest of its command and its queue (R336, R369). -/
def updDrop : M Unit := do
  act (.upd (fun u => { u with
    queue := [], snap := none
    run := (match u.run with
      | some r => (match r.work with
        | some _ => some { r with waiting := [], ready := [], cut := true }
        | none => none)
      | none => none) }))
  setFld Fl.UPDT_STATUS_QUEUED 0
  let u ← look (·.upd)
  if u.run.isNone then setFld Fl.UPDT_STATUS_BUSY 0

/-- RUN of the update die cleared. -/
def updStop : M Unit := do
  setFld Fl.UPDT_CTRL_RUN 0
  updDrop

/-- RUN of the collective engine cleared: every bucket is dropped, heartbeats stop (R376). -/
def collStop : M Unit := do
  setFld Fl.COLL_CTRL_RUN 0
  act (.coll (fun c => { c with runs := [], chunks := [], later := [], gradHeld := [] }))

/-- A running job stops: the RUN bits that START_JOB sets are cleared, and EV_JOB_STOPPED is raised once with the code of the cause
(R464, R587). With no job running, the power and telemetry blocks stand at a boundary (R538, R91). -/
def stopJob (code : Nat) : M Unit := do
  let j ← look (·.runJob)
  if j.isSome then
    act (.job (Option.map (fun j => { j with running := false, started := false, stopped := j.started })))
    for n in List.range 180 do
      let run ← getFld (Fl.TILE_SEQ_CTRL_RUN n)
      if run ≠ 0 then tileStop n
    reelStop
    updStop
    collStop
    applyShadows 0x30000 0x40000
    applyShadows 0xC00000 0xD00000
    powerSync
    fmthSync
    raise Ev.jobStopped srcHub code 0

/-- The number of the Take a tile is in, and the Slate of its open Take: the one recorded at TAKE_BEGIN with that number (R246, R252). -/
def State.takeNo (s : State) (n : Nat) : Nat := slateTake (s.slate n)
def State.takeSlate (s : State) (n : Nat) : Nat :=
  match (s.tile n).take with
  | some r => mkSlate (slateStep r.slate) (slateMb r.slate) (s.takeNo n) (slatePhase r.slate) (slateStage r.slate)
  | none => s.slate n

/-- The open Take of a tile fails: TAKE_FAILED is set, EV_TAKE_FAILED raised with the Take's Slate, and the Take controller told once
(R254, R255). Every rejection is kept with the number of its Take, whatever failed the Take first. -/
def failTake (n pc line : Nat) (rejected swap : Bool) : M Unit := do
  if rejected then
    let k ← look (·.takeNo n)
    modTile n (fun t => { t with rejects := (pc, line, k) :: t.rejects.filter (fun x => decide (k ≤ x.2.2 + 1)) })
  let t ← getTile n
  if t.failed.isNone then
    let slate ← look (·.takeSlate n)
    modTile n (fun t => { t with failed := some ⟨slate, swap⟩ })
    setBit (Fl.TILE_SEQ_STATUS_TAKE_FAILED n)
    raise Ev.takeFailed (srcTile n) 0 slate
    pmuTile n 0x14 1 none slate false

/-- A cause of R254 on a tile: it fails the open Take, or stops the job when none is open. A rejection at the program address and line of one
in the Take before stops the job at once, with the REPEAT mark. -/
def failUnit (n : Nat) (e : Ev) (slate detail pc line : Nat) (rejected : Bool) : M Unit := do
  let t ← getTile n
  let k ← look (·.takeNo n)
  if t.take.isNone then
    raiseStop e (srcTile n) detail slate
    stopJob e.code
  else if rejected ∧ t.rejects.any (fun x => decide (x.1 = pc ∧ x.2.1 = line ∧ x.2.2 + 1 = k)) then
    raiseEvent { evOf e (srcTile n) detail slate with sev := 3, rep := true }
    stopJob e.code
  else
    raise e (srcTile n) detail slate
    failTake n pc line rejected false

/-! Writes into a scratchpad. -/

/-- Who writes into a scratchpad (R138, R195). -/
inductive Writer where
  | array | chain | other
deriving DecidableEq, Repr

/-- The first and last stored row of an XLIST operand among the entries taken (R137). -/
def ArrRun.xSpan (r : ArrRun) : Option (Nat × Nat) :=
  match r.xrows with
  | [] => none
  | h :: t => some (t.foldl min h, t.foldl max h)

/-- The descriptor of a run, with M as taken under R160. -/
def ArrRun.desc (r : ArrRun) : ADesc := { ADesc.decode r.q.bytes with m := r.m }

/-- The spans of an array run, and of a chain run's inputs and mask. -/
def ArrRun.spans (r : ArrRun) : List (Nat × Nat) := r.desc.readSpans r.xSpan ++ r.desc.writeSpans
def ChainRun.inSpans (r : ChainRun) : List (Nat × Nat) := (CDesc.decode r.q.bytes).readSpans

/-- The overwrite rules for a write of lines lo to hi by `who` (R138, R195): the runs it hits for the first time. DESIGN CHOICE: a descriptor that has been taken
up but still waits under R137 or R194 does not run yet, so a write into its spans overwrites nothing. -/
def hitArr (who : Writer) (lo hi : Nat) (r : ArrRun) : Bool :=
  decide (who ≠ .array) && !r.waiting && !r.overwritten && spansMeet [(lo, hi)] r.spans
def hitChn (who : Writer) (lo hi : Nat) (r : ChainRun) : Bool :=
  decide (who ≠ .chain) && !r.waiting && !r.overwritten && spansMeet [(lo, hi)] r.inSpans

/-- Note the running descriptors that a write overwrites. A step in which that happens leaves the reproducibility statement (R374). -/
def noteOverwrite (who : Writer) (n lo hi : Nat) : M Unit := do
  let t ← getTile n
  for r in t.arr.filter (hitArr who lo hi) do
    setBit (Fl.TILE_ARR_STATUS_OVERWRITE n)
    setBit Fl.COLL_STATUS_INEXACT
    raise Ev.operandOverwrite (srcTile n) 0 r.q.slate
  for r in t.chn.filter (hitChn who lo hi) do
    setBit (Fl.TILE_CHN_STATUS_OVERWRITE n)
    setBit Fl.COLL_STATUS_INEXACT
    raise Ev.operandOverwrite (srcTile n) 0 r.q.slate
  if t.arr.any (hitArr who lo hi) || t.chn.any (hitChn who lo hi) then
    modTile n (fun t => { t with
      arr := t.arr.map (fun r => if hitArr who lo hi r then { r with overwritten := true } else r)
      chn := t.chn.map (fun r => if hitChn who lo hi r then { r with overwritten := true } else r) })

/-- The bytes of a scratchpad offset range that lie in no locked skip record, as runs. -/
def unlockedRuns (skip : Nat) (locks : List Nat) (off : Nat) (bs : List Byte) : List (Nat × List Byte) :=
  let isLocked := fun (o : Nat) => locks.any (fun m => decide ((skip + 2 * m) * 96 ≤ o) && decide (o < (skip + 2 * m + 2) * 96))
  bs.zipIdx.foldr (fun p acc =>
    let o := off + p.2
    if isLocked o then acc
    else match acc with
      | [] => [(o, [p.1])]
      | (a, l) :: t => if a = o + 1 then (o, p.1 :: l) :: t else (o, [p.1]) :: (a, l) :: t) []

/-- A write into a tile's scratchpad: what falls into a locked skip record is dropped, with EV_SKIP_MAP_LATE (R219); overwritten
descriptors are noted; the rest is stored. -/
def writeTile (who : Writer) (n slate off : Nat) (bs : List Byte) : M Unit := do
  if bs.isEmpty then return
  let t ← getTile n
  let skip ← look (·.skipTable n)
  let base ← look (·.tileBase n)
  let a := off / 96
  let b := (off + bs.length - 1) / 96
  if t.locks.any (fun m => decide (skip + 2 * m ≤ b) && decide (a ≤ skip + 2 * m + 1)) then
    setBit (Fl.TILE_DSP_STATUS_LATE n)
    raise Ev.skipMapLate (srcTile n) 0 slate
    noteOverwrite who n a b
    for r in unlockedRuns skip t.locks off bs do memWrite (base + r.1) r.2
  else
    noteOverwrite who n a b
    memWrite (base + off) bs

/-- A list of unit writes. -/
def writeAll (who : Writer) (n slate : Nat) (ws : List Wr) : M Unit := do
  for w in ws do writeTile who n slate w.off w.bytes

/-- A write at a device address by something other than a tile's own units: into a tile in service it follows the tile's rules; a write to
no storage is dropped. -/
def writeDev (slate a : Nat) (bs : List Byte) : M Unit := do
  match physAt a with
  | none => tierWrite a bs
  | some p =>
    let n ← look (·.logicalOf p)
    match n with
    | some n => writeTile .other n slate (a - physBase p) bs
    | none => tierWrite a bs

/-- Does a device address lie in a locked skip record of a tile in service (R219)? -/
def State.lockedAt (s : State) (a : Nat) : Bool := (s.lockedBytes a).any (fun r => decide (r.1 ≤ a) && decide (a ≤ r.2))

/-- The burst that the two lines of a T1 pair share (R270) has new data in every byte once both have been written: its mark is cleared, unless one of
the lines brought poison (R582). -/
def clearMiddle (pair : Nat) : M Unit := act (.poison1 ((pair - baseT1) / 64 + 1) false)

/-- Copy one line to a device address, its poison with it (R582), unless the line is locked and the write dropped (R219). -/
def copyLine (slate src dst : Nat) : M Unit := do
  let bs ← memBytes src 96
  let bad ← look (·.poisoned src)
  let locked ← look (·.lockedAt dst)
  writeDev slate dst bs
  if bad ∧ !locked then poisonLine dst

/-- Copy the lines of one transfer, each with its poison: T1 takes them in line pairs (R67, R270), so a pair of which both lines are written leaves no old byte in
the burst they share. -/
def copyLines (slate : Nat) (ls : List (Nat × Nat)) : M Unit := do
  let bad ← look (fun s => (ls.filter (fun l => s.poisoned l.1)).map (·.2))
  for l in ls do copyLine slate l.1 l.2
  for l in ls do
    if inT1 l.2 ∧ onPair l.2 ∧ ls.any (fun k => decide (k.2 = l.2 + 96)) ∧ !bad.contains l.2 ∧ !bad.contains (l.2 + 96) then clearMiddle l.2

/-- A read of poisoned lines is counted (R583). -/
def countPoison (k : Nat) : M Unit := bump (Reg.RAS_COUNT_LO 3) k

/-- Mark bytes of a tile's scratchpad undefined (R255). -/
def undefTile (n off len : Nat) : M Unit := do
  let base ← look (·.tileBase n)
  undefDev (base + off) len

/-- Format-health counts of a tile's work (R87): held with the micro-batch while the tile's open Take is of that micro-batch, else committed
at once; EVAL and SNAP work is not counted. -/
def holdHealth (n slate : Nat) (hs : List (Nat × Health)) : M Unit := do
  if slatePhase slate = 3 ∨ slatePhase slate = 4 then return
  let mine := hs.filter (fun h => decide (h.2 ≠ Health.zero))
  let t ← getTile n
  let cur ← look (·.slate n)
  if t.take.isSome ∧ cur / 2 ^ 20 = slate / 2 ^ 20 then
    modTile n (fun t => { t with health := mine.foldl (fun (l : List (Nat × Nat × Health)) h =>
      let key := slate / 2 ^ 20
      if l.any (fun e => decide (e.1 = key ∧ e.2.1 = h.1)) then
        l.map (fun e => if e.1 = key ∧ e.2.1 = h.1 then (e.1, e.2.1, e.2.2.add h.2) else e)
      else l ++ [(key, h.1, h.2)]) t.health })
  else
    for h in mine do fmthCommit (slateStep slate) h.1 h.2

/-- The counts that a tile holds go to the hub (R87). -/
def commitHealth (n : Nat) : M Unit := do
  let t ← getTile n
  for e in t.health do fmthCommit (e.1 / 4096) e.2.1 e.2.2
  modTile n (fun t => { t with health := [] })

/-- Events that carry the fault's marks: a cause of R254 that calls for a stand-in (R255, R591). -/
def failHardware (n : Nat) (e : Ev) (src : Nat × Nat) (slate detail : Nat) : M Unit := do
  let t ← getTile n
  if t.take.isNone then
    raiseEvent { evOf e src detail slate with sev := max e.sev 3, hw := true }
    stopJob e.code
  else
    raiseEvent { evOf e src detail slate with hw := true }
    failTake n 0 0 false true
    modTile n (fun t => { t with failed := t.failed.map (fun f => { f with swap := true }) })

/-! Lists (R206, R207, R212). -/

/-- The list entries of list p as (TOKEN, RANK) pairs (R206), and its directory entry. -/
def State.listOf (s : State) (n p : Nat) : ListDir × List (Nat × Nat) :=
  let dir := Store.get (fun _ => ListDir.none) (s.tile n).dir p
  let v := s.tmem n
  (dir, (List.range dir.length).map (fun i => (bitsOf (v.le (dir.base * 96 + 4 * i) 4) 23 0, bitsOf (v.le (dir.base * 96 + 4 * i) 4) 26 24)))

/-- The lines of a row of a list-driven transfer, at most a scratchpad of them, and its scale bytes, at most the largest SPITCH. -/
def listRow (p : Nat) : Nat := min (Config.listRowLines p) 32768
def listRowScales (p : Nat) : Nat := min (Config.listScaleBytes p) 65535

/-- Does a queued dispatch descriptor issued before number `ord` write list p (R211)? -/
def Tile.buildBefore (t : Tile) (ord p : Nat) : Bool :=
  t.dispQ.any (fun q => let d := DDesc.decode q.bytes; decide (q.ord < ord) && decide (d.op = 0) && decide (p < d.nplace))

end Sys2Proof.Machine
end

