-- ==== Sys2Proof/Machine/Seq.lean ====
section
/-! DEFINITION. The sequencer: the micro-op encoding with its reserved codes and bits (R234 to R236, R240), issue, loops and jumps
(R231, R237), program faults (R240). -/

namespace Sys2Proof.Machine

/-- Fields common to all micro-ops (R234). -/
def uopCls (w : Nat) : Nat := bitsOf w 63 60
def uopOp (w : Nat) : Nat := bitsOf w 59 56
def uopIx (w : Nat) : Nat := bitsOf w 55 52
def uopStride (w : Nat) : Nat := bitsOf w 51 40
def uopLine (w : Nat) : Nat := bitsOf w 14 0
def uopCount (w : Nat) : Nat := bitsOf w 26 15 + 1
def uopRef (w : Nat) : Nat := bitsOf w 39 27

/-- R235, R236, R240: is the CLASS and OP listed, every unlisted class bit 0, and every field code one the spec lists? -/
def uopLegal (w : Nat) : Bool :=
  let c := w % 2 ^ 40
  let zero := fun (hi lo : Nat) => decide (bitsOf c hi lo = 0)
  match uopCls w, uopOp w with
  | 0, 0 => zero 39 0
  | 0, 1 => zero 39 0
  | 0, 2 => zero 39 5
  | 0, 3 => zero 39 32 && zero 7 5
  | 1, 0 => zero 39 15
  | 2, 0 => zero 39 15
  | 3, 0 => zero 39 15
  | 4, 0 => true
  | 4, 1 => true
  | 4, 2 => true
  | 4, 3 => true
  | 4, 4 => decide (uopLine w ≤ 255)
  | 4, 5 => decide (uopLine w ≤ 255)
  | 5, 0 => true
  | 5, 1 => true
  | 5, 2 => decide (uopLine w ≤ 255)
  | 5, 3 => zero 39 19 && !zero 18 3
  | 6, 0 => zero 39 27 && decide (bitsOf c 7 0 ≤ 179)
  | 6, 1 => zero 39 19 && !zero 18 3
  | 6, 2 => zero 39 4 && decide (bitsOf c 3 0 ≤ 14)
  | 6, 3 => zero 39 4 && decide (bitsOf c 3 0 ≤ 14)
  | 6, 4 => zero 39 4 && decide (bitsOf c 3 0 ≤ 14)
  | 6, 5 => zero 39 3
  | 7, 0 => zero 39 16
  | 8, 0 => true
  | 8, 1 => true
  | 9, 0 => zero 39 23
  | 9, 1 => zero 39 0
  | 10, 0 => zero 39 30 && decide (bitsOf c 1 0 ≠ 3) && decide (bitsOf c 20 17 ≤ 4)
  | 10, 1 => zero 39 0
  | 10, 2 => zero 39 0
  | _, _ => false

/-- The program counter, and the micro-op it addresses (R230, R263). -/
def State.pc (s : State) (n : Nat) : Nat := s.fld (Fl.TILE_SEQ_PC_PC n)
def State.uop (s : State) (n : Nat) : Nat :=
  (Store.get (fun a => Config.freeUop n (s.tile n).wakes a) (s.tile n).im (s.pc n)).toNat

/-- An index register; IX0 reads 0 (R230). -/
def Tile.ixOf (t : Tile) (i : Nat) : Nat := if i = 0 then 0 else t.ix.getD i 0
def Tile.setIx (t : Tile) (i v : Nat) : Tile := if i = 0 then t else { t with ix := modAt t.ix i (fun _ => v % 2 ^ 24) }

/-- IX[IXSEL] × STRIDE, and the effective line (R234). -/
def Tile.walk (t : Tile) (w : Nat) : Nat := t.ixOf (uopIx w) * uopStride w
def Tile.effLine (t : Tile) (w : Nat) : Nat := (uopLine w + t.walk w) % 2 ^ 24

/-- A program fault (R240): STATE FAULT, FAULT and FAULT_PC set, EV_SEQ_FAULT, and the job stops. -/
def programFault (n : Nat) : M Unit := do
  let pc ← look (·.pc n)
  let slate ← look (·.slate n)
  setFld (Fl.TILE_SEQ_STATUS_STATE n) seqFault
  setBit (Fl.TILE_SEQ_STATUS_FAULT n)
  setFld (Fl.TILE_SEQ_PC_FAULT_PC n) pc
  raiseStop Ev.seqFault (srcTile n) 0 slate
  stopJob Ev.seqFault.code

/-- Does the tile issue: RUN set, and not aborting, at fault, or ended (R261, R262)? -/
def State.issues (s : State) (n : Nat) : Bool :=
  let st := s.fld (Fl.TILE_SEQ_STATUS_STATE n)
  decide (s.fld (Fl.TILE_SEQ_CTRL_RUN n) = 1) && decide (st < seqAborting)

/-- An attempt to issue the micro-op that the tile's program counter addresses, when it is the one named; a reserved code there is a program
fault (R240). -/
def withUop (n cls op : Nat) (k : Nat → M Unit) : M Unit := do
  let go ← look (·.issues n)
  if !go then return
  let w ← look (·.uop n)
  if !uopLegal w then programFault n
  else if uopCls w = cls ∧ uopOp w = op then k w

/-- The micro-op cannot issue: one cycle of waiting (R231, R266). -/
def uopWait (n : Nat) : M Unit := do
  let pc ← look (·.pc n)
  let slate ← look (·.slate n)
  bump (Reg.TILE_SEQ_WAIT_LO n) 1
  pmuTile n 0x03 1 (some pc) slate false
  modTile n (fun t => { t with waited := t.waited + 1 })
  setFld (Fl.TILE_SEQ_STATUS_STATE n) seqWaiting

/-- Pop the loop levels whose body an address is not in (R237). -/
def popLeft (pc : Nat) : List LoopLevel → List LoopLevel
  | [] => []
  | l :: t => if l.start ≤ pc ∧ pc ≤ l.last then l :: t else popLeft pc t

/-- The tile after the micro-op at pc, with the back-branch of the innermost loop that ends there (R237), and the next address. -/
def Tile.stepPc (t : Tile) (pc : Nat) : Tile × Nat :=
  match t.loops with
  | [] => (t, pc + 1)
  | l :: rest =>
    if pc = l.last then
      if l.count ≠ 0 ∧ l.count ≤ l.pass + 1 then ({ t with loops := rest }, pc + 1)
      else (({ t with loops := { l with pass := l.pass + 1 } :: rest }).setIx l.ix (t.ixOf l.ix + 1), l.start)
    else (t, pc + 1)

/-- The 32 bytes of a sample (R623). The clock cycles from issue to completion are no part of this model: the latency of a micro-op that
does not complete at issue is a free value, saturating as the rule says. -/
def sampleBytes (x : SampleRec) (aborted : Bool) (latency now : Nat) : List Byte :=
  let sat := decide (2 ^ 32 ≤ latency)
  leBytes 8 x.word ++ leBytes 8 x.slate ++ leBytes 2 (x.pc % 8192) ++
    leBytes 1 ((if aborted then 1 else 0) + (if sat then 2 else 0) + (if x.swapped then 4 else 0)) ++ [0] ++
    leBytes 4 (min latency (2 ^ 32 - 1)) ++ leBytes 4 (min x.waited (2 ^ 32 - 1)) ++ leBytes 4 now

/-- A sample completes: it waits to be written (R623, R624). -/
def sampleFinish (n : Nat) (x : SampleRec) (aborted : Bool) (latency : Nat) : M Unit := do
  let now ← look (·.time)
  modTile n (fun t => { t with sampled := t.sampled ++ [sampleBytes x aborted latency now] })
  pmuTile n 0x19 1 (some x.pc) x.slate false

/-- The micro-op issued as number `ord` completes (R242): its sample, if one is outstanding, is finished. -/
def sampleDone (n ord : Nat) : M Unit := do
  let t ← getTile n
  for x in t.samples.filter (fun x => decide (x.ord = ord)) do
    let lat ← freeValue
    sampleFinish n x false lat
  modTile n (fun t => { t with samples := t.samples.filter (fun x => decide (x.ord ≠ ord)) })

/-- Does a micro-op complete after its issue (R242)? NOP, SETIX and their like complete at issue. -/
def uopLasts (w : Nat) : Bool :=
  decide (1 ≤ uopCls w ∧ uopCls w ≤ 4) || (decide (uopCls w = 5) && decide (uopOp w ≠ 3)) || (decide (uopCls w = 6) && decide (uopOp w = 0))

/-- What sampling does at an issue (R622): every PERIOD-th issued micro-op of the chosen classes is sampled, unless 8 are outstanding. -/
def sampleSelect (n w pc slate : Nat) : M Unit := do
  let en ← getFld (Fl.TILE_SMP_CTRL_EN n)
  let cls ← getFld (Fl.TILE_SMP_CTRL_CLASSES n)
  if en = 1 ∧ bitOf cls (uopCls w) then
    let t ← getTile n
    let period ← getFld (Fl.TILE_SMP_CTRL_PERIOD n)
    if t.sampleCount + 1 < max period 1 then modTile n (fun t => { t with sampleCount := t.sampleCount + 1 })
    else
      modTile n (fun t => { t with sampleCount := 0 })
      let x : SampleRec := ⟨pc, w, slate, t.issued, t.waited, false⟩
      if !uopLasts w then sampleFinish n x false 0
      else if 8 ≤ t.samples.length then bump (Reg.TILE_SMP_SKIPPED_LO n) 1
      else modTile n (fun t => { t with samples := t.samples ++ [x] })

/-- Count an issue and select it for sampling. -/
def countIssue (n : Nat) : M Unit := do
  let pc ← look (·.pc n)
  let w ← look (·.uop n)
  let slate ← look (·.slate n)
  bump (Reg.TILE_SEQ_ISSUE_LO n) 1
  pmuTile n 0x02 1 (some pc) slate true
  setFld (Fl.TILE_SEQ_STATUS_STATE n) seqIssuing
  sampleSelect n w pc slate
  toneEnd n
  modTile n (fun t => { t with issued := t.issued + 1, waited := 0, wait := .none, cueReached := false })

/-- The micro-op issues and execution goes on after it. The program counter is 13 bits wide. -/
def uopDone (n : Nat) : M Unit := do
  let pc ← look (·.pc n)
  countIssue n
  let t ← getTile n
  let r := t.stepPc pc
  modTile n (fun _ => r.1)
  setFld (Fl.TILE_SEQ_PC_PC n) (r.2 % 8192)

/-- The micro-op issues and execution goes on at an address, leaving the loops whose body does not hold it (R237). -/
def uopJump (n target : Nat) : M Unit := do
  countIssue n
  modTile n (fun t => { t with loops := popLeft target t.loops })
  setFld (Fl.TILE_SEQ_PC_PC n) (target % 8192)

/-- A descriptor copied from the scratchpad at issue (R232). -/
def copyDesc (n line len : Nat) : M QDesc := do
  let base ← look (·.tileBase n)
  let bs ← memBytes (base + line * 96) len
  let slate ← look (·.slate n)
  let pc ← look (·.pc n)
  let t ← getTile n
  pure ⟨bs, slate, pc, line, t.issued⟩

/-! Event counters (R233, R265). -/

/-- An event counter, and a new value of it. -/
def State.ec (s : State) (n c : Nat) : Nat :=
  let w := (s.reg (Reg.TILE_SEQ_EC n (c / 2))).toNat
  if c % 2 = 0 then w % 65536 else w / 65536
def setEc (n c v : Nat) : M Unit := do
  let w ← getReg (Reg.TILE_SEQ_EC n (c / 2))
  let x := if c % 2 = 0 then w.toNat / 65536 * 65536 + v % 65536 else w.toNat % 65536 + v % 65536 * 65536
  setReg (Reg.TILE_SEQ_EC n (c / 2)) (BitVec.ofNat 32 x)

/-- Add to an event counter; one that would pass 65,535 holds 65,535 and EV_SEQ_COUNTER_SATURATED is raised (R233). -/
def addEc (n c k slate : Nat) : M Unit := do
  let v ← look (·.ec n c)
  if 65535 < v + k then
    setEc n c 65535
    setBit (Fl.TILE_SEQ_STATUS_SATURATED n)
    raise Ev.seqCounterSaturated (srcTile n) 0 slate
  else setEc n c (v + k)

/-! Clappers. -/

/-- The participants of an on-die channel, and of a cross-module channel on this module (R247). -/
def State.onDie (s : State) (c : Nat) : List Nat := ((s.job.bind (fun j => j.clap.onDie[c]?)).getD [])
def State.crossTiles (s : State) (c : Nat) : List Nat := ((s.job.bind (fun j => j.clap.tiles[c]?)).getD [])

/-- The tile waits at a Clapper. -/
def clapWaitAt (n : Nat) (w : SeqWait) (tone : Bool) : M Unit := do
  uopWait n
  let pc ← look (·.pc n)
  let slate ← look (·.slate n)
  pmuTile n 0x13 1 (some pc) slate false
  let t ← getTile n
  if tone ∧ t.wait ≠ w then toneStart n
  modTile n (fun t => { t with wait := w })

/-- What the release of a channel (a cross-module channel c as 16 + c) does on a tile: its arrival is used up, and a micro-op that waits
for the release issues. -/
def clapReleaseTile (n key : Nat) : M Unit := do
  let t ← getTile n
  modTile n (fun t => { t with arrivals := t.arrivals.filter (fun c => decide (c ≠ key)) })
  if t.wait = .clap key ∨ t.wait = .clapWait key ∨ t.wait = .clapx key then uopDone n
  else if t.wait = .toArrive key then
    toneEnd n
    modTile n (fun t => { t with wait := .none })

/-- An arrival at an on-die channel; the last participant's releases it (R248). -/
def clapArriveTile (n c : Nat) : M Unit := do
  modTile n (fun t => { t with arrivals := t.arrivals ++ [c] })
  let ps ← look (·.onDie c)
  let all ← look (fun s => ps.all (fun p => (s.tile p).arrivals.contains c))
  if all then
    for p in ps do clapReleaseTile p c

/-! Take groups. -/

/-- The Take group of a tile: the tiles whose tile-map entry has its stage and group (R252). -/
def State.groupOf (s : State) (n : Nat) : List Nat :=
  match s.job with
  | none => [n]
  | some j =>
    match j.tileMap[n]? with
    | none => [n]
    | some m => ((j.tileMap.zipIdx.filter (fun p => decide (p.1.stage = m.stage ∧ p.1.group = m.group))).map (·.2)).filter
        (fun k => decide (k < j.tiles))

end Sys2Proof.Machine
end

