-- ==== Sys2Proof/Machine/ArrayCmds.lean ====
section
/-! DEFINITION. The array's steps: take-up (R160, R161, R210, R211), the pre-pass (R100, R124, R145, R633), the passes (R101 to R103, R165),
the drain (R118 to R122, R153) and the reduction of split groups (R110 to R114). -/

namespace Sys2Proof.Machine

/-- The stored row of product row i: an entry of the list under XLIST (R160). -/
def ArrRun.xrow (r : ArrRun) (i : Nat) : Nat := if r.desc.xlist then r.xrows.getD i 0 else i

/-- How many passes a run has, once its rows are known (R130, R151): those before the failing one where a pre-pass has failed it. -/
def ArrRun.total (r : ArrRun) : Nat := if r.bad.isSome then r.prepassed else r.desc.passes r.rows.length

/-- Change the run at a place in the array. -/
def modRun (n i : Nat) (f : ArrRun → ArrRun) : M Unit := modTile n (fun t => { t with arr := modAt t.arr i f })

/-- BUSY follows the runs (R164). -/
def arrBusy (n : Nat) : M Unit := do
  let t ← getTile n
  setFld (Fl.TILE_ARR_STATUS_BUSY n) (if t.arr.isEmpty then 0 else 1)

/-- A run leaves the array, complete or failed: its RWS boundary has come (R127). -/
def dropRun (n i : Nat) : M Unit := do
  let t ← getTile n
  match t.arr[i]? with
  | none => pure ()
  | some r =>
    modTile n (fun t => { t with arr := t.arr.eraseIdx i, drain := if i = 0 then none else t.drain })
    arrBusy n
    applyShadows (Reg.TILE_LA_CTRL n) (Reg.TILE_LA_CTRL n + 4)
    sampleDone n r.q.ord

/-- A descriptor fails after it was taken up. -/
def failRun (n i : Nat) (e : Ev) (detail : Nat) : M Unit := do
  let t ← getTile n
  match t.arr[i]? with
  | none => pure ()
  | some r =>
    dropRun n i
    failUnit n e r.q.slate detail r.q.pc r.q.line false

/-- A wait of the array for a descriptor is counted (R125, R137, R165). -/
def arrStall (n : Nat) (q : QDesc) : M Unit := do
  bump (Reg.TILE_ARR_STALL_LO n) 1
  pmuTile n 0x07 1 (some q.pc) q.slate false

/-- The TOKEN fields of the first m entries of a list (R160, R206). -/
def listTokens (v : TMem) (dir : ListDir) (m : Nat) : List Nat := (List.range m).map (fun i => bitsOf (v.le (dir.base * 96 + 4 * i) 4) 23 0)

/-- ARRAY_DESCRIPTOR: the anchor unit, free of earlier pre-passes, takes up the head of the queue (R160, R161, R210, R211). DESIGN CHOICE: KIND stays
as it is where the descriptor is rejected or its list is empty, since neither comes to run. -/
def execArrayDescriptor (tile : Nat) : Meaning := M.next (do
  let t ← getTile tile
  match t.arrayQ with
  | [] => pure ()
  | q :: rest =>
    if t.arr.any (fun r => !r.started || decide (r.prepassed < r.total)) then pure ()
    else
      let d := ADesc.decode q.bytes
      if d.xlist && t.buildBefore q.ord d.list then
        bump (Reg.TILE_DSP_STALL_LO tile) 1
      else
        let v ← tileMem tile
        let dir := Store.get (fun _ => ListDir.none) t.dir d.list
        modTile tile (fun t => { t with arrayQ := rest })
        if d.xlist ∧ dir.length = 0 then sampleDone tile q.ord
        else
          let m := if d.xlist then min d.m dir.length else d.m
          let r : ArrRun :=
            { q := q, m := m, xrows := if d.xlist then listTokens v dir m else [], waiting := false, rows := [], started := false
              ready := [], prepassed := 0, streamed := 0, drained := 0, bounds := [], skipped := [], bad := none, mismatch := false
              overwritten := false }
          if r.desc.reject tile r.xSpan then
            setBit (Fl.TILE_ARR_STATUS_REJECT tile)
            sampleDone tile q.ord
            failUnit tile Ev.descriptorInvalid q.slate 0 q.pc q.line true
          else
            let held := t.arr.any (fun e => spansMeet r.spans e.desc.writeSpans)
            if held then arrStall tile q
            modTile tile (fun t => { t with arr := t.arr ++ [{ r with waiting := held }] })
            setFld (Fl.TILE_ARR_STATUS_KIND tile) d.kindCode
            arrBusy tile)

/-- ARRAY_PREPASS_START: the first waiting run starts once no earlier run's destination spans overlap its own spans (R137). -/
def execArrayPrepassStart (tile : Nat) : Meaning := M.next (do
  let t ← getTile tile
  match t.arr.findIdx? (·.waiting) with
  | none => pure ()
  | some i =>
    match t.arr[i]? with
    | none => pure ()
    | some r =>
      if (t.arr.take i).any (fun e => spansMeet r.spans e.desc.writeSpans) then arrStall tile r.q
      else modRun tile i (fun r => { r with waiting := false }))

/-- The oldest run leaves the array: the outputs of its passes that the BLOCK mask skips are zeroed under MASK_WRITE ZERO, and where it is complete the rows
that its ROW mask leaves out (R151 to R153) and what follows the planes of its pre-activation destination (R69); where a pre-pass failed it, it fails now that its earlier passes are written (R145, R633). -/
def finishRun (n : Nat) : M Unit := do
  let t ← getTile n
  match t.arr with
  | [] => pure ()
  | r :: _ =>
    let d := r.desc
    if d.member = 0 ∨ d.gsize = 0 then
      writeAll .array n r.q.slate (r.skipped.flatMap (fun p => d.zeroPass (d.passAt r.rows p)))
      if r.bad.isNone then writeAll .array n r.q.slate (d.zeroRows r.rows ++ d.preTail)
    match r.bad with
    | none => dropRun n 0
    | some .metadata => failRun n 0 Ev.sparseMetadata 0
    | some (.mask l) => failRun n 0 Ev.maskPoison l

/-- Runs with no pass left to write leave the array in the order of issue (R241). -/
def settleRuns (n : Nat) : M Unit := do
  let t0 ← getTile n
  for _ in t0.arr do
    let t ← getTile n
    match t.arr with
    | [] => pure ()
    | r :: _ => if r.started ∧ r.total ≤ r.drained then finishRun n

/-- ARRAY_PREPASS_DONE: the anchor unit finishes the next pass of the first run that has one, at most two ahead of the array (R100, R124). The
mask is read at the first pass (R151); a pass whose BLOCK word is 0 is skipped whole (R152). A poisoned steering byte or invalid sparse metadata fails the
descriptor once its earlier passes are written (R145, R633). -/
def execArrayPrepassDone (tile : Nat) : Meaning := M.next (do
  let t ← getTile tile
  match t.arr.findIdx? (fun r => !r.started || decide (r.prepassed < r.total)) with
  | none => pure ()
  | some i =>
    match t.arr[i]? with
    | none => pure ()
    | some r0 =>
      if r0.waiting ∨ 2 ≤ r0.ready.length then pure ()
      else
        let v ← tileMem tile
        let d := r0.desc
        let rows := if r0.started then r0.rows else d.rowsOf v
        let r := { r0 with rows := rows, started := true }
        let ps := d.passAt rows r.prepassed
        let last := decide (r.total ≤ (ps.range + 1) * d.colPasses)
        match d.maskPoison v ps last with
        | some l =>
          countPoison 1
          pmuTile tile 0x18 1 (some r.q.pc) r.q.slate false
          modRun tile i (fun _ => { r with bad := some (.mask l) })
        | none =>
          if r.total = 0 then modRun tile i (fun _ => r)
          else if d.blockWord v ps.no = 0 then
            modRun tile i (fun _ => { r with
              prepassed := r.prepassed + 1, streamed := r.streamed + 1, drained := r.drained + 1, skipped := r.skipped ++ [ps.no] })
          else if d.metaBad v ps then
            setBit (Fl.TILE_ARR_STATUS_METADATA tile)
            modRun tile i (fun _ => { r with bad := some .metadata })
          else
            modRun tile i (fun _ => { r with prepassed := r.prepassed + 1, ready := r.ready ++ [d.prepass v r.xrow ps] })
        settleRuns tile)

/-- ARRAY_PASS_DONE: a pass whose anchors are ready is accumulated, and its states are copied to the drain buffer when that is free (R101 to
R103, R124); a wait for either is counted (R125). -/
def execArrayPassDone (tile : Nat) : Meaning := M.next (do
  let t ← getTile tile
  match t.arr.findIdx? (fun r => !r.started || decide (r.streamed < r.total)) with
  | none => pure ()
  | some i =>
    match t.arr[i]? with
    | none => pure ()
    | some r =>
      match r.ready with
      | [] => arrStall tile r.q
      | pre :: more =>
        if t.drain.isSome then arrStall tile r.q
        else
          let v ← tileMem tile
          let d := r.desc
          let ps := d.passAt r.rows pre.pass
          let c := d.passCells v r.xrow ps pre
          let count ← getFld (Fl.TILE_LA_CTRL_COUNT_EN tile)
          if c.2.1 ≠ 0 then setBit (Fl.TILE_LA_STATUS_TRUNC tile)
          if c.2.2 ≠ 0 then setBit (Fl.TILE_LA_STATUS_VANISH tile)
          if count = 1 then
            bump (Reg.TILE_LA_TRUNC_LO tile) c.2.1
            bump (Reg.TILE_LA_VANISH_LO tile) c.2.2
          let pmu := fun (ev k : Nat) => pmuTile tile ev k (some r.q.pc) r.q.slate false
          pmu 0x09 c.2.1
          pmu 0x0A c.2.2
          let cyc := d.passCycles v ps pre
          bump (Reg.TILE_ARR_STREAM_LO tile) cyc.1
          bump (Reg.TILE_ARR_SKIP_LO tile) cyc.2.1
          bump (Reg.TILE_ARR_STALL_LO tile) cyc.2.2
          pmu 0x04 cyc.1
          pmu 0x06 cyc.2.1
          pmu 0x07 cyc.2.2
          let word := d.blockWord v ps.no
          let pairs := t.pairRest + ((ps.outputs.filter (fun o => blockKeeps word o.1 o.2.2)).map (fun o =>
            ((List.range d.klen).filter (fun e =>
              (d.formed v r.xrow o.2.1 (d.kstart + e) (d.denseCol v ps o.2.1 o.2.2)).isSome)).length)).sum
          pmu 0x05 (pairs / 64)
          let bad := d.poisonLines v r.xrow ps
          countPoison bad
          pmu 0x18 bad
          modRun tile i (fun r => { r with streamed := r.streamed + 1, ready := more })
          modTile tile (fun t => { t with drain := some ⟨pre.pass, c.1, 0⟩, pairRest := pairs % 64 }))

/-- The next level at which a member of a split group receives, at or after level l (R112). -/
def nextLevel (gsize member : Nat) : Nat → Nat → Option Nat
  | 0, _ => none
  | k + 1, l => if member % 2 ^ (l + 1) ≠ 0 then none else if member + 2 ^ l ≤ gsize then some l else nextLevel gsize member k (l + 1)

/-- The level a tile's drain buffer waits for, if its head run is split. -/
def Tile.waitsLevel (t : Tile) : Option Nat :=
  match t.arr, t.drain with
  | r :: _, some b => if r.desc.gsize = 0 then none else nextLevel r.desc.gsize r.desc.member 4 b.level
  | _, _ => none

/-- The next step of a run whose pass has left the drain buffer. -/
def passDrained (n : Nat) : M Unit := do
  modRun n 0 (fun r => { r with drained := r.drained + 1 })
  modTile n (fun t => { t with drain := none })
  settleRuns n

/-- Has an earlier, and has a later pass of a row range than this one an output stage of its own (R122, R152)? A later pass that its pre-pass has failed counts: the
range's last column pass then never drains, and no vector is written. -/
def ArrRun.before (r : ArrRun) (ps : APass) : Bool := (List.range ps.no).any (fun p => decide (p / r.desc.colPasses = ps.range) && !r.skipped.contains p)
def ArrRun.after (r : ArrRun) (v : TMem) (ps : APass) : Bool :=
  (List.range (r.desc.passes r.rows.length)).any (fun p => decide (ps.no < p ∧ p / r.desc.colPasses = ps.range) &&
    (decide (r.desc.blockWord v p ≠ 0) || (r.bad.isSome && decide (p = r.prepassed))))

/-- OUTPUT_STAGE_DRAINED: on a lone tile or the root, a pass whose partials are all combined is rounded and its rows are written once; the
row-bound vector is written after the last column pass of its range that has a drain (R115 to R122, R152, R153). -/
def execOutputStageDrained (tile : Nat) : Meaning := M.next (do
  let t ← getTile tile
  match t.arr, t.drain with
  | r :: _, some b =>
    if t.waitsLevel.isSome ∨ (0 < r.desc.gsize ∧ r.desc.member ≠ 0) then pure ()
    else
      let v ← tileMem tile
      let seed ← look (·.jobSeed)
      let d := r.desc
      let ps := d.passAt r.rows b.pass
      let rb := if r.before ps then r.bounds else []
      let o := d.drain v (fun c row col => srOf seed r.q.slate c row col) ps b.cells rb
      if o.ovf then setBit (Fl.TILE_LA_STATUS_OVF tile)
      if o.nar then setBit (Fl.TILE_LA_STATUS_NAR tile)
      writeAll .array tile r.q.slate o.writes
      holdHealth tile r.q.slate o.health
      modRun tile 0 (fun r => { r with bounds := o.bounds })
      if d.os.rbEn ∧ !r.after v ps then
        writeTile .array tile r.q.slate ((d.os.rbLine + 3 * ps.range) * 96) (rowBoundVector ps.rows.length o.bounds)
      passDrained tile
  | _, _ => pure ())

/-- The tile that sends to a receiver at level l. -/
def ArrRun.sender (r : ArrRun) (l : Nat) : Nat := r.desc.group.getD (r.desc.member + 2 ^ l) 255

/-- Has the sender of a receiver's next level its own partial of the same pass complete? -/
def State.partialReady (s : State) (r : ArrRun) (b : DrainBuf) (l : Nat) : Bool :=
  let t := s.tile (r.sender l)
  match t.arr, t.drain with
  | x :: _, some c => decide (x.desc.member = r.desc.member + 2 ^ l) && decide (c.pass = b.pass) && t.waitsLevel.isNone
  | _, _ => false

/-- SPLIT_PARTIAL_RECEIVE: the member combines its sender's partial records at its tree level; on different anchors the root marks MISMATCH and
raises EV_ANCHOR_MISMATCH once per descriptor (R111 to R113). Records are combined by their position in the pass; an output that the sender has no record of
stands (R154). -/
def execSplitPartialReceive (tile : Nat) : Meaning := M.next (do
  let t ← getTile tile
  match t.arr, t.drain, t.waitsLevel with
  | r :: _, some b, some l =>
    let ready ← look (·.partialReady r b l)
    if ready then
      let from_ := r.sender l
      let f ← getTile from_
      let cells := (match f.drain with
        | some c => b.cells.zipIdx.map (fun p => (c.cells[p.2]?).elim p.1 p.1.combine)
        | none => b.cells)
      modTile tile (fun t => { t with drain := some { b with cells := cells, level := l + 1 } })
      passDrained from_
      let d := r.desc
      let t2 ← getTile tile
      if d.member = 0 ∧ t2.waitsLevel.isNone then
        let ps := d.passAt r.rows b.pass
        match (ps.outputs.zip cells).find? (fun p => p.2.mism && !p.2.masked) with
        | none => pure ()
        | some p =>
          let v ← tileMem tile
          setBit (Fl.TILE_LA_STATUS_MISMATCH tile)
          modRun tile 0 (fun r => { r with mismatch := true })
          if !r.mismatch then raise Ev.anchorMismatch (srcTile tile) (p.1.2.1 + d.denseCol v ps p.1.2.1 p.1.2.2 * 2 ^ 24) r.q.slate
  | _, _, _ => pure ())

/-- SPLIT_STALL: the partial of the sender has not come in time; the receiver's descriptor fails (R114). -/
def execSplitStall (tile : Nat) : Meaning := M.next (do
  let t ← getTile tile
  match t.arr, t.drain, t.waitsLevel with
  | r :: _, some b, some l =>
    let ready ← look (·.partialReady r b l)
    if !ready then
      failRun tile 0 Ev.splitStall (r.desc.member + 2 ^ l + r.sender l * 16)
      settleRuns tile
  | _, _, _ => pure ())

end Sys2Proof.Machine
end

