-- ==== Sys2Proof/Machine/ChainCmds.lean ====
section
/-! DEFINITION. The vector chain's steps: take-up and checks (R192, R194), vectors (R170 to R187) and completion (R193). -/

namespace Sys2Proof.Machine

/-- Change the run at a place in the chain. -/
def modChn (n i : Nat) (f : ChainRun → ChainRun) : M Unit := modTile n (fun t => { t with chn := modAt t.chn i f })

/-- The descriptor of a run, and whether all its vectors have passed. -/
def ChainRun.desc (r : ChainRun) : CDesc := CDesc.decode r.q.bytes
def ChainRun.passed (r : ChainRun) : Bool := decide (r.desc.vectors ≤ r.next)

/-- BUSY follows the runs. -/
def chnBusy (n : Nat) : M Unit := do
  let t ← getTile n
  setFld (Fl.TILE_CHN_STATUS_BUSY n) (if t.chn.isEmpty then 0 else 1)

/-- A run leaves the chain. -/
def dropChn (n i : Nat) : M Unit := do
  let t ← getTile n
  match t.chn[i]? with
  | none => pure ()
  | some r =>
    modTile n (fun t => { t with chn := t.chn.eraseIdx i })
    chnBusy n
    sampleDone n r.q.ord

/-- CHAIN_DESCRIPTOR: once the chain reads no earlier descriptor it takes up the head of its queue, checks it (R192), and waits while its
spans overlap an earlier one's outputs (R194). -/
def execChainDescriptor (tile : Nat) : Meaning := M.next (do
  let t ← getTile tile
  match t.chainQ with
  | [] => pure ()
  | q :: rest =>
    if t.chn.any (fun r => !r.passed) then pure ()
    else
      let d := CDesc.decode q.bytes
      modTile tile (fun t => { t with chainQ := rest })
      if d.reject then
        setBit (Fl.TILE_CHN_STATUS_REJECT tile)
        sampleDone tile q.ord
        failUnit tile Ev.descriptorInvalid q.slate 0 q.pc q.line true
      else
        let held := t.chn.any (fun e => spansMeet (d.readSpans ++ d.writeSpans) e.desc.writeSpans)
        if held then
          bump (Reg.TILE_CHN_STALL_LO tile) 1
          pmuTile tile 0x0C 1 (some q.pc) q.slate false
        modTile tile (fun t => { t with chn := t.chn ++ [⟨q, held, 0, CRow.empty, false⟩] })
        chnBusy tile)

/-- CHAIN_INTERLOCK_START: a waiting descriptor starts once no earlier one's outputs overlap its spans (R194). -/
def execChainInterlockStart (tile : Nat) : Meaning := M.next (do
  let t ← getTile tile
  match t.chn.findIdx? (·.waiting) with
  | none => pure ()
  | some i =>
    let free := (match t.chn[i]? with
      | some r => !(t.chn.take i).any (fun e => spansMeet (r.desc.readSpans ++ r.desc.writeSpans) e.desc.writeSpans)
      | none => false)
    if free then modChn tile i (fun r => { r with waiting := false }))

/-- CHAIN_VECTOR: the next vector of the running descriptor passes the six stages and is packed (R170 to R187). A poisoned mask byte fails the
descriptor before the vector writes (R633); with TRAP set an INVALID or DIVZERO lane fails it (R187). -/
def execChainVector (tile : Nat) : Meaning := M.next (do
  let t ← getTile tile
  match t.chn.findIdx? (fun r => !r.passed) with
  | none => pure ()
  | some i =>
    match t.chn[i]? with
    | none => pure ()
    | some r =>
      if r.waiting then pure ()
      else
        let v ← tileMem tile
        let seed ← look (·.jobSeed)
        let d := r.desc
        let row := r.next / d.perRow
        let u := r.next % d.perRow
        let pmu := fun (ev k : Nat) => pmuTile tile ev k (some r.q.pc) r.q.slate false
        match (if d.maskStream then d.maskPoison v row u else none) with
        | some l =>
          countPoison 1
          pmu 0x18 1
          dropChn tile i
          failUnit tile Ev.maskPoison r.q.slate l r.q.pc r.q.line false
        | none =>
          let o := d.vector v (fun c a b => srOf seed r.q.slate c a b) r.row row u
          let bad := countDistinct o.bad
          countPoison bad
          pmu 0x18 bad
          if o.flags.invalid then setBit (Fl.TILE_CHN_STATUS_INVALID tile)
          if o.flags.divzero then setBit (Fl.TILE_CHN_STATUS_DIVZERO tile)
          if o.flags.overflow then setBit (Fl.TILE_CHN_STATUS_OVERFLOW tile)
          if o.flags.nanIn then setBit (Fl.TILE_CHN_STATUS_NAN_IN tile)
          match (if d.trap then o.trapCol else none) with
          | some c =>
            setBit (Fl.TILE_CHN_STATUS_TRAPPED tile)
            holdHealth tile r.q.slate (o.health.take 1)
            dropChn tile i
            failUnit tile Ev.chainInvalid r.q.slate (row + c * 2 ^ 24) r.q.pc r.q.line false
          | none =>
            modChn tile i (fun r => { r with next := r.next + 1, row := o.row })
            writeAll .chain tile r.q.slate o.writes
            holdHealth tile r.q.slate o.health
            bump (Reg.TILE_CHN_VEC_LO tile) 1
            pmu 0x0B 1)

/-- CHAIN_DESCRIPTOR_COMPLETE: the oldest descriptor whose vectors have all passed completes (R193). -/
def execChainDescriptorComplete (tile : Nat) : Meaning := M.next (do
  let t ← getTile tile
  match t.chn with
  | [] => pure ()
  | r :: _ => if r.passed then dropChn tile 0)

end Sys2Proof.Machine
end

