-- ==== Sys2Proof/Machine/CraxisWire.lean ====
section
/-! DEFINITION. Craxis on the wire: flits with their link control and CRC (R483, R484), and messages cut into flits (R486, R487). -/

namespace Sys2Proof.Machine

/-! Opcodes (R487). -/

def opRd : Nat := 0x01
def opRdLine : Nat := 0x02
def opFlush : Nat := 0x03
def opCsrRd : Nat := 0x04
def opWr : Nat := 0x08
def opWrLine : Nat := 0x09
def opCsrWr : Nat := 0x0A
def opRdData : Nat := 0x10
def opCsrData : Nat := 0x11
def opCmpl : Nat := 0x12
def opCap : Nat := 0x18
def opErr : Nat := 0x19
def opPwr : Nat := 0x1A
def opResetNote : Nat := 0x1B

/-- The opcodes that are not reserved. -/
def cxOpcodes : List Nat :=
  [opRd, opRdLine, opFlush, opCsrRd, opWr, opWrLine, opCsrWr, opRdData, opCsrData, opCmpl, opCap, opErr, opPwr, opResetNote]

/-- The VC of an opcode: 0 REQ, 1 RSP, 2 PST, 3 MGT. -/
def cxVc (op : Nat) : Nat := if op < 8 then 0 else if op < 0x10 then 2 else if op < 0x18 then 1 else 3

/-- May a message of a VC pass one of another (R489)? -/
def cxPass (vc other : Nat) : Bool :=
  match vc with
  | 1 => decide (other = 0) || decide (other = 2)
  | 2 => decide (other = 0)
  | 3 => decide (other ≠ 3)
  | _ => false

/-! Flits (R483, R484). -/

/-- One bit of the CRC-16 of polynomial 0x1021. -/
def crc16Bit (c : Nat) : Nat := if 2 ^ 15 ≤ c then ((2 * c) ^^^ 0x1021) % 2 ^ 16 else 2 * c
def crc16Byte (c : Nat) (b : Byte) : Nat := (List.range 8).foldl (fun c _ => crc16Bit c) (c ^^^ (b.toNat * 2 ^ 8))

/-- The CRC-16 of R483: initial value 0xFFFF, not reflected, no final XOR. -/
def crc16 (bytes : List Byte) : Nat := bytes.foldl crc16Byte 0xFFFF

/-- Link control. -/
structure Lctl where
  vc : Nat
  start : Bool
  link : Bool
  null : Bool
  cvc : Nat
  credits : Nat
deriving DecidableEq, Repr

def Lctl.word (l : Lctl) : Nat :=
  l.vc % 4 + (if l.start then 4 else 0) + (if l.link then 8 else 0) + (if l.null then 16 else 0) + l.cvc % 4 * 32 + l.credits % 16 * 128

/-- A flit: LCTL, 28 bytes of content, zero where there is less, and the CRC, its high byte first. -/
def flit (l : Lctl) (content : List Byte) : List Byte :=
  let b := leBytes 2 l.word ++ (content ++ List.replicate (28 - content.length) 0).take 28
  let c := crc16 b
  b ++ [BitVec.ofNat 8 (c / 256), BitVec.ofNat 8 (c % 256)]

/-- Does a flit's CRC hold? -/
def flitOk (f : List Byte) : Bool := decide (f.length = 32 ∧ crc16 (f.take 30) = leAt f 30 1 * 256 + leAt f 31 1)

/-- The flit of a link message: its type, 1 ACK or 2 REPLAY, and SEQ. -/
def linkFlit (type seq : Nat) : List Byte := flit ⟨0, false, true, false, 0, 0⟩ (leBytes 1 type ++ [0] ++ leBytes 2 (seq % 1024))

/-- A NULL flit that returns credits. -/
def creditFlit (vc n : Nat) : List Byte := flit ⟨0, false, false, true, vc, n⟩ []

/-! Messages (R486). -/

/-- The 12-byte header. -/
def cxHeader (op : Nat) (m : CxMsg) : List Byte :=
  leBytes 1 op ++ leBytes 1 m.len ++ leBytes 2 m.tag ++ leBytes 6 m.addr ++ leBytes 1 m.master ++
    leBytes 1 ((if m.poison then 1 else 0) + (if m.fail then 2 else 0))

/-- The flits of a message. -/
def cxFlits (m : CxMsg) : Nat := ceilDiv (12 + m.data.length) 28

/-- A message's flits: it begins on a fresh one, and the last is filled with zeros. -/
def msgFlits (op : Nat) (m : CxMsg) : List (List Byte) :=
  let b := cxHeader op m ++ m.data
  (List.range (cxFlits m)).map (fun k => flit ⟨cxVc op, decide (k = 0), false, false, 0, 0⟩ ((b.drop (28 * k)).take 28))

/-- A message on a module, and the flits of one that are still to be acknowledged. -/
def cxFrame (h op : Nat) (m : CxMsg) : Out := .craxis h op m (msgFlits op m)
def cxAgain (h : Nat) (e : CxSent) : Out := .craxis h e.op e.msg ((msgFlits e.op e.msg).drop (cxFlits e.msg - e.flits))

/-- An ACK and a REPLAY. -/
def cxAck (h seq : Nat) : Out := .craxisAck h seq (linkFlit 1 seq)
def cxReplay (h seq : Nat) : Out := .craxisReplay h seq (linkFlit 2 seq)

/-- Credits returned for n flits of a channel: a flit carries 15 at most. -/
def cxCredits (h vc n : Nat) : List Out :=
  (List.range (ceilDiv n 15)).map (fun k => let c := min 15 (n - 15 * k)
    .craxisCredits h vc c (creditFlit vc c))

end Sys2Proof.Machine
end

