-- ==== Sys2Proof/Machine/CraxisOps.lean ====
section
/-! DEFINITION. Shared operations of the Craxis links (R479 to R504): numbering and credits, the interleave, lane plans, resets of far dies, and
the hub firewall's actions. -/

namespace Sys2Proof.Machine

/-! Links and modules (R479). -/

/-- The link of a module, a link's first module, and all of them. -/
def cxLink (h : Nat) : Nat := if h < 48 then 0 else if h < 96 then 1 + (h - 48) / 12 else 5
def cxFirst (l : Nat) : Nat := if l = 0 then 0 else if l = 5 then 96 else 48 + 12 * (l - 1)
def cxMods (l : Nat) : List Nat := (List.range (if l = 0 then 48 else if l = 5 then 8 else 12)).map (cxFirst l + ·)

/-- The modules of a far die: 0 TW6U, 1 to 4 the stacks, 5 to 7 the fields of the compute die; and a module's die. -/
def dieMods (d : Nat) : List Nat :=
  if d = 0 then cxMods 5 else if d ≤ 4 then cxMods d else (List.range 16).map (16 * (d - 5) + ·)
def dieOf (h : Nat) : Nat := if h < 48 then 5 + h / 16 else if h < 96 then cxLink h else 0
def dieLink (d : Nat) : Nat := if d = 0 then 5 else if d ≤ 4 then d else 0

/-- The states of R506. -/
def cxReset : Nat := 0
def cxTraining : Nat := 1
def cxActive : Nat := 2
def cxRetrain : Nat := 3
def cxOutState : Nat := 4
def cxIsolated : Nat := 5

/-- The hub's end of a module, its state, and a change. -/
def State.cxm (s : State) (h : Nat) : CxMod := Store.get (fun _ => CxMod.empty) s.cx.mods h
def State.cxState (s : State) (h : Nat) : Nat := s.fld (Fl.CRAXIS_MOD_STATUS_STATE h)
def modCx (h : Nat) (f : CxMod → CxMod) : M Unit :=
  act (.cxm h f)

/-- The modules in service, and the interleave table (R492). -/
def State.inService (s : State) (l : Nat) : List Nat :=
  (cxMods l).filter (fun h => decide (s.cxState h = cxActive) || decide (s.cxState h = cxRetrain))
def State.cxTable (s : State) (l : Nat) : List Nat :=
  (s.inService l).flatMap (fun h => if s.fld (Fl.CRAXIS_MOD_STATUS_WIDTH h) = 0 then [h, h] else [h])

/-- IN_SERVICE, X8 and W follow the modules. -/
def linkSync (l : Nat) : M Unit := do
  let n ← look (fun s => (s.inService l).length)
  let n8 ← look (fun s => ((s.inService l).filter (fun h => decide (s.fld (Fl.CRAXIS_MOD_STATUS_WIDTH h) = 1))).length)
  setFld (Fl.CRAXIS_LINK_STATUS_IN_SERVICE l) n
  setFld (Fl.CRAXIS_LINK_STATUS_X8 l) n8
  setFld (Fl.CRAXIS_LINK_STATUS_W l) (2 * n - n8)

/-! Messages (R486 to R490). -/

/-- A message with little in it. -/
def cxMsg (tag addr master : Nat) (poison fail : Bool) (data : List Byte) : CxMsg := ⟨0, tag, addr, master, poison, fail, data, 0, 0, none⟩

/-- Where the receiver of a message counts its lines from: a stack in its own addresses, the hub and the other dies in device addresses (R7, R486). -/
def cxBase (out : Bool) (via addr : Nat) : Nat := if out ∧ 1 ≤ via ∧ via ≤ 4 then 0 else regionBase addr

/-- The line-pair group of an address: device addresses on links 0 and 5, a stack's own on the others (R492). -/
def cxGroup (l addr : Nat) : Nat := (addr - cxBase true l addr) / 192 / 8

/-- The messages of a transfer of the hub, m.len + 1 consecutive line pairs from m.addr (R488): the line pairs that fall in one aligned group of 8
are one message. The requester's TAG counts on from message to message. -/
def cxPieces (l : Nat) (m : CxMsg) : List CxMsg :=
  let p := (m.addr - cxBase true l m.addr) / 192
  let g := p / 8
  (List.range ((p + m.len) / 8 + 1 - g)).map (fun k =>
    let lo := max p (8 * (g + k))
    let hi := min (p + m.len) (8 * (g + k) + 7)
    { m with
      len := hi - lo, tag := (m.tag + k) % 2 ^ 16, addr := m.addr + 192 * (lo - p)
      data := (m.data.drop (192 * (lo - p))).take (192 * (hi - lo + 1)) })

/-- The flits of the response to a request: its data (R487). -/
def CxReq.want (r : CxReq) : Nat :=
  if r.op = opRd then 192 * (r.len + 1) else if r.op = opRdLine then 96 else if r.op = opCsrRd then 4 else 0
def CxReq.flits (r : CxReq) : Nat := ceilDiv (12 + r.want) 28

/-- The flits of buffer that a module's outstanding requests have reserved for their responses (R491). -/
def State.cxReserved (s : State) (h : Nat) : Nat := ((s.cx.reqs.filter (fun r => decide (r.mod = h) && r.sent)).map (·.flits)).sum

/-- The module that a message of the hub takes (R490): a response that of its request while it is in service, CSR and MGT messages the lowest in service, the
others by their address. -/
def State.cxRoute (s : State) (l op : Nat) (m : CxMsg) : Option Nat :=
  let t := s.cxTable l
  if cxVc op = 1 ∧ (s.inService l).contains m.num then some m.num
  else if op = opCsrRd ∨ op = opCsrWr ∨ 0x18 ≤ op then t.head?
  else t[cxGroup l m.addr % t.length]?

/-- Numbered flits go out on a module: the counts that follow them (R507, R611, R614). -/
def cxFlitsOut (h n : Nat) : M Unit := do
  bump (Reg.CRAXIS_COUNT_LO (cxLink h) 0) n
  pmuHub 0x11 n none none none (some (cxLink h))
  bwCount (21 + 2 * cxLink h) (32 * n)

/-- The requests of a link with a TAG and an opcode, as they go out or wait on a module. -/
def cxMark (l op tag h : Nat) (sent : Bool) : M Unit :=
  act (.cx (fun c => { c with reqs := c.reqs.map (fun r => if r.link = l ∧ r.tag = tag ∧ r.op = op ∧ !r.sent then { r with mod := h, sent := sent } else r) }))

/-- A message goes out on a module. -/
def cxEmit (h op : Nat) (m : CxMsg) : M Unit := do
  let n := cxFlits m
  if cxVc op = 0 then cxMark (cxLink h) op m.tag h true
  modCx h (fun x => { x with
    next := (x.next + n) % 1024, sent := x.sent ++ [⟨x.next, n, op, m⟩], credits := modAt x.credits (cxVc op) (· - n) })
  act (.out (cxFrame h op m))
  cxFlitsOut h n

/-- A message goes on a module, or is held: while the module is not ACTIVE, while its link's table is rebuilt (R493), behind an earlier one that it may not
pass (R489), for want of a place in the retry buffer of 128 flits (R485), for want of credits, or, a request, for want of buffer for its response (R491). -/
def cxSend (h op : Nat) (m : CxMsg) : M Unit := do
  let x ← look (·.cxm h)
  let st ← look (·.cxState h)
  let drain ← getFld (Fl.CRAXIS_LINK_STATUS_DRAINING (cxLink h))
  let n := cxFlits m
  let vc := cxVc op
  let need ← look (fun s => s.cxReserved h + (⟨cxLink h, h, op, m.tag, m.len, m.master, false⟩ : CxReq).flits)
  if st = cxActive && decide (drain = 0) && x.held.all (fun e => cxPass vc (cxVc e.1)) && decide ((x.sent.map (·.flits)).sum + n ≤ 128) &&
      decide (n ≤ x.credits.getD vc 0) && (decide (vc ≠ 0) || decide (need ≤ x.room)) then cxEmit h op m
  else
    if vc = 0 then cxMark (cxLink h) op m.tag h false
    modCx h (fun x => { x with held := x.held ++ [(op, m)] })

/-- Held messages that can go now do. -/
def cxRelease (h : Nat) : M Unit := do
  let x ← look (·.cxm h)
  if !x.held.isEmpty then
    modCx h (fun x => { x with held := [] })
    for e in x.held do cxSend h e.1 e.2

/-- A message of the hub on a link: it waits while the link's table is rebuilt or has no module (R493). -/
def cxOn (l op : Nat) (m : CxMsg) : M Unit := do
  let drain ← getFld (Fl.CRAXIS_LINK_STATUS_DRAINING l)
  let h ← look (·.cxRoute l op m)
  match h with
  | some h => if drain = 0 then cxSend h op m else act (.cx (fun c => { c with pending := c.pending ++ [(l, op, m)] }))
  | none => act (.cx (fun c => { c with pending := c.pending ++ [(l, op, m)] }))

/-- A request is completed to its master without having been performed: a read poisoned, a register read as all ones with FAIL, a flush with
FAIL (R498, R503, R504). -/
def cxFail (r : CxReq) : M Unit :=
  act (.out (.craxisDone r.master r.tag (decide (r.op = opRd) || decide (r.op = opRdLine)) (decide (r.op = opCsrRd) || decide (r.op = opFlush))
    (if r.op = opCsrRd then leBytes 4 0xFFFFFFFF else [])))

/-- Requests that satisfy p are completed so and forgotten. -/
def cxFailAll (p : CxReq → Bool) : M Unit := do
  let rs ← look (fun s => s.cx.reqs.filter p)
  act (.cx (fun c => { c with reqs := c.reqs.filter (fun r => !p r) }))
  for r in rs do cxFail r

/-- The posted writes of a module's messages, sent and not acknowledged or held. -/
def CxMod.posted (x : CxMod) : Nat :=
  (x.sent.filter (fun e => decide (cxVc e.op = 2))).length + (x.held.filter (fun e => decide (cxVc e.1 = 2))).length

/-- Does a link serve no request: its stack isolated, or every die behind it in reset? -/
def State.linkDead (s : State) (l : Nat) : Bool :=
  decide (s.fld (Fl.CRAXIS_LINK_STATUS_ISOLATED l) = 1) ||
    (if l = 0 then [5, 6, 7].all (s.cx.inReset.contains ·) else if l = 5 then s.cx.inReset.contains 0 else s.cx.inReset.contains l)

/-- A message of the hub: a stack is sent no responses, and register access only by keeper firmware or the row-repair engine (R502); behind a dead
link reads complete poisoned and writes are dropped and counted (R498, R504). -/
def cxOut (l op : Nat) (m : CxMsg) : M Unit := do
  let dead ← look (·.linkDead l)
  let stack := decide (1 ≤ l ∧ l ≤ 4)
  let csr := decide (op = opCsrRd) || decide (op = opCsrWr)
  let req : CxReq := ⟨l, cxNone, op, m.tag, m.len, m.master, false⟩
  if stack && (decide (cxVc op = 1) || (csr && decide (m.master ≠ mKeeper) && decide (m.master ≠ mScrub))) then pure ()
  else if dead then
    if cxVc op = 0 then cxFail req else if cxVc op = 2 then cxDropped l 1
  else
    if cxVc op = 0 then act (.cx (fun c => { c with reqs := c.reqs ++ [req] }))
    cxOn l op m

/-! Rebuilds and resets (R493, R498). -/

/-- A module begins to retrain (R497). -/
def cxStartRetrain (h : Nat) (recal : Bool) : M Unit := do
  setFld (Fl.CRAXIS_MOD_STATUS_STATE h) cxRetrain
  modCx h (fun x => { x with calibrating := recal, replay := (0, 0) })
  bump (Reg.CRAXIS_COUNT_LO (cxLink h) 3) 1

/-- The next module of a link that RELEARN still has to retrain, when none retrains (R506). One that is not in service takes its new record at its next
training. -/
def relearnNext (l : Nat) : M Unit := do
  let busy ← look (fun s => (cxMods l).any (fun h => decide (s.cxState h = cxRetrain)))
  let next ← look (fun s => s.cx.relearn.find? (fun h => decide (cxLink h = l) && decide (s.cxState h = cxActive)))
  if !busy then
    match next with
    | some h =>
      act (.cx (fun c => { c with relearn := c.relearn.filter (fun x => decide (x ≠ h)) }))
      cxStartRetrain h false
    | none => act (.cx (fun c => { c with relearn := c.relearn.filter (fun x => decide (cxLink x ≠ l)) }))

/-- Does a module of a link still wait for flits that were sent before (R485, R490)? -/
def State.cxAwaits (s : State) (l : Nat) : Bool := (cxMods l).any (fun h => (s.cxm h).waiting || decide ((s.cxm h).rxPart ≠ 0))

/-- A response of the hub on the module of its request; a stack is sent none (R502). -/
def answer (h op : Nat) (m : CxMsg) (len : Nat) (poison : Bool) (data : List Byte) : M Unit := do
  if ¬(1 ≤ cxLink h ∧ cxLink h ≤ 4) then cxSend h op { cxMsg m.tag m.addr m.master poison false data with len := len, num := h }

/-- The FLUSHes of a link that wait for no write any more are answered (R490). -/
def flushRelease (l : Nat) : M Unit := do
  let wait ← look (·.cxAwaits l)
  let fs ← look (fun s => s.cx.flushes.filter (fun e => decide (cxLink e.1 = l)))
  if !wait && !fs.isEmpty then
    act (.cx (fun c => { c with flushes := c.flushes.filter (fun e => decide (cxLink e.1 ≠ l)) }))
    for e in fs do answer e.1 opCmpl e.2 0 false []

/-- The table of a link is rebuilt. Messages not wholly acknowledged on a module that leaves service are sent again, before any new one (R493); what has not
gone out waits behind them for the module that the new table gives it. -/
def cxRebuild (l : Nat) (leaving : List Nat) : M Unit := do
  for h in leaving do
    let x ← look (·.cxm h)
    act (.cx (fun c => { c with
      resends := c.resends ++ x.sent.map (fun e => (l, e.op, e.msg)), pending := c.pending ++ x.held.map (fun e => (l, e.1, e.2))
      flushes := c.flushes.filter (fun e => decide (e.1 ≠ h))
      reqs := c.reqs.map (fun r => if r.link = l ∧ r.mod = h then { r with mod := cxNone, sent := false } else r) }))
    modCx h (fun x => { CxMod.empty with badSpares := x.badSpares, tries := x.tries })
  for h in cxMods l do
    let x ← look (·.cxm h)
    let moves := fun (e : Nat × CxMsg) => decide (cxVc e.1 = 0) || decide (cxVc e.1 = 2)
    if x.held.any moves then
      act (.cx (fun c => { c with
        pending := c.pending ++ (x.held.filter moves).map (fun e => (l, e.1, e.2))
        reqs := c.reqs.map (fun r => if r.link = l ∧ r.mod = h ∧ !r.sent then { r with mod := cxNone } else r) }))
      modCx h (fun x => { x with held := x.held.filter (fun e => !moves e) })
  setFld (Fl.CRAXIS_LINK_STATUS_DRAINING l) 1
  linkSync l
  flushRelease l
  relearnNext l

/-- A module goes OUT. -/
def cxGoOut (h : Nat) (e : Ev) : M Unit := do
  let was ← look (·.cxState h)
  setFld (Fl.CRAXIS_MOD_STATUS_STATE h) cxOutState
  raise e (srcLink h) 0 0
  if was = cxActive ∨ was = cxRetrain then cxRebuild (cxLink h) [h]

/-- What waits for a link's table is lost, and its posted writes are counted. -/
def linkLost (l : Nat) : M Unit := do
  let lost ← look (fun s => ((s.cx.resends ++ s.cx.pending).filter (fun e => decide (e.1 = l ∧ cxVc e.2.1 = 2))).length)
  cxDropped l lost
  act (.cx (fun c => { c with
    resends := c.resends.filter (fun e => decide (e.1 ≠ l)), pending := c.pending.filter (fun e => decide (e.1 ≠ l))
    flushes := c.flushes.filter (fun e => decide (cxLink e.1 ≠ l)) }))

/-- A far die enters reset (R498): its modules enter RESET, reads outstanding to it complete poisoned, posted writes queued for it are dropped and
counted, and the table is rebuilt without its modules. What waits for the table is lost with a die that is the whole of its link. -/
def dieResetEnter (d : Nat) : M Unit := do
  let l := dieLink d
  let hs := dieMods d
  act (.cx (fun c => { c with inReset := if c.inReset.contains d then c.inReset else c.inReset ++ [d] }))
  cxFailAll (fun r => decide (r.link = l) && (hs.contains r.mod || decide (d ≤ 4)))
  for h in hs do
    let x ← look (·.cxm h)
    cxDropped l x.posted
    modCx h (fun x => { CxMod.empty with badSpares := x.badSpares })
    setFld (Fl.CRAXIS_MOD_STATUS_STATE h) cxReset
  act (.cx (fun c => { c with
    relearn := c.relearn.filter (fun h => !hs.contains h), flushes := c.flushes.filter (fun e => !hs.contains e.1) }))
  if d ≤ 4 then linkLost l
  raise Ev.craxisPeerReset (srcLink (hs.headD 0)) 0 0
  cxRebuild l []

/-- A far die's reset is released: bring-up begins (R494), and an isolation of its stack is over (R504). -/
def dieResetRelease (d : Nat) : M Unit := do
  let l := dieLink d
  act (.cx (fun c => { c with
    inReset := c.inReset.filter (fun x => decide (x ≠ d)), caps := if d ≤ 4 then c.caps.filter (fun e => decide (e.1 ≠ l)) else c.caps }))
  if 1 ≤ d ∧ d ≤ 4 then
    setFld (Fl.CRAXIS_LINK_STATUS_ISOLATED l) 0
    setFld (Fl.FWALL_STATUS_ISOLATED (d - 1)) 0
  for h in dieMods d do setFld (Fl.CRAXIS_MOD_STATUS_STATE h) cxTraining

/-- The RESET_NOTE that goes ahead of a far die's reset wire (R552): KIND ASSERT, the reach, the cause, on the link's lowest module in service (R490). The hub
asserts the wire only behind it, so nothing holds it back. -/
def resetNote (d reach cause : Nat) : M Unit := do
  let h ← look (fun s => (s.inService (dieLink d)).head?)
  match h with
  | some h => cxEmit h opResetNote (cxMsg 0 0 mKeeper false false [1, BitVec.ofNat 8 reach, BitVec.ofNat 8 cause, 0])
  | none => pure ()

/-! Lane plans (R495). -/

/-- A plan: x8, on the upper half, and the lanes that S0 and S1 replace, 0x1F for none. -/
structure LanePlan where
  x8 : Bool
  upper : Bool
  spare0 : Nat
  spare1 : Nat
deriving DecidableEq, Repr

/-- The features of Craxis 1.0 (R499): spare lanes, x8 degrade, 32 GT/s. -/
def cxFeatures : Nat := 7

/-- The features that both ends of a link set, and the lower of the two minor revisions: the hub's is 0 (R500). Before a CAP of the far die, the hub's own. -/
def State.linkFeatures (s : State) (l : Nat) : Nat := ((s.cx.caps.find? (fun e => decide (e.1 = l))).map (fun e => leAt e.2 4 2 &&& cxFeatures)).getD cxFeatures
def State.linkMinor (s : State) (l : Nat) : Nat := ((s.cx.caps.find? (fun e => decide (e.1 = l))).map (fun e => min (leAt e.2 3 1) 0)).getD 0

/-- The plan for the set B of bad lanes, S0 and S1 as bits 16 and 17, with the features in use; none where the module goes OUT. -/
def lanePlan (features b : Nat) : Option LanePlan :=
  let free := [16, 17].filter (fun i => bitOf features 0 && !bitOf b i)
  let bad := fun (lo n : Nat) => ((List.range n).map (lo + ·)).filter (fun i => bitOf b i)
  let make := fun (x8 upper : Bool) (l : List Nat) =>
    let pairs := free.zip l
    let at' := fun (k : Nat) => ((pairs.find? (fun p => decide (p.1 = k))).map (·.2)).getD 0x1F
    (⟨x8, upper, at' 16, at' 17⟩ : LanePlan)
  if (bad 0 16).length ≤ free.length then some (make false false (bad 0 16))
  else if !bitOf features 1 then none
  else if (bad 0 8).length ≤ free.length then some (make true false (bad 0 8))
  else if (bad 8 8).length ≤ free.length then some (make true true (bad 8 8))
  else none

/-- The PLAN byte of CAP as the plan has it (R499). The encoding of the spare map is not given. -/
def LanePlan.byte (p : LanePlan) : Nat :=
  (if p.x8 then 1 else 0) + (if p.upper then 2 else 0) + Config.spareMap p.spare0 p.spare1 % 8 * 4

/-- The BAD record takes up the lanes that failed at either end, and the plan is made and sent over the sideband (R495, R496). -/
def makePlan (h features hubFail farFail : Nat) : M (Option LanePlan) := do
  let rec' ← look (fun s => s.fld (Fl.CRAXIS_MOD_STATUS_BAD h) + (s.cxm h).badSpares * 2 ^ 16)
  let b := (rec' ||| hubFail ||| farFail) % 2 ^ 18
  setFld (Fl.CRAXIS_MOD_STATUS_BAD h) (b % 2 ^ 16)
  modCx h (fun x => { x with badSpares := b / 2 ^ 16 })
  match lanePlan features b with
  | none => pure none
  | some p =>
    act (.out (.lanePlan h (if p.x8 then 8 else 16) (if p.upper then 1 else 0) p.spare0 p.spare1))
    setFld (Fl.CRAXIS_MOD_STATUS_WIDTH h) (if p.x8 then 1 else 0)
    setFld (Fl.CRAXIS_MOD_STATUS_HALF h) (if p.upper then 1 else 0)
    setFld (Fl.CRAXIS_MOD_STATUS_SPARE0 h) p.spare0
    setFld (Fl.CRAXIS_MOD_STATUS_SPARE1 h) p.spare1
    let rate ← getFld (Fl.CRAXIS_LINK_CFG_RATE (cxLink h))
    setFld (Fl.CRAXIS_MOD_STATUS_RATE h) (if bitOf features 2 then rate else 0)
    if p.spare0 ≠ 0x1F ∨ p.spare1 ≠ 0x1F then raise Ev.craxisLaneSpared (srcLink h) 0 0
    if p.x8 then raise Ev.craxisWidthDegraded (srcLink h) 0 0
    pure (some p)

/-! The firewall (R502 to R504). -/

/-- A stack is isolated. -/
def isolate (st : Nat) : M Unit := do
  let l := st + 1
  let was ← getFld (Fl.FWALL_STATUS_ISOLATED st)
  if was = 0 then
    setFld (Fl.FWALL_STATUS_ISOLATED st) 1
    setFld (Fl.CRAXIS_LINK_STATUS_ISOLATED l) 1
    for h in cxMods l do
      let x ← look (·.cxm h)
      cxDropped l x.posted
      modCx h (fun x => { CxMod.empty with badSpares := x.badSpares })
      setFld (Fl.CRAXIS_MOD_STATUS_STATE h) cxIsolated
    linkLost l
    act (.cx (fun c => { c with relearn := c.relearn.filter (fun h => decide (cxLink h ≠ l)) }))
    setFld (Fl.CRAXIS_LINK_STATUS_DRAINING l) 0
    linkSync l
    cxFailAll (fun r => decide (r.link = l))
    raiseStop Ev.firewallIsolate (srcStack st) 0 0
    stopJob Ev.firewallIsolate.code

/-- The violations of a stack in the last millisecond, this one with them. -/
def countEsc (st : Nat) : M Nat := do
  let now ← look (·.time)
  act (.cx (fun c => { c with esc := (st, now) :: c.esc.filter (fun e => decide (e.1 ≠ st ∨ now - e.2 < 1000000)) }))
  look (fun s => (s.cx.esc.filter (fun e => decide (e.1 = st))).length)

/-- A violation of a class by a stack: counted, marked, told of once in a millisecond, and acted on (R503). `req` is the request concerned. -/
def violation (st cls : Nat) (req : Option CxReq) : M Unit := do
  let act' ← look (fun s => bitsOf (s.fld (Fl.FWALL_CTRL_ACT st)) (2 * cls + 1) (2 * cls))
  let esc ← getFld (Fl.FWALL_CTRL_ESC st)
  let now ← look (·.time)
  let last ← look (fun s => s.cx.raised.find? (fun e => decide (e.1 = st ∧ e.2.1 = cls)))
  bump (Reg.FWALL_VIOL_LO st cls) 1
  let v ← getFld (Fl.FWALL_STATUS_VIOL st)
  setFld (Fl.FWALL_STATUS_VIOL st) (v ||| 2 ^ cls)
  let quiet := match last with
    | some (_, _, t) => decide (now - t < 1000000)
    | none => false
  if !quiet then
    act (.cx (fun c => { c with raised := (st, cls, now) :: c.raised.filter (fun e => decide (¬(e.1 = st ∧ e.2.1 = cls))) }))
    raise Ev.firewallViolation (srcStack st) 0 0
  let n ← countEsc st
  if 2 ≤ act' ∨ (esc ≠ 0 ∧ esc ≤ n) then isolate st
  else if act' = 1 then
    match req with
    | some r =>
      cxFailAll (fun x => decide (x = r))
      cxRelease r.mod
    | none => pure ()

end Sys2Proof.Machine
end

