-- ==== Sys2Proof/Machine/HostOps.lean ====
section
/-! DEFINITION. Shared operations of the host interface (R461 to R473): rings, completions with their interrupts, detaching. -/

namespace Sys2Proof.Machine

/-- A function, a ring, and changes of them. -/
def State.hfn (s : State) (f : Nat) : HFn := Store.get (fun _ => HFn.empty) s.host.fns f
def State.hring (s : State) (f q : Nat) : HRing := ((s.hfn f).rings[q]?).getD HRing.empty
def modFn (f : Nat) (g : HFn → HFn) : M Unit :=
  act (.fn f g)
def modRing (f q : Nat) (g : HRing → HRing) : M Unit := modFn f (fun x => { x with rings := modAt x.rings q g })

/-- The entries of the two rings of a pair (R461). -/
def State.sqSize (s : State) (f q : Nat) : Nat := 2 ^ s.fld (Fl.RING_CFG_SQ_LOG2 f q)
def State.cqSize (s : State) (f q : Nat) : Nat := 2 ^ s.fld (Fl.RING_CFG_CQ_LOG2 f q)

/-- Is the function attached? -/
def State.attached (s : State) (f : Nat) : Bool := decide (s.fld (Fl.FN_STATUS_ATTACHED f) = 1)

/-- The master code of a function (R585). -/
def fnMaster (f : Nat) : Nat := 0xD0 + f

/-- The module writes to host memory for a function; the PCIe monitor counts the bytes (R614). -/
def hostPut (f a : Nat) (bs : List Byte) : M Unit := do
  act (.out (.hostWrite f a bs))
  bwCount 19 bs.length

/-- Is a vector masked: by its own mask bit, or by Function Mask? -/
def State.msixMasked (s : State) (f v : Nat) : Bool := bitOf (Store.get msixReset s.host.msix (1024 * f + 4 * v + 3)).toNat 0 || (s.hfn f).msixMask

/-- A function's MSI-X vector is signalled: sent, or pending while it is masked; with MSI-X disabled there is no interrupt (R470). -/
def msixSend (f v : Nat) : M Unit := do
  let on ← look (fun s => (s.hfn f).msixOn)
  let masked ← look (·.msixMasked f v)
  if !on then pure ()
  else if masked then act (.host (fun h => { h with msixPend := (f, v) :: h.msixPend.filter (fun e => decide (e ≠ (f, v))) }))
  else act (.out (.msix f v))

/-- A word of a function's MSI-X table is written: a vector that is unmasked while pending is sent. -/
def msixWrite (f w value : Nat) : M Unit := do
  let v := if w % 4 = 3 then value % 2 else if w % 4 = 0 then value / 4 * 4 else value
  act (.msix (1024 * f + w) (BitVec.ofNat 32 v))
  let due ← look (fun s => s.host.msixPend.contains (f, w / 4) && !s.msixMasked f (w / 4) && (s.hfn f).msixOn)
  if w % 4 = 3 ∧ due then
    act (.host (fun h => { h with msixPend := h.msixPend.filter (fun e => decide (e ≠ (f, w / 4))) }))
    act (.out (.msix f (w / 4)))

/-- A function's table, its MSI-X control and its pending bits as they are after a reset of the function. -/
def msixClear (f : Nat) : M Unit := do
  modFn f (fun x => { x with msixOn := false, msixMask := false })
  act (.msixDrop f)
  act (.host (fun h => { h with msixPend := h.msixPend.filter (fun e => decide (e.1 ≠ f)) }))

/-- A ring sends its vector (R470). -/
def ringSignal (f q : Nat) : M Unit := do
  let v ← getFld (Fl.RING_CFG_VECTOR f q)
  modRing f q (fun r => { r with unsig := 0 })
  msixSend f v

/-- Is the completion ring full: no free entry by the head of the last doorbell (R469)? One entry stays empty. -/
def State.cqFull (s : State) (f q : Nat) : Bool :=
  let r := s.hring f q
  decide ((r.cqTail + 1) % s.cqSize f q = r.cqHead)

/-- CQ_FULL follows the ring. -/
def cqSync (f q : Nat) : M Unit := do
  let full ← look (·.cqFull f q)
  setFld (Fl.RING_STATUS_CQ_FULL f q) (if full then 1 else 0)
  if !full then modRing f q (fun r => { r with fullRaised := false })

/-- Where a function's backlog area starts (R473), and whether the nine areas have a place: on a line pair and in T1 (R477). Without one nothing is
written there. -/
def State.backlog (s : State) (f : Nat) : Nat := s.reg64 Reg.HOSTIF_BACKLOG_BASE_LO + f * 65536
def State.backlogOk (s : State) : Bool :=
  let b := s.backlog 0
  onPair b && decide (baseT1 ≤ b) && decide (b + 9 * 65536 ≤ 0x3400000000)

/-- A completion entry (R463). -/
def State.completion (s : State) (f q : Nat) (c : HostCmd) (status : Nat) (result : List Byte) : List Byte :=
  let r := s.hring f q
  (c.entry.drop 2).take 2 ++ leBytes 2 (s.fld (Fl.RING_STATUS_SQ_HEAD f q)) ++ leBytes 1 status ++
    leBytes 1 ((if r.phase then 1 else 0) + 2 * q) ++ (c.entry.drop 6).take 1 ++ [0] ++ leBytes 4 0 ++
    leBytes 4 (s.reg Reg.COLL_STEP).toNat ++ (result ++ List.replicate 16 0).take 16

/-- The command in progress of a ring completes (R463, R466): its entry goes to the completion ring with its interrupt, or, where the function has
detached since, to the orphan slot of its ring (R472, R473). -/
def completeNow (f q : Nat) (c : HostCmd) (status : Nat) (result : List Byte) : M Unit := do
  let r ← look (·.hring f q)
  let e ← look (·.completion f q c status result)
  pmuHub 0x14 1 (some (2 + f)) (some (fnMaster f)) none none
  modRing f q (fun r => { r with cur := none })
  if c.orphan then
    let b ← look (·.backlog f)
    let ok ← look (·.backlogOk)
    if ok then
      tierWrite (b + 32 * q) e
      byteTraffic true (b + 32 * q) 32 (some 1) (some mStage) (some 7)
  else
    let base ← look (·.reg64 (Reg.CQ_BASE_LO f q))
    let n ← look (·.cqSize f q)
    hostPut f (base + 32 * r.cqTail) e
    modRing f q (fun r => { r with
      cqTail := (r.cqTail + 1) % n, phase := if r.cqTail + 1 = n then !r.phase else r.phase, unsig := r.unsig + 1 })
    cqSync f q
    let k ← getFld (Fl.RING_CFG_COAL_COUNT f q)
    if k ≤ r.unsig + 1 then ringSignal f q

/-- The same once it may: a completion is written only while its ring has a free entry, and waits otherwise (R469). -/
def complete (f q status : Nat) (result : List Byte) : M Unit := do
  let r ← look (·.hring f q)
  let full ← look (·.cqFull f q)
  match r.cur with
  | none => pure ()
  | some c =>
    if c.held.isSome then pure ()
    else if full && !c.orphan then modRing f q (fun r => { r with cur := some { c with held := some (status, result) } })
    else completeNow f q c status result

/-- A completion that waits is written where it now may be. -/
def completeHeld (f q : Nat) : M Unit := do
  let r ← look (·.hring f q)
  let full ← look (·.cqFull f q)
  match r.cur with
  | none => pure ()
  | some c =>
    match c.held with
    | some x => if c.orphan || !full then completeNow f q c x.1 x.2
    | none => pure ()

/-- The rings whose command in progress is a START_JOB that waits for the tiles. -/
def State.startRings (s : State) : List (Nat × Nat) :=
  (List.range 9).flatMap (fun f => ((List.range 4).filter (fun q =>
    match (s.hring f q).cur with
    | some c => c.begun && decide (leAt c.entry 0 1 = 2)
    | none => false)).map (fun q => (f, q)))

/-- START_JOB completes: with the starting step once the tiles run, or refused (R464, R465). -/
def startFinish (status : Nat) : M Unit := do
  let l ← look (·.startRings)
  let s0 ← look (·.coll.mgr.s0)
  for x in l do complete x.1 x.2 status (if status = 0 then leBytes 4 s0 else [])

/-- A function detaches (R472, R473): its cause is recorded, unread submissions are discarded, commands in progress become orphans, its backlog area
is rewritten, its pending interrupts are dropped, its event ring is out of use, and its dailies stream in host memory stops (R621). -/
def detach (f cause : Nat) : M Unit := do
  let on ← look (·.attached f)
  if on then
    let epoch ← getFld (Fl.FN_EPOCH_EPOCH f)
    setFld (Fl.FN_STATUS_ATTACHED f) 0
    setFld (Fl.FN_STATUS_CAUSE f) cause
    modFn f (fun x => { x with
      evrOn := false, backProd := 0, backDropped := 0, missed := 0
      rings := x.rings.map (fun r => { r with on := false, tries := none, unsig := 0, cur := r.cur.map (fun c => { c with orphan := true }) }) })
    for q in List.range 4 do
      let r ← look (·.hring f q)
      setFld (Fl.RING_STATUS_SQ_HEAD f q) r.tail
      setFld (Fl.RING_STATUS_STALLED f q) 0
      setFld (Fl.RING_STATUS_CQ_FULL f q) 0
    let b ← look (·.backlog f)
    let ok ← look (·.backlogOk)
    if ok then
      tierWrite b (List.replicate 136 0 ++ leBytes 1 epoch ++ leBytes 1 cause ++ List.replicate 54 0)
      byteTraffic true b 192 (some 1) (some mStage) (some 7)
    act (.host (fun h => { h with msixPend := h.msixPend.filter (fun e => decide (e.1 ≠ f)) }))
    for q in List.range 4 do completeHeld f q
    let host ← getFld (Fl.DLY_CTRL_HOST f)
    if host = 1 then setFld (Fl.DLY_CTRL_ENABLE f) 0
    raise Ev.hostDetached (srcFn f) 0 0

end Sys2Proof.Machine
end

