-- ==== Sys2Proof/Machine/EventOps.lean ====
section
/-! DEFINITION. Event records as they are written (R584), and their copies into the functions' rings and backlogs (R473, R589). -/

namespace Sys2Proof.Machine

/-- The 32 bytes of an event record (R584). -/
def Event.bytes (e : Event) : List Byte :=
  leBytes 2 e.code ++ leBytes 1 (e.sev % 8 + (if e.rep then 8 else 0) + (if e.demotion then 16 else 0) + (if e.hw then 32 else 0)) ++
    leBytes 1 e.seq ++ leBytes 2 (e.kind * 2 ^ 12 + e.index % 2 ^ 12) ++ leBytes 2 (e.detail / 2 ^ 64) ++ leBytes 8 e.slate ++
    leBytes 8 e.time ++ leBytes 8 e.detail

/-! The module event ring (R588, R603). -/

/-- The ring: its size, its base, whether it is in use with its base good, whether it is full, and whether records wait for space in it. -/
def State.ringSize (s : State) : Nat := 2 ^ min (max (s.fld Fl.RAS_EVR_CFG_LOG2) 8) 16
def State.ringBase (s : State) : Nat := s.reg64 Reg.RAS_EVR_BASE_LO
def State.ringOn (s : State) : Bool :=
  decide (s.fld Fl.RAS_EVR_CFG_ENABLE = 1) && onPair s.ringBase && decide (baseT1 ≤ s.ringBase) &&
    decide (s.ringBase + 32 * s.ringSize ≤ 0x3400000000)
def State.ringFull (s : State) : Bool :=
  decide (s.ringSize ≤ ((s.reg Reg.RAS_EVR_PROD).toNat + 2 ^ 32 - (s.reg Reg.RAS_EVR_CONS).toNat) % 2 ^ 32)
def State.ringWaits (s : State) : Bool := s.ringOn && s.ringFull && !s.events.isEmpty

/-- The records of a function's event ring, and whether it has room by its consumer's head: one place stays empty, as in a completion ring. -/
def State.evrSize (s : State) (f : Nat) : Nat := 2 ^ s.fld (Fl.EVR_CFG_LOG2 f)
def State.evrFull (s : State) (f : Nat) : Bool :=
  let x := s.hfn f
  decide ((x.evrTail + 1) % s.evrSize f = x.evrHead)

/-- Write a record into a function's event ring and signal vector 0 (R461, R470). -/
def evrWrite (f : Nat) (b : List Byte) : M Unit := do
  let x ← look (·.hfn f)
  let n ← look (·.evrSize f)
  let base ← look (·.reg64 (Reg.EVR_BASE_LO f))
  hostPut f (base + 32 * x.evrTail) b
  modFn f (fun x => { x with evrTail := (x.evrTail + 1) % n })
  msixSend f 0

/-- A record for an attached function: written, or missed for want of room (R589). -/
def evrRecord (f : Nat) (b : List Byte) : M Unit := do
  let full ← look (·.evrFull f)
  if full then modFn f (fun x => { x with missed := x.missed + 1 }) else evrWrite f b

/-- Once room has returned, the records missed are told of in one EV_EVENT_RING_OVERFLOW record (R589). Its count of module events is free: the
record is stage firmware's, not the hub's. -/
def evrRoom (f : Nat) : M Unit := do
  let x ← look (·.hfn f)
  let full ← look (·.evrFull f)
  if x.missed ≠ 0 ∧ !full then
    let q ← freeValue
    let now ← look (·.time)
    let e := evOf Ev.eventRingOverflow (srcFn f) x.missed 0
    evrWrite f { e with seq := q % 256, time := now }.bytes
    modFn f (fun x => { x with missed := 0 })

/-- A record appended to the backlog of a detached function: when it is full the oldest is overwritten and counted (R473). -/
def backlogRecord (f : Nat) (b : List Byte) : M Unit := do
  let a ← look (·.backlog f)
  let x ← look (·.hfn f)
  let ok ← look (·.backlogOk)
  if ok then
    tierWrite (a + 192 + 32 * (x.backProd % 2042)) b
    let drop := x.backDropped + (if 2042 ≤ x.backProd then 1 else 0)
    modFn f (fun x => { x with backProd := x.backProd + 1, backDropped := drop })
    tierWrite (a + 128) (leBytes 4 (x.backProd + 1) ++ leBytes 4 drop)
    byteTraffic true (a + 192 + 32 * (x.backProd % 2042)) 32 (some 1) (some mStage) (some 7)
    byteTraffic true (a + 128) 8 (some 1) (some mStage) (some 7)

end Sys2Proof.Machine
end

