-- ==== Sys2Proof/Machine/ReelOps.lean ====
section
/-! DEFINITION. The object table and weight versions (R272 to R283), the shard log (R354 to R356), and the Reel's arming, priorities,
fallbacks and abandoned transfers (R284 to R296). -/

namespace Sys2Proof.Machine

/-- The version a reader of a step needs (R280). -/
def versionOf (overlap : Bool) (step : Nat) : Nat := if overlap then step - 1 else step
/-- The version on this module: the restart step of an inexact restore reads its own (R371). -/
def State.versionOf (s : State) (step : Nat) : Nat :=
  Machine.versionOf ((s.job.map (·.overlap)).getD false && decide (s.coll.restartReads ≠ some step)) step

/-- How a versioned read stands (R282). -/
inductive VerJudge where
  | proceed | wait | retired
deriving DecidableEq, Repr

/-- The judgement of R282; an unversioned object is read at once. -/
def Obj.judge (o : Obj) (v : Nat) : VerJudge :=
  if !o.versioned then .proceed
  else if o.ver v = v then .proceed
  else if o.ver v = noVer ∨ o.ver v < v then .wait
  else .retired

/-- A read of a version that is gone (R282): RETIRED, EV_VERSION_RETIRED, and the job stops. -/
def verRetired (src : Nat × Nat) (o v slate : Nat) : M Unit := do
  let x ← look (·.objAt o)
  setBit Fl.REEL_STATUS_RETIRED
  raiseStop Ev.versionRetired src (o + v * 2 ^ 16 + x.ver v * 2 ^ 48) slate
  stopJob Ev.versionRetired.code

/-- GEN of a place of an object (R354). -/
def State.genOf (s : State) (o place : Nat) : Nat :=
  ((s.coll.shardGen.find? (fun e => decide (e.1 = o ∧ e.2.1 = place))).map (·.2.2)).getD 0

/-- Set the VER of a place in the hub's own copy; the write-back is then due (R274), and GEN rises when the place comes to be written
(R354). -/
def setVer (o place v : Nat) : M Unit := do
  let was ← look (fun s => (s.objAt o).ver place)
  act (.reel (fun r => { r with
    objects := modAt r.objects o (fun x => if place = 0 then { x with ver0 := v } else { x with ver1 := v })
    verDue := (r.verDue.filter (fun e => decide (e ≠ (o, place)))) ++ [(o, place)] }))
  if v = noVer ∧ was ≠ noVer then
    let g ← look (·.genOf o place)
    act (.coll (fun c => { c with
      shardGen := (o, place, (g + 1) % 65536) :: c.shardGen.filter (fun e => decide (¬(e.1 = o ∧ e.2.1 = place))) }))

/-! The shard log. -/

/-- Does the module check a tile's reads of an object (R355): NSHARD above 1, or written on another module (no group of its update die
writes it)? -/
def State.shardChecked (s : State) (o : Nat) : Bool :=
  let x := s.objAt o
  x.versioned && (decide (1 < x.nshard) || !s.upd.groups.any (fun g => decide (g.obj = o)))

/-- A versioned read by a tile against its shard log (R355, R356): true when the read goes on. -/
def shardRead (n o v slate : Nat) : M Bool := do
  let check ← look (·.shardChecked o)
  if !check then return true
  let t ← getTile n
  let place := v % 2
  let gen ← look (·.genOf o place)
  let mb := slateMb slate
  let step := slateStep slate
  let slot := mb % 32
  let key := fun (e : ShardRec) => decide (e.slot = slot ∧ e.obj = o ∧ e.step = step ∧ e.mb = mb)
  match t.shardLog.find? key with
  | none =>
    if 16 ≤ (t.shardLog.filter (fun e => decide (e.slot = slot))).length then bump (Reg.COLL_COUNT_LO 4) 1
    else modTile n (fun t => { t with shardLog := t.shardLog ++ [⟨slot, o, step, mb, gen, false, false⟩] })
    pure true
  | some e =>
    if e.renew then
      modTile n (fun t => { t with shardLog := t.shardLog.map (fun x => if key x then { x with gen := gen, renew := false } else x) })
      pure true
    else if e.gen = gen then pure true
    else
      bump (Reg.COLL_COUNT_LO 3) 1
      setBit Fl.COLL_STATUS_STALE
      let replay ← getFld Fl.COLL_CTRL_STALE_ACTION
      let detail := o + e.gen * 2 ^ 16 + gen * 2 ^ 32
      if replay = 1 ∧ t.take.isSome ∧ !e.again then
        raise Ev.staleShard (srcTile n) detail slate
        setBit Fl.COLL_STATUS_INEXACT
        modTile n (fun t => { t with shardLog := t.shardLog.map (fun x => if key x then { x with renew := true, again := true } else x) })
        failTake n 0 0 false false
      else
        raiseStop Ev.staleShard (srcTile n) detail slate
        stopJob Ev.staleShard.code
      pure false

/-! The Reel. -/

/-- The entries that apply to a tile at a cue number (R286). A lower entry applies through the entry before it. -/
def State.applying (s : State) (n cue : Nat) : List (Nat × ReelEntry) :=
  ((s.reel.entries.zipIdx.map (fun p => (p.2, p.1))).filter (fun p =>
    decide (p.2.cue = cue ∧ p.2.tile0 ≤ n ∧ n ≤ p.2.tile0 + p.2.ntm1) && !p.2.alt))

/-- The armed occurrence of an entry for a tile. -/
def State.xfer (s : State) (e n : Nat) : Option Xfer := s.reel.xfers.find? (fun x => decide (x.entry = e ∧ x.tile = n))

/-- Insert a transfer into a list in table order, after those of its own entry. -/
def insertXfer (x : Xfer) : List Xfer → List Xfer
  | [] => [x]
  | y :: t => if x.entry < y.entry then x :: y :: t else y :: insertXfer x t

/-- Is a transfer served before another: its cue was reached earlier, or together and it stands earlier in the table (R289)? -/
def Xfer.sooner (x y : Xfer) : Bool :=
  let a := x.reached.getD 0
  let b := y.reached.getD 0
  decide (a < b) || (decide (a = b) && decide (x.entry < y.entry))

/-- Insert a transfer into a list of reached ones in the order reached. -/
def insertReached (x : Xfer) : List Xfer → List Xfer
  | [] => [x]
  | y :: t => if x.sooner y then x :: y :: t else y :: insertReached x t

/-- Transfers in priority (R289): those whose cue has been reached first, in the order reached; then the others in table order. -/
def Reel.priority (r : Reel) : List Xfer :=
  let q := r.xfers.filter (fun x => decide (x.st = .queued))
  (q.filter (·.reached.isSome)).foldl (fun l x => insertReached x l) [] ++
    (q.filter (·.reached.isNone)).foldl (fun l x => insertXfer x l) []

/-- The place of a tile's last cue in the order reached. -/
def State.cueSeq (s : State) (n : Nat) : Nat := ((s.reel.cueSeq.find? (fun e => decide (e.1 = n))).map (·.2)).getD 0

/-- Transfers in flight at a time (R300). -/
def State.inflightMax (s : State) : Nat := min (max (s.fld Fl.REEL_CTRL_INFLIGHT_MAX) 1) 64

/-- BUSY and INFLIGHT follow the transfers (R301). -/
def reelSync : M Unit := do
  let n ← look (fun s => min s.reel.priority.length s.inflightMax)
  setFld Fl.REEL_STATUS_BUSY (if n = 0 then 0 else 1)
  setFld Fl.REEL_STATUS_INFLIGHT n

/-- Change the transfer of an entry for a tile. -/
def modXfer (e n : Nat) (f : Xfer → Xfer) : M Unit :=
  act (.reel (fun r => { r with xfers := r.xfers.map (fun x => if x.entry = e ∧ x.tile = n then f x else x) }))

/-- A Reel entry whose version is gone is refused (R282). -/
def reelJudge (e n : Nat) : M Unit := do
  let x ← look (·.xfer e n)
  match x with
  | none => pure ()
  | some x =>
    let o ← look (fun s => (s.entry e).obj)
    let v ← look (·.versionOf x.step)
    let ob ← look (·.objAt o)
    if ob.judge v = .retired then verRetired (srcUnit mReel) o v (mkSlate x.step x.mb 0 0 0)

/-- Arm an entry for a tile, if it is not armed (R287). -/
def armEntry (e n step mb : Nat) : M Unit := do
  let x ← look (·.xfer e n)
  if x.isNone then
    let en ← look (·.entry e)
    act (.reel (fun r => { r with xfers := r.xfers ++ [⟨e, n, step, (mb + en.mbAdv) % 4096, .queued, none, false⟩] }))
    reelJudge e n

/-- Where a transfer reads: the version it needs, and the first byte (R288). -/
def State.xferSrc (s : State) (x : Xfer) : Nat × Nat :=
  let e := s.entry x.entry
  let o := s.objAt e.obj
  let v := s.versionOf x.step
  (v, o.addr v + (e.srcOff + (if e.bcast then 0 else (x.tile - e.tile0) * (e.lines + 1)) + x.mb % 32 * e.mbStride) * 96)

/-- Is a queued transfer in flight: among the first in priority, and not waiting for its version (R282, R289)? -/
def State.inFlight (s : State) (x : Xfer) : Bool :=
  (s.reel.priority.take s.inflightMax).any (fun y => decide (y = x)) &&
    decide ((s.objAt (s.entry x.entry).obj).judge (s.versionOf x.step) = .proceed)

/-- Every transfer for a tile is abandoned and forgotten. -/
def abandonTile (n : Nat) : M Unit := do
  let xs ← look (fun s => s.reel.xfers.filter (fun x => decide (x.tile = n)))
  for x in xs do abandonXfer x
  act (.reel (fun r => { r with xfers := r.xfers.filter (fun x => decide (x.tile ≠ n)) }))
  reelSync

/-- What the Reel records at a TAKE_BEGIN (R296). -/
def reelTakeBegin (n : Nat) : M Unit :=
  act (.reel (fun r => { r with
    takeRecord := (n, (r.xfers.filter (fun x => decide (x.tile = n))).map (fun x => { x with st := .queued, reached := none, missed := false })) ::
      r.takeRecord.filter (fun e => decide (e.1 ≠ n)) }))

/-- The recorded entries of a tile start again (R296). -/
def reelTakeResume (n : Nat) : M Unit := do
  act (.reel (fun r => { r with
    xfers := r.xfers.filter (fun x => decide (x.tile ≠ n)) ++ ((r.takeRecord.find? (fun e => decide (e.1 = n))).map (·.2)).getD [] }))
  reelSync

/-- The first LOWER or SKIP fallback of a step (R294). -/
def reelInexact (step e : Nat) : M Unit := do
  setBit Fl.REEL_STATUS_INEXACT
  setBit Fl.COLL_STATUS_INEXACT
  let told ← look (·.reel.inexactSteps.contains step)
  if !told then
    act (.reel (fun r => { r with inexactSteps := step :: r.inexactSteps }))
    raise Ev.reelInexact (srcUnit mReel) (step % 2 ^ 32 + e * 2 ^ 32) (mkSlate step 0 0 0 0)

/-- An entry misses on a tile (R291, R292): its count, and its fallback. `step` and `mb` are those of the tile's Slate, and it is
that step which a LOWER or SKIP fallback takes out of the statement (R294). -/
def reelMiss (e n step mb : Nat) : M Unit := do
  let en ← look (·.entry e)
  let x ← look (·.xfer e n)
  let occ := (x.map (fun x => (x.step, x.mb))).getD (step, mb)
  bump (Reg.REEL_COUNT_LO (2 + en.fallback)) 1
  let addr ← look (fun s => x.map (fun x => (s.xferSrc x).2))
  pmuHub 0x09 1 none none addr none
  if en.fallback ≠ 0 then
    match x with
    | some x => abandonXfer x
    | none => pure ()
    let st := if en.fallback = 2 then XferState.lower else XferState.missed
    let k ← look (·.cueSeq n)
    act (.reel (fun r => { r with
      xfers := r.xfers.filter (fun x => decide (¬(x.entry = e ∧ x.tile = n))) ++ [⟨e, n, occ.1, occ.2, st, some k, true⟩] ++
        (if en.fallback = 2 then [⟨e + 1, n, occ.1, occ.2, .queued, some k, false⟩] else []) }))
    if 2 ≤ en.fallback then reelInexact step e
  else modXfer e n (fun x => { x with missed := true })
  reelSync

/-- A cue is reached on a tile (R291): LATE entries are counted and marked, and a DEADLINE of 0 takes the fallback at once. -/
def cueReached (n cue slate : Nat) : M Unit := do
  let k ← look (·.reel.reaches)
  act (.reel (fun r => { r with reaches := k + 1, cueSeq := (n, k) :: r.cueSeq.filter (fun e => decide (e.1 ≠ n)) }))
  let app ← look (·.applying n cue)
  for p in app do
    let x ← look (·.xfer p.1 n)
    if x.any (fun x => decide (x.st = .placed)) then pure ()
    else
      bump (Reg.REEL_COUNT_LO 1) 1
      let addr ← look (fun s => x.map (fun x => (s.xferSrc x).2))
      pmuHub 0x08 1 none none addr none
      modXfer p.1 n (fun y => { y with reached := some k })
      if p.2.deadline = 0 then reelMiss p.1 n (slateStep slate) (slateMb slate)
  reelSync

/-- Has an applying entry been resolved on a tile (R244, R292)? -/
def State.entryResolved (s : State) (e n : Nat) : Bool :=
  match s.xfer e n with
  | none => false
  | some x =>
    match x.st with
    | .queued => false
    | .placed => true
    | .missed => true
    | .lower => (s.xfer (e + 1) n).any (fun y => decide (y.st = .placed))

/-- The entry whose lines stand placed for an applying entry: itself, or its lower entry. -/
def State.entryHolder (s : State) (e n : Nat) : Option Nat :=
  match s.xfer e n with
  | some x => if x.st = .placed then some e else if x.st = .lower then some (e + 1) else none
  | none => none

/-- Do the lines of an entry call for the comparison of R290, and do they belong to another occurrence? -/
def State.entryMismatch (s : State) (e n slate : Nat) : Bool :=
  let en := s.entry e
  (decide (en.mbStride ≠ 0) || (s.objAt en.obj).versioned) &&
    (match s.xfer e n with
      | some x => decide (x.step ≠ slateStep slate) || decide (x.mb ≠ slateMb slate)
      | none => false)

/-- A CUE consumes the occurrences that apply to it and arms what starts at it (R287). -/
def cueConsume (n cue slate : Nat) : M Unit := do
  let app ← look (·.applying n cue)
  let gone := app.flatMap (fun p => if p.2.fallback = 2 then [p.1, p.1 + 1] else [p.1])
  act (.reel (fun r => { r with xfers := r.xfers.filter (fun x => decide (x.tile ≠ n) || !gone.contains x.entry) }))
  for p in app do
    if p.2.start = 0xFFFF then armEntry p.1 n (slateStep slate) (slateMb slate)
  let starts ← look (fun s => s.reel.entries.zipIdx.filter (fun p =>
    decide (p.1.start = cue ∧ p.1.start ≠ 0xFFFF ∧ p.1.tile0 ≤ n ∧ n ≤ p.1.tile0 + p.1.ntm1) && !p.1.alt))
  for p in starts do armEntry p.2 n (slateStep slate) (slateMb slate)
  reelSync

end Sys2Proof.Machine
end

