-- ==== Sys2Proof/Machine/PortOps.lean ====
section
/-! DEFINITION. The transmit side of the ports (R386, R388, R390, R401, R402) and the byte counts of the bandwidth monitors (R614). -/

namespace Sys2Proof.Machine

/-- A port's holdings. -/
def State.port (s : State) (n : Nat) : Port := Store.get (fun _ => Port.empty) s.ports n
def getPort (n : Nat) : M Port := look (·.port n)
def modPort (n : Nat) (f : Port → Port) : M Unit := act (.port n f)

/-- The bytes a port has queued. -/
def Port.queued (p : Port) : Nat := (p.held.map (·.2.1)).sum

/-- The port states of R383. -/
def macDisabled : Nat := 0
def macDown : Nat := 1
def macTraining : Nat := 2
def macUp : Nat := 3
def macStepping : Nat := 4
def macRetrain : Nat := 5

/-- Is the port one of the nine, and UP? -/
def State.portUp (s : State) (n : Nat) : Bool := decide (n ≤ 8) && decide (s.fld (Fl.MAC_STATUS_STATE n) = macUp)

/-- A moment in 1/16 ns after (or before) the present by a latency in 1/16 ns, as nanoseconds and a fraction (R389, R392). -/
def State.stamp (s : State) (late : Bool) (lat : Nat) : Nat × Nat :=
  let t := if late then 16 * s.time + lat else 16 * s.time - lat
  (t / 16, t % 16)

/-- Frames sent on a port are counted (R412, R614), and its transmit side has been used (R399, R402). -/
def portSent (n frames bytes : Nat) : M Unit := do
  bump (Reg.MAC_COUNT_LO n 2) frames
  bump (Reg.MAC_COUNT_LO n 3) bytes
  bwCount (2 * n + 1) bytes
  modPort n (fun p => { p with txWin := p.txWin + bytes, idleUs := 0 })

/-- The frames that an output is: the spec does not say how many carry a mirror write, and every other output is one. -/
def Out.frames : Out → Nat
  | .mirror k .. => k
  | _ => 1

/-- A frame leaves a port; one from the management queue reports its egress timestamp (R389), and the answer to a peer-delay request is followed by its own:
the module is two-step (R391). -/
def portOut (n len : Nat) (o : Out) : M Unit := do
  let t ← look (fun s => s.stamp true (s.fld (Fl.MAC_PTP_LAT_TX_LAT n)))
  portSent n o.frames len
  act (.out o)
  match o with
  | .frame _ f => modPort n (fun p => { p with txq := List.drop (p.txq.length + 1 - 64) (p.txq ++ [MFrame.mk f t.1 t.2]) })
  | .pdelayResp _ tag _ =>
    portSent n 1 len
    act (.out (.pdelayFollow n tag t))
  | _ => pure ()

/-- Does the port hold its transmit queue: during a step (R401), or in low-power idle (R402)? -/
def State.portHolds (s : State) (n : Nat) : Bool :=
  decide (s.fld (Fl.MAC_STATUS_STATE n) = macStepping) || decide (s.fld (Fl.MAC_STATUS_LPI_TX n) = 1)

/-- Is a frame that waits at a port an NRT packet? -/
def isPacket (o : Out) : Bool :=
  match o with
  | .packet _ => true
  | _ => false

/-- BUSY and FAILED follow the flows, and the packets that wait at the ports (R445). -/
def nrtSync : M Unit := do
  let fs ← look (fun s => s.nrt.flows.map (·.2))
  let held ← look (fun s => (List.range 9).any (fun n => (s.port n).held.any (fun x => isPacket x.2.2)))
  setFld Fl.NRT_STATUS_BUSY (if held || fs.any (fun f => !f.tx.isEmpty || !f.acks.isEmpty || !f.back.isEmpty) then 1 else 0)
  setFld Fl.NRT_STATUS_FAILED (fs.filter (fun f => decide (f.state = 2))).length

/-- A frame of a priority and length goes out on a port, or is held; a frame is at least 64 bytes (R388). -/
def portSend (n pcp len : Nat) (o : Out) : M Unit := do
  let hold ← look (·.portHolds n)
  let p ← getPort n
  let len := max len 64
  if hold || p.paused.contains pcp then
    modPort n (fun p => { p with held := p.held ++ [(pcp, len, o)] })
    if isPacket o then setFld Fl.NRT_STATUS_BUSY 1
  else portOut n len o

/-- Held frames that nothing holds any more go out. -/
def portRelease (n : Nat) : M Unit := do
  let hold ← look (·.portHolds n)
  let p ← getPort n
  if !hold then
    modPort n (fun p => { p with held := p.held.filter (fun f => p.paused.contains f.1) })
    for f in p.held.filter (fun f => !p.paused.contains f.1) do portOut n f.2.1 f.2.2
    if p.held.any (fun x => isPacket x.2.2) then nrtSync

/-- The bytes that the tag adds to a frame, and the priorities of R386. -/
def State.tagBytes (s : State) (n : Nat) : Nat := 4 * s.fld (Fl.MAC_VLAN_TAG_EN n)
def State.dataPcp (s : State) (n : Nat) : Nat := s.fld (Fl.MAC_VLAN_DATA_PCP n)
def State.mgmtPcp (s : State) (n : Nat) : Nat := s.fld (Fl.MAC_VLAN_MGMT_PCP n)

/-- The tag control information of a frame of a priority, on a port that tags. -/
def State.tagOf (s : State) (n pcp : Nat) : Option Nat :=
  if s.fld (Fl.MAC_VLAN_TAG_EN n) = 1 then some (pcp * 2 ^ 13 + s.fld (Fl.MAC_VLAN_VID n)) else none

/-- The longest frame that a port takes, and sends (R387, R388). -/
def State.frameLimit (s : State) (n : Nat) : Nat := if s.fld (Fl.MAC_CTRL_JUMBO n) = 1 then 9216 else 1522

/-! Use of the ports in windows of 1 ms (R399), backlog and idle time. -/

/-- The speed of a port in 0.1 GB/s, by its speed code (R381, R405). -/
def speedRate (c : Nat) : Nat := if c = 1 then 125 else if c = 2 then 250 else if c = 3 then 500 else 0

/-- A port's windows begin anew. -/
def Port.fresh (p : Port) : Port := { p with winUs := 0, txWin := 0, rxWin := 0, low := 0, busy := false, backUs := 0, idleUs := 0 }

/-- A microsecond of a port: the microseconds its transmit side has been idle and its backlog over STEP_BACKLOG, each in a row; at 1 ms the larger of its two
utilisations is held against 10 % and UP_SHARE. A field of 0 is taken as 1, and a share outside 11 to 100 is clamped (R409). -/
def Port.micro (p : Port) (kib share rate : Nat) : Port :=
  let q := { p with
    idleUs := if p.held.isEmpty then p.idleUs + 1 else 0
    backUs := if max kib 1 * 1024 < p.queued then p.backUs + 1 else 0 }
  if p.winUs + 1 < 1000 then { q with winUs := p.winUs + 1 }
  else
    let used := max p.txWin p.rxWin
    let full := rate * 100000
    { q with winUs := 0, txWin := 0, rxWin := 0, low := if 10 * used < full then p.low + 1 else 0
             busy := decide (min (max share 11) 100 * full < 100 * used) }

end Sys2Proof.Machine
end

