-- ==== Sys2Proof/Machine/NrtOps.lean ====
section
/-! DEFINITION. The sending side of the NRT engine: flows and paths (R423 to R426), the window and the packets (R413 to R416, R427), what an
ACK and a NAK do at the sender (R422, R430, R431), the handing over of tile sends (R231, R242, R583), failed flows (R432). -/

namespace Sys2Proof.Machine

/-- The operations of R415. -/
def opWrite : Nat := 1
def opWriteNotify : Nat := 2
def opReadReq : Nat := 3
def opReadResp : Nat := 4
def opAck : Nat := 5
def opNak : Nat := 6
def opMgmt : Nat := 7

/-- Data packets (R413). -/
def isDataOp (op : Nat) : Bool := decide (op = 1 ∨ op = 2 ∨ op = 4)

/-! The wire (R413, R414). -/

/-- A number in n bytes of network byte order, and back. -/
def beBytes (n v : Nat) : List Byte := (leBytes n v).reverse
def beNat (bs : List Byte) : Nat := bs.foldl (fun n b => n * 256 + b.toNat) 0

/-- The 40 bytes of a packet's header, its reserved bits 0, and the packet's ECRC. -/
def headerBytes (p : Packet) : List Byte :=
  beBytes 1 (p.ver * 16 + p.op) ++ beBytes 1 ((if p.dgram then 1 else 0) + (if p.retx then 2 else 0)) ++ beBytes 2 p.dstFlow ++ beBytes 2 p.srcFlow ++
    beBytes 1 p.epoch ++ beBytes 1 p.path ++ beBytes 4 p.psn ++ beBytes 4 p.key ++ beBytes 5 p.offset ++ beBytes 1 0 ++ beBytes 2 p.length ++
    beBytes 8 p.slate ++ beBytes 8 p.bitmap
def ecrcOf (p : Packet) : Nat := crc32c (headerBytes p ++ p.payload)

/-- READ_LEN, RESP_KEY and RESP_OFFSET of a READ_REQ's payload, in network byte order (R415). -/
def readLen (p : Packet) : Nat := beNat (p.payload.take 4)
def respKey (p : Packet) : Nat := beNat ((p.payload.drop 4).take 4)
def respOffset (p : Packet) : Nat := beNat ((p.payload.drop 8).take 8)

/-- PSN arithmetic modulo 2^24. -/
def psnSub (a b : Nat) : Nat := (a + 2 ^ 24 - b) % 2 ^ 24

/-- A flow context, and a change of it. -/
def State.flow (s : State) (f : Nat) : Flow := Store.get (fun _ => Flow.free) s.nrt.flows f
def getFlow (f : Nat) : M Flow := look (·.flow f)
def modFlow (f : Nat) (g : Flow → Flow) : M Unit :=
  act (.flow f g)

/-- The bytes of a data packet (R416), and of a flow's collective chunk in line pairs (R360). -/
def Flow.payload (f : Flow) : Nat := if f.big then 8192 else 4096
def Flow.chunkPairs (f : Flow) : Nat := if f.big then 42 else 21

/-- An event that concerns a flow: at most one of a kind in 1 ms; others are counted (R443). -/
def flowEvent (e : Ev) (f detail slate : Nat) : M Unit := do
  let fl ← getFlow f
  let now ← look (·.time)
  match fl.lastEvent.find? (fun x => decide (x.1 = e.code)) with
  | some x =>
    if now < x.2 + 1000000 then bump (Reg.NRT_COUNT_LO 12) 1
    else
      modFlow f (fun fl => { fl with lastEvent := (e.code, now) :: fl.lastEvent.filter (fun y => decide (y.1 ≠ e.code)) })
      raise e (srcFlow f) detail slate
  | none =>
    modFlow f (fun fl => { fl with lastEvent := (e.code, now) :: fl.lastEvent })
    raise e (srcFlow f) detail slate

/-- The detail of a key fault: cause, key and offset; the flow is the source (R443, R584). -/
def faultDetail (cause key offset : Nat) : Nat := cause + key % 2 ^ 32 * 2 ^ 8 + offset % 2 ^ 40 * 2 ^ 40

/-! Paths. -/

/-- Is a path usable (R425)? -/
def State.pathUsable (s : State) (x : NPath) (data : Bool) : Bool :=
  x.valid && s.portUp x.port && s.nrt.hops.contains (x.port, x.ip) && (!data || decide (s.fld (Fl.MAC_CTRL_JUMBO x.port) = 1))

/-- The usable path with the fewest bytes queued, ties to the lowest; another than `avoid` where there is one (R425). -/
def State.choosePath (s : State) (f : Nat) (data : Bool) (avoid : Option Nat) : Option Nat :=
  let all := ((s.flow f).paths.zipIdx.filter (fun x => s.pathUsable x.1 data)).map (fun x => (x.2, (s.port x.1.port).queued))
  let other := all.filter (fun x => decide (some x.1 ≠ avoid))
  let c := if other.isEmpty then all else other
  match c with
  | [] => none
  | h :: t => some (t.foldl (fun (b x : Nat × Nat) => if x.2 < b.2 then x else b) h).1

/-- The class of NRT traffic (R613). A flow of the bucket table carries collective traffic. -/
def State.nrtClass (s : State) (f : Nat) (p : Packet) : Nat :=
  if p.op = opMgmt then 2
  else if p.op = opReadReq ∨ p.op = opReadResp then 6
  else if slatePhase p.slate = 4 then 5
  else if slatePhase p.slate = 2 then 4
  else if s.coll.buckets.any (fun b => decide (b.flow ≤ f ∧ f < b.flow + 7)) then 3
  else if (s.flow f).peerModule = 0xFF then 0
  else 1

/-- An NRT hub event with its attributes. -/
def pmuNrt (ev f : Nat) (p : Packet) : M Unit := do
  let own ← look (·.ownerBit)
  let c ← look (·.nrtClass f p)
  pmuHub ev 1 (some own) none none (some c)

/-- A packet leaves on a path of its flow (R413, R386). -/
def packetOut (f path : Nat) (p : Packet) : M Unit := do
  let fl ← getFlow f
  match fl.paths[path]? with
  | none => pure ()
  | some x =>
    let bytes ← look (·.tagBytes x.port)
    let pcp ← look (fun s => if p.op = opMgmt then s.mgmtPcp x.port else s.dataPcp x.port)
    let tag ← look (·.tagOf x.port pcp)
    let udp ← getFld Fl.NRT_CTRL_UDP_PORT
    let q := { p with path := path }
    pmuNrt 0x0A f p
    portSend x.port pcp (14 + bytes + (if x.ipv6 then 40 else 20) + 8 + 40 + p.payload.length + 8)
      (.packet ⟨x.port, f, path, tag, x.ipv6, x.ip, 64, !x.ipv6, 0xC000 + (f * 8 + path) % 0x4000, udp, isDataOp p.op, q, ecrcOf q⟩)

/-- A packet of a flow, but for its operation's own fields. -/
def Flow.packet (fl : Flow) (f op : Nat) : Packet :=
  { ver := 1, op := op, dgram := false, retx := false, dstFlow := fl.peerFlow, srcFlow := f, epoch := fl.epoch, path := 0, psn := 0
    key := 0, offset := 0, length := 0, slate := 0, bitmap := 0, payload := [], port := 15, ce := false, ecrcOk := true }

/-! Queuing. -/

/-- A sequenced packet is given its PSN and queued on an ACTIVE flow; on another one it is discarded (R427, R432). -/
def nrtEnqueue (f op key offset : Nat) (payload : List Byte) (slate : Nat) (tile : Option Nat) (ord : Nat) : M Unit := do
  let fl ← getFlow f
  if fl.state = 1 then
    let p := { fl.packet f op with
      psn := fl.next, key := key, offset := offset % 2 ^ 40, length := payload.length, slate := slate, payload := payload }
    modFlow f (fun fl => { fl with
      next := (fl.next + 1) % 2 ^ 24, tx := fl.tx ++ [⟨fl.next, p, tile, ord, none, 0, 0, 0, none, false⟩] })
    setFld Fl.NRT_STATUS_BUSY 1

/-- Cut bytes into packets' payloads. -/
def cutBytes (size : Nat) : Nat → List Byte → List (List Byte)
  | 0, _ => []
  | k + 1, bs => if bs.isEmpty then [] else bs.take size :: cutBytes size k (bs.drop size)

/-- A message of WRITEs, its last packet a WRITE_NOTIFY when asked. -/
def nrtWrite (f key offset : Nat) (bytes : List Byte) (slate : Nat) (notify : Bool) (tile : Option Nat) (ord : Nat) : M Unit := do
  let fl ← getFlow f
  let parts := cutBytes fl.payload bytes.length bytes
  for x in parts.zipIdx do
    nrtEnqueue f (if notify ∧ x.2 + 1 = parts.length then opWriteNotify else opWrite) key (offset + x.2 * fl.payload) x.1 slate tile ord

/-! Tile sends. -/

/-- A refused send (R583): EV_POISON_EXPORT; it fails the open Take without a stand-in, or stops the job. -/
def refuseExport (n : Nat) (q : SendItem) : M Unit := do
  let t ← getTile n
  if t.take.isNone then
    raiseStop Ev.poisonExport (srcUnit mNrt) 0 q.slate
    stopJob Ev.poisonExport.code
  else
    raise Ev.poisonExport (srcUnit mNrt) 0 q.slate
    failTake n q.pc q.line false false

/-- The pieces a send hands over: its flow, key, byte offset and bytes. A list-driven send gives its rows with their scale bytes, then the
fill record (R212). -/
def State.sendPieces (s : State) (n : Nat) (q : SendItem) : List (Nat × Nat × Nat × List Byte) :=
  match q.kind with
  | .list =>
    let p := q.target.aux
    let l := s.listOf n q.list
    let base := s.tileBase n
    let rows := l.2.zipIdx.flatMap (fun e =>
      let row := e.1.1
      let slot := l.1.slot0 + e.2
      [(Config.listFlow p, Config.listKey p, Config.listOffset p slot,
          s.bytes (base + Config.listLine 0 p row * 96) (listRow p * 96)),
        (Config.listFlow p, Config.listKey p, Config.listScale 1 p slot,
          s.bytes (base + Config.listScale 0 p row) (listRowScales p))])
    rows ++ [(Config.listFlow p, Config.listKey p, Config.listFill p + 2 * l.1.src, leBytes 2 l.1.length)]
  | _ => [(q.target.aux, q.target.target, q.offset, s.bytes (s.tileBase n + q.line * 96) (q.count * 96))]

/-- The scratchpad lines that a send hands over. -/
def State.sendLines (s : State) (n : Nat) (q : SendItem) : List Nat :=
  match q.kind with
  | .list => (s.listOf n q.list).2.flatMap (fun e =>
      (List.range (listRow q.target.aux)).map (fun i => Config.listLine 0 q.target.aux e.1 + i))
  | _ => (List.range q.count).map (fun i => q.line + i)

/-- Every scratchpad line a send reads: a list-driven one reads the lines of its rows' scale bytes too (R212). -/
def State.sendReads (s : State) (n : Nat) (q : SendItem) : List Nat :=
  s.sendLines n q ++
    (match q.kind with
      | .list => ((s.listOf n q.list).2.flatMap (fun e =>
          (List.range (listRowScales q.target.aux)).map (fun i => (Config.listScale 0 q.target.aux e.1 + i) / 96))).eraseDups
      | _ => [])

/-- The flow a send goes out on. -/
def SendItem.flow (q : SendItem) : Nat := if q.kind = .list then Config.listFlow q.target.aux else q.target.aux

/-- The NRT engine takes the oldest queued send of a tile while its flow's window has room for a packet; a failed flow's is discarded and
never completes (R427, R432). A list-driven one waits for the BUILD that writes its list, and the wait is counted (R211). -/
def pumpSends (n : Nat) : M Unit := do
  for _ in List.range 16 do
    let t ← getTile n
    match t.sendQ with
    | [] => pure ()
    | q :: rest =>
      let fl ← getFlow q.flow
      if q.kind = .list ∧ t.buildBefore q.ord q.list then pure ()
      else if fl.state ≠ 1 ∨ psnSub fl.next fl.una < 1024 then
        modTile n (fun t => { t with sendQ := rest })
        let v ← tileMem n
        let lines ← look (·.sendLines n q)
        let reads ← look (·.sendReads n q)
        let bad := (reads.filter v.bad).length
        countPoison bad
        pmuTile n 0x18 bad (some q.pc) q.slate false
        if bad ≠ 0 then refuseExport n q
        else
          let parts ← look (·.sendPieces n q)
          pmuTile n 0x10 lines.length (some q.pc) q.slate true
          modTile n (fun t => { t with sendsOut := t.sendsOut + 1 })
          if fl.state ≠ 1 then act (.nrt (fun x => { x with lost := x.lost ++ [q.slate] }))
          else
            for p in parts do nrtWrite p.1 p.2.1 p.2.2.1 p.2.2.2 q.slate (decide (q.kind = .notify)) (some n) q.ord
  let t ← getTile n
  match t.sendQ with
  | [] => pure ()
  | q :: _ => if q.kind = .list ∧ t.buildBefore q.ord q.list then bump (Reg.TILE_DSP_STALL_LO n) 1

/-- Every tile that waits to hand over a send tries. -/
def pumpAll : M Unit := do
  let ns ← look (fun s => (s.tiles.filter (fun t => !t.2.sendQ.isEmpty)).map (·.1))
  for n in ns do pumpSends n

/-! Acknowledgement at the sender. -/

/-- Packets of a flow are acknowledged: they leave its window, and sends with none left complete (R242, R427). -/
def ackTx (f : Nat) (hit : TxPkt → Bool) : M Unit := do
  let fl ← getFlow f
  let gone := fl.tx.filter hit
  if !gone.isEmpty then
    let left := fl.tx.filter (fun x => !hit x)
    modFlow f (fun fl => { fl with tx := left, una := (left.head?.map (·.psn)).getD fl.next })
    let sends := (gone.filterMap (fun x => x.tile.map (fun n => (n, x.ord)))).eraseDups
    for x in sends do
      let more ← look (fun s => s.nrt.flows.any (fun e => e.2.tx.any (fun y => decide (y.tile = some x.1 ∧ y.ord = x.2))))
      if !more then
        modTile x.1 (fun t => { t with sendsOut := t.sendsOut - 1 })
        sampleDone x.1 x.2
    pumpAll

/-- Change the packet of a PSN. -/
def modTx (f psn : Nat) (g : TxPkt → TxPkt) : M Unit :=
  modFlow f (fun fl => { fl with tx := fl.tx.map (fun x => if x.psn = psn then g x else x) })

/-- A retransmission of a PSN on another path where there is one; with no path it waits for one, and on a loopback flow for its turn in the hub (R425,
R431). `counts` says whether it counts as a retransmission (R422). -/
def retransmit (f : Nat) (x : TxPkt) (counts : Bool) : M Unit := do
  let fl ← getFlow f
  let now ← look (·.time)
  let path ← look (fun s => if fl.loopback then none else s.choosePath f (isDataOp x.pkt.op) (some x.path))
  let p := { x.pkt with retx := true }
  let more := if counts then x.tries + 1 else x.tries
  if fl.loopback || path.isSome then
    if counts then
      bump (Reg.NRT_COUNT_LO 2) 1
      pmuNrt 0x0B f p
  match path with
  | none =>
    if fl.loopback then modTx f x.psn (fun y => { y with pkt := p, sent := none, retryAt := none, quiet := true, tries := more })
    else modTx f x.psn (fun y => { y with pkt := p, sent := none, retryAt := none, quiet := !counts })
  | some i =>
    modTx f x.psn (fun y => { y with pkt := p, sent := some now, path := i, retryAt := none, quiet := false, tries := more })
    packetOut f i p

/-- g = 2^−G_SHIFT, and a time in µs, in ns. A field of 0 is taken as 1 (R446). -/
def State.usOf (s : State) (f : Fld) : Nat := max (s.fld f) 1 * 1000
def State.gain (s : State) : Dy := (Dy.ofInt 1).scale (-(max (s.fld Fl.NRT_RATE_G_SHIFT) 1 : Int))

/-- Rates are held in units of 0.1 GB/s; none falls below MIN (R442). -/
def State.rateMin (s : State) : Dy := Dy.ofInt (max (s.fld Fl.NRT_RATE_MIN) 1 : Nat)
def rateFloor (r lo : Dy) : Dy := if r.lt lo then lo else r

/-- The cut of R442 on an ACK that carries CE marks, at most once per CUT_US. -/
def rateCut (f : Nat) : M Unit := do
  let now ← look (·.time)
  let cut ← look (·.usOf Fl.NRT_RATE_CUT_US)
  let g ← look (·.gain)
  let lo ← look (·.rateMin)
  modFlow f (fun fl =>
    if fl.lastCut.any (fun c => decide (now < c + cut)) then { fl with ceInPeriod := true }
    else { fl with
      ceInPeriod := true, lastCut := some now
      rate := rateFloor (fl.rate.mul ((Dy.ofInt 1).sub (fl.alpha.scale (-1)))) lo
      alpha := fl.alpha.add (g.mul ((Dy.ofInt 1).sub fl.alpha)) })

/-- What an ACK does at the sender (R430, R431, R442). -/
def takeAck (f ackPsn bitmap ce : Nat) : M Unit := do
  let fl ← getFlow f
  let hit := fun (x : TxPkt) =>
    let d := psnSub x.psn ackPsn
    (x.sent.isSome || x.pkt.retx) && (decide (2 ^ 23 ≤ d) || (decide (1 ≤ d ∧ d ≤ 64) && bitOf bitmap (d - 1)))
  let newest := (fl.tx.filter hit).foldl (fun m x => max m (x.sent.getD 0)) fl.ackedAt
  modFlow f (fun fl => { fl with ackedAt := newest })
  ackTx f hit
  let reorder ← look (·.usOf Fl.NRT_TIMING_REORDER_US)
  let fl ← getFlow f
  for x in fl.tx do
    match x.sent with
    | some t => if t + reorder ≤ newest ∧ psnSub x.psn ackPsn ≤ 64 ∧ x.tries < 16 ∧ x.retryAt.isNone then retransmit f x true
    | none => pure ()
  if ce ≠ 0 then rateCut f
  nrtSync

/-- The first byte of a response that no span of it covers. -/
def firstGap (got : List (Nat × Nat)) : Nat → Nat → Nat
  | 0, p => p
  | k + 1, p =>
    match got.find? (fun g => decide (g.1 ≤ p ∧ p < g.1 + g.2)) with
    | some g => firstGap got k (g.1 + g.2)
    | none => p
def Ask.gap (a : Ask) : Nat := firstGap a.got a.got.length 0

/-- A part of a response is placed at the requester: the read to which it belongs is complete when every byte is (R438). -/
def askPlaced (f : Nat) (p : Packet) : M Unit :=
  modFlow f (fun fl => { fl with asks := (fl.asks.map (fun a =>
    if respKey a.pkt = p.key ∧ respOffset a.pkt ≤ p.offset ∧ p.offset < respOffset a.pkt + readLen a.pkt
    then { a with got := a.got ++ [(p.offset - respOffset a.pkt, p.length)] } else a)).filter (fun a => decide (a.gap < readLen a.pkt)) })

/-- What a NAK does at the sender (R422). A final one of a READ_REQ that has been answered in part, or acknowledged, completes the read (R438). A PSN not
outstanding is none of its packets. -/
def takeNak (f psn cause : Nat) : M Unit := do
  bump (Reg.NRT_COUNT_LO 5) 1
  let fl ← getFlow f
  let ask := fl.asks.find? (fun a => decide (a.psn = psn))
  let tx := fl.tx.find? (fun x => decide (x.psn = psn))
  if cause < 0x10 then modFlow f (fun fl => { fl with asks := fl.asks.filter (fun a => decide (a.psn ≠ psn)) })
  match tx with
  | none =>
    match ask with
    | some a => if cause < 0x10 then flowEvent Ev.nrtRemoteFault f (faultDetail cause (respKey a.pkt) (respOffset a.pkt + a.gap)) a.pkt.slate
    | none => pure ()
  | some x =>
    if 0x10 ≤ cause then
      let now ← look (·.time)
      let retry ← look (·.usOf Fl.NRT_TIMING_RETRY_US)
      modTx f psn (fun y => { y with
        retryAt := some (now + retry), tries := if cause = 0x10 then 0 else y.tries, timeouts := if cause = 0x10 then 0 else y.timeouts })
    else
      ackTx f (fun y => decide (y.psn = psn))
      match ask with
      | some a =>
        if a.got.isEmpty then flowEvent Ev.nrtRemoteFault f (faultDetail cause x.pkt.key x.pkt.offset) x.pkt.slate
        else flowEvent Ev.nrtRemoteFault f (faultDetail cause (respKey a.pkt) (respOffset a.pkt + a.gap)) a.pkt.slate
      | none => flowEvent Ev.nrtRemoteFault f (faultDetail cause x.pkt.key x.pkt.offset) x.pkt.slate
  nrtSync

/-- Is a frame that waits at a port a packet of a flow? -/
def ofFlow (f : Nat) (o : Out) : Bool :=
  match o with
  | .packet x => decide (x.flow = f)
  | _ => false

/-- A flow fails (R432): its queue is discarded, at the ports too, and its unfinished sends never complete. What it had admitted goes on (R440). -/
def flowFail (f : Nat) : M Unit := do
  let fl ← getFlow f
  if fl.state = 1 then
    act (.nrt (fun n => { n with lost := n.lost ++ ((fl.tx.filter (·.tile.isSome)).map (·.pkt.slate)) }))
    modFlow f (fun fl => { fl with state := 2, tx := [], acks := [], back := [], nakDue := [], asks := [], ackDue := false, una := fl.next })
    for n in List.range 9 do
      let p ← getPort n
      if p.held.any (fun x => ofFlow f x.2.2) then modPort n (fun p => { p with held := p.held.filter (fun x => !ofFlow f x.2.2) })
    setBit Fl.NRT_STATUS_FLOW_FAILED
    flowEvent Ev.nrtFlowFailed f 0 0
    nrtSync
    pumpAll

/-! Control packets. -/

/-- Step 1 of R421: does a packet's flow context take it? -/
def Flow.takes (fl : Flow) (p : Packet) : Bool := decide (fl.state = 1 ∧ p.srcFlow = fl.peerFlow ∧ p.epoch = fl.epoch)

/-- A NAK is counted as it is sent (R450). -/
def countNak (f : Nat) (p : Packet) : M Unit :=
  if p.op = opNak then do
    bump (Reg.NRT_COUNT_LO 4) 1
    let cause := p.offset / 2 ^ 32
    if 1 ≤ cause ∧ cause ≤ 8 then bump (Reg.NRT_KEYFAULT_LO (cause - 1)) 1
    pmuNrt 0x0D f p
  else pure ()

/-- An ACK or a NAK goes to the peer; in the hub on a loopback flow, where step 1 of R421 judges it; with no usable path it waits (R425), and while the engine
is stopped (R445). A flow that is not ACTIVE sends nothing (R432). One that a port has given back is counted already. -/
def sendCtl (f : Nat) (p : Packet) (again : Bool) : M Unit := do
  let fl ← getFlow f
  let run ← getFld Fl.NRT_CTRL_RUN
  let path ← look (·.choosePath f false none)
  if fl.state ≠ 1 then pure ()
  else if run = 0 ∨ (!fl.loopback && path.isNone) then
    modFlow f (fun fl => if again then { fl with back := fl.back ++ [p] } else { fl with acks := fl.acks ++ [p] })
  else
    if !again then countNak f p
    if fl.loopback then
      let peer ← getFlow fl.peerFlow
      if !peer.takes p then bump (Reg.NRT_COUNT_LO 8) 1
      else if p.op = opAck then takeAck fl.peerFlow p.key p.bitmap (p.offset / 2 ^ 24)
      else takeNak fl.peerFlow p.key (p.offset / 2 ^ 32)
    else packetOut f (path.getD 0) p

/-- The ACK of a flow (R414, R430). -/
def sendAck (f : Nat) : M Unit := do
  let fl ← getFlow f
  let bits := (List.range 64).foldl (fun (b k : Nat) => if fl.placed.contains ((fl.epsn + 1 + k) % 2 ^ 24) then b + 2 ^ k else b) 0
  modFlow f (fun fl => { fl with ceCount := 0, sinceAck := 0, ackDue := false })
  sendCtl f { fl.packet f opAck with key := fl.epsn, offset := min fl.ceCount 65535 * 2 ^ 24, bitmap := bits } false

/-- A NAK of a cause (R414, R422). -/
def sendNak (f psn cause : Nat) : M Unit := do
  let fl ← getFlow f
  sendCtl f { fl.packet f opNak with key := psn, offset := cause * 2 ^ 32 } false

/-- A packet that was queued at a port which sends it no more: an ACK or a NAK moves to another path, a sequenced packet waits for one, a DGRAM packet is
discarded (R425). -/
def takeBack (x : NrtFrame) : M Unit := do
  if x.pkt.dgram then pure ()
  else if x.pkt.op = opAck ∨ x.pkt.op = opNak then sendCtl x.flow x.pkt true
  else modTx x.flow x.pkt.psn (fun y => { y with sent := none, quiet := true })
  nrtSync

/-- What waits for a path goes out. -/
def flushAcks (f : Nat) : M Unit := do
  let fl ← getFlow f
  if !fl.acks.isEmpty || !fl.back.isEmpty then
    modFlow f (fun fl => { fl with acks := [], back := [] })
    for p in fl.back do sendCtl f p true
    for p in fl.acks do sendCtl f p false
    nrtSync

/-- A NAK that ends a read goes out once every response before it has been sent, with EV_POISON_EXPORT (R438, R583). -/
def nakRelease (f : Nat) : M Unit := do
  let fl ← getFlow f
  let waits := fun (d : NakDue) => fl.tx.any (fun x => decide (x.psn = d.after) && x.sent.isNone)
  let due := fl.nakDue.filter (fun d => !waits d)
  if !due.isEmpty then
    modFlow f (fun fl => { fl with nakDue := fl.nakDue.filter waits })
    for d in due do
      sendNak f d.psn 7
      flowEvent Ev.poisonExport f 0 d.slate

end Sys2Proof.Machine
end

