-- ==== Sys2Proof/Machine/VerOps.lean ====
section
/-! DEFINITION. Versions being written (R279, R281, R283, R327), and the commits that complete them. -/

namespace Sys2Proof.Machine

/-- The versioned object and place that hold an address, if any. -/
def State.placeAt (s : State) (a : Nat) : Option (Nat × Nat) :=
  (s.reel.objects.zipIdx.findSome? (fun e =>
    let o := e.1
    if !o.versioned then none
    else if o.addr0 ≤ a ∧ a < o.addr0 + o.size then some (e.2, 0)
    else if o.addr1 ≤ a ∧ a < o.addr1 + o.size then some (e.2, 1)
    else none))

/-- VER of a place. -/
def Obj.verAt (o : Obj) (place : Nat) : Nat := if place = 0 then o.ver0 else o.ver1

/-- Is a place slot B: not the place of the newest complete version (R281)? -/
def Obj.slotB (o : Obj) (place : Nat) : Bool :=
  let mine := o.verAt place
  let other := o.verAt (1 - place)
  decide (mine = noVer) || (decide (other ≠ noVer) && decide (mine < other))

/-- Does a write into slot B wait (R283): a tile has an open Take, or a transfer or a move reads, of the version it holds? -/
def State.slotHeld (s : State) (o place : Nat) : Bool :=
  let x := s.objAt o
  let v := x.verAt place
  x.slotB place && decide (v ≠ noVer) &&
    (s.tiles.any (fun t => t.2.take.isSome && decide (s.versionOf (slateStep (s.slate t.1)) = v)) ||
      s.reel.xfers.any (fun y => s.inFlight y && decide ((s.entry y.entry).obj = o) && decide (s.versionOf y.step = v)) ||
      s.tiles.any (fun t => t.2.moveQ.any (fun m =>
        decide (m.kind = .fromObj) && decide (m.target.target = o) && !m.held && decide (s.versionOf (slateStep m.slate) = v))))

/-- The version that slot B of an object is being written with: one more than the newest complete one. -/
def Obj.writing (o : Obj) : Option Nat :=
  if o.ver0 = noVer ∧ o.ver1 ≠ noVer then some (o.ver1 + 1)
  else if o.ver1 = noVer ∧ o.ver0 ≠ noVer then some (o.ver0 + 1)
  else none

/-- The first write of a new version into a place (R279, R327, R354). -/
def firstWrite (o place : Nat) : M Unit := do
  let x ← look (·.objAt o)
  if x.verAt place ≠ noVer then
    setVer o place noVer
    act (.reel (fun r => { r with commits := r.commits.filter (fun c => decide (c.1 ≠ o)) }))

/-- A commit of an object's version by a writing module (R327): VER is set when NSHARD commits have arrived; one of another version is
dropped. -/
def commitVersion (o t by' : Nat) : M Unit := do
  let x ← look (·.objAt o)
  if x.writing = some t then
    let old ← look (fun s => ((s.reel.commits.find? (fun c => decide (c.1 = o ∧ c.2.1 = t))).map (·.2.2)).getD [])
    let all := old ++ [by']
    if x.nshard ≤ all.length then
      act (.reel (fun r => { r with commits := r.commits.filter (fun c => decide (c.1 ≠ o)) }))
      setVer o (t % 2) t
    else act (.reel (fun r => { r with commits := (o, t, all) :: r.commits.filter (fun c => decide (c.1 ≠ o)) }))
  else raise Ev.versionCommit srcHub (o % 2 ^ 16 + t % 2 ^ 32 * 2 ^ 16 + x.writing.getD noVer % 2 ^ 32 * 2 ^ 48) 0

/-- A write at a device address by the hub's engines: the first write of a version is noted, then the bytes are stored. -/
def hubWrite (a : Nat) (bs : List Byte) : M Unit := do
  let p ← look (·.placeAt a)
  match p with
  | some (o, place) => firstWrite o place
  | none => pure ()
  tierWrite a bs

end Sys2Proof.Machine
end

