-- ==== Sys2Proof/Machine/UpdOps.lean ====
section
/-! DEFINITION. The update die (R305 to R342): the tables of the coefficient section, the command queue, the recurrence, polish, the copy,
replicas and mirror, and snapshots. -/

namespace Sys2Proof.Machine

/-! Tables. -/

/-- A coefficient-table entry from its 128 bytes (R308, R309). -/
def Group.decode (b : List Byte) : Group :=
  let f := leAt b 0 4
  let w := fun (o : Nat) => BitVec.ofNat 32 (leAt b o 4)
  { frozen := bitOf f 0, s2En := bitOf f 1, bc1 := bitOf f 2, bc2 := bitOf f 3, polish := bitOf f 4, polishBlock := bitOf f 5
    iters := bitsOf f 9 6, mirrorEn := bitOf f 10, obj := leAt b 4 2, layer := bitsOf (leAt b 6 2) 11 0, sub := bitsOf (leAt b 6 2) 15 12
    row0 := bitsOf (leAt b 8 4) 23 0, rows := bitsOf (leAt b 12 4) 23 0, cols := bitsOf (leAt b 16 4) 23 0, pAddr := leAt b 20 6
    s1Addr := leAt b 26 6, s2Addr := leAt b 32 6, gAddr := leAt b 38 6, curveAddr := leAt b 44 6, nEta := bitsOf (leAt b 50 1) 6 0
    nLam := bitsOf (leAt b 51 1) 6 0, a1 := w 52, b1 := w 56, a2 := w 60, b2 := w 64, eps := w 68, sc := w 72, pp := w 76, pq := w 80
    pr := w 84, nEps := w 88, conv := Conv.decode (leAt b 92 8), repl0 := leAt b 100 2, nRepl := leAt b 102 1, nShard := leAt b 103 1
    step := leAt b 104 4, bp1 := w 108, bp2 := w 112
    resv := decide (bitsOf f 31 11 ≠ 0) || decide (bitsOf (leAt b 8 4) 31 24 ≠ 0) || decide (bitsOf (leAt b 12 4) 31 24 ≠ 0) ||
      decide (bitsOf (leAt b 16 4) 31 24 ≠ 0) || bitOf (leAt b 50 1) 7 || bitOf (leAt b 51 1) 7 || decide (leAt b 116 12 ≠ 0) }

/-- The parts of a coefficient section (R310): coefficient, layer, replica and mirror entries, and the curve blocks as a T2 address with its
bytes; `size` is where the last block ends, and `resv` says that some byte that is to be 0 is not. -/
structure CoeffTables where
  groups : List Group
  layers : List LayerRow
  repls : List ReplRow
  mirrors : List MirrorRow
  curves : List (Nat × List Byte)
  size : Nat
  resv : Bool
deriving DecidableEq, Repr

/-- Round up to a multiple of 32. -/
def up32 (n : Nat) : Nat := ceilDiv n 32 * 32

/-- The curve blocks from an offset: each follows the knots of the one before. -/
def curveBlocks (b : List Byte) : Nat → Nat → List (Nat × List Byte) × Nat
  | 0, off => ([], off)
  | n + 1, off =>
    let k := leAt b (off + 8) 4
    let r := curveBlocks b n (off + 16 + 8 * k)
    ((leAt b off 6, (b.drop (off + 16)).take (8 * k)) :: r.1, r.2)

/-- Is a byte from `lo` to before `hi` of any of n entries of a size not 0? -/
def restSet (b : List Byte) (off size n lo hi : Nat) : Bool :=
  (List.range n).any (fun i => decide (leAt b (off + size * i + lo) (hi - lo) ≠ 0))

/-- Decode a coefficient section. -/
def CoeffTables.decode (b : List Byte) : CoeffTables :=
  let ng := bitsOf (leAt b 0 4) 15 0
  let nl := leAt b 4 4
  let nr := leAt b 8 4
  let nm := leAt b 12 4
  let o1 := 32 + 128 * ng
  let o2 := up32 (o1 + 16 * nl)
  let o3 := up32 (o2 + 16 * nr)
  let o4 := o3 + 32 * nm
  let c := curveBlocks b (leAt b 16 4) o4
  { groups := (List.range ng).map (fun i => Group.decode ((b.drop (32 + 128 * i)).take 128))
    layers := (List.range nl).map (fun i =>
      let o := o1 + 16 * i
      ⟨bitsOf (leAt b o 2) 11 0, leAt b (o + 2) 2, leAt b (o + 4) 2, leAt b (o + 6) 2⟩)
    repls := (List.range nr).map (fun i =>
      let o := o2 + 16 * i
      ⟨leAt b o 4, leAt b (o + 4) 4, leAt b (o + 8) 2, leAt b (o + 12) 4⟩)
    mirrors := (List.range nm).map (fun i =>
      let o := o3 + 32 * i
      { tgroup := leAt b o 2, s2En := bitOf (leAt b (o + 2) 2) 0, rows := leAt b (o + 4) 4, cols := leAt b (o + 8) 4
        ma0 := leAt b (o + 12) 6, ma1 := leAt b (o + 18) 6, step0 := leAt b (o + 24) 4, committed := none, held0 := none
        held1 := none, powers0 := (0x3F800000, 0x3F800000), powers1 := (0x3F800000, 0x3F800000) })
    curves := c.1, size := c.2
    resv := decide (bitsOf (leAt b 0 4) 31 16 ≠ 0) || restSet b 0 32 1 20 32 || restSet b o1 16 nl 8 16 ||
      (List.range nl).any (fun i => decide (4096 ≤ leAt b (o1 + 16 * i) 2)) || restSet b o2 16 nr 10 12 || restSet b o3 32 nm 28 32 ||
      (List.range nm).any (fun i => decide (1 < leAt b (o3 + 32 * i + 2) 2)) }

/-- A group, and a change of it. -/
def State.group (s : State) (g : Nat) : Group := (s.upd.groups[g]?).getD (Group.decode [])
def modGroup (g : Nat) (f : Group → Group) : M Unit := act (.upd (fun u => { u with groups := modAt u.groups g f }))

/-- An update command from its 32 bytes (R312). -/
def UpdCmd.decode (b : List Byte) : UpdCmd :=
  ⟨slateRead (leAt b 0 8), leAt b 8 4, leAt b 12 2, leAt b 14 2, leAt b 16 4, leAt b 20 2, leAt b 22 1, leAt b 24 8⟩

/-- Is it a SNAP command? -/
def UpdCmd.snap (c : UpdCmd) : Bool := decide (slatePhase c.slate = 4)

/-- QUEUED and BUSY follow the queue and the commands in work (R337). -/
def updSync : M Unit := do
  let u ← look (·.upd)
  setFld Fl.UPDT_STATUS_QUEUED (min u.queue.length 8)
  setFld Fl.UPDT_STATUS_BUSY (if u.run.isSome || u.snap.isSome then 1 else 0)

/-- Is the gradient of a layer present for a step (R314)? -/
def State.gradPresent (s : State) (layer step : Nat) : Bool := s.upd.present.contains (layer, step)

/-- The layer-table row of a layer. -/
def State.layerRow (s : State) (layer : Nat) : Option LayerRow := s.upd.layers.find? (fun l => decide (l.layer = layer))

/-- The groups of a command's range that exist. -/
def State.cmdGroups (s : State) (c : UpdCmd) : List Nat :=
  (List.range (min c.count (s.upd.groups.length - c.first))).map (c.first + ·)

/-- The die takes up the next command of its queue (R313, R314, R319): a UPD command when none is in work, with the groups whose layers'
gradients are present ready, in the order in which they became present, then table order. -/
def updTakeUp : M Unit := do
  let u ← look (·.upd)
  match u.queue with
  | c :: rest =>
    if !c.snap ∧ u.run.isNone then
      let gs ← look (·.cmdGroups c)
      let step := slateStep c.slate
      let layers ← look (fun s => ((s.upd.present.filter (fun e => decide (e.2 = step))).map (·.1)).filter (fun l => (s.layerRow l).isSome))
      let ready ← look (fun s => layers.flatMap (fun l => gs.filter (fun g => decide ((s.group g).layer = l))))
      let port8 ← look (·.portUp 8)
      let frozen ← look (fun s => gs.filter (fun g => (s.group g).frozen))
      act (.upd (fun u => { u with
        queue := rest, mirroring := u.mirroring || (port8 && u.lost), lost := u.lost && !port8
        run := some { cmd := c, waiting := gs.filter (fun g => !ready.contains g), ready := ready, frozen := frozen, work := none
                      held := false, cut := false, stopCode := 0, nonfinRaised := false, health := [], spoiled := [] } }))
      let strict ← look (fun s => (s.job.map (·.strictFrozen)).getD false)
      match frozen with
      | g :: _ =>
        if strict then
          setBit Fl.UPDT_STATUS_FROZEN_STRICT
          raise Ev.frozenUpdate srcUpd g c.slate
      | [] => pure ()
  | [] => pure ()
  updSync

/-- A command arrives at the die's queue of 8, while RUN is set (R313, R336). -/
def updEnqueue (c : UpdCmd) : M Unit := do
  let run ← getFld Fl.UPDT_CTRL_RUN
  if run = 1 then
    let u ← look (·.upd)
    if 8 ≤ u.queue.length then raise Ev.updateQueueFull srcUpd 0 c.slate
    else
      act (.upd (fun u => { u with queue := u.queue ++ [c] }))
      updTakeUp

/-- The collective engine reports a bucket as written in full (R314, R363). -/
def reportBucket (layer step b : Nat) : M Unit :=
  act (.upd (fun u => { u with
    buckets := if u.buckets.contains (layer, step, b) then u.buckets else u.buckets ++ [(layer, step, b)] }))

/-! Tensors of FP32 in T1 or T2 (R68, R70): a row starts on a line, 24 words to the line. -/

/-- The address of word j of row i of a tensor with `cols` columns. -/
def wordAddr (base cols i j : Nat) : Nat := base + (i * ceilDiv cols 24 + j / 24) * 96 + j % 24 * 4

/-- The bytes such a tensor takes, whole line pairs (R68). -/
def tensorBytes (rows cols : Nat) : Nat := ceilDiv (rows * ceilDiv cols 24) 2 * 192

/-- A tensor's words, row by row; a word of a poisoned line reads as the poison NaN (R71). -/
def State.tensor (s : State) (base rows cols : Nat) : List W32 :=
  (List.range rows).flatMap (fun i => (List.range cols).map (fun j =>
    let a := wordAddr base cols i j
    if s.poisoned a then fpPoison else BitVec.ofNat 32 (s.le a 4)))

/-- How many lines of a tensor read as poisoned. -/
def State.tensorPoison (s : State) (base rows cols : Nat) : Nat :=
  ((List.range (rows * ceilDiv cols 24)).filter (fun l => s.poisoned (base + l * 96))).length

/-- Zero bytes from the end of a plane of n bytes to the next multiple of 192 (R69). -/
def planePad (n : Nat) : List Byte := List.replicate (ceilDiv n 192 * 192 - n) 0

/-- The bytes of a tensor's rows: a row's words, zeros to the end of its last line. -/
def tensorRows (rows cols : Nat) (ws : List W32) : List Byte :=
  (List.range rows).flatMap (fun i =>
    ((ws.drop (i * cols)).take cols).flatMap (fun w => leBytes 4 w.toNat) ++ List.replicate (ceilDiv cols 24 * 96 - 4 * cols) 0)

/-- A tensor's one plane, whole line pairs (R68 to R70). -/
def tensorPlane (rows cols : Nat) (ws : List W32) : List Byte := tensorRows rows cols ws ++ planePad (rows * ceilDiv cols 24 * 96)

/-- Store a tensor whole. -/
def tensorWrite (base rows cols : Nat) (ws : List W32) : M Unit := memWrite base (tensorPlane rows cols ws)

/-- The T2 bursts of a tensor. -/
def tensorBursts (rows cols : Nat) : Nat := rows * ceilDiv cols 24 * 3

/-! The recurrence (R321, R322). -/

def fpOne : W32 := 0x3F800000
def fmul (a b : W32) : W32 := (fpMul a b).1
def fadd (a b : W32) : W32 := (fpAdd a b).1
def fsub (a b : W32) : W32 := (fpSub a b).1
def ffma (a b c : W32) : W32 := (fpFma a b c).1
def fdiv (a b : W32) : W32 := (fpDiv a b).1
def fsqrt (a : W32) : W32 := (fpSqrt a).1
def frecip (a : W32) : W32 := (fpDiv fpOne a).1
def u2f (n : Nat) : W32 := fpOf (Dy.ofInt n)

/-- The knots of a curve: steps and values (R310). -/
def State.knots (s : State) (a n : Nat) : List (Nat × W32) :=
  (List.range n).map (fun i => (s.le (a + 8 * i) 4, BitVec.ofNat 32 (s.le (a + 8 * i + 4) 4)))

/-- The value of a curve at t (R321). -/
def curve (k : List (Nat × W32)) (t : Nat) : W32 :=
  match k with
  | [] => 0
  | h :: _ =>
    let l := k.getLast?.getD h
    if t ≤ h.1 then h.2
    else if l.1 ≤ t then l.2
    else
      let i := (k.filter (fun x => decide (x.1 ≤ t))).length - 1
      let a := k.getD i h
      let b := k.getD (i + 1) h
      ffma (fsub b.2 a.2) (fdiv (u2f (t - a.1)) (u2f (b.1 - a.1))) a.2

/-- The step scalars of a group (R321). -/
structure Scalars where
  bp1 : W32
  bp2 : W32
  rc1 : W32
  rc2 : W32
  etas : W32
  decay : W32
deriving DecidableEq, Repr

/-- Computed once, in the order of R321. -/
def State.scalars (s : State) (g : Group) (t : Nat) : Scalars :=
  let bp1 := if g.bc1 then fmul g.bp1 g.a1 else g.bp1
  let bp2 := if g.bc2 then fmul g.bp2 g.a2 else g.bp2
  let eta := curve (s.knots g.curveAddr g.nEta) t
  let lam := curve (s.knots (g.curveAddr + 8 * g.nEta) g.nLam) t
  { bp1 := bp1, bp2 := bp2, rc1 := if g.bc1 then frecip (fsub fpOne bp1) else fpOne
    rc2 := if g.bc2 then frecip (fsub fpOne bp2) else fpOne, etas := fmul eta g.sc, decay := fsub fpOne (fmul eta lam) }

/-- One element: S1, S2 and d (R322). -/
def updElem (g : Group) (c : Scalars) (s1 s2 gr : W32) : W32 × W32 × W32 :=
  let n1 := ffma g.a1 s1 (fmul g.b1 gr)
  let n2 := if g.s2En then ffma (fmul g.b2 gr) gr (fmul g.a2 s2) else 0
  (n1, n2, fdiv (fmul n1 c.rc1) (fadd (fsqrt (fmul n2 c.rc2)) g.eps))

/-- The new master of an element. -/
def updMaster (c : Scalars) (d p : W32) : W32 := ffma (if fpIsNaN c.etas then c.etas else fpNeg c.etas) d (fmul c.decay p)

/-! Polish (R324). -/

/-- A matrix of FP32 words by rows. -/
structure Mat where
  rows : Nat
  cols : Nat
  at' : List W32
deriving DecidableEq, Repr

def Mat.get (m : Mat) (i j : Nat) : W32 := m.at'.getD (i * m.cols + j) 0
def Mat.build (rows cols : Nat) (f : Nat → Nat → W32) : Mat :=
  ⟨rows, cols, (List.range rows).flatMap (fun i => (List.range cols).map (fun j => f i j))⟩

/-- A matrix encoded to S16: each element and its block's scale, none for a zero block. -/
structure MatS where
  rows : Nat
  cols : Nat
  at' : List (EVal × Option Int)
deriving DecidableEq, Repr

def MatS.get (m : MatS) (i j : Nat) : EVal × Option Int := m.at'.getD (i * m.cols + j) (.val Dy.zero, none)

/-- The conversion word of polish encodings: S16, MAXABS, RNE, SATURATE, CLASS POLISH, the group's LAYER and SUB. -/
def polishConv (g : Group) : Conv :=
  { fmt := 2, sr := false, ovfNar := false, fixed := false, resv := false, fixedScale := 0, cls := 4, layer := g.layer, sub := g.sub }

/-- Encode a matrix to S16 in blocks of 16 along its rows (R79, R80). -/
def Mat.s16 (m : Mat) (g : Group) : MatS × Health :=
  let blocks := (List.range m.rows).flatMap (fun i => (List.range (ceilDiv m.cols 16)).map (fun b =>
    encodeBlock .s16 (polishConv g) ((List.range (min 16 (m.cols - 16 * b))).map (fun k => ⟨fpEVal (m.get i (16 * b + k)), 0, none⟩))))
  (⟨m.rows, m.cols, blocks.flatMap (fun b => b.codes.map (fun c => (elemValue .s16 c, scaleOf b.scale)))⟩,
    blocks.foldl (fun h b => h.add b.health) Health.zero)

/-- An inner product of encoded elements under long accumulation with F = 66, read out to FP32 under RNE (R97 to R106, R306). -/
def laDot (ps : List ((EVal × Option Int) × (EVal × Option Int))) : W32 :=
  let formed := ps.filterMap (fun p => match p.1.2, p.2.2 with
    | some sx, some sw => some (p.1.1, p.2.1, sx, sw)
    | _, _ => none)
  match formed with
  | [] => 0
  | h :: t =>
    let a := t.foldl (fun m x => max m (x.2.2.1 + x.2.2.2)) (h.2.2.1 + h.2.2.2) + 66
    let c := formed.foldl (fun (c : Cell) x => match x.1, x.2.1 with
      | .val ex, .val ew => laAdd c (contribution ex ew x.2.2.1 x.2.2.2 a).1
      | _, _ => { c with n := true }) ⟨0, 0, false, a, false, false⟩
    if c.n ∨ c.t ≠ 0 then fpNaN else fpOf ⟨c.v, a - 88⟩

/-- One iteration on a unit whose Gram matrix is on the shorter side. -/
def polishStep (g : Group) (x : Mat) : Mat × Health :=
  let n := min x.rows x.cols
  let wide := decide (x.rows ≤ x.cols)
  let xs := x.s16 g
  let inner := if wide then x.cols else x.rows
  let a := Mat.build n n (fun i j => laDot ((List.range inner).map (fun k =>
    if wide then (xs.1.get i k, xs.1.get j k) else (xs.1.get k i, xs.1.get k j))))
  let sa := a.s16 g
  let c := Mat.build n n (fun i j => laDot ((List.range n).map (fun k => (sa.1.get i k, sa.1.get k j))))
  let sb := (Mat.build n n (fun i j => ffma g.pr (c.get i j) (fmul g.pq (a.get i j)))).s16 g
  let y := Mat.build x.rows x.cols (fun i j => laDot ((List.range n).map (fun k =>
    if wide then (sb.1.get i k, xs.1.get k j) else (xs.1.get i k, sb.1.get k j))))
  (Mat.build x.rows x.cols (fun i j => ffma g.pp (x.get i j) (y.get i j)), (xs.2.add sa.2).add sb.2)

/-- The pairwise tree over lanes (R177). -/
def laneTree : Nat → List W32 → W32
  | 0, l => l.headD 0
  | k + 1, l => laneTree k ((List.range (l.length / 2)).map (fun i => fadd (l.getD (2 * i) 0) (l.getD (2 * i + 1) 0)))

/-- Polish a unit: its scale, then ITERS iterations; with the health of its encodings. -/
def polishUnit (g : Group) (x : Mat) : Mat × Health :=
  let lanes := x.at'.zipIdx.foldl (fun (ss : List W32) e => modAt ss (e.2 % 64) (fun s => ffma e.1 e.1 s)) (List.replicate 64 0)
  let r := (fnApply .rsqrt (fadd (laneTree 6 lanes) g.nEps)).val
  let x0 := { x with at' := x.at'.map (fun e => fmul e r) }
  (List.range g.iters).foldl (fun (a : Mat × Health) _ =>
    let b := polishStep g a.1
    (b.1, a.2.add b.2)) (x0, Health.zero)

/-- The units of a group: their first rows and columns, and their sizes. -/
def Group.units (g : Group) : List (Nat × Nat × Nat × Nat) :=
  if g.polishBlock then
    (List.range (ceilDiv g.rows 256)).flatMap (fun i => (List.range (ceilDiv g.cols 256)).map (fun j =>
      (256 * i, 256 * j, min 256 (g.rows - 256 * i), min 256 (g.cols - 256 * j))))
  else [(0, 0, g.rows, g.cols)]

/-- Polish the matrix d of a group. -/
def Group.polishAll (g : Group) (d : List W32) : List W32 × Health :=
  let m : Mat := ⟨g.rows, g.cols, d⟩
  g.units.foldl (fun (a : List W32 × Health) u =>
    let r := polishUnit g (Mat.build u.2.2.1 u.2.2.2 (fun i j => m.get (u.1 + i) (u.2.1 + j)))
    ((a.1.zipIdx).map (fun e =>
      let i := e.2 / g.cols
      let j := e.2 % g.cols
      if u.1 ≤ i ∧ i < u.1 + u.2.2.1 ∧ u.2.1 ≤ j ∧ j < u.2.1 + u.2.2.2 then r.1.get (i - u.1) (j - u.2.1) else e.1), a.2.add r.2)) (d, Health.zero)

/-- The bytes of scratch a polished group needs at most (R325). -/
def Group.scratch (g : Group) : Nat :=
  if !g.polish then 0
  else if g.polishBlock then 4 * g.rows * g.cols
  else
    let n := min g.rows g.cols
    4 * g.rows * g.cols + 11 * n * max g.rows g.cols + 13 * n * n

/-! The copy (R326), its planes under R68. -/

/-- Lines to a row, and the byte offsets of the scale and metadata planes, of an object of a format with R rows of C stored columns. -/
def rowLines (f : Fmt) (cols : Nat) : Nat := ceilDiv cols f.perLine
def scalesOf (f : Fmt) (cols : Nat) : Nat := if f.sniril then rowLines f cols * (f.perLine / f.block) else 0
def scaleStart (f : Fmt) (rows cols : Nat) : Nat := ceilDiv (rows * rowLines f cols * 96) 192 * 192
def metaStart (f : Fmt) (rows cols : Nat) : Nat := ceilDiv (scaleStart f rows cols + rows * scalesOf f cols) 192 * 192

/-- One row of the copy: its data lines, its scale bytes and its health; `row` is the row in OBJ. -/
def encodeRow (c : Conv) (seed slate row : Nat) (ws : List W32) : List Byte × List Byte × Health :=
  let f := c.format
  let r := fun (j : Nat) => srOf seed slate c row j
  let lines := rowLines f ws.length
  if f.sniril then
    let blocks := (List.range (lines * (f.perLine / f.block))).map (fun b =>
      encodeBlock f c (((ws.drop (b * f.block)).take f.block).zipIdx.map (fun e => ⟨fpEVal e.1, r (b * f.block + e.2), none⟩)))
    let codes := blocks.flatMap (fun b => b.codes ++ List.replicate (f.block - b.codes.length) 0)
    ((List.range lines).flatMap (fun l => packLine f ((codes.drop (l * f.perLine)).take f.perLine)),
      blocks.map (fun b => BitVec.ofNat 8 b.scale), blocks.foldl (fun h b => h.add b.health) Health.zero)
  else
    let es := ws.zipIdx.map (fun e =>
      if f = .fp32 then
        (match fpCls e.1 with
          | .fin d => let x := encodeFp32 c (r e.2) false d
                      (x.1.toNat, x.2.health)
          | _ => (e.1.toNat, (notedFp32 e.1).health))
      else (narrow16 f c (r e.2) e.1, Health.zero))
    let codes := es.map (·.1) ++ List.replicate (lines * f.perLine - es.length) 0
    ((List.range lines).flatMap (fun l => packLine f ((codes.drop (l * f.perLine)).take f.perLine)), [],
      es.foldl (fun h e => h.add e.2) Health.zero)

/-- The stored columns of an object, and its format. -/
def Obj.stored (o : Obj) : Nat := if o.sparse = 1 then o.cols / 2 else if o.sparse = 2 then o.cols / 4 else o.cols
def Obj.format (o : Obj) : Fmt := (Fmt.ofCode o.fmt).getD .s8

/-- The pieces of rows row0 to row0 + n − 1 of an object, as offsets in a place and lengths: data lines, scale bytes, mask bytes. -/
def Obj.pieces (o : Obj) (row0 n : Nat) : List (Nat × Nat) :=
  let f := o.format
  let c := o.stored
  [(row0 * rowLines f c * 96, n * rowLines f c * 96), (scaleStart f o.rows c + row0 * scalesOf f c, n * scalesOf f c)] ++
    (if o.sparse = 0 then [] else [(metaStart f o.rows c + row0 * (o.cols / 8), n * (o.cols / 8))])

/-- The ends of an object's planes. -/
def Obj.planeEnds (o : Obj) : List Nat :=
  let f := o.format
  let c := o.stored
  [o.rows * rowLines f c * 96, scaleStart f o.rows c + o.rows * scalesOf f c, metaStart f o.rows c + o.rows * (o.cols / 8)]

/-- A part of a copy that is not empty, with the zeros that follow it where it ends its plane (R69). -/
def Obj.partsOf (o : Obj) (parts : List (Nat × List Byte)) : List (Nat × List Byte) :=
  (parts.filter (fun p => !p.2.isEmpty)).map (fun p =>
    let e := p.1 + p.2.length
    (p.1, p.2 ++ if o.planeEnds.contains e then planePad e else []))

/-- What the update die reads of T1 and writes to it (R611); its own T2 is not behind a link. -/
def updTraffic (write : Bool) (a n : Nat) : M Unit := do
  let own ← look (·.ownerBit)
  if inT1 a then byteTraffic write a n (some own) (some mUpd) (some 4)

/-- Write bytes of a version into slot B of an object and to the group's replicas (R326, R328); the replicas' last piece is the commit when
this is the object's last group. -/
def writeCopy (g : Group) (t slate : Nat) (pieces : List (Nat × List Byte)) (last : Bool) : M Unit := do
  let o ← look (·.objAt g.obj)
  let parts := o.partsOf pieces
  firstWrite g.obj (t % 2)
  for p in parts do
    tierWrite ((if t % 2 = 0 then o.addr0 else o.addr1) + p.1) p.2
    updTraffic true ((if t % 2 = 0 then o.addr0 else o.addr1) + p.1) p.2.length
  let rs ← look (fun s => (s.upd.repls.drop g.repl0).take g.nRepl)
  for r in rs do
    for p in parts.zipIdx do
      nrtWrite r.flow (if t % 2 = 0 then r.key0 else r.key1) (r.off + p.1.1) p.1.2 slate (last && decide (p.2 + 1 = parts.length)) none 0

/-- A group of an object has written a version: after the last of the module's groups the local commit follows (R327). -/
def groupWrote (obj t : Nat) : M Unit := do
  let n ← look (fun s => (s.upd.groups.filter (fun g => decide (g.obj = obj))).length)
  let k ← look (fun s => ((s.upd.localCommits.find? (fun e => decide (e.1 = obj ∧ e.2.1 = t))).map (·.2.2)).getD 0)
  let me ← look (fun s => (s.job.map (·.module)).getD 0)
  if n ≤ k + 1 then
    act (.upd (fun u => { u with localCommits := u.localCommits.filter (fun e => decide (e.1 ≠ obj)) }))
    commitVersion obj t me
  else act (.upd (fun u => { u with localCommits := (obj, t, k + 1) :: u.localCommits.filter (fun e => decide (e.1 ≠ obj)) }))

/-- Is this the last of the module's groups of an object to write a version? -/
def State.lastOf (s : State) (obj t : Nat) : Bool :=
  decide ((s.upd.groups.filter (fun g => decide (g.obj = obj))).length ≤
    ((s.upd.localCommits.find? (fun e => decide (e.1 = obj ∧ e.2.1 = t))).map (·.2.2)).getD 0 + 1)

/-- Port 8 is down: mirroring is suspended (R331). -/
def mirrorLost : M Unit := do
  let u ← look (·.upd)
  if u.mirroring then
    act (.upd (fun u => { u with mirroring := false, lost := true }))
    setBit Fl.UPDT_STATUS_MIRROR_LOST
    raise Ev.mirrorLost srcUpd 0 0

/-- Mirror writes go out on port 8 as NRT data, tagged, and held while their priority is paused (R386, R390). How many frames carry them, and of how many
bytes, the spec does not say: free values (R330, R412). -/
def mirrorOut (o : Nat → Option Nat → Out) : M Unit := do
  let frames ← freeValue
  let bytes ← freeValue
  let pcp ← look (·.dataPcp 8)
  let tag ← look (·.tagOf 8 pcp)
  portSend 8 pcp bytes (o frames tag)

/-- The group's new state goes to the twin (R330, R331). -/
def mirrorGroup (g : Nat) (t : Nat) (p s1 s2 : List W32) : M Unit := do
  let x ← look (·.group g)
  let twin ← look (fun s => decide (1 < (s.job.map (·.modules)).getD 1))
  if x.mirrorEn ∧ twin then
    let port8 ← look (·.portUp 8)
    if !port8 then mirrorLost
    let u ← look (·.upd)
    if u.mirroring then
      let lines := x.rows * ceilDiv x.cols 24 * (if x.s2En then 3 else 2)
      bump (Reg.UPDT_COUNT_LO 8) lines
      pmuUpd 0x08 lines
      mirrorOut (fun k tag => .mirror k tag g (t % 2) p s1 (if x.s2En then s2 else []) t x.bp1 x.bp2)

/-! A group's work. -/

/-- Counts of encodings to be committed with the command. -/
def addHealth (key : Nat) (h : Health) : M Unit :=
  if h = Health.zero then pure () else act (.upd (fun u => { u with run := u.run.map (fun r => { r with
    health := if r.health.any (fun e => decide (e.1 = key)) then r.health.map (fun e => if e.1 = key then (e.1, e.2.add h) else e)
              else r.health ++ [(key, h)] }) }))

/-- Change the UPD command in work. -/
def modRunU (f : UpdRun → UpdRun) : M Unit := act (.upd (fun u => { u with run := u.run.map f }))

/-- A refused group (R316, R323): the stop, when one is due, waits for the command's other groups (R318). -/
def refuseGroup (g : Nat) (e : Ev) (detail slate : Nat) (stops : Bool) : M Unit := do
  bump (Reg.UPDT_COUNT_LO 3) 1
  if stops then
    raiseStop e srcUpd detail slate
    modRunU (fun r => { r with stopCode := if r.stopCode = 0 then e.code else r.stopCode })
  else raise e srcUpd detail slate
  modRunU (fun r => { r with work := some (.copy g) })

/-- A polished group's d goes to the D buffer of the scratch region, and a whole-matrix unit beyond 256 × 256 uses what the group needs of the rest
(R322, R325). DESIGN CHOICE: the D buffer is at the region's base, its words row by row; what the die leaves in the rest is undefined content. -/
def scratchWrite (g : Group) (d : List W32) : M Unit := do
  let b ← look (·.reg64 Reg.UPDT_SCRATCH_BASE_LO)
  memWrite b (d.flatMap (fun w => leBytes 4 w.toNat))
  if !g.polishBlock ∧ (256 < g.rows ∨ 256 < g.cols) then act (.undef (b + 4 * g.rows * g.cols) (g.scratch - 4 * g.rows * g.cols))

/-- Does update t of a group wait for a snapshot of version t − 1 that is still to read it (R332)? -/
def State.snapBlocks (s : State) (i t : Nat) : Bool := s.upd.snap.any (fun x => x.left.contains i && decide (x.cmd.t + 1 = t))

/-- The next group of the UPD command is judged and, where it applies, computed (R316 to R324). -/
def groupUpdate : M Unit := do
  let u ← look (·.upd)
  match u.run with
  | none => pure ()
  | some r =>
    match r.work, r.ready with
    | none, i :: rest =>
      let g ← look (·.group i)
      let t := r.cmd.t
      let blocked ← look (·.snapBlocks i t)
      if blocked then pure ()
      else
        modRunU (fun r => { r with ready := rest })
        pmuUpd 0x07 1
        if r.frozen.contains i then
          bump (Reg.UPDT_COUNT_LO 1) 1
          modRunU (fun r => { r with work := some (.copy i) })
        else if t = g.step then
          bump (Reg.UPDT_COUNT_LO 2) 1
          modRunU (fun r => { r with work := some (.nothing i) })
        else if t ≠ (g.step + 1) % 2 ^ 32 then
          setBit Fl.UPDT_STATUS_SKEW
          let go ← getFld Fl.UPDT_CTRL_SKEW_ACTION
          if go = 1 then setBit Fl.COLL_STATUS_INEXACT
          refuseGroup i Ev.stepSkew (i + g.step * 2 ^ 12 + t * 2 ^ 44) r.cmd.slate (decide (go = 0))
        else
          let gr ← look (·.tensor g.gAddr g.rows g.cols)
          let badG ← look (·.tensorPoison g.gAddr g.rows g.cols)
          countPoison badG
          updTraffic false g.gAddr (g.rows * ceilDiv g.cols 24 * 96)
          let refuse ← getFld Fl.UPDT_CTRL_NONFINITE
          if refuse = 1 ∧ gr.any fpNonFinite then
            setBit Fl.UPDT_STATUS_NONFINITE
            refuseGroup i Ev.updateNonfinite 0 r.cmd.slate true
          else
            let p ← look (·.tensor g.pAddr g.rows g.cols)
            let s1 ← look (·.tensor g.s1Addr g.rows g.cols)
            let s2 ← look (fun s => if g.s2En then s.tensor g.s2Addr g.rows g.cols else List.replicate (g.rows * g.cols) 0)
            let bad ← look (fun s => s.tensorPoison g.pAddr g.rows g.cols + s.tensorPoison g.s1Addr g.rows g.cols +
              (if g.s2En then s.tensorPoison g.s2Addr g.rows g.cols else 0))
            countPoison bad
            let c ← look (·.scalars g t)
            let es := (s1.zip (s2.zip gr)).map (fun x => updElem g c x.1 x.2.1 x.2.2)
            let d := es.map (·.2.2)
            let dp := if g.polish then g.polishAll d else (d, Health.zero)
            let np := (dp.1.zip p).map (fun x => updMaster c x.1 x.2)
            let n1 := es.map (·.1)
            let n2 := es.map (·.2.1)
            bump (Reg.UPDT_COUNT_LO 0) 1
            if g.polish then
              scratchWrite g d
              bump (Reg.UPDT_COUNT_LO 5) (g.iters * g.units.length)
              pmuUpd 0x03 ((g.units.map (fun u => let n := min u.2.2.1 u.2.2.2
                                                  let m := max u.2.2.1 u.2.2.2
                                                  g.iters * ((2 * n * n * m + n * n * n) / 1024))).sum)
              addHealth (g.layer * 32 + Fmt.healthCode .s16 * 8 + 4) dp.2
            let vecs ← freeValue
            pmuUpd 0x02 vecs
            pmuUpd 0x04 (tensorBursts g.rows g.cols * ((if g.s2En then 3 else 2) + (if baseT2 ≤ g.gAddr then 1 else 0)))
            modGroup i (fun g => { g with step := t, bp1 := c.bp1, bp2 := c.bp2 })
            let nonfin := ((np ++ n1 ++ (if g.s2En then n2 else [])).filter fpNonFinite).length
            if nonfin ≠ 0 ∧ refuse = 0 then
              bump (Reg.UPDT_COUNT_LO 4) nonfin
              setBit Fl.UPDT_STATUS_NONFINITE
              if !r.nonfinRaised then
                raise Ev.updateNonfinite srcUpd 0 r.cmd.slate
                modRunU (fun r => { r with nonfinRaised := true })
            modRunU (fun r => { r with work := some (.apply i np n1 n2) })
    | _, _ => pure ()

/-- Has the update of a step still to read a group's gradient (R315)? A command in work or waiting may have it; else the step's command has
yet to come. -/
def State.gradUnread (s : State) (step g : Nat) : Bool :=
  let here := s.upd.run.any (fun r => decide (slateStep r.cmd.slate = step) && (s.cmdGroups r.cmd).contains g)
  let left := s.upd.run.any (fun r => decide (slateStep r.cmd.slate = step) && (r.waiting ++ r.ready).contains g)
  let queued := s.upd.queue.any (fun c => decide (!c.snap ∧ slateStep c.slate = step) && (s.cmdGroups c).contains g)
  left || queued || (!here && !s.upd.closed.any (fun c => decide (step ≤ c)))

/-- The rows of a group as their place of version t − 1 holds them. -/
def State.oldRows (s : State) (g : Group) (t : Nat) : List (Nat × List Byte) :=
  let o := s.objAt g.obj
  let a := if (t - 1) % 2 = 0 then o.addr0 else o.addr1
  (o.pieces g.row0 g.rows).map (fun p => (p.1, s.bytes (a + p.1) p.2))

/-- The lines of a group's rows that are poisoned in the place of version t − 1 are poisoned in that of version t (R317, R582). -/
def carryPoison (g : Group) (t : Nat) : M Unit := do
  let o ← look (·.objAt g.obj)
  let src := if (t - 1) % 2 = 0 then o.addr0 else o.addr1
  let dst := if t % 2 = 0 then o.addr0 else o.addr1
  for p in o.pieces g.row0 g.rows do
    if 0 < p.2 then
      for l in List.range ((p.1 + p.2 - 1) / 96 + 1 - p.1 / 96) do
        let bad ← look (·.poisoned (src + (p.1 / 96 + l) * 96))
        if bad then
          countPoison 1
          poisonLine (dst + (p.1 / 96 + l) * 96)

/-- The lines of a copy that spoiled words lie on, counted from the first of its data lines, are poisoned where they are written (R579). -/
def spoilCopy (g : Group) (t : Nat) (words : List Nat) : M Unit := do
  let o ← look (·.objAt g.obj)
  let dst := if t % 2 = 0 then o.addr0 else o.addr1
  let p := (o.pieces g.row0 g.rows).headD (0, 0)
  for k in words.filter (fun k => decide (4 * k < p.2)) do poisonLine (dst + (p.1 / 96 + 4 * k / 96) * 96)

/-- The results of the group in work are written (R317, R326 to R330). -/
def groupFinish : M Unit := do
  let u ← look (·.upd)
  match u.run with
  | none => pure ()
  | some r =>
    let t := r.cmd.t
    let slate := r.cmd.slate
    match r.work with
    | none => pure ()
    | some (.nothing _) => pure ()
    | some (.copy i) =>
      let g ← look (·.group i)
      if g.obj ≠ 0xFFFF then
        let parts ← look (·.oldRows g t)
        let last ← look (·.lastOf g.obj t)
        let o ← look (·.objAt g.obj)
        for p in parts do updTraffic false ((if (t - 1) % 2 = 0 then o.addr0 else o.addr1) + p.1) p.2.length
        writeCopy g t slate parts last
        carryPoison g t
        spoilCopy g t r.spoiled
        groupWrote g.obj t
    | some (.apply i p s1 s2) =>
      let g ← look (·.group i)
      tensorWrite g.pAddr g.rows g.cols p
      tensorWrite g.s1Addr g.rows g.cols s1
      if g.s2En then tensorWrite g.s2Addr g.rows g.cols s2
      pmuUpd 0x05 (tensorBursts g.rows g.cols * (if g.s2En then 3 else 2))
      if g.obj ≠ 0xFFFF then
        let seed ← look (·.jobSeed)
        let o ← look (·.objAt g.obj)
        let rows := (List.range g.rows).map (fun k => encodeRow g.conv seed slate (g.row0 + k) ((p.drop (k * g.cols)).take g.cols))
        let ps := o.pieces g.row0 g.rows
        let last ← look (·.lastOf g.obj t)
        writeCopy g t slate ([((ps.getD 0 (0, 0)).1, rows.flatMap (·.1))] ++
          (if g.conv.format.sniril then [((ps.getD 1 (0, 0)).1, rows.flatMap (·.2.1))] else [])) last
        addHealth (g.conv.layer * 32 + g.conv.format.healthCode * 8) (rows.foldl (fun h x => h.add x.2.2) Health.zero)
        groupWrote g.obj t
      mirrorGroup i t p s1 s2
    modRunU (fun r => { r with work := none, held := false, spoiled := [] })

/-- A UPD command with no group left completes (R329, R341): its format health is committed, the step's table closes, a stop that a refusal
called for follows (R318, R323). A repeated command completes no update again, so it closes no table again. A command cut short (R336, R369) leaves UPDT_DONE as it was. -/
def updComplete : M Unit := do
  let u ← look (·.upd)
  match u.run with
  | none => pure ()
  | some r =>
    if r.waiting.isEmpty ∧ r.ready.isEmpty ∧ r.work.isNone ∧ r.cut then
      act (.upd (fun u => { u with run := none }))
      updSync
    else if r.waiting.isEmpty ∧ r.ready.isEmpty ∧ r.work.isNone then
      let step := slateStep r.cmd.slate
      act (.upd (fun u => { u with run := none, closed := some step }))
      setReg Reg.UPDT_DONE (BitVec.ofNat 32 r.cmd.t)
      for h in r.health do fmthCommit step h.1 h.2
      if !u.closed.any (fun c => decide (step ≤ c)) then fmthClose step
      updSync
      if r.stopCode ≠ 0 then stopJob r.stopCode

/-! Snapshots (R332, R333). -/

/-- The die sends nothing further of a snapshot. -/
def snapLate (c : UpdCmd) (e : Ev) : M Unit := do
  act (.upd (fun u => { u with snap := none }))
  setBit Fl.UPDT_STATUS_SNAP_LATE
  if e.code ≠ Ev.snapLate.code then raise e srcUpd 0 c.slate
  raise Ev.snapLate srcUpd 0 c.slate
  updSync

/-- How many poisoned lines the die reads of a group for a snapshot (R583). -/
def State.snapPoison (s : State) (c : UpdCmd) (g : Group) : Nat :=
  if c.kind = 0 then s.tensorPoison g.pAddr g.rows g.cols
  else
    let o := s.objAt g.obj
    let a := if c.t % 2 = 0 then o.addr0 else o.addr1
    (((o.pieces g.row0 g.rows).filter (fun p => decide (p.2 ≠ 0))).map (fun p =>
      ((List.range ((p.1 + p.2 - 1) / 96 + 1 - p.1 / 96)).filter (fun l => s.poisoned (a + (p.1 / 96 + l) * 96))).length)).sum

/-- The bytes of a group that a snapshot sends, none when a poisoned line refuses them (R332, R583). -/
def State.snapBytes (s : State) (c : UpdCmd) (g : Group) : Option (List Byte) :=
  if c.kind = 0 then some (tensorRows g.rows g.cols (s.tensor g.pAddr g.rows g.cols))
  else
    let o := s.objAt g.obj
    let a := if c.t % 2 = 0 then o.addr0 else o.addr1
    let ps := o.pieces g.row0 g.rows
    if ps.any (fun p => decide (p.2 ≠ 0) && (List.range ((p.1 + p.2 - 1) / 96 + 1 - p.1 / 96)).any (fun l => s.poisoned (a + (p.1 / 96 + l) * 96)))
    then none
    else some (ps.flatMap (fun p => s.bytes (a + p.1) p.2))

end Sys2Proof.Machine
end

