-- ==== Sys2Proof/Machine/CollOps.lean ====
section
/-! DEFINITION. The collective engine's buckets (R357 to R363): its tables, the tree, chunk sums, and the chunks sent and written. -/

namespace Sys2Proof.Machine

/-- Entries of the bucket and replica-group tables (R357, R358). -/
def Bucket.decode (b : List Byte) : Bucket :=
  { layer := bitsOf (leAt b 0 2) 11 0, rgroup := leAt b 2 2, gobj := leAt b 4 2, dobj := leAt b 6 2, off := leAt b 8 4
    lpairs := bitsOf (leAt b 12 4) 18 0, owner := bitsOf (leAt b 16 1) 5 0, all := bitOf (leAt b 17 1) 0, flow := bitsOf (leAt b 18 2) 11 0
    resv := decide (bitsOf (leAt b 0 2) 15 12 ≠ 0) || decide (bitsOf (leAt b 12 4) 31 19 ≠ 0) || decide (bitsOf (leAt b 16 1) 7 6 ≠ 0) ||
      decide (bitsOf (leAt b 17 1) 7 1 ≠ 0) || decide (bitsOf (leAt b 18 2) 15 12 ≠ 0) || decide (leAt b 20 12 ≠ 0) }
def RGroup.decode (b : List Byte) : RGroup :=
  let n := min (leAt b 0 1) 64
  ⟨(List.range n).map (fun i => leAt b (16 + i) 1), (List.range n).map (fun i => leAt b (128 + 4 * i) 4)⟩

/-- The tables as they lie in T1 (R378). -/
def State.bucketTable (s : State) : List Bucket :=
  (List.range (s.fld Fl.COLL_BKT_COUNT_COUNT)).map (fun i => Bucket.decode (s.bytes (s.reg64 Reg.COLL_BKT_BASE_LO + 32 * i) 32))
def State.rgroupTable (s : State) : List RGroup :=
  (List.range (s.fld Fl.COLL_RG_COUNT_COUNT)).map (fun i => RGroup.decode (s.bytes (s.reg64 Reg.COLL_RG_BASE_LO + 384 * i) 384))

/-- A table of n bytes wholly in T1 on a multiple of 192. -/
def inT1Table (a n : Nat) : Bool := onPair a && inT1 a && decide (a + n ≤ 0x3400000000)

/-- The check of the bases and of the least and greatest counts (R378). -/
def State.collBasesOk (s : State) : Bool :=
  let nb := s.fld Fl.COLL_BKT_COUNT_COUNT
  let nr := s.fld Fl.COLL_RG_COUNT_COUNT
  decide (1 ≤ nb) && inT1Table (s.reg64 Reg.COLL_BKT_BASE_LO) (32 * nb) &&
    decide (1 ≤ nr ∧ nr ≤ 4096) && inT1Table (s.reg64 Reg.COLL_RG_BASE_LO) (384 * nr)

/-- The buckets of the bucket table (R357, R379): each lies in its objects, GOBJ an FP32 one, and in a layer of the layer table; a layer's are contiguous,
as many as its NBUCKETS, and of 1 MiB to 64 MiB but for the last, which may be smaller. -/
def State.bucketsOk (s : State) (bs : List Bucket) (rs : List RGroup) : Bool :=
  bs.zipIdx.all (fun e =>
    let b := e.1
    let after := bs.drop (e.2 + 1)
    let last := after.all (fun x => decide (x.layer ≠ b.layer))
    let fits := fun (o : Nat) => decide (o < s.objCount) && decide ((b.off + b.lpairs) * 192 ≤ (s.objAt o).size)
    !b.resv && decide (b.rgroup < rs.length) && decide (1 ≤ b.lpairs ∧ b.lpairs * 192 ≤ 64 * 2 ^ 20) &&
      (last || (decide (2 ^ 20 ≤ b.lpairs * 192) && (after.head?).any (fun x => decide (x.layer = b.layer)))) && fits b.gobj && fits b.dobj &&
      decide ((s.objAt b.gobj).fmt = 3) && decide (b.owner < ((rs[b.rgroup]?).map (·.members.length)).getD 0) &&
      s.upd.layers.any (fun l => decide (l.layer = b.layer))) &&
    s.upd.layers.all (fun l => decide ((bs.filter (fun b => decide (b.layer = l.layer))).length = l.buckets))

/-- The replica groups (R358, R379): 1 to 64 members, each a module of the system, and the reserved bytes 0. -/
def State.rgroupsOk (s : State) : Bool :=
  (List.range (s.fld Fl.COLL_RG_COUNT_COUNT)).all (fun i =>
    let b := s.bytes (s.reg64 Reg.COLL_RG_BASE_LO + 384 * i) 384
    decide (1 ≤ leAt b 0 1 ∧ leAt b 0 1 ≤ 64 ∧ leAt b 1 15 = 0 ∧ leAt b 80 48 = 0) &&
      (RGroup.decode b).members.all (fun m => decide (m < (s.job.map (·.modules)).getD 1)))

/-- The bucket and its group. -/
def State.bucket (s : State) (b : Nat) : Bucket := (s.coll.buckets[b]?).getD (Bucket.decode [])
def State.rgroup (s : State) (b : Bucket) : RGroup := (s.coll.rgroups[b.rgroup]?).getD ⟨[], []⟩

/-- This module's system number. -/
def State.me (s : State) : Nat := (s.job.map (·.module)).getD 0

/-- The replica index of a module in a bucket's group, and the tree position of an index (R361). -/
def RGroup.indexOf (r : RGroup) (m : Nat) : Option Nat := (List.range r.members.length).find? (fun i => decide (r.members.getD i 0xFF = m))
def posOf (n owner i : Nat) : Nat := (i + n - owner) % n
def indexAt (n owner q : Nat) : Nat := (q + owner) % n

/-- The children of position q by ascending level, and its parent, among n positions (R361). -/
def childrenOf (n q : Nat) : List Nat :=
  (List.range 6).filterMap (fun l => if q % 2 ^ (l + 1) = 0 ∧ q + 2 ^ l < n then some (q + 2 ^ l) else none)
def parentOf (q : Nat) : Option Nat :=
  if q = 0 then none else ((List.range 6).find? (fun j => decide (q % 2 ^ (j + 1) ≠ 0))).map (fun j => q - 2 ^ j)

/-- The position of this module for a bucket, if it is a member. -/
def State.myPos (s : State) (b : Bucket) : Option Nat :=
  let r := s.rgroup b
  (r.indexOf s.me).map (fun i => posOf r.members.length b.owner i)

/-- The engine's flows for a bucket (R357): FLOW to the parent, and the next ones to the children by ascending level. -/
def State.engineFlows (s : State) (b : Bucket) : List Nat :=
  match s.myPos b with
  | none => []
  | some q => (if q = 0 then [] else [b.flow]) ++ (List.range (childrenOf (s.rgroup b).members.length q).length).map (b.flow + 1 + ·)

/-- The line pairs that a node sums at a time: DEDUCED, the larger of the chunks of its flows for the bucket (R360), which the others divide. The
units are counted from 0, as k below. -/
def State.chunkPairs (s : State) (b : Bucket) : Nat := if (s.engineFlows b).any (fun f => !(s.flow f).big) && !(s.engineFlows b).any (fun f => (s.flow f).big) then 21 else 42
def State.chunkCount (s : State) (b : Bucket) : Nat := ceilDiv b.lpairs (s.chunkPairs b)
def State.pairsIn (s : State) (b : Bucket) (k : Nat) : Nat := min (s.chunkPairs b) (b.lpairs - k * s.chunkPairs b)

/-- A line pair of an object as FP32 words; poisoned lines read as the poison NaN (R71, R583). -/
def State.pairWords (s : State) (a : Nat) : List W32 :=
  (List.range 2).flatMap (fun l => (List.range 24).map (fun i =>
    if s.poisoned (a + l * 96) then fpPoison else BitVec.ofNat 32 (s.le (a + l * 96 + 4 * i) 4)))

/-- The payload of a chunk (R360): the presence mask, then the pairs that are not all zero bits; with the number elided. -/
def chunkPayload (pairs : List (List W32)) : List Byte × Nat :=
  let present := pairs.map (fun p => p.any (fun w => decide (w ≠ 0)))
  let mask := present.zipIdx.foldl (fun (m : Nat) e => if e.1 then m + 2 ^ e.2 else m) 0
  (leBytes 8 mask ++ (pairs.filter (fun p => p.any (fun w => decide (w ≠ 0)))).flatMap (fun p => p.flatMap (fun w => leBytes 4 w.toNat)),
    (present.filter (fun x => !x)).length)

/-- The line pairs of a received payload; an elided one is +0.0 throughout. -/
def chunkOf (n : Nat) (bs : List Byte) : List (Option (List Byte)) :=
  let mask := leAt bs 0 8
  (List.range n).map (fun k =>
    if bitOf mask k then
      let before := ((List.range k).filter (fun j => bitOf mask j)).length
      some ((bs.drop (8 + before * 192)).take 192)
    else none)

/-- The words of a received line pair. -/
def pairOf (x : Option (List Byte)) : List W32 :=
  match x with
  | none => List.replicate 48 0
  | some b => (List.range 48).map (fun i => BitVec.ofNat 32 (leAt b (4 * i) 4))

/-- Send a unit to the member at a tree position, on the engine's flow for it and in chunks of that flow's size (R360). -/
def sendChunk (bi step k q : Nat) (up : Bool) (level : Nat) (pairs : List (List W32)) : M Unit := do
  let b ← look (·.bucket bi)
  let r ← look (·.rgroup b)
  let c ← look (·.chunkPairs b)
  let i := indexAt r.members.length b.owner q
  let f := b.flow + (if up then 0 else 1 + level)
  let fl ← getFlow f
  let n := fl.chunkPairs
  for j in List.range (ceilDiv pairs.length n) do
    let x := chunkPayload ((pairs.drop (j * n)).take n)
    bump (Reg.COLL_COUNT_LO 1) x.2
    pmuHub 0x0E 1 none none none none
    pmuHub 0x0F x.2 none none none none
    nrtWrite f (r.keys.getD i 0) (bi * 2 ^ 24 + k * c + j * n) x.1 (mkSlate step 0 0 1 0) false none 0

/-- Change the run of a bucket in a step. -/
def modBucket (bi step : Nat) (f : BucketRun → BucketRun) : M Unit :=
  act (.coll (fun c => { c with runs := c.runs.map (fun r => if r.bucket = bi ∧ r.step = step then f r else r) }))

/-- A bucket's run in a step. -/
def State.bucketRun (s : State) (bi step : Nat) : Option BucketRun := s.coll.runs.find? (fun r => decide (r.bucket = bi ∧ r.step = step))

/-- A chunk of a bucket is done here; the last one completes the bucket (R353, R380), and the owner reports it to its update die (R363). -/
def chunkDone (bi step k : Nat) : M Unit := do
  modBucket bi step (fun r => { r with done := r.done ++ [k] })
  let b ← look (·.bucket bi)
  let n ← look (·.chunkCount b)
  let run ← look (·.bucketRun bi step)
  if run.any (fun r => decide (n ≤ r.done.length) && !r.complete) then
    modBucket bi step (fun r => { r with complete := true })
    bump (Reg.COLL_COUNT_LO 0) 1
    let pos ← look (·.myPos b)
    if pos = some 0 ∨ b.all then reportBucket b.layer step bi

/-- The groups whose gradient places a bucket's line pairs fall in. -/
def State.bucketGroups (s : State) (b : Bucket) : List Nat :=
  let lo := (s.objAt b.dobj).addr0 + b.off * 192
  (List.range s.upd.groups.length).filter (fun i =>
    let g := s.group i
    decide (g.gAddr < lo + b.lpairs * 192 ∧ lo < g.gAddr + tensorBytes g.rows g.cols))

/-- The earlier steps whose sums have come, or are coming, into a layer's gradient places on this module. -/
def State.gradSteps (s : State) (layer step : Nat) : List Nat :=
  ((s.upd.present.filter (fun e => decide (e.1 = layer))).map (·.2) ++ (s.upd.buckets.filter (fun e => decide (e.1 = layer))).map (·.2.1) ++
    (s.coll.runs.filter (fun r =>
      let b := s.bucket r.bucket
      decide (b.layer = layer) && !r.complete && (b.all || decide (s.myPos b = some 0)))).map (·.step)).filter (· < step)

/-- Does a write of a step's sum into its gradient places wait: the update of an earlier step has still to read one of their groups (R315)? -/
def State.gradHeldFor (s : State) (bi step : Nat) : Bool :=
  let b := s.bucket bi
  (s.bucketGroups b).any (fun g => (s.gradSteps b.layer step).any (fun e => s.gradUnread e g))

/-- A write into a gradient place waits. -/
def holdGrad (bi step : Nat) : M Unit :=
  act (.coll (fun c => { c with gradHeld := if c.gradHeld.contains (bi, step) then c.gradHeld else c.gradHeld ++ [(bi, step)] }))

/-- Write a chunk's sum at OFF in DOBJ (R361). -/
def writeChunk (bi k : Nat) (pairs : List (List W32)) : M Unit := do
  let b ← look (·.bucket bi)
  let o ← look (·.objAt b.dobj)
  let c ← look (·.chunkPairs b)
  let a := o.addr0 + (b.off + k * c) * 192
  tierWrite a (pairs.flatMap (fun p => p.flatMap (fun w => leBytes 4 w.toNat)))
  let own ← look (·.ownerBit)
  traffic true a (2 * pairs.length) own mColl 3

/-- The sum of a chunk goes on: to the parent, or at the root into DOBJ and, under MODE ALL, down the tree (R361). -/
def sumDone (bi step k q : Nat) (pairs : List (List W32)) : M Unit := do
  let b ← look (·.bucket bi)
  let r ← look (·.rgroup b)
  match parentOf q with
  | some p =>
    sendChunk bi step k p true 0 pairs
    if !b.all then chunkDone bi step k
  | none =>
    writeChunk bi k pairs
    if b.all then
      for x in (childrenOf r.members.length q).zipIdx do sendChunk bi step k x.1 false x.2 pairs
    chunkDone bi step k

/-- A line pair received from the member at a tree position, as a chunk brought it. -/
def State.gotPair (s : State) (bi step q : Nat) (down : Bool) (i : Nat) : Option (Option (List Byte)) :=
  (s.coll.chunks.find? (fun y => decide (y.bucket = bi ∧ y.step = step ∧ y.q = q ∧ y.first ≤ i ∧ i < y.first + y.pairs.length) && y.down == down)).map
    (fun y => y.pairs.getD (i - y.first) none)

/-- The line pairs of unit k from that member, once all have come. -/
def State.gotUnit (s : State) (bi step q : Nat) (down : Bool) (k : Nat) : Option (List (List W32)) :=
  let b := s.bucket bi
  let l := (List.range (s.pairsIn b k)).map (fun i => s.gotPair bi step q down (k * s.chunkPairs b + i))
  if l.any (·.isNone) then none else some (l.filterMap (fun x => x.map pairOf))

/-- The chunks of unit k leave the buffer. -/
def dropUnit (bi step k : Nat) (down : Bool) : M Unit := do
  let b ← look (·.bucket bi)
  let c ← look (·.chunkPairs b)
  act (.coll (fun x => { x with chunks := x.chunks.filter (fun y => !(decide (y.bucket = bi ∧ y.step = step ∧ y.first / c = k) && y.down == down)) }))

/-- The sums of a node's children for unit k, by ascending level; none of one that has not come. -/
def State.childUnits (s : State) (bi step k : Nat) : List (Option (List (List W32))) :=
  let b := s.bucket bi
  ((s.myPos b).map (fun q => (childrenOf (s.rgroup b).members.length q).map (fun c => s.gotUnit bi step c false k))).getD []

/-- Sum a unit once its own and every child's line pairs are present (R361, R362); at the owner the write may have to wait (R315). -/
def tryChunk (bi step k : Nat) : M Unit := do
  let b ← look (·.bucket bi)
  let pos ← look (·.myPos b)
  let run ← look (·.bucketRun bi step)
  match pos, run with
  | some q, some x =>
    let got ← look (·.childUnits bi step k)
    let wait ← look (·.gradHeldFor bi step)
    if x.sent.contains k || x.done.contains k || got.any (·.isNone) then pure ()
    else if q = 0 ∧ wait then holdGrad bi step
    else
      let o ← look (·.objAt b.gobj)
      let c ← look (·.chunkPairs b)
      let n ← look (·.pairsIn b k)
      let a := o.addr0 + (b.off + k * c) * 192
      let bad ← look (fun s => ((List.range (2 * n)).filter (fun l => s.poisoned (a + l * 96))).length)
      countPoison bad
      let own ← look (fun s => (List.range n).map (fun i => s.pairWords (a + i * 192)))
      let priv ← look (·.ownerBit)
      traffic false a (2 * n) priv mColl 3
      let sum := (got.filterMap id).foldl (fun (acc : List (List W32)) (y : List (List W32)) =>
        (acc.zip y).map (fun e => (e.1.zip e.2).map (fun w => fadd w.1 w.2))) own
      dropUnit bi step k false
      modBucket bi step (fun r => { r with sent := r.sent ++ [k] })
      sumDone bi step k q sum
  | _, _ => pure ()

/-- A unit of the sum on its way down under MODE ALL (R361): once it has come whole it goes on to the children, and is written here unless the
write has to wait (R315). -/
def tryDown (bi step k : Nat) : M Unit := do
  let b ← look (·.bucket bi)
  let r ← look (·.rgroup b)
  let pos ← look (·.myPos b)
  let run ← look (·.bucketRun bi step)
  match pos.bind (fun q => (parentOf q).map (q, ·)), run with
  | some (q, p), some x =>
    let got ← look (·.gotUnit bi step p true k)
    match got with
    | none => pure ()
    | some words =>
      if !x.lowered.contains k then
        for e in (childrenOf r.members.length q).zipIdx do sendChunk bi step k e.1 false e.2 words
        modBucket bi step (fun r => { r with lowered := r.lowered ++ [k] })
      let wait ← look (·.gradHeldFor bi step)
      if wait then holdGrad bi step
      else
        dropUnit bi step k true
        writeChunk bi k words
        chunkDone bi step k
  | _, _ => pure ()

/-- May a chunk enter the buffer (R362): the earlier steps' sums of its place have left, and the 8 MiB hold it? DESIGN CHOICE: each line pair,
elided or not, takes 192 bytes; a chunk that finds no room waits as one of a later step does, and so does a chunk of the sum on its way down. -/
def State.bufferTakes (s : State) (y : Chunk) : Bool :=
  let k := y.first / s.chunkPairs (s.bucket y.bucket)
  (y.down || !s.coll.runs.any (fun r => decide (r.bucket = y.bucket ∧ r.step < y.step) && !r.sent.contains k)) &&
    !s.coll.chunks.any (fun x => decide (x.bucket = y.bucket ∧ x.step < y.step ∧ x.first = y.first) && x.down == y.down) &&
    decide (((s.coll.chunks.map (·.pairs.length)).sum + y.pairs.length) * 192 ≤ 8 * 2 ^ 20)

/-- A chunk enters the buffer, or waits. -/
def chunkIn (y : Chunk) : M Unit := do
  let ok ← look (·.bufferTakes y)
  if ok then
    act (.coll (fun x => { x with chunks := x.chunks.filter (fun z =>
      !(z.down == y.down) || decide (¬(z.bucket = y.bucket ∧ z.step = y.step ∧ z.q = y.q ∧ z.first = y.first))) ++ [y] }))
    let c ← look (fun s => s.chunkPairs (s.bucket y.bucket))
    if y.down then tryDown y.bucket y.step (y.first / c) else tryChunk y.bucket y.step (y.first / c)
  else act (.coll (fun x => { x with later := x.later ++ [y] }))

/-- The chunks that wait try again, as long as one may have made room for another. -/
def pumpLater : M Unit := do
  let l ← look (·.coll.later)
  for _ in l do
    let now ← look (·.coll.later)
    act (.coll (fun x => { x with later := [] }))
    for y in now do chunkIn y

/-- Does a unit that is ready on this module wait for a child (R362)? -/
def State.childWaits (s : State) : Bool :=
  s.coll.runs.any (fun r => (List.range (s.chunkCount (s.bucket r.bucket))).any (fun k =>
    !r.sent.contains k && !r.done.contains k && (s.childUnits r.bucket r.step k).any (·.isNone)))

/-- The trigger of a bucket for a step (R359): one already running or complete is ignored. -/
def startBucket (bi step : Nat) : M Unit := do
  let on ← getFld Fl.COLL_CTRL_RUN
  let n ← look (·.coll.buckets.length)
  let was ← look (·.bucketRun bi step)
  if on = 1 ∧ bi < n ∧ was.isNone then
    act (.coll (fun c => { c with runs := c.runs ++ [⟨bi, step, [], [], [], false, false⟩] }))
    let b ← look (·.bucket bi)
    let k ← look (·.chunkCount b)
    for i in List.range k do tryChunk bi step i
    pumpLater

/-- A chunk of at most `size` line pairs arrives on a COLL key from a module (R419, R361): a child's enters the sums, the parent's is the sum on its way
down. -/
def chunkArrive (bi step first from' size : Nat) (payload : List Byte) : M Unit := do
  let on ← getFld Fl.COLL_CTRL_RUN
  if on = 1 then
    let b ← look (·.bucket bi)
    let r ← look (·.rgroup b)
    let pos ← look (·.myPos b)
    match pos, r.indexOf from' with
    | some q, some i =>
      let qs := posOf r.members.length b.owner i
      let pairs := chunkOf (min size (b.lpairs - first)) payload
      if parentOf q = some qs then
        if b.all then chunkIn ⟨bi, step, qs, first, true, pairs⟩
      else chunkIn ⟨bi, step, qs, first, false, pairs⟩
      pumpLater
    | _, _ => pure ()

end Sys2Proof.Machine
end

