-- ==== Sys2Proof/Machine/SeqCmds.lean ====
section
/-! DEFINITION. The control micro-ops (R235 to R240), the Slate and Takes (R245, R246, R252), the Clappers of the die (R247 to R251), the
Take controller (R254 to R256), and the writes of the sequencer's registers (R261, R265). -/

namespace Sys2Proof.Machine

/-! Descriptors copied at issue (R232). -/

/-- MATMUL: an odd effective line, or one beyond 32,767, is a program fault; it issues while the array's queue has room (R231, R240). -/
def execMatmul (tile : Nat) : Meaning := M.next (withUop tile 1 0 fun w => do
  let t ← getTile tile
  let line := t.effLine w
  if 32767 < line ∨ line % 2 = 1 then programFault tile
  else if 4 ≤ t.arrayQ.length then uopWait tile
  else
    let q ← copyDesc tile line 192
    modTile tile (fun t => { t with arrayQ := t.arrayQ ++ [q] })
    uopDone tile)

/-- CHAIN, as MATMUL with the chain's queue. -/
def execChain (tile : Nat) : Meaning := M.next (withUop tile 2 0 fun w => do
  let t ← getTile tile
  let line := t.effLine w
  if 32767 < line ∨ line % 2 = 1 then programFault tile
  else if 4 ≤ t.chainQ.length then uopWait tile
  else
    let q ← copyDesc tile line 192
    modTile tile (fun t => { t with chainQ := t.chainQ ++ [q] })
    uopDone tile)

/-- DISPATCH: one line, two places in the queue. -/
def execDispatch (tile : Nat) : Meaning := M.next (withUop tile 3 0 fun w => do
  let t ← getTile tile
  let line := t.effLine w
  if 32767 < line then programFault tile
  else if 2 ≤ t.dispQ.length then uopWait tile
  else
    let q ← copyDesc tile line 96
    modTile tile (fun t => { t with dispQ := t.dispQ ++ [q] })
    uopDone tile)

/-! Control. -/

/-- NOP issues and does nothing (R235). -/
def execNop (tile : Nat) : Meaning := M.next (withUop tile 0 0 fun _ => uopDone tile)

/-- END ends the program (R235): the state is ENDED, and its loops are left (R237). -/
def execEndProgram (tile : Nat) : Meaning := M.next (withUop tile 0 1 fun _ => do
  uopDone tile
  modTile tile (fun t => { t with loops := [] })
  setFld (Fl.TILE_SEQ_STATUS_STATE tile) seqEnded)

/-- Is the earlier-issued work of the units named complete (R242)? -/
def Tile.fenced (t : Tile) (units : Nat) : Bool :=
  !(bitOf units 0 && !(t.arrayQ.isEmpty && t.arr.isEmpty)) && !(bitOf units 1 && !(t.chainQ.isEmpty && t.chn.isEmpty)) &&
    !(bitOf units 2 && !t.dispQ.isEmpty) && !(bitOf units 3 && !t.moveQ.isEmpty) &&
    !(bitOf units 4 && !(t.sendQ.isEmpty && decide (t.sendsOut = 0)))

/-- FENCE issues once the named units' work is complete (R231, R242). -/
def execFence (tile : Nat) : Meaning := M.next (withUop tile 0 2 fun w => do
  let t ← getTile tile
  if t.fenced (bitsOf w 4 0) then uopDone tile else uopWait tile)

/-- SETIX sets an index register, or adds to it modulo 2^24 (R236). -/
def execSetix (tile : Nat) : Meaning := M.next (withUop tile 0 3 fun w => do
  let i := bitsOf w 3 0
  let imm := bitsOf w 31 8
  modTile tile (fun t => t.setIx i (if bitOf w 4 then t.ixOf i + imm else imm))
  uopDone tile)

/-! Loops and skips. -/

/-- LOOP with its count (R237): the loop errors, a body skipped by a count of 0 from an index register, else a level pushed. -/
def loopIssue (n w : Nat) (count : Option Nat) : M Unit := do
  let t ← getTile n
  let pc ← look (·.pc n)
  let body := bitsOf w 12 0
  let last := pc + body
  if 8191 < last ∨ 4 ≤ t.loops.length ∨ t.loops.any (fun l => decide (l.last ≤ last)) then programFault n
  else if body = 0 then uopDone n
  else match count with
    | some 0 => uopJump n (last + 1)
    | _ =>
      let c := count.getD (bitsOf w 39 17)
      uopJump n (pc + 1)
      modTile n (fun t => ({ t with loops := ⟨pc + 1, last, c, bitsOf w 16 13, 0⟩ :: t.loops }).setIx (bitsOf w 16 13) 0)

/-- LOOP with the count from COUNT; COUNT 0 repeats until END (R236, R237). -/
def execLoopCount (tile : Nat) : Meaning := M.next (withUop tile 8 0 fun w => loopIssue tile w none)

/-- LOOP with the count from IX[IXSEL]; a count of 0 skips the body (R237). -/
def execLoopIx (tile : Nat) : Meaning := M.next (withUop tile 8 1 fun w => do
  let t ← getTile tile
  loopIssue tile w (some (t.ixOf (uopIx w))))

/-- The micro-batch slot of a tile's Slate, and the line of its skip record (R217, R238). -/
def State.skipSlot (s : State) (n : Nat) : Nat := slateMb (s.slate n) % 32
def State.skipLineOf (s : State) (n : Nat) : Nat := s.skipTable n + 2 * s.skipSlot n

/-- SKIP TEST (R218, R219, R237, R238): a record of another step or micro-batch fails the Take; else it is locked, and a set layer bit
continues OFFSET micro-ops ahead. -/
def execSkipTest (tile : Nat) : Meaning := M.next (withUop tile 9 0 fun w => do
  let line ← look (·.skipLineOf tile)
  let v ← tileMem tile
  let slate ← look (·.slate tile)
  let pc ← look (·.pc tile)
  let slot ← look (·.skipSlot tile)
  let bad := (if v.bad line then 1 else 0) + (if v.bad (line + 1) then 1 else 0)
  countPoison bad
  pmuTile tile 0x18 bad (some pc) slate false
  if v.le (line * 96) 8 / 2 ^ 20 ≠ slate / 2 ^ 20 then
    setBit (Fl.TILE_DSP_STATUS_STALE tile)
    uopDone tile
    failUnit tile Ev.skipMapStale slate 0 pc line false
  else
    modTile tile (fun t => { t with locks := if t.locks.contains slot then t.locks else t.locks ++ [slot] })
    let layer := bitsOf w 9 0
    if bitOf (v.le (line * 96 + 64 + layer / 8) 1) (layer % 8) then uopJump tile (pc + bitsOf w 22 10) else uopDone tile)

/-- SKIP RELEASE unlocks the record (R219, R238) and clears the slot's shard log (R355). -/
def execSkipRelease (tile : Nat) : Meaning := M.next (withUop tile 9 1 fun _ => do
  let slot ← look (·.skipSlot tile)
  modTile tile (fun t => { t with
    locks := t.locks.filter (fun m => decide (m ≠ slot)), shardLog := t.shardLog.filter (fun e => decide (e.slot ≠ slot)) })
  uopDone tile)

/-! Counters and signals. -/

/-- RECV issues when EC(CTR) holds N, and subtracts it; inside a Take the total is kept (R231, R252). -/
def execRecv (tile : Nat) : Meaning := M.next (withUop tile 5 3 fun w => do
  let c := bitsOf w 2 0
  let k := bitsOf w 18 3
  let v ← look (·.ec tile c)
  if v < k then uopWait tile
  else
    setEc tile c (v - k)
    modTile tile (fun t => { t with take := t.take.map (fun r => { r with recv := modAt r.recv c (· + k) }) })
    uopDone tile)

/-- WAIT issues when EC(8 + CTR) holds N, and subtracts it. -/
def execWait (tile : Nat) : Meaning := M.next (withUop tile 6 1 fun w => do
  let c := 8 + bitsOf w 2 0
  let k := bitsOf w 18 3
  let v ← look (·.ec tile c)
  if v < k then uopWait tile
  else
    setEc tile c (v - k)
    uopDone tile)

/-- Is a move of tile `me` on its way to a logical tile, itself included? -/
def Move.toward (m : Move) (me tile : Nat) : Bool :=
  match m.kind with
  | .toTile => decide (m.target.aux = tile)
  | .listOut => decide (m.remote = tile)
  | .localCopy => decide (me = tile)
  | .fromObj => decide (me = tile)
  | .listBack => decide (me = tile)
  | .toObj => false

/-- SIGNAL queues an increment, behind this tile's earlier moves toward the target (R243). -/
def execSignal (tile : Nat) : Meaning := M.next (withUop tile 6 0 fun w => do
  let slate ← look (·.slate tile)
  let d := bitsOf w 7 0
  modTile tile (fun t => { t with
    signals := t.signals ++ [⟨d, bitsOf w 10 8, bitsOf w 26 11, slate, (t.moveQ.filter (·.toward tile d)).length, t.issued⟩] })
  uopDone tile)

/-- The first signal of a list that no earlier move holds back, and the others. -/
def takeSignal : List SignalItem → Option (SignalItem × List SignalItem)
  | [] => none
  | x :: t =>
    if x.after = 0 then some (x, t)
    else match takeSignal t with
      | some (y, r) => some (y, x :: r)
      | none => none

/-- SIGNAL_DELIVER: the oldest signal of the tile that no earlier move toward its target holds back is delivered (R233, R243). -/
def execSignalDeliver (tile : Nat) : Meaning := M.next (do
  let t ← getTile tile
  match takeSignal t.signals with
  | none => pure ()
  | some (x, rest) =>
    modTile tile (fun t => { t with signals := rest })
    addEc x.tile (8 + x.ctr) x.inc x.slate
    sampleDone tile x.ord)

/-! Clappers of the die. -/

/-- CLAP arrives and waits (R248); on a channel without this tile it is a program fault (R247). -/
def execClap (tile : Nat) : Meaning := M.next (withUop tile 6 2 fun w => do
  let c := bitsOf w 3 0
  let ps ← look (·.onDie c)
  let t ← getTile tile
  if !ps.contains tile then programFault tile
  else if t.wait = .clap c then clapWaitAt tile (.clap c) true
  else if t.arrivals.contains c then clapWaitAt tile (.toArrive c) true
  else
    clapWaitAt tile (.clap c) true
    clapArriveTile tile c)

/-- ARRIVE arrives and goes on; it waits for an earlier generation that has not released (R248). -/
def execArrive (tile : Nat) : Meaning := M.next (withUop tile 6 3 fun w => do
  let c := bitsOf w 3 0
  let ps ← look (·.onDie c)
  let t ← getTile tile
  if !ps.contains tile then programFault tile
  else if t.arrivals.contains c then clapWaitAt tile (.toArrive c) false
  else
    uopDone tile
    clapArriveTile tile c)

/-- CLAP_WAIT waits for the release of the generation this tile last arrived at; with no arrival pending it issues at once (R248). -/
def execClapWait (tile : Nat) : Meaning := M.next (withUop tile 6 4 fun w => do
  let c := bitsOf w 3 0
  let ps ← look (·.onDie c)
  let t ← getTile tile
  if !ps.contains tile then programFault tile
  else if t.arrivals.contains c then clapWaitAt tile (.clapWait c) true
  else uopDone tile)

/-- CLAPPER_TIMEOUT: a wait at a Clapper beyond CLAP_LIMIT fails the open Take, or stops the job (R251). -/
def execClapperTimeout (tile : Nat) : Meaning := M.next (do
  let t ← getTile tile
  if t.wait ≠ .none then
    let slate ← look (·.slate tile)
    let pc ← look (·.pc tile)
    failUnit tile Ev.clapperTimeout slate 0 pc 0 false)

/-! The Slate and Takes. -/

/-- A job that reaches step 0xFFFF_FFFF stops (R19). -/
def stepLimit (src : Nat × Nat) (slate : Nat) : M Unit := do
  raiseStop Ev.stepLimit src 0 slate
  stopJob Ev.stepLimit.code

/-- SLATE SET (R246): the step does not wrap (R19); a reserved phase, or SET_MB or a change of the step inside a Take, is a program fault (R240). -/
def execSlateSet (tile : Nat) : Meaning := M.next (withUop tile 10 0 fun w => do
  let t ← getTile tile
  let x ← look (·.slate tile)
  let mode := bitsOf w 1 0
  if t.take.isSome ∧ (mode ≠ 0 ∨ bitOf w 15) then programFault tile
  else
    let module ← getReg Reg.COLL_STEP
    let step := if mode = 1 then module.toNat else if mode = 2 then min (slateStep x + 1) (2 ^ 32 - 1) else slateStep x
    let mb := if bitOf w 15 then (if bitOf w 14 then t.ixOf (uopIx w) % 4096 else bitsOf w 13 2) else slateMb x
    let phase := if bitOf w 16 then bitsOf w 20 17 else slatePhase x
    let stage := if bitOf w 21 then bitsOf w 29 22 else slateStage x
    uopDone tile
    setSlate tile (mkSlate step mb (slateTake x) phase stage)
    if mode ≠ 0 ∧ 2 ^ 32 - 1 ≤ step then stepLimit (srcTile tile) x)

/-- TAKE_BEGIN opens a Take with number 0 and records where its replay starts (R246, R252, R296). -/
def execTakeBegin (tile : Nat) : Meaning := M.next (withUop tile 10 1 fun _ => do
  let t ← getTile tile
  if t.take.isSome then programFault tile
  else
    let x ← look (·.slate tile)
    let y := mkSlate (slateStep x) (slateMb x) 0 (slatePhase x) (slateStage x)
    uopDone tile
    let pc ← look (·.pc tile)
    let ec ← look (fun s => (List.range 8).map (fun c => s.ec tile (8 + c)))
    setSlate tile y
    modTile tile (fun t => { t with
      take := some ⟨pc, t.ix, t.loops, ec, y, List.replicate 8 0, t.arrivals⟩, failed := none })
    setBit (Fl.TILE_SEQ_STATUS_TAKE_OPEN tile)
    reelTakeBegin tile)

/-- TAKE_END closes the Take once its work has completed and its sends have been handed over; the counts of format health are then
committed (R87, R252). A Take that has failed does not close: its work never completes (R255). -/
def execTakeEnd (tile : Nat) : Meaning := M.next (withUop tile 10 2 fun _ => do
  let t ← getTile tile
  if t.take.isNone then programFault tile
  else if t.fenced 15 && t.sendQ.isEmpty && t.failed.isNone then
    uopDone tile
    modTile tile (fun t => { t with take := none, rejects := [] })
    setFld (Fl.TILE_SEQ_STATUS_TAKE_OPEN tile) 0
    act (.reel (fun r => { r with takeRecord := r.takeRecord.filter (fun e => decide (e.1 ≠ tile)) }))
    commitHealth tile
  else uopWait tile)

/-! The Take controller. -/

/-- The lines a move reads and where it writes them, in order. -/
def State.moveLines (s : State) (n : Nat) (m : Move) : List (Nat × Nat) :=
  let here := s.tileBase n
  let walk := fun (a b : Nat) => (List.range m.count).map (fun i => (a + i * 96, b + i * 96))
  match m.kind with
  | .localCopy => walk (here + m.line * 96) (here + m.remote * 96)
  | .toTile => walk (here + m.line * 96) (s.tileBase m.target.aux + m.remote * 96)
  | .fromObj =>
    let o := s.objAt m.target.target
    walk (o.addr (s.versionOf (slateStep m.slate)) + m.remote * 96) (here + m.line * 96)
  | .toObj => walk (here + m.line * 96) ((s.objAt m.target.target).addr0 + m.remote * 96)
  | .listOut =>
    let l := s.listOf n m.list
    let p := m.target.aux
    l.2.zipIdx.flatMap (fun e => (List.range (listRow p)).map (fun i =>
      (here + (Config.listLine 0 p e.1.1 + i) * 96, s.tileBase m.remote + (Config.listLine 1 p (l.1.slot0 + e.2) + i) * 96)))
  | .listBack =>
    let l := s.listOf n m.list
    let p := m.target.aux
    l.2.zipIdx.flatMap (fun e => (List.range (listRow p)).map (fun i =>
      (s.tileBase m.remote + (Config.listLine 2 p (l.1.slot0 + e.2) + i) * 96,
        here + (Config.listLine 3 p (e.1.2 * l.1.tokens + e.1.1) + i) * 96)))

/-- Bytes that a list-driven move carries beside its lines (R212): where they go, the bytes, and the poisoned lines they are read from, each as the line's first
byte with the byte of the destination it falls on. -/
structure ScaleRun where
  dst : Nat
  bytes : List Byte
  bad : List (Nat × Nat)
deriving DecidableEq, Repr

/-- The first byte of the line that holds an address. -/
def lineStart (a : Nat) : Nat := regionBase a + (a - regionBase a) / 96 * 96

/-- A row's scale bytes on their way. -/
def State.scaleRun (s : State) (dst src n : Nat) : ScaleRun :=
  ⟨dst, s.bytes src n, ((List.range n).filter (fun i => s.poisoned (src + i))).map (fun i => (lineStart (src + i), dst + i))⟩

/-- The bytes that a list-driven move carries beside its lines: each row's scale bytes, and on the way out the fill record (R212). -/
def State.moveScales (s : State) (n : Nat) (m : Move) : List ScaleRun :=
  let here := s.tileBase n
  let l := s.listOf n m.list
  let p := m.target.aux
  match m.kind with
  | .listOut =>
    l.2.zipIdx.map (fun e => s.scaleRun (s.tileBase m.remote + Config.listScale 1 p (l.1.slot0 + e.2))
      (here + Config.listScale 0 p e.1.1) (listRowScales p)) ++
      [⟨s.tileBase m.remote + Config.listFill p + 2 * l.1.src, leBytes 2 l.1.length, []⟩]
  | .listBack =>
    l.2.zipIdx.map (fun e => s.scaleRun (here + Config.listScale 3 p (e.1.2 * l.1.tokens + e.1.1))
      (s.tileBase m.remote + Config.listScale 2 p (l.1.slot0 + e.2)) (listRowScales p))
  | _ => []

/-- What a tile's stopped descriptors and moves leave undefined (R255): the lines they were writing. -/
def undefStopped (n : Nat) : M Unit := do
  let t ← getTile n
  for r in t.arr.filter (·.started) do
    for sp in r.desc.writeSpans do undefTile n (sp.1 * 96) ((sp.2 + 1 - sp.1) * 96)
  for r in t.chn.filter (fun r => !r.waiting) do
    for sp in (CDesc.decode r.q.bytes).writeSpans do undefTile n (sp.1 * 96) ((sp.2 + 1 - sp.1) * 96)
  match t.moveQ with
  | [] => pure ()
  | m :: _ =>
    if !m.held then
      let ls ← look (·.moveLines n m)
      let scales ← look (·.moveScales n m)
      for l in ls do undefDev l.2 96
      for x in scales do undefDev x.dst x.bytes.length

/-- Samples outstanding at an abort are written with ABORTED; those of a tile that is to be swapped are lost (R623, R625). -/
def abortSamples (n : Nat) : M Unit := do
  let t ← getTile n
  if t.failed.any (·.swap) then bump (Reg.TILE_SMP_LOST_LO n) t.samples.length
  else
    for x in t.samples do
      let lat ← freeValue
      sampleFinish n x true lat
  modTile n (fun t => { t with samples := [] })

/-- Step 1 of R255 on a tile: it stops issuing, discards its queued work, stops its running work and leaves its on-die Clappers, whose
arrivals return to those at TAKE_BEGIN, or with no Take open to those without the Clapper it waits at; room tone starts (R528). The counts of its Take are discarded
(R87). A tile that neither issues nor has a Take open, because it is not running or its program has
ended, stays as it is but for its work. DESIGN CHOICE: a tile with no Take open has its armed transfers recorded here, to start again as it resumes. -/
def abortTile (n : Nat) : M Unit := do
  let t ← getTile n
  undefStopped n
  toneStart n
  modTile n (fun t => { t.stopAll with
    wait := .none, cueReached := false, health := []
    arrivals := (match t.take, t.wait with
      | some r, _ => r.arrivals
      | none, .clap c => t.arrivals.filter (fun k => decide (k ≠ c))
      | none, _ => t.arrivals) })
  setFld (Fl.TILE_ARR_STATUS_BUSY n) 0
  setFld (Fl.TILE_CHN_STATUS_BUSY n) 0
  setFld (Fl.TILE_DSP_STATUS_BUSY n) 0
  let go ← look (·.issues n)
  if go ∨ t.take.isSome then setFld (Fl.TILE_SEQ_STATUS_STATE n) seqAborting
  abortSamples n
  if t.take.isNone then reelTakeBegin n
  abandonTile n

/-- TAKE_ABORT: after a failure the Take controller aborts every tile of the group; a failure of Take 15 stops the job instead (R18, R255). -/
def execTakeAbort (tile : Nat) : Meaning := M.next (do
  let t ← getTile tile
  match t.failed with
  | none => pure ()
  | some f =>
    let st ← getFld (Fl.TILE_SEQ_STATUS_STATE tile)
    if st = seqAborting then pure ()
    else if slateTake f.slate = 15 then
      modTile tile (fun t => { t with failed := none })
      raiseStop Ev.takeLimit (srcTile tile) 0 f.slate
      stopJob Ev.takeLimit.code
    else
      let grp ← look (·.groupOf tile)
      for n in grp do abortTile n)

/-- Step 3 of R255 on a tile: its TAKE_BEGIN record restored, the RECV totals added back under R233, the Take's format-health counts discarded, and
the Take number raised. A tile with no Take open has no record: it goes on where it stopped. -/
def restoreTake (n take : Nat) : M Unit := do
  let t ← getTile n
  match t.take with
  | none =>
    toneEnd n
    modTile n (fun t => { t with failed := none })
    setFld (Fl.TILE_SEQ_STATUS_STATE n) seqIssuing
    reelTakeResume n
  | some r =>
    for c in List.range 8 do
      setEc n (8 + c) (r.ec.getD c 0)
      addEc n c (r.recv.getD c 0) r.slate
    setSlate n (mkSlate (slateStep r.slate) (slateMb r.slate) take (slatePhase r.slate) (slateStage r.slate))
    setFld (Fl.TILE_SEQ_PC_PC n) r.pc
    toneEnd n
    modTile n (fun t => { t with
      ix := r.ix, loops := r.loops, failed := none, health := [], take := some { r with recv := List.replicate 8 0 }, waited := 0 })
    setFld (Fl.TILE_SEQ_STATUS_STATE n) seqIssuing
    reelTakeResume n

/-- TAKE_REPLAY_RESUME: once no stand-in swap is outstanding, every aborted tile of the group restores its record, the group passes channel
15, and its tiles resume (R255, R256). -/
def execTakeReplayResume (tile : Nat) : Meaning := M.next (do
  let t ← getTile tile
  match t.failed with
  | none => pure ()
  | some f =>
    let grp ← look (·.groupOf tile)
    let swaps ← look (fun s => grp.any (fun n => (s.tile n).failed.any (·.swap)))
    let st ← getFld (Fl.TILE_SEQ_STATUS_STATE tile)
    if st = seqAborting ∧ !swaps then
      for n in grp do
        let x ← getFld (Fl.TILE_SEQ_STATUS_STATE n)
        if x = seqAborting then restoreTake n (slateTake f.slate + 1))

/-! Writes of the sequencer's registers. -/

/-- RUN set: the sequencer starts at address 0 with the state of R230. -/
def tileStart (n : Nat) : M Unit := do
  toneEnd n
  swapLeave n
  modTile n (fun t => { t with
    ix := List.replicate 16 0, loops := [], take := none, failed := none, rejects := [], health := [], wait := .none, cueReached := false
    waited := 0, arrivals := [], sendsOut := 0, wakeRun := false })
  act (.sends (fun p => if p.tile = some n then { p with tile := none } else p))
  for i in List.range 8 do setReg (Reg.TILE_SEQ_EC n i) 0
  setSlate n 0
  setFld (Fl.TILE_SEQ_PC_PC n) 0
  setFld (Fl.TILE_SEQ_STATUS_TAKE_OPEN n) 0
  setFld (Fl.TILE_SEQ_STATUS_STATE n) seqIssuing

/-- A tile begins to wake (R510). From OFF its scratchpad and its instruction memory are undefined until written; no line is poisoned. -/
def wakeTile (n : Nat) : M Unit := do
  let p ← look (·.physOf n)
  let st ← look (·.power p)
  if st = .off then
    act (.undef (physBase p) tileBytes)
    let ks ← look (fun s => (s.poison0.filter (fun e => decide (e.1 / 32768 = p))).map (·.1))
    for k in ks do act (.poison0 k false)
    modTile n (fun t => { t with im := [], wakes := t.wakes + 1 })
  if st = .off ∨ st = .retain then
    act (.phys p .waking)
    clkStart (p / 16)

/-- RUN set on a tile: it takes effect when the tile is ON (R510). -/
def tileRun (n : Nat) : M Unit := do
  let st ← look (fun s => s.power (s.physOf n))
  if st = .on then tileStart n
  else
    wakeTile n
    modTile n (fun t => { t with wakeRun := true })

/-- A write of TILE_SEQ_CTRL. RUN from 0 to 1 starts the program; to 0 stops issue and discards queued work (R261). -/
def tileCtrlWrite (master tile value : Nat) : M Unit := byMaster master (Reg.TILE_SEQ_CTRL tile) (do
  let was ← getFld (Fl.TILE_SEQ_CTRL_RUN tile)
  regWrite master (Reg.TILE_SEQ_CTRL tile) value
  let now ← getFld (Fl.TILE_SEQ_CTRL_RUN tile)
  if was = 0 ∧ now = 1 then tileRun tile
  if was = 1 ∧ now = 0 then
    setFld (Fl.TILE_SEQ_CTRL_RUN tile) 1
    tileStop tile)

/-- A write of TILE_SEQ_EC: two event counters are set; while a Take is open, so is the value that a replay restores (R265). -/
def tileEcWrite (master tile n value : Nat) : M Unit := byMaster master (Reg.TILE_SEQ_EC tile n) (do
  regWrite master (Reg.TILE_SEQ_EC tile n) value
  if 4 ≤ n then
    modTile tile (fun t => { t with take := t.take.map (fun r => { r with
      ec := modAt (modAt r.ec (2 * n - 8) (fun _ => value % 65536)) (2 * n - 7) (fun _ => value / 65536 % 65536) }) }))

/-- TILE_RUN_WRITE and TILE_SEQ_EC_WRITE. -/
def execTileRunWrite (master tile value : Nat) : Meaning := M.next (tileCtrlWrite master tile value)
def execTileSeqEcWrite (master tile n value : Nat) : Meaning := M.next (tileEcWrite master tile n value)

end Sys2Proof.Machine
end

