-- ==== Sys2Proof/Machine/MgrOps.lean ====
section
/-! DEFINITION. The manager logic (R343 to R353, R364 to R371): messages, the manager's state and its journal, the cross-module Clappers,
holds and restores. -/

namespace Sys2Proof.Machine

/-! Messages (R345). -/

/-- The 64 bytes of a message, and a message from 64 bytes. -/
def msgBytes (m : Msg) : List Byte :=
  leBytes 1 m.type ++ leBytes 1 m.epoch ++ leBytes 2 m.module ++ leBytes 4 m.seq ++ leBytes 8 m.slate ++
    (m.arg ++ List.replicate 48 0).take 48
def msgDecode (b : List Byte) : Msg := ⟨leAt b 0 1, leAt b 1 1, leAt b 2 2, leAt b 4 4, slateRead (leAt b 8 8), (b.drop 16).take 48⟩

/-- The system's size, and whether this module is the manager. -/
def State.modules (s : State) : Nat := (s.job.map (·.modules)).getD 1
def State.isManager (s : State) : Bool := decide (s.coll.manager = s.me)

/-- The next message count toward a module. -/
def nextSeq (dest : Nat) : M Nat := do
  let n ← look (fun s => ((s.coll.seq.find? (fun e => decide (e.1 = dest))).map (·.2)).getD 0)
  act (.coll (fun c => { c with seq := (dest, (n + 1) % 2 ^ 32) :: c.seq.filter (fun e => decide (e.1 ≠ dest)) }))
  pure n

/-- Send a message to another module; without an ACTIVE management context it is discarded and counted (R423, R450). -/
def sendMsg (dest type slate : Nat) (arg : List Byte) : M Unit := do
  let fl ← getFlow (4032 + dest)
  if fl.state ≠ 1 then bump (Reg.NRT_COUNT_LO 13) 1
  else
    let n ← nextSeq dest
    let me ← look (·.me)
    let epoch ← getFld Fl.COLL_STATUS_EPOCH
    nrtEnqueue (4032 + dest) opMgmt 0 0 (msgBytes ⟨type, epoch, me, n, slate, arg⟩) slate none 0

/-- Send to every other module. -/
def sendAll (type slate : Nat) (arg : List Byte) : M Unit := do
  let me ← look (·.me)
  let n ← look (·.modules)
  for d in (List.range n).filter (fun d => decide (d ≠ me)) do sendMsg d type slate arg

/-- May a HEARTBEAT to a module go by a port (R364): any fabric port; port 8 between the manager and the standby while they are twins? -/
def State.heartbeatPort (s : State) (dest port : Nat) : Bool :=
  decide (port ≠ 8) || (decide (dest = s.me ^^^ 1) &&
    (decide (s.coll.manager = s.me ∧ s.coll.standby = some dest) || decide (s.coll.manager = dest ∧ s.coll.standby = some s.me)))

/-- A HEARTBEAT goes out with DGRAM on every usable path of the management flow that is for it (R364, R432). -/
def sendHeartbeat (dest : Nat) : M Unit := do
  let f := 4032 + dest
  let fl ← getFlow f
  let run ← getFld Fl.NRT_CTRL_RUN
  if run = 0 then pure ()
  else if fl.state ≠ 1 then bump (Reg.NRT_COUNT_LO 13) 1
  else
    let n ← nextSeq dest
    let me ← look (·.me)
    let epoch ← getFld Fl.COLL_STATUS_EPOCH
    let b := msgBytes ⟨3, epoch, me, n, 0, []⟩
    let ps ← look (fun s => (fl.paths.zipIdx.filter (fun x => s.pathUsable x.1 false && s.heartbeatPort dest x.1.port)).map (·.2))
    for i in ps do packetOut f i { fl.packet f opMgmt with dgram := true, length := 64, payload := b }

/-! The manager's state. -/

/-- What a change records (R365). -/
def Change.record (c : Change) (m : Mgr) : Mgr :=
  match c with
  | .stepOpened _ g st => { m with opened := some st, released := (7, g) :: m.released.filter (fun e => decide (e.1 ≠ 7)) }
  | .released c g => { m with released := (c, g) :: m.released.filter (fun e => decide (e.1 ≠ c)) }
  | .updSent t => { m with updSent := m.updSent ++ [t] }
  | .reportDrained md st => { m with drained := m.drained ++ [(md, st)] }
  | .reportUpdDone md t => { m with updDone := m.updDone ++ [(md, t)] }
  | .arrived md c g => { m with arrivals := m.arrivals ++ [(md, c, g)] }
  | .joined j => { m with joins := m.joins ++ [j] }
  | .admitted s0 => { m with admitted := true, s0 := s0, opened := none, updSent := [], drained := [], updDone := [], arrivals := []
                             released := [], held := false, restore := none, restored := [], lost := [] }
  | .hold l => { m with held := true, lost := if m.lost.contains l then m.lost else m.lost ++ [l] }
  | .restore r => { m with restore := some r, restored := [] }
  | .restored md _ => { m with restored := if m.restored.contains md then m.restored else m.restored ++ [md] }

/-- A change as a JOURNAL argument. The spec gives no layout for it: byte 0 bit 0 is FULL, byte 1 the kind, then 32-bit fields. -/
def Change.fields : Change → Nat × List Nat
  | .stepOpened c g st => (0, [c, g, st])
  | .released c g => (1, [c, g])
  | .updSent t => (2, [t])
  | .reportDrained m st => (3, [m, st])
  | .reportUpdDone m t => (4, [m, t])
  | .arrived m c g => (5, [m, c, g])
  | .joined j => (6, [j.module, j.jobId % 2 ^ 32, j.jobId / 2 ^ 32, j.digest, j.pair, if j.rejoin then 1 else 0])
  | .admitted s0 => (7, [s0])
  | .hold l => (8, [l])
  | .restore r => (9, [r])
  | .restored m r => (10, [m, r])
def Change.bytes (c : Change) (full : Bool) : List Byte :=
  leBytes 1 (if full then 1 else 0) ++ leBytes 1 c.fields.1 ++ leBytes 2 0 ++ c.fields.2.flatMap (leBytes 4)
def Change.decode (b : List Byte) : Option Change :=
  let w := fun (i : Nat) => leAt b (4 + 4 * i) 4
  match leAt b 1 1 with
  | 0 => some (.stepOpened (w 0) (w 1) (w 2))
  | 1 => some (.released (w 0) (w 1))
  | 2 => some (.updSent (w 0))
  | 3 => some (.reportDrained (w 0) (w 1))
  | 4 => some (.reportUpdDone (w 0) (w 1))
  | 5 => some (.arrived (w 0) (w 1) (w 2))
  | 6 => some (.joined ⟨w 0, w 1 + w 2 * 2 ^ 32, w 3, w 4, decide (w 5 = 1)⟩)
  | 7 => some (.admitted (w 0))
  | 8 => some (.hold (w 0))
  | 9 => some (.restore (w 0))
  | 10 => some (.restored (w 0) (w 1))
  | _ => none

/-- The whole manager state as changes (R367): the admission, the reports and arrivals, then what was opened, released, sent, held. -/
def Mgr.dump (m : Mgr) : List Change :=
  (if m.admitted then [.admitted m.s0] else []) ++ m.joins.map .joined ++ m.drained.map (fun e => .reportDrained e.1 e.2) ++
    m.updDone.map (fun e => .reportUpdDone e.1 e.2) ++ m.arrivals.map (fun e => .arrived e.1 e.2.1 e.2.2) ++ m.updSent.map .updSent ++
    m.released.map (fun e => if e.1 = 7 then .stepOpened 7 e.2 (m.opened.getD 0) else .released e.1 e.2) ++ m.lost.map .hold ++
    (match m.restore with
      | some r => [.restore r]
      | none => []) ++ m.restored.map (fun x => .restored x (m.restore.getD 0))

/-- Record a change of the manager's state. -/
def mgrRecord (c : Change) : M Unit := act (.coll (fun x => { x with mgr := c.record x.mgr }))

/-! What a module does on the manager's word. -/

/-- A release of a generation of a cross-module channel reaches the hub (R351, R368): one already released is ignored; channel 7 sets COLL_STEP
before the tiles go on. -/
def hubRelease (c g step : Nat) : M Unit := do
  let next ← look (fun s => ((s.coll.gens.find? (fun e => decide (e.1 = c))).map (·.2)).getD 0)
  if next ≤ g then
    act (.coll (fun x => { x with
      gens := (c, g + 1) :: x.gens.filter (fun e => decide (e.1 ≠ c)), arrived := x.arrived.filter (fun e => decide (e.1 ≠ c)) }))
    if c = 7 then
      setReg Reg.COLL_STEP (BitVec.ofNat 32 step)
      powerStep
    let ts ← look (·.crossTiles c)
    for n in ts do clapReleaseTile n (16 + c)
    if c = 7 ∧ step = 2 ^ 32 - 1 then stepLimit (srcUnit mColl) 0

/-- HOLD on this module (R369): every open Take aborted with no replay, the tiles' RUN cleared, the die's queue dropped. -/
def holdHere (lost : Nat) : M Unit := do
  for n in List.range 180 do
    let t ← getTile n
    if t.take.isSome then
      abortTile n
      modTile n (fun t => { t with take := none, failed := none })
      setFld (Fl.TILE_SEQ_STATUS_TAKE_OPEN n) 0
    let run ← getFld (Fl.TILE_SEQ_CTRL_RUN n)
    if run = 1 then
      setFld (Fl.TILE_SEQ_STATUS_STATE n) seqIssuing
      tileStop n
  updDrop
  setBit Fl.COLL_STATUS_HELD
  setBit Fl.COLL_STATUS_LOST
  let me ← look (·.me)
  if lost = me ^^^ 1 then
    act (.coll (fun x => { x with twinLost := true }))
    mirrorLost

/-- JOIN_ACK on this module: the starting step is set, generations start anew, and stage firmware sets RUN on every used tile (R259, R346,
R351). -/
def joinAckHere : M Unit := do
  act (.coll (fun x => { x with gens := [], arrived := [], drainedSent := [], updDoneSent := [], twinLost := false }))
  setFld Fl.COLL_STATUS_HELD 0
  let j ← look (·.runJob)
  match j with
  | none => pure ()
  | some j =>
    act (.job (Option.map (fun j => { j with started := true })))
    for n in List.range j.tiles do
      let run ← getFld (Fl.TILE_SEQ_CTRL_RUN n)
      if run = 0 then
        setFld (Fl.TILE_SEQ_CTRL_RUN n) 1
        tileRun n
    startFinish 0

/-- The command of R312 for step s, for all of a module's groups. -/
def updCmdBytes (t : Nat) : List Byte :=
  leBytes 8 (updSlate (t - 1)) ++ leBytes 4 t ++ leBytes 2 0 ++ leBytes 2 0xFFFF ++ List.replicate 16 0

/-- What the manager does once a change stands (R352, R367, R369, R370). -/
def mgrAct (c : Change) : M Unit := do
  mgrRecord c
  match c with
  | .stepOpened ch g st =>
    sendAll 8 0 (leBytes 4 ch ++ leBytes 4 g ++ leBytes 4 st)
    hubRelease ch g st
  | .released ch g =>
    let ms ← look (fun s => ((s.job.bind (fun j => j.clap.modules[ch]?)).getD []).filter (fun m => decide (m ≠ s.me)))
    for m in ms do sendMsg m 8 0 (leBytes 4 ch ++ leBytes 4 g ++ leBytes 4 0)
    hubRelease ch g 0
  | .updSent t =>
    sendAll 5 (updSlate (t - 1)) (updCmdBytes t)
    updEnqueue (UpdCmd.decode (updCmdBytes t))
    updComplete
  | .admitted s0 =>
    let n ← look (·.modules)
    sendAll 2 0 (leBytes 4 s0 ++ leBytes 2 n)
    joinAckHere
  | .hold l =>
    sendAll 0xC 0 (leBytes 2 l)
    holdHere l
  | .restore r =>
    sendAll 0xD 0 (leBytes 4 r)
    act (.coll (fun x => { x with ownRestore := some r }))
  | .restored _ _ =>
    let all ← look (fun s => (List.range s.modules).all (fun m => s.coll.mgr.restored.contains m))
    if all then setFld Fl.COLL_STATUS_RESTORED 1
  | .reportDrained _ _ => pure ()
  | .reportUpdDone _ _ => pure ()
  | .arrived _ _ _ => pure ()
  | .joined _ => pure ()

/-- A change of the manager's state: sent to the standby first, and acted on when it is acknowledged; with no standby acted on at once
(R365, R367). -/
def mgrChange (c : Change) : M Unit := do
  let m ← look (·.coll.mgr)
  match m.standby with
  | none => mgrAct c
  | some d =>
    let n ← look (fun s => ((s.coll.seq.find? (fun e => decide (e.1 = d))).map (·.2)).getD 0)
    act (.coll (fun x => { x with journal := x.journal ++ [(n, c)] }))
    sendMsg d 9 0 (c.bytes false)

/-- Every module has reported for a step or a t. -/
def State.allDrained (s : State) (st : Nat) : Bool := (List.range s.modules).all (fun m => s.coll.mgr.drained.contains (m, st))
def State.allUpdDone (s : State) (t : Nat) : Bool :=
  decide (t ≤ s.coll.mgr.s0) || (List.range s.modules).all (fun m => s.coll.mgr.updDone.contains (m, t))

/-- Does the job run the overlap schedule? -/
def State.overlap (s : State) : Bool := (s.job.map (·.overlap)).getD false

/-- The next generation of a channel that the manager has not released, and the channel's modules. -/
def Mgr.nextGen (m : Mgr) (c : Nat) : Nat := ((m.released.find? (fun e => decide (e.1 = c))).map (fun e => e.2 + 1)).getD 0
def State.chanModules (s : State) (c : Nat) : List Nat := (s.job.bind (fun j => j.clap.modules[c]?)).getD []

/-- Is a CLAP_RELEASE that this module has sent still unacknowledged? -/
def State.releaseOut (s : State) : Bool :=
  s.nrt.flows.any (fun f => decide (4032 ≤ f.1) && f.2.tx.any (fun x => decide (x.pkt.op = opMgmt ∧ leAt x.pkt.payload 0 1 = 8)))

/-- Does a cross-module Clapper channel in which the module takes part hold an arrival not yet released, or has it a release in transit (R398)? A module knows of
its own arrivals, and the manager of every module's and of the releases it sends. -/
def State.crossPending (s : State) : Bool :=
  !s.coll.arrived.isEmpty || s.tiles.any (fun t => t.2.arrivals.any (fun c => decide (16 ≤ c))) ||
    s.releaseOut || (s.isManager && s.coll.mgr.arrivals.any (fun a => decide (s.coll.mgr.nextGen a.2.1 ≤ a.2.2) && (s.chanModules a.2.1).contains s.me))

/-- While one does, every fabric port stays awake: one in low-power idle wakes. -/
def stayAwake : M Unit := do
  let cross ← look (·.crossPending)
  if cross then
    for n in List.range 8 do
      let lpi ← getFld (Fl.MAC_STATUS_LPI_TX n)
      if lpi = 1 then
        setFld (Fl.MAC_STATUS_LPI_TX n) 0
        portRelease n

/-- The next change that the manager has cause for (R249, R352, R368), among those not yet journaled. While training is held no step opens and no update
goes out, but any other generation with all its arrivals is released. No step beyond 0xFFFF_FFFF is issued (R19). -/
def State.nextChange (s : State) : Option Change :=
  let m := s.coll.mgr
  let waiting := fun (c : Change) => s.coll.journal.any (fun e => decide (e.2 = c))
  if !m.admitted then none
  else
    let upd := match m.opened with
      | none => []
      | some o => if m.held then [] else ([o - 1, o].filter (fun st => decide (m.s0 ≤ st) && !m.updSent.contains (st + 1) &&
          (if s.overlap then s.allUpdDone st else s.allDrained st))).map (fun st => Change.updSent (st + 1))
    let rel := (List.range 8).filterMap (fun c =>
      let g := m.nextGen c
      let ms := s.chanModules c
      if ms.isEmpty || (m.held && decide (c = 7)) || !ms.all (fun x => m.arrivals.contains (x, c, g)) then none
      else if c = 7 then
        let st := (m.opened.map (· + 1)).getD m.s0
        if st < 2 ^ 32 ∧ (m.opened.isNone || (if s.overlap then s.allUpdDone (st - 1) else s.allUpdDone st)) then some (Change.stepOpened 7 g st) else none
      else some (Change.released c g))
    (upd ++ rel).find? (fun c => !waiting c)

/-- The manager acts as long as it has cause. -/
def mgrRun : Nat → M Unit
  | 0 => pure ()
  | k + 1 => do
    let go ← look (·.isManager)
    let c ← look (·.nextChange)
    match c with
    | some c =>
      if go then
        mgrChange c
        mgrRun k
    | none => pure ()

/-- A report reaches the manager: one already known is ignored (R353). -/
def mgrReport (c : Change) : M Unit := do
  let known ← look (fun s => match c with
    | .reportDrained m st => s.coll.mgr.drained.contains (m, st)
    | .reportUpdDone m t => s.coll.mgr.updDone.contains (m, t)
    | .restored m _ => s.coll.mgr.restored.contains m
    | _ => false)
  let waiting ← look (fun s => s.coll.journal.any (fun e => decide (e.2 = c)))
  if !known ∧ !waiting then mgrChange c
  mgrRun 64

/-- A module's arrival at a channel reaches the manager. -/
def mgrArrive (m c g : Nat) : M Unit := do
  let known ← look (fun s => s.coll.mgr.arrivals.contains (m, c, g))
  if !known then mgrRecord (.arrived m c g)
  stayAwake
  mgrRun 64

/-! Cross-module Clappers. -/

/-- The hub arrives for the module once every local participant has arrived and no planned swap withholds it (R249, R592). -/
def hubArrive (c : Nat) : M Unit := do
  let ts ← look (·.crossTiles c)
  let all ← look (fun s => ts.all (fun n => (s.tile n).arrivals.contains (16 + c)))
  let armed ← look (fun s => ts.any (fun n => s.hub.swapping.contains n))
  let g ← look (fun s => ((s.coll.gens.find? (fun e => decide (e.1 = c))).map (·.2)).getD 0)
  let was ← look (fun s => s.coll.arrived.contains (c, g))
  if all ∧ !armed ∧ !was then
    act (.coll (fun x => { x with arrived := x.arrived ++ [(c, g)] }))
    pmuHub 0x16 1 none none none none
    let me ← look (·.me)
    let mgr ← look (·.coll.manager)
    if mgr = me then mgrArrive me c g else sendMsg mgr 7 0 (leBytes 4 c ++ leBytes 4 g)

/-- CLAPX arrives and waits; with a Take open, or on a channel without this tile, it is a program fault (R240, R247, R249). -/
def execClapx (tile : Nat) : Meaning := M.next (withUop tile 6 5 fun w => do
  let c := bitsOf w 2 0
  let ts ← look (·.crossTiles c)
  let t ← getTile tile
  if t.take.isSome ∨ !ts.contains tile then programFault tile
  else if t.arrivals.contains (16 + c) then clapWaitAt tile (.clapx (16 + c)) true
  else
    clapWaitAt tile (.clapx (16 + c)) true
    modTile tile (fun t => { t with arrivals := t.arrivals ++ [16 + c] })
    stayAwake
    let armed ← look (fun s => s.hub.swapArmed.contains tile)
    if armed then
      act (.hub (fun h => { h with swapping := h.swapping.filter (fun x => decide (x ≠ tile)) ++ [tile] }))
      swapSync
    hubArrive c)

/-! Holds and restores. -/

/-- The PAIR tag: the CRC-32C of the two MAC addresses of the port 8 link, smaller first (R345). -/
def pairTag (a b : Nat) : Nat := crc32c (leBytes 6 (min a b) ++ leBytes 6 (max a b))
def State.portMac (s : State) (n : Nat) : Nat := (s.reg (Reg.MAC_ADDR_LO n)).toNat + s.fld (Fl.MAC_ADDR_HI_ADDR n) * 2 ^ 32
def State.myPair (s : State) : Nat := pairTag (s.portMac 8) (((s.port 8).partner.map (·.mac)).getD 0)

/-- Has the module a twin port (R34)? Without one it forms no PAIR tag. -/
def State.hasTwin (s : State) : Bool := decide (s.fld (Fl.IDENT_CAGE_MODE 4) ≠ 0)

/-- The first 4 bytes of the mapping shape's digest. -/
def State.digest4 (s : State) : Nat := (s.job.map (fun j => leAt j.shape 0 4)).getD 0

/-- This module's JOIN. -/
def State.myJoin (s : State) (rejoin : Bool) : JoinRec :=
  ⟨s.me, (s.job.map (·.jobId)).getD 0 % 256, s.digest4, if 1 < s.modules ∧ s.hasTwin then s.myPair else 0, rejoin⟩

/-- A standby that has the whole state is named to every module, and journaling begins (R367). -/
def nameStandby (d : Nat) : M Unit := do
  act (.coll (fun x => { x with fullTo := none, standby := some d, mgr := { x.mgr with standby := some d } }))
  let e ← getFld Fl.COLL_STATUS_EPOCH
  sendAll 0xB 0 (leBytes 1 e ++ [0] ++ leBytes 2 d)

/-- A new standby is appointed (R367): the lowest module that is neither this one nor lost gets the whole state first. -/
def appointStandby : M Unit := do
  let d ← look (fun s => (List.range s.modules).find? (fun m => decide (m ≠ s.me) && !s.coll.mgr.lost.contains m))
  act (.coll (fun x => { x with mgr := { x.mgr with standby := none }, standby := none, journal := [], fullTo := d, fullLeft := [] }))
  match d with
  | none => pure ()
  | some d =>
    let parts ← look (fun s => s.coll.mgr.dump)
    if parts.isEmpty then nameStandby d
    for c in parts do
      let n ← look (fun s => ((s.coll.seq.find? (fun e => decide (e.1 = d))).map (·.2)).getD 0)
      act (.coll (fun x => { x with fullLeft := x.fullLeft ++ [n] }))
      sendMsg d 9 0 (c.bytes true)

/-- Changes that wait for the acknowledgement of a lost standby are acted on (R365). -/
def mgrFlush : M Unit := do
  let l ← look (·.coll.journal)
  act (.coll (fun x => { x with journal := [], mgr := { x.mgr with standby := none } }))
  for e in l do mgrAct e.2

/-! What a restore does on a module (R370, R371). -/

/-- The rows of a group re-encoded from a master into the place of a version, and into the replicas, with the Slate of the UPD command that wrote it. -/
def rebuild (g : Group) (v : Nat) (p : List W32) : M Unit := do
  let seed ← look (·.jobSeed)
  let o ← look (·.objAt g.obj)
  let rows := (List.range g.rows).map (fun k => encodeRow g.conv seed (updSlate (v - 1)) (g.row0 + k) ((p.drop (k * g.cols)).take g.cols))
  let ps := o.pieces g.row0 g.rows
  writeCopy g v (updSlate (v - 1)) [((ps.getD 0 (0, 0)).1, rows.flatMap (·.1)), ((ps.getD 1 (0, 0)).1, rows.flatMap (·.2.1))] true

/-- A twin's part: the mirror copies of a step go to their owner. -/
def mirrorBack (v : Nat) : M Unit := do
  let mirrors ← look (·.upd.mirrors)
  for m in mirrors.zipIdx do
    if (if v % 2 = 0 then m.1.held0 else m.1.held1) = some v then
      let a := if v % 2 = 0 then m.1.ma0 else m.1.ma1
      let k := tensorBytes m.1.rows m.1.cols
      let p ← look (·.tensor a m.1.rows m.1.cols)
      let s1 ← look (·.tensor (a + k) m.1.rows m.1.cols)
      let s2 ← look (fun s => if m.1.s2En then s.tensor (a + 2 * k) m.1.rows m.1.cols else [])
      let w := if v % 2 = 0 then m.1.powers0 else m.1.powers1
      mirrorOut (fun k tag => .mirror k tag m.2 (v % 2) p s1 s2 v w.1 w.2)

/-- The copies of step r that the twin has sent are taken by their groups. -/
def restoreCopies (r : Nat) (copies : List RestoreCopy) : M Unit := do
  act (.coll (fun c => { c with copies := c.copies ++ copies }))
  for c in copies.filter (fun c => decide (c.step = r)) do
    let g ← look (·.group c.group)
    tensorWrite g.pAddr g.rows g.cols c.p
    tensorWrite g.s1Addr g.rows g.cols c.s1
    if g.s2En then tensorWrite g.s2Addr g.rows g.cols c.s2
    modGroup c.group (fun g => { g with step := r, bp1 := c.bp1, bp2 := c.bp2 })

/-- Does every group of the module stand at step r? On a module that has joined again each must have been sent by the twin, whatever STEP its image gave it. With
r = 0 the runtime loads the job's initial weights. -/
def State.restoreReady (s : State) (r : Nat) : Bool :=
  decide (r = 0) || s.upd.groups.zipIdx.all (fun g => decide (g.1.step = r) &&
    (!s.coll.rejoin || s.coll.copies.any (fun c => decide (c.group = g.2 ∧ c.step = r))))

/-- The groups that write a weight copy, each with the copy of step r − 1 that the twin has sent. -/
def State.olderCopies (s : State) (r : Nat) : List (Group × Option RestoreCopy) :=
  (s.upd.groups.zipIdx.filter (fun g => decide (g.1.obj ≠ 0xFFFF))).map (fun g =>
    (g.1, s.coll.copies.find? (fun c => decide (c.group = g.2 ∧ c.step + 1 = r))))

/-- May the module's part be finished: its groups stand at step r, and under overlap the copies of step r − 1 have come, or none can come any more (`told`: the
twin has sent what it has; or the twin is the lost module)? -/
def State.restoreDue (s : State) (r : Nat) (told : Bool) : Bool :=
  s.restoreReady r && (!s.overlap || decide (r = 0) || (s.olderCopies r).all (·.2.isSome) || told || s.coll.twinLost)

/-- An owner's part once its groups stand at step r: the copies of version r are re-encoded from the masters, and under overlap those of version r − 1 where the
twin has sent every group's copy of that step. VER is set on the places of every object. Without version r − 1, step r reads version r and leaves the
reproducibility statement, on the manager with EV_RESTORE_INEXACT (R371, R374, R377). -/
def restoreHere (r : Nat) : M Unit := do
  let lap ← look (·.overlap)
  let older ← look (·.olderCopies r)
  let known ← look (fun s => decide (s.coll.restartReads = some r))
  let both := lap && decide (r ≠ 0) && older.all (·.2.isSome) && !known
  if r = 0 then
    act (.upd (fun u => { u with groups := u.groups.map (fun g => { g with step := 0, bp1 := 0x3F800000, bp2 := 0x3F800000 }) }))
  else
    for g in older do
      let p ← look (·.tensor g.1.pAddr g.1.rows g.1.cols)
      rebuild g.1 r p
  if both then
    for g in older do
      match g.2 with
      | some c => rebuild g.1 (r - 1) c.p
      | none => pure ()
  let objs ← look (fun s => (s.reel.objects.zipIdx.filter (fun e => e.1.versioned)).map (·.2))
  for o in objs do
    setVer o (1 - r % 2) (if both then r - 1 else noVer)
    setVer o (r % 2) r
  let own := lap && decide (r ≠ 0) && !both
  act (.coll (fun c => { c with restoring := none, copies := [], restartReads := if own then some r else none }))
  if own then
    setBit Fl.COLL_STATUS_INEXACT
    let mgr ← look (·.isManager)
    if mgr && !known then raise Ev.restoreInexact (srcUnit mColl) 0 (mkSlate r 0 0 0 0)

/-- The module's part is finished when it may be, and reported (R370). -/
def restoreTry (told : Bool) : M Unit := do
  let d ← look (·.coll.restoring)
  match d with
  | none => pure ()
  | some r =>
    let due ← look (·.restoreDue r told)
    if due then
      restoreHere r
      let me ← look (·.me)
      let mgr ← look (·.coll.manager)
      if mgr = me then mgrReport (.restored me r) else sendMsg mgr 0xE 0 (leBytes 4 r)

/-- A module's part of a restore begins (R370): its collective sums and update reports start anew, and its mirror copies go to their owner. -/
def restoreBegin (r : Nat) : M Unit := do
  act (.coll (fun c => { c with runs := [], chunks := [], later := [], gradHeld := [], restoring := some r, copies := [] }))
  act (.upd (fun u => { u with present := [], closed := none, buckets := [], localCommits := [] }))
  act (.reel (fun r => { r with commits := [] }))
  let lap ← look (·.overlap)
  mirrorBack r
  if lap ∧ r ≠ 0 then mirrorBack (r - 1)

/-- The part of a restore on the manager's own module, once the restore has begun. -/
def mgrOwn : M Unit := do
  let d ← look (·.coll.ownRestore)
  match d with
  | none => pure ()
  | some r =>
    act (.coll (fun c => { c with ownRestore := none }))
    restoreBegin r
    restoreTry false

/-- The manager finds a module lost (R369). -/
def moduleLost (l : Nat) : M Unit := do
  let standby ← look (fun s => decide (s.coll.mgr.standby = some l ∨ s.coll.fullTo = some l))
  raise Ev.moduleLost (srcUnit mColl) l 0
  act (.coll (fun x => { x with mgr := { x.mgr with lost := if x.mgr.lost.contains l then x.mgr.lost else x.mgr.lost ++ [l] } }))
  if standby then mgrFlush
  mgrChange (.hold l)
  if standby then appointStandby
  mgrRun 64
  mgrOwn

/-- The standby becomes the manager (R366); the arrivals of its own hub that are not yet released are present to it (R368). -/
def failover : M Unit := do
  let old ← look (·.coll.manager)
  let me ← look (·.me)
  let e ← getFld Fl.COLL_STATUS_EPOCH
  setFld Fl.COLL_STATUS_EPOCH (e + 1)
  act (.coll (fun x => { x with
    manager := me, journal := [], standby := none
    mgr := { x.mgr with
      standby := none
      arrivals := x.mgr.arrivals ++ (x.arrived.map (fun e => (me, e.1, e.2))).filter (fun e => !x.mgr.arrivals.contains e) } }))
  setFld Fl.COLL_STATUS_ROLE 1
  setBit Fl.COLL_STATUS_FAILOVER
  sendAll 0xB 0 (leBytes 1 (e + 1) ++ [0] ++ leBytes 2 0xFFFF)
  raise Ev.managerFailover (srcUnit mColl) 0 0
  moduleLost old
  appointStandby

/-- The step that a restore restarts at, whether it is possible, and whether it is exact (R370, R371). -/
structure Restart where
  step : Nat
  possible : Bool
  exact : Bool
deriving DecidableEq, Repr

/-- What the manager finds. It knows its own groups and mirrors. The groups of the lost module, and beyond two modules the steps and mirrors of others, come to it by
no message of the spec: the lowest step among them, whether every group that must be restored has a mirror, whether theirs make the restore possible, and
whether every copy of step r − 1 that another module holds is there, are free values. A group of its own has no copy of step r − 1 left where its twin is the lost
module, where it has no mirror, or where it has gone a step further, whose copy has taken the place. With r = 0 the runtime loads the initial weights. -/
def State.restart (s : State) (lost others : Nat) (mirrored possible exact : Bool) : Restart :=
  let more := decide (2 < s.modules)
  let own := s.upd.groups.map (·.step)
  let twin := decide (lost = s.me ^^^ 1)
  let mirror := if twin then s.upd.mirrors.map (fun m => m.committed.getD m.step0) else []
  let r := match own ++ mirror ++ (if more then [others] else []) with
    | [] => 0
    | h :: t => t.foldl min h
  let held := fun (m : MirrorRow) (v : Nat) => (if v % 2 = 0 then m.held0 else m.held1) = some v
  { step := r
    possible := decide (r = 0) || (s.upd.groups.all (fun g => decide (g.step ≤ r) || (g.mirrorEn && !twin)) && mirrored &&
      (!twin || s.upd.mirrors.all (fun m => decide (held m r))) && (!more || possible))
    exact := !s.overlap || decide (r = 0) || (s.upd.mirrors.all (fun m => decide (held m (r - 1))) &&
      s.upd.groups.all (fun g => decide (g.obj = 0xFFFF) || (g.mirrorEn && !twin && decide (g.step = r))) && exact) }

/-- A lost module joins again: the manager computes r and orders the restore (R370, R371). -/
def orderRestore (lost : Nat) : M Unit := do
  let others ← freeValue
  let may ← freeValue
  let r ← look (·.restart lost (others % 2 ^ 32) (bitOf may 2) (bitOf may 0) (bitOf may 1))
  if !r.possible then raise Ev.restoreImpossible (srcUnit mColl) 0 0
  else
    act (.coll (fun c => { c with restartReads := if r.exact then none else some r.step }))
    if !r.exact then
      setBit Fl.COLL_STATUS_INEXACT
      raise Ev.restoreInexact (srcUnit mColl) 0 (mkSlate r.step 0 0 0 0)
    setFld Fl.COLL_STATUS_RESTORED 0
    mgrChange (.restore r.step)
    mgrOwn

end Sys2Proof.Machine
end

