-- ==== Sys2Proof/Machine/MgrCmds.lean ====
section
/-! DEFINITION. The messages of R345 as they reach a module, the reports and timers of the manager logic (R346 to R371), and the writes of the
collective engine's registers. -/

namespace Sys2Proof.Machine

/-- Is the Slate of a message, or that of the command in a UPD_CMD, of a reserved phase (R16)? -/
def msgBadPhase (m : Msg) : Bool := decide (4 < slatePhase m.slate) || (decide (m.type = 5) && decide (4 < slatePhase (leAt m.arg 0 8)))

/-- A message reaches the engine while it takes part (R376): one of a reserved phase is dropped and counted as R387 counts a malformed packet, DEDUCED, at
the port of the first path from its sender (R16); one of a lower EPOCH is ignored and counted (R366), but a JOIN, whose sender may
know no EPOCH yet; any other one is heard (R364). -/
def withMsg (m : Msg) (k : M Unit) : M Unit := do
  let on ← getFld Fl.COLL_CTRL_RUN
  if msgBadPhase m then
    let fl ← getFlow (4032 + m.module)
    match fl.paths with
    | p :: _ => if p.port ≤ 8 then bump (Reg.MAC_DROP_LO p.port 9) 1
    | [] => pure ()
  else if on = 1 then
    let e ← getFld Fl.COLL_STATUS_EPOCH
    if m.epoch < e ∧ m.type ≠ 1 then bump (Reg.COLL_COUNT_LO 5) 1
    else
      let now ← look (·.time)
      act (.coll (fun x => { x with heard := (m.module, now) :: x.heard.filter (fun h => decide (h.1 ≠ m.module)) }))
      k

/-- Only the manager acts on it. -/
def asManager (k : M Unit) : M Unit := do
  let go ← look (·.isManager)
  if go then k

/-- The JOIN that a message carries. -/
def joinOf (m : Msg) : JoinRec := ⟨m.module, leAt m.arg 0 1, leAt m.arg 4 4, leAt m.arg 8 4, decide (leAt m.arg 12 1 = 1)⟩

/-- Does a JOIN fit the manager's job and the JOINs before it (R346)? -/
def State.joinFits (s : State) (j : JoinRec) : Bool :=
  decide (j.jobId = (s.job.map (·.jobId)).getD 0 % 256 ∧ j.digest = s.digest4 ∧ j.module < s.modules) &&
    !s.coll.mgr.joins.any (fun x => decide (x.module = j.module)) &&
    !s.coll.mgr.joins.any (fun x => decide (x.module = j.module ^^^ 1 ∧ x.pair ≠ j.pair))

/-- The system refuses the job (R346, R465): START_JOB completes so, and the job that it had started stops (R587). -/
def refuseStart : M Unit := do
  startFinish 7
  stopJob Ev.joinMismatch.code
  reelStop
  updStop
  collStop

/-- A JOIN is recorded; the job is admitted once all modules have joined and fit; a module lost before joins again (R346, R370). A mismatch refuses the job
on every module. DESIGN CHOICE: the manager tells the others by a JOIN_ACK whose MODULES is 0. -/
def joinHere (j : JoinRec) : M Unit := do
  let m ← look (·.coll.mgr)
  if j.rejoin then
    if m.lost.contains j.module then orderRestore j.module
  else if m.admitted then pure ()
  else
    let fits ← look (·.joinFits j)
    if !fits then
      raise Ev.joinMismatch (srcUnit mColl) 0 0
      sendAll 2 0 (leBytes 6 0)
      refuseStart
      act (.coll (fun x => { x with mgr := { x.mgr with joins := [] } }))
    else
      mgrRecord (.joined j)
      let all ← look (fun s => decide (s.modules ≤ s.coll.mgr.joins.length))
      if all then
        mgrAct (.admitted 0)
        mgrRun 64

/-- JOIN: the manager receives a JOIN (R346). -/
def onJoin (msg : Msg) : M Unit := withMsg msg (asManager (joinHere (joinOf msg)))
def execJoin (msg : Msg) : Meaning := M.next (onJoin msg)

/-- JOIN_TIMEOUT: JOINs incomplete 10 s after the manager's own; it goes on waiting (R346). -/
def execJoinTimeout : Meaning := M.next (asManager (do
  let m ← look (·.coll.mgr)
  let j ← look (·.job)
  if !m.admitted && !m.joins.isEmpty && j.isSome then raise Ev.joinTimeout (srcUnit mColl) 0 0))

/-- JOIN_ACK: the starting step; stage firmware starts the tiles (R259, R346). Every module notes the admission with s0, so the standby knows of it, and that no
module is lost any more (R367, R368). One that names another number of modules refuses the job here, unless its tiles have been set running: the system has then
admitted it. -/
def onJoinAck (msg : Msg) : M Unit := withMsg msg (do
  let n ← look (·.modules)
  let on ← look (fun s => s.job.any (·.started))
  if leAt msg.arg 4 2 = n then
    setFld Fl.COLL_STATUS_EPOCH msg.epoch
    act (.coll (fun x => { x with manager := msg.module }))
    mgrRecord (.admitted (leAt msg.arg 0 4))
    joinAckHere
  else if !on then
    raise Ev.joinMismatch (srcUnit mColl) 0 0
    refuseStart)
def execJoinAck (msg : Msg) : Meaning := M.next (onJoinAck msg)

/-- HEARTBEAT_SEND: a HEARTBEAT to the manager or the standby, the only modules that one is for (R364). -/
def execHeartbeatSend (dest : Nat) : Meaning := M.next (do
  let on ← getFld Fl.COLL_CTRL_RUN
  let ok ← look (fun s => decide (dest ≠ s.me) && (decide (dest = s.coll.manager) || decide (s.coll.standby = some dest)))
  if on = 1 ∧ ok then sendHeartbeat dest)

/-- HEARTBEAT refreshes the sender's liveness (R364). -/
def onHeartbeat (msg : Msg) : M Unit := withMsg msg (pure ())
def execHeartbeat (msg : Msg) : Meaning := M.next (onHeartbeat msg)

/-- MODULE_LOSS_TIMEOUT: a module is lost to this one (R364): the manager holds the job (R369), the standby takes over from a lost manager
(R366). -/
def execModuleLossTimeout (module : Nat) : Meaning := M.next (do
  let on ← getFld Fl.COLL_CTRL_RUN
  let role ← getFld Fl.COLL_STATUS_ROLE
  let mgr ← look (·.coll.manager)
  let me ← look (·.me)
  let lost ← look (fun s => s.coll.mgr.lost.contains module)
  let n ← look (·.modules)
  if on = 1 ∧ module < n ∧ module ≠ me ∧ !lost then
    if role = 1 then moduleLost module
    else if role = 2 ∧ module = mgr then failover)

/-- Has the module nothing of a step left (R353): no open Take, no relay send unacknowledged or lost, no bucket incomplete? -/
def State.drainedOf (s : State) (step : Nat) : Bool :=
  s.tiles.all (fun t => !(t.2.take.isSome && decide (slateStep (s.slate t.1) = step)) &&
    t.2.sendQ.all (fun q => decide (slateStep q.slate ≠ step))) &&
    s.nrt.flows.all (fun f => f.2.tx.all (fun p => p.tile.isNone || decide (slateStep p.pkt.slate ≠ step))) &&
    s.nrt.lost.all (fun x => decide (slateStep x ≠ step)) &&
    s.coll.buckets.zipIdx.all (fun b => (s.myPos b.1).isNone || (s.bucketRun b.2 step).any (·.complete))

/-- DRAINED_REPORT: the module reports DRAINED for a step, once (R353). -/
def execDrainedReport (step : Nat) : Meaning := M.next (do
  let on ← getFld Fl.COLL_CTRL_RUN
  let opened ← getReg Reg.COLL_STEP
  let ok ← look (·.drainedOf step)
  let was ← look (fun s => s.coll.drainedSent.contains step)
  if on = 1 ∧ opened ≠ 0xFFFFFFFF ∧ step ≤ opened.toNat ∧ ok ∧ !was then
    act (.coll (fun x => { x with drainedSent := x.drainedSent ++ [step] }))
    let me ← look (·.me)
    let mgr ← look (·.coll.manager)
    if mgr = me then mgrReport (.reportDrained me step) else sendMsg mgr 4 (mkSlate step 0 0 0 0) [])

/-- DRAINED: the manager records the report, and may send UPD_CMD (R352). -/
def onDrained (msg : Msg) : M Unit := withMsg msg (asManager (mgrReport (.reportDrained msg.module (slateStep msg.slate))))
def execDrained (msg : Msg) : Meaning := M.next (onDrained msg)

/-- Has the module's update of t completed, and reached every versioned object it holds (R353)? -/
def State.updDoneOf (s : State) (t : Nat) : Bool :=
  decide ((s.reg Reg.UPDT_DONE).toNat = t) && s.reel.objects.all (fun o => !o.versioned || decide (o.verAt (t % 2) = t))

/-- UPD_DONE_REPORT: the module reports UPD_DONE for t, once (R353). -/
def execUpdDoneReport (t : Nat) : Meaning := M.next (do
  let on ← getFld Fl.COLL_CTRL_RUN
  let ok ← look (·.updDoneOf t)
  let was ← look (fun s => s.coll.updDoneSent.contains t)
  if on = 1 ∧ ok ∧ !was then
    act (.coll (fun x => { x with updDoneSent := x.updDoneSent ++ [t] }))
    let me ← look (·.me)
    let mgr ← look (·.coll.manager)
    if mgr = me then mgrReport (.reportUpdDone me t) else sendMsg mgr 6 0 (leBytes 4 t))

/-- UPD_DONE: the manager records the report, and may send commands or release channel 7 (R352). -/
def onUpdDone (msg : Msg) : M Unit := withMsg msg (asManager (mgrReport (.reportUpdDone msg.module (leAt msg.arg 0 4))))
def execUpdDone (msg : Msg) : Meaning := M.next (onUpdDone msg)

/-- CLAP_ARRIVE: a module's arrival at a cross-module channel; the last one releases it (R249, R351). -/
def onClapArrive (msg : Msg) : M Unit := withMsg msg (asManager (mgrArrive msg.module (leAt msg.arg 0 4) (leAt msg.arg 4 4)))
def execClapArrive (msg : Msg) : Meaning := M.next (onClapArrive msg)

/-- CLAP_RELEASE: the hub releases its tiles; channel 7 sets COLL_STEP first (R249, R351, R368). -/
def onClapRelease (msg : Msg) : M Unit := withMsg msg (hubRelease (leAt msg.arg 0 4) (leAt msg.arg 4 4) (leAt msg.arg 8 4))
def execClapRelease (msg : Msg) : Meaning := M.next (onClapRelease msg)

/-- JOURNAL: the standby, or the module that is to be it, records a change and acknowledges it (R365, R367). The first FULL part starts from an
empty state. -/
def onJournal (msg : Msg) : M Unit := withMsg msg (do
  let full := bitOf (leAt msg.arg 0 1) 0
  let fresh ← look (fun s => decide (s.coll.fullTo ≠ some msg.module))
  if full ∧ fresh then act (.coll (fun x => { x with mgr := Mgr.empty, fullTo := some msg.module }))
  match Change.decode msg.arg with
  | some c => mgrRecord c
  | none => pure ()
  sendMsg msg.module 0xA 0 (leBytes 4 msg.seq))
def execJournal (msg : Msg) : Meaning := M.next (onJournal msg)

/-- JOURNAL_ACK: the manager acts on the change acknowledged; the last FULL part acknowledged makes the standby (R365, R367). -/
def onJournalAck (msg : Msg) : M Unit := withMsg msg (asManager (do
  let n := leAt msg.arg 0 4
  let x ← look (·.coll)
  if x.fullTo = some msg.module ∧ x.fullLeft.contains n then
    act (.coll (fun x => { x with fullLeft := x.fullLeft.filter (fun k => decide (k ≠ n)) }))
    if x.fullLeft.all (fun k => decide (k = n)) then nameStandby msg.module
  else
    match x.journal.find? (fun e => decide (e.1 = n)) with
    | some e =>
      act (.coll (fun x => { x with journal := x.journal.filter (fun k => decide (k.1 ≠ n)) }))
      mgrAct e.2
    | none => pure ()
  mgrRun 64
  mgrOwn))
def execJournalAck (msg : Msg) : Meaning := M.next (onJournalAck msg)

/-- MANAGER: the EPOCH and the standby; a manager that receives it becomes a worker; pending arrivals are sent again (R366 to R368). -/
def onManager (msg : Msg) : M Unit := withMsg msg (do
  let me ← look (·.me)
  let was ← look (·.isManager)
  let standby := leAt msg.arg 2 2
  setFld Fl.COLL_STATUS_EPOCH (leAt msg.arg 0 1)
  act (.coll (fun x => { x with manager := msg.module, fullTo := none, standby := if standby = 0xFFFF then none else some standby }))
  setFld Fl.COLL_STATUS_ROLE (if standby = me then 2 else 0)
  if was ∧ msg.module ≠ me then
    setBit Fl.COLL_STATUS_FAILOVER
    raiseEvent { evOf Ev.managerFailover (srcUnit mColl) 0 0 with demotion := true }
  let l ← look (·.coll.arrived)
  for e in l do sendMsg msg.module 7 0 (leBytes 4 e.1 ++ leBytes 4 e.2))
def execManager (msg : Msg) : Meaning := M.next (onManager msg)

/-- HOLD: Takes aborted, tiles stopped, the update queue dropped (R369). -/
def onHold (msg : Msg) : M Unit := withMsg msg (holdHere (leAt msg.arg 0 2))
def execHold (msg : Msg) : Meaning := M.next (onHold msg)

/-- RESTORE: this module's part of a restore; it takes the manager and the EPOCH from the message (R370). `copies` is what the twin has sent: none comes with the
message itself, and the command, which brings all that it sends, may follow for a restore in work, on the manager's own module too. -/
def onRestore (msg : Msg) (copies : Option (List RestoreCopy)) : M Unit := withMsg msg (do
  let r := leAt msg.arg 0 4
  let now ← look (·.coll.restoring)
  if now ≠ some r then
    setFld Fl.COLL_STATUS_EPOCH msg.epoch
    act (.coll (fun c => { c with manager := msg.module, restartReads := none }))
    restoreBegin r
  match copies with
  | none => restoreTry false
  | some l =>
    restoreCopies r l
    restoreTry true)
def execRestore (msg : Msg) (copies : List RestoreCopy) : Meaning := M.next (onRestore msg (some copies))

/-- RESTORED: the manager records the report (R370). -/
def onRestored (msg : Msg) : M Unit := withMsg msg (asManager (mgrReport (.restored msg.module (leAt msg.arg 0 4))))
def execRestored (msg : Msg) : Meaning := M.next (onRestored msg)

/-- RESUME on the manager of a held and restored job sends JOIN_ACK with s0 = r (R371, R376). -/
def collResume (value : Nat) : M Unit := do
  let m ← look (·.coll.mgr)
  let go ← look (·.isManager)
  let restored ← getFld Fl.COLL_STATUS_RESTORED
  if bitOf value 2 ∧ go ∧ restored = 1 then
    match m.restore with
    | some r =>
      setFld Fl.COLL_STATUS_RESTORED 0
      mgrAct (.admitted r)
      mgrRun 64
    | none => pure ()

/-- The roles at job start (R344, R377). -/
def startRoles : M Unit := do
  let n ← look (·.modules)
  let me ← look (·.me)
  setFld Fl.COLL_STATUS_ROLE (if n = 1 then 3 else if me = 0 then 1 else if me = 1 then 2 else 0)
  act (.coll (fun x => { x with
    manager := 0, mgr := { Mgr.empty with standby := if 1 < n ∧ me = 0 then some 1 else none }, journal := [], fullTo := none, fullLeft := []
    standby := if 1 < n then some 1 else none, ownRestore := none, restoring := none, copies := []
    twinLost := false, restartReads := none, runs := [], chunks := [], later := [], gradHeld := [], gens := [], arrived := [], drainedSent := [], updDoneSent := [] }))

/-- RUN set: the tables are checked and participation starts (R376 to R379). -/
def collStart : M Unit := do
  let ok ← look (·.collBasesOk)
  let bs ← look (·.bucketTable)
  let rs ← look (·.rgroupTable)
  let good ← look (fun s => s.bucketsOk bs rs && s.rgroupsOk)
  if !ok then
    setFld Fl.COLL_CTRL_RUN 0
    setBit Fl.COLL_STATUS_BADBASE
  else if !good then
    setFld Fl.COLL_CTRL_RUN 0
    setBit Fl.COLL_STATUS_BADBASE
    raise Ev.jobImageInvalid srcHub 0 0
  else
    setFld Fl.COLL_CTRL_RUN 1
    act (.coll (fun x => { x with buckets := bs, rgroups := rs }))
    startRoles

/-- A write of COLL_CTRL: RESUME; RUN from 0 to 1 starts participation; to 0 it drops every bucket (R376). -/
def collCtrlWrite (master value : Nat) : M Unit := byMaster master Reg.COLL_CTRL (do
  let was ← getFld Fl.COLL_CTRL_RUN
  regWrite master Reg.COLL_CTRL value
  let now ← getFld Fl.COLL_CTRL_RUN
  collResume value
  if was = 0 ∧ now = 1 then collStart
  if was = 1 ∧ now = 0 then collStop)

/-- COLL_RESUME and COLL_RUN_WRITE. -/
def execCollResume (master value : Nat) : Meaning := M.next (collCtrlWrite master value)
def execCollRunWrite (master value : Nat) : Meaning := M.next (collCtrlWrite master value)

/-- COLLECTIVE_STALL: a child's chunk absent 100 ms after the node's own is ready, once for a bucket and step (R362). -/
def execCollectiveStall (bucket step child : Nat) : Meaning := M.next (do
  let r ← look (·.bucketRun bucket step)
  let b ← look (·.bucket bucket)
  let g ← look (·.rgroup b)
  let pos ← look (·.myPos b)
  let missing ← look (fun s => (List.range (s.chunkCount b)).any (fun k => !(r.any (fun r => r.sent.contains k)) &&
    (s.gotUnit bucket step (posOf g.members.length b.owner child) false k).isNone))
  if r.any (fun r => !r.stalled) && missing &&
      pos.any (fun q => (childrenOf g.members.length q).contains (posOf g.members.length b.owner child)) then
    modBucket bucket step (fun r => { r with stalled := true })
    raise Ev.collectiveStall (srcUnit mColl) (bucket + child * 2 ^ 16) (mkSlate step 0 0 0 0))

/-- GRADIENT_WRITE_RELEASE: a bucket write held until the update read the group proceeds (R315). -/
def execGradientWriteRelease (bucket step : Nat) : Meaning := M.next (do
  let held ← look (fun s => s.coll.gradHeld.contains (bucket, step))
  let b ← look (·.bucket bucket)
  let wait ← look (·.gradHeldFor bucket step)
  if held ∧ !wait then
    act (.coll (fun c => { c with gradHeld := c.gradHeld.filter (fun e => decide (e ≠ (bucket, step))) }))
    let n ← look (·.chunkCount b)
    for k in List.range n do
      tryChunk bucket step k
      tryDown bucket step k
    pumpLater)

/-- UPD_CMD: the manager's command of R312 enters the die's queue, or is dropped when the queue is full (R313). -/
def onUpdCmd (m : Msg) : M Unit := withMsg { m with type := 5 } (do
  updEnqueue (UpdCmd.decode m.arg)
  updComplete)

/-- What a message carried by a MGMT packet does, by its type (R345). -/
def msgDeliver (m : Msg) : M Unit :=
  match m.type with
  | 1 => onJoin m
  | 2 => onJoinAck m
  | 3 => onHeartbeat m
  | 4 => onDrained m
  | 5 => onUpdCmd m
  | 6 => onUpdDone m
  | 7 => onClapArrive m
  | 8 => onClapRelease m
  | 9 => onJournal m
  | 10 => onJournalAck m
  | 11 => onManager m
  | 12 => onHold m
  | 13 => onRestore m none
  | 14 => onRestored m
  | _ => pure ()

end Sys2Proof.Machine
end

