-- ==== Sys2Proof/Machine/MacOps.lean ====
section
/-! DEFINITION. Shared operations of the ports (R32, R33, R381 to R402): which cage a port lies in, leaving UP and coming UP, LLDP, peer-delay results, the
method of low power in effect. -/

namespace Sys2Proof.Machine

/-- The ports of a cage by its mode, and the speed code of each (R32, R405). -/
def modePorts (mode : Nat) : Nat := if mode = 1 then 1 else if mode = 2 then 2 else if mode = 3 then 4 else 0
def modeSpeed (mode : Nat) : Nat := if mode = 1 then 3 else if mode = 2 then 2 else if mode = 3 then 1 else 0

/-- The cage that carries a port: the walk's numbers are in FIRST_PORT, and MODE is 0 for a cage that is disabled (R33, R55). -/
def State.cageOf (s : State) (n : Nat) : Option Nat :=
  (List.range 5).find? (fun c =>
    let f := s.fld (Fl.IDENT_CAGE_FIRST_PORT c)
    decide (f ≤ n) && decide (n < f + modePorts (s.fld (Fl.IDENT_CAGE_MODE c))))

/-- The configured speed of a port, and whether its media is copper (R56, R382). -/
def State.portSpeed (s : State) (n : Nat) : Nat := ((s.cageOf n).map (fun c => modeSpeed (s.fld (Fl.IDENT_CAGE_MODE c)))).getD 0
def State.portMedia (s : State) (n : Nat) : Nat := ((s.cageOf n).map (fun c => s.fld (Fl.IDENT_CAGE_MEDIA c))).getD 0
def State.portCopper (s : State) (n : Nat) : Bool := decide (s.portMedia n = 1) || decide (s.portMedia n = 2)
def State.macState (s : State) (n : Nat) : Nat := s.fld (Fl.MAC_STATUS_STATE n)

/-- Can the port receive (R383)? -/
def State.receives (s : State) (n : Nat) : Bool :=
  decide (s.macState n = macUp) || (decide (s.macState n = macStepping) && decide (s.fld (Fl.MAC_STATUS_FEC_LOCK n) = 1))

/-- The low-power method in effect (R397): 0 none, 1 STEP, 2 EEE. Port 8 has none. -/
def State.lpMethod (s : State) (n : Nat) : Nat :=
  if n = 8 then 0
  else match s.fld (Fl.MAC_CTRL_LP_MODE n) with
    | 1 => 1
    | 2 => 2
    | 3 => (match s.job with
      | none => 0
      | some j => if j.modules ≤ 16 then 1 else 2)
    | _ => 0

/-- The calibrated latencies at a speed (R392, R411): transmit in the low half, receive in the high half. -/
def setLatency (n speed : Nat) : M Unit := do
  let v := Config.ptpLatency n speed
  setReg (Reg.MAC_PTP_LAT n) (BitVec.ofNat 32 v)

/-- An LLDPDU leaves the port (R394): untagged, the capability TLV's OUI from the base MAC address of the configuration record in force, and its content as
port, module, NRT version and flags. -/
def lldpSend (n : Nat) : M Unit := do
  let en ← getFld (Fl.MAC_LLDP_TX_EN n)
  if en = 1 then
    let iv ← getFld (Fl.MAC_LLDP_INTERVAL n)
    let limit ← look (·.frameLimit n)
    let chassis ← look (·.portMac 0)
    let own ← look (·.portMac n)
    let oui ← look (fun s => leAt s.rst.cfg 16 6 / 2 ^ 24)
    let eee ← look (fun s => decide (s.lpMethod n = 2))
    let md ← look (fun s => (s.job.map (·.module)).getD 0xFF)
    let step ← look (fun s => decide (s.lpMethod n = 1) && decide (2 ≤ s.portSpeed n))
    let pd ← getFld (Fl.MAC_CTRL_PDELAY_EN n)
    let cap := n + md * 2 ^ 8 + 1 * 2 ^ 16 + ((if step then 1 else 0) + 2 * pd + (if n = 8 then 4 else 0)) * 2 ^ 24
    portSend n 8 (if eee then 80 else 64)
      (.lldp ⟨n, chassis, own, 4 * max iv 1, limit, if eee then some (Config.wakeTime n % 65536) else none, oui, cap⟩)

/-- The frames of a port that has left UP (R425): sequenced packets, ACKs and NAKs move to other paths of their flows; DGRAM packets and frames of the
management queue are discarded. -/
def portDrop (n : Nat) : M Unit := do
  let p ← getPort n
  modPort n (fun p => { p with held := [] })
  for x in p.held do
    match x.2.2 with
    | .packet k => takeBack k
    | _ => pure ()

/-- A port enters a state in which it receives and sends nothing. One that was up, or in a step, has left UP (R383, R401): its queue moves, its step and
its low-power idle are over, and port 8 no longer mirrors (R331). -/
def leavePort (n state : Nat) : M Unit := do
  let was ← look (·.macState n)
  setFld (Fl.MAC_STATUS_STATE n) state
  setFld (Fl.MAC_STATUS_SPEED n) 0
  setFld (Fl.MAC_STATUS_FEC_LOCK n) 0
  setFld (Fl.MAC_STATUS_LPI_TX n) 0
  setFld (Fl.MAC_STATUS_LPI_RX n) 0
  modPort n (fun p => { p with stepTo := none, agreed := none, changing := none, paused := [], exchanges := 16 })
  if was = macUp ∨ was = macStepping then
    portDrop n
    raise Ev.portDown (srcPort n) 0 0
    if n = 8 then mirrorLost

/-- A port comes UP by alignment and FEC lock (R383), starts its cable measurement (R393) and its LLDP (R394), and queued traffic goes on. -/
def enterUp (n : Nat) : M Unit := do
  let sp ← look (·.portSpeed n)
  setFld (Fl.MAC_STATUS_STATE n) macUp
  setFld (Fl.MAC_STATUS_SPEED n) sp
  setFld (Fl.MAC_STATUS_FEC_LOCK n) 1
  setLatency n sp
  let pd ← getFld (Fl.MAC_CTRL_PDELAY_EN n)
  modPort n (fun p => { p.fresh with
    abandoned := 0, noSteps := false, exchanges := if pd = 1 then 0 else 16, delays := [], ptp := if pd = 1 then none else p.ptp })
  raise Ev.portUp (srcPort n) 0 0
  lldpSend n
  portRelease n
  let fs ← look (fun s => s.nrt.flows.map (·.1))
  for f in fs do flushAcks f

/-- A retrain (R384). -/
def startRetrain (n : Nat) : M Unit := do
  leavePort n macRetrain
  bump (Reg.MAC_COUNT_LO n 6) 1
  raise Ev.linkRetrain (srcPort n) 0 0

/-- A number in a field of w bits, or a free value where it does not fit: the spec states none then. -/
def fitOrFree (w x : Nat) : M Nat := do
  if x < 2 ^ w then pure x
  else
    let v ← freeValue
    pure (v % 2 ^ w)

/-- Insert into a rising list. -/
def insertInt (x : Int) : List Int → List Int
  | [] => [x]
  | h :: t => if x ≤ h then x :: h :: t else h :: insertInt x t
def sortInts (l : List Int) : List Int := l.foldr insertInt []

/-- The mean path delay in 1/16 ns from the answered exchanges' (t4 − t1) − (t3 − t2) in 1/16 ns: the mean of the 8th and 9th smallest halves,
ties up (R393). -/
def meanDelay (vs : List Int) : Int :=
  let l := sortInts vs
  (l.getD 7 0 + l.getD 8 0 + 2) / 4

/-- The result of the 16 exchanges (R393). -/
def pdelayResult (n : Nat) : M Unit := do
  let p ← getPort n
  if 9 ≤ p.delays.length then
    let d := meanDelay p.delays
    let delay ← (if 0 ≤ d then fitOrFree 24 d.toNat else do
      let v ← freeValue
      pure (v % 2 ^ 24))
    let media ← look (·.portCopper n)
    let rtt ← fitOrFree 16 ((delay + 4) / 8)
    let len ← fitOrFree 16 (if media then (200 * delay + 768) / 1536 else (200 * delay + 784) / 1568)
    setFld (Fl.MAC_PTP_DELAY_DELAY n) delay
    setFld (Fl.MAC_PTP_DELAY_VALID n) 1
    modPort n (fun p => { p with ptp := some (rtt, len) })

/-- A PFC frame leaves the port, and no pause holds it. R386 tags it and says no PCP for it: that is a free value. -/
def pfcSend (n prio : Nat) (xoff : Bool) : M Unit := do
  let v ← freeValue
  let tag ← look (·.tagOf n (v % 8))
  portSend n 8 64 (.pfc n tag prio xoff)

/-- XOFF and XON of the priorities with PFC, by what their receive buffers hold (R390, R408). -/
def pfcBuffers (n : Nat) (kib : List Nat) : M Unit := do
  modPort n (fun p => { p with rxKib := (List.range 8).map (fun i => kib.getD i (p.rxKib.getD i 0)) })
  let en ← getFld (Fl.MAC_CTRL_PFC_EN n)
  let mask ← getFld (Fl.MAC_PFC_PRIO_EN n)
  let xoff ← getFld (Fl.MAC_PFC_XOFF n)
  let xon ← getFld (Fl.MAC_PFC_XON n)
  let xon := if xon < xoff then xon else xoff - 1
  if en = 1 then
    for i in List.range 8 do
      if bitOf mask i then
        let p ← getPort n
        let k := p.rxKib.getD i 0
        if xoff < k ∧ !p.xoff.contains i then
          modPort n (fun p => { p with xoff := p.xoff ++ [i] })
          pfcSend n i true
        else if k < xon ∧ p.xoff.contains i then
          modPort n (fun p => { p with xoff := p.xoff.filter (fun x => decide (x ≠ i)) })
          pfcSend n i false

end Sys2Proof.Machine
end

