-- ==== Sys2Proof/Machine/NrtRx.lean ====
section
/-! DEFINITION. The receiving side of the NRT engine (R415, R417 to R422, R428 to R438): admission, placing, held writes, taint,
notifications, rings, reads; and keys (R418 to R420, R440). -/

namespace Sys2Proof.Machine

/-! Keys. -/

/-- A key-table entry, and a change of it. -/
def State.keyEntry (s : State) (i : Nat) : KeyEntry := Store.get (fun _ => KeyEntry.free) s.nrt.keys i
def modKey (i : Nat) (f : KeyEntry → KeyEntry) : M Unit :=
  act (.key i f)

/-- The parts of a key, and the CHECK bits of an index and a generation (R418). -/
def keyIndex (k : Nat) : Nat := k % 2 ^ 18
def keyCheck (salt idxGen : Nat) : Nat := crc32c (leBytes 4 (salt ^^^ idxGen)) % 64

/-- A key-table entry from its 32 bytes (R419); STATE and INUSE are no software's to write. -/
def KeyEntry.decode (b : List Byte) : KeyEntry :=
  let x := leAt b 14 1
  { base := bitsOf (leAt b 0 6) 47 0, length := leAt b 8 5, gen := leAt b 13 1, r := bitOf x 0, w := bitOf x 1, n := bitOf x 2
    dest := bitsOf x 5 4, state := 1, guest := bitsOf (leAt b 15 1) 7 4, nkind := bitsOf (leAt b 16 1) 3 0
    ctr := bitsOf (leAt b 17 1) 5 0, tile0 := leAt b 18 1, ntiles := leAt b 19 1, obj := leAt b 20 2, inuse := 0, slowRaised := false }

/-- Does a staged entry keep R419? -/
def keyEntryOk (b : List Byte) : Bool :=
  let e := KeyEntry.decode b
  let x := leAt b 14 1
  let inOne := (inT1 e.base && decide (e.base + e.length ≤ 0x3400000000)) || (inT2 e.base && decide (e.base + e.length ≤ 0x7FFFFFFC00))
  decide (leAt b 6 2 = 0 ∧ bitsOf x 3 3 = 0 ∧ bitsOf x 7 6 = 0 ∧ bitsOf (leAt b 15 1) 3 2 = 0 ∧ bitsOf (leAt b 16 1) 7 4 = 0 ∧
      bitsOf (leAt b 17 1) 7 6 = 0 ∧ leAt b 24 8 = 0) &&
    decide (1 ≤ e.length ∧ e.dest ≤ 2 ∧ e.guest ≤ 8 ∧ e.nkind ≤ 5 ∧ e.ntiles ≤ 180) &&
    (decide (e.dest ≠ 0) || (onPair e.base && inOne)) && !(e.n && decide (e.nkind = 0)) &&
    !(decide (e.nkind = 3) && decide (e.dest ≠ 1)) && !(decide (e.nkind = 1) && decide (7 < e.ctr))

/-- REVOKING and BUSY follow the table (R449). -/
def keySync : M Unit := do
  let n ← look (fun s => (s.nrt.keys.filter (fun e => decide (e.2.state = 2))).length)
  setFld Fl.KEYT_STATUS_REVOKING n

/-- An access through a key is admitted, and finishes (R440). -/
def keyUse (k : Nat) : M Unit := modKey (keyIndex k) (fun e => { e with inuse := e.inuse + 1 })
def keyDone (k : Nat) : M Unit := modKey (keyIndex k) (fun e => { e with inuse := e.inuse - 1 })

/-- The first NAK cause of R422 that a packet's key earns on a flow, if any. -/
def State.judgeKey (s : State) (f : Nat) (p : Packet) : Option Nat :=
  let e := s.keyEntry (keyIndex p.key)
  let len := if p.op = opReadReq then readLen p else p.length
  let rights := if p.op = opReadReq then e.r && decide (e.dest = 0) else e.w && (decide (p.op ≠ opWriteNotify) || e.n)
  let bounds :=
    if e.dest = 2 ∧ p.op ≠ opReadReq then
      let b := p.offset / 2 ^ 24
      let first := p.offset % 2 ^ 24
      let mask := leAt p.payload 0 8
      decide (b < s.fld Fl.COLL_BKT_COUNT_COUNT) && (List.range 64).all (fun k => !bitOf mask k || decide (first + k < (s.bucket b).lpairs))
    else decide (p.offset + len ≤ e.length) && (decide (p.op ≠ opReadReq) || decide (1 ≤ len ∧ len ≤ 1048576))
  if keyCheck (s.fld Fl.KEYT_SALT_SALT) (p.key % 2 ^ 26) ≠ p.key / 2 ^ 26 % 64 then some 1
  else if e.state = 0 then some 2
  else if e.state = 2 then some 3
  else if p.key / 2 ^ 18 % 256 ≠ e.gen then some 4
  else if e.guest ≠ (s.flow f).guest then some 5
  else if !rights then some 6
  else if !bounds then some 7
  else none

/-! Placing. -/

/-- The lowest PSN not placed rises past the placed ones. -/
def Flow.advance (fl : Flow) : Nat → Flow
  | 0 => fl
  | k + 1 =>
    if fl.placed.contains fl.epsn then
      Flow.advance { fl with placed := fl.placed.filter (fun x => decide (x ≠ fl.epsn)), epsn := (fl.epsn + 1) % 2 ^ 24 } k
    else fl

/-- A PSN is placed (R428); the ACK that this calls for at once is sent (R430). -/
def placePsn (f psn : Nat) : M Unit := do
  let old ← getFlow f
  modFlow f (fun fl => Flow.advance { fl with placed := fl.placed ++ [psn], sinceAck := fl.sinceAck + 1, ackDue := true } 1100)
  let fl ← getFlow f
  let limit ← look (fun s => max (s.fld Fl.NRT_TIMING_ACK_PKTS) 1)
  let passed := fl.wns.any (fun w => decide (psnSub w old.epsn < psnSub fl.epsn old.epsn))
  if limit ≤ fl.sinceAck ∨ passed then sendAck f

/-! The taint (R435). -/

/-- Has a PSN been received? -/
def Flow.received (fl : Flow) (psn : Nat) : Bool :=
  decide (2 ^ 23 ≤ psnSub psn fl.epsn) || fl.placed.contains psn || fl.held.any (fun h => decide (h.psn = psn))

/-- Is a PSN after another? -/
def psnAfter (a b : Nat) : Bool := decide (1 ≤ psnSub a b ∧ psnSub a b < 2 ^ 23)

/-- The WRITE_NOTIFY that a taint acts on: the first after the refused PSN, once every PSN between has been received. -/
def Flow.answer (fl : Flow) (t : Nat) : Option Nat :=
  match fl.wns.filter (fun w => psnAfter w t) with
  | [] => none
  | h :: ws =>
    let w := ws.foldl (fun b x => if psnSub x t < psnSub b t then x else b) h
    let lo := if psnAfter fl.epsn t then psnSub fl.epsn t else 1
    if (List.range (psnSub w t - lo)).all (fun k => fl.received ((t + lo + k) % 2 ^ 24)) then some w else none

/-- The WRITE_NOTIFYs that a taint may still look for. -/
def Flow.liveWns (fl : Flow) : List Nat :=
  fl.wns.filter (fun w => decide (psnSub w fl.epsn < 2 ^ 23) || fl.taint.any (fun t => psnAfter w t))

/-- A WRITE_NOTIFY has been received. -/
def noteWn (f : Nat) (p : Packet) : M Unit :=
  if p.op = opWriteNotify then modFlow f (fun fl => { fl with wns := p.psn :: fl.liveWns }) else pure ()

/-- A PSN has been received: the taints whose WRITE_NOTIFY is now known clear, and its notification, where one is held, is cancelled. -/
def taintSync (f psn : Nat) : M Unit := do
  let fl ← getFlow f
  for t in fl.taint do
    match Flow.answer { fl with placed := psn :: fl.placed } t with
    | none => pure ()
    | some w =>
      let now ← getFlow f
      modFlow f (fun fl => { fl with taint := fl.taint.filter (fun x => decide (x ≠ t)) })
      match now.notes.find? (fun n => decide (n.psn = w)) with
      | none => pure ()
      | some n =>
        modFlow f (fun fl => { fl with notes := fl.notes.filter (fun n => decide (n.psn ≠ w)) })
        if !now.held.any (fun h => decide (h.psn = w)) then keyDone n.pkt.key
        bump (Reg.NRT_KEYFAULT_LO 7) 1
        flowEvent Ev.nrtKeyFault f (faultDetail 8 n.pkt.key n.pkt.offset) n.pkt.slate

/-- A final refusal (R422, R435): the taint first, then the NAK, the event, and the PSN counts as placed. -/
def refuseFinal (f : Nat) (p : Packet) (cause : Nat) : M Unit := do
  noteWn f p
  if (p.op = opWrite ∨ p.op = opWriteNotify) ∧ cause ≠ 8 then
    modFlow f (fun fl => { fl with wns := fl.liveWns, taint := fl.taint ++ [p.psn] })
  taintSync f p.psn
  sendNak f p.psn cause
  flowEvent Ev.nrtKeyFault f (faultDetail cause p.key p.offset) p.slate
  placePsn f p.psn

/-- The bytes of a write reach the ordering point (R419, R428): memory, nowhere, or the collective engine. The access is finished, but for a WRITE_NOTIFY
whose notification is still held (R440). -/
def landWrite (f : Nat) (p : Packet) : M Unit := do
  let e ← look (fun s => s.keyEntry (keyIndex p.key))
  let own ← look (·.ownerBit)
  let fl ← getFlow f
  if e.dest = 0 then
    hubWrite (e.base + p.offset) p.payload
    byteTraffic true (e.base + p.offset) p.payload.length (some own) (some mNrt) (some 1)
  else if e.dest = 2 then
    chunkArrive (p.offset / 2 ^ 24) (slateStep p.slate) (p.offset % 2 ^ 24) (if fl.loopback then 0xFFFF else fl.peerModule)
      fl.chunkPairs p.payload
  if p.op = opReadResp then askPlaced f p
  if p.op ≠ opWriteNotify ∨ !fl.notes.any (fun n => decide (n.psn = p.psn)) then keyDone p.key

/-- Is a write's destination in a slot B that R283 holds? -/
def State.writeHeld (s : State) (p : Packet) : Bool :=
  let e := s.keyEntry (keyIndex p.key)
  decide (e.dest = 0) && (match s.placeAt (e.base + p.offset) with
    | some (o, place) => s.slotHeld o place
    | none => false)

/-- An admitted write is performed, or held (R283, R434): a WRITE_NOTIFY's data is written, its notification held. -/
def performWrite (f : Nat) (p : Packet) : M Unit := do
  keyUse p.key
  let hold ← look (·.writeHeld p)
  if p.op = opWriteNotify then modFlow f (fun fl => { fl with notes := fl.notes ++ [⟨p.psn, p⟩] })
  if hold then modFlow f (fun fl => { fl with held := fl.held ++ [⟨p.psn, p⟩] })
  else
    landWrite f p
    placePsn f p.psn

/-! Reads (R438). -/

/-- Send the responses of a read; one that would carry a poisoned line ends it, with a NAK behind those before it (R583). 2^24, which is no PSN, says that there
are none. -/
def serveRead (f : Nat) (p : Packet) : M Unit := do
  let e ← look (fun s => s.keyEntry (keyIndex p.key))
  let fl ← getFlow f
  let a := e.base + p.offset
  let n := readLen p
  let own ← look (·.ownerBit)
  let bad ← look (fun s => (List.range (ceilDiv n fl.payload)).find? (fun k =>
    let lo := a + k * fl.payload - regionBase a
    let hi := a + min ((k + 1) * fl.payload) n - regionBase a
    (List.range ((hi + 95) / 96 - lo / 96)).any (fun l => s.poisoned (regionBase a + (lo / 96 + l) * 96))))
  let count := bad.getD (ceilDiv n fl.payload)
  for k in List.range count do
    let bs ← memBytes (a + k * fl.payload) (min fl.payload (n - k * fl.payload))
    nrtEnqueue f opReadResp (respKey p) (respOffset p + k * fl.payload) bs p.slate none 0
  byteTraffic false a (min n (count * fl.payload)) (some own) (some mNrt) (some 1)
  keyDone p.key
  if bad.isSome then
    modFlow f (fun fl => { fl with nakDue := fl.nakDue ++ [⟨if count = 0 then 2 ^ 24 else (fl.next + 2 ^ 24 - 1) % 2 ^ 24, p.psn, p.slate⟩] })
    nakRelease f

/-- How a read stands under the version rules of R282: its object and version, when it reads a versioned place. -/
def State.readJudge (s : State) (p : Packet) : VerJudge × Nat × Nat :=
  let e := s.keyEntry (keyIndex p.key)
  match s.placeAt (e.base + p.offset) with
  | none => (.proceed, 0, 0)
  | some (o, place) =>
    let v := s.versionOf (slateStep p.slate)
    let x := s.objAt o
    let j := if x.verAt place = v then VerJudge.proceed
      else if x.verAt place = noVer ∨ x.verAt place < v then VerJudge.wait else VerJudge.retired
    (j, o, v)

/-- An admitted READ_REQ is answered, waits for its version, or ends the job (R282, R438). -/
def performRead (f : Nat) (p : Packet) : M Unit := do
  keyUse p.key
  placePsn f p.psn
  let j ← look (·.readJudge p)
  match j.1 with
  | .proceed => serveRead f p
  | .wait => modFlow f (fun fl => { fl with reads := fl.reads ++ [⟨p, 0, true⟩] })
  | .retired =>
    keyDone p.key
    verRetired (srcUnit mNrt) j.2.1 j.2.2 p.slate

/-! Rings (R436). -/

/-- A ring's table entry, whether it is usable, and whether it is full. -/
structure Ring where
  at' : Nat
  base : Nat
  log2 : Nat
  prod : Nat
  cons : Nat
deriving DecidableEq, Repr
def State.ring (s : State) (n : Nat) : Ring :=
  let a := s.reg64 Reg.NRT_RING_BASE_LO + 32 * n
  ⟨a, s.le a 6, s.le (a + 8) 1, s.le (a + 16) 4, s.le (a + 20) 4⟩
def Ring.usable (r : Ring) : Bool :=
  onPair r.base && decide (6 ≤ r.log2 ∧ r.log2 ≤ 16) && inT1 r.base && decide (r.base + 32 * 2 ^ r.log2 ≤ 0x3400000000)
def Ring.full (r : Ring) : Bool := r.usable && decide (2 ^ r.log2 ≤ (r.prod + 2 ^ 32 - r.cons) % 2 ^ 32)

/-- Is a WRITE_NOTIFY refused for a full ring? -/
def State.ringRefuses (s : State) (p : Packet) : Option Nat :=
  let e := s.keyEntry (keyIndex p.key)
  if p.op = opWriteNotify ∧ e.nkind = 2 ∧ (s.ring e.ctr).full then some e.ctr else none

/-- Count a notification on tiles (R233, R433). -/
def notifyTiles (e : KeyEntry) (ctr slate : Nat) : M Unit := do
  for i in List.range (min e.ntiles 180) do
    if e.tile0 + i < 180 then
      addEc (e.tile0 + i) ctr 1 slate
      pmuTile (e.tile0 + i) 0x11 1 none slate true

/-- The bias powers of a mirror commit (R330). DESIGN CHOICE: they are the last eight bytes of the last write, bp1 before bp2. -/
def commitPower (p : Packet) (i : Nat) : W32 := BitVec.ofNat 32 (leAt p.payload (p.payload.length - 8 + 4 * i) 4)

/-- A notification reaches its target (R433, R436). -/
def notify (f : Nat) (p : Packet) : M Unit := do
  let e ← look (fun s => s.keyEntry (keyIndex p.key))
  let fl ← getFlow f
  match e.nkind with
  | 1 => notifyTiles e (e.ctr % 8) p.slate
  | 2 =>
    let r ← look (·.ring e.ctr)
    if r.usable then
      let now ← look (·.time)
      tierWrite (r.base + r.prod % 2 ^ r.log2 * 32) (leBytes 8 p.slate ++ leBytes 4 p.key ++ leBytes 2 p.srcFlow ++ leBytes 1 fl.peerModule ++
        [0] ++ leBytes 5 p.offset ++ List.replicate 3 0 ++ leBytes 8 now)
      tierWrite (r.at' + 16) (leBytes 4 (r.prod + 1))
      let own ← look (·.ownerBit)
      byteTraffic false r.at' 32 (some own) (some mNrt) (some 1)
      byteTraffic true (r.base + r.prod % 2 ^ r.log2 * 32) 32 (some own) (some mNrt) (some 1)
      byteTraffic true (r.at' + 16) 4 (some own) (some mNrt) (some 1)
    else flowEvent Ev.nrtRingInvalid f e.ctr p.slate
    if 0 < e.ntiles then notifyTiles e 0 p.slate
  | 3 => startBucket (leAt p.payload 0 4) (slateStep p.slate)
  | 4 => commitVersion e.obj (slateStep p.slate + 1) fl.peerModule
  | 5 =>
    let t := slateStep p.slate + 1
    act (.upd (fun u => { u with mirrors := modAt u.mirrors e.obj (fun m =>
      let w := (commitPower p 0, commitPower p 1)
      if t % 2 = 0 then { m with committed := some t, held0 := some t, powers0 := w }
      else { m with committed := some t, held1 := some t, powers1 := w }) }))
  | _ => pure ()

/-- The identity of a notification (R437): key, OFFSET, Slate without its Take, CRC-32C of the payload. -/
def identity (p : Packet) : Nat × Nat × Nat × Nat := (p.key, p.offset, slateRead p.slate &&& 0xFFFFFFFFFFF0FFFF, crc32c p.payload)

/-- The next notification of a flow whose lower PSNs are all placed is delivered, once for each identity (R434, R437). -/
def deliverNote (f : Nat) : M Unit := do
  let fl ← getFlow f
  let due := fl.notes.filter (fun n => decide (2 ^ 23 ≤ psnSub n.psn fl.epsn))
  match due with
  | [] => pure ()
  | h :: t =>
    let n := t.foldl (fun (b n : RxNote) => if psnSub n.psn fl.epsn < psnSub b.psn fl.epsn then n else b) h
    modFlow f (fun fl => { fl with notes := fl.notes.filter (fun x => decide (x.psn ≠ n.psn)) })
    let id := identity n.pkt
    if fl.ids.contains id then bump (Reg.NRT_COUNT_LO 7) 1
    else
      modFlow f (fun fl => { fl with ids := (id :: fl.ids).take 64 })
      let a ← look (fun s => s.reg64 Reg.NRT_DEDUP_BASE_LO + f * 1024)
      act (.undef a 1024)
      bump (Reg.NRT_COUNT_LO 6) 1
      notify f n.pkt
    keyDone n.pkt.key

/-! Packets. -/

/-- Is the packet malformed (R16, R345, R387, R415)? -/
def State.malformed (s : State) (p : Packet) : Bool :=
  let mgmt := decide (4032 ≤ p.dstFlow)
  let max := (s.flow p.dstFlow).payload
  decide (p.ver ≠ 1) || decide (p.length ≠ p.payload.length) || (p.dgram && decide (p.op ≠ opMgmt)) ||
    (mgmt && decide (p.op ≠ opMgmt ∧ p.op ≠ opAck ∧ p.op ≠ opNak)) || (!mgmt && decide (p.op = opMgmt)) || decide (4 < slatePhase p.slate) ||
    (match p.op with
      | 3 => decide (p.length ≠ 16)
      | 5 => decide (p.length ≠ 0)
      | 6 => decide (p.length ≠ 0)
      | 7 => decide (p.length ≠ 64) || decide (leAt p.payload 0 1 = 0) || decide (14 < leAt p.payload 0 1) || msgBadPhase (msgDecode p.payload)
      | _ => decide (p.length = 0) || decide (max < p.length))

/-- A packet is dropped as one that fails its ECRC (R417). -/
def ecrcDrop (port slate : Nat) : M Unit := do
  bump (Reg.NRT_COUNT_LO 9) 1
  setBit Fl.NRT_STATUS_ECRC
  let now ← look (·.time)
  let last ← look (fun s => s.nrt.ecrcAt.find? (fun e => decide (e.1 = port)))
  if last.any (fun e => decide (now < e.2 + 1000000000)) then pure ()
  else
    act (.nrt (fun n => { n with ecrcAt := (port, now) :: n.ecrcAt.filter (fun e => decide (e.1 ≠ port)) }))
    raise Ev.nrtEcrc (srcPort port) 0 slate

/-- Does a packet come in at all? A port receives in its states of R383; what the hub delivers to itself comes through none. -/
def State.hears (s : State) (port : Nat) : Bool := decide (8 < port) || s.receives port

/-- Steps 1 and 2 of R421 on a packet of an operation: one at a port that receives nothing is none; a malformed one, one of no ACTIVE flow, and one that fails its ECRC are dropped. -/
def rxPacket (op : Nat) (pkt : Packet) (k : Packet → M Unit) : M Unit := do
  let p := { pkt with op := op, slate := slateRead pkt.slate }
  let run ← getFld Fl.NRT_CTRL_RUN
  let hears ← look (·.hears p.port)
  if run = 0 ∨ !hears then return
  let bad ← look (·.malformed p)
  if bad then
    if p.port ≤ 8 then bump (Reg.MAC_DROP_LO p.port 9) 1
  else
    let fl ← getFlow p.dstFlow
    if !fl.takes p then bump (Reg.NRT_COUNT_LO 8) 1
    else if !p.ecrcOk then ecrcDrop p.port p.slate
    else k p
  nrtSync

/-- Step 3 of R421 on a sequenced packet (R428, R429): accepted, a duplicate, or beyond the window. -/
def rxSequence (p : Packet) (k : M Unit) : M Unit := do
  let f := p.dstFlow
  let fl ← getFlow f
  let d := psnSub p.psn fl.epsn
  let placed := decide (2 ^ 23 ≤ d) || fl.placed.contains p.psn
  if placed then
    bump (Reg.NRT_COUNT_LO 3) 1
    sendAck f
  else if fl.held.any (fun h => decide (h.psn = p.psn)) then
    bump (Reg.NRT_COUNT_LO 3) 1
    sendNak f p.psn 0x10
  else if 1024 ≤ d then bump (Reg.NRT_COUNT_LO 10) 1
  else
    if p.ce then
      bump (Reg.NRT_COUNT_LO 11) 1
      pmuNrt 0x0C f p
      modFlow f (fun fl => { fl with ceCount := min (fl.ceCount + 1) 65535 })
    k

/-- Steps 4 and 5 of R421: the key, the taint of a WRITE_NOTIFY (R435), and a full ring (R436). -/
def rxKeyed (p : Packet) (k : M Unit) : M Unit := do
  let f := p.dstFlow
  let cause ← look (·.judgeKey f p)
  let fl ← getFlow f
  let tainted := p.op = opWriteNotify ∧ fl.taint.any (fun t => Flow.answer { fl with wns := p.psn :: fl.wns } t == some p.psn)
  let ring ← look (·.ringRefuses p)
  match cause with
  | some c => refuseFinal f p c
  | none =>
    if tainted then refuseFinal f p 8
    else match ring with
      | some r =>
        act (.nrt (fun n => { n with ringFull := if n.ringFull.any (fun x => decide (x.1 = r)) then n.ringFull else n.ringFull ++ [(r, f, p.slate)] }))
        sendNak f p.psn 0x11
      | none =>
        bump (Reg.NRT_COUNT_LO 1) 1
        noteWn f p
        taintSync f p.psn
        k

/-- A write, a notified write, a read request, a read response, a management packet, an ACK and a NAK as they arrive. -/
def rxWrite (op : Nat) (pkt : Packet) : M Unit :=
  rxPacket op pkt (fun p => rxSequence p (rxKeyed p (performWrite p.dstFlow p)))
def rxReadReq (pkt : Packet) : M Unit :=
  rxPacket opReadReq pkt (fun p => rxSequence p (rxKeyed p (performRead p.dstFlow p)))
def rxReadResp (pkt : Packet) : M Unit :=
  rxPacket opReadResp pkt (fun p => rxSequence p (rxKeyed p (performWrite p.dstFlow p)))
def rxMgmt (pkt : Packet) : M Unit :=
  rxPacket opMgmt pkt (fun p => do
    if p.dgram then
      bump (Reg.NRT_COUNT_LO 1) 1
      msgDeliver (msgDecode p.payload)
    else rxSequence p (do
      bump (Reg.NRT_COUNT_LO 1) 1
      placePsn p.dstFlow p.psn
      msgDeliver (msgDecode p.payload)))
def rxAck (pkt : Packet) : M Unit :=
  rxPacket opAck pkt (fun p => takeAck p.dstFlow (p.key % 2 ^ 24) p.bitmap (p.offset / 2 ^ 24))
def rxNak (pkt : Packet) : M Unit :=
  rxPacket opNak pkt (fun p => takeNak p.dstFlow (p.key % 2 ^ 24) (p.offset / 2 ^ 32))

/-- A packet delivered inside the hub, on a loopback flow (R423). -/
def rxAny (p : Packet) : M Unit :=
  match p.op with
  | 1 => rxWrite opWrite p
  | 2 => rxWrite opWriteNotify p
  | 3 => rxReadReq p
  | 4 => rxReadResp p
  | 7 => rxMgmt p
  | _ => pure ()

end Sys2Proof.Machine
end

