-- ==== Sys2Proof/Machine/NrtCmds.lean ====
section
/-! DEFINITION. The commands of the NRT engine and the key table (R420 to R449), and the releases of waiting versioned reads and slot B
writes (R282, R283). -/

namespace Sys2Proof.Machine

/-- WRITE: admitted and written, or refused (R421, R422). -/
def execWrite (pkt : Packet) : Meaning := M.next (rxWrite opWrite pkt)

/-- WRITE_NOTIFY: its data written, its notification held (R434). -/
def execWriteNotify (pkt : Packet) : Meaning := M.next (rxWrite opWriteNotify pkt)

/-- READ_REQ: admitted and answered (R438). -/
def execReadReq (pkt : Packet) : Meaning := M.next (rxReadReq pkt)

/-- READ_RESP: admitted against RESP_KEY and written (R438). -/
def execReadResp (pkt : Packet) : Meaning := M.next (rxReadResp pkt)

/-- ACK at the sender (R430, R431). -/
def execAck (pkt : Packet) : Meaning := M.next (rxAck pkt)

/-- NAK at the sender (R422). -/
def execNak (pkt : Packet) : Meaning := M.next (rxNak pkt)

/-- MGMT: one management message (R345, R415). -/
def execMgmt (pkt : Packet) : Meaning := M.next (rxMgmt pkt)

/-- NOTIFICATION_DELIVER (R434, R437). -/
def execNotificationDeliver (flow : Nat) : Meaning := M.next (do
  deliverNote flow
  pumpAll)

/-- ACK_SEND: the ACK delay has passed since the first packet placed after the last ACK (R430); with the engine stopped nothing is sent (R445). -/
def execAckSend (flow : Nat) : Meaning := M.next (do
  let run ← getFld Fl.NRT_CTRL_RUN
  let fl ← getFlow flow
  if run = 1 ∧ fl.state = 1 then
    flushAcks flow
    if fl.ackDue then sendAck flow
  nrtSync)

/-- Stage firmware's READ_REQ joins the queue of its flow (R415, R438). -/
def askRead (f : Nat) (a : ReadAsk) : M Unit :=
  nrtEnqueue f opReadReq a.key a.offset (beBytes 4 a.length ++ beBytes 4 a.respKey ++ beBytes 8 a.respOffset) a.slate none 0

/-- PACKET_TRANSMIT: a read that stage firmware has asked for joins the queue; the lowest PSN not yet sent goes out, within the window, on the path of R425; with
the engine stopped nothing is sent (R427, R445). -/
def execPacketTransmit (turn : Transmit) : Meaning := M.next (do
  let flow := turn.flow
  match turn.ask with
  | some a => askRead flow a
  | none => pure ()
  let run ← getFld Fl.NRT_CTRL_RUN
  let fl ← getFlow flow
  if run = 1 ∧ fl.state = 1 then
    match fl.tx.find? (fun x => x.sent.isNone && x.retryAt.isNone && decide (psnSub x.psn fl.una < 1024)) with
    | none => pure ()
    | some x =>
      let again := decide (x.tries ≠ 0) || x.pkt.retx
      let now ← look (·.time)
      if x.pkt.op = opReadReq ∧ !again ∧ !x.quiet then modFlow flow (fun fl => { fl with asks := fl.asks ++ [⟨x.psn, x.pkt, []⟩] })
      if fl.loopback then
        modTx flow x.psn (fun y => { y with sent := some now, quiet := false })
        if !again ∧ !x.quiet then bump (Reg.NRT_COUNT_LO 0) 1
        pmuNrt 0x0A flow x.pkt
        rxAny { x.pkt with port := 15 }
      else if again then retransmit flow x (!x.quiet)
      else
        let path ← look (·.choosePath flow (isDataOp x.pkt.op) none)
        match path with
        | none => pure ()
        | some i =>
          modTx flow x.psn (fun y => { y with sent := some now, path := i, quiet := false })
          if !x.quiet then bump (Reg.NRT_COUNT_LO 0) 1
          packetOut flow i x.pkt
      nakRelease flow
  nrtSync)

/-- RTO_RETRANSMIT: a PSN past its timeout is sent again, 16 times at most; the timeout of the 16th fails the flow (R431, R432). -/
def execRtoRetransmit (flow psn : Nat) : Meaning := M.next (do
  let run ← getFld Fl.NRT_CTRL_RUN
  let fl ← getFlow flow
  if run = 1 ∧ fl.state = 1 then
    match fl.tx.find? (fun x => decide (x.psn = psn) && x.sent.isSome && x.retryAt.isNone) with
    | none => pure ()
    | some x =>
      if 16 ≤ x.tries then flowFail flow
      else
        modTx flow psn (fun y => { y with timeouts := y.timeouts + 1 })
        retransmit flow x true
  nrtSync)

/-- NAK_RETRY: a PSN refused with a retry-class NAK is sent again, no retransmission counted (R422). -/
def execNakRetry (flow psn : Nat) : Meaning := M.next (do
  let run ← getFld Fl.NRT_CTRL_RUN
  let fl ← getFlow flow
  if run = 1 ∧ fl.state = 1 then
    match fl.tx.find? (fun x => decide (x.psn = psn) && x.retryAt.isSome) with
    | none => pure ()
    | some x =>
      if fl.loopback then
        modTx flow psn (fun y => { y with retryAt := none })
        rxAny { x.pkt with port := 15, retx := true }
      else retransmit flow x false
  nrtSync)

/-- FLOW_FAIL: no usable path for 100 ms, or 100 ms without any acknowledgement of what is held (R432). -/
def execFlowFail (flow : Nat) : Meaning := M.next (do
  let paths ← look (fun s => (s.choosePath flow false none).isSome)
  let fl ← getFlow flow
  if (!fl.loopback && !paths) || !fl.tx.isEmpty then flowFail flow)

/-- RATE_PERIOD: a period with no CE mark lowers α and raises the rate (R442). -/
def execRatePeriod (flow : Nat) : Meaning := M.next (do
  let g ← look (·.gain)
  let ai ← look (fun s => max (s.fld Fl.NRT_RATE_AI) 1)
  let lo ← look (·.rateMin)
  modFlow flow (fun fl =>
    if fl.ceInPeriod then { fl with ceInPeriod := false }
    else
      let r := fl.rate.add (Dy.ofInt (ai : Nat))
      { fl with alpha := fl.alpha.mul ((Dy.ofInt 1).sub g), rate := rateFloor (if fl.rate0.lt r then fl.rate0 else r) lo }))

/-- RING_FULL_TIMEOUT: a ring full for 1 ms (R436); where it has refused a WRITE_NOTIFY the event concerns that packet's flow and Slate (R443). -/
def execRingFullTimeout (ring : Nat) : Meaning := M.next (do
  let was ← look (fun s => s.nrt.ringFull.find? (fun x => decide (x.1 = ring)))
  let full ← look (fun s => (s.ring ring).full)
  act (.nrt (fun n => { n with ringFull := n.ringFull.filter (fun r => decide (r.1 ≠ ring)) }))
  if full then
    match was with
    | some x => flowEvent Ev.nrtRingFull x.2.1 0 x.2.2
    | none => raise Ev.nrtRingFull (srcUnit mNrt) 0 0)

/-! Keys. -/

/-- The staged entry's bytes. -/
def State.staged (s : State) : List Byte := (List.range 8).flatMap (fun w => leBytes 4 (s.reg (Reg.KEYT_STAGE w)).toNat)

/-- INSTALL: the staged entry becomes VALID under the entry's own GEN, or is refused (R420). -/
def installKey (i : Nat) : M Unit := do
  let b ← look (·.staged)
  let e ← look (·.keyEntry i)
  if e.state ≠ 0 ∨ !keyEntryOk b then setBit Fl.KEYT_STATUS_REFUSED
  else
    modKey i (fun e => { KeyEntry.decode b with gen := e.gen })
    let salt ← getFld Fl.KEYT_SALT_SALT
    let ig := i + e.gen * 2 ^ 18
    setReg Reg.KEYT_KEY (BitVec.ofNat 32 (ig + keyCheck salt ig * 2 ^ 26))

/-- REVOKE: the entry becomes REVOKING, or the command is refused (R420, R440). -/
def revokeKey (i : Nat) : M Unit := do
  let e ← look (·.keyEntry i)
  if e.state ≠ 1 then setBit Fl.KEYT_STATUS_REFUSED
  else
    modKey i (fun e => { e with state := 2, slowRaised := false })
    keySync

/-- CLEAR: every entry FREE with GEN 0, refused while one is REVOKING (R420). -/
def clearKeys : M Unit := do
  let busy ← look (fun s => s.nrt.keys.any (fun e => decide (e.2.state = 2)))
  if busy then setBit Fl.KEYT_STATUS_REFUSED else act .keysClear

/-- A write of KEYT_CMD by keeper firmware starts the command OP names; OP then reads 0 (R449). -/
def keytCmdWrite (master value : Nat) : M Unit := do
  regWrite master Reg.KEYT_CMD value
  if master = mKeeper then
    setFld Fl.KEYT_CMD_OP 0
    let i := bitsOf value 17 0
    match bitsOf value 19 18 with
    | 1 => installKey i
    | 2 => revokeKey i
    | 3 => clearKeys
    | _ => pure ()

/-- KEY_INSTALL, KEY_REVOKE and KEY_CLEAR. -/
def execKeyInstall (master value : Nat) : Meaning := M.next (keytCmdWrite master value)
def execKeyRevoke (master value : Nat) : Meaning := M.next (keytCmdWrite master value)
def execKeyClear (master value : Nat) : Meaning := M.next (keytCmdWrite master value)

/-- An event of a key's revocation, with the key's guest kept for those entitled to the record (R440, R589). -/
def keyEvent (e : Ev) (guest : Nat) : M Unit := do
  let seq ← look (fun s => s.evSeq % 256)
  act (.nrt (fun n => { n with keyEvents := (seq, guest) :: n.keyEvents.filter (fun x => decide (x.1 ≠ seq)) }))
  raise e srcHub 0 0

/-- KEY_RETIRE: a REVOKING entry with INUSE 0 becomes FREE, its GEN one more (R440). -/
def execKeyRetire (index : Nat) : Meaning := M.next (do
  let e ← look (·.keyEntry index)
  if e.state = 2 ∧ e.inuse = 0 then
    modKey index (fun e => { KeyEntry.free with gen := (e.gen + 1) % 256 })
    setBit Fl.KEYT_STATUS_DONE
    keySync
    keyEvent Ev.keyRevoked e.guest)

/-- KEY_REVOKE_SLOW: INUSE still above 0 after 10 ms, once (R440). -/
def execKeyRevokeSlow (index : Nat) : Meaning := M.next (do
  let e ← look (·.keyEntry index)
  if e.state = 2 ∧ e.inuse ≠ 0 ∧ !e.slowRaised then
    modKey index (fun e => { e with slowRaised := true })
    keyEvent Ev.keyRevokeSlow e.guest)

/-! Flows. -/

/-- A flow record's paths (R424). -/
def recordPaths (b : List Byte) : List NPath :=
  (List.range 8).map (fun p =>
    let o := 32 + 20 * p
    let x := leAt b o 1
    { port := bitsOf x 3 0, ipv6 := bitOf x 6, valid := bitOf x 7, ip := if bitOf x 6 then leAt b (o + 4) 16 else leAt b (o + 16) 4 })

/-- What a context holds ends with it: its unfinished sends never complete (R432), and the accesses it has admitted and not finished are counted by their
keys no longer (R440). -/
def dropAdmitted (f : Nat) : M Unit := do
  let fl ← getFlow f
  act (.nrt (fun n => { n with lost := n.lost ++ ((fl.tx.filter (·.tile.isSome)).map (·.pkt.slate)) }))
  for x in fl.notes do keyDone x.pkt.key
  for x in fl.held.filter (fun h => !fl.notes.any (fun n => decide (n.psn = h.psn))) do keyDone x.pkt.key
  for x in fl.reads do keyDone x.pkt.key

/-- Install a flow record (R423, R424, R448): refused where its context or its address breaks a rule. -/
def installFlow (f : Nat) (b : List Byte) : M Unit := do
  let me ← look (·.me)
  let mgmt := decide (4032 ≤ f)
  let bad := mgmt && (decide (f = 4032 + me) || decide (leAt b 6 1 ≠ 0) || decide (leAt b 7 1 ≠ f - 4032) ||
    decide (bitsOf (leAt b 2 2) 11 0 ≠ 4032 + me))
  if bad then setBit Fl.NRT_STATUS_REFUSED
  else
    let paths := recordPaths b
    act (.nrt (fun n => { n with hops := n.hops ++ ((paths.filter (·.valid)).map (fun x => (x.port, x.ip))).filter (fun h => !n.hops.contains h) }))
    let sum ← look (fun s => ((paths.filter (fun x => s.pathUsable x false)).map (fun x => speedRate (s.fld (Fl.MAC_STATUS_SPEED x.port)))).sum)
    let cap := leAt b 8 1 * 10
    let lo ← look (·.rateMin)
    let r := rateFloor (Dy.ofInt ((if cap = 0 then sum else min cap sum : Nat))) lo
    dropAdmitted f
    modFlow f (fun fl => { Flow.free with
      lastEvent := fl.lastEvent
      state := 1, epoch := leAt b 4 1, peerFlow := bitsOf (leAt b 2 2) 11 0, loopback := bitOf (leAt b 5 1) 0, big := bitOf (leAt b 5 1) 1
      guest := leAt b 6 1, peerModule := leAt b 7 1, rateMax := leAt b 8 1, paths := paths, rate := r, rate0 := r })
    let a ← look (fun s => s.reg64 Reg.NRT_DEDUP_BASE_LO + f * 1024)
    act (.undef a 1024)
  nrtSync

/-- INSTALL (R447, R448). -/
def flowInstall (value : Nat) : M Unit := do
  if bitOf value 12 then
    let a ← look (·.reg64 Reg.NRT_FLOW_REC_LO)
    if !inT1Table a 192 then setBit Fl.NRT_STATUS_REFUSED
    else
      let b ← memBytes a 192
      let own ← look (·.ownerBit)
      byteTraffic false a 192 (some own) (some mNrt) (some 1)
      installFlow (bitsOf value 11 0) b

/-- RESET raises the epoch and clears both PSN spaces (R432, R437). -/
def flowReset (value : Nat) : M Unit := do
  let f := bitsOf value 11 0
  let fl ← getFlow f
  if bitOf value 13 ∧ fl.state ≠ 0 then
    dropAdmitted f
    modFlow f (fun fl => { Flow.free with
      state := 1, epoch := (fl.epoch + 1) % 256, peerFlow := fl.peerFlow, loopback := fl.loopback, big := fl.big, guest := fl.guest
      peerModule := fl.peerModule, rateMax := fl.rateMax, paths := fl.paths, rate := fl.rate0, rate0 := fl.rate0, lastEvent := fl.lastEvent })
    let a ← look (fun s => s.reg64 Reg.NRT_DEDUP_BASE_LO + f * 1024)
    act (.undef a 1024)
  nrtSync

/-- A write of NRT_FLOW_SEL, with INSTALL, with RESET or with neither (R447). -/
def flowSelWrite (master value : Nat) : M Unit := byMaster master Reg.NRT_FLOW_SEL (do
  regWrite master Reg.NRT_FLOW_SEL value
  flowInstall value
  flowReset value)

/-- FLOW_INSTALL and FLOW_RESET. -/
def execFlowInstall (master value : Nat) : Meaning := M.next (flowSelWrite master value)
def execFlowReset (master value : Nat) : Meaning := M.next (flowSelWrite master value)

/-- A write of NRT_CTRL: RUN from 0 to 1 checks the bases (R445, R447); with RUN clear nothing is sent, what waits at the ports goes back to its flows, and
every packet is dropped. -/
def nrtCtrlWrite (master value : Nat) : M Unit := byMaster master Reg.NRT_CTRL (do
  let was ← getFld Fl.NRT_CTRL_RUN
  regWrite master Reg.NRT_CTRL value
  let now ← getFld Fl.NRT_CTRL_RUN
  if was = 0 ∧ now = 1 then
    let ok ← look (fun s => inT1Table (s.reg64 Reg.NRT_RING_BASE_LO) 2048 && inT1Table (s.reg64 Reg.NRT_DEDUP_BASE_LO) 0x400000)
    if !ok then
      setFld Fl.NRT_CTRL_RUN 0
      setBit Fl.NRT_STATUS_BADBASE
  if was = 1 ∧ now = 0 then
    for n in List.range 9 do
      let p ← getPort n
      modPort n (fun p => { p with held := p.held.filter (fun x => !isPacket x.2.2) })
      for x in p.held do
        match x.2.2 with
        | .packet k => takeBack k
        | _ => pure ())

/-- NRT_RUN_WRITE. -/
def execNrtRunWrite (master value : Nat) : Meaning := M.next (nrtCtrlWrite master value)

/-! Waiting reads and writes. -/

/-- A waiting move of a tile whose version has come goes on (R282, R355). -/
def resumeMove (n : Nat) : M Unit := do
  let t ← getTile n
  match t.moveQ.find? (·.held) with
  | none => pure ()
  | some m =>
    let v ← look (·.versionOf (slateStep m.slate))
    let x ← look (·.objAt m.target.target)
    match x.judge v with
    | .wait => pure ()
    | .retired =>
      modTile n (fun t => { t with moveQ := t.moveQ.filter (fun y => decide (y ≠ m)) })
      verRetired (srcTile n) m.target.target v m.slate
    | .proceed =>
      let ok ← shardRead n m.target.target v m.slate
      if ok then modTile n (fun t => { t with moveQ := t.moveQ.map (fun y => if y = m then { y with held := false } else y) })
      else modTile n (fun t => { t with moveQ := t.moveQ.filter (fun y => decide (y ≠ m)) })

/-- VERSIONED_READ_RESUME: a read waiting for its VER goes on when VER equals its version: a move of a tile, or a READ_REQ of a flow (R282). -/
def execVersionedReadResume (flow : Bool) (n : Nat) : Meaning := M.next (do
  if flow then
    let fl ← getFlow n
    match fl.reads with
    | [] => pure ()
    | r :: rest =>
      let j ← look (·.readJudge r.pkt)
      match j.1 with
      | .wait => pure ()
      | .proceed =>
        modFlow n (fun fl => { fl with reads := rest })
        serveRead n r.pkt
        nrtSync
      | .retired =>
        modFlow n (fun fl => { fl with reads := rest })
        keyDone r.pkt.key
        verRetired (srcUnit mNrt) j.2.1 j.2.2 r.pkt.slate
  else resumeMove n)

/-- SLOT_B_WRITE_RELEASE: a held write into slot B goes on once nothing needs the old version (R283): the update die's, or the oldest held
write of a flow. -/
def execSlotBWriteRelease (upd : Bool) (flow : Nat) : Meaning := M.next (do
  if upd then
    let u ← look (·.upd)
    match u.run with
    | none => pure ()
    | some r =>
      let obj ← look (fun s => match r.work with
        | some (.apply i _ _ _) => (s.group i).obj
        | some (.copy i) => (s.group i).obj
        | _ => 0xFFFF)
      let wait ← look (·.slotHeld obj (r.cmd.t % 2))
      if r.held ∧ !wait then
        groupFinish
        updComplete
        updTakeUp
  else
    let fl ← getFlow flow
    match fl.held with
    | [] => pure ()
    | h :: rest =>
      let wait ← look (·.writeHeld h.pkt)
      if !wait then
        modFlow flow (fun fl => { fl with held := rest })
        landWrite flow h.pkt
        placePsn flow h.psn
        nrtSync)

end Sys2Proof.Machine
end

