-- ==== Sys2Proof/Machine/MoveCmds.lean ====
section
/-! DEFINITION. The moves and the sends of a tile program (R212, R235, R236, R239, R242, R243, R275, R282), and the cue (R244, R286 to R293). -/

namespace Sys2Proof.Machine

/-! Moves. -/

/-- What a MOVE or NET micro-op that names a target-table entry faults on (R239, R240): an effective line or local span beyond the
scratchpad, a REF beyond the table, an entry of another TYPE. A list-driven one names no line. -/
def State.targetFor (s : State) (n w type : Nat) (list : Bool) : Option Target16 :=
  let t := s.tile n
  if !list ∧ 32768 < t.effLine w + uopCount w then none
  else match t.targets[uopRef w]? with
    | none => none
    | some e => if e.type = type then some e else none

/-- Issue a move: it waits while the movers' queue is full (R231). -/
def moveIssue (n : Nat) (m : Move) : M Unit := do
  let t ← getTile n
  if 8 ≤ t.moveQ.length then uopWait n
  else
    modTile n (fun t => { t with moveQ := t.moveQ ++ [m] })
    uopDone n

/-- A move of the micro-op at the program counter. -/
def moveOf (n : Nat) (kind : MoveKind) (w remote list : Nat) (e : Target16) : M Move := do
  let t ← getTile n
  let slate ← look (·.slate n)
  let pc ← look (·.pc n)
  pure ⟨kind, t.effLine w, uopCount w, remote, e, list, slate, pc, false, t.issued⟩

/-- MOVE_LOCAL: source and destination walk with the same index; a span beyond line 32,767 is a program fault (R239, R240). -/
def execMoveLocal (tile : Nat) : Meaning := M.next (withUop tile 4 0 fun w => do
  let t ← getTile tile
  let dst := (uopRef w * 4 + t.walk w) % 2 ^ 24
  if 32768 < t.effLine w + uopCount w ∨ 32768 < dst + uopCount w then programFault tile
  else
    let m ← moveOf tile .localCopy w dst 0 ⟨0, 0, 0, 0⟩
    moveIssue tile m)

/-- MOVE TO_TILE: lines to another logical tile of the module. -/
def execMoveToTile (tile : Nat) : Meaning := M.next (withUop tile 4 1 fun w => do
  let e ← look (·.targetFor tile w 0 false)
  let t ← getTile tile
  match e with
  | none => programFault tile
  | some e =>
    if 179 < e.aux then programFault tile
    else
      let m ← moveOf tile .toTile w (e.offset + t.walk w) 0 e
      moveIssue tile m)

/-- A move beyond SIZE writes nothing: EV_OBJECT_BOUNDS, and it fails the Take or stops the job (R275). It has issued. -/
def moveBounds (n : Nat) (m : Move) : M Unit := do
  uopDone n
  sampleDone n m.ord
  failUnit n Ev.objectBounds m.slate 0 m.pc m.line false

/-- MOVE FROM_OBJ: lines of an object's selected place. A versioned read is judged against VER and the shard log: it goes on, waits, or is refused
(R275, R282, R355). -/
def execMoveFromObj (tile : Nat) : Meaning := M.next (withUop tile 4 2 fun w => do
  let e ← look (·.targetFor tile w 1 false)
  let t ← getTile tile
  let count ← look (·.objCount)
  match e with
  | none => programFault tile
  | some e =>
    if count ≤ e.target then programFault tile
    else if 8 ≤ t.moveQ.length then uopWait tile
    else
      let m ← moveOf tile .fromObj w (e.offset + t.walk w) 0 e
      let o ← look (·.objAt e.target)
      let v ← look (·.versionOf (slateStep m.slate))
      if o.size < (m.remote + m.count) * 96 then moveBounds tile m
      else match o.judge v with
        | .retired =>
          uopDone tile
          sampleDone tile m.ord
          verRetired (srcTile tile) e.target v m.slate
        | .wait => moveIssue tile { m with held := true }
        | .proceed =>
          moveIssue tile m
          let ok ← shardRead tile e.target v m.slate
          if !ok then
            modTile tile (fun t => { t with moveQ := t.moveQ.filter (fun y => decide (y.ord ≠ m.ord)) })
            sampleDone tile m.ord)

/-- MOVE TO_OBJ: lines to an unversioned object; a versioned one is a program fault (R275). -/
def execMoveToObj (tile : Nat) : Meaning := M.next (withUop tile 4 3 fun w => do
  let e ← look (·.targetFor tile w 1 false)
  let t ← getTile tile
  let count ← look (·.objCount)
  match e with
  | none => programFault tile
  | some e =>
    let o ← look (·.objAt e.target)
    if count ≤ e.target ∨ o.versioned then programFault tile
    else if 8 ≤ t.moveQ.length then uopWait tile
    else
      let m ← moveOf tile .toObj w (e.offset + t.walk w) 0 e
      if o.size < (m.remote + m.count) * 96 then moveBounds tile m else moveIssue tile m)

/-- The tile of placement p in the job image's placement tables, whose entries are those of R203. -/
def State.placementTile (s : State) (p : Nat) : Nat :=
  match s.job with
  | none => 0
  | some j =>
    match j.sections.find? (fun x => decide (x.type = 0x0A)) with
    | none => 0
    | some x => s.le (j.base + x.offset + 8 * p + 3) 1

/-- A list-driven move: its PLACEMENT entry names the buffers, its LINE the list (R239). -/
def listMove (tile w : Nat) (kind : MoveKind) : M Unit := do
  let e ← look (·.targetFor tile w 3 true)
  match e with
  | none => programFault tile
  | some e =>
    let d ← look (·.placementTile e.aux)
    if 179 < d then programFault tile
    else
      let m ← moveOf tile kind w d (uopLine w) e
      moveIssue tile m

/-- LIST_OUT and LIST_BACK. -/
def execListOut (tile : Nat) : Meaning := M.next (withUop tile 4 4 fun w => listMove tile w .listOut)
def execListBack (tile : Nat) : Meaning := M.next (withUop tile 4 5 fun w => listMove tile w .listBack)

/-- The lines of a move: one beyond the 3 MiB of a scratchpad is unmapped (R4). -/
def moveAll (n slate : Nat) (ls : List (Nat × Nat)) : M Unit := do
  for l in ls.filter (fun l => !storage l.2) do raise Ev.unmappedAccess (srcTile n) (l.2 % 2 ^ 48) slate
  copyLines slate (ls.filter (fun l => storage l.2))

/-- Scale bytes arrive, and a line that takes bytes of a poisoned one is poisoned with them (R582), unless it is locked (R219). -/
def scaleArrive (slate : Nat) (x : ScaleRun) : M Unit := do
  writeDev slate x.dst x.bytes
  for b in x.bad do
    let locked ← look (·.lockedAt b.2)
    if !locked then poisonLine b.2

/-- MOVE_COMPLETE: the oldest move is done, line by line with each line's poison, and signals behind it are let go (R211, R242, R243, R582, R583). -/
def execMoveComplete (tile : Nat) : Meaning := M.next (do
  let t ← getTile tile
  match t.moveQ with
  | [] => pure ()
  | m :: rest =>
    let list := decide (m.kind = .listOut ∨ m.kind = .listBack)
    if m.held then pure ()
    else if list ∧ t.buildBefore m.ord m.list then bump (Reg.TILE_DSP_STALL_LO tile) 1
    else
      modTile tile (fun t => { t with moveQ := rest })
      let ls ← look (·.moveLines tile m)
      let scales ← look (·.moveScales tile m)
      let bad ← look (fun s => (ls.filter (fun l => s.poisoned l.1)).length + countDistinct (scales.flatMap (fun x => x.bad.map (·.1))))
      countPoison bad
      pmuTile tile 0x18 bad (some m.pc) m.slate false
      pmuTile tile 0x0F ls.length (some m.pc) m.slate true
      let own ← look (·.ownerBit)
      match m.kind, ls with
      | .fromObj, l :: _ => traffic false l.1 ls.length own tile 2
      | .toObj, l :: _ => traffic true l.2 ls.length own tile 2
      | _, _ => pure ()
      moveAll tile m.slate ls
      for x in scales do scaleArrive m.slate x
      modTile tile (fun t => { t with
        signals := t.signals.map (fun x => if m.ord < x.ord ∧ m.toward tile x.tile then { x with after := x.after - 1 } else x) })
      sampleDone tile m.ord)

/-! Sends. -/

/-- Issue a send, and let the engine take what it can (R231, R427). A KEY entry's context must not be a management one, nor be
FREE when the micro-op issues (R240). -/
def sendIssue (n w : Nat) (kind : SendKind) : M Unit := do
  let list := decide (kind = .list)
  let e ← look (·.targetFor n w (if list then 3 else 2) list)
  let t ← getTile n
  match e with
  | none => programFault n
  | some e =>
    let fl ← getFlow e.aux
    if !list ∧ 4032 ≤ e.aux then programFault n
    else if 16 ≤ t.sendQ.length then uopWait n
    else if !list ∧ fl.state = 0 then programFault n
    else
      let slate ← look (·.slate n)
      let pc ← look (·.pc n)
      let q : SendItem := ⟨kind, t.effLine w, uopCount w, e.offset + t.walk w * 96, e, uopLine w, slate, pc, t.issued⟩
      modTile n (fun t => { t with sendQ := t.sendQ ++ [q] })
      uopDone n
      pumpSends n

/-- SEND, SEND_NOTIFY and SEND_LIST. -/
def execSend (tile : Nat) : Meaning := M.next (withUop tile 5 0 fun w => sendIssue tile w .plain)
def execSendNotify (tile : Nat) : Meaning := M.next (withUop tile 5 1 fun w => sendIssue tile w .notify)
def execSendList (tile : Nat) : Meaning := M.next (withUop tile 5 2 fun w => sendIssue tile w .list)

/-! The cue. -/

/-- The CUE waits. -/
def cueWait (n : Nat) : M Unit := do
  uopWait n
  let pc ← look (·.pc n)
  let slate ← look (·.slate n)
  pmuTile n 0x12 1 (some pc) slate false

/-- The controller's phase follows the cues of the job's lowest-numbered tile (R521). -/
def setLastCue (n cue : Nat) : M Unit := do
  if n = 0 then
    act (.hub (fun h => { h with lastCue := some cue }))
    phaseEntry

/-- An entry armed for another occurrence is transferred again for the CUE's Slate (R290). -/
def cueAgain (n slate e : Nat) : M Unit := do
  bump (Reg.REEL_COUNT_LO 6) 1
  let k ← look (·.cueSeq n)
  modXfer e n (fun x => { x with step := slateStep slate, mb := slateMb slate, st := .queued, reached := some k })
  reelJudge e n
  let en ← look (·.entry e)
  if en.deadline = 0 ∧ !en.alt then reelMiss e n (slateStep slate) (slateMb slate)
  reelSync

/-- CUE: reached, it waits until every applying entry is placed or has taken its fallback, compares their occurrences with its own Slate, and
issues; a placed entry with a fallback jumps over its alternate block (R244, R286 to R293). -/
def execCue (tile : Nat) : Meaning := M.next (withUop tile 7 0 fun w => do
  let t ← getTile tile
  let cue := (bitsOf w 15 0 + t.walk w) % 65536
  let slate ← look (·.slate tile)
  let pc ← look (·.pc tile)
  let copying ← look (·.reel.copying)
  if copying then cueWait tile
  else
    if !t.cueReached then
      modTile tile (fun t => { t with cueReached := true })
      cueReached tile cue slate
    let app ← look (·.applying tile cue)
    let waits ← look (fun s => app.any (fun p => !s.entryResolved p.1 tile))
    if waits then cueWait tile
    else
      let bad ← look (fun s => (app.filterMap (fun p => s.entryHolder p.1 tile)).filter (fun e => s.entryMismatch e tile slate))
      if !bad.isEmpty then
        for e in bad do cueAgain tile slate e
        cueWait tile
      else
        let skip ← look (fun s => app.find? (fun p => decide (p.2.fallback ≠ 0) && (s.xfer p.1 tile).any (fun x => decide (x.st = .placed))))
        cueConsume tile cue slate
        setLastCue tile cue
        match skip with
        | some p => if p.2.rskip = 0 then uopDone tile else uopJump tile (pc + 1 + p.2.rskip)
        | none => uopDone tile)

end Sys2Proof.Machine
end

