-- ==== Sys2Proof/Machine/ReelCmds.lean ====
section
/-! DEFINITION. The commands of the Reel engine (R274, R287 to R292, R300 to R304). -/

namespace Sys2Proof.Machine

/-- May the Reel run: both bases and counts pass R302 and R303? -/
def State.reelBasesOk (s : State) : Bool :=
  let ok := fun (base count size : Nat) => decide (1 ≤ count ∧ count ≤ 65536) && inT1Table base (count * size)
  ok (s.reg64 Reg.REEL_OT_BASE_LO) (s.fld Fl.REEL_OT_COUNT_COUNT) 64 && ok (s.reg64 Reg.REEL_TAB_BASE_LO) (s.fld Fl.REEL_TAB_COUNT_COUNT) 32

/-- RUN set: the copy of the tables begins, or BADBASE is set (R300, R301). -/
def reelStart : M Unit := do
  let ok ← look (·.reelBasesOk)
  if !ok then
    setFld Fl.REEL_CTRL_RUN 0
    setBit Fl.REEL_STATUS_BADBASE
  else
    setFld Fl.REEL_CTRL_RUN 1
    act (.reel (fun r => { r with copying := true, ready := false, xfers := [], takeRecord := [], inexactSteps := [] }))

/-- A write of REEL_CTRL. -/
def reelCtrlWrite (master value : Nat) : M Unit := byMaster master Reg.REEL_CTRL (do
  let was ← getFld Fl.REEL_CTRL_RUN
  regWrite master Reg.REEL_CTRL value
  let now ← getFld Fl.REEL_CTRL_RUN
  if was = 0 ∧ now = 1 then reelStart
  if was = 1 ∧ now = 0 then reelStop)

/-- REEL_RUN_WRITE. -/
def execReelRunWrite (master value : Nat) : Meaning := M.next (reelCtrlWrite master value)

/-- REEL_TABLE_COPY_DONE: the tables stand in the hub's SRAM; entries with START 0xFFFF arm (R274, R287). -/
def execReelTableCopyDone : Meaning := M.next (do
  let copying ← look (·.reel.copying)
  if copying then
    let os ← look (fun s => (List.range (s.fld Fl.REEL_OT_COUNT_COUNT)).map (fun i =>
      Obj.decode (s.bytes (s.reg64 Reg.REEL_OT_BASE_LO + 64 * i) 64)))
    let es ← look (fun s => (List.range (s.fld Fl.REEL_TAB_COUNT_COUNT)).map (fun i =>
      ReelEntry.decode (s.bytes (s.reg64 Reg.REEL_TAB_BASE_LO + 32 * i) 32)))
    let tabs ← look (fun s => [(s.reg64 Reg.REEL_OT_BASE_LO, 64 * s.fld Fl.REEL_OT_COUNT_COUNT), (s.reg64 Reg.REEL_TAB_BASE_LO, 32 * s.fld Fl.REEL_TAB_COUNT_COUNT)])
    let own ← look (·.ownerBit)
    for x in tabs do byteTraffic false x.1 x.2 (some own) (some mReel) (some 0)
    act (.reel (fun r => { r with copying := false, ready := true, objects := os, entries := es, verDue := [], commits := [] }))
    for e in es.zipIdx.filter (fun e => decide (e.1.start = 0xFFFF) && !e.1.alt) do
      for i in List.range (e.1.ntm1 + 1) do armEntry e.2 (e.1.tile0 + i) 0 0
    reelSync)

/-- REEL_ENTRY_PLACED: a transfer in flight places its lines with their poison; a shard read whose GEN differs is refused
(R288, R289, R355, R582). -/
def execReelEntryPlaced (entry tile : Nat) : Meaning := M.next (do
  let x ← look (·.xfer entry tile)
  let ready ← look (·.reel.ready)
  match x with
  | none => pure ()
  | some x =>
    reelJudge entry tile
    let fly ← look (·.inFlight x)
    if ready ∧ x.st = .queued ∧ fly then
      let en ← look (·.entry entry)
      let o ← look (·.objAt en.obj)
      let sd ← look (·.xferSrc x)
      let dst ← look (·.xferDst x)
      let slate := mkSlate x.step x.mb 0 0 0
      let ok ← (if o.versioned then shardRead tile en.obj sd.1 slate else pure true)
      if !ok then
        act (.reel (fun r => { r with xfers := r.xfers.filter (fun y => decide (y ≠ x)) }))
        reelSync
      else
        let n := en.lines + 1
        let bad ← look (fun s => ((List.range n).filter (fun i => s.poisoned (sd.2 + i * 96))).length)
        countPoison bad
        let own ← look (·.ownerBit)
        traffic false sd.2 n own mReel 0
        if en.dtierT1 then traffic true dst n own mReel 0
        copyLines slate ((List.range n).map (fun i => (sd.2 + i * 96, dst + i * 96)))
        bump (Reg.REEL_COUNT_LO 0) n
        modXfer entry tile (fun y => { y with st := .placed })
        reelSync)

/-- The effective number of the CUE a tile stands at, if it stands at one that has been reached. -/
def State.atCue (s : State) (n : Nat) : Option Nat :=
  let t := s.tile n
  let w := s.uop n
  if t.cueReached ∧ uopCls w = 7 then some ((bitsOf w 15 0 + t.walk w) % 65536) else none

/-- REEL_DEADLINE_MISS: an entry still not placed when its grace has run out misses, once for each reaching of its cue (R291, R292). -/
def execReelDeadlineMiss (entry tile : Nat) : Meaning := M.next (do
  let cue ← look (·.atCue tile)
  let en ← look (·.entry entry)
  let app ← look (fun s => (s.applying tile en.cue).any (fun p => decide (p.1 = entry)))
  let x ← look (·.xfer entry tile)
  let open' : Bool := match x with
    | none => true
    | some x => decide (x.st = .queued) && !x.missed
  if cue = some en.cue ∧ app ∧ open' then
    let slate ← look (·.slate tile)
    reelMiss entry tile (slateStep slate) (slateMb slate))

/-- VER_WRITE_BACK: the changed VER fields of an object are written into the table in T1 (R274). -/
def execVerWriteBack (object : Nat) : Meaning := M.next (do
  let due ← look (fun s => s.reel.verDue.filter (fun e => decide (e.1 = object)))
  let base ← look (·.reg64 Reg.REEL_OT_BASE_LO)
  let o ← look (·.objAt object)
  let own ← look (·.ownerBit)
  for d in due do
    tierWrite (base + 64 * object + 40 + 4 * d.2) (leBytes 4 (if d.2 = 0 then o.ver0 else o.ver1))
    byteTraffic true (base + 64 * object + 40 + 4 * d.2) 4 (some own) (some mReel) (some 0)
  act (.reel (fun r => { r with verDue := r.verDue.filter (fun e => decide (e.1 ≠ object)) })))

end Sys2Proof.Machine
end

