-- ==== Sys2Proof/Machine/SwapOps.lean ====
section
/-! DEFINITION. Stand-in swaps (R592, R593): the choice of a stand-in, the change of the map, the resident region (R258). -/

namespace Sys2Proof.Machine

/-- An uncorrectable error: counted, marked and told of (R580, R604). -/
def uncorrected (src : Nat × Nat) (detail : Nat) : M Unit := do
  bump (Reg.RAS_COUNT_LO 2) 1
  setBit Fl.RAS_STATUS_UE
  raiseEvent { evOf Ev.eccUncorrected src detail 0 with hw := true }

/-- The same in an SRAM, by its unit and word (R580). -/
def sramDetail (unit word : Nat) : Nat := Config.sramUnit unit % 2 ^ Config.sramUnitBits + word * 2 ^ Config.sramUnitBits
def uncorrectedSram (src : Nat × Nat) (unit word : Nat) : M Unit := uncorrected src (sramDetail unit word)

/-- The reticle field of a physical tile (R590). -/
def fieldOf (p : Nat) : Nat := p / 64

/-- The stand-ins left, in ascending physical order: physical tiles that serve no logical tile and have not been taken out of service. -/
def State.standins (s : State) : List Nat :=
  (List.range 192).filter (fun p => (s.logicalOf p).isNone && !s.hub.retired.contains p)

/-- The stand-in for a physical tile: of its own field first (R593). -/
def State.standinFor (s : State) (p : Nat) : Option Nat :=
  match s.standins.find? (fun q => decide (fieldOf q = fieldOf p)) with
  | some q => some q
  | none => s.standins.head?

/-- RAS_SPARES follows the stand-ins and the spare rows of the tiles in service (R603). -/
def sparesSync : M Unit := do
  let st ← look (·.standins)
  let rows ← look (fun s => 180 * 64 - (s.hub.rows.filter (fun r => (s.logicalOf r.1).isSome)).length)
  setFld Fl.RAS_SPARES_FIELD0 (st.filter (fun p => decide (fieldOf p = 0))).length
  setFld Fl.RAS_SPARES_FIELD1 (st.filter (fun p => decide (fieldOf p = 1))).length
  setFld Fl.RAS_SPARES_FIELD2 (st.filter (fun p => decide (fieldOf p = 2))).length
  setFld Fl.RAS_SPARES_ROWS rows

/-- A scratchpad whose content is lost as at a wake from OFF (R510): undefined bytes, no line poisoned. -/
def loseT0 (p : Nat) : M Unit := do
  act (.undef (physBase p) tileBytes)
  let ks ← look (fun s => (s.poison0.filter (fun e => decide (e.1 / 32768 = p))).map (·.1))
  for k in ks do act (.poison0 k false)

/-- The map of a logical tile changes to a physical tile (R592 step 4): the old tile is OFF and out of service, the new one ON. -/
def remap (n new : Nat) : M Unit := do
  let old ← look (·.physOf n)
  setFld (Fl.RAS_TILEMAP_PHYS n) new
  setFld (Fl.RAS_TILEMAP_SWAPPED n) 1
  act (.hub (fun h => { h with retired := h.retired ++ [old] }))
  act (.phys old .off)
  tileOn new
  sparesSync
  bump (Reg.RAS_COUNT_LO 4) 1

/-- EV_STANDIN_SWAP with its detail (R635). -/
def swapEvent (n old new : Nat) (planned : Bool) (slate : Nat) : M Unit :=
  raiseEvent { evOf Ev.standinSwap (srcTile n) (old + new * 256 + (if planned then 65536 else 0)) slate with hw := !planned }

/-- The resident regions of a logical tile, loaded from the job image (R255, R258, R259). -/
def loadResident (n : Nat) : M Unit := do
  let j ← look (·.job)
  match j with
  | none => pure ()
  | some j =>
    let base ← look (·.tileBase n)
    for x in j.sections.zipIdx.filter (fun x => decide (x.1.type = 2 ∧ x.1.index = n)) do
      let bs ← memBytes (j.base + x.1.offset) x.1.length
      memWrite (base + Config.residentLine n x.2 * 96) bs

/-- The Reel's armed entries for a swapped tile start again, into the new physical tile (R296). -/
def reelRestart (n : Nat) : M Unit := do
  act (.reel (fun r => { r with xfers := r.xfers.map (fun x => if x.tile = n then { x with st := .queued, reached := none, missed := false } else x) }))
  reelSync

/-- STANDIN_SWAP_REACTIVE: after a tile fault has failed a Take and the group is aborted, the tile moves to a stand-in and its resident region
is loaded again; with no stand-in left the job stops (R255, R592, R593). -/
def execStandinSwapReactive (tile : Nat) : Meaning := M.next (do
  let t ← getTile tile
  let st ← getFld (Fl.TILE_SEQ_STATUS_STATE tile)
  match t.failed with
  | none => pure ()
  | some f =>
    if f.swap ∧ st = seqAborting then
      let old ← look (·.physOf tile)
      let new ← look (·.standinFor old)
      match new with
      | none =>
        raiseEvent { evOf Ev.standinExhausted (srcTile tile) 0 f.slate with sev := 3, hw := true }
        stopJob Ev.standinExhausted.code
      | some p =>
        loseT0 p
        remap tile p
        loadResident tile
        let own ← look (·.ownerBit)
        let from' ← look (fun s => (s.job.map (fun j => (j.sections.filter (fun x => decide (x.type = 2 ∧ x.index = tile))).map (fun x =>
          (j.base + x.offset, x.length)))).getD [])
        for x in from' do byteTraffic false x.1 x.2 (some own) (some mScrub) (some 5)
        reelRestart tile
        modTile tile (fun t => { t with failed := t.failed.map (fun f => { f with swap := false }) })
        swapEvent tile old p false f.slate)

/-- The word of a tile's program at an address, as the job image has it (R592 step 3). -/
def State.imageUop (s : State) (n pc : Nat) : BitVec 64 :=
  match s.job.bind (fun j => (j.sections.find? (fun x => decide (x.type = 1 ∧ x.index = n))).map (fun x => j.base + x.offset)) with
  | some a => BitVec.ofNat 64 (s.le (a + 8 * pc) 8)
  | none => 0

/-- PLANNED_SWAP_COMPLETE: a tile armed for a swap when it arrived at a cross-module Clapper, and whose arrival is withheld, has been copied whole to its
stand-in, poison included; an instruction word found uncorrectable in the copy is taken from the job image. With no stand-in left the swap is abandoned.
The arrival is then sent (R592, R593, R625). -/
def execPlannedSwapComplete (copy : SwapCopy) : Meaning := M.next (do
  let tile := copy.tile
  let t ← getTile tile
  let armed ← look (fun s => s.hub.swapping.contains tile)
  let chan := match t.wait with
    | .clapx c => some c
    | _ => none
  match chan with
  | none => pure ()
  | some c =>
    if armed then
      let slate ← look (·.slate tile)
      let old ← look (·.physOf tile)
      let new ← look (·.standinFor old)
      act (.hub (fun h => { h with
        swapArmed := h.swapArmed.filter (fun x => decide (x ≠ tile)), swapping := h.swapping.filter (fun x => decide (x ≠ tile)) }))
      swapSync
      match new with
      | none => raise Ev.standinExhausted (srcTile tile) 0 slate
      | some p =>
        loseT0 p
        for pc in copy.bad do
          let w ← look (·.imageUop tile pc)
          uncorrectedSram (srcPhys old) 1 pc
          modTile tile (fun t => { t with im := Store.set (fun a => Config.freeUop tile t.wakes a) t.im pc w })
        for l in List.range 32768 do
          let bs ← memBytes (physBase old + l * 96) 96
          let bad ← look (·.poisoned (physBase old + l * 96))
          memWrite (physBase p + l * 96) bs
          if bad then poisonLine (physBase p + l * 96)
        remap tile p
        reelRestart tile
        modTile tile (fun t => { t with samples := t.samples.map (fun x => { x with swapped := true }) })
        swapEvent tile old p true slate
      hubArrive (c - 16))

end Sys2Proof.Machine
end

