-- ==== Sys2Proof/Machine/UpdCmds.lean ====
section
/-! DEFINITION. The commands of the update die (R312 to R339). -/

namespace Sys2Proof.Machine

/-- UPD_CMD. -/
def execUpdCmd (msg : Msg) : Meaning := M.next (onUpdCmd msg)

/-- LAYER_GRADIENT_PRESENT: every bucket of a layer is written for a step; the command in work takes up the layer's groups (R314). -/
def execLayerGradientPresent (layer step : Nat) : Meaning := M.next (do
  let row ← look (·.layerRow layer)
  let n ← look (fun s => (s.upd.buckets.filter (fun b => decide (b.1 = layer ∧ b.2.1 = step))).length)
  match row with
  | none => pure ()
  | some l =>
    let was ← look (·.gradPresent layer step)
    if l.buckets ≤ n ∧ !was then
      act (.upd (fun u => { u with
        present := u.present ++ [(layer, step)]
        buckets := u.buckets.filter (fun b => decide (¬(b.1 = layer ∧ b.2.1 = step))) }))
      let mine ← look (fun s => (s.upd.run.map (fun r => if slateStep r.cmd.slate = step
        then r.waiting.filter (fun g => decide ((s.group g).layer = layer)) else [])).getD [])
      modRunU (fun r => { r with waiting := r.waiting.filter (fun g => !mine.contains g), ready := r.ready ++ mine }))

/-- GROUP_UPDATE: the next group is judged, and computed where it applies (R316 to R324). -/
def execGroupUpdate : Meaning := M.next (do
  groupUpdate
  updComplete
  updTakeUp)

/-- GROUP_UPDATE_DONE: the results are written (R326 to R330), unless the write into slot B waits under R283; the last group completes the
command (R341). -/
def execGroupUpdateDone : Meaning := M.next (do
  let u ← look (·.upd)
  match u.run with
  | none => pure ()
  | some r =>
    let obj ← look (fun s => match r.work with
      | some (.apply i _ _ _) => (s.group i).obj
      | some (.copy i) => (s.group i).obj
      | _ => 0xFFFF)
    let wait ← look (·.slotHeld obj (r.cmd.t % 2))
    if obj ≠ 0xFFFF && wait then modRunU (fun r => { r with held := true })
    else groupFinish
  updComplete
  updTakeUp)

/-- SNAP_COMMAND: the die takes up the SNAP command at the head of its queue; a group already past v makes it late (R313, R332). -/
def execSnapCommand : Meaning := M.next (do
  let u ← look (·.upd)
  match u.queue with
  | c :: rest =>
    if c.snap ∧ u.snap.isNone then
      act (.upd (fun u => { u with
        queue := rest
        snap := some { cmd := c, left := List.range u.groups.length, records := []
                       next := c.offset + ceilDiv (64 + 32 * u.groups.length) 192 * 192 } }))
      if u.groups.any (fun g => decide (c.t < g.step)) then snapLate c Ev.snapLate
  | [] => pure ()
  updTakeUp)

/-- The manifest of a snapshot (R333). -/
def State.manifest (s : State) (x : SnapRun) : List Byte :=
  let recs := x.records.flatten
  leBytes 4 0x50535754 ++ leBytes 4 x.cmd.t ++ leBytes 8 x.cmd.slate ++ leBytes 8 ((s.job.map (·.jobId)).getD 0) ++
    leBytes 2 ((s.job.map (·.module)).getD 0) ++ leBytes 2 x.records.length ++ leBytes 1 x.cmd.kind ++ List.replicate 11 0 ++
    leBytes 4 (crc32c recs) ++ List.replicate 20 0 ++ recs

/-- SNAP_GROUP_READ: the next group whose STEP is v is read and sent; after the last one the manifest follows (R332, R333). -/
def execSnapGroupRead : Meaning := M.next (do
  let u ← look (·.upd)
  match u.snap with
  | none => pure ()
  | some x =>
    match x.left with
    | [] =>
      let m ← look (·.manifest x)
      nrtWrite x.cmd.flow x.cmd.key x.cmd.offset m x.cmd.slate true none 0
      act (.upd (fun u => { u with snap := none }))
      updSync
    | i :: rest =>
      let g ← look (·.group i)
      if x.cmd.t < g.step then snapLate x.cmd Ev.snapLate
      else if g.step = x.cmd.t ∧ !u.run.any (fun r => decide (r.cmd.t = x.cmd.t) && r.work.isSome) then
        let b ← look (·.snapBytes x.cmd g)
        let bad ← look (·.snapPoison x.cmd g)
        countPoison bad
        let o ← look (·.objAt g.obj)
        if x.cmd.kind ≠ 0 then
          for p in o.pieces g.row0 g.rows do updTraffic false ((if x.cmd.t % 2 = 0 then o.addr0 else o.addr1) + p.1) p.2
        match b with
        | none => snapLate x.cmd Ev.poisonExport
        | some bs =>
          nrtWrite x.cmd.flow x.cmd.key x.next bs x.cmd.slate false none 0
          pmuUpd 0x0A (ceilDiv bs.length 96)
          let rec' := leBytes 2 i ++ leBytes 2 (g.layer + g.sub * 2 ^ 12) ++ leBytes 4 g.row0 ++ leBytes 4 g.rows ++ leBytes 4 g.cols ++
            leBytes 8 x.next ++ leBytes 4 bs.length ++ leBytes 4 (crc32c bs)
          act (.upd (fun u => { u with snap := some { x with
            left := rest, records := x.records ++ [rec'], next := x.next + ceilDiv bs.length 192 * 192 } })))

/-- The scratch region, and its check (R325, R338). -/
def State.scratchOk (s : State) : Bool :=
  let b := s.reg64 Reg.UPDT_SCRATCH_BASE_LO
  let n := s.fld Fl.UPDT_SCRATCH_SIZE_SIZE * 2 ^ 20
  let apart := fun (a k : Nat) => decide (a + k ≤ b) || decide (b + n ≤ a)
  onPair b && (decide (n = 0) || (inT2 b && inT2 (b + n - 1))) &&
    s.tableObjects.all (fun o => apart o.addr0 o.size && (!o.versioned || apart o.addr1 o.size)) &&
    s.upd.groups.all (fun g =>
      let k := tensorBytes g.rows g.cols
      apart g.pAddr k && apart g.s1Addr k && (!g.s2En || apart g.s2Addr k) && apart g.gAddr k && decide (g.scratch ≤ n))

/-- RUN set: the die accepts commands after the scratch checks (R336, R338). -/
def updStart : M Unit := do
  let ok ← look (·.scratchOk)
  setFld Fl.UPDT_CTRL_RUN (if ok then 1 else 0)
  if !ok then setBit Fl.UPDT_STATUS_BADBASE

/-- A write of UPDT_CTRL: RUN from 0 to 1 accepts commands; to 0 it completes the group in progress and drops the queue (R336). -/
def updtCtrlWrite (master value : Nat) : M Unit := byMaster master Reg.UPDT_CTRL (do
  let was ← getFld Fl.UPDT_CTRL_RUN
  regWrite master Reg.UPDT_CTRL value
  let now ← getFld Fl.UPDT_CTRL_RUN
  if was = 0 ∧ now = 1 then updStart
  if was = 1 ∧ now = 0 then updStop)

/-- A write of UPDT_GROUP_CTL; APPLY sets the selected group's FROZEN flag for the commands taken up afterwards (R319,
R339). -/
def groupCtlWrite (master value : Nat) : M Unit := byMaster master Reg.UPDT_GROUP_CTL (do
  regWrite master Reg.UPDT_GROUP_CTL value
  if bitOf value 13 then
    let g ← getFld Fl.UPDT_GROUP_CTL_GROUP
    let v ← getFld Fl.UPDT_GROUP_CTL_FROZEN_VAL
    modGroup g (fun g => { g with frozen := decide (v = 1) }))

/-- UPDT_RUN_WRITE and UPDT_GROUP_APPLY. -/
def execUpdtRunWrite (master value : Nat) : Meaning := M.next (updtCtrlWrite master value)
def execUpdtGroupApply (master value : Nat) : Meaning := M.next (groupCtlWrite master value)

end Sys2Proof.Machine
end

