-- ==== Sys2Proof/Machine/JobOps.lean ====
section
/-! DEFINITION. The job: the checks of its image and the load (R162, R257 to R259, R273 to R275, R298, R311), what loading restarts (R88, R420, R516,
R525, R594), the flash (R564), and the measurement slots (R573). -/

namespace Sys2Proof.Machine

/-! Flash and measurements. -/

/-- A byte of the flash, free where a write of it was cut off; bytes, and their number. -/
def State.flashByte (s : State) (a : Nat) : Byte :=
  match s.rst.torn.find? (·.has a) with
  | some r => Config.tornByte r.epoch a
  | none => Store.get Config.flashByte s.rst.flash a
def State.flashBytes (s : State) (a n : Nat) : List Byte := (List.range n).map (fun i => s.flashByte (a + i))
def State.flashLe (s : State) (a n : Nat) : Nat := leNat (s.flashBytes a n)

/-- The keeper writes the flash. -/
def flashWrite (a : Nat) (bs : List Byte) : M Unit :=
  act (.flash a bs)

/-- A write or an erase of a range of the flash is cut off: what the range then holds is free, until it is written again (R564, R570). -/
def flashTear (a n : Nat) : M Unit := do
  if n = 0 then return
  let v ← freeValue
  act (.rst (fun r => { r with torn := ⟨a, a + n - 1, v, none⟩ :: r.torn }))

/-- The regions of R564 that FLASH_WRITE may write now. -/
def State.flashOpen (s : State) : List (Nat × Nat) :=
  let src := s.fld Fl.OPTS_STATUS_SOURCE
  let k := s.fld Fl.OPTS_STATUS_KEEPER_SLOT
  let g := s.fld Fl.OPTS_STATUS_STAGE_SLOT
  (if src = 1 then [] else [(0, 0x1000)]) ++ (if src = 2 then [] else [(0x1000, 0x2000)]) ++ [(0x2000, 0x4000)] ++
    (if k = 0 then [(0x200000, 0x300000)] else [(0x100000, 0x200000)]) ++
    (if g = 0 then [(0x1400000, 0x2400000)] else [(0x400000, 0x1400000)]) ++ [(0x2400000, 0x3F00000)]

/-- Does every byte of a range lie in a writable region? Regions that follow one another are crossed. -/
def State.flashMay (s : State) (off len : Nat) : Bool :=
  let rs := s.flashOpen
  let last := (List.range 12).foldl (fun (p : Nat) _ =>
    match rs.find? (fun r => decide (r.1 ≤ p) && decide (p < r.2)) with
    | some r => r.2
    | none => p) off
  decide (off + len ≤ last) || decide (len = 0)

/-- A measurement slot's 48 bytes, and its extension by an item (R573). -/
def State.slot (s : State) (i : Nat) : List Byte := (List.range 12).flatMap (fun w => leBytes 4 (s.reg (Reg.OPTS_MEAS i w)).toNat)
def measure (i : Nat) (item : List Byte) : M Unit := do
  let m ← look (·.slot i)
  let d := Config.sha384 (m ++ Config.sha384 item)
  for w in List.range 12 do setReg (Reg.OPTS_MEAS i w) (BitVec.ofNat 32 (leAt d (4 * w) 4))

/-! The image (R257, R258). -/

/-- The image's sections from its table. -/
def State.imageSections (s : State) (a : Nat) : List Section :=
  (List.range (s.le (a + 24) 4)).map (fun i =>
    let o := a + 128 + 32 * i
    ⟨s.le o 4, s.le (o + 4) 4, s.le (o + 8) 8, s.le (o + 16) 8⟩)

/-- The job that the image at an address names, with its Clapper map, for an owner. -/
def State.imageJob (s : State) (a owner : Nat) (clap : ClapMap) : Job :=
  let secs := s.imageSections a
  let flags := s.le (a + 28) 4
  let map := match secs.find? (fun x => decide (x.type = 4)) with
    | some x => (List.range (x.length / 4)).map (fun i =>
        let w := s.le (a + x.offset + 4 * i) 4
        (⟨bitsOf w 7 0, bitsOf w 15 8, bitsOf w 30 16⟩ : TileMap))
    | none => []
  { base := a, jobId := s.le (a + 8) 8, seed := s.le (a + 16) 8, overlap := bitOf flags 0, strictFrozen := bitOf flags 1
    module := s.le (a + 32) 2, modules := s.le (a + 34) 2, tiles := s.le (a + 36) 4, shape := s.bytes (a + 48) 48, sections := secs
    tileMap := map, clap := clap, owner := owner, running := false, started := false, stopped := false }

/-- The bytes of the first section of a type; none where the image has no such section. -/
def State.section (s : State) (j : Job) (type : Nat) : List Byte :=
  match j.sections.find? (fun x => decide (x.type = type)) with
  | some x => s.bytes (j.base + x.offset) x.length
  | none => []

/-- The object table of an image. -/
def State.imageObjects (s : State) (j : Job) : List Obj :=
  let b := s.section j 6
  (List.range (b.length / 64)).map (fun i => Obj.decode ((b.drop (64 * i)).take 64))

/-- Is a place a multiple of 192, and wholly inside its tier? -/
def placeOk (tier a size : Nat) : Bool :=
  onPair a &&
    (if tier = 1 then decide (baseT1 ≤ a) && decide (a + size ≤ 0x3400000000)
     else decide (tier = 2) && decide (baseT2 ≤ a) && decide (a + size ≤ 0x7FFFFFFC00))

/-- The places of an object. -/
def Obj.places (o : Obj) : List (Nat × Nat) :=
  if o.tier = 0 then [] else (o.addr0, o.size) :: (if o.versioned then [(o.addr1, o.size)] else [])

/-- No two of a list of places overlap. -/
def apart : List (Nat × Nat) → Bool
  | [] => true
  | x :: t => t.all (fun y => decide (x.1 + x.2 ≤ y.1) || decide (y.1 + y.2 ≤ x.1)) && apart t

/-- The rules of R273 for one object. -/
def Obj.ok (o : Obj) : Bool :=
  !o.resv &&
    (if o.tier = 0 then decide (o.kind = 1) && (decide (o.actTag = 0) || decide (o.actTag = 3)) && decide (o.size = 0)
     else o.places.all (fun p => placeOk o.tier p.1 p.2)) &&
    decide (o.size % 192 = 0) && (decide (o.actTag ≠ 1) || decide (o.tier = 1)) && (decide (o.actTag ≠ 2) || decide (o.tier = 2)) &&
    (!o.versioned || (decide (o.kind = 0) && decide (o.tier = 1))) &&
    (if o.versioned then decide (1 ≤ o.nshard ∧ o.nshard ≤ 64) else decide (o.nshard = 0))
def objectsOk (os : List Obj) : Bool := os.all (·.ok) && apart (os.flatMap (·.places))

/-- A tied weight (R162): one stored tensor that two weight entries give to different layers or parameter groups, or one whose groups of the
coefficient table are of another layer than its entry. -/
def tiedWeight (os : List Obj) (gs : List Group) : Bool :=
  let ws := os.filter (fun o => decide (o.kind = 0))
  ws.any (fun x => ws.any (fun y =>
    decide (x.tier = y.tier ∧ x.addr0 = y.addr0) && decide (x.layer ≠ y.layer ∨ x.group ≠ y.group))) ||
  gs.any (fun g => (os[g.obj]?).any (fun o => decide (o.kind = 0 ∧ g.layer ≠ o.layer)))

/-- The step of a knot at a T2 address, by the section's curve blocks. -/
def CoeffTables.knot (c : CoeffTables) (a : Nat) : Option Nat :=
  (c.curves.find? (fun b => decide (b.1 ≤ a ∧ a + 8 ≤ b.1 + b.2.length))).map (fun b => leAt b.2 (a - b.1) 4)

/-- Do the steps of n knots from an address strictly rise? -/
def CoeffTables.rises (c : CoeffTables) (a n : Nat) : Bool :=
  (List.range (n - 1)).all (fun i =>
    match c.knot (a + 8 * i), c.knot (a + 8 * i + 8) with
    | some x, some y => decide (x < y)
    | _, _ => true)

/-- Is a FP32 number strictly between 0 and 1? -/
def unitOpen (x : W32) : Bool := decide (0 < x.toNat ∧ x.toNat < 0x3F800000)

/-- The ranges that R308 gives a group's fields. -/
def Group.inRange (g : Group) : Bool :=
  let k := tensorBytes g.rows g.cols
  decide (1 ≤ g.rows ∧ 1 ≤ g.nEta ∧ g.nEta ≤ 64 ∧ 1 ≤ g.nLam ∧ g.nLam ≤ 64 ∧ g.nRepl ≤ 63 ∧ 1 ≤ g.nShard ∧ g.nShard ≤ 64) &&
    placeOk 2 g.pAddr k && placeOk 2 g.s1Addr k && (!g.s2En || placeOk 2 g.s2Addr k) && (placeOk 1 g.gAddr k || placeOk 2 g.gAddr k) &&
    placeOk 2 g.curveAddr (8 * (g.nEta + g.nLam))

/-- The checks of R311 for one group, and of the ranges of R308. -/
def Group.ok (g : Group) (c : CoeffTables) (os : List Obj) : Bool :=
  !g.resv && (decide (g.obj = 0xFFFF) || g.conv.ok) && g.inRange && decide (g.nRepl = 0 ∨ g.repl0 + g.nRepl ≤ c.repls.length) && (!g.bc1 || unitOpen g.a1) && (!g.bc2 || unitOpen g.a2) && (!g.polish || decide (1 ≤ g.iters ∧ g.iters ≤ 8)) &&
    c.rises g.curveAddr g.nEta && c.rises (g.curveAddr + 8 * g.nEta) g.nLam &&
    (if g.obj = 0xFFFF then true
     else match os[g.obj]? with
      | some o => o.versioned && decide (g.row0 + g.rows ≤ o.rows) && decide (g.nShard = o.nshard) &&
          !(g.polish && decide (o.sparse ≠ 0))
      | none => false)

/-- The rows that the groups write in an object, and the places they hold in T2. -/
def CoeffTables.rowSpans (c : CoeffTables) (obj : Nat) : List (Nat × Nat) :=
  (c.groups.filter (fun g => decide (g.obj = obj))).map (fun g => (g.row0, g.rows))
def Group.t2Places (g : Group) : List (Nat × Nat) :=
  let k := tensorBytes g.rows g.cols
  [(g.pAddr, k), (g.s1Addr, k)] ++ (if g.s2En then [(g.s2Addr, k)] else []) ++ (if inT2 g.gAddr then [(g.gAddr, k)] else [])

/-- No group's places meet those of a later group. -/
def groupsApart : List Group → Bool
  | [] => true
  | g :: t => t.all (fun h => g.t2Places.all (fun x => h.t2Places.all (fun y => decide (x.1 + x.2 ≤ y.1) || decide (y.1 + y.2 ≤ x.1)))) &&
      groupsApart t

/-- Does every layer-table range cover its groups exactly? -/
def CoeffTables.layersOk (c : CoeffTables) : Bool :=
  c.layers.all (fun l =>
    decide (l.first + l.groups ≤ c.groups.length) &&
      c.groups.zipIdx.all (fun g => decide (g.1.layer = l.layer) == decide (l.first ≤ g.2 ∧ g.2 < l.first + l.groups)))

/-- The checks of R311. -/
def coeffOk (b : List Byte) (os : List Obj) : Bool :=
  if b.isEmpty then true
  else
    let c := CoeffTables.decode b
    decide (c.size ≤ b.length) && !c.resv && c.groups.all (fun g => g.ok c os) &&
      (List.range os.length).all (fun o => apart (c.rowSpans o)) && groupsApart c.groups && c.layersOk

/-- The coefficient table of an image; none where its section does not hold what it counts. -/
def State.imageGroups (s : State) (j : Job) : List Group :=
  let b := s.section j 9
  let c := CoeffTables.decode b
  if c.size ≤ b.length then c.groups else []

/-- The header's own ranges, before anything is read by them (R257). -/
def State.headerOk (s : State) (a : Nat) : Bool :=
  decide (s.le a 4 = 0x494A5754 ∧ s.le (a + 4) 2 = 1 ∧ s.le (a + 6) 2 = 0) &&
    decide (1 ≤ s.le (a + 24) 4 ∧ s.le (a + 24) 4 ≤ 4096) && decide (1 ≤ s.le (a + 36) 4 ∧ s.le (a + 36) 4 ≤ 180) &&
    decide (1 ≤ s.le (a + 34) 2 ∧ s.le (a + 34) 2 ≤ 64) && decide (a + s.le (a + 40) 8 ≤ 0x3400000000) &&
    decide (128 + 32 * s.le (a + 24) 4 ≤ s.le (a + 40) 8)

/-- The Reel table of an image. -/
def State.imageReel (s : State) (j : Job) : List ReelEntry :=
  let b := s.section j 7
  (List.range (b.length / 32)).map (fun i => ReelEntry.decode ((b.drop (32 * i)).take 32))

/-- The checks of R298 for one Reel entry by itself: what it names is there, and every line it can move lies where R288 puts it. -/
def ReelEntry.ok (e : ReelEntry) (os : List Obj) (tiles : Nat) : Bool :=
  let n := e.lines + 1
  let slots := 31 * e.mbStride
  !e.resv && decide (e.tile0 + e.ntm1 < tiles) &&
    (match os[e.obj]? with
      | none => false
      | some o =>
        decide (o.tier ≠ 0) && decide ((e.srcOff + (if e.bcast then 0 else e.ntm1 * n) + slots + n) * 96 ≤ o.size) &&
          (decide (e.fallback ≠ 1) || (decide (o.kind = 1) && (decide (o.actTag = 1) || decide (o.actTag = 2)))) &&
          (if e.dtierT1 then decide (o.tier = 2) && decide (e.ntm1 = 0) && !e.bcast &&
              (match os[e.dobj]? with
                | none => false
                | some d => decide (d.tier = 1) && decide ((e.doff + slots + n) * 96 ≤ d.size))
            else decide (e.destLine + n ≤ 32768)))

/-- LOWER entries are followed by their lower entry, which waits, and there is no other with ALT 1 (R298). -/
def lowersOk : Bool → List ReelEntry → Bool
  | after, [] => !after
  | after, e :: t => (if after then e.alt && decide (e.fallback = 0) else !e.alt) && lowersOk (decide (e.fallback = 2)) t

/-- At most one entry with a fallback other than WAIT for a tile and cue (R293). -/
def fallbacksOk : List ReelEntry → Bool
  | [] => true
  | e :: t => (decide (e.fallback = 0) || t.all (fun x => decide (x.fallback = 0) || decide (x.cue ≠ e.cue) ||
      decide (x.tile0 + x.ntm1 < e.tile0) || decide (e.tile0 + e.ntm1 < x.tile0))) && fallbacksOk t

/-- The checks of R298. -/
def reelOk (es : List ReelEntry) (os : List Obj) (tiles : Nat) : Bool :=
  es.all (·.ok os tiles) && lowersOk false es && fallbacksOk es

/-- Does no target-table entry name an object with TIER none (R275)? -/
def targetsOk (b : List Byte) (os : List Obj) : Bool :=
  (List.range (b.length / 16)).all (fun i =>
    decide (leAt b (16 * i) 1 ≠ 1) || (os[leAt b (16 * i + 4) 4]?).all (fun o => decide (o.tier ≠ 0)))

/-- The checks of R259 and of the rules it brings in, for an image whose header is in range. -/
def State.imageOk (s : State) (j : Job) : Bool :=
  let a := j.base
  let bytes := s.le (a + 40) 8
  let os := s.imageObjects j
  j.sections.zipIdx.all (fun x =>
    decide (x.1.offset + x.1.length ≤ bytes) &&
      decide (crc32c (s.bytes (a + x.1.offset) x.1.length) = s.le (a + 128 + 32 * x.2 + 24) 4)) &&
    decide (j.module < j.modules) && (decide (j.modules = 1) || (decide (j.modules % 2 = 0) && s.hasTwin)) &&
    (List.range j.tiles).all (fun n =>
      match j.sections.filter (fun x => decide (x.type = 1 ∧ x.index = n)) with
      | [x] => decide (x.length ≤ 65536)
      | _ => false) &&
    j.sections.zipIdx.all (fun x => decide (x.1.type ≠ 2) ||
      decide (Config.residentLine x.1.index x.2 * 96 + x.1.length ≤ tileBytes)) &&
    j.sections.all (fun x => (decide (x.type ≠ 6) && decide (x.type ≠ 7)) || onPair (a + x.offset)) &&
    objectsOk os && reelOk (s.imageReel j) os j.tiles &&
    j.sections.all (fun x => decide (x.type ≠ 3) || targetsOk (s.bytes (a + x.offset) x.length) os) && coeffOk (s.section j 9) os

/-! What a load restarts. -/

/-- Pending soft repairs of T1 rows become hard repairs (R594). -/
def repairsHarden : M Unit :=
  act (.rst (fun r => { r with
    softRepairs := [], hardRepairs := r.softRepairs.foldl (fun m k => Store.update (fun _ => 0) m k (· + 1)) r.hardRepairs }))

/-! Loading. -/

/-- The entries of a tile's target table (R239). -/
def targetTable (b : List Byte) : List Target16 :=
  (List.range (b.length / 16)).map (fun i =>
    let o := 16 * i
    ⟨leAt b o 1, leAt b (o + 2) 2, leAt b (o + 4) 4, leAt b (o + 8) 8⟩)

/-- A used tile is loaded: it wakes from OFF, is ON, and gets its program, its targets and its resident region (R230, R239, R258, R510). The loader
writes no instruction memory while the tile's RUN is set, as it can be with no job running. -/
def loadTile (j : Job) (n : Nat) : M Unit := do
  wakeTile n
  let p ← look (·.physOf n)
  tileOn p
  let of := fun (type : Nat) => j.sections.find? (fun x => decide (x.type = type ∧ x.index = n))
  let prog ← look (fun s => match of 1 with
    | some x => s.bytes (j.base + x.offset) x.length
    | none => [])
  let tab ← look (fun s => match of 3 with
    | some x => s.bytes (j.base + x.offset) x.length
    | none => [])
  let im := (List.range (prog.length / 8)).map (fun i => (i, BitVec.ofNat 64 (leAt prog (8 * i) 8)))
  let run ← getFld (Fl.TILE_SEQ_CTRL_RUN n)
  modTile n (fun t => { Tile.empty with
    im := if run = 0 then im else t.im, targets := targetTable tab, wakes := t.wakes, sampled := t.sampled, sampleCount := t.sampleCount })
  loadResident n

/-- The keeper clears the key table and installs the image's salt and keys; stage firmware installs its flows (R418, R420, R424). -/
def loadKeys (b : List Byte) : M Unit := do
  clearKeys
  if !b.isEmpty then
    let nk := leAt b 0 4
    let nf := leAt b 4 4
    setReg Reg.KEYT_SALT (BitVec.ofNat 32 (leAt b 8 4))
    for i in List.range nk do
      let r := (b.drop (32 + 64 * i)).take 64
      for w in List.range 8 do setReg (Reg.KEYT_STAGE w) (BitVec.ofNat 32 (leAt r (4 * w) 4))
      setFld Fl.KEYT_CMD_INDEX (leAt r 32 4)
      installKey (leAt r 32 4 % 2 ^ 18)
    for i in List.range nf do
      let r := (b.drop (32 + 64 * nk + 192 * i)).take 192
      installFlow (bitsOf (leAt r 0 2) 11 0) r
    keySync
    nrtSync

/-- The update die takes the tables of section 0x09, and the curve blocks go to T2 (R310). -/
def loadCoeff (b : List Byte) : M Unit := do
  let c := if b.isEmpty then ⟨[], [], [], [], [], 0, false⟩ else CoeffTables.decode b
  act (.upd (fun u => { Upd.empty with
    groups := c.groups, layers := c.layers, repls := c.repls, mirrors := c.mirrors, mirroring := u.mirroring, lost := u.lost }))
  updSync
  for x in c.curves do
    memWrite x.1 x.2
    byteTraffic true x.1 x.2.length (some 1) (some mStage) (some 7)

/-- The Reel's bases and counts point at the image's own sections (R274). -/
def loadReel (j : Job) : M Unit := do
  let at' := fun (type : Nat) => (j.sections.find? (fun x => decide (x.type = type))).map (fun x => (j.base + x.offset, x.length))
  let ot := (at' 6).getD (0, 0)
  let tab := (at' 7).getD (0, 0)
  setReg Reg.REEL_OT_BASE_LO (BitVec.ofNat 32 ot.1)
  setReg Reg.REEL_OT_BASE_HI (BitVec.ofNat 32 (ot.1 / 2 ^ 32))
  setFld Fl.REEL_OT_COUNT_COUNT (ot.2 / 64)
  setReg Reg.REEL_TAB_BASE_LO (BitVec.ofNat 32 tab.1)
  setReg Reg.REEL_TAB_BASE_HI (BitVec.ofNat 32 (tab.1 / 2 ^ 32))
  setFld Fl.REEL_TAB_COUNT_COUNT (tab.2 / 32)
  act (.reel (fun _ => Reel.empty))

/-- Stage firmware loads a job whose image has passed (R259): every tile that the old job or no job names is OFF. -/
def loadJob (j : Job) (rejoin : Bool) : M Unit := do
  repairsHarden
  for n in List.range 180 do
    let p ← look (·.physOf n)
    act (.phys p .off)
  act (.job (fun _ => some j))
  act (.coll (fun c => { Coll.empty with seq := c.seq, rejoin := rejoin }))
  loadReel j
  for n in List.range j.tiles do loadTile j n
  for m in j.tileMap.zipIdx.filter (fun m => decide (m.2 < 180)) do setFld (Fl.TILE_DSP_CTRL_SKIP_LINE m.2) m.1.skipLine
  let keys ← look (·.section j 8)
  loadKeys keys
  let coeff ← look (·.section j 9)
  loadCoeff coeff
  act (.hub (fun h => { h with fmth0 := ⟨none, false⟩, fmth1 := ⟨none, false⟩ }))
  ageApply
  learnRestart
  let image ← look (fun s => s.bytes j.base (s.le (j.base + 40) 8))
  measure 5 image
  byteTraffic false j.base image.length (some 1) (some mStage) (some 7)

/-- The job's state as FN_JOB and QUERY give it: none, loaded, running, held (R464, R478). -/
def State.jobState (s : State) : Nat :=
  match s.job with
  | none => 0
  | some j => if j.running then (if s.fld Fl.COLL_STATUS_HELD = 1 then 3 else 2) else 1

/-- The JOIN's argument (R345). DESIGN CHOICE: bits [7:0] of JOB_ID are byte 0; the digest bytes, the PAIR tag and the REJOIN flag follow from byte 4. -/
def JoinRec.arg (j : JoinRec) : List Byte :=
  leBytes 4 j.jobId ++ leBytes 4 j.digest ++ leBytes 4 j.pair ++ leBytes 1 (if j.rejoin then 1 else 0)

/-- This module sends its JOIN (R346). One that rejoins knows no manager, takes no role, and sends it to every module; only the manager acts on it. -/
def sendJoin : M Unit := do
  let again ← look (·.coll.rejoin)
  let me ← look (·.me)
  let j ← look (·.myJoin again)
  if again then
    act (.coll (fun c => { c with manager := if me = 0 then 1 else 0, mgr := { c.mgr with standby := none } }))
    setFld Fl.COLL_STATUS_ROLE 0
    sendAll 1 0 j.arg
  else
    let mgr ← look (·.coll.manager)
    if mgr = me then joinHere j else sendMsg mgr 1 0 j.arg

end Sys2Proof.Machine
end

