-- ==== Sys2Proof/Machine/HostCmds.lean ====
section
/-! DEFINITION. The commands of the host interface (R451 to R475, R564). -/

namespace Sys2Proof.Machine

/-! Guests (R453). -/

/-- Does a range lie wholly in T1? -/
def rangeT1 (a n : Nat) : Bool := decide (baseT1 ≤ a) && decide (a + n ≤ 0x3400000000)

/-- The registers of guest g from 1 to 8, its T1 range, and whether a range of bytes lies in it. Guest 0 has the whole of T1 and T2. -/
def State.guestLo (s : State) (g : Nat) : Nat := s.reg64 (Reg.HOSTIF_GUEST_BASE_LO (g - 1))
def State.guestHi (s : State) (g : Nat) : Nat := s.guestLo g + s.fld (Fl.HOSTIF_GUEST_SIZE_SIZE (g - 1)) * 2 ^ 20
def State.guestOn (s : State) (g : Nat) : Bool := decide (g = 0) || decide (s.fld (Fl.HOSTIF_GUEST_CFG_ENABLE (g - 1)) = 1)
def State.guestHolds (s : State) (g a n : Nat) : Bool :=
  decide (g = 0) || (s.guestOn g && rangeT1 a n && decide (s.guestLo g ≤ a) && decide (a + n ≤ s.guestHi g))
def State.guestMayLoad (s : State) (g : Nat) : Bool := decide (g = 0) || decide (s.fld (Fl.HOSTIF_GUEST_CFG_LOAD (g - 1)) = 1)
def State.guestMaySnap (s : State) (g : Nat) : Bool := decide (g = 0) || decide (s.fld (Fl.HOSTIF_GUEST_CFG_SNAP (g - 1)) = 1)

/-! Submission entries (R462, R468). -/

/-- The bytes that an opcode uses. -/
def usedBytes (op : Nat) : List Nat :=
  let span := fun (a n : Nat) => (List.range n).map (a + ·)
  [0, 2, 3, 4, 5, 6] ++ (match op with
    | 1 => span 8 6 ++ [16]
    | 5 => span 8 11 ++ span 24 16
    | 6 => span 8 6 ++ span 16 8
    | _ => [])

/-- Is an entry malformed: a reserved opcode, or a reserved bit set? -/
def malformed (e : List Byte) : Bool :=
  let op := leAt e 0 1
  decide (7 < op) || (List.range 64).any (fun i => !(usedBytes op).contains i && decide (leAt e i 1 ≠ 0)) ||
    (decide (op = 1) && decide (1 < leAt e 16 1))

/-- Is an entry read from a ring the one expected there? -/
def State.entryCurrent (s : State) (f q : Nat) (e : List Byte) : Bool :=
  decide (leAt e 4 2 = (s.hring f q).serial ∧ leAt e 6 1 = s.fld (Fl.FN_EPOCH_EPOCH f))

/-- May the ring take up an entry: in use, not at its tail, no command in progress, its completion ring with room (R466, R469)? -/
def State.ringReady (s : State) (f q : Nat) : Bool :=
  let r := s.hring f q
  r.on && s.attached f && decide (s.fld (Fl.RING_STATUS_SQ_HEAD f q) ≠ r.tail) && r.cur.isNone && !s.cqFull f q &&
    decide (s.fld (Fl.RING_STATUS_STALLED f q) = 0)

/-- Is it a ring's turn: no other ring that may take up an entry, and waits for no re-read, comes before it after the one served last (R466)? -/
def State.ringTurn (s : State) (f q : Nat) : Bool :=
  let far := fun (x : Nat) => (x + 71 - s.host.turn) % 36
  (List.range 36).all (fun x => decide (far (4 * f + q) ≤ far x) || !s.ringReady (x / 4) (x % 4) || (s.hring (x / 4) (x % 4)).tries.isSome)

/-- Does a start run, with keeper firmware up (R557)? -/
def State.starting (s : State) : Bool := decide (3 ≤ s.fld Fl.RSTC_STATE_STATE ∧ s.fld Fl.RSTC_STATE_STATE < 7)

/-- Does stage firmware perform commands: from RUNNING on, while it runs (R557, R571)? -/
def State.performs (s : State) : Bool := decide (s.fld Fl.RSTC_STATE_STATE = 7) && decide (s.rst.stage = .running)

/-- A current entry is taken up; a malformed one completes at once. During a start only LOAD_JOB is taken, and refused (R557). -/
def takeEntry (f q : Nat) (e : List Byte) : M Unit := do
  let go ← look (·.performs)
  let start ← look (·.starting)
  if go ∨ (start ∧ leAt e 0 1 = 1) then
    let n ← look (·.sqSize f q)
    let h ← getFld (Fl.RING_STATUS_SQ_HEAD f q)
    setFld (Fl.RING_STATUS_SQ_HEAD f q) ((h + 1) % n)
    modRing f q (fun r => { r with tries := none, serial := (r.serial + 1) % 65536, cur := some ⟨e, false, false, none⟩ })
    if !go then complete f q 3 []
    else if malformed e then complete f q 1 []

/-- SQ_ENTRY_READ: the entry at the head of the ring whose turn it is is read; one that is not current will be read again. -/
def execSqEntryRead (fn ring : Nat) (entry : List Byte) : Meaning := M.next (do
  let ready ← look (·.ringReady fn ring)
  let r ← look (·.hring fn ring)
  let cur ← look (·.entryCurrent fn ring entry)
  let turn ← look (·.ringTurn fn ring)
  if ready && r.tries.isNone && turn then
    act (.host (fun h => { h with turn := 4 * fn + ring }))
    bwCount 18 64
    if cur then takeEntry fn ring entry else modRing fn ring (fun r => { r with tries := some 0 }))

/-- SQ_ENTRY_REREAD: the 16th re-read of an entry that is still not current stalls the ring. -/
def execSqEntryReread (fn ring : Nat) (entry : List Byte) : Meaning := M.next (do
  let ready ← look (·.ringReady fn ring)
  let r ← look (·.hring fn ring)
  let cur ← look (·.entryCurrent fn ring entry)
  match r.tries with
  | none => pure ()
  | some k =>
    if ready then
      bwCount 18 64
      if cur then takeEntry fn ring entry
      else if k + 1 < 16 then modRing fn ring (fun r => { r with tries := some (k + 1) })
      else
        modRing fn ring (fun r => { r with tries := none })
        setFld (Fl.RING_STATUS_STALLED fn ring) 1
        raise Ev.hostDoorbellEarly (srcFn fn) 0 0)

/-! The commands (R464, R465). -/

/-- What a command answers: its status and its result. -/
abbrev Answer := Nat × List Byte

/-- The command in progress of a ring is performed, if it is of the opcode and has not begun: guests without ENABLE may issue only NOP, QUERY and
DETACH (R453). `k` gives the answer, or none while the command goes on. -/
def hostCmd (f q op : Nat) (k : HostCmd → M (Option Answer)) : M Unit := do
  let r ← look (·.hring f q)
  let go ← look (·.performs)
  let on ← look (·.guestOn f)
  match r.cur with
  | none => pure ()
  | some c =>
    if go ∧ leAt c.entry 0 1 = op ∧ !c.begun ∧ c.held.isNone then
      if !on ∧ op ≠ 0 ∧ op ≠ 4 ∧ op ≠ 7 then complete f q 2 []
      else
        let a ← k c
        match a with
        | none => pure ()
        | some x => complete f q x.1 x.2

/-- HOST_NOP completes. -/
def execHostNop (fn ring : Nat) : Meaning := M.next (hostCmd fn ring 0 fun _ => pure (some (0, [])))

/-- LOAD_JOB (R259, R464): the checks, each with its answer, then the load. -/
def loadCheck (f a : Nat) (clap : ClapMap) : M Answer := do
  let job ← look (·.runJob)
  let load ← look (·.guestMayLoad f)
  let bytes ← memLe (a + 40) 8
  let inRange ← look (fun s => s.guestHolds f a 128 && s.guestHolds f a bytes)
  let head ← look (·.headerOk a)
  let j ← look (·.imageJob a f clap)
  let bad := do
    raise Ev.jobImageInvalid srcStage 0 0
    pure ((4, []) : Answer)
  if !load then pure (2, [])
  else if !rangeT1 a 128 then pure (1, [])
  else if !inRange then pure (2, [])
  else if job.isSome then
    raise Ev.jobBusy srcStage 0 0
    pure (3, [])
  else if !head then bad
  else
    let tied ← look (fun s => tiedWeight (s.imageObjects j) (s.imageGroups j))
    if tied then
      raise Ev.tiedWeight srcStage 0 0
      bad
    else
      let ok ← look (·.imageOk j)
      if ok then pure (0, leBytes 8 j.jobId) else bad
def execLoadJob (fn ring : Nat) (clap : ClapMap) : Meaning := M.next (hostCmd fn ring 1 fun c => do
  let a := leAt c.entry 8 6
  let r ← loadCheck fn a clap
  if r.1 = 0 then
    let j ← look (·.imageJob a fn clap)
    loadJob j (bitOf (leAt c.entry 16 1) 0)
  pure (some r))

/-- Only the owner of the loaded job, or guest 0, may go on. -/
def asOwner (f : Nat) (k : Job → M (Option Answer)) : M (Option Answer) := do
  let j ← look (·.job)
  match j with
  | none => pure (some (5, []))
  | some j => if f = 0 ∨ f = j.owner then k j else pure (some (2, []))

/-- START_JOB: the RUN bits of the Reel, the update die and the collective engine, then JOIN; it completes when the tiles run, or the job is
refused (R464). A collective table that fails R379 ends it. -/
def execStartJob (fn ring : Nat) : Meaning := M.next (hostCmd fn ring 2 fun _ => asOwner fn fun j => do
  if j.running then
    raise Ev.jobBusy srcStage 0 0
    pure (some (3, []))
  else
    let reel ← getFld Fl.REEL_CTRL_RUN
    let upd ← getFld Fl.UPDT_CTRL_RUN
    let coll ← getFld Fl.COLL_CTRL_RUN
    if reel = 0 then reelStart
    if upd = 0 then updStart
    if coll = 0 then collStart
    let on ← getFld Fl.COLL_CTRL_RUN
    if on = 0 then
      reelStop
      updStop
      pure (some (4, []))
    else
      act (.job (Option.map (fun j => { j with running := true, started := false, stopped := false })))
      modRing fn ring (fun r => { r with cur := r.cur.map (fun c => { c with begun := true }) })
      sendJoin
      pure none)

/-- STOP_JOB clears every RUN bit (R464, R587). -/
def execStopJob (fn ring : Nat) : Meaning := M.next (hostCmd fn ring 3 fun _ => asOwner fn fun j => do
  if j.running then stopJob 0
  else
    for n in List.range 180 do
      let run ← getFld (Fl.TILE_SEQ_CTRL_RUN n)
      if run ≠ 0 then tileStop n
    reelStop
    updStop
    collStop
  pure (some (0, [])))

/-- QUERY: job state, role, COLL_STEP and UPDT_DONE. -/
def execQuery (fn ring : Nat) : Meaning := M.next (hostCmd fn ring 4 fun _ => do
  let st ← look (·.jobState)
  let role ← getFld Fl.COLL_STATUS_ROLE
  let step ← getReg Reg.COLL_STEP
  let done ← getReg Reg.UPDT_DONE
  pure (some (0, leBytes 1 st ++ leBytes 1 role ++ leBytes 2 0 ++ leBytes 4 step.toNat ++ leBytes 4 done.toNat)))

/-- The SNAP command for a module (R312). -/
def snapBytes (v key flow kind off : Nat) : List Byte :=
  leBytes 8 (mkSlate v 0 0 4 0) ++ leBytes 4 v ++ leBytes 4 0 ++ leBytes 4 key ++ leBytes 2 flow ++ leBytes 1 kind ++ [0] ++ leBytes 8 off

/-- SNAPSHOT: the manager sends each module a SNAP command with OFFSET + MODULE × STRIDE. -/
def execSnapshot (fn ring : Nat) : Meaning := M.next (hostCmd fn ring 5 fun c => asOwner fn fun _ => do
  let snap ← look (·.guestMaySnap fn)
  let mgr ← look (·.isManager)
  let kind := leAt c.entry 18 1
  let flow := leAt c.entry 16 2
  if !snap then pure (some (2, []))
  else if 1 < kind ∨ 4095 < flow then pure (some (1, []))
  else if !mgr then pure (some (6, []))
  else
    let n ← look (·.modules)
    let me ← look (·.me)
    let v := leAt c.entry 8 4
    for m in List.range n do
      let b := snapBytes v (leAt c.entry 12 4) flow kind (leAt c.entry 24 8 + m * leAt c.entry 32 8)
      if m = me then
        updEnqueue (UpdCmd.decode b)
        updComplete
      else sendMsg m 5 (mkSlate v 0 0 4 0) b
    pure (some (0, [])))

/-- FLASH_WRITE: the keeper writes, or refuses a region it may not write; a write that a reset cuts off leaves a range that is not whole, and the command in
progress when the reset comes (R564). -/
def execFlashWrite (fn : Nat) (run : FlashRun) : Meaning := M.next (hostCmd fn run.ring 6 fun c => do
  let src := leAt c.entry 8 6
  let off := leAt c.entry 16 4
  let len := leAt c.entry 20 4
  let may ← look (·.flashMay off len)
  if fn ≠ 0 then pure (some (2, []))
  else if !rangeT1 src len ∨ 0x4000000 < off + len then pure (some (1, []))
  else if !may then
    raise Ev.flashDenied srcKeeper 0 0
    pure (some (2, []))
  else if run.cut then
    flashTear off len
    pure none
  else
    let b ← memBytes src len
    byteTraffic false src len (some 1) (some mStage) (some 7)
    flashWrite off b
    pure (some (0, [])))

/-- DETACH: the epoch ends once its completion is written (R464, R472). -/
def execDetach (fn ring : Nat) : Meaning := M.next (do
  let r ← look (·.hring fn ring)
  hostCmd fn ring 7 fun _ => pure (some (0, []))
  let r' ← look (·.hring fn ring)
  match r.cur with
  | some c => if leAt c.entry 0 1 = 7 ∧ r'.cur.isNone ∧ !c.orphan then detach fn 1
  | none => pure ())

/-! Doorbells (R467, R469). -/

/-- A doorbell is accepted only in the epoch in force, of an attached function, for a ring in use, and below the ring's size. -/
def doorbell (f : Nat) (on : Bool) (value size index : Nat) (k : M Unit) : M Unit := do
  let e ← getFld (Fl.FN_EPOCH_EPOCH f)
  let att ← look (·.attached f)
  if bitsOf value 23 16 ≠ e ∨ !att ∨ !on then bumpFld (Fl.FN_STATUS_STALE_DB f) 1
  else if size ≤ index then raise Ev.hostDoorbellInvalid (srcFn f) 0 0
  else k

/-- A write of SQ_DB: a new tail; an accepted one ends a stall (R468). -/
def sqDbWrite (master fn ring value : Nat) : M Unit := do
  regWrite master (Reg.SQ_DB fn ring) value
  let r ← look (·.hring fn ring)
  let n ← look (·.sqSize fn ring)
  let i := bitsOf value 11 0
  doorbell fn r.on value n i (do
    setFld (Fl.RING_STATUS_STALLED fn ring) 0
    modRing fn ring (fun r => { r with tail := i }))

/-- A write of CQ_DB: a new head frees completion entries, the first for a completion that waits. -/
def cqDbWrite (master fn ring value : Nat) : M Unit := do
  regWrite master (Reg.CQ_DB fn ring) value
  let r ← look (·.hring fn ring)
  let n ← look (·.cqSize fn ring)
  let i := bitsOf value 11 0
  doorbell fn r.on value n i (do
    modRing fn ring (fun r => { r with cqHead := i })
    completeHeld fn ring
    cqSync fn ring)

/-- A write of EVR_HEAD: the event ring's consumer head, under the rules of the doorbells; room tells of missed records (R589). -/
def evrHeadWrite (master fn value : Nat) : M Unit := byMaster master (Reg.EVR_HEAD fn) (do
  regWrite master (Reg.EVR_HEAD fn) value
  let x ← look (·.hfn fn)
  let n ← look (·.evrSize fn)
  let i := bitsOf value 14 0
  doorbell fn x.evrOn value n i (do
    modFn fn (fun x => { x with evrHead := i })
    evrRoom fn))

/-- SQ_DOORBELL, CQ_DOORBELL and EVR_HEAD_WRITE. -/
def execSqDoorbell (master fn ring value : Nat) : Meaning := M.next (sqDbWrite master fn ring value)
def execCqDoorbell (master fn ring value : Nat) : Meaning := M.next (cqDbWrite master fn ring value)
def execEvrHeadWrite (master fn value : Nat) : Meaning := M.next (evrHeadWrite master fn value)

/-- CQ_FULL_TIMEOUT: a completion ring full for 1 s, once (R469). -/
def execCqFullTimeout (fn ring : Nat) : Meaning := M.next (do
  let r ← look (·.hring fn ring)
  let full ← getFld (Fl.RING_STATUS_CQ_FULL fn ring)
  if full = 1 ∧ r.on ∧ !r.fullRaised then
    modRing fn ring (fun r => { r with fullRaised := true })
    raise Ev.hostCqFull (srcFn fn) 0 0)

/-- INTERRUPT_COALESCE: COAL_US after the first unsignalled completion the ring signals (R470). -/
def execInterruptCoalesce (fn ring : Nat) : Meaning := M.next (do
  let r ← look (·.hring fn ring)
  let att ← look (·.attached fn)
  if att ∧ r.on ∧ r.unsig ≠ 0 then ringSignal fn ring)

/-! Attach, liveness, detach (R471, R472). -/

/-- Are the function's enabled rings and event ring valid? -/
def State.ringsValid (s : State) (f : Nat) : Bool :=
  let last := if f = 0 then 15 else 7
  (List.range 4).all (fun q =>
    decide (s.fld (Fl.RING_CFG_ENABLE f q) = 0) ||
      (let sq := s.fld (Fl.RING_CFG_SQ_LOG2 f q)
       let cq := s.fld (Fl.RING_CFG_CQ_LOG2 f q)
       let v := s.fld (Fl.RING_CFG_VECTOR f q)
       decide (4 ≤ sq ∧ sq ≤ 12 ∧ 4 ≤ cq ∧ cq ≤ 12 ∧ 1 ≤ v ∧ v ≤ last) &&
         decide (s.reg64 (Reg.SQ_BASE_LO f q) % 4096 = 0 ∧ s.reg64 (Reg.CQ_BASE_LO f q) % 4096 = 0))) &&
    (decide (s.fld (Fl.EVR_CFG_ENABLE f) = 0) ||
      (decide (6 ≤ s.fld (Fl.EVR_CFG_LOG2 f) ∧ s.fld (Fl.EVR_CFG_LOG2 f) ≤ 15) && decide (s.reg64 (Reg.EVR_BASE_LO f) % 4096 = 0)))

/-- A function that exists (R452) attaches, unless it is attached (R471). -/
def attach (f : Nat) : M Unit := do
  let att ← look (fun s => s.attached f || decide (s.host.numVfs < f))
  let x ← look (·.hfn f)
  let ok ← look (·.ringsValid f)
  if !att then
    if x.busMaster && ok then
      let e ← getFld (Fl.FN_EPOCH_EPOCH f)
      setFld (Fl.FN_EPOCH_EPOCH f) (if e = 255 then 1 else e + 1)
      let on ← look (fun s => (List.range 4).map (fun q => decide (s.fld (Fl.RING_CFG_ENABLE f q) = 1)))
      let evr ← getFld (Fl.EVR_CFG_ENABLE f)
      modFn f (fun x => { x with
        evrOn := decide (evr = 1), evrTail := 0, evrHead := 0, missed := 0
        rings := x.rings.zipIdx.map (fun r => { HRing.empty with on := on.getD r.2 false, cur := r.1.cur }) })
      for q in List.range 4 do setReg (Reg.RING_STATUS f q) 0
      setBit (Fl.FN_STATUS_ATTACHED f)
    else setBit (Fl.FN_STATUS_ATTACH_FAIL f)

/-- A write of FN_CTRL. -/
def fnCtrlWrite (master f value : Nat) : M Unit := do
  regWrite master (Reg.FN_CTRL f) value
  if bitOf value 0 then attach f
  if bitOf value 1 then detach f 1


/-- FN_DETACH_WRITE: a write of FN_CTRL. -/
def execFnDetachWrite (master fn value : Nat) : Meaning := M.next (fnCtrlWrite master fn value)

/-- FN_LIVE: any write counts as liveness, and restarts the LIVE_MS timer: LIVE_EXPIRE is its expiry. -/
def execFnLive (master fn value : Nat) : Meaning := M.next (do
  regWrite master (Reg.FN_LIVE fn) value)

/-- LIVE_EXPIRE: no FN_LIVE write for LIVE_MS; 0 disables the limit. -/
def execLiveExpire (fn : Nat) : Meaning := M.next (do
  let ms ← getFld (Fl.FN_CTRL_LIVE_MS fn)
  if ms ≠ 0 then detach fn 2)

/-- BUS_MASTER_CLEAR, and DMA_ERROR. -/
def execBusMasterClear (fn : Nat) : Meaning := M.next (do
  modFn fn (fun x => { x with busMaster := false })
  detach fn 5)
def execDmaError (fn : Nat) : Meaning := M.next (detach fn 4)

/-! Host resets (R474, R475). -/

/-- A host reset of one function: it detaches, and its configuration space, windows, rings and MSI-X return to reset. -/
def fnReset (f : Nat) : M Unit := do
  detach f 3
  modFn f (fun x => { x with busMaster := false })
  for a in List.range 8 do
    setReg (Reg.FN_WIN_LO f a) (regReset (Reg.FN_WIN_LO f a))
    setReg (Reg.FN_WIN_HI f a) (regReset (Reg.FN_WIN_HI f a))
  for q in List.range 4 do
    for k in List.range 8 do setReg (Reg.SQ_BASE_LO f q + 4 * k) (regReset (Reg.SQ_BASE_LO f q + 4 * k))
  for k in List.range 4 do setReg (Reg.EVR_BASE_LO f + 4 * k) (regReset (Reg.EVR_BASE_LO f + 4 * k))
  msixClear f

/-- ATTACH: a write of FN_CTRL, with what the host has put into configuration space before it: NumVFs, and the function's bus-master bit, MSI-X Enable and
Function Mask (R452, R470, R471). Virtual functions that a lower NumVFs takes away are reset as by a host reset. -/
def execAttach (master fn value : Nat) (pci : PciControl) (numVfs : Nat) : Meaning := M.next (do
  let was ← look (·.host.numVfs)
  for f in (List.range 9).filter (fun f => decide (numVfs < f ∧ f ≤ was)) do fnReset f
  act (.host (fun h => { h with numVfs := numVfs }))
  modFn fn (fun x => { x with busMaster := pci.busMaster, msixOn := pci.msixOn, msixMask := pci.msixMask })
  if fn ≤ numVfs then fnCtrlWrite master fn value)

/-- FLR_PF: the physical function and every virtual function; VF Enable is cleared. -/
def execFlrPf : Meaning := M.next (do
  bump (Reg.RSTC_COUNT_LO 1) 1
  for f in List.range 9 do fnReset f
  act (.host (fun h => { h with numVfs := 0 })))

/-- FLR_VF: that function only. Each FLR is a host reset of HOST reach (R548, R577). -/
def execFlrVf (fn : Nat) : Meaning := M.next (do
  bump (Reg.RSTC_COUNT_LO 1) 1
  fnReset fn)

/-- PCIE_LINK_UP: the link trains to a rate and a width; one below x8 is degraded (R451). The host interface has left reset with the hub, and no HOST
source holds it (R554). -/
def execPcieLinkUp (rate width : Nat) : Meaning := M.next (do
  let up ← look (fun s => !s.rst.hostHeld && decide (3 ≤ s.fld Fl.RSTC_STATE_STATE ∧ s.fld Fl.RSTC_STATE_STATE ≤ 7))
  let recovery ← look (fun s => !s.rst.hostHeld && decide (s.fld Fl.RSTC_STATE_STATE = 8))
  if recovery then
    setFld Fl.HOSTIF_LINK_RATE 1
    setFld Fl.HOSTIF_LINK_WIDTH 1
    setFld Fl.HOSTIF_LINK_UP 1
  else if up then
    setFld Fl.HOSTIF_LINK_RATE rate
    setFld Fl.HOSTIF_LINK_WIDTH width
    setFld Fl.HOSTIF_LINK_UP 1
    setFld Fl.HOSTIF_LINK_DEGRADED (if width < 8 then 1 else 0)
    if width < 8 then raise Ev.hostLinkDegraded srcHub 0 0)

/-! The data window (R457 to R459). -/

/-- Does an access through an aperture fault? A function that has a window may read its own backlog area whatever its range, and may not write it. -/
def State.windowFault (s : State) (f ap addr len : Nat) (write : Bool) : Bool :=
  let base := s.reg64 (Reg.FN_WIN_LO f ap) % 2 ^ 48
  let b := s.backlog f
  let inside := rangeT1 addr len || (decide (baseT2 ≤ addr) && decide (addr + len ≤ 0x7FFFFFFC00))
  decide (s.fld (Fl.FN_WIN_HI_EN f ap) = 0) || !onPair base || !inside || (write && s.backlogOk && decide (addr < b + 65536 ∧ b < addr + len)) ||
    !(s.guestHolds f addr len || (!write && s.guestOn f && decide (b ≤ addr) && decide (addr + len ≤ b + 65536)))

/-- The bytes that a read returns: a poisoned line reads as the poison NaN in every word. -/
def State.windowBytes (s : State) (a n : Nat) : List Byte :=
  (List.range n).map (fun i =>
    if s.poisoned (a + i) then (leBytes 4 0x7FC00001).getD ((a + i - regionBase (a + i)) % 96 % 4) 0 else s.byte (a + i))

/-- BAR2_ACCESS: a read, or with data a write, through an aperture of a function that exists (R452). -/
def execBar2Access (fn aperture offset length : Nat) (data : Option (List Byte)) : Meaning := M.next (do
  let base ← look (fun s => s.reg64 (Reg.FN_WIN_LO fn aperture) % 2 ^ 48)
  let a := base + offset
  let len := match data with
    | some d => d.length
    | none => length
  let bad ← look (·.windowFault fn aperture a len data.isSome)
  let here ← look (fun s => decide (fn ≤ s.host.numVfs))
  if !here then pure ()
  else if bad then
    raise Ev.hostWindowFault (srcFn fn) (a % 2 ^ 48) 0
    if data.isNone then act (.out (.bar2 fn (List.replicate len 0) false))
  else
    let rest ← look (·.hub.bar2Rest)
    pmuHubEach 0x13 (some (2 + fn)) (some (fnMaster fn)) none ((List.range ((rest + len) / 96)).map (fun k => (a + 96 * (k + 1) - rest - 1, 1)))
    act (.hub (fun h => { h with bar2Rest := (rest + len) % 96 }))
    byteTraffic data.isSome a len (some (2 + fn)) (some (fnMaster fn)) (some 6)
    bwCount (if data.isSome then 18 else 19) len
    match data with
    | some d => tierWrite a d
    | none =>
      let bs ← look (·.windowBytes a len)
      let p ← look (fun s => (List.range len).any (fun i => s.poisoned (a + i)))
      act (.out (.bar2 fn bs p)))

end Sys2Proof.Machine
end

