-- ==== Sys2Proof/Machine/MacCmds.lean ====
section
/-! DEFINITION. The commands of the ports (R347, R381 to R412). -/

namespace Sys2Proof.Machine

/-! Link state (R382 to R384). -/

/-- PORT_SIGNAL_DETECT: signal on a DOWN port's lanes starts training. -/
def execPortSignalDetect (port : Nat) : Meaning := M.next (do
  let st ← look (·.macState port)
  if st = macDown then
    setFld (Fl.MAC_STATUS_STATE port) macTraining
    modPort port (fun p => { p with noAbility := false }))

/-- AUTONEG_RETRY: a port on copper tries auto-negotiation again; with no common ability it stays in TRAINING (R382). -/
def execAutonegRetry (port : Nat) (common : Bool) : Meaning := M.next (do
  let st ← look (·.macState port)
  let cu ← look (·.portCopper port)
  if st = macTraining ∧ cu then modPort port (fun p => { p with noAbility := !common }))

/-- PORT_UP: alignment and FEC lock bring a port in TRAINING or RETRAIN UP. -/
def execPortUp (port : Nat) : Meaning := M.next (do
  let st ← look (·.macState port)
  let p ← getPort port
  let cu ← look (·.portCopper port)
  if (st = macTraining ∧ !(cu && p.noAbility)) ∨ st = macRetrain then enterUp port)

/-- PORT_DOWN: a port leaves UP for want of signal. -/
def execPortDown (port : Nat) : Meaning := M.next (do
  let st ← look (·.macState port)
  if st = macUp ∨ st = macStepping then leavePort port macDown)

/-- LINK_RETRAIN: a 1 ms window's codewords are counted; too many uncorrectable ones, or markers lost for more than 1 ms, start a retrain (R384). -/
def execLinkRetrain (port corrected uncorrected : Nat) (markersLost : Bool) : Meaning := M.next (do
  let st ← look (·.macState port)
  if st = macUp ∨ st = macStepping then
    bump (Reg.MAC_COUNT_LO port 4) corrected
    bump (Reg.MAC_COUNT_LO port 5) uncorrected
    let th ← getFld (Fl.MAC_CTRL_RETRAIN_THRESH port)
    if (th ≠ 0 ∧ th < uncorrected) ∨ markersLost then startRetrain port)

/-- A write of MAC_CTRL: RUN enables the port, unless its cage is disabled, or disables it; RETRAIN starts a retrain of a port that is up (R383, R404). -/
def macCtrlWrite (master port value : Nat) : M Unit := byMaster master (Reg.MAC_CTRL port) (do
  let was ← getFld (Fl.MAC_CTRL_RUN port)
  regWrite master (Reg.MAC_CTRL port) value
  let now ← getFld (Fl.MAC_CTRL_RUN port)
  let cage ← look (·.cageOf port)
  if was = 0 ∧ now = 1 ∧ cage.isSome then setFld (Fl.MAC_STATUS_STATE port) macDown
  if was = 1 ∧ now = 0 then leavePort port macDisabled
  let st ← look (·.macState port)
  if bitOf value 7 ∧ (st = macUp ∨ st = macStepping) then startRetrain port)

/-- RETRAIN, and MAC_RUN_WRITE: writes of MAC_CTRL. -/
def execRetrain (master port value : Nat) : Meaning := M.next (macCtrlWrite master port value)
def execMacRunWrite (master port value : Nat) : Meaning := M.next (macCtrlWrite master port value)

/-- RETRAIN_TIMEOUT: a port not back in UP enters DOWN (R384). -/
def execRetrainTimeout (port : Nat) : Meaning := M.next (do
  let st ← look (·.macState port)
  if st = macRetrain then setFld (Fl.MAC_STATUS_STATE port) macDown)

/-- PORT_SIGNAL_LOST: a port in TRAINING or RETRAIN loses its signal (R383). -/
def execPortSignalLost (port : Nat) : Meaning := M.next (do
  let st ← look (·.macState port)
  if st = macTraining ∨ st = macRetrain then setFld (Fl.MAC_STATUS_STATE port) macDown)

/-! Reception (R386 to R390). -/

/-- The addresses that every port accepts (R387). -/
def macBroadcast : Nat := 0xFFFFFFFFFFFF
def macLldp : Nat := 0x0180C200000E
def macPtp : Nat := 0x011B19000000
def macPause : Nat := 0x0180C2000001

/-- The port's IPv4 address and its IPv6 address, byte 0 the highest (R406). -/
def State.portIp6 (s : State) (n : Nat) : Nat :=
  (List.range 4).foldl (fun a w => a * 2 ^ 32 + (s.reg (Reg.MAC_IPV6 n w)).toNat) 0
def State.portIp (s : State) (n : Nat) (v6 : Bool) : Nat := if v6 then s.portIp6 n else (s.reg (Reg.MAC_IPV4 n)).toNat

/-- Does the frame keep R386? An LLDP frame goes untagged. -/
def State.tagsOk (s : State) (n : Nat) (f : Frame) : Bool :=
  if s.fld (Fl.MAC_VLAN_TAG_EN n) = 0 then f.tags.isEmpty
  else
    let vid := s.fld (Fl.MAC_VLAN_VID n)
    match f.tags with
    | [] => decide (f.etherType = 0x88CC)
    | [(tpid, tci)] => decide (tpid = 0x8100) && decide (tci % 4096 = vid) && decide (vid ≠ 0) && decide (vid ≠ 4095)
    | _ => false

/-- Is the frame for stage firmware (R389)? -/
def State.forStage (s : State) (f : Frame) : Bool :=
  if f.etherType = 0x0806 then true
  else if f.etherType = 0x88F7 then !f.pdelay
  else if f.etherType = 0x88CC then f.other
  else if f.etherType = 0x0800 ∨ f.etherType = 0x86DD then
    (if f.proto = 17 then decide (f.udpPort ≠ s.fld Fl.NRT_CTRL_UDP_PORT) && !f.pdelay else true)
  else false

/-- The first check of R387 that a frame fails, by its cause. -/
def State.frameCause (s : State) (n : Nat) (f : Frame) : Option Nat :=
  let ip := decide (f.etherType = 0x0800) || decide (f.etherType = 0x86DD)
  let mine := s.portIp n (decide (f.etherType = 0x86DD))
  let udp := ip && decide (f.proto = 17)
  let checks : List (Nat × Bool) := [
    (0, !f.fcsOk),
    (1, decide (f.length < 64)),
    (2, decide (s.frameLimit n < f.length)),
    (3, !(decide (f.dst = s.portMac n) || decide (f.dst = macBroadcast) || decide (f.dst = macLldp) || decide (f.dst = macPtp) ||
      (decide (s.fld (Fl.MAC_CTRL_PFC_EN n) = 1) && decide (f.dst = macPause)))),
    (4, !s.tagsOk n f),
    (5, !(decide (f.etherType ∈ [0x0800, 0x86DD, 0x0806, 0x88F7, 0x88CC]) ||
      (decide (f.etherType = 0x8808) && decide (f.pfcOpcode = 0x0101) && decide (s.fld (Fl.MAC_CTRL_PFC_EN n) = 1)))),
    (6, ip && !(f.ipOk && decide (mine ≠ 0) && decide (f.ipDst = mine))),
    (7, ip && !(decide (f.proto ∈ [1, 58]) ||
      (decide (f.proto = 17) && decide (f.udpPort ∈ [s.fld Fl.NRT_CTRL_UDP_PORT, 319, 320])))),
    (8, udp && !f.udpSumOk),
    (9, udp && decide (f.udpPort = s.fld Fl.NRT_CTRL_UDP_PORT) && !f.nrtOk),
    (10, f.noBuf),
    (11, s.forStage f && decide (64 ≤ (s.port n).rxq.length))]
  (checks.find? (·.2)).map (·.1)

/-- A frame without its tag (R386). -/
def untagged (f : Frame) : Frame := { f with tags := [], length := f.length - 4 * f.tags.length }

/-- FRAME_RECEIVE: a frame is dropped under its first failing cause, or accepted and counted; its tag is removed, those for stage firmware are queued with
their ingress timestamp (R387, R389, R392), a partner's peer-delay request is answered (R391), and the receive buffers may send XOFF or XON (R390). What else
a frame carries comes by commands of its own, which count no frame again. -/
def execFrameReceive (port : Nat) (frame : Frame) : Meaning := M.next (do
  let go ← look (·.receives port)
  let cause ← look (·.frameCause port frame)
  if go then
    match cause with
    | some c => bump (Reg.MAC_DROP_LO port c) 1
    | none =>
      bump (Reg.MAC_COUNT_LO port 0) 1
      bump (Reg.MAC_COUNT_LO port 1) frame.length
      bwCount (2 * port) frame.length
      modPort port (fun p => { p with rxWin := p.rxWin + frame.length })
      let stage ← look (·.forStage frame)
      let t ← look (fun s => s.stamp false (s.fld (Fl.MAC_PTP_LAT_RX_LAT port)))
      if stage then modPort port (fun p => { p with rxq := p.rxq ++ [⟨untagged frame, t.1, t.2⟩] })
      else if frame.ask then
        let pcp ← look (·.mgmtPcp port)
        let bytes ← look (·.tagBytes port)
        let tag ← look (·.tagOf port pcp)
        portSend port pcp (72 + bytes) (.pdelayResp port tag t)
    pfcBuffers port frame.buffered)

/-- Does the port honour PFC at all? -/
def State.pfcMask (s : State) (n : Nat) : Nat := if s.fld (Fl.MAC_CTRL_PFC_EN n) = 1 then s.fld (Fl.MAC_PFC_PRIO_EN n) else 0

/-- PFC_FRAME: the priorities that the frame names and PRIO_EN has set are paused; quanta of 0 end a pause (R390). -/
def execPfcFrame (port mask : Nat) (quanta kib : List Nat) : Meaning := M.next (do
  let go ← look (·.receives port)
  let en ← look (·.pfcMask port)
  if go then
    let on := (List.range 8).filter (fun i => bitOf mask i && bitOf en i && decide (quanta.getD i 0 ≠ 0))
    let off := (List.range 8).filter (fun i => bitOf mask i && bitOf en i && decide (quanta.getD i 0 = 0))
    modPort port (fun p => { p with
      paused := (p.paused.filter (fun i => !off.contains i)) ++ on.filter (fun i => !p.paused.contains i) })
    portRelease port
    pfcBuffers port kib)

/-- PFC_PAUSE_EXPIRE: a priority's quanta have run out. -/
def execPfcPauseExpire (port prio : Nat) (kib : List Nat) : Meaning := M.next (do
  modPort port (fun p => { p with paused := p.paused.filter (fun i => decide (i ≠ prio)) })
  portRelease port
  pfcBuffers port kib)

/-- A frame of stage firmware as the port sends it: tagged, but for LLDP, and padded to 64 bytes (R386, R388). -/
def State.sentFrame (s : State) (n : Nat) (f : Frame) : Frame :=
  let tag := if f.etherType = 0x88CC then none else s.tagOf n (s.mgmtPcp n)
  let tags := tag.toList.map (fun t => (0x8100, t))
  { f with tags := tags, length := max 64 (f.length + 4 * tags.length), fcsOk := true }

/-- The frames of stage firmware that a port's transmit queue holds (R389). -/
def Port.mgmtHeld (p : Port) : Nat := (p.held.filter (fun x => match x.2.2 with
  | .frame _ _ => true
  | _ => false)).length

/-- MGMT_QUEUE_SEND: stage firmware sends a frame; its egress timestamp is reported when it leaves (R389). A frame beyond the port's limit is not sent (R388),
the queue takes 64 frames, and a frame that offers the module as grandmaster (an Announce, a Sync or a Follow_Up) goes out only with GM_EN: without it the
module is slave-only on the port (R391, R404). -/
def execMgmtQueueSend (port : Nat) (frame : Frame) : Meaning := M.next (do
  let st ← look (·.macState port)
  let f ← look (·.sentFrame port frame)
  let limit ← look (·.frameLimit port)
  let p ← getPort port
  let pcp ← look (·.mgmtPcp port)
  let gm ← getFld (Fl.MAC_CTRL_GM_EN port)
  if (st = macUp ∨ st = macStepping) ∧ f.length ≤ limit ∧ p.mgmtHeld < 64 ∧ (f.master → gm = 1) then
    portSend port (if f.etherType = 0x88CC then 8 else pcp) f.length (.frame port f))

/-! LLDP and the topology table (R347, R394 to R396). -/

/-- LLDP_TRANSMIT: the agent's LLDPDU of an interval. -/
def execLldpTransmit (port : Nat) : Meaning := M.next (do
  let st ← look (·.macState port)
  if st = macUp ∨ st = macStepping then lldpSend port)

/-- LLDPDU_RECEIVE: a partner's LLDPDU, with the content of its capability TLV and its EEE wake time where it has them (R395, R396, R402). -/
def execLldpduReceive (port mac : Nat) (cap tw : Option Nat) (ttl : Nat) : Meaning := M.next (do
  let go ← look (·.receives port)
  let now ← look (·.time)
  if go then
    let c := cap.getD 0
    let flags := bitsOf c 31 24
    let wake := match tw with
      | some t => max (t % 65536) (Config.wakeTime port % 65536)
      | none => 0
    modPort port (fun p => { p with lldpAt := some now, partner := (
      if ttl = 0 then none
      else some (Partner.mk mac (bitsOf c 7 0) cap.isSome tw.isSome (bitOf flags 0) (bitsOf c 15 8) (tw.getD 0) ttl now)) })
    setFld (Fl.MAC_STATUS_STEP_OK port) (if ttl ≠ 0 ∧ bitOf flags 0 then 1 else 0)
    setFld (Fl.MAC_STATUS_TW port) (if ttl = 0 then 0 else wake)
    if port = 8 ∧ (cap.isNone ∨ bitsOf c 7 0 ≠ 8) then
      setBit (Fl.MAC_STATUS_MISCABLED 8)
      raise Ev.twinMiscabled (srcPort 8) 0 0)

/-- LLDP_PARTNER_EXPIRE: a partner not heard for its TTL is cleared (R395). -/
def execLldpPartnerExpire (port : Nat) : Meaning := M.next (do
  modPort port (fun p => { p with partner := none })
  setFld (Fl.MAC_STATUS_STEP_OK port) 0
  setFld (Fl.MAC_STATUS_TW port) 0)

/-- Is a port up as the topology table has it? A step is no link state change (R401). -/
def State.linkUp (s : State) (n : Nat) : Bool := decide (s.macState n = macUp) || decide (s.macState n = macStepping)

/-- One port's record of the topology table (R347). -/
def topoPort (n : Nat) : M Unit := do
  let p ← getPort n
  let up ← look (·.linkUp n)
  let sp ← look (·.portSpeed n)
  let media ← look (·.portMedia n)
  let cmis ← look (fun s => ((s.cageOf n).map (fun c => s.fld (Fl.IDENT_CAGE_LENGTH c))).getD 0)
  let mac := (p.partner.map (·.mac)).getD 0
  let flag := fun (b : Bool) (v : Nat) => if b then v else 0
  setReg (Reg.TOPO_PARTNER_LO n) (BitVec.ofNat 32 mac)
  setReg (Reg.TOPO_PARTNER_HI n) (BitVec.ofNat 32 (mac / 2 ^ 32 % 2 ^ 16 + (if up then sp else 0) * 2 ^ 16 + media * 2 ^ 20 +
    flag (p.partner.any (·.nrt)) (2 ^ 24) + flag (p.partner.any (·.eee)) (2 ^ 25) + flag p.ptp.isSome (2 ^ 26)))
  setReg (Reg.TOPO_LENGTH n) (BitVec.ofNat 32 ((p.ptp.map (·.2)).getD cmis % 2 ^ 16 + (p.ptp.map (·.1)).getD 0xFFFF % 2 ^ 16 * 2 ^ 16))
  setReg (Reg.TOPO_PORT n) (BitVec.ofNat 32 ((p.partner.map (·.port)).getD 0))

/-- TOPOLOGY_PUBLISH: stage firmware publishes the table (R347). -/
def execTopologyPublish : Meaning := M.next (do
  let g ← getReg Reg.TOPO_GEN
  setReg Reg.TOPO_GEN (g + 1)
  let c ← getFld Fl.IDENT_CAP_CEILING_CEILING
  setReg Reg.TOPO_CEILING (BitVec.ofNat 32 c)
  let up ← look (fun s => (List.range 9).foldl (fun a n => if s.linkUp n then a + 2 ^ n else a) 0)
  setReg Reg.TOPO_PORTS (BitVec.ofNat 32 up)
  for n in List.range 9 do topoPort n)

/-! Time (R392, R393). -/

/-- PDELAY_EXCHANGE: one of the 16 exchanges, with (t4 − t1) − (t3 − t2) in 1/16 ns where the partner answered. -/
def execPdelayExchange (port : Nat) (answer : Option Int) : Meaning := M.next (do
  let st ← look (·.macState port)
  let p ← getPort port
  if st = macUp ∧ p.exchanges < 16 then
    let pcp ← look (·.mgmtPcp port)
    let bytes ← look (·.tagBytes port)
    let tag ← look (·.tagOf port pcp)
    portSend port pcp (72 + bytes) (.pdelay port tag)
    modPort port (fun p => { p with exchanges := p.exchanges + 1, delays := p.delays ++ answer.toList })
    if p.exchanges = 15 then pdelayResult port)

/-- PTP_LOST: no Sync for 2 s on the port that stage firmware has chosen as time source (R392). -/
def execPtpLost (port : Nat) : Meaning := M.next (raise Ev.ptpLost (srcPort port) 0 0)

/-! Speed steps (R398 to R401). -/

/-- May the port ask for a step? -/
def State.stepReady (s : State) (n : Nat) : Bool :=
  let p := s.port n
  decide (s.macState n = macUp) && decide (n ≠ 8) && decide (2 ≤ s.portSpeed n) && decide (s.fld (Fl.MAC_STATUS_STEP_OK n) = 1) &&
    !s.crossPending && p.stepTo.isNone && p.agreed.isNone

/-- A TLV of a step or a twin reset goes out at once, in an LLDPDU of its own (R400, R553). -/
def tlvOut (n : Nat) (o : Out) : M Unit := portOut n 64 o

/-- A request of a step goes to the partner, and the transmit queue is held. -/
def stepRequest (n : Nat) (up : Bool) (target : Nat) : M Unit := do
  setFld (Fl.MAC_STATUS_STATE n) macStepping
  modPort n (fun p => { p with stepTo := some (up, target) })
  tlvOut n (.stepTlv n false up target)

/-- STEP_DOWN_REQUEST: a port used below 10 % in each of 200 windows asks for one level less (R399). -/
def execStepDownRequest (port : Nat) : Meaning := M.next (do
  let ok ← look (fun s => s.stepReady port && decide (s.lpMethod port = 1))
  let p ← getPort port
  let sp ← getFld (Fl.MAC_STATUS_SPEED port)
  if ok ∧ !p.noSteps ∧ 1 < sp ∧ 200 ≤ p.low then stepRequest port false (sp - 1))

/-- STEP_UP_REQUEST: a stepped port with a backlog for 10 µs, or used above UP_SHARE, asks for one level more (R399). -/
def execStepUpRequest (port : Nat) : Meaning := M.next (do
  let ok ← look (·.stepReady port)
  let p ← getPort port
  let sp ← getFld (Fl.MAC_STATUS_SPEED port)
  let top ← look (·.portSpeed port)
  if ok ∧ !p.noSteps ∧ sp < top ∧ (10 ≤ p.backUs ∨ p.busy) then stepRequest port true (sp + 1))

/-- A request is accepted: the acknowledgement goes out and both ends will change speed. -/
def stepAccept (n : Nat) (up : Bool) (target : Nat) : M Unit := do
  setFld (Fl.MAC_STATUS_STATE n) macStepping
  modPort n (fun p => { p with stepTo := none, agreed := some target })
  tlvOut n (.stepTlv n true up target)

/-- STEP_TLV: a request or an acknowledgement from the partner (R400). A request for the same direction as one's own is its acknowledgement, with the
higher target, which never lies above the configured speed; a request for a step up overrides one's own for a step down, whose count starts again, and the
other way round it is refused. A step down is accepted only while STEP is the method in effect (R397). -/
def execStepTlv (port : Nat) (ack up : Bool) (target : Nat) : Meaning := M.next (do
  let go ← look (·.receives port)
  let p ← getPort port
  let sp ← getFld (Fl.MAC_STATUS_SPEED port)
  let top ← look (·.portSpeed port)
  let ready ← look (·.stepReady port)
  let steps ← look (fun s => decide (s.lpMethod port = 1))
  let fits := if up then decide (target = sp + 1) && decide (target ≤ top) else steps && decide (target + 1 = sp) && decide (1 ≤ target)
  if go then
    match p.stepTo with
    | some (d, t) =>
      if ack then
        if d = up ∧ t = target then modPort port (fun p => { p with stepTo := none, agreed := some t, abandoned := 0 })
      else if d = up ∧ 1 ≤ target ∧ target ≤ top then
        modPort port (fun p => { p with stepTo := none, agreed := some (max t target), abandoned := 0 })
      else if up ∧ fits then
        modPort port (fun p => { p with low := 0, abandoned := 0 })
        stepAccept port up target
    | none => if !ack ∧ ready ∧ fits then stepAccept port up target)

/-- STEP_SPEED_CHANGE: 100 µs after the acknowledgement both ends change speed. -/
def execStepSpeedChange (port : Nat) : Meaning := M.next (do
  let p ← getPort port
  let st ← look (·.macState port)
  let sp ← getFld (Fl.MAC_STATUS_SPEED port)
  match p.agreed with
  | some t =>
    if st = macStepping ∧ p.changing.isNone then
      setFld (Fl.MAC_STATUS_SPEED port) t
      setFld (Fl.MAC_STATUS_FEC_LOCK port) 0
      setLatency port t
      modPort port (fun p => { p with changing := some (decide (sp < t)) })
  | none => pure ())

/-- STEP_SPEED_UP: the port is back in UP at its new speed, and its queue is released. -/
def execStepSpeedUp (port : Nat) : Meaning := M.next (do
  let p ← getPort port
  let st ← look (·.macState port)
  match p.changing with
  | some up =>
    if st = macStepping then
      setFld (Fl.MAC_STATUS_STATE port) macUp
      setFld (Fl.MAC_STATUS_FEC_LOCK port) 1
      bump (Reg.MAC_COUNT_LO port (if up then 8 else 7)) 1
      modPort port (fun p => { p.fresh with agreed := none, changing := none })
      portRelease port
  | none => pure ())

/-- STEP_REQUEST_ABANDON: a request unanswered for 10 ms; after three in a row the port asks no more until it next comes UP by training. -/
def execStepRequestAbandon (port : Nat) : Meaning := M.next (do
  let p ← getPort port
  let st ← look (·.macState port)
  if st = macStepping ∧ p.stepTo.isSome then
    setFld (Fl.MAC_STATUS_STATE port) macUp
    bump (Reg.MAC_COUNT_LO port 9) 1
    modPort port (fun p => { p with stepTo := none, abandoned := p.abandoned + 1, noSteps := p.noSteps || decide (2 ≤ p.abandoned) })
    portRelease port)

/-! Low-power idle (R402). -/

/-- LPI_ENTER: a transmit side that has been idle for LPI_IDLE, 0 taken as 1 (R409), signals LPI: this port's, under R398 and with a partner that offers EEE, or the partner's. -/
def execLpiEnter (port : Nat) (partner : Bool) : Meaning := M.next (do
  let st ← look (·.macState port)
  let p ← getPort port
  let eee ← look (fun s => decide (s.lpMethod port = 2))
  let cross ← look (·.crossPending)
  let idle ← getFld (Fl.MAC_LP_LPI_IDLE port)
  if st = macUp then
    if partner then setFld (Fl.MAC_STATUS_LPI_RX port) 1
    else if eee ∧ p.partner.any (·.eee) ∧ !cross ∧ p.held.isEmpty ∧ max idle 1 ≤ p.idleUs then setFld (Fl.MAC_STATUS_LPI_TX port) 1)

/-- LPI_WAKE: the wake time of a frame queued during LPI has passed and it is sent; or the partner has woken. -/
def execLpiWake (port : Nat) (partner : Bool) : Meaning := M.next (do
  let p ← getPort port
  if partner then setFld (Fl.MAC_STATUS_LPI_RX port) 0
  else if !p.held.isEmpty then
    setFld (Fl.MAC_STATUS_LPI_TX port) 0
    portRelease port)

end Sys2Proof.Machine
end

