-- ==== Sys2Proof/Machine/RstOps.lean ====
section
/-! DEFINITION. Shared operations of resets and the start (R547 to R572): asserting and releasing sources, the start log, option loading, images and the
configuration record, block resets, restarts of stage firmware. -/

namespace Sys2Proof.Machine

/-- A change of what resets and the start hold. -/
def modRst (f : Rst → Rst) : M Unit := act (.rst f)

/-- RSTC_STATE's values (R576). -/
def stOptions : Nat := 1
def stKeeperBoot : Nat := 2
def stSupplyWait : Nat := 3
def stThermalWait : Nat := 4
def stDies : Nat := 5
def stStageBoot : Nat := 6
def stRunning : Nat := 7
def stRecovery : Nat := 8
def State.rstState (s : State) : Nat := s.fld Fl.RSTC_STATE_STATE

/-- Does keeper firmware run: from its boot on, and not in minimal recovery mode (R554, R569)? -/
def State.keeperRuns (s : State) : Bool := decide (3 ≤ s.rstState ∧ s.rstState ≤ 7)

/-- The registers from lo to hi return to their reset values, and what masters have latched or held of them is forgotten (R14). -/
def resetRegs (lo hi : Nat) : M Unit := do
  let inside := fun (a : Nat) => decide (lo ≤ a) && decide (a < hi)
  let ks ← look (fun s => (s.regs.filter (fun e => inside e.1)).map (·.1))
  for k in ks do setReg k (regReset k)
  let ks ← look (fun s => (s.latches.filter (fun e => inside (e.1 % 2 ^ 32))).map (·.1))
  for k in ks do act (.latch k none)
  let ks ← look (fun s => (s.holds.filter (fun e => inside (e.1 % 2 ^ 32))).map (·.1))
  for k in ks do act (.hold k none)
  let ks ← look (fun s => (s.shadows.filter (fun e => inside e.1)).map (·.1))
  for k in ks do act (.shadow k none)

/-! Sources (R548 to R552). -/

/-- The sources of HOST reach, and those of PERST#, hot reset and link down with FULL reach. -/
def srcHost : Nat := 4
def srcHostFull : Nat := 20

/-- The hub sends every far die that has been released a RESET_NOTE before its wire (R552). -/
def resetNotes (cause : Nat) : M Unit := do
  let l ← look (fun s => (List.range 8).filter (fun d => !s.cx.inReset.contains d))
  for d in l do resetNote d 1 cause

/-- The code that a recorded source leaves in the cause record: its own, but where another one asserted in this AO-KEEPER cycle, a period of the 25 MHz
reference, is still asserted, the lower of the two (R549). -/
def State.causeKept (s : State) (cause : Nat) : Nat :=
  let same := s.rst.interval && decide (2 ≤ s.rst.widest) && s.rst.asserted.any (fun x => decide (x ≠ srcHost)) &&
    decide (s.reg64 Reg.RSTC_CAUSE_TIME_LO = s.time)
  if same then min (s.fld Fl.RSTC_CAUSE_CAUSE) cause else cause

/-- A recorded source of FULL reach asserts: the cause record, the interval, and the reset (R547 to R551). -/
def assertFull (src : Nat) : M Unit := do
  let code := if src = srcHostFull then 4 else src
  let cause ← look (·.causeKept code)
  let now ← look (·.time)
  let w ← look (·.rst.widest)
  resetNotes code
  setFld Fl.RSTC_CAUSE_CAUSE cause
  setReg Reg.RSTC_CAUSE_TIME_LO (BitVec.ofNat 32 now)
  setReg Reg.RSTC_CAUSE_TIME_HI (BitVec.ofNat 32 (now / 2 ^ 32))
  if w < 2 then bump (Reg.RSTC_COUNT_LO 0) 1
  modRst (fun r => { r with
    asserted := if r.asserted.contains src then r.asserted else r.asserted ++ [src], interval := true, widest := max r.widest 2 })
  act (.reset false)

/-- Only where the module is powered does anything assert. -/
def whenPowered (k : M Unit) : M Unit := do
  let on ← look (·.rst.powered)
  if on then k

/-- A HOST reset (R474, R475): every function detaches and returns to reset, the PCIe link goes down. -/
def assertHost : M Unit := do
  for f in List.range 9 do fnReset f
  act (.host (fun h => { h with numVfs := 0 }))
  setReg Reg.HOSTIF_LINK 0
  bump (Reg.RSTC_COUNT_LO 1) 1
  modRst (fun r => { r with
    asserted := if r.asserted.contains srcHost then r.asserted else r.asserted ++ [srcHost], interval := true, widest := max r.widest 1
    hostHeld := true })

/-! The start log (R566, R567). -/

/-- A record of the log, as its flash offset has it. -/
structure LogRec where
  place : Nat
  kind : Nat
  count : Nat
  serial : Nat
deriving DecidableEq, Repr

/-- The record at a flash offset, if its MAGIC and its CRC pass. -/
def State.logAt (s : State) (a : Nat) : Option LogRec :=
  let b := s.flashBytes a 16
  if leAt b 0 1 = 0xA5 ∧ crc32c (b.take 12) = leAt b 12 4 then some ⟨a, leAt b 1 1, leAt b 3 1, leAt b 4 4⟩ else none

/-- The last valid record of a sector's sequence. -/
def State.logSector (s : State) (base : Nat) : Option LogRec :=
  let l := ((List.range 4096).map (fun i => s.logAt (base + 16 * i))).takeWhile (·.isSome)
  (l.getLast?).getD none

/-- The last valid record L: of the two sectors' the one written later. -/
def State.logLast (s : State) : Option LogRec :=
  match s.logSector 0x10000, s.logSector 0x20000 with
  | some a, some b => if a.serial < b.serial then some b else some a
  | some a, none => some a
  | none, b => b

/-- Write the next record; a full sector makes way for the other, which is erased. -/
def logWrite (kind count : Nat) : M Unit := do
  let last ← look (·.logLast)
  let cause ← getFld Fl.RSTC_CAUSE_CAUSE
  let hours ← getReg Reg.CLKG_HOURS
  let place := match last with
    | none => 0x10000
    | some l => if (l.place + 16) % 0x10000 = 0 then (if l.place < 0x20000 then 0x20000 else 0x10000) else l.place + 16
  let serial := match last with
    | none => 1
    | some l => l.serial + 1
  if place % 0x10000 = 0 ∧ last.isSome then flashWrite place (List.replicate 0x10000 0xFF)
  let b := [0xA5] ++ leBytes 1 kind ++ leBytes 1 cause ++ leBytes 1 count ++ leBytes 4 serial ++ leBytes 4 hours.toNat
  flashWrite place (b ++ leBytes 4 (crc32c b))

/-- Does a cause of R548 count as a failed start? -/
def causeCounts (c : Nat) : Bool := decide (c = 1 ∨ c = 5 ∨ c = 9)

/-- The failed-start count n, and whether the start before this one is found failed (R567, R568). A start that ended in recovery mode has written no record, and
only EXIT leaves that mode (R570), so the COUNT of the retained cause record, where it is 4 or more, stands. -/
def State.failedStarts (s : State) : Nat × Bool :=
  let n := s.fld Fl.RSTC_CAUSE_COUNT
  let held := if 4 ≤ n ∧ !s.rst.lost then n else 0
  match s.logLast with
  | none => (0, false)
  | some l =>
    if l.kind ≠ 1 then (0, false)
    else if causeCounts (s.fld Fl.RSTC_CAUSE_CAUSE) || s.rst.lost || s.rst.bootFailed then (max held (l.count + 1), true)
    else (max held l.count, false)

/-- Minimal recovery mode: its event goes to the MCTP records at once, for stage firmware does not run (R569). -/
def enterRecovery : M Unit := do
  setFld Fl.RSTC_STATE_STATE stRecovery
  raise Ev.recoveryMode srcKeeper 0 0
  act (.host (fun h => { h with pldmLog := h.pldmLog ++ [Ev.recoveryMode.code] }))

/-! Options (R560 to R563). -/

/-- Does an ECDSA signature in flash verify? Not under a signer key whose hash is not the fused one (R561). -/
def State.keyBad (s : State) : Bool := decide (Config.sha384 (s.flashBytes 0x3F00000 97) ≠ Config.fusedKeyHash)
def State.signed (s : State) (body sig : List Byte) : Bool :=
  !s.keyBad && Config.ecdsaVerifies Config.fusedKeyHash (Config.sha384 body) sig

/-- Is a range of the flash whole: no write or erase of a part of it has been cut off (R564)? -/
def State.flashWhole (s : State) (a n : Nat) : Bool := s.rst.torn.all (fun t => decide (t.hi < a) || decide (a + n ≤ t.lo))

/-- Is a copy of the option bytes, staged from a flash offset, valid? -/
def State.optionOk (s : State) (a : Nat) (b : List Byte) : Bool :=
  s.flashWhole a 132 && decide (leAt b 0 4 = 0x504F5754) && decide (crc32c (b.take 128) = leAt b 128 4) && s.signed (b.take 32) ((b.drop 32).take 96) &&
    decide (leAt b 8 1 < 2 ∧ leAt b 9 1 < 2 ∧ leAt b 15 1 = 0 ∧ leAt b 24 8 = 0)

/-- SELECT: the valid copy with the higher SEQ, or A; 0 with none. -/
def OptLoad.pick (x : OptLoad) : Nat := if x.okA && (!x.okB || decide (leAt x.b 4 4 ≤ leAt x.a 4 4)) then 1 else if x.okB then 2 else 0

/-- COMMIT: the selection, or the fused floor, comes into force whole. -/
def optionCommit (x : OptLoad) : M Unit := do
  setFld Fl.OPTS_STATUS_SOURCE x.src
  if x.src = 0 then
    setReg Reg.OPTS_SEQ 0
    setReg Reg.OPTS_VALUES (BitVec.ofNat 32 (1000 * 2 ^ 16))
    setReg Reg.OPTS_MIN_REV (BitVec.ofNat 32 Config.fusedMinRev)
    modRst (fun r => { r with minKeeper := Config.fusedKeeperVersion, minStage := Config.fusedStageVersion })
    measure 0 (List.replicate 128 0)
  else
    let b := if x.src = 1 then x.a else x.b
    setReg Reg.OPTS_SEQ (BitVec.ofNat 32 (leAt b 4 4))
    setReg Reg.OPTS_VALUES (BitVec.ofNat 32 (leAt b 8 1 + 2 * leAt b 9 1 + max 50 (min 5000 (leAt b 10 2)) * 2 ^ 16))
    setReg Reg.OPTS_MIN_REV (BitVec.ofNat 32 (leAt b 12 1 + leAt b 13 1 * 256 + leAt b 14 1 * 65536))
    modRst (fun r => { r with minKeeper := leAt b 16 4, minStage := leAt b 20 4 })
    measure 0 (b.take 128)

/-- A state of the option state machine is done. -/
def optPut (x : OptLoad) : M Unit := modRst (fun r => { r with opt := some x })
def optionStep : M Unit := do
  let o ← look (·.rst.opt)
  match o with
  | none => pure ()
  | some x =>
    match x.st with
    | .readA =>
      let b ← look (·.flashBytes 0 132)
      optPut { x with a := b, st := .checkA }
    | .checkA =>
      let ok ← look (·.optionOk 0 x.a)
      setFld Fl.OPTS_STATUS_A_BAD (if ok then 0 else 1)
      optPut { x with okA := ok, st := .readB }
    | .readB =>
      let b ← look (·.flashBytes 0x1000 132)
      optPut { x with b := b, st := .checkB }
    | .checkB =>
      let ok ← look (·.optionOk 0x1000 x.b)
      setFld Fl.OPTS_STATUS_B_BAD (if ok then 0 else 1)
      optPut { x with okB := ok, st := .select }
    | .select => optPut { x with src := x.pick, st := .commit }
    | .commit =>
      optionCommit x
      modRst (fun r => { r with opt := none })
      setFld Fl.RSTC_STATE_STATE stKeeperBoot

/-- The states that are left are done, up to DONE. -/
def optionFinish : M Unit := do
  for _ in List.range 6 do optionStep

/-! Images and the configuration record (R565, R568). -/

/-- Is an image slot acceptable? -/
def State.slotOk (s : State) (a size magic minVer : Nat) : Bool :=
  let h := s.flashBytes a 256
  let n := leAt h 8 4
  decide (leAt h 0 4 = magic ∧ n + 256 ≤ size ∧ minVer ≤ leAt h 4 4) && s.flashWhole a (256 + n) &&
    decide (Config.sha384 (s.flashBytes (a + 256) n) = (h.drop 16).take 48) && s.signed (h.take 64) ((h.drop 64).take 96)

/-- The slot taken, 0 for A and 1 for B: the higher acceptable VERSION. -/
def State.pickSlot (s : State) (a b size magic minVer : Nat) : Option Nat :=
  let okA := s.slotOk a size magic minVer
  let okB := s.slotOk b size magic minVer
  if okA && (!okB || decide (s.flashLe (b + 4) 4 ≤ s.flashLe (a + 4) 4)) then some 0 else if okB then some 1 else none

/-- An image's header and body. -/
def State.image (s : State) (a : Nat) : List Byte := s.flashBytes a (256 + s.flashLe (a + 8) 4)

/-- The keeper and stage image slots. -/
def keeperPlace (k : Nat) : Nat := 0x100000 + k * 0x100000
def stagePlace (k : Nat) : Nat := 0x400000 + k * 0x1000000
def State.pickKeeper (s : State) : Option Nat := s.pickSlot (keeperPlace 0) (keeperPlace 1) 0x100000 0x4B465754 s.rst.minKeeper
def State.pickStage (s : State) : Option Nat := s.pickSlot (stagePlace 0) (stagePlace 1) 0x1000000 0x53465754 s.rst.minStage
def State.stageOk (s : State) (k : Nat) : Bool := s.slotOk (stagePlace k) 0x1000000 0x53465754 s.rst.minStage

/-- The configuration record comes into force: selected as options are, but by CRC alone. -/
def configLoad : M Unit := do
  let ok := fun (s : State) (a : Nat) => s.flashWhole a 704 && decide (crc32c (s.flashBytes a 700) = s.flashLe (a + 700) 4)
  let ok0 ← look (fun s => ok s 0x2000)
  let ok1 ← look (fun s => ok s 0x3000)
  let q0 ← look (·.flashLe 0x2004 4)
  let q1 ← look (·.flashLe 0x3004 4)
  setFld Fl.OPTS_STATUS_CFG_DEFAULT (if ok0 || ok1 then 0 else 1)
  if ok0 || ok1 then
    let a := if ok0 && (!ok1 || decide (q1 ≤ q0)) then 0x2000 else 0x3000
    let b ← look (·.flashBytes a 704)
    modRst (fun r => { r with cfg := b })
    measure 3 b
  else
    modRst (fun r => { r with cfg := [] })
    raise Ev.configInvalid srcKeeper 0 0

/-- Stage firmware applies the configuration record to the ports, RUN last (R385, R556, R565). -/
def configApply : M Unit := do
  let b ← look (·.rst.cfg)
  if !b.isEmpty then
    for n in List.range 9 do
      let o := 64 + 64 * n
      let w := fun (k : Nat) => leAt b (o + k) 4
      let mac := leAt b 16 6 + n
      let put := fun (off v : Nat) => regWrite mStage off v
      put (Reg.MAC_ADDR_LO n) mac
      put (Reg.MAC_ADDR_HI n) (mac / 2 ^ 32)
      put (Reg.MAC_IPV4 n) (w 0)
      for i in List.range 4 do put (Reg.MAC_IPV6 n i) (w (4 + 4 * i))
      put (Reg.MAC_VLAN n) (w 20)
      put (Reg.MAC_PFC n) (w 28)
      put (Reg.MAC_LP n) (w 32)
      put (Reg.MAC_LLDP n) (w 36)
      let old ← getReg (Reg.MAC_CTRL n)
      macCtrlWrite mStage n (old.toNat / 128 * 128 + w 24 % 128)

/-! The start (R554). -/

/-- Is a far die's link up: no module of it still on its way, and one ACTIVE? -/
def State.dieUp (s : State) (d : Nat) : Bool :=
  (dieMods d).all (fun h => decide (s.cxState h ≠ cxReset ∧ s.cxState h ≠ cxTraining)) &&
    (dieMods d).any (fun h => decide (s.cxState h = cxActive))

/-- Is the die's own initialisation done, as far as it tells? The stacks send no READY (R552). -/
def State.dieReady (s : State) (d : Nat) : Bool := s.dieUp d && (decide (1 ≤ d ∧ d ≤ 4) || s.rst.ready.contains d)

/-- The start begins, at the release that ends a FULL or POWER interval: the signer key is compared, the log read and the failed-start count formed, then the
option state machine runs (R554, R561, R562, R567). Its states take the edges of the reference that follow, or are over with KEEPER_BOOT. -/
def startBegin : M Unit := do
  let bad ← look (·.keyBad)
  let lost ← look (·.rst.lost)
  if lost then
    let h ← look (·.flashLe 0x30000 4)
    setReg Reg.CLKG_HOURS (BitVec.ofNat 32 h)
  let n ← look (·.failedStarts)
  setFld Fl.RSTC_CAUSE_COUNT (min n.1 15)
  setFld Fl.RSTC_CAUSE_LOST (if lost then 1 else 0)
  modRst (fun r => { r with lost := false, bootFailed := false, keyBad := bad })
  if n.2 then bump (Reg.RSTC_COUNT_LO 4) 1
  if 4 ≤ n.1 then enterRecovery
  else
    logWrite 1 n.1
    optPut OptLoad.begin
    setFld Fl.RSTC_STATE_STATE stOptions

/-- The start goes on from the release of the update die, or waits for a hub that has tripped to cool (R46, R555). -/
def startDies : M Unit := do
  let trip ← look (·.pwr.tripAt)
  setFld Fl.RSTC_STATE_STATE (if trip.isSome then stThermalWait else stDies)

/-! Stage firmware (R571). -/

/-- Commands in progress complete with ABORTED. -/
def abortCommands : M Unit := do
  for f in List.range 9 do
    for q in List.range 4 do complete f q 8 []

/-- The keeper restarts stage firmware from the slot in use. The fourth restart within 60 s leaves it stopped, and so does an image that no longer
passes. -/
def stageRestart : M Unit := do
  let now ← look (·.time)
  let k ← getFld Fl.OPTS_STATUS_STAGE_SLOT
  let ok ← look (·.stageOk k)
  let img ← look (·.image (stagePlace k))
  bump (Reg.RSTC_COUNT_LO 3) 1
  raise Ev.stageRestart srcKeeper 0 0
  abortCommands
  modRst (fun r => { r with restarts := (now :: r.restarts).filter (fun t => decide (now - t < 60000000000)) })
  let l ← look (·.rst.restarts)
  if 4 ≤ l.length then
    modRst (fun r => { r with stage := .stopped })
    raise Ev.stageUnstable srcKeeper 0 0
  else if ok then
    measure 2 img
    modRst (fun r => { r with stage := .loaded })
  else modRst (fun r => { r with stage := .stopped })

/-- READY from stage firmware (R556, R571): the start is RUNNING, or a restart is done. -/
def readyWrite (master : Nat) : M Unit := do
  let st ← look (·.rstState)
  let stage ← look (·.rst.stage)
  if 0xC5 ≤ master ∧ master ≤ 0xC8 then
    if st = stStageBoot ∧ stage = .loaded then
      configApply
      logWrite 2 0
      modRst (fun r => { r with stage := .running })
      setFld Fl.RSTC_STATE_STATE stRunning
      let cause ← getFld Fl.RSTC_CAUSE_CAUSE
      let n ← getFld Fl.RSTC_CAUSE_COUNT
      raise Ev.start srcStage (cause + n * 16) 0
    else if st = stRunning ∧ stage = .loaded then
      modRst (fun r => { r with stage := .running })
      setFld Fl.RSTC_BLOCK_MGMT 0

/-! Twin resets (R553). -/

/-- The twin reset TLV goes out on port 8, where the module has a twin port and it is UP: without one no PAIR tag can be formed (R34). -/
def twinSend : M Unit := do
  let go ← look (fun s => s.hasTwin && s.portUp 8)
  let pair ← look (·.myPair)
  let job ← look (fun s => (s.job.map (·.jobId)).getD 0 % 2 ^ 32)
  if go then tlvOut 8 (.twinReset pair job)

/-- A write of RSTC_CTRL (R576). -/
def rstcCtrlWrite (master value : Nat) : M Unit := do
  regWrite master Reg.RSTC_CTRL value
  let key := decide (bitsOf value 15 8 = 0xC3)
  if (bitOf value 0 || bitOf value 1) && !key then raise Ev.csrAccess (masterSrc master) (Reg.RSTC_CTRL + 4 * 2 ^ 32 + 2 ^ 40) 0
  if bitOf value 2 then readyWrite master
  if bitOf value 1 && key then
    twinSend
    modRst (fun r => { r with twinLeft := 2 })
  if bitOf value 0 && key then whenPowered (assertFull 8)

/-! Block resets (R558, R559). -/

/-- A block reset stops a running job. -/
def blockStop : M Unit := do
  let j ← look (·.runJob)
  if j.isSome then
    raiseStop Ev.blockResetStop srcKeeper 0 0
    stopJob Ev.blockResetStop.code

/-- The links of a die whose reset wire pulses: it enters reset and is released (R498, R552). -/
def diePulse (d : Nat) : M Unit := do
  let held ← look (fun s => s.cx.inReset.contains d)
  if !held then
    resetNote d 0 0
    modRst (fun r => { r with ready := r.ready.filter (fun x => decide (x ≠ d)) })
    dieResetEnter d
    dieResetRelease d

/-- The update die loses what it holds; its registers return to reset. -/
def updReset : M Unit := do
  blockStop
  act (.upd (fun _ => Upd.empty))
  resetRegs 0x900000 0xA00000
  diePulse 0

/-- A stack loses its T1 lines, its address sparing and its pending soft repair (R594). -/
def stackReset (s : Nat) : M Unit := do
  blockStop
  act (.undefStack s)
  modRst (fun r => { r with softRepairs := r.softRepairs.filter (fun x => decide (x ≠ s)) })
  diePulse (1 + s)

/-- A field loses its tiles' scratchpads, programs and registers; its tiles are OFF and its PLLs stopped. -/
def fieldReset (f : Nat) : M Unit := do
  blockStop
  for i in List.range 64 do
    let p := 64 * f + i
    loseT0 p
    act (.phys p .off)
    let n ← look (·.logicalOf p)
    match n with
    | some n =>
      modTile n (fun t => { Tile.empty with wakes := t.wakes + 1 })
      resetRegs (0x10000000 + n * 0x10000) (0x10000000 + (n + 1) * 0x10000)
    | none => pure ()
  for i in List.range 4 do
    modClk (4 * f + i) (fun k => { k with target := none })
    setFld (Fl.CLKG_GROUP_STOPPED (4 * f + i)) 1
    setFld (Fl.CLKG_GROUP_STRETCHED (4 * f + i)) 0
    mhzSync (4 * f + i)
  diePulse (5 + f)

/-- A write of RSTC_BLOCK: a bit written 1 that read 0 resets its block, unless a FULL or POWER interval is open (R551); a set bit stays until its block
is back. -/
def rstcBlockWrite (master value : Nat) : M Unit := do
  let was ← getReg Reg.RSTC_BLOCK
  regWrite master Reg.RSTC_BLOCK value
  let now ← getReg Reg.RSTC_BLOCK
  setReg Reg.RSTC_BLOCK (was ||| now)
  let open' ← look (fun s => s.rst.interval && decide (2 ≤ s.rst.widest))
  let new := fun (i : Nat) => bitOf now.toNat i && !bitOf was.toNat i
  if open' then setReg Reg.RSTC_BLOCK was
  else
    for i in List.range 9 do
      if new i then
        bump (Reg.RSTC_COUNT_LO 2) 1
        if i = 0 then updReset
        else if i ≤ 4 then stackReset (i - 1)
        else if i ≤ 7 then fieldReset (i - 5)
        else
          let st ← look (·.rst.stage)
          if st ≠ .none then stageRestart

/-- The keeper puts back the entries of the key table that an uncorrectable error has freed, from the records of section 0x08 (R581); an entry that the image does not
name stays FREE. -/
def reinstallKeys : M Unit := do
  let run ← look (·.keeperRuns)
  let lost ← look (·.nrt.lostKeys)
  if run ∧ !lost.isEmpty then
    act (.nrt (fun n => { n with lostKeys := [] }))
    let b ← look (fun s => (s.job.map (fun j => s.section j 8)).getD [])
    let recs := (List.range (leAt b 0 4)).map (fun i => (b.drop (32 + 64 * i)).take 64)
    for r in recs.filter (fun r => lost.contains (leAt r 32 4 % 2 ^ 18)) do
      let e ← look (·.keyEntry (leAt r 32 4 % 2 ^ 18))
      if e.state = 0 then
        for w in List.range 8 do setReg (Reg.KEYT_STAGE w) (BitVec.ofNat 32 (leAt r (4 * w) 4))
        setFld Fl.KEYT_CMD_INDEX (leAt r 32 4)
        installKey (leAt r 32 4 % 2 ^ 18)

end Sys2Proof.Machine
end

