-- ==== Sys2Proof/Machine/IdentOps.lean ====
section
/-! DEFINITION. Shared operations of the surveys (R28 to R50): inputs and the cap ceiling, the walk of the cages, the cage survey, the LEDs, the BMC's
sensors. -/

namespace Sys2Proof.Machine

/-! Supplies (R28 to R30, R45 to R47). -/

/-- The limit that a connector's sense pins advertise, by {SENSE1, SENSE0} with 1 for open. -/
def senseLimit (sense : Nat) : Nat := if sense = 0 then 600 else if sense = 1 then 450 else if sense = 2 then 300 else 150

/-- Is a 12 V input in range? -/
def inputOk (mv : Nat) : Bool := decide (11040 ≤ mv ∧ mv ≤ 12960)

/-- The limits that the inputs have now: slot, connector 0, connector 1. -/
def supplyLimits (x : Supply) : List Nat :=
  [if inputOk x.slot then 66 else 0, if inputOk x.conn0 then senseLimit x.sense0 else 0, if inputOk x.conn1 then senseLimit x.sense1 else 0]

/-- The ceiling (R30). -/
def ceilingOf (limits : List Nat) : Nat := min 800 (limits.sum * 95 / 100 / 10 * 10)

/-- The keeper records what it measured and the limits that count, and computes the ceiling with SUPPLY_OK and the cap in force. DESIGN CHOICE: LIMIT is
the limit counted toward the ceiling (R53), so of an input that has been back in range for less than the 1 s of R47 it reads 0, the slot's too. -/
def supplyRecord (x : Supply) (limits : List Nat) : M Unit := do
  modRst (fun r => { r with volts := [x.slot, x.conn0, x.conn1, x.v33, x.vaux] })
  setFld Fl.IDENT_SUPPLY_SLOT_VOLTAGE x.slot
  setFld Fl.IDENT_SUPPLY_CONN0_VOLTAGE x.conn0
  setFld Fl.IDENT_SUPPLY_CONN1_VOLTAGE x.conn1
  setFld Fl.IDENT_SUPPLY_CONN0_SENSE x.sense0
  setFld Fl.IDENT_SUPPLY_CONN1_SENSE x.sense1
  setFld Fl.IDENT_SUPPLY_SLOT_LIMIT (limits.getD 0 0)
  setFld Fl.IDENT_SUPPLY_CONN0_LIMIT (limits.getD 1 0)
  setFld Fl.IDENT_SUPPLY_CONN1_LIMIT (limits.getD 2 0)
  let c := ceilingOf limits
  setFld Fl.IDENT_CAP_CEILING_CEILING c
  setFld Fl.IDENT_SURVEY_SUPPLY_OK (if 300 ≤ c then 1 else 0)
  capSync
  budgetSync

/-- The limits that go on counting: of the inputs that counted, those still in range (R47). -/
def stillCounting (old now : List Nat) : List Nat := (old.zip now).map (fun p => if p.1 = 0 then 0 else p.2)

/-- The limits that count once an input has been back in range for 1 s. -/
def restored (old now : List Nat) (input : Nat) : List Nat := (stillCounting old now).set input (now.getD input 0)

/-- DONE: the supply survey and the first cage survey have both ended (R52). -/
def surveyDone : M Unit := do
  let ok ← look (fun s => s.rst.firstSurvey && decide (stDies ≤ s.rstState ∨ s.rstState = stThermalWait))
  if ok then setBit Fl.IDENT_SURVEY_DONE

/-- The supply survey of a start, and what follows it (R45, R46). -/
def supplySurvey (x : Supply) : M Unit := do
  supplyRecord x (supplyLimits x)
  let ok ← getFld Fl.IDENT_SURVEY_SUPPLY_OK
  let st ← look (·.rstState)
  if ok = 1 then
    startDies
    surveyDone
  else if st ≠ stSupplyWait then
    setFld Fl.RSTC_STATE_STATE stSupplyWait
    raise Ev.supplyInsufficient srcKeeper 0 0

/-! Cages (R32 to R36, R48 to R50). -/

/-- A cage's CAGE_MODE in the configuration record in force: none where it has no valid copy, and cage 4 takes 0b01 only (R32, R565). -/
def State.cageMode (s : State) (c : Nat) : Nat :=
  let b := s.rst.cfg
  if c < 4 then bitsOf (leAt b 9 1) (2 * c + 1) (2 * c) else if leAt b 10 1 % 4 = 1 then 1 else 0

/-- The walk (R33): each cage's first port, none for a cage without ports, and the cages that it disables. -/
def walkCages (modes : List Nat) : List (Option Nat) × List Nat :=
  let r := (modes.take 4).zipIdx.foldl (fun (a : List (Option Nat) × List Nat × Nat) m =>
    let k := modePorts m.1
    if k = 0 then (a.1 ++ [none], a.2.1, a.2.2)
    else if a.2.2 + k ≤ 8 then (a.1 ++ [some a.2.2], a.2.1, a.2.2 + k)
    else (a.1 ++ [none], a.2.1 ++ [m.2], a.2.2)) ([], [], 0)
  (r.1 ++ [if modes.getD 4 0 = 1 then some 8 else none], r.2.1)

/-- The walk's numbers, modes and events go into the registers. -/
def cageWalk : M Unit := do
  let modes ← look (fun s => (List.range 5).map (fun c => s.cageMode c))
  let raw ← look (fun s => leAt s.rst.cfg 10 1 % 4)
  let w := walkCages modes
  for c in List.range 5 do
    let f := (w.1.getD c none).getD 0xF
    setFld (Fl.IDENT_CAGE_FIRST_PORT c) f
    setFld (Fl.IDENT_CAGE_MODE c) (if f = 0xF then 0 else modes.getD c 0)
    if w.2.contains c then raise Ev.cageConfig srcKeeper 0 0
  if 2 ≤ raw then raise Ev.cageConfig srcKeeper 0 0

/-- Is a cage enabled by the walk? -/
def State.cageOn (s : State) (c : Nat) : Bool := decide (s.fld (Fl.IDENT_CAGE_FIRST_PORT c) ≠ 0xF)

/-- A cage recorded as it stands after the second restart (R49): a module that is there counts as in R48 as a separable optical transceiver of unknown
length (DEDUCED). -/
def CageRead.asItStands (x : CageRead) (present : Bool) : CageRead :=
  { x with
    present := present, read := true, ok := false, media := if present then 4 else 0, length := if present then 0xFF else 0, klass := 0
    lowPower := false, signal := 0, finished := true }

/-- A cage begins its survey. -/
def CageRead.begin (present changed : Bool) : CageRead :=
  { present := present, tries := 0, restarts := 0, read := !present, ok := false, media := 0, length := 0, klass := 0, lowPower := false, signal := 0
    finished := !present, changed := changed }

/-- A change of a cage in the survey. -/
def modCage (c : Nat) (f : CageRead → CageRead) : M Unit :=
  modRst (fun r => { r with survey := r.survey.map (fun e => if e.1 = c then (c, f e.2) else e) })
def State.cageRead (s : State) (c : Nat) : Option CageRead := (s.rst.survey.find? (fun e => decide (e.1 = c))).map (·.2)

/-- The port states that follow a cage: its ports are DISABLED with it, and enabled again where their RUN is set (R36, R383). -/
def cagePorts (c : Nat) (on : Bool) : M Unit := do
  let f ← getFld (Fl.IDENT_CAGE_FIRST_PORT c)
  let k ← look (fun s => modePorts (s.cageMode c))
  if f ≠ 0xF then
    for n in (List.range k).map (f + ·) do
      let st ← look (·.macState n)
      let run ← getFld (Fl.MAC_CTRL_RUN n)
      if !on ∧ st ≠ macDisabled then leavePort n macDisabled
      else if on ∧ st = macDisabled ∧ run = 1 then setFld (Fl.MAC_STATUS_STATE n) macDown

/-- Is a cage that the walk enabled treated as disabled under R36? -/
def State.cageHeld (s : State) (c : Nat) : Bool := s.cageOn c && decide (s.fld (Fl.IDENT_CAGE_MODE c) = 0)

/-- Does R36 keep a cage disabled after its read: the module's power class exceeds 12 W, or the cage was held and no module of 12 W or less is found? -/
def CageRead.holds (x : CageRead) (held : Bool) : Bool := x.lowPower || (held && !(x.present && x.ok))

/-- A cage's results are recorded, with its events (R36, R48, R50, R55). DESIGN CHOICE: a cage of a RESURVEY counts as changed where any field of its
IDENT_CAGEc changes, SIGNAL among them; one whose ModPrsL changed always does. -/
def cageRecord (c : Nat) (x : CageRead) : M Unit := do
  let old ← getReg (Reg.IDENT_CAGE c)
  let on ← look (·.cageOn c)
  let held ← look (·.cageHeld c)
  let mode ← look (fun s => if on && !x.holds held then s.cageMode c else 0)
  setFld (Fl.IDENT_CAGE_PRESENT c) (if x.present then 1 else 0)
  setFld (Fl.IDENT_CAGE_CMIS_OK c) (if x.ok then 1 else 0)
  setFld (Fl.IDENT_CAGE_MEDIA c) x.media
  setFld (Fl.IDENT_CAGE_LENGTH c) x.length
  setFld (Fl.IDENT_CAGE_POWER_CLASS c) x.klass
  setFld (Fl.IDENT_CAGE_SIGNAL c) x.signal
  setFld (Fl.IDENT_CAGE_LOWPWR c) (if x.lowPower then 1 else 0)
  if mode = 0 then cagePorts c false
  setFld (Fl.IDENT_CAGE_MODE c) mode
  if mode ≠ 0 then cagePorts c true
  if x.lowPower then raise Ev.cagePower srcKeeper 0 0
  let first ← look (·.rst.firstSurvey)
  let new ← getReg (Reg.IDENT_CAGE c)
  if first ∧ (x.changed ∨ new ≠ old) then raise Ev.cageChange srcKeeper 0 0

/-- A cage survey is over once every cage of it has finished: the results in cage order, COUNT, DONE (R48, R52). -/
def surveyEnd : M Unit := do
  let l ← look (·.rst.survey)
  if !l.isEmpty && l.all (fun e => e.2.finished) then
    for c in List.range 5 do
      let x ← look (·.cageRead c)
      match x with
      | some x => cageRecord c x
      | none => pure ()
    modRst (fun r => { r with survey := [], firstSurvey := true })
    bumpFld Fl.IDENT_SURVEY_COUNT 1
    surveyDone

/-- A cage's read ends: the power class is judged, and a cage whose transmitters are not enabled has finished (R36, R48). -/
def cageReadEnd (c : Nat) (ok : Bool) (media length klass : Nat) (low : Bool) : M Unit := do
  let on ← look (·.cageOn c)
  let held ← look (·.cageHeld c)
  modCage c (fun x => { x with
    read := true, ok := ok, media := media, length := length, klass := klass, lowPower := low, finished := low || !on || (held && !ok) })
  surveyEnd

/-! The LEDs (R37). -/

/-- What a cage's LED shows. -/
inductive Led where
  | off | amber4 | amber1 | amber | green1 | green4 | green
deriving DecidableEq, Repr

/-- The LED of a cage: the first row of R37 that applies. -/
def State.led (s : State) (c : Nat) : Led :=
  let ports := (List.range 9).filter (fun n => decide (s.cageOf n = some c))
  let low := decide (s.fld (Fl.IDENT_CAGE_LOWPWR c) = 1)
  let present := decide (s.fld (Fl.IDENT_CAGE_PRESENT c) = 1)
  if !s.rst.firstSurvey || decide (s.rstState = stRecovery) then .off
  else if !s.cageOn c then .off
  else if c = 4 && decide (s.fld (Fl.MAC_STATUS_MISCABLED 8) = 1) then .amber4
  else if low || (present && decide (s.fld (Fl.IDENT_CAGE_CMIS_OK c) = 0)) then .amber1
  else if !present then .amber
  else if ports.all (fun n => s.linkUp n) && !ports.isEmpty then .green
  else if ports.any (fun n => s.linkUp n) then .green4
  else .green1

/-! The management header (R38 to R40). -/

/-- The 7-bit MCTP address on SMBus: the configuration record's, or 0x4E where no valid copy is in force (R39, R565). -/
def State.mctpAddr (s : State) : Nat := if s.rst.cfg.isEmpty then 0x4E else leAt s.rst.cfg 8 1 % 128

/-- Does SMBus with MCTP run: with keeper firmware, or with the keeper ROM in minimal recovery mode (R569)? -/
def State.mctpRuns (s : State) : Bool := s.keeperRuns || decide (s.rstState = stRecovery)

/-- Does the module answer a request over MCTP that names an SMBus address: MCTP runs, and the address is its own? -/
def State.mctpHears (s : State) (addr : Nat) : Bool := s.mctpRuns && decide (addr = s.mctpAddr)

/-- SMBALERT#: an unread PLDM event is pending. THERM#. -/
def State.smbAlert (s : State) : Bool := !s.host.pldmLog.isEmpty
def State.thermPin (s : State) : Bool := s.pwr.therm

/-- The required airflow in 0.001 m³/s (R40). DESIGN CHOICE: 85 × cap / 800 is rounded up to a whole unit. -/
def State.airflow (s : State) : Nat :=
  let hot := match s.temp 5 0 with
    | some t => decide (240 < t)
    | none => false
  if s.cap = 800 || hot then 85 else max 40 (ceilDiv (85 * s.cap) 800)

end Sys2Proof.Machine
end

