-- ==== Sys2Proof/Machine/IdentCmds.lean ====
section
/-! DEFINITION. The commands of the surveys and of the management bus (R39 to R50, R574). KEEPER_BOOT stands with the resets. -/

namespace Sys2Proof.Machine

/-- SUPPLY_SURVEY_RETRY: the supply survey again, while the start waits for supplies. -/
def execSupplySurveyRetry (supply : Supply) : Meaning := M.next (do
  let st ← look (·.rstState)
  if st = stSupplyWait then supplySurvey supply)

/-- SUPPLY_INPUT_OUT_OF_RANGE: the ceiling is computed again from the inputs that count and are still in range; below 300 W it is a brownout (R47). -/
def execSupplyInputOutOfRange (supply : Supply) : Meaning := M.next (do
  let run ← look (·.keeperRuns)
  let old ← look (·.limits)
  if run then
    let l := stillCounting old (supplyLimits supply)
    supplyRecord supply l
    let st ← look (·.rstState)
    if ceilingOf l < 300 ∧ st ≠ stSupplyWait then assertFull 2)

/-- SUPPLY_INPUT_RESTORED: the input (0 slot, 1 and 2 the connectors) that has been in range for 1 s counts again; one that came back later still does
not (R47). -/
def execSupplyInputRestored (supply : SupplyReturn) : Meaning := M.next (do
  let run ← look (·.keeperRuns)
  let old ← look (·.limits)
  if run then supplyRecord supply.now (restored old (supplyLimits supply.now) supply.input))

/-- CAGE_SURVEY_START: the walk, then the start's survey of all five cages (R33, R48). -/
def execCageSurveyStart (present : List Bool) : Meaning := M.next (do
  let run ← look (·.keeperRuns)
  let r ← look (·.rst)
  if run ∧ !r.firstSurvey ∧ r.survey.isEmpty then
    cageWalk
    modRst (fun r => { r with survey := (List.range 5).map (fun c => (c, CageRead.begin (present.getD c false) false)) })
    surveyEnd)

/-- CMIS_READ_DONE: what the read gives; the module's power is in 0.1 W. -/
def execCmisReadDone (cage media length klass watts : Nat) : Meaning := M.next (do
  let x ← look (·.cageRead cage)
  match x with
  | some x => if !x.read then cageReadEnd cage true media length klass (decide (120 < watts))
  | none => pure ())

/-- CMIS_READ_TIMEOUT: tried once more, then taken as a separable optical transceiver of unknown length. DESIGN CHOICE: a cage that R36 held before stays
disabled after such a read, and its LOWPWR reads 0, for the read tells of no power class. -/
def execCmisReadTimeout (cage : Nat) : Meaning := M.next (do
  let x ← look (·.cageRead cage)
  match x with
  | some x =>
    if !x.read then
      if x.tries = 0 then modCage cage (fun x => { x with tries := 1 })
      else cageReadEnd cage false 4 0xFF 0 false
  | none => pure ())

/-- CAGE_SIGNAL_DETECT: the lanes' signal 100 ms after enable. -/
def execCageSignalDetect (cage lanes : Nat) : Meaning := M.next (do
  let x ← look (·.cageRead cage)
  match x with
  | some x =>
    if x.read ∧ !x.finished then
      modCage cage (fun x => { x with signal := lanes, finished := true })
      surveyEnd
  | none => pure ())

/-- MODPRSL_CHANGE: during a cage's read the read restarts, at most twice, and after that the cage is recorded as it stands (R49); otherwise the
survey runs again for the cage (R50). DESIGN CHOICE: a cage whose read has ended in a survey that still runs is read again within that survey, and its
count of restarts stands, also when it had been recorded as it stands. -/
def execModprslChange (cage : Nat) (present : Bool) : Meaning := M.next (do
  let run ← look (·.keeperRuns)
  let first ← look (·.rst.firstSurvey)
  let x ← look (·.cageRead cage)
  match x with
  | some x =>
    if !x.read then
      if x.restarts < 2 then modCage cage (fun x => { CageRead.begin present x.changed with restarts := x.restarts + 1 })
      else modCage cage (fun x => x.asItStands present)
    else modCage cage (fun x => { CageRead.begin present true with restarts := x.restarts })
    surveyEnd
  | none =>
    if run ∧ first then
      modRst (fun r => { r with survey := r.survey ++ [(cage, CageRead.begin present true)] })
      surveyEnd)

/-- A write of IDENT_SURVEY: RESURVEY runs the survey of all cages, unless one runs (R50). -/
def surveyWrite (master value : Nat) (present : List Bool) : M Unit := do
  regWrite master Reg.IDENT_SURVEY value
  let run ← look (·.keeperRuns)
  let r ← look (·.rst)
  if bitOf value 16 ∧ run ∧ r.firstSurvey ∧ r.survey.isEmpty then
    modRst (fun r => { r with survey := (List.range 5).map (fun c => (c, CageRead.begin (present.getD c false) false)) })
    surveyEnd

/-- RESURVEY. -/
def execResurvey (master value : Nat) (present : List Bool) : Meaning := M.next (surveyWrite master value present)

/-- AIRFLOW_REVERSED: the outlet has been more than 2 °C colder than the inlet above 200 W (R43). DESIGN CHOICE: the module power held against 200 W is the
value that governs capping. -/
def execAirflowReversed : Meaning := M.next (do
  let i ← look (·.temp 5 0)
  let o ← look (·.temp 6 0)
  let g ← look (·.pwr.governs)
  match i, o with
  | some i, some o => if o < i - 16 ∧ 2000 < g then raise Ev.airflowReversed (srcSensor 6 0) 0 0
  | _, _ => pure ())

/-- PLDM_REQUEST (R39, R40, R518, R589): operation 0 reads a numeric sensor (0 inlet, 1 outlet in 1/8 °C, 2 module power in 0.1 W, 3 to 7 the supply
voltages in mV, 8 the required airflow), 1 sets the cap's effecter, 2 reads the unread events. A request for another SMBus address is not answered.
DESIGN CHOICE: of the values of R522 the power sensor reads the one that governs capping, E × 1.2 while the measuring sensor has failed. -/
def execPldmRequest (op : PldmOp) (arg : Nat) : Meaning := M.next (do
  let run ← look (·.mctpHears op.addr)
  let op := op.op
  if run then
    if op = 0 then
      let t ← look (fun s => (s.temp (5 + arg) 0).map (fun t => (t % 65536).toNat))
      let p ← look (·.pwr.governs)
      let v ← look (fun s => s.rst.volts.getD (arg - 3) 0)
      let a ← look (·.airflow)
      let known := match t with
        | some x => [x]
        | none => []
      act (.out (.pldm op arg (if arg < 2 then known else if arg = 2 then [p] else if arg < 8 then [v] else if arg = 8 then [a] else [])))
    else if op = 1 then
      act (.pwr (fun p => { p with effecter := some arg }))
      capSync
      budgetSync
      act (.out (.pldm op arg []))
    else
      let l ← look (·.host.pldmLog)
      act (.out (.pldm op arg (if op = 2 then l else [])))
      if op = 2 then act (.host (fun h => { h with pldmLog := [] })))

/-! SPDM (R574). -/

/-- An answer goes out and joins the transcript with its request. -/
def spdmSend (req answer : List Byte) : M Unit := do
  modRst (fun r => { r with spdm := r.spdm ++ req ++ answer })
  act (.out (.spdm answer))

/-- A request to the module's SMBus address answered: the answer's own fields are those of DSP0274, which the model leaves to `Config.spdmAnswer`; `body` is what the module puts in. -/
def spdmAnswer (req : SpdmReq) (body : List Byte) (signed nonce : Bool) : M Unit := do
  let run ← look (·.mctpHears req.addr)
  if run then
    let t ← look (·.rst.spdm)
    let n ← look (·.rst.nonces)
    if nonce then modRst (fun r => { r with nonces := r.nonces + 1 })
    let a := Config.spdmAnswer req.bytes t ++ body ++ (if nonce then Config.spdmNonce n else [])
    spdmSend req.bytes (if signed then a ++ Config.spdmSign (t ++ req.bytes ++ a) else a)

/-- The six slots. -/
def State.slots (s : State) : List Byte := (List.range 6).flatMap (fun i => s.slot i)

/-- GET_VERSION begins a new transcript. -/
def execGetVersion (req : SpdmReq) : Meaning := M.next (do
  let run ← look (·.mctpHears req.addr)
  if run then modRst (fun r => { r with spdm := [] })
  spdmAnswer req [] false false)
def execGetCapabilities (req : SpdmReq) : Meaning := M.next (spdmAnswer req [] false false)

/-- NEGOTIATE_ALGORITHMS: ECDSA P-384 and SHA-384 only, as the standard encodes them. -/
def execNegotiateAlgorithms (req : SpdmReq) : Meaning := M.next (spdmAnswer req [] false false)

/-- GET_DIGESTS and GET_CERTIFICATE answer by the certificate chain in the factory area. -/
def execGetDigests (req : SpdmReq) : Meaning := M.next (do
  let chain ← look (fun s => s.flashBytes 0x3F00000 0x100000)
  spdmAnswer req (Config.sha384 (Config.spdmChain chain)) false false)
def execGetCertificate (req : SpdmReq) : Meaning := M.next (do
  let chain ← look (fun s => s.flashBytes 0x3F00000 0x100000)
  spdmAnswer req (Config.spdmChain chain) false false)

/-- CHALLENGE carries a nonce and the module's signature. -/
def execChallenge (req : SpdmReq) : Meaning := M.next (spdmAnswer req [] true true)

/-- GET_MEASUREMENTS: index k in the request's fourth byte gives slot k − 1, 0xFF all six, 0 their number; bit 0 of its third byte asks for a signature
and a nonce. -/
def execGetMeasurements (req : SpdmReq) : Meaning := M.next (do
  let all ← look (·.slots)
  let k := leAt req.bytes 3 1
  let body := if k = 0 then [6] else if k = 0xFF then all else (all.drop (48 * (k - 1))).take 48
  let sig := bitOf (leAt req.bytes 2 1) 0
  spdmAnswer req body sig sig)

end Sys2Proof.Machine
end

