-- ==== Sys2Proof/Machine/RasOps.lean ====
section
/-! DEFINITION. Shared operations of errors and spares (R579 to R596): reports of correctable and uncorrectable errors, spare rows, tile faults. -/

namespace Sys2Proof.Machine

/-- The stores, as EV_ECC_CORRECTED is limited by them: T0, instruction memory, hub SRAM, update-die SRAM, T1, T2. -/
def storeT0 : Nat := 0
def storeImem : Nat := 1
def storeHub : Nat := 2
def storeUpd : Nat := 3
def storeT1 : Nat := 4
def storeT2 : Nat := 5

/-- A corrected error: counted, and told of at most once for the store in CE_EVENT_MS (R580, R604). -/
def corrected (store : Nat) (src : Nat × Nat) : M Unit := do
  bump (Reg.RAS_COUNT_LO (if store ≤ storeUpd then 0 else 1)) 1
  let now ← look (·.time)
  let ms ← getFld Fl.RAS_CTRL_CE_EVENT_MS
  let last ← look (fun s => s.hub.ceAt.find? (fun e => decide (e.1 = store)))
  if last.any (fun e => decide (now < e.2 + max ms 1 * 1000000)) then pure ()
  else
    act (.hub (fun h => { h with ceAt := (store, now) :: h.ceAt.filter (fun e => decide (e.1 ≠ store)) }))
    raiseEvent { evOf Ev.eccCorrected src 0 0 with hw := true }

/-- A tile fault (R591): its Take fails and asks for a stand-in, or the job stops. -/
def tileFault (n : Nat) : M Unit := do
  let slate ← look (·.slate n)
  failHardware n Ev.tileFault (srcTile n) slate 0

/-- Arm a planned swap of a logical tile (R592). -/
def armSwap (n : Nat) : M Unit := do
  act (.hub (fun h => { h with swapArmed := if h.swapArmed.contains n then h.swapArmed else h.swapArmed ++ [n] }))
  swapSync

/-- EV_REPAIR_EXHAUSTED (R590, R603). -/
def exhausted (src : Nat × Nat) : M Unit := do
  setBit Fl.RAS_STATUS_EXHAUSTED
  raiseEvent { evOf Ev.repairExhausted src 0 0 with hw := true }

/-- The bank of a scratchpad line (R134), and its row: 16 lines of one bank. -/
def bankOf (l : Nat) : Nat := (l ^^^ l / 16 ^^^ l / 256 ^^^ l / 4096) % 16
def rowKey (p l : Nat) : Nat := p * 32768 + l / 256 * 16 + bankOf l

/-- A faulty T0 row of a tile in service is replaced by a spare of its bank; without one a planned swap is armed, or the tile is faulty (R590, R591). -/
def spareRow (p n l : Nat) : M Unit := do
  let used ← look (fun s => (s.hub.rows.filter (fun r => decide (r = (p, bankOf l)))).length)
  act (.hub (fun h => { h with ceRows := h.ceRows.filter (fun e => decide (e.1 ≠ rowKey p l)) }))
  if used < 4 then
    act (.hub (fun h => { h with rows := h.rows ++ [(p, bankOf l)] }))
    bump (Reg.RAS_COUNT_LO 5) 1
    sparesSync
    raiseEvent { evOf Ev.sramRowSpared (srcPhys p) 0 0 with hw := true }
  else
    exhausted (srcPhys p)
    let on ← getFld Fl.RAS_CTRL_PLANNED_SWAP
    if on = 1 then armSwap n else tileFault n

/-- The scrub pass of T0: every line of every tile in service each 10 s (R595). -/
def State.scrubPass (s : State) : Nat := s.time / 10000000000

/-- A correctable error in a T0 row: the second of a pass brings in a spare (R590). -/
def correctedRow (p n l : Nat) : M Unit := do
  let now ← look (·.scrubPass)
  let again ← look (fun s => s.hub.ceRows.contains (rowKey p l, now))
  if again then spareRow p n l
  else act (.hub (fun h => { h with ceRows := (rowKey p l, now) :: h.ceRows.filter (fun e => decide (e.1 ≠ rowKey p l)) }))

/-- The patrol scrub pass of T1: every burst each 24 h (R595). -/
def State.patrolPass (s : State) : Nat := s.time / 86400000000000

/-- The row of a T1 address. -/
def t1Row (a : Nat) : Nat := Config.t1Row ((a - baseT1) / 64)

/-- A T1 row is to be repaired: after a correctable error of it in a second scrub pass, or any uncorrectable one (R590). -/
def wantRepair (a : Nat) : M Unit :=
  act (.hub (fun h => { h with t1Repair := if h.t1Repair.contains (t1Row a) then h.t1Repair else h.t1Repair ++ [t1Row a] }))
def correctedBurst (a : Nat) : M Unit := do
  let now ← look (·.patrolPass)
  let before ← look (fun s => s.hub.t1Rows.any (fun e => decide (e.1 = t1Row a ∧ e.2 ≠ now)))
  if before then wantRepair a
  act (.hub (fun h => { h with t1Rows := (t1Row a, now) :: h.t1Rows.filter (fun e => decide (e.1 ≠ t1Row a)) }))

/-- An error in a tier (R579, R580): `raced` says that another requester has written the line since the scrub read it, so the scrub leaves it (R596). -/
def tierError (a error : Nat) (raced : Bool) : M Unit := do
  match physAt a with
  | some p =>
    let n ← look (·.logicalOf p)
    match n with
    | none => pure ()
    | some n =>
      let l := (a - physBase p) / 96
      if error = 1 then
        corrected storeT0 (srcPhys p)
        correctedRow p n l
      else
        if !raced then poisonLine a
        uncorrectedSram (srcPhys p) 0 ((a - physBase p) / 8)
        spareRow p n l
  | none =>
    if inT1 a then
      if error = 1 then
        corrected storeT1 (srcStack (t1Stack a))
        correctedBurst a
      else
        if !raced then act (.poison1 ((a - baseT1) / 64) true)
        uncorrected (srcStack (t1Stack a)) (a % 2 ^ 48)
        wantRepair a
    else if inT2 a then
      if error = 1 then corrected storeT2 srcUpd
      else
        if !raced then act (.poison2 ((a - baseT2) / 32) true)
        uncorrected srcUpd (a % 2 ^ 48)

/-- A word of the group that the update die has in work is poisoned (R579). -/
def poisonWord (k : Nat) (l : List W32) : List W32 := l.set k fpPoison
def GroupWork.poison (k : Nat) : GroupWork → GroupWork
  | .apply i p s1 s2 =>
    if k < p.length then .apply i (poisonWord k p) s1 s2
    else if k < p.length + s1.length then .apply i p (poisonWord (k - p.length) s1) s2
    else .apply i p s1 (poisonWord (k - p.length - s1.length) s2)
  | w => w

/-- A line pair of a chunk is poisoned (R581). -/
def Chunk.poison (c : Chunk) (i : Nat) : Chunk :=
  { c with pairs := modAt c.pairs i (fun p => p.map (fun _ => (List.range 48).flatMap (fun _ => leBytes 4 0x7FC00001))) }

/-- An uncorrectable word outside the tiers, in its unit at its word, is handled by what it holds (R579, R581). An entry of the key table stays FREE until the
keeper has reinstalled it; the copy of a packet matters while the packet is unacknowledged. -/
def heldWord (place : EccPlace) (word : Nat) : M Unit := do
  match place with
  | .mem _ | .read _ => pure ()
  | .imem n pc =>
    let p ← look (·.physOf n)
    uncorrectedSram (srcPhys p) 1 pc
    tileFault n
  | .parity n =>
    let p ← look (·.physOf n)
    uncorrectedSram (srcPhys p) 2 word
    tileFault n
  | .residue n =>
    let p ← look (·.physOf n)
    uncorrectedSram (srcPhys p) 3 word
    tileFault n
  | .key i =>
    uncorrectedSram (srcUnit mNrt) 4 (4 * i + word % 4)
    act (.key i (fun e => { e with state := 0 }))
    act (.nrt (fun n => { n with lostKeys := n.lostKeys.filter (fun k => decide (k ≠ i)) ++ [i] }))
    keySync
  | .packet f psn =>
    uncorrectedSram (srcUnit mNrt) 5 word
    let fl ← getFlow f
    if fl.tx.any (fun t => decide (t.psn = psn)) then flowFail f
  | .received port =>
    uncorrectedSram (srcUnit mNrt) 5 word
    ecrcDrop port 0
  | .chunk b step q first pair =>
    uncorrectedSram (srcUnit mColl) 6 word
    act (.coll (fun x => { x with chunks := x.chunks.map (fun c =>
      if c.bucket = b ∧ c.step = step ∧ c.q = q ∧ c.first = first then c.poison pair else c) }))
  | .reelLine a =>
    uncorrectedSram (srcUnit mReel) 7 word
    let p := a - (a - regionBase a) % 192
    poisonLine p
    poisonLine (p + 96)
  | .event =>
    let l ← look (·.events)
    uncorrectedSram srcHub 8 word
    if !l.isEmpty then
      act (.dropEvents 1)
      bump (Reg.RAS_COUNT_LO 8) 1
  | .updSram k =>
    uncorrectedSram srcUpd 9 k
    act (.upd (fun u => { u with run := u.run.map (fun r => { r with
      work := r.work.map (GroupWork.poison k), spoiled := if r.work.isSome then r.spoiled ++ [k] else r.spoiled }) }))

/-- An uncorrectable word whose place in its SRAM the command does not name is a free value. -/
def heldError (place : EccPlace) : M Unit := do
  let word ← freeValue
  heldWord place word

/-- The store of a place outside the tiers, and the source of its events (R585). -/
def heldStore (s : State) (place : EccPlace) : Nat × (Nat × Nat) :=
  match place with
  | .imem n _ => (storeImem, srcPhys (s.physOf n))
  | .updSram _ => (storeUpd, srcUpd)
  | .key _ | .packet _ _ | .received _ => (storeHub, srcUnit mNrt)
  | .chunk .. => (storeHub, srcUnit mColl)
  | .reelLine _ => (storeHub, srcUnit mReel)
  | _ => (storeHub, srcHub)

end Sys2Proof.Machine
end

