-- ==== Sys2Proof/Machine/RasCmds.lean ====
section
/-! DEFINITION. The commands of scrubbing, repair and the event ring (R580 to R596). -/

namespace Sys2Proof.Machine

/-- Is a place one that only detects an error? Parity and the residue correct nothing. -/
def eccDetects : EccPlace → Bool
  | .parity _ | .residue _ => true
  | _ => false

/-- SCRUB_STEP: a line or burst is scrubbed, or a store's check reports at another read (R579 to R581): error 0 none, 1 corrected, 2 uncorrectable. SCRUB_EN
stops the scrubs, and no other read's check. -/
def execScrubStep (place : EccPlace) (error : Nat) (raced : Bool) : Meaning := M.next (do
  let en ← getFld Fl.RAS_CTRL_SCRUB_EN
  match place with
  | .mem a =>
    if en = 1 then
      if inT2 a then pmuUpd 0x0B 1
      if inT1 a then
        byteTraffic false (baseT1 + (a - baseT1) / 64 * 64) 64 none (some mScrub) (some 5)
        if error = 1 ∧ !raced then byteTraffic true (baseT1 + (a - baseT1) / 64 * 64) 64 none (some mScrub) (some 5)
      if error ≠ 0 then tierError a error raced
  | .read a => if error ≠ 0 then tierError a error false
  | _ =>
    if error = 1 ∧ !eccDetects place then
      let st ← look (fun s => heldStore s place)
      corrected st.1 st.2
    else if error ≠ 0 then heldError place)

/-- DRAM_ROW_REPAIR: a T1 row that a repair is wanted for is repaired by the stack's soft repair, with its poison; its bursts found uncorrectable are poisoned
(R590, R594, R596). -/
def execDramRowRepair (addr : Nat) (bad : List Nat) : Meaning := M.next (do
  let want ← look (fun s => s.hub.t1Repair.contains (t1Row addr))
  if inT1 addr ∧ want then
    let st := t1Stack addr
    act (.hub (fun h => { h with
      t1Repair := h.t1Repair.filter (fun r => decide (r ≠ t1Row addr)), t1Rows := h.t1Rows.filter (fun e => decide (e.1 ≠ t1Row addr)) }))
    let used ← look (fun s => Store.get (fun _ => 0) s.rst.hardRepairs st + (s.rst.softRepairs.filter (fun x => decide (x = st))).length)
    if used < Config.repairRows st then
      act (.rst (fun r => { r with softRepairs := r.softRepairs ++ [st] }))
      for a in bad.filter (fun a => inT1 a && decide (t1Row a = t1Row addr)) do
        act (.poison1 ((a - baseT1) / 64) true)
        uncorrected (srcStack st) (a % 2 ^ 48)
      bump (Reg.RAS_COUNT_LO 6) 1
      raiseEvent { evOf Ev.dramRowRepaired (srcStack st) 0 0 with hw := true }
    else exhausted (srcStack st))

/-- The source of a kind of background work: 0 the T0 scrub, 1 the T1 patrol scrub and the dailies, 2 the T2 scrub, 3 Craxis recalibration, 4 row repair, 5 the hour
record, which the keeper writes (R585, R595). -/
def backgroundSrc (kind : Nat) : Nat × Nat :=
  if kind = 3 then srcHub else if kind = 5 then (9, 0) else srcUnit mScrub

/-- BACKGROUND_FORCED: a forced slot is taken, told of once for its kind in 1 s (R595). -/
def execBackgroundForced (kind : Nat) : Meaning := M.next (do
  bump (Reg.RAS_COUNT_LO 7) 1
  let now ← look (·.time)
  let last ← look (fun s => s.hub.bgAt.find? (fun e => decide (e.1 = kind)))
  if last.any (fun e => decide (now < e.2 + 1000000000)) then pure ()
  else
    act (.hub (fun h => { h with bgAt := (kind, now) :: h.bgAt.filter (fun e => decide (e.1 ≠ kind)) }))
    raise Ev.backgroundForced (backgroundSrc kind) 0 0)

/-- A write of RAS_SWAP. -/
def rasSwapWrite (master value : Nat) : M Unit := do
  regWrite master Reg.RAS_SWAP value
  if bitOf value 8 ∧ bitsOf value 7 0 < 180 then armSwap (bitsOf value 7 0)

/-- PLANNED_SWAP_REQUEST. -/
def execPlannedSwapRequest (master value : Nat) : Meaning := M.next (rasSwapWrite master value)

/-! The module event ring (R588). -/

/-- EVENT_RING_WRITE: the oldest waiting record goes to the ring, and then PROD. -/
def execEventRingWrite : Meaning := M.next (do
  let on ← look (·.ringOn)
  let full ← look (·.ringFull)
  let l ← look (·.events)
  if on ∧ !full then
    match l with
    | [] => pure ()
    | e :: _ =>
      let b ← look (·.ringBase)
      let n ← look (·.ringSize)
      let p ← getReg Reg.RAS_EVR_PROD
      tierWrite (b + 32 * (p.toNat % n)) e.bytes
      setReg Reg.RAS_EVR_PROD (p + 1)
      act (.dropEvents 1)
      byteTraffic true (b + 32 * (p.toNat % n)) 32 none none none)

/-! The copies (R589). -/

/-- Does a record tell of the running job: its source is a tile, the update die, a flow or an engine of the job, or it is of the events of the job as a whole
(group 0x09), whatever unit raises them? -/
def jobRecord (code kind index : Nat) : Bool :=
  decide (kind = 1 ∨ kind = 3 ∨ kind = 7) || (decide (kind = 0) && decide (0xC0 ≤ index ∧ index ≤ 0xC3)) || decide (code / 256 = 9)

/-- Is a virtual function entitled to a record: its source is its own function, a key of its guest, or the job that its guest owns? -/
def State.entitled (s : State) (g : Nat) (b : List Byte) : Bool :=
  let code := leAt b 0 2
  let kind := bitsOf (leAt b 4 2) 15 12
  let index := bitsOf (leAt b 4 2) 11 0
  let key := bitsOf (leAt b 24 8) 39 8
  decide (g = 0) || decide (kind = 8 ∧ index = g) ||
    (decide (code = Ev.nrtKeyFault.code) && decide ((s.keyEntry (keyIndex key)).guest = g)) ||
    (decide (code = Ev.keyRevoked.code ∨ code = Ev.keyRevokeSlow.code) && s.nrt.keyEvents.contains (leAt b 3 1, g)) ||
    (s.job.any (fun j => decide (j.owner = g)) && jobRecord code kind index)

/-- EVENT_RING_COPY: stage firmware consumes a record of the ring, copies it to the rings of the functions entitled to it, or to the backlogs of those
that have detached, and enters it in the PLDM log (R473, R589). -/
def execEventRingCopy : Meaning := M.next (do
  let go ← look (·.performs)
  let on ← look (·.ringOn)
  let p ← getReg Reg.RAS_EVR_PROD
  let c ← getReg Reg.RAS_EVR_CONS
  if go ∧ on ∧ p ≠ c then
    let a ← look (fun s => s.ringBase + 32 * (c.toNat % s.ringSize))
    let b ← memBytes a 32
    byteTraffic false a 32 (some 1) (some mStage) (some 7)
    for f in List.range 9 do
      let mine ← look (fun s => s.entitled f b)
      let att ← look (·.attached f)
      let evr ← look (fun s => (s.hfn f).evrOn)
      let epoch ← getFld (Fl.FN_EPOCH_EPOCH f)
      if mine then
        if att then
          (do if evr then evrRecord f b)
        else if epoch ≠ 0 then backlogRecord f b
    if 3 ≤ bitsOf (leAt b 2 1) 2 0 ∨ leAt b 0 2 / 256 = 2 then
      act (.host (fun h => { h with pldmLog := h.pldmLog ++ [leAt b 0 2] }))
    setReg Reg.RAS_EVR_CONS (c + 1))

end Sys2Proof.Machine
end

