-- ==== Sys2Proof/Machine/PmonCmds.lean ====
section
/-! DEFINITION. The commands of the dailies, the bandwidth monitors and the samples (R614 to R624). -/

namespace Sys2Proof.Machine

/-! Bandwidth (R615). -/

/-- The window in µs. -/
def State.bwWindow (s : State) : Nat := min (max (s.fld Fl.PMON_BW_CTRL_WINDOW) 1) 1000000

/-- BW_WINDOW_END: every monitor's rate, unless the window was cut short. -/
def execBwWindowEnd : Meaning := M.next (do
  let skip ← look (·.hub.bwSkip)
  let w ← look (·.bwWindow)
  if !skip then
    for m in List.range 32 do
      let n ← look (fun s => Store.get (fun _ => 0) s.hub.bw m)
      let r := min (n / w) 0xFFFFFF
      let lo ← getFld (Fl.BW_MIN_RATE m)
      let hi ← getFld (Fl.BW_MAX_RATE m)
      let k ← getReg (Reg.BW_COUNT m)
      setFld (Fl.BW_LAST_RATE m) r
      setFld (Fl.BW_MIN_RATE m) (min lo r)
      setFld (Fl.BW_MAX_RATE m) (max hi r)
      setReg (Reg.BW_COUNT m) (k + 1)
  act (.hub (fun h => { h with bw := [], bwSkip := false })))

/-- A write of PMON_BW_CTRL discards the window in work. -/
def bwCtrlWrite (master value : Nat) : M Unit := do
  regWrite master Reg.PMON_BW_CTRL value
  act (.hub (fun h => { h with bw := [], bwSkip := true }))

/-- BW_WINDOW_WRITE. -/
def execBwWindowWrite (master value : Nat) : Meaning := M.next (bwCtrlWrite master value)

/-! Streams (R617 to R620). -/

/-- A stream, a change of it, the tick's period, its divider, and the slots of its ring. -/
def State.stream (s : State) (f : Nat) : DlyStream := Store.get (fun _ => ⟨0, 0, none⟩) s.hub.streams f
def modStream (f : Nat) (g : DlyStream → DlyStream) : M Unit :=
  act (.stream f g)
def State.tickPeriod (s : State) : Nat := min (max (s.fld Fl.PMON_CTRL_PERIOD) 1) 100000
def State.dlyDiv (s : State) (f : Nat) : Nat := min (max (s.fld (Fl.DLY_CTRL_DIV f)) 1) (100000 / s.tickPeriod)
def State.dlySlots (s : State) (f : Nat) : Nat := 2 ^ min (max (s.fld (Fl.DLY_CFG_LOG2 f)) 2) 14

/-- The values of each section when all are readable (R619), and the slot for a mask in 192-byte units. -/
def sectionValues (bit : Nat) : Nat := [2880, 64, 16, 2520, 87, 216, 64].getD bit 0
def slotUnits (mask : Nat) : Nat :=
  if mask = 0 then 1
  else ceilDiv (64 + (((List.range 7).filter (fun b => bitOf mask b)).map (fun b => 8 + 8 * sectionValues b)).sum) 192

/-- Is a stream's ring full? -/
def State.dlyFull (s : State) (f : Nat) : Bool :=
  decide (s.dlySlots f ≤ ((s.reg (Reg.DLY_PROD f)).toNat + 2 ^ 32 - (s.reg (Reg.DLY_CONS f)).toNat) % 2 ^ 32)

/-- A stream misses a record: told of once in 1 s (R620). -/
def dlyMiss (f : Nat) : M Unit := do
  let now ← look (·.time)
  let x ← look (·.stream f)
  modStream f (fun x => { x with missed := min (x.missed + 1) (2 ^ 32 - 1) })
  if !(x.raisedAt.any (fun t => decide (now < t + 1000000000))) then
    modStream f (fun x => { x with raisedAt := some now })
    raise Ev.dailiesOverrun (srcFn f) 0 0

/-- The allotment of hub counters takes effect, and forces their privilege masks (R626, R627). -/
def allocApply : M Unit := do
  for n in List.range 64 do
    let g ← getFld (Fl.PMON_ALLOC_GUEST n)
    let g := if 8 < g then 0 else g
    act (.alloc n g)
    if g ≠ 0 then
      let w ← getReg (Reg.PMON_HUB_FILT n)
      setReg (Reg.PMON_HUB_FILT n) (BitVec.ofNat 32 (w.toNat / 2 ^ 11 * 2 ^ 11 + 2 ^ (2 + g)))

/-- DAILIES_TICK: every counter is latched, unless the last latch is still held; the monitors begin a new interval after it (R615, R616, R620). -/
def execDailiesTick : Meaning := M.next (do
  let en ← getFld Fl.PMON_CTRL_EN
  if en = 1 then
    let held ← look (·.hub.latch.isSome)
    let due ← look (fun s => (List.range 9).filter (fun f =>
      decide (s.fld (Fl.DLY_CTRL_ENABLE f) = 1) && decide (((s.stream f).seq + 1) % s.dlyDiv f = 0)))
    if held then
      for f in due do dlyMiss f
    else
      let on ← look (fun s => (List.range 9).filter (fun f => decide (s.fld (Fl.DLY_CTRL_ENABLE f) = 1)))
      for f in on do modStream f (fun x => { x with seq := (x.seq + 1) % 2 ^ 32 })
      let room ← look (fun s => due.filter (fun f => !s.dlyFull f))
      let l ← look (fun s => (⟨s.time, (s.reg Reg.COLL_STEP).toNat, s.regs, room⟩ : DailyLatch))
      act (.hub (fun h => { h with latch := if room.isEmpty then none else some l }))
      for f in due.filter (fun f => !room.contains f) do dlyMiss f
    for m in List.range 32 do
      setFld (Fl.BW_MIN_RATE m) 0xFFFFFF
      setFld (Fl.BW_MAX_RATE m) 0
      setReg (Reg.BW_COUNT m) 0
    allocApply)

/-- A latched register, and a latched count of a LO and a HI register. -/
def DailyLatch.reg (l : DailyLatch) (off : Nat) : Nat := (Store.get regReset l.regs off).toNat
def DailyLatch.count (l : DailyLatch) (lo : Nat) : Nat := (l.reg lo + l.reg (lo + 4) * 2 ^ 32) % 2 ^ 48

/-- The values of a section for a function, none where it may not read it (R619). -/
def State.dlySection (s : State) (l : DailyLatch) (f bit : Nat) : Option (List Nat) :=
  let owner := decide (f = 0) || s.job.any (fun j => decide (j.owner = f))
  let many := fun (n : Nat) (lo : Nat → Nat) => (List.range n).map (fun i => l.count (lo i))
  match bit with
  | 0 => if owner then some ((List.range 180).flatMap (fun t => many 16 (fun i => Reg.TILE_PMU_SEL t i + 8))) else none
  | 1 => some (((List.range 64).filter (fun n => decide (f = 0) || decide (Store.get (fun _ => 0) s.hub.alloc n = f))).map
      (fun n => l.count (Reg.PMON_HUB_SEL n + 8)))
  | 2 => if owner then some (many 16 (fun i => Reg.PMON_UPD_SEL i + 8)) else none
  | 3 => if owner then some ((List.range 180).flatMap (fun t =>
      [Reg.TILE_SEQ_ISSUE_LO t, Reg.TILE_SEQ_WAIT_LO t, Reg.TILE_ARR_STREAM_LO t, Reg.TILE_ARR_SKIP_LO t, Reg.TILE_ARR_STALL_LO t, Reg.TILE_LA_TRUNC_LO t,
        Reg.TILE_LA_VANISH_LO t, Reg.TILE_CHN_VEC_LO t, Reg.TILE_CHN_STALL_LO t, Reg.TILE_DSP_ROUTED_LO t, Reg.TILE_DSP_DROPPED_LO t,
        Reg.TILE_DSP_BADCHOICE_LO t, Reg.TILE_DSP_SKIPTOK_LO t, Reg.TILE_DSP_STALL_LO t].map (fun a => l.count a))) else none
  | 4 => if f = 0 then some (many 8 Reg.REEL_COUNT_LO ++ many 9 Reg.UPDT_COUNT_LO ++ many 6 Reg.COLL_COUNT_LO ++ many 13 Reg.NRT_COUNT_LO ++
      many 6 Reg.PWRM_COUNT_LO ++ many 9 Reg.RAS_COUNT_LO ++ (List.range 6).flatMap (fun k => many 6 (Reg.CRAXIS_COUNT_LO k))) else none
  | 5 => if f = 0 then some ((List.range 9).flatMap (fun p => many 12 (Reg.MAC_COUNT_LO p) ++ many 12 (Reg.MAC_DROP_LO p))) else none
  | 6 => if f = 0 then some ((List.range 32).flatMap (fun m =>
      [l.reg (Reg.BW_MIN m) % 2 ^ 24 + l.reg (Reg.BW_MAX m) % 2 ^ 24 * 2 ^ 24, l.reg (Reg.BW_LAST m) % 2 ^ 24 + l.reg (Reg.BW_COUNT m) * 2 ^ 24])) else none
  | _ => none

/-- A record (R618). -/
def State.dlyRecord (s : State) (l : DailyLatch) (f : Nat) : List Byte :=
  let x := s.stream f
  let mask := s.fld (Fl.DLY_CFG_MASK f)
  let secs := ((List.range 7).filter (fun b => bitOf mask b)).filterMap (fun b => (s.dlySection l f b).map (fun v => (b, v)))
  let body := secs.flatMap (fun e => leBytes 8 (e.1 + e.2.length * 256) ++ e.2.flatMap (fun v => leBytes 8 v))
  leBytes 4 0x4C445754 ++ leBytes 4 x.seq ++ leBytes 8 l.time ++ leBytes 8 (l.step * 2 ^ 32) ++
    leBytes 4 ((secs.map (fun e => 2 ^ e.1)).sum) ++ leBytes 4 (64 + body.length) ++ leBytes 4 x.missed ++ leBytes 4 f ++
    leBytes 4 (crc32c body) ++ List.replicate 20 0 ++ body

/-- DAILIES_RECORD_WRITE: a stream's record goes to its ring, then PROD to the control slot; the last record due releases the latch. -/
def execDailiesRecordWrite (stream : Nat) : Meaning := M.next (do
  let h ← look (·.hub.latch)
  match h with
  | none => pure ()
  | some l =>
    let on ← getFld (Fl.DLY_CTRL_ENABLE stream)
    if l.due.contains stream then
      if on = 1 then
        let b ← look (·.dlyRecord l stream)
        let p ← getReg (Reg.DLY_PROD stream)
        let base ← look (·.reg64 (Reg.DLY_BASE_LO stream))
        let n ← look (·.dlySlots stream)
        let size ← look (fun s => 192 * slotUnits (s.fld (Fl.DLY_CFG_MASK stream)))
        let host ← getFld (Fl.DLY_CTRL_HOST stream)
        let a := base + 192 + p.toNat % n * size
        let put := fun (a : Nat) (b : List Byte) => if host = 1 then hostPut stream a b else tierWrite a b
        put a b
        put base (leBytes 8 (p.toNat + 1))
        if host = 0 then
          byteTraffic true a b.length none none (some 5)
          byteTraffic true base 8 none none (some 5)
        setReg (Reg.DLY_PROD stream) (p + 1)
        modStream stream (fun x => { x with missed := 0 })
      let left := l.due.filter (fun f => decide (f ≠ stream))
      act (.hub (fun h => { h with latch := if left.isEmpty then none else some { l with due := left } })))

/-- A write of DLY_CTRL: ENABLE restarts the stream, unless its base fails R632. -/
def dlyCtrlWrite (master f value : Nat) : M Unit := do
  let was ← getFld (Fl.DLY_CTRL_ENABLE f)
  regWrite master (Reg.DLY_CTRL f) value
  let now ← getFld (Fl.DLY_CTRL_ENABLE f)
  if was = 0 ∧ now = 1 then
    let ok ← look (fun s =>
      let a := s.reg64 (Reg.DLY_BASE_LO f)
      if s.fld (Fl.DLY_CTRL_HOST f) = 1 then decide (a % 4096 = 0)
      else onPair a && rangeT1 a (192 + s.dlySlots f * 192 * slotUnits (s.fld (Fl.DLY_CFG_MASK f))))
    if ok then
      setReg (Reg.DLY_PROD f) 0
      act (.stream f (fun _ => ⟨0, 0, none⟩))
    else
      setFld (Fl.DLY_CTRL_ENABLE f) 0
      setBit Fl.PMON_CTRL_BADBASE

/-- DLY_ENABLE_WRITE. -/
def execDlyEnableWrite (master stream value : Nat) : Meaning := M.next (dlyCtrlWrite master stream value)

/-! Samples (R623, R624). -/

/-- Is the samples' base good (R631)? -/
def State.smpBase (s : State) : Option Nat :=
  let a := s.reg64 Reg.PMON_SMP_BASE_LO
  if onPair a ∧ rangeT1 a (180 * 131072) then some a else none

/-- SAMPLE_WRITE: the oldest completed sample of a tile goes to its buffer, or is lost when the buffer is full. -/
def execSampleWrite (tile : Nat) : Meaning := M.next (do
  let t ← getTile tile
  match t.sampled with
  | [] => pure ()
  | b :: _ =>
    modTile tile (fun t => { t with sampled := t.sampled.drop 1 })
    let base ← look (·.smpBase)
    let p ← getReg (Reg.TILE_SMP_PROD tile)
    let c ← getReg (Reg.TILE_SMP_CONS tile)
    match base with
    | none => setBit Fl.PMON_CTRL_BADBASE
    | some a =>
      if (p.toNat + 2 ^ 32 - c.toNat) % 2 ^ 32 < 4096 then
        let to' := a + tile * 131072 + p.toNat % 4096 * 32
        tierWrite to' b
        setReg (Reg.TILE_SMP_PROD tile) (p + 1)
        byteTraffic true to' b.length none none (some 5)
      else bump (Reg.TILE_SMP_LOST_LO tile) 1)

end Sys2Proof.Machine
end

