-- ==== Sys2Proof/Machine/PwrCmds.lean ====
section
/-! DEFINITION. The commands of power, clocks and thermal control (R510 to R536). -/

namespace Sys2Proof.Machine

/-! The controller's tick (R522 to R524). -/

/-- Is a measured value implausible, in 0.1 W (R523)? `same` are the ticks for which M has stood still, this one with them. -/
def implausible (m e ceiling same sameE : Nat) : Bool :=
  decide (m < 300) || decide (25 * ceiling + 1000 < 2 * m) ||
    (decide (10000 ≤ same) && (decide (sameE + 500 < e) || decide (e + 500 < sameE)))

/-- Do E and M differ by more than 15 % of the larger (R524)? -/
def differs (m e : Nat) : Bool := decide (15 * max m e < 100 * (max m e - min m e))

/-- The sensor fails: E governs with 20 %, LEARN falls back (R523). -/
def sensorFail : M Unit := do
  let was ← getFld Fl.PWRM_STATUS_SENSOR_FAILED
  act (.pwr (fun p => { p with good := 0 }))
  if was = 0 then
    setFld Fl.PWRM_STATUS_SENSOR_FAILED 1
    raise Ev.powerSensorFailed srcHub 0 0
    learnFallback

/-- The averages over each millisecond (R543). -/
def powerAverage (m e : Nat) : M Unit := do
  act (.pwr (fun p => { p with sumM := p.sumM + m, sumE := p.sumE + e, sumN := p.sumN + 1 }))
  let p ← look (·.pwr)
  if 100 ≤ p.sumN then
    setFld Fl.PWRM_POWER_MEASURED (min (p.sumM / p.sumN) 65535)
    setFld Fl.PWRM_POWER_ESTIMATE (min (p.sumE / p.sumN) 65535)
    act (.pwr (fun p => { p with sumM := 0, sumE := 0, sumN := 0 }))

/-- A class of LEARN whose draw has exceeded its budget for 100 µs has its budget raised to the draw for the rest of the visit (R521). -/
def raiseBudgets (draws : List Nat) : M Unit := do
  let b ← look (·.pwr.budgets)
  act (.pwr (fun p => { p with excess := (List.range 4).map (fun c => if b.getD c 0 < draws.getD c 0 then p.excess.getD c 0 + 1 else 0) }))
  let on ← look (·.learned)
  let x ← look (·.pwr.excess)
  if on then
    for c in [1, 2, 3] do
      if 10 ≤ x.getD c 0 then
        act (.pwr (fun p => { p with raised := (c, draws.getD c 0) :: p.raised.filter (fun e => decide (e.1 ≠ c)) }))

/-- POWER_CONTROL_TICK: M, E, the classes' draws of the 10 µs, and the draws of the slot's 12 V and of both connectors (R31), all in 0.1 W. -/
def execPowerControlTick (m e : Nat) (draws : Draws) : Meaning := M.next (do
  let p ← look (·.pwr)
  let ceiling ← getFld Fl.IDENT_CAP_CEILING_CEILING
  let same := if m = p.m then p.same + 1 else 0
  let sameE := if m = p.m then p.sameE else e
  act (.pwr (fun p => { p with m := m, e := e, same := same, sameE := sameE, draws := draws.classes, inputs := draws.inputs }))
  if implausible m e ceiling same sameE then sensorFail else act (.pwr (fun p => { p with good := p.good + 1 }))
  let failed ← getFld Fl.PWRM_STATUS_SENSOR_FAILED
  act (.pwr (fun p =>
    if failed = 1 then { p with apart := 0, near := 0 }
    else if differs m e then { p with apart := p.apart + 1, near := 0 }
    else { p with apart := 0, near := p.near + 1 }))
  act (.pwr (fun p => { p with governs := if failed = 1 then e * 12 / 10 else if p.diverged then max e m else m }))
  powerAverage m e
  phaseEntry
  act (.pwr (fun p => { p with visit := p.visit.map (fun v =>
    { v with n := v.n + 1, memory := v.memory + draws.classes.getD 1 0, update := v.update + draws.classes.getD 2 0, hub := v.hub + draws.classes.getD 3 0 }) }))
  raiseBudgets draws.classes
  budgetSync
  shareSync
  thermSync
  boundSync)

/-- SENSOR_RECOVER: 1 s of plausible samples, 100,000 ticks (R523). LEARN stays at FIXED. -/
def execSensorRecover : Meaning := M.next (do
  let failed ← getFld Fl.PWRM_STATUS_SENSOR_FAILED
  let n ← look (·.pwr.good)
  if failed = 1 ∧ 100000 ≤ n then setFld Fl.PWRM_STATUS_SENSOR_FAILED 0)

/-- POWER_MODEL_DIVERGENCE: E and M have differed for more than 1 ms, 100 ticks (R524). -/
def execPowerModelDivergence : Meaning := M.next (do
  let failed ← getFld Fl.PWRM_STATUS_SENSOR_FAILED
  let p ← look (·.pwr)
  if failed = 0 ∧ 100 < p.apart ∧ !p.diverged then
    act (.pwr (fun p => { p with diverged := true, governs := max p.e p.m }))
    setBit Fl.PWRM_STATUS_DIVERGED
    bump (Reg.PWRM_COUNT_LO 5) 1
    raise Ev.powerModelDivergence srcHub 0 0
    learnFallback)

/-- DIVERGENCE_CLEAR: they have agreed for 10 ms, 1,000 ticks. -/
def execDivergenceClear : Meaning := M.next (do
  let p ← look (·.pwr)
  if p.diverged ∧ 1000 ≤ p.near then act (.pwr (fun p => { p with diverged := false, governs := p.m })))

/-! Points (R513, R519). -/

/-- A group that can change its point: its PLL runs. -/
def State.clocked (s : State) (g : Nat) : Bool := decide (s.fld (Fl.CLKG_GROUP_STOPPED g) = 0)

/-- COMPUTE_POINT_LOWER: while COMPUTE exceeds its budget, module power the cap, or an input's draw its limit, a group goes down one point. -/
def execComputePointLower (group : Nat) : Meaning := M.next (do
  let on ← look (·.clocked group)
  let p ← look (·.pwr)
  let cap ← look (·.cap)
  let past ← look (·.inputOver)
  let pt ← look (fun s => (s.clk group).target.getD (s.point group))
  if on = true ∧ pt ≠ 0 ∧ (p.budgets.getD 0 0 < p.draws.getD 0 0 ∨ 10 * cap < p.governs ∨ past = true) then
    modClk group (fun k => { k with bound := true })
    let _ ← pointDown group
    boundSync)

/-- COMPUTE_POINT_RAISE: a group goes up one point while the next point's estimate fits the budget, module power the cap and each input's draw its limit,
and nothing else holds it. -/
def execComputePointRaise (group : Nat) : Meaning := M.next (do
  let on ← look (·.clocked group)
  let pt ← look (·.toward group)
  let top ← look (·.allowed group)
  let fits ← look (·.raiseFits group)
  if on ∧ pt < top ∧ fits then
    pointTo group (pt + 1)
    if pt + 1 = top then modClk group (fun k => { k with bound := false })
  boundSync)

/-- POINT_CHANGE_DONE: voltage and frequency have reached the new point. -/
def execPointChangeDone (group : Nat) : Meaning := M.next (do
  let k ← look (·.clk group)
  match k.target with
  | none => pure ()
  | some p =>
    setFld (Fl.CLKG_GROUP_POINT group) p
    modClk group (fun k => { k with target := none })
    mhzSync group)

/-- A write of PWRM_CTRL: RECAL restarts learning (R525); MATCHED and MODE act once they have taken effect. -/
def pwrmCtrlWrite (master value : Nat) : M Unit := do
  regWrite master Reg.PWRM_CTRL value
  if bitOf value 2 then learnRestart
  powerSync

/-- RECAL. -/
def execRecal (master value : Nat) : Meaning := M.next (pwrmCtrlWrite master value)

/-- A write of PWRM_FRAC whose fields sum above 128 is ignored (R541). -/
def pwrmFracWrite (master value : Nat) : M Unit := do
  if 128 < bitsOf value 7 0 + bitsOf value 15 8 + bitsOf value 23 16 then raise Ev.powerConfig srcHub 0 0
  else
    regWrite master Reg.PWRM_FRAC value
    budgetSync

/-- POWER_FRAC_WRITE. -/
def execPowerFracWrite (master value : Nat) : Meaning := M.next (pwrmFracWrite master value)

/-! Droop (R526, R527). -/

/-- DROOP_DETECT: the group's clock is stretched to half frequency. -/
def execDroopDetect (group : Nat) : Meaning := M.next (do
  let on ← look (·.clocked group)
  let was ← getFld (Fl.CLKG_GROUP_STRETCHED group)
  if on ∧ was = 0 then
    setFld (Fl.CLKG_GROUP_STRETCHED group) 1
    bump (Reg.PWRM_COUNT_LO 2) 1
    mhzSync group)

/-- DROOP_STRETCH_END. -/
def execDroopStretchEnd (group : Nat) : Meaning := M.next (do
  setFld (Fl.CLKG_GROUP_STRETCHED group) 0
  mhzSync group)

/-- DROOP_PERSISTENT: the group goes down one point and stays at most there for 100 ms. -/
def execDroopPersistent (group : Nat) : Meaning := M.next (do
  let on ← look (·.clocked group)
  let now ← look (·.time)
  if on then
    let p ← pointDown group
    modClk group (fun k => { k with ceiling := some (p, now + 100000000) })
    boundSync
    raise Ev.droopPersistent srcHub 0 0)

/-! Temperatures (R531 to R534). -/

/-- THERMAL_SAMPLE: the sensors' readings, with the warnings they bring. -/
def execThermalSample (temps : List Temp) : Meaning := M.next (readTemps temps)

/-- Does a sensor hold back its domain: above its throttle threshold, or overdue (R531, R532)? -/
def State.throttles (s : State) (row index : Nat) : Bool :=
  s.pwr.overdue.contains (row, index) ||
    (match s.temp row index, sensorThrottle row with
      | some t, some x => decide (x < t)
      | _, _ => false)

/-- THERMAL_THROTTLE: the domain of a sensor above its threshold is held back one point, or 1/8 of a class's budget. -/
def execThermalThrottle (row index : Nat) : Meaning := M.next (do
  let on ← look (·.throttles row index)
  if on then
    act (.pwr (fun p => { p with throttled := if p.throttled.contains (row, index) then p.throttled else p.throttled ++ [(row, index)] }))
    for g in sensorGroups row index do
      let run ← look (·.clocked g)
      let pt ← look (·.toward g)
      let n ← look (fun s => ((s.clk g).hot.map (·.2)).getD 0)
      if pt = 0 then modClk g (fun k => { k with hot := some (0, max n 1) })
      else
        if run then
          let _ ← pointDown g
        else pointTo g (pt - 1)
        modClk g (fun k => { k with hot := some (pt - 1, n + 1) })
    match sensorClass row with
    | some c => act (.pwr (fun p => { p with cuts := modAt p.cuts c (fun x => min (x + 1) 8) }))
    | none => pure ()
    budgetSync
    throttleSync
    boundSync)

/-- Is a sensor 3 °C below its threshold? -/
def State.cool (s : State) (row index : Nat) : Bool :=
  match s.temp row index, sensorThrottle row with
  | some t, some x => decide (t ≤ x - 24)
  | _, _ => false

/-- Does another sensor, which is not so cool yet, hold back the same domain? -/
def State.otherHot (s : State) (row index : Nat) : Bool :=
  s.pwr.throttled.any (fun e => decide (e ≠ (row, index)) && !s.cool e.1 e.2 &&
    ((sensorGroups e.1 e.2).any (fun g => (sensorGroups row index).contains g) ||
      ((sensorClass e.1).isSome && decide (sensorClass e.1 = sensorClass row))))

/-- THERMAL_RECOVER: the domain of a sensor 3 °C below its threshold recovers one point, or 1/8. -/
def execThermalRecover (row index : Nat) : Meaning := M.next (do
  let cool ← look (·.cool row index)
  let was ← look (fun s => s.pwr.throttled.contains (row, index))
  let other ← look (·.otherHot row index)
  if cool ∧ was ∧ !other then
    for g in sensorGroups row index do
      let k ← look (·.clk g)
      match k.hot with
      | some (p, n) =>
        modClk g (fun k => { k with hot := if n ≤ 1 then none else some (p + 1, n - 1) })
        let pt ← look (·.toward g)
        let top ← look (·.allowed g)
        if pt < top then pointTo g (pt + 1)
      | none => pure ()
    match sensorClass row with
    | some c => act (.pwr (fun p => { p with cuts := modAt p.cuts c (· - 1) }))
    | none => pure ()
    let free ← look (fun s => (sensorGroups row index).all (fun g => (s.clk g).hot.isNone) &&
      (match sensorClass row with
        | some c => decide (s.pwr.cuts.getD c 0 = 0)
        | none => true))
    if free then act (.pwr (fun p => { p with throttled := p.throttled.filter (fun e => decide (e ≠ (row, index))) }))
    budgetSync
    throttleSync
    boundSync)

/-- PWR_REPORT_OVERDUE: a sensor that reports by PWR message counts as at its throttle threshold until a report arrives (R531). -/
def execPwrReportOverdue (row index : Nat) : Meaning := M.next (do
  if 2 ≤ row ∧ row ≤ 4 then
    act (.pwr (fun p => { p with overdue := if p.overdue.contains (row, index) then p.overdue else p.overdue ++ [(row, index)] }))
    thermSync)

/-- A thermal trip: its time is kept for the wait of R555. -/
def tripAssert : M Unit := do
  let now ← look (·.time)
  act (.pwr (fun p => { p with tripAt := some now }))
  assertFull 6

/-- THERMAL_TRIP: the comparators of the junction sensors act of themselves; a stack's or LPDDR5X package's trip needs its report (R534). -/
def execThermalTrip (row index : Nat) : Meaning := M.next (whenPowered (do
  let hit : Bool ← look (fun s => match s.temp row index, sensorTrip row with
    | some t, some x => decide (x ≤ t)
    | _, _ => false)
  if decide (row ≤ 2) || (decide (row ≤ 4) && hit) then tripAssert))

/-! Power states (R510, R512). -/

/-- TILE_RETAIN: a tile whose RUN has been clear for 100 µs; one that the loaded job names stays ON until the job starts. -/
def execTileRetain (tile : Nat) : Meaning := M.next (do
  let run ← getFld (Fl.TILE_SEQ_CTRL_RUN tile)
  let p ← look (·.physOf tile)
  let st ← look (·.power p)
  let named ← look (fun s => match s.job with
    | some j => !j.started && !j.stopped && decide (tile < j.tiles)
    | none => false)
  if run = 0 ∧ st = .on ∧ !named then act (.phys p .retain))

/-- TILE_WAKE: the tile is ON; a RUN set meanwhile takes effect; its activity rises from 0 (R510, R529). -/
def execTileWake (tile : Nat) : Meaning := M.next (do
  let p ← look (·.physOf tile)
  let st ← look (·.power p)
  if st = .waking then
    tileOn p
    matchSync
    let t ← getTile tile
    if t.wakeRun then tileStart tile)

/-- TILE_GROUP_PLL_STOP: a group without a tile ON, in RETAIN or waking stops its PLL. -/
def execTileGroupPllStop (group : Nat) : Meaning := M.next (do
  let idle ← look (fun s => (List.range 16).all (fun i => decide (s.power (16 * group + i) = .off)))
  if idle then
    modClk group (fun k => { k with target := none })
    setFld (Fl.CLKG_GROUP_STOPPED group) 1
    setFld (Fl.CLKG_GROUP_STRETCHED group) 0
    mhzSync group)

/-- ROOM_TONE_LEVEL_ZERO: the filler level has fallen to 0, and room tone ends (R528). The tile draws nothing now, so its activity rises from 0 when it is
released (R529). -/
def execRoomToneLevelZero (tile : Nat) : Meaning := M.next (do
  let t ← getTile tile
  let now ← look (·.time)
  if t.tone.isSome then modTile tile (fun t => { t with tone := some (now, 0) }))

/-! Hours and the time counter (R514, R516). -/

/-- HOUR_RECORD: the keeper writes its count of hours to flash; a threshold crossed selects a column that takes effect later. -/
def execHourRecord (hours : Nat) : Meaning := M.next (do
  let run ← look (·.keeperRuns)
  let old ← getReg Reg.CLKG_HOURS
  if run then
    setReg Reg.CLKG_HOURS (BitVec.ofNat 32 hours)
    flashWrite 0x30000 (leBytes 4 hours)
    if ageColumn old.toNat < ageColumn hours then
      act (.pwr (fun p => { p with ageNext := some (ageColumn hours) }))
      raise Ev.vfAgeColumn srcKeeper 0 0)

/-- A write of CLKG_STEP: a positive step is added at once, a negative one is absorbed at half rate; one of more than 1 µs is told of. -/
def clkgStepWrite (master value : Nat) : M Unit := do
  regWrite master Reg.CLKG_STEP value
  let v := value % 2 ^ 32
  if v < 2 ^ 31 then
    let now ← look (·.time)
    act (.time (now + v))
    if 1000 < v then raise Ev.timeStep srcHub 0 0
  else
    act (.pwr (fun p => { p with neg := p.neg + (2 ^ 32 - v) }))
    if 1000 < 2 ^ 32 - v then raise Ev.timeStep srcHub 0 0

/-- CLKG_STEP_WRITE, and CLKG_TRIM_WRITE: the trim acts from the next reference edge. -/
def execClkgStepWrite (master value : Nat) : Meaning := M.next (clkgStepWrite master value)
def execClkgTrimWrite (master value : Nat) : Meaning := M.next (regWrite master Reg.CLKG_TRIM value)

/-- NEGATIVE_STEP_ABSORBED: the counter has run at half rate until the step was absorbed, so it has advanced by as much as it has absorbed. -/
def execNegativeStepAbsorbed : Meaning := M.next (do
  let n ← look (·.pwr.neg)
  let now ← look (·.time)
  act (.time (now + n))
  act (.pwr (fun p => { p with neg := 0 })))

end Sys2Proof.Machine
end

