-- ==== Sys2Proof/Machine/RstCmds.lean ====
section
/-! DEFINITION. The commands of resets, the start and recovery (R474, R547 to R572), and KEEPER_BOOT (R45, R565, R568). -/

namespace Sys2Proof.Machine

/-! Sources. -/

/-- POWER_ON: 3.3 V or 3.3 Vaux rises after both were absent: power-on reset, with cause 1 at time 0 (R548, R549). -/
def execPowerOn : Meaning := M.next (do
  let on ← look (·.rst.powered)
  if !on then act (.reset true))

/-- POWER_LOSS: everything is lost, retained state too; nothing runs until power returns. -/
def execPowerLoss : Meaning := M.next (do
  act (.reset true)
  modRst (fun r => { r with powered := false, asserted := [], interval := false, widest := 0 }))

/-- BROWNOUT, and NRESET held low for 10 µs. -/
def execBrownout : Meaning := M.next (whenPowered (assertFull 2))
def execNreset : Meaning := M.next (whenPowered (assertFull 3))

/-- PERST: PERST#, hot reset or link down, with the reach that HOST_RESET_REACH gives (R474, R548). -/
def execPerst : Meaning := M.next (whenPowered (do
  let full ← getFld Fl.OPTS_VALUES_HOST_RESET_REACH
  if full = 1 then assertFull srcHostFull else assertHost))

/-- KEEPER_WATCHDOG: no keeper write of RSTC_WDOG for 100 ms; in recovery mode the keeper ROM services it, and AO-KEEPER held in reset counts nothing
(R547, R548, R569). -/
def execKeeperWatchdog : Meaning := M.next (whenPowered (do
  let st ← look (·.rstState)
  if st ≠ 0 ∧ st ≠ stRecovery then assertFull 5))

/-- KEEPER_WDOG_KICK: any keeper write restarts the watchdog, whose expiry is KEEPER_WATCHDOG. -/
def execKeeperWdogKick (master value : Nat) : Meaning := M.next (regWrite master Reg.RSTC_WDOG value)

/-- DEVICE_RESET, TWIN_REQ, READY, STAGE_RESTART_DONE: writes of RSTC_CTRL (R553, R556, R571, R576). -/
def execDeviceReset (master value : Nat) : Meaning := M.next (rstcCtrlWrite master value)
def execTwinReq (master value : Nat) : Meaning := M.next (rstcCtrlWrite master value)
def execReady (master value : Nat) : Meaning := M.next (rstcCtrlWrite master value)
def execStageRestartDone (master value : Nat) : Meaning := M.next (rstcCtrlWrite master value)

/-- TWIN_REQ_REPEAT: the TLV again, three times in all. -/
def execTwinReqRepeat : Meaning := M.next (do
  let n ← look (·.rst.twinLeft)
  if n ≠ 0 then
    twinSend
    modRst (fun r => { r with twinLeft := r.twinLeft - 1 }))

/-- TWIN_RESET_REQUEST: accepted when enabled, of the same pair, and of the same job or with no job at one end (R553). It comes in on port 8. -/
def execTwinResetRequest (pair job : Nat) : Meaning := M.next (whenPowered (do
  let en ← getFld Fl.OPTS_VALUES_TWIN_RESET_EN
  let mine ← look (·.myPair)
  let id ← look (fun s => (s.job.map (·.jobId)).getD 0 % 2 ^ 32)
  let go ← look (fun s => s.hasTwin && s.receives 8)
  if !go then pure ()
  else if en = 1 ∧ pair = mine ∧ (job = id ∨ job = 0 ∨ id = 0) then assertFull 7 else raise Ev.twinResetRefused srcKeeper 0 0))

/-- START_FAILURE: a start not RUNNING in time; the waits stop its timer (R555, R556). -/
def execStartFailure : Meaning := M.next (whenPowered (do
  let st ← look (·.rstState)
  if st ≠ 0 ∧ st < stRunning ∧ st ≠ stSupplyWait ∧ st ≠ stThermalWait then assertFull 9))

/-- RESET_INTERVAL_END: a source releases. The last one other than a HOST source ends a FULL or POWER interval and begins the start; a HOST source still
asserted then holds the host interface alone (R550). -/
def execResetIntervalEnd (source : Nat) : Meaning := M.next (do
  let r ← look (·.rst)
  let hit := fun (x : Nat) => decide (x = source) || (decide (source = srcHost) && decide (x = srcHostFull))
  if r.asserted.any hit then
    let left := r.asserted.filter (fun x => !hit x)
    modRst (fun r => { r with asserted := left, hostHeld := left.contains srcHost })
    if r.interval then
      if 2 ≤ r.widest then
        if left.all (fun x => decide (x = srcHost)) then
          modRst (fun r => { r with interval := false, widest := 0 })
          startBegin
      else if left.isEmpty then modRst (fun r => { r with interval := false, widest := 0 }))

/-! The start. -/

/-- KEEPER_BOOT: the keeper ROM takes a keeper image, and keeper firmware measures the supplies and brings the configuration record into force (R45,
R565, R568). With no acceptable image the module enters minimal recovery mode. -/
def execKeeperBoot (supply : Supply) : Meaning := M.next (do
  optionFinish
  let st ← look (·.rstState)
  let slot ← look (·.pickKeeper)
  if st = stKeeperBoot then
    match slot with
    | none =>
      modRst (fun r => { r with bootFailed := true })
      enterRecovery
    | some k =>
      setFld Fl.OPTS_STATUS_KEEPER_SLOT k
      let img ← look (·.image (keeperPlace k))
      measure 1 img
      let src ← getFld Fl.OPTS_STATUS_SOURCE
      if src = 0 then raise Ev.optionsDefault srcKeeper 0 0
      configLoad
      let lost ← getFld Fl.RSTC_CAUSE_LOST
      if lost = 1 then
        let hours ← getReg Reg.CLKG_HOURS
        for g in List.range 12 do setFld (Fl.CLKG_GROUP_AGE g) (ageColumn hours.toNat)
        act (.pwr (fun p => { p with ageNext := none }))
      supplySurvey supply)

/-- DIE_RELEASE: the hub releases the next far die once the link of the one before it is up (R554). -/
def execDieRelease (die : Nat) : Meaning := M.next (do
  let st ← look (·.rstState)
  let r ← look (·.rst)
  let up ← look (fun s => decide (die = 0) || s.dieUp (die - 1))
  if st = stDies ∧ die = r.released.length ∧ up then
    modRst (fun r => { r with released := r.released ++ [die] })
    dieResetRelease die)

/-- THERMAL_WAIT_END: 10 s have passed since the trip, and every TW6H sensor reads below 75 °C (R555). -/
def execThermalWaitEnd : Meaning := M.next (do
  let st ← look (·.rstState)
  let cool ← look (fun s => (List.range 4).all (fun i =>
    match s.temp 1 i with
    | some t => decide (t < 600)
    | none => false))
  let past ← look (fun s => s.pwr.tripAt.all (fun t => decide (t + 10000000000 ≤ s.time)))
  if st = stThermalWait ∧ cool ∧ past then
    act (.pwr (fun p => { p with tripAt := none }))
    setFld Fl.RSTC_STATE_STATE stDies)

/-- STAGE_BOOT: every far die is up and has told of its initialisation; the keeper verifies the stage image and loads the cores. With no acceptable image
the start has failed (R554, R556, R568). -/
def execStageBoot : Meaning := M.next (do
  let st ← look (·.rstState)
  let r ← look (·.rst)
  let up ← look (fun s => (List.range 8).all (fun d => s.dieReady d))
  let slot ← look (·.pickStage)
  if st = stDies ∧ r.released.length = 8 ∧ up then
    match slot with
    | none => assertFull 9
    | some k =>
      setFld Fl.OPTS_STATUS_STAGE_SLOT k
      let img ← look (·.image (stagePlace k))
      measure 2 img
      modRst (fun r => { r with stage := .loaded })
      setFld Fl.RSTC_STATE_STATE stStageBoot)

/-! Block resets (R558). -/

/-- BLOCK_RESET_UPD, _STACK, _FIELD, _MGMT: writes of RSTC_BLOCK. -/
def execBlockResetUpd (master value : Nat) : Meaning := M.next (rstcBlockWrite master value)
def execBlockResetStack (master value : Nat) : Meaning := M.next (rstcBlockWrite master value)
def execBlockResetField (master value : Nat) : Meaning := M.next (rstcBlockWrite master value)
def execBlockResetMgmt (master value : Nat) : Meaning := M.next (rstcBlockWrite master value)

/-- BLOCK_RESET_DONE: a block is back, and its bit reads 0. -/
def execBlockResetDone (bit : Nat) : Meaning := M.next (do
  let w ← getReg Reg.RSTC_BLOCK
  let back ← look (fun s => if bit = 8 then decide (s.rst.stage = .running) else s.dieReady bit)
  if bitOf w.toNat bit ∧ bit ≤ 8 ∧ back then setReg Reg.RSTC_BLOCK (BitVec.ofNat 32 (w.toNat - 2 ^ bit)))

/-! Stage firmware (R571, R572). -/

/-- A write of RSTC_STAGE_WDOG: only stage firmware's counts, and restarts the watchdog whose expiry is STAGE_WATCHDOG. -/
def stageWdogWrite (master value : Nat) : M Unit := do
  if 0xC5 ≤ master ∧ master ≤ 0xC8 then regWrite master Reg.RSTC_STAGE_WDOG value
  else raise Ev.csrPrivilege (masterSrc master) Reg.RSTC_STAGE_WDOG 0

/-- STAGE_WDOG_KICK. -/
def execStageWdogKick (master value : Nat) : Meaning := M.next (stageWdogWrite master value)

/-- STAGE_WATCHDOG: no kick for STAGE_WDOG_MS, from firmware that runs or that has been loaded and does not get ready. -/
def execStageWatchdog : Meaning := M.next (do
  let st ← look (·.rstState)
  let stage ← look (·.rst.stage)
  if (st = stRunning ∨ st = stStageBoot) ∧ (stage = .running ∨ stage = .loaded) then stageRestart)

/-! Minimal recovery (R570): the four registers of the recovery function, and its commands on them. -/

/-- ADDR and LEN. LEN is taken as at most 65,536 bytes. -/
def recoverySet (addr len : Nat) : M Unit := modRst (fun r => { r with recAddr := addr % 2 ^ 26, recSize := len % 2 ^ 17 })
def State.recoveryLen (s : State) : Nat := min s.rst.recSize 65536

/-- Bytes put into the buffer. -/
def recoveryFill (at' : Nat) (b : List Byte) : M Unit :=
  modRst (fun r => { r with recBuf := b.zipIdx.foldl (fun m x => Store.set (fun _ => 0) m (at' + x.2) x.1) r.recBuf })

/-- A command that touches the factory area, or a range beyond 64 MiB, is refused. -/
def recovery (addr len : Nat) (k : M Unit) : M Unit :=
  if 0x3F00000 < addr + len then modRst (fun r => { r with recRefused := true }) else k

/-- What an erase or a program does to a range: its bytes, or, where the flash reports a failure, ERROR and a range that is not whole. -/
def recoveryFlash (a : Nat) (b : List Byte) (fails : Bool) : M Unit :=
  if fails then do
    modRst (fun r => { r with recError := true })
    flashTear a b.length
  else flashWrite a b

/-- READ into the buffer, ERASE of the 64 KiB sector at ADDR, PROGRAM from the buffer, EXIT: a CLEAR record, then a start-failure reset. A command is over
before the next access, so BUSY reads 0. -/
def recoveryRead : M Unit := do
  let addr ← look (·.rst.recAddr)
  let n ← look (·.recoveryLen)
  recovery addr n (do
    let b ← look (·.flashBytes addr n)
    recoveryFill 0 b
    act (.out (.recovery b)))
def recoveryErase (fails : Bool) : M Unit := do
  let a ← look (·.rst.recAddr / 0x10000 * 0x10000)
  recovery a 0x10000 (recoveryFlash a (List.replicate 0x10000 0xFF) fails)
def recoveryProgram (fails : Bool) : M Unit := do
  let addr ← look (·.rst.recAddr)
  let n ← look (·.recoveryLen)
  recovery addr n (do
    let b ← look (fun s => (List.range n).map (fun i => Store.get (fun _ => 0) s.rst.recBuf i))
    recoveryFlash addr b fails)
def recoveryLeave : M Unit := do
  logWrite 3 0
  assertFull 9

/-- OP. DESIGN CHOICE: the flash fails only where a command row says that it does. -/
def recoveryOp (op : Nat) : M Unit :=
  if op = 1 then recoveryRead else if op = 2 then recoveryErase false else if op = 3 then recoveryProgram false else if op = 4 then recoveryLeave else pure ()

/-- What the recovery function's BAR0 reads at an offset. -/
def State.recoveryView (s : State) (off : Nat) : Nat :=
  if off = 4 then
    (if s.rst.recError then 2 else 0) + (if s.rst.recRefused then 4 else 0) + (if s.rst.keyBad then 8 else 0) + s.fld Fl.RSTC_CAUSE_COUNT * 16 + s.fld Fl.RSTC_CAUSE_CAUSE * 256
  else if off = 8 then s.rst.recAddr
  else if off = 12 then s.rst.recSize
  else if 0x10000 ≤ off then leNat ((List.range 4).map (fun i => Store.get (fun _ => 0) s.rst.recBuf (off - 0x10000 + i)))
  else 0

/-- A write there. -/
def recoveryStore (off value : Nat) : M Unit := do
  let r ← look (·.rst)
  if off = 0 then recoveryOp (value % 8)
  else if off = 4 then
    modRst (fun r => { r with recRefused := r.recRefused && !bitOf value 2, recError := r.recError && !bitOf value 1 })
  else if off = 8 then recoverySet value r.recSize
  else if off = 12 then recoverySet r.recAddr value
  else if 0x10000 ≤ off then recoveryFill (off - 0x10000) (leBytes 4 value)

/-- RECOVERY_READ, RECOVERY_ERASE, RECOVERY_PROGRAM with the data standing in the buffer first, RECOVERY_EXIT: writes of ADDR, LEN and OP, in minimal
recovery mode alone. -/
def inRecovery (k : M Unit) : M Unit := do
  let st ← look (·.rstState)
  if st = stRecovery then k
def execRecoveryRead (addr len : Nat) : Meaning := M.next (inRecovery (do
  recoverySet addr len
  recoveryRead))
def execRecoveryErase (place : FlashPlace) : Meaning := M.next (inRecovery (do
  let n ← look (·.rst.recSize)
  recoverySet place.addr n
  recoveryErase place.fails))
def execRecoveryProgram (place : FlashPlace) (len : Nat) (data : List Byte) : Meaning := M.next (inRecovery (do
  recoverySet place.addr len
  recoveryFill 0 (data.take 65536)
  recoveryProgram place.fails))
def execRecoveryExit : Meaning := M.next (inRecovery recoveryLeave)

end Sys2Proof.Machine
end

