-- ==== Sys2Proof/Machine/RegOps.lean ====
section
/-! DEFINITION. Register accesses as a whole: where a master's offset leads (R454, R455, R476, R627, R630), what a register reads (R8, R14) with the views
that are computed, and what a write of each register does. -/

namespace Sys2Proof.Machine

/-- Where an access leads: to a register, to words of a function's MSI-X table or pending bits, to the recovery function's BAR0 (R570), to a place that
reads 0 and ignores writes without an event, or to none. -/
inductive RegPlace where
  | reg (off : Nat)
  | table (fn word : Nat)
  | pendingBits (fn word : Nat)
  | recovery (off : Nat)
  | silent
  | none
deriving DecidableEq, Repr

/-- The tile window of PMON, and the offset of a tile's block. -/
def tileBlock (n : Nat) : Nat := 0x10000000 + n * 0x10000
def State.pmonTile (s : State) (o : Nat) : Nat := tileBlock (min (s.fld Fl.PMON_TILE_SEL_TILE) 179) + o

/-- The place of a word that every master but a virtual function sees at an offset of the register region. A virtual function's page has one
aperture. -/
def State.plainPlace (s : State) (off : Nat) : RegPlace :=
  if 0xA00600 ≤ off ∧ off < 0xA00720 then .reg (s.pmonTile (off - 0xA00000))
  else if 0x102048 ≤ off ∧ off < 0x10A000 ∧ 0x48 ≤ off % 0x1000 ∧ off % 0x1000 < 0x80 then .none
  else .reg off

/-- The PMON view of virtual function g (R627). -/
def State.pmonView (s : State) (g o : Nat) (write : Bool) : RegPlace :=
  let mine := s.job.any (fun j => decide (j.owner = g))
  if 0x100 ≤ o ∧ o < 0x500 then
    match ((List.range 64).filter (fun n => decide (Store.get (fun _ => 0) s.hub.alloc n = g)))[(o - 0x100) / 16]? with
    | some n => .reg (Reg.PMON_HUB_SEL n + o % 16)
    | none => .silent
  else if mine ∧ ((0x500 ≤ o ∧ o < 0x600) ∨ o = 0x40) then .reg (0xA00000 + o)
  else if mine ∧ 0x600 ≤ o ∧ o < 0x720 then .reg (s.pmonTile o)
  else if 0x900 + 32 * g ≤ o ∧ o < 0x918 + 32 * g then .reg (0xA00000 + o)
  else if o = 4 ∧ !write then .reg 0xA00004
  else .silent

/-- What a function presents on PCIe (R452, R454, R570): its device ID beside the vendor ID and the class code, and the bytes of its BARs; `sriov` and
`msix` say whether it has those capabilities (R451, R569). -/
structure PciFunction where
  vendor : BitVec 16
  device : BitVec 16
  classCode : BitVec 24
  bar0 : Nat
  bar2 : Nat
  sriov : Bool
  msix : Bool
deriving DecidableEq, Repr

/-- What every request and the link of the module support (R451): the rates in GT/s as PCIe generations, the widths supported, the payload and read-request
sizes in bytes, and the features; Relaxed Ordering and ID-Based Ordering are set on no request that the module sends. -/
structure PciFeatures where
  generations : List Nat
  widths : List Nat
  payload : List Nat
  readRequest : Nat
  tenBitTags : Bool
  aer : Bool
  ecrc : Bool
  intx : Bool
  msi : Bool
  relaxedOrdering : Bool
  idOrdering : Bool
deriving DecidableEq, Repr

def pciFeatures : PciFeatures :=
  { generations := [1, 2, 3, 4, 5], widths := [16, 8], payload := [128, 256, 512], readRequest := 4096, tenBitTags := true, aer := true, ecrc := true
    intx := false, msi := false, relaxedOrdering := false, idOrdering := false }

/-- Function f, where it exists: in minimal recovery mode one alone, else the physical function and as many virtual functions as NumVFs says. -/
def State.pciFunction (s : State) (f : Nat) : Option PciFunction :=
  let of := fun (device : BitVec 16) (bar0 bar2 : Nat) (sriov msix : Bool) =>
    some { vendor := Config.vendorId, device := device, classCode := 0x120000, bar0 := bar0, bar2 := bar2, sriov := sriov, msix := msix : PciFunction }
  if s.rstState = stRecovery then (if f = 0 then of 0x0602 0x20000 0 false false else none)
  else if f = 0 then of 0x0600 0x1000000 0x4000000 true true
  else if f ≤ s.host.numVfs then of 0x0601 0x1000000 0x800000 false true
  else none

/-- BAR0 of a function (R455): in minimal recovery mode the one function's 128 KiB (R569). A virtual function that does not exist (R452) has none: nothing is read there and nothing written. -/
def State.bar0 (s : State) (f off : Nat) (write : Bool) : RegPlace :=
  if s.rstState = stRecovery then (if f = 0 ∧ off < 0x20000 then .recovery off else .silent)
  else if s.host.numVfs < f then .silent
  else if 0xD00000 ≤ off ∧ off < 0xD01000 then s.plainPlace (0x101000 + f * 0x1000 + (off - 0xD00000))
  else if 0xF00000 ≤ off ∧ off < 0xF00000 + (if f = 0 then 256 else 128) then .table f ((off - 0xF00000) / 4)
  else if 0xF80000 ≤ off ∧ off < 0xF80008 then .pendingBits f ((off - 0xF80000) / 4)
  else if f = 0 then
    if off < 0xD00000 then s.plainPlace off
    else if 0xE00000 ≤ off ∧ off < 0xF00000 then
      (let n := min (s.fld Fl.HOSTIF_TILE_WIN_FIRST) 176 / 16 * 16 + (off - 0xE00000) / 0x10000
       if n < 180 then .reg (tileBlock n + off % 0x10000) else .none)
    else .none
  else if 0xA00000 ≤ off ∧ off < 0xB00000 then s.pmonView f (off - 0xA00000) write
  else .none

/-- Where a master's offset leads: a function reaches registers through its BAR0 alone. -/
def State.place (s : State) (master off : Nat) (write : Bool) : RegPlace :=
  if 0xD0 ≤ master ∧ master ≤ 0xD8 then s.bar0 (master - 0xD0) off write else s.plainPlace off

/-! Reads. -/

/-- The number of a register in an array of n of them. -/
def arrIdx (off base stride n : Nat) : Option Nat :=
  if base ≤ off ∧ (off - base) % stride = 0 ∧ (off - base) / stride < n then some ((off - base) / stride) else none

/-- The paths of a flow that are usable, as bits (R448). -/
def State.usableBits (s : State) (f : Nat) : Nat :=
  (((s.flow f).paths.zipIdx.filter (fun x => s.pathUsable x.1 false)).map (fun x => 2 ^ x.2)).sum

/-- The committed step of a mirror entry (R340). -/
def State.mirrorStep (s : State) (m : Nat) : Nat :=
  match s.upd.mirrors[m]? with
  | some e => e.committed.getD 0xFFFFFFFF
  | none => 0

/-- The seconds since a port's last partner LLDPDU, whether or not the partner is still known (R410). -/
def State.partnerAge (s : State) (n : Nat) : Nat :=
  match (s.port n).lldpAt with
  | some t => min ((s.time - t) / 1000000000) 0xFFFF
  | none => 0xFFFF

/-- The value that a register has: most as it stands, some computed from the state (R20, R340, R410, R448, R478, R546, R588, R632). -/
def State.regView (s : State) (off : Nat) : Nat :=
  if off = Reg.CLKG_TIME_LO then s.time % 2 ^ 32
  else if off = Reg.CLKG_TIME_HI then s.time / 2 ^ 32 % 2 ^ 32
  else if off = Reg.NRT_FLOW_STATE then
    (let f := s.fld Fl.NRT_FLOW_SEL_FLOW
     (s.flow f).state % 4 + (s.flow f).epoch % 256 * 2 ^ 8 + s.usableBits f % 256 * 2 ^ 16)
  else if off = Reg.RAS_STATUS then (s.reg off).toNat + (if s.ringWaits then 2 ^ Fl.RAS_STATUS_RING_FULL.lo else 0)
  else if off = Reg.UPDT_GROUP_STEP then ((s.group (s.fld Fl.UPDT_GROUP_CTL_GROUP)).step) % 2 ^ 32
  else if off = Reg.UPDT_MIRROR_STEP then (s.mirrorStep (s.fld Fl.UPDT_GROUP_CTL_GROUP)) % 2 ^ 32
  else
    match arrIdx off (Reg.FN_JOB 0) 0x1000 9, arrIdx off (Reg.MAC_LLDP 0) 0x10000 9, arrIdx off (Reg.DLY_CFG 0) 32 9 with
    | some _, _, _ => s.jobState + ((s.job.map (·.owner)).getD 0) * 4
    | _, some n, _ => (s.reg off).toNat % 2 ^ 16 + s.partnerAge n * 2 ^ 16
    | _, _, some f => (s.reg off).toNat + slotUnits (s.fld (Fl.DLY_CFG_MASK f)) * 2 ^ 16
    | _, _, _ => (s.reg off).toNat

/-- A read of a register by a master (R14): of LO it latches HI for the master, of HI it gives what the master has latched. An unassigned offset reads 0
and raises EV_UNMAPPED_ACCESS (R4). -/
def regLoad (master off : Nat) : M Nat := do
  let v ← look (·.regView off)
  match findReg off with
  | none =>
    raise Ev.unmappedAccess (masterSrc master) off 0
    pure 0
  | some h =>
    match h.spec.kind with
    | .plain => pure v
    | .lo =>
      let hi ← look (·.regView (off + 4))
      act (.latch (masterKey master (off + 4)) (some (BitVec.ofNat 32 hi)))
      pure v
    | .hi =>
      let held ← look (fun s => Store.get (fun _ => none) s.latches (masterKey master off))
      pure ((held.map (fun w => w.toNat)).getD v)

/-- A read by a master at an offset. -/
def csrRead (master off : Nat) : M Nat := do
  let p ← look (fun s => s.place master off false)
  match p with
  | .reg o => regLoad master o
  | .table f w => look (fun s => (Store.get msixReset s.host.msix (1024 * f + w)).toNat)
  | .pendingBits f w =>
    look (fun s => if w = 0 then (((List.range 16).filter (fun v => s.host.msixPend.contains (f, v))).map (fun v => 2 ^ v)).sum else 0)
  | .recovery o => look (·.recoveryView o)
  | .silent => pure 0
  | .none =>
    raise Ev.unmappedAccess (masterSrc master) off 0
    pure 0

/-! Writes. -/

/-- A write of a link's CFG: RELEARN by keeper firmware clears the BAD record of every module of the link and retrains those that are ACTIVE one at a
time (R506). -/
def linkCfgWrite (master l value : Nat) : M Unit := do
  regWrite master (Reg.CRAXIS_LINK_CFG l) value
  if bitOf value 24 ∧ master = mKeeper then
    setFld (Fl.CRAXIS_LINK_CFG_RELEARN l) 0
    for h in cxMods l do
      setFld (Fl.CRAXIS_MOD_STATUS_BAD h) 0
      modCx h (fun x => { x with badSpares := 0 })
    let hs ← look (fun s => (cxMods l).filter (fun h => decide (s.cxState h = cxActive) || decide (s.cxState h = cxRetrain)))
    act (.cx (fun c => { c with relearn := c.relearn.filter (fun h => decide (cxLink h ≠ l)) ++ hs }))
    relearnNext l

/-- A write of a tile's register. -/
def tileStore (master n off value : Nat) : M Unit :=
  if off = Reg.TILE_SEQ_CTRL n then tileCtrlWrite master n value
  else if off = Reg.TILE_SMP_CTRL n then byMaster master off (do
    let was ← getFld (Fl.TILE_SMP_CTRL_EN n)
    regWrite master off value
    if was = 0 then modTile n (fun t => { t with sampleCount := 0 }))
  else
    match arrIdx off (Reg.TILE_SEQ_EC n 0) 4 8 with
    | some i => tileEcWrite master n i value
    | none => regWrite master off value

/-- A write of FILT of a hub counter: the privilege mask of one allotted to a guest is forced (R626). -/
def hubFiltWrite (master n value : Nat) : M Unit := do
  regWrite master (Reg.PMON_HUB_FILT n) value
  let g ← look (fun s => Store.get (fun _ => 0) s.hub.alloc n)
  if g ≠ 0 then setFld (Fl.PMON_HUB_FILT_PRIV n) (2 ^ (2 + g))

/-- A write of a register below the host interface's. -/
def coreStore (master off value : Nat) : M Unit :=
  if off = Reg.IDENT_SURVEY then do
    let l ← look (fun s => (List.range 5).map (fun c => decide (s.fld (Fl.IDENT_CAGE_PRESENT c) = 1)))
    surveyWrite master value l
  else if off = Reg.RSTC_CTRL then rstcCtrlWrite master value
  else if off = Reg.RSTC_BLOCK then rstcBlockWrite master value
  else if off = Reg.RSTC_STAGE_WDOG then stageWdogWrite master value
  else if off = Reg.PWRM_CTRL then pwrmCtrlWrite master value
  else if off = Reg.PWRM_FRAC then pwrmFracWrite master value
  else if off = Reg.PWRM_CAP then do
    regWrite master off value
    capSync
    budgetSync
  else if off = Reg.CLKG_STEP then clkgStepWrite master value
  else if off = Reg.CLKG_MATCH then do
    regWrite master off value
    matchSync
  else regWrite master off value

/-- A write of a function page's register. -/
def fnStore (master f o off value : Nat) : M Unit :=
  if o = 0 then fnCtrlWrite master f value
  else if o = 0x10C then evrHeadWrite master f value
  else
    match arrIdx o 0x94 32 4, arrIdx o 0x98 32 4 with
    | some q, _ => sqDbWrite master f q value
    | _, some q => cqDbWrite master f q value
    | _, _ => regWrite master off value

/-- A write of a register of the hub's engines. -/
def engineStore (master off value : Nat) : M Unit :=
  if off = Reg.NRT_CTRL then nrtCtrlWrite master value
  else if off = Reg.NRT_FLOW_SEL then flowSelWrite master value
  else if off = Reg.KEYT_CMD then keytCmdWrite master value
  else if off = Reg.REEL_CTRL then reelCtrlWrite master value
  else if off = Reg.COLL_CTRL then collCtrlWrite master value
  else if off = Reg.UPDT_CTRL then updtCtrlWrite master value
  else if off = Reg.UPDT_GROUP_CTL then groupCtlWrite master value
  else if off = Reg.PMON_BW_CTRL then bwCtrlWrite master value
  else if off = Reg.RAS_SWAP then rasSwapWrite master value
  else if 0xC00000 ≤ off ∧ off < 0xD00000 then do
    regWrite master off value
    fmthSync
  else
    match arrIdx off (Reg.MAC_CTRL 0) 0x10000 9, arrIdx off (Reg.CRAXIS_LINK_CFG 0) 4 6, arrIdx off (Reg.PMON_HUB_FILT 0) 16 64,
      arrIdx off (Reg.DLY_CTRL 0) 32 9 with
    | some n, _, _, _ => macCtrlWrite master n value
    | _, some l, _, _ => linkCfgWrite master l value
    | _, _, some n, _ => hubFiltWrite master n value
    | _, _, _, some f => dlyCtrlWrite master f value
    | _, _, _, _ => regWrite master off value

/-- A write of a register. -/
def regStore (master off value : Nat) : M Unit :=
  if 0x10000000 ≤ off then tileStore master ((off - 0x10000000) / 0x10000) off value
  else if off < 0x101000 then coreStore master off value
  else if off < 0x10A000 then fnStore master ((off - 0x101000) / 0x1000) (off % 0x1000) off value
  else engineStore master off value

/-- Is an address of storage mapped for a master? The window of a physical tile that is not in service is for keeper firmware alone (R4, R5). -/
def State.memMapped (s : State) (master addr : Nat) : Bool :=
  match physAt addr with
  | some p => decide (master = mKeeper) || (s.logicalOf p).isSome
  | none => inT1 addr || inT2 addr

/-- A write by a master at an offset. -/
def csrWrite (master off value : Nat) : M Unit := do
  let p ← look (fun s => s.place master off true)
  match p with
  | .reg o => regStore master o value
  | .table f w => msixWrite f w value
  | .recovery o => recoveryStore o value
  | .pendingBits _ _ | .silent => pure ()
  | .none => raise Ev.unmappedAccess (masterSrc master) off 0

end Sys2Proof.Machine
end

