-- ==== Sys2Proof/Machine/CraxisCmds.lean ====
section
/-! DEFINITION. The commands of the Craxis links and the hub firewall (R479 to R504): flits, messages either way, training and retraining, the rebuild of the
interleave, resets of far dies. -/

namespace Sys2Proof.Machine

/-! Flits and replay (R485). -/

/-- REPLAY is sent. -/
def replaySend (h : Nat) : M Unit := do
  let x ← look (·.cxm h)
  bump (Reg.CRAXIS_COUNT_LO (cxLink h) 2) 1
  pmuHub 0x12 1 none none none (some (cxLink h))
  act (.out (cxReplay h x.rxNext))

/-- Numbered flits are received in their order: the expected number moves on, and an ACK goes out with every 32nd. -/
def rxFlits (h k : Nat) : M Unit := do
  let x ← look (·.cxm h)
  let n := x.rxSince + k
  modCx h (fun x => { x with rxNext := (x.rxNext + k) % 1024, rxSince := n % 32 })
  for i in List.range (n / 32) do act (.out (cxAck h ((x.rxNext + 32 * (i + 1) - x.rxSince) % 1024)))

/-- FLIT_CRC_FAIL: a flit whose CRC does not hold arrives behind numbered flits of the message in work. It is discarded, with every later one until the
expected flit arrives, and REPLAY is sent. -/
def execFlitCrcFail (flit : BadFlit) : Meaning := M.next (do
  let mod := flit.mod
  let st ← look (·.cxState mod)
  if st = cxActive ∧ !flitOk flit.bytes then
    rxFlits mod flit.good
    bump (Reg.CRAXIS_COUNT_LO (cxLink mod) 1) 1
    modCx mod (fun x => { x with waiting := true, rxPart := x.rxPart + flit.good })
    replaySend mod)

/-- REPLAY_REPEAT: a receiver that still waits asks again. -/
def execReplayRepeat (mod : Nat) : Meaning := M.next (do
  let st ← look (·.cxState mod)
  let x ← look (·.cxm mod)
  if st = cxActive ∧ x.waiting then replaySend mod)

/-- CRAXIS_ACK_SEND: within 16 ns of the last numbered flit, an ACK with the next expected number. -/
def execCraxisAckSend (mod : Nat) : Meaning := M.next (do
  let st ← look (·.cxState mod)
  let x ← look (·.cxm mod)
  if st = cxActive ∧ x.rxSince ≠ 0 then
    act (.out (cxAck mod x.rxNext))
    modCx mod (fun x => { x with rxSince := 0 }))

/-- The retry buffer after n flits of its front are acknowledged. -/
def ackFlits : List CxSent → Nat → List CxSent
  | [], _ => []
  | e :: l, n =>
    if e.flits ≤ n then ackFlits l (n - e.flits) else { e with first := (e.first + n) % 1024, flits := e.flits - n } :: l

/-- How many flits of the retry buffer a number lies beyond, where it lies within it. -/
def CxMod.beyond (x : CxMod) (seq : Nat) : Option Nat :=
  let total := (x.sent.map (·.flits)).sum
  let d := (seq + 1024 + total - x.next) % 1024
  if d ≤ total then some d else none

/-- LINK_ACK: the flits before SEQ leave the retry buffer, and messages held for its room may go. Once the flit last asked for again is acknowledged, its
replays are in a row no more. -/
def execLinkAck (mod seq : Nat) : Meaning := M.next (do
  let st ← look (·.cxState mod)
  let x ← look (·.cxm mod)
  match (if st = cxActive then x.beyond seq else none) with
  | some n =>
    let passed := (x.beyond x.replay.1).any (fun d => decide (d < n))
    modCx mod (fun x => { x with sent := ackFlits x.sent n, replay := if passed then (0, 0) else x.replay })
    cxRelease mod
  | none => pure ())

/-- The messages of a retry buffer are sent again. -/
def resend (h : Nat) (l : List CxSent) : M Unit := do
  for e in l do act (.out (cxAgain h e))
  cxFlitsOut h (l.map (·.flits)).sum

/-- LINK_REPLAY: what lies from SEQ on is sent again; asked for REPLAY_LIMIT times in a row, the module retrains. -/
def execLinkReplay (mod seq : Nat) : Meaning := M.next (do
  let st ← look (·.cxState mod)
  let x ← look (·.cxm mod)
  let limit ← getFld (Fl.CRAXIS_LINK_CFG_REPLAY_LIMIT (cxLink mod))
  match x.beyond seq with
  | some n =>
    if st = cxActive then
      let k := if x.replay.1 = seq then x.replay.2 + 1 else 1
      if max limit 1 ≤ k then cxStartRetrain mod false
      else
        modCx mod (fun x => { x with replay := (seq, k) })
        resend mod (ackFlits x.sent n)
  | none => pure ())

/-- CREDIT_RETURN: credits for a channel, and messages held for want of them may go (R491). -/
def execCreditReturn (mod vc flits : Nat) : Meaning := M.next (do
  modCx mod (fun x => { x with credits := modAt x.credits vc (· + flits) })
  let st ← look (·.cxState mod)
  if st = cxActive then cxRelease mod)

/-! The firewall's judgement (R502). -/

/-- Is this the response to the request? Its tag is outstanding once it has gone out. -/
def CxReq.answers (r : CxReq) (l op tag : Nat) : Bool :=
  r.sent && decide (r.link = l) && decide (r.tag = tag) &&
    (if op = opRdData then decide (r.op = opRd) || decide (r.op = opRdLine) else if op = opCsrData then decide (r.op = opCsrRd) else decide (r.op = opFlush))

/-- The request that a response answers. -/
def State.reqFor (s : State) (l op tag : Nat) : Option CxReq := s.cx.reqs.find? (fun r => r.answers l op tag)

/-- Does an ERR's address lie in an enabled window of the stack? -/
def State.inWindow (s : State) (st addr : Nat) : Bool :=
  let q := addr / 192
  (decide (s.fld (Fl.FWALL_WIN_BASE0_EN st) = 1) && decide (s.fld (Fl.FWALL_WIN_BASE0_BASE st) ≤ q) && decide (q ≤ s.fld (Fl.FWALL_WIN_LIMIT0_LIMIT st))) ||
    (List.range 3).any (fun w =>
      decide (s.fld (Fl.FWALL_WIN_BASE_EN st w) = 1) && decide (s.fld (Fl.FWALL_WIN_BASE_BASE st w) ≤ q) && decide (q ≤ s.fld (Fl.FWALL_WIN_LIMIT_LIMIT st w)))

/-- The MGT messages of a stack in the last microsecond, this one with them. -/
def countMgt (st : Nat) : M Nat := do
  let now ← look (·.time)
  act (.cx (fun c => { c with mgt := (st, now) :: c.mgt.filter (fun e => decide (e.1 ≠ st ∨ now - e.2 < 1000)) }))
  look (fun s => (s.cx.mgt.filter (fun e => decide (e.1 = st))).length)

/-- A response whose tag is not outstanding is dropped and counted (R493, R502). -/
def dupRsp (l : Nat) : M Unit := bump (Reg.CRAXIS_COUNT_LO l 4) 1

/-- The judgement of a message from a stack, class by class: does it pass? `addr` is the address of an ERR. -/
def judge (st op : Nat) (m : CxMsg) (addr : Option Nat) : M Bool := do
  let l := st + 1
  let ops ← getFld (Fl.FWALL_OPS_OPS st)
  let r ← look (·.reqFor l op m.tag)
  let recent ← look (fun s => decide (s.fld (Fl.CRAXIS_LINK_STATUS_DRAINING l) = 1) ||
    (s.cx.rebuilt.find? (fun e => decide (e.1 = l))).any (fun e => decide (s.time - e.2 < 10000)))
  let inside ← look (fun s => addr.all (s.inWindow st))
  let rate ← getFld (Fl.FWALL_LIMIT_RATE st)
  if m.code.isSome ∨ !bitOf ops op ∨ m.vc ≠ cxVc op then
    violation st 1 none
    pure false
  else if cxVc op = 1 ∧ !r.any (fun r => decide (r.want = m.data.length)) then
    if recent then dupRsp l else violation st 2 r
    pure false
  else if !inside then
    violation st 3 none
    pure false
  else if cxVc op = 3 then
    let n ← countMgt st
    if rate < n then
      violation st 4 none
      pure false
    else pure true
  else pure true

/-! Messages that arrive (R485 to R490). -/

/-- Does a message bring the flits that a module expects: its first, or those after the ones received of it (R485)? -/
def CxMod.expects (x : CxMod) (m : CxMsg) : Bool := decide ((m.num + x.rxPart) % 1024 = x.rxNext ∧ x.rxPart < cxFlits m)

/-- A message arrives on a module: it is performed if it brings the expected flits, if its opcode is no reserved one, and, from a stack, if the firewall passes
it. Its buffer is given back, in NULL flits. -/
def arrive (h op : Nat) (m : CxMsg) (addr : Option Nat) (k : M Unit) : M Unit := do
  let l := cxLink h
  let st ← look (·.cxState h)
  let x ← look (·.cxm h)
  let n := cxFlits m
  if st = cxActive ∧ x.expects m then
    rxFlits h (n - x.rxPart)
    modCx h (fun x => { x with rxPart := 0, waiting := false })
    bwCount (20 + 2 * l) (32 * n)
    for o in cxCredits h (cxVc op) n do act (.out o)
    let ok ← (if 1 ≤ l ∧ l ≤ 4 then judge (l - 1) op m addr else pure true)
    if m.code.isSome then bump (Reg.CRAXIS_COUNT_LO l 5) 1
    else if ok then k
    flushRelease l

/-- A message either way: sent by the hub on a link, or arriving on a module. -/
def either (out : Bool) (via op : Nat) (m : CxMsg) (k : M Unit) : M Unit :=
  if out then cxOut via op m else arrive via op m none k

/-- A transfer of the hub on a link, message by message (R488). -/
def transferOut (l op : Nat) (m : CxMsg) : M Unit := do
  for p in cxPieces l m do cxOut l op p

/-- The privilege bit and the class of a request that arrives, by its master (R607, R613). -/
def State.cxPriv (s : State) (m : Nat) : Nat :=
  if m = mKeeper then 0 else if 0xC5 ≤ m ∧ m ≤ 0xC8 then 1 else if 0xD0 ≤ m ∧ m ≤ 0xD8 then 2 + (m - 0xD0) else s.ownerBit
def cxClass (m : Nat) : Nat :=
  if m ≤ 0xB3 then 2 else if m = mReel then 0 else if m = mNrt then 1 else if m = mColl then 3 else if m = mUpd then 4
  else if m = mScrub then 5 else if 0xD0 ≤ m ∧ m ≤ 0xD8 then 6 else 7

/-- Does a master reach the n lines from an address (R4, R5)? -/
def State.reaches (s : State) (master a n : Nat) : Bool := (List.range n).all (fun i => s.memMapped master (a + 96 * i))

/-- A read that arrives: n bytes, poisoned where any of its lines is (R582) or lies in an isolated stack (R504). Unmapped addresses read 0 (R4). -/
def cxServeRead (h : Nat) (m : CxMsg) (n : Nat) : M Unit := do
  let ok ← look (·.reaches m.master m.addr (n / 96))
  let priv ← look (·.cxPriv m.master)
  if ok then
    let b ← memBytes m.addr n
    let p ← look (fun s => (List.range (n / 96)).any (fun i => s.poisoned (m.addr + 96 * i)))
    traffic false m.addr (n / 96) priv m.master (cxClass m.master)
    answer h opRdData m (n / 192 - 1) p b
  else
    raise Ev.unmappedAccess (masterSrc m.master) m.addr 0
    answer h opRdData m (n / 192 - 1) false (List.replicate n 0)

/-- A write that arrives: its bytes, and the poison it brings. What goes to an isolated stack is dropped, and counted on that stack's link (R504). -/
def cxServeWrite (m : CxMsg) : M Unit := do
  let n := m.data.length / 96
  let ok ← look (·.reaches m.master m.addr n)
  let priv ← look (·.cxPriv m.master)
  if ok then
    hubWrite m.addr m.data
    if m.poison then
      let kept ← look (fun s => (List.range n).filter (fun i => !s.isolatedLine (m.addr + 96 * i)))
      for i in kept do poisonLine (m.addr + 96 * i)
    traffic true m.addr n priv m.master (cxClass m.master)
  else raise Ev.unmappedAccess (masterSrc m.master) m.addr 0

/-- A response that arrives completes its request, whose place in the buffer a held request may take (R491), or is dropped. -/
def cxComplete (h op : Nat) (m : CxMsg) : M Unit := do
  let r ← look (·.reqFor (cxLink h) op m.tag)
  match r with
  | some r =>
    act (.cx (fun c => { c with reqs := c.reqs.filter (fun x => decide (x ≠ r)) }))
    act (.out (.craxisDone r.master r.tag m.poison m.fail m.data))
    cxRelease r.mod
  | none => dupRsp (cxLink h)

/-- RD and RD_LINE. A transfer of the hub is as many RD messages as it has aligned groups (R488). -/
def execRd (out : Bool) (via : Nat) (msg : CxMsg) : Meaning := M.next (
  if out then transferOut via opRd msg else arrive via opRd msg none (cxServeRead via msg (192 * (msg.len + 1))))
def execRdLine (out : Bool) (via : Nat) (msg : CxMsg) : Meaning := M.next (either out via opRdLine msg (cxServeRead via msg 96))

/-- FLUSH: every earlier posted write that has arrived has been performed. It waits only for the modules of the link that still wait for flits sent before
(R485, R490). -/
def execFlush (out : Bool) (via : Nat) (msg : CxMsg) : Meaning := M.next (either out via opFlush msg (act (.cx (fun c => { c with flushes := c.flushes ++ [(via, msg)] }))))

/-- CSR_RD and CSR_WR: a register access at the receiver. -/
def execCsrRd (out : Bool) (via : Nat) (msg : CxMsg) : Meaning := M.next (either out via opCsrRd msg (do
  let v ← csrRead msg.master msg.addr
  answer via opCsrData msg 0 false (leBytes 4 v)))
def execCsrWr (out : Bool) (via : Nat) (msg : CxMsg) : Meaning := M.next (either out via opCsrWr msg (csrWrite msg.master msg.addr (leAt msg.data 0 4)))

/-- WR and WR_LINE. A transfer of the hub is as many WR messages as it has aligned groups (R488). -/
def execWr (out : Bool) (via : Nat) (msg : CxMsg) : Meaning := M.next (
  if out then transferOut via opWr msg else arrive via opWr msg none (cxServeWrite msg))
def execWrLine (out : Bool) (via : Nat) (msg : CxMsg) : Meaning := M.next (either out via opWrLine msg (cxServeWrite msg))

/-- RD_DATA, CSR_DATA and CMPL. -/
def execRdData (out : Bool) (via : Nat) (msg : CxMsg) : Meaning := M.next (either out via opRdData msg (cxComplete via opRdData msg))
def execCsrData (out : Bool) (via : Nat) (msg : CxMsg) : Meaning := M.next (either out via opCsrData msg (cxComplete via opCsrData msg))
def execCmpl (out : Bool) (via : Nat) (msg : CxMsg) : Meaning := M.next (either out via opCmpl msg (cxComplete via opCmpl msg))

/-- The byte of T1 at a stack's own address (R269). -/
def stackAddr (st a : Nat) : Nat := baseT1 + (4 * (a / 192) + st) * 192 + a % 192

/-- ERR: the far die's error is handled as one found here (R579, R580); a stack names it by its own address. -/
def execErr (mod : Nat) (msg : CxMsg) (addr : Nat) (ue : Bool) : Meaning := M.next (arrive mod opErr msg (some addr) (do
  let l := cxLink mod
  tierError (if 1 ≤ l ∧ l ≤ 4 then stackAddr (l - 1) addr else addr) (if ue then 2 else 1) false))

/-- PWR: a far die's reading (R537); a stack's or LPDDR5X package's trip is known by its report (R534). -/
def powerReport (h : Nat) (m : CxMsg) : M Unit := do
  let l := cxLink h
  let kind := leAt m.data 0 1
  let i := leAt m.data 1 1
  let at' := if l = 0 then (0, i) else if l = 5 then Config.updSensor i else (3, l - 1)
  let raw := leAt m.data 2 2
  let t : Int := if raw < 2 ^ 15 then raw else (raw : Int) - 2 ^ 16
  if kind = 1 ∨ kind = 3 then
    let r : PwrReport := ⟨l, i, leAt m.data 4 4, leAt m.data 8 2, leAt m.data 10 1, leAt m.data 12 4⟩
    act (.pwr (fun p => { p with reports := r :: p.reports.filter (fun x => decide (¬(x.link = l ∧ x.sensor = i))) }))
    readTemps [⟨at'.1, at'.2, t⟩]
    if 3 ≤ at'.1 ∧ at'.1 ≤ 4 ∧ (sensorTrip at'.1).any (fun x => decide (x ≤ t)) then whenPowered tripAssert

/-- A LIMIT for a far die (R537): the share in force of its class, full for the compute die; for a tile group of that die its point; and the device time. -/
def State.limitData (s : State) (l i : Nat) : List Byte :=
  let share := if l = 0 then 256 else s.pwr.shares.getD (if l = 5 then 1 else 0) 256
  [2] ++ leBytes 1 i ++ leBytes 2 0 ++ leBytes 4 0 ++ leBytes 2 share ++ leBytes 1 (if l = 0 then s.toward i else 0) ++ [0] ++ leBytes 4 s.time

/-- PWR: the hub's LIMIT for the SENSOR that the message names, or a report that arrives. -/
def execPwr (out : Bool) (via : Nat) (msg : CxMsg) : Meaning := M.next (do
  let data ← look (·.limitData via (leAt msg.data 1 1))
  either out via opPwr (if out then { msg with data := data } else msg) (powerReport via msg))

/-- RESET_NOTE: READY says that a die's own initialisation is complete (R552). -/
def execResetNote (out : Bool) (via : Nat) (msg : CxMsg) : Meaning := M.next (either out via opResetNote msg (do
  if leAt msg.data 0 1 = 2 then
    let d := dieOf via
    modRst (fun r => { r with ready := if r.ready.contains d then r.ready else r.ready ++ [d] })))

/-- FIREWALL_TIMEOUT: a request to a stack still unanswered TIMEOUT after it was sent. -/
def execFirewallTimeout (stack tag : Nat) : Meaning := M.next (do
  let r ← look (fun s => s.cx.reqs.find? (fun r => decide (r.link = stack + 1 ∧ r.tag = tag) && r.sent))
  if r.isSome then violation stack 5 r)

/-- SIDEBAND_MESSAGE: from a stack, anything but link training and link management is a violation; an isolated stack's sideband is ignored (R504). In the other
direction keeper firmware, or the row-repair engine, has a register access go to a stack (R502). -/
def execSidebandMessage (stack : Nat) (msg : SideMsg) : Meaning := M.next (do
  let iso ← getFld (Fl.FWALL_STATUS_ISOLATED stack)
  if iso = 0 then
    match msg with
    | .access a => if a.master = mKeeper ∨ a.master = mScrub then act (.out (.sideband stack a))
    | .link => pure ()
    | .other => violation stack 0 none)

/-! Training (R494 to R500). -/

/-- The revision a die must have at least. -/
def State.minRev (s : State) (l : Nat) : Nat :=
  if l = 0 then s.fld Fl.OPTS_MIN_REV_C else if l = 5 then s.fld Fl.OPTS_MIN_REV_U else s.fld Fl.OPTS_MIN_REV_STACK

/-- CAP without the fields that may differ from module to module. -/
def capKey (b : List Byte) : List Byte := (b.take 12) ++ (b.drop 15).take 1

/-- Does a far die's CAP pass R500? -/
def State.capOk (s : State) (h : Nat) (b : List Byte) : Bool :=
  let l := cxLink h
  let at' := fun (i : Nat) => leAt b i 1
  decide (at' 0 = if l = 0 then 1 else if l = 5 then 3 else 4) && decide (at' 2 = 1) && decide (s.minRev l ≤ at' 1) &&
    decide (8 ≤ at' 8) && decide (64 ≤ at' 9) && decide (64 ≤ at' 10) && decide (4 ≤ at' 11) &&
    ((s.cx.caps.find? (fun e => decide (e.1 = l))).all (fun e => decide (capKey e.2 = capKey b)))

/-- The plan in force on a module, as its status has it. -/
def State.planOf (s : State) (h : Nat) : LanePlan :=
  ⟨decide (s.fld (Fl.CRAXIS_MOD_STATUS_WIDTH h) = 1), decide (s.fld (Fl.CRAXIS_MOD_STATUS_HALF h) = 1), s.fld (Fl.CRAXIS_MOD_STATUS_SPARE0 h),
    s.fld (Fl.CRAXIS_MOD_STATUS_SPARE1 h)⟩

/-- The hub's buffer of a VC in flits, no fewer than R491 has, and its own CAP: TW6H, Craxis 1.0, its features (R499). Its revision and its buffers are its
own. -/
def hubBuffer (vc : Nat) : Nat :=
  let lo := [8, 64, 64, 4].getD vc 0
  lo + Config.credits vc % (256 - lo)
def State.hubCap (s : State) (h hubFail : Nat) : List Byte :=
  [0x02] ++ leBytes 1 Config.dieRev ++ [1, 0] ++ leBytes 2 cxFeatures ++ leBytes 2 0 ++ (List.range 4).flatMap (fun vc => leBytes 1 (hubBuffer vc)) ++
    leBytes 2 hubFail ++ leBytes 1 (s.planOf h).byte ++ [0]

/-- A disagreement with the plan: the module retrains once with it, and the second takes it OUT (R496). -/
def planMismatch (h : Nat) : M Unit := do
  let x ← look (·.cxm h)
  let st ← look (·.cxState h)
  if x.again then cxGoOut h Ev.craxisWidthMismatch
  else
    modCx h (fun x => { x with again := true })
    if st = cxActive then cxStartRetrain h false
    else
      bump (Reg.CRAXIS_COUNT_LO (cxLink h) 3) 1
      raise Ev.craxisRetrain (srcLink h) 0 0

/-- A far die's CAP passes the firewall of its stack, if it is one (R502). -/
def capPasses (h : Nat) (cap : List Byte) : M Bool := do
  let l := cxLink h
  if 1 ≤ l ∧ l ≤ 4 then judge (l - 1) opCap { cxMsg 0 0 0 false false cap with vc := 3 } none else pure true

/-- MODULE_TRAINED: the lane test's results and the far die's CAP; the module becomes ACTIVE, or goes OUT, or trains again. The plan uses the features that
both ends set, as the CAP tells (R500). A CAP that the firewall discards brings no module into service. -/
def execModuleTrained (mod hubFail farFail : Nat) (cap : List Byte) : Meaning := M.next (do
  let st ← look (·.cxState mod)
  if st = cxTraining then
    let l := cxLink mod
    let p ← makePlan mod (leAt cap 4 2 &&& cxFeatures) hubFail farFail
    match p with
    | none => cxGoOut mod Ev.craxisModuleDown
    | some p =>
      let passes ← capPasses mod cap
      let ok ← look (·.capOk mod cap)
      let first ← look (fun s => (cxMods l).all (fun h => decide (s.cxState h ≠ cxActive) && decide (s.cxState h ≠ cxRetrain)))
      if !passes then pure ()
      else if !ok then cxGoOut mod Ev.craxisRevision
      else if leAt cap 14 1 ≠ p.byte then planMismatch mod
      else
        let own ← look (·.hubCap mod hubFail)
        act (.cx (fun c => { c with caps := if c.caps.any (fun e => decide (e.1 = l)) then c.caps else c.caps ++ [(l, cap)] }))
        modCx mod (fun x => { CxMod.empty with badSpares := x.badSpares, credits := (List.range 4).map (fun i => leAt cap (8 + i) 1), room := hubBuffer 1 })
        setFld (Fl.CRAXIS_MOD_STATUS_STATE mod) cxActive
        act (.out (cxFrame mod opCap (cxMsg 0 0 mKeeper false false own)))
        if first then measure 4 (cap.take 8)
        cxRebuild l [])

/-- CAP: the hub's, or one that arrives on a module in service and is held against R500 and the plan. -/
def execCap (out : Bool) (via : Nat) (msg : CxMsg) : Meaning := M.next (either out via opCap msg (do
  let ok ← look (·.capOk via msg.data)
  let p ← look (·.planOf via)
  if !ok then cxGoOut via Ev.craxisRevision
  else if leAt msg.data 14 1 ≠ p.byte then planMismatch via
  else modCx via (fun x => { x with again := false })))

/-- TRAINING_TIMEOUT: not ACTIVE within 1 ms: once more, and then OUT. -/
def execTrainingTimeout (mod : Nat) : Meaning := M.next (do
  let st ← look (·.cxState mod)
  let x ← look (·.cxm mod)
  if st = cxTraining then
    if x.tries = 0 then modCx mod (fun x => { x with tries := 1 })
    else cxGoOut mod Ev.craxisModuleDown)

/-- LANE_FAULT: the PHY reports a lane fault. -/
def execLaneFault (mod : Nat) : Meaning := M.next (do
  let st ← look (·.cxState mod)
  if st = cxActive then cxStartRetrain mod false)

/-- RECALIBRATION: one module of a link at a time. -/
def execRecalibration (mod : Nat) : Meaning := M.next (do
  let st ← look (·.cxState mod)
  let ms ← getFld (Fl.CRAXIS_LINK_CFG_CAL_MS (cxLink mod))
  let busy ← look (fun s => (cxMods (cxLink mod)).any (fun h => decide (s.cxState h = cxRetrain)))
  if st = cxActive ∧ ms ≠ 0 ∧ !busy then cxStartRetrain mod true)

/-- CRAXIS_RETRAIN_DONE: a new plan; the module replays from the last acknowledged flit, and a change of width or service rebuilds the table (R497). -/
def execCraxisRetrainDone (mod hubFail farFail : Nat) : Meaning := M.next (do
  let st ← look (·.cxState mod)
  if st = cxRetrain then
    let l := cxLink mod
    let x ← look (·.cxm mod)
    let was ← look (fun s => (s.fld (Fl.CRAXIS_MOD_STATUS_BAD mod), s.fld (Fl.CRAXIS_MOD_STATUS_WIDTH mod)))
    let features ← look (·.linkFeatures l)
    let p ← makePlan mod features hubFail farFail
    let now ← look (fun s => (s.fld (Fl.CRAXIS_MOD_STATUS_BAD mod), s.fld (Fl.CRAXIS_MOD_STATUS_WIDTH mod)))
    let spares ← look (fun s => (s.cxm mod).badSpares)
    let quiet := x.calibrating && decide (was.1 = now.1) && decide (x.badSpares = spares)
    raiseEvent (if quiet then { evOf Ev.craxisRetrain (srcLink mod) 0 0 with sev := 0 } else evOf Ev.craxisRetrain (srcLink mod) 0 0)
    match p with
    | none => cxGoOut mod Ev.craxisModuleDown
    | some _ =>
      setFld (Fl.CRAXIS_MOD_STATUS_STATE mod) cxActive
      modCx mod (fun x => { x with calibrating := false })
      resend mod x.sent
      if was.2 ≠ now.2 then cxRebuild l []
      cxRelease mod
    relearnNext l)

/-! The interleave and far dies (R493, R498). -/

/-- INTERLEAVE_REBUILD_DONE: the link resumes, and what waited goes first, in its order; then what its modules hold. -/
def execInterleaveRebuildDone (link : Nat) : Meaning := M.next (do
  let d ← getFld (Fl.CRAXIS_LINK_STATUS_DRAINING link)
  let now ← look (·.time)
  if d = 1 then
    setFld (Fl.CRAXIS_LINK_STATUS_DRAINING link) 0
    let ms ← look (fun s => (s.cx.resends ++ s.cx.pending).filter (fun e => decide (e.1 = link)))
    act (.cx (fun c => { c with
      resends := c.resends.filter (fun e => decide (e.1 ≠ link)), pending := c.pending.filter (fun e => decide (e.1 ≠ link))
      rebuilt := (link, now) :: c.rebuilt.filter (fun e => decide (e.1 ≠ link)) }))
    for e in ms do cxOn e.1 e.2.1 e.2.2
    for h in cxMods link do cxRelease h)

/-- FAR_DIE_RESET_ENTER: a far die or compute field is reset alone; the RESET_NOTE goes ahead of its wire (R498, R552). -/
def execFarDieResetEnter (die : Nat) : Meaning := M.next (do
  let held ← look (·.cx.inReset.contains die)
  if !held then
    resetNote die 0 0
    modRst (fun r => { r with ready := r.ready.filter (fun x => decide (x ≠ die)) })
    dieResetEnter die)
/-- FAR_DIE_RESET_RELEASE: the reset of a far die that the start has released before is over. A die that a FULL or POWER interval covers, or that the start has
not come to, stays in reset: DIE_RELEASE releases it in its order (R550, R554). -/
def execFarDieResetRelease (die : Nat) : Meaning := M.next (do
  let held ← look (fun s => s.cx.inReset.contains die && s.rst.released.contains die && !(s.rst.interval && decide (2 ≤ s.rst.widest)))
  if held then dieResetRelease die)

/-- RELEARN: a write of a link's CFG. -/
def execRelearn (master link value : Nat) : Meaning := M.next (linkCfgWrite master link value)

end Sys2Proof.Machine
end

