-- ==== Sys2Proof/Machine/DispatchCmds.lean ====
section
/-! DEFINITION. The dispatch unit's three operations, each a whole descriptor (R201 to R213, R221 to R225). -/

namespace Sys2Proof.Machine

/-- Does an earlier-issued reader still name a list that a BUILD of `nplace` placements will write (R211)? -/
def Tile.readsLists (t : Tile) (ord nplace : Nat) : Bool :=
  t.arrayQ.any (fun q => let d := ADesc.decode q.bytes; decide (q.ord < ord) && d.xlist && decide (d.list < nplace)) ||
    t.moveQ.any (fun m => decide (m.ord < ord) && decide (m.kind = .listOut ∨ m.kind = .listBack) && decide (m.list < nplace)) ||
    t.sendQ.any (fun m => decide (m.ord < ord) && decide (m.kind = .list) && decide (m.list < nplace))

/-- A dispatch descriptor at the head of the queue, of the operation named: rejected under R224, or run. A reserved operation code is rejected
by whichever command takes it up. BUSY is 1 while a BUILD waits for the readers of its lists (R211, R228); a list-driven send may have waited for it. -/
def withDispatch (n op : Nat) (k : QDesc → DDesc → TMem → M Unit) : M Unit := do
  let t ← getTile n
  match t.dispQ with
  | [] => pure ()
  | q :: rest =>
    let d := DDesc.decode q.bytes
    if d.op ≠ op ∧ d.op ≠ 3 then pure ()
    else if d.op = 0 && t.readsLists q.ord d.nplace then
      setFld (Fl.TILE_DSP_STATUS_BUSY n) 1
      bump (Reg.TILE_DSP_STALL_LO n) 1
    else
      let v ← tileMem n
      let skip ← look (·.skipTable n)
      modTile n (fun t => { t with dispQ := rest })
      if d.reject v skip then
        setBit (Fl.TILE_DSP_STATUS_REJECT n)
        failUnit n Ev.descriptorInvalid q.slate 0 q.pc q.line true
      else k q d v
      sampleDone n q.ord
      setFld (Fl.TILE_DSP_STATUS_BUSY n) 0
      pumpSends n

/-- BUILD: choices judged and assigned in rank-major order; lists, directory, gate planes and load vector written; the events of R202 (R201 to
R209). -/
def execBuild (tile : Nat) : Meaning := M.next (withDispatch tile 0 fun q d v => do
  match d.maskPoison v with
  | some l =>
    countPoison 1
    pmuTile tile 0x18 1 (some q.pc) q.slate false
    failUnit tile Ev.maskPoison q.slate l q.pc q.line false
  | none =>
    let b := d.build v
    let dir := d.buildDir v b
    writeAll .other tile q.slate (d.buildWrites v b)
    for e in dir.zipIdx do
      modTile tile (fun t => { t with dir := Store.set (fun _ => ListDir.none) t.dir e.2 e.1 })
    bump (Reg.TILE_DSP_ROUTED_LO tile) b.routed
    bump (Reg.TILE_DSP_DROPPED_LO tile) b.dropped
    bump (Reg.TILE_DSP_BADCHOICE_LO tile) b.bad
    bump (Reg.TILE_DSP_SKIPTOK_LO tile) b.skipTok
    pmuTile tile 0x0D b.routed (some q.pc) q.slate false
    pmuTile tile 0x0E b.dropped (some q.pc) q.slate false
    match b.firstBad with
    | some (t, j) =>
      setBit (Fl.TILE_DSP_STATUS_BADCHOICE tile)
      raise Ev.routeIndex (srcTile tile) (t + j * 2 ^ 24) q.slate
    | none => pure ()
    if d.dropEvent ∧ b.dropped ≠ 0 then
      setBit (Fl.TILE_DSP_STATUS_OVERFLOW tile)
      raise Ev.routeOverflow (srcTile tile) 0 q.slate)

/-- SEAL: the slots no source fills are zeroed; a fill count above its share fails it (R213). -/
def execSeal (tile : Nat) : Meaning := M.next (withDispatch tile 1 fun q d v => do
  if d.sealBad v then failUnit tile Ev.descriptorInvalid q.slate 0 q.pc q.line true
  else writeAll .other tile q.slate (d.sealWrites v))

/-- EXPAND: the skip record's BLOCKS map as a row or chain mask (R221). -/
def execExpand (tile : Nat) : Meaning := M.next (withDispatch tile 2 fun q d v => do
  let skip ← look (·.skipTable tile)
  writeAll .other tile q.slate (d.expandWrites v skip))

end Sys2Proof.Machine
end

