-- ==== Sys2Proof/Machine/RegCmds.lean ====
section
/-! DEFINITION. The commands of the register family (R4, R5, R8 to R14). -/

namespace Sys2Proof.Machine

/-- REGISTER_WRITE: a write of a whole aligned word by a master (R8, R11, R13). One that is not aligned is CSR_BAD_ACCESS. -/
def execRegisterWrite (master off value : Nat) : Meaning := M.next (if off % 4 = 0 then csrWrite master off value else pure ())

/-- CSR_BAD_ACCESS: a read that crosses a word, or an unaligned 32-bit one, gives 0; a narrow or unaligned write is ignored; both raise EV_CSR_ACCESS. A
narrow read within a word gives the addressed bytes (R10). -/
def execCsrBadAccess (master off size : Nat) (write : Bool) : Meaning := M.next (do
  let bad := if write then decide (size ≠ 4) || decide (off % 4 ≠ 0) else decide (4 < off % 4 + size)
  if bad then
    raise Ev.csrAccess (masterSrc master) (off % 2 ^ 32 + size % 2 ^ 8 * 2 ^ 32 + (if write then 2 ^ 40 else 0)) 0
    if !write then act (.out (.readData master off 0))
  else if !write then
    let v ← csrRead master (off / 4 * 4)
    act (.out (.readData master off (v / 2 ^ (8 * (off % 4)) % 2 ^ (8 * size)))))

/-- LO_READ_LATCH: a read of a whole aligned word by a master; one of NAME_LO latches NAME_HI for it (R14). -/
def execLoReadLatch (master off : Nat) : Meaning := M.next (do
  if off % 4 = 0 then
    let v ← csrRead master off
    act (.out (.readData master off v)))

/-- The end of the register block at an offset (R3): tiles, ports and the blocks below the host interface take 64 KiB, the others 1 MiB. -/
def blockEnd (b : Nat) : Nat :=
  if 0x10000000 ≤ b ∨ b < 0x100000 ∨ (0x200000 ≤ b ∧ b < 0x300000) then b / 0x10000 * 0x10000 + 0x10000 else b / 0x100000 * 0x100000 + 0x100000

/-- RWS_SHADOW_APPLY: the operation boundary of the block at an offset: all its pending shadows take effect together (R12), and what follows them
does. -/
def execRwsShadowApply (block : Nat) : Meaning := M.next (do
  applyShadows block (blockEnd block)
  if block = 0x30000 then powerSync
  if block = 0xC00000 then fmthSync)

/-- Is an address mapped for a master (R3 to R5)? -/
def State.mapped (s : State) (master addr : Nat) (write : Bool) : Bool :=
  if addr < 0x40000000 then
    match s.place master (addr / 4 * 4) write with
    | .reg o => (findReg o).isSome
    | .none => false
    | _ => true
  else s.memMapped master addr

/-- UNMAPPED_ACCESS: a read of an address that is not mapped gives 0, a write is dropped, and both raise EV_UNMAPPED_ACCESS (R4, R5). -/
def execUnmappedAccess (master addr : Nat) (write : Bool) : Meaning := M.next (do
  let m ← look (·.mapped master addr write)
  if !m then
    raise Ev.unmappedAccess (masterSrc master) addr 0
    if !write then act (.out (.readData master addr 0)))

end Sys2Proof.Machine
end

