-- ==== Sys2Proof/Machine/Dispatch.lean ====
section
/-! DEFINITION. The meaning of every command: one arm for each constructor, each a direct call of its meaning. -/

namespace Sys2Proof.Machine

/-- The effect of a command on everything but the queue. -/
def exec (i : Instr) (s : State) : Host.Outcome State Fault Refusal :=
  match i with
  | .registerWrite master off value => Sys2Proof.Machine.execRegisterWrite master off value s
  | .csrBadAccess master off size write => Sys2Proof.Machine.execCsrBadAccess master off size write s
  | .loReadLatch master off => Sys2Proof.Machine.execLoReadLatch master off s
  | .rwsShadowApply block => Sys2Proof.Machine.execRwsShadowApply block s
  | .unmappedAccess master addr write => Sys2Proof.Machine.execUnmappedAccess master addr write s
  | .keeperBoot supply => Sys2Proof.Machine.execKeeperBoot supply s
  | .supplySurveyRetry supply => Sys2Proof.Machine.execSupplySurveyRetry supply s
  | .supplyInputOutOfRange supply => Sys2Proof.Machine.execSupplyInputOutOfRange supply s
  | .supplyInputRestored supply => Sys2Proof.Machine.execSupplyInputRestored supply s
  | .cageSurveyStart present => Sys2Proof.Machine.execCageSurveyStart present s
  | .cmisReadDone cage media length klass watts => Sys2Proof.Machine.execCmisReadDone cage media length klass watts s
  | .cmisReadTimeout cage => Sys2Proof.Machine.execCmisReadTimeout cage s
  | .cageSignalDetect cage lanes => Sys2Proof.Machine.execCageSignalDetect cage lanes s
  | .modprslChange cage present => Sys2Proof.Machine.execModprslChange cage present s
  | .resurvey master value present => Sys2Proof.Machine.execResurvey master value present s
  | .airflowReversed => Sys2Proof.Machine.execAirflowReversed s
  | .pldmRequest op arg => Sys2Proof.Machine.execPldmRequest op arg s
  | .getVersion req => Sys2Proof.Machine.execGetVersion req s
  | .getCapabilities req => Sys2Proof.Machine.execGetCapabilities req s
  | .negotiateAlgorithms req => Sys2Proof.Machine.execNegotiateAlgorithms req s
  | .getDigests req => Sys2Proof.Machine.execGetDigests req s
  | .getCertificate req => Sys2Proof.Machine.execGetCertificate req s
  | .challenge req => Sys2Proof.Machine.execChallenge req s
  | .getMeasurements req => Sys2Proof.Machine.execGetMeasurements req s
  | .matmul tile => Sys2Proof.Machine.execMatmul tile s
  | .arrayDescriptor tile => Sys2Proof.Machine.execArrayDescriptor tile s
  | .arrayPrepassStart tile => Sys2Proof.Machine.execArrayPrepassStart tile s
  | .arrayPrepassDone tile => Sys2Proof.Machine.execArrayPrepassDone tile s
  | .arrayPassDone tile => Sys2Proof.Machine.execArrayPassDone tile s
  | .outputStageDrained tile => Sys2Proof.Machine.execOutputStageDrained tile s
  | .splitPartialReceive tile => Sys2Proof.Machine.execSplitPartialReceive tile s
  | .splitStall tile => Sys2Proof.Machine.execSplitStall tile s
  | .chain tile => Sys2Proof.Machine.execChain tile s
  | .chainDescriptor tile => Sys2Proof.Machine.execChainDescriptor tile s
  | .chainInterlockStart tile => Sys2Proof.Machine.execChainInterlockStart tile s
  | .chainVector tile => Sys2Proof.Machine.execChainVector tile s
  | .chainDescriptorComplete tile => Sys2Proof.Machine.execChainDescriptorComplete tile s
  | .dispatch tile => Sys2Proof.Machine.execDispatch tile s
  | .build tile => Sys2Proof.Machine.execBuild tile s
  | .seal tile => Sys2Proof.Machine.execSeal tile s
  | .expand tile => Sys2Proof.Machine.execExpand tile s
  | .nop tile => Sys2Proof.Machine.execNop tile s
  | .endProgram tile => Sys2Proof.Machine.execEndProgram tile s
  | .fence tile => Sys2Proof.Machine.execFence tile s
  | .setix tile => Sys2Proof.Machine.execSetix tile s
  | .moveLocal tile => Sys2Proof.Machine.execMoveLocal tile s
  | .moveToTile tile => Sys2Proof.Machine.execMoveToTile tile s
  | .moveFromObj tile => Sys2Proof.Machine.execMoveFromObj tile s
  | .moveToObj tile => Sys2Proof.Machine.execMoveToObj tile s
  | .listOut tile => Sys2Proof.Machine.execListOut tile s
  | .listBack tile => Sys2Proof.Machine.execListBack tile s
  | .moveComplete tile => Sys2Proof.Machine.execMoveComplete tile s
  | .send tile => Sys2Proof.Machine.execSend tile s
  | .sendNotify tile => Sys2Proof.Machine.execSendNotify tile s
  | .sendList tile => Sys2Proof.Machine.execSendList tile s
  | .recv tile => Sys2Proof.Machine.execRecv tile s
  | .signal tile => Sys2Proof.Machine.execSignal tile s
  | .signalDeliver tile => Sys2Proof.Machine.execSignalDeliver tile s
  | .wait tile => Sys2Proof.Machine.execWait tile s
  | .clap tile => Sys2Proof.Machine.execClap tile s
  | .arrive tile => Sys2Proof.Machine.execArrive tile s
  | .clapWait tile => Sys2Proof.Machine.execClapWait tile s
  | .clapx tile => Sys2Proof.Machine.execClapx tile s
  | .clapperTimeout tile => Sys2Proof.Machine.execClapperTimeout tile s
  | .cue tile => Sys2Proof.Machine.execCue tile s
  | .loopCount tile => Sys2Proof.Machine.execLoopCount tile s
  | .loopIx tile => Sys2Proof.Machine.execLoopIx tile s
  | .skipTest tile => Sys2Proof.Machine.execSkipTest tile s
  | .skipRelease tile => Sys2Proof.Machine.execSkipRelease tile s
  | .slateSet tile => Sys2Proof.Machine.execSlateSet tile s
  | .takeBegin tile => Sys2Proof.Machine.execTakeBegin tile s
  | .takeEnd tile => Sys2Proof.Machine.execTakeEnd tile s
  | .takeAbort tile => Sys2Proof.Machine.execTakeAbort tile s
  | .standinSwapReactive tile => Sys2Proof.Machine.execStandinSwapReactive tile s
  | .takeReplayResume tile => Sys2Proof.Machine.execTakeReplayResume tile s
  | .tileRunWrite master tile value => Sys2Proof.Machine.execTileRunWrite master tile value s
  | .tileSeqEcWrite master tile n value => Sys2Proof.Machine.execTileSeqEcWrite master tile n value s
  | .reelRunWrite master value => Sys2Proof.Machine.execReelRunWrite master value s
  | .reelTableCopyDone => Sys2Proof.Machine.execReelTableCopyDone s
  | .reelEntryPlaced entry tile => Sys2Proof.Machine.execReelEntryPlaced entry tile s
  | .reelDeadlineMiss entry tile => Sys2Proof.Machine.execReelDeadlineMiss entry tile s
  | .versionedReadResume flow n => Sys2Proof.Machine.execVersionedReadResume flow n s
  | .slotBWriteRelease upd flow => Sys2Proof.Machine.execSlotBWriteRelease upd flow s
  | .verWriteBack object => Sys2Proof.Machine.execVerWriteBack object s
  | .updCmd msg => Sys2Proof.Machine.execUpdCmd msg s
  | .layerGradientPresent layer step => Sys2Proof.Machine.execLayerGradientPresent layer step s
  | .groupUpdate => Sys2Proof.Machine.execGroupUpdate s
  | .groupUpdateDone => Sys2Proof.Machine.execGroupUpdateDone s
  | .gradientWriteRelease bucket step => Sys2Proof.Machine.execGradientWriteRelease bucket step s
  | .snapCommand => Sys2Proof.Machine.execSnapCommand s
  | .snapGroupRead => Sys2Proof.Machine.execSnapGroupRead s
  | .updtRunWrite master value => Sys2Proof.Machine.execUpdtRunWrite master value s
  | .updtGroupApply master value => Sys2Proof.Machine.execUpdtGroupApply master value s
  | .join msg => Sys2Proof.Machine.execJoin msg s
  | .joinTimeout => Sys2Proof.Machine.execJoinTimeout s
  | .joinAck msg => Sys2Proof.Machine.execJoinAck msg s
  | .heartbeatSend dest => Sys2Proof.Machine.execHeartbeatSend dest s
  | .heartbeat msg => Sys2Proof.Machine.execHeartbeat msg s
  | .moduleLossTimeout module => Sys2Proof.Machine.execModuleLossTimeout module s
  | .drainedReport step => Sys2Proof.Machine.execDrainedReport step s
  | .drained msg => Sys2Proof.Machine.execDrained msg s
  | .updDoneReport t => Sys2Proof.Machine.execUpdDoneReport t s
  | .updDone msg => Sys2Proof.Machine.execUpdDone msg s
  | .clapArrive msg => Sys2Proof.Machine.execClapArrive msg s
  | .clapRelease msg => Sys2Proof.Machine.execClapRelease msg s
  | .journal msg => Sys2Proof.Machine.execJournal msg s
  | .journalAck msg => Sys2Proof.Machine.execJournalAck msg s
  | .manager msg => Sys2Proof.Machine.execManager msg s
  | .hold msg => Sys2Proof.Machine.execHold msg s
  | .restore msg copies => Sys2Proof.Machine.execRestore msg copies s
  | .restored msg => Sys2Proof.Machine.execRestored msg s
  | .collResume master value => Sys2Proof.Machine.execCollResume master value s
  | .collRunWrite master value => Sys2Proof.Machine.execCollRunWrite master value s
  | .collectiveStall bucket step child => Sys2Proof.Machine.execCollectiveStall bucket step child s
  | .portSignalDetect port => Sys2Proof.Machine.execPortSignalDetect port s
  | .autonegRetry port common => Sys2Proof.Machine.execAutonegRetry port common s
  | .portUp port => Sys2Proof.Machine.execPortUp port s
  | .portDown port => Sys2Proof.Machine.execPortDown port s
  | .linkRetrain port corrected uncorrected markersLost => Sys2Proof.Machine.execLinkRetrain port corrected uncorrected markersLost s
  | .retrain master port value => Sys2Proof.Machine.execRetrain master port value s
  | .retrainTimeout port => Sys2Proof.Machine.execRetrainTimeout port s
  | .macRunWrite master port value => Sys2Proof.Machine.execMacRunWrite master port value s
  | .frameReceive port frame => Sys2Proof.Machine.execFrameReceive port frame s
  | .pfcFrame port mask quanta kib => Sys2Proof.Machine.execPfcFrame port mask quanta kib s
  | .mgmtQueueSend port frame => Sys2Proof.Machine.execMgmtQueueSend port frame s
  | .lldpTransmit port => Sys2Proof.Machine.execLldpTransmit port s
  | .lldpduReceive port mac cap tw ttl => Sys2Proof.Machine.execLldpduReceive port mac cap tw ttl s
  | .lldpPartnerExpire port => Sys2Proof.Machine.execLldpPartnerExpire port s
  | .topologyPublish => Sys2Proof.Machine.execTopologyPublish s
  | .pdelayExchange port answer => Sys2Proof.Machine.execPdelayExchange port answer s
  | .ptpLost port => Sys2Proof.Machine.execPtpLost port s
  | .stepDownRequest port => Sys2Proof.Machine.execStepDownRequest port s
  | .stepUpRequest port => Sys2Proof.Machine.execStepUpRequest port s
  | .stepTlv port ack up target => Sys2Proof.Machine.execStepTlv port ack up target s
  | .stepSpeedChange port => Sys2Proof.Machine.execStepSpeedChange port s
  | .stepSpeedUp port => Sys2Proof.Machine.execStepSpeedUp port s
  | .stepRequestAbandon port => Sys2Proof.Machine.execStepRequestAbandon port s
  | .lpiEnter port partner => Sys2Proof.Machine.execLpiEnter port partner s
  | .lpiWake port partner => Sys2Proof.Machine.execLpiWake port partner s
  | .write pkt => Sys2Proof.Machine.execWrite pkt s
  | .writeNotify pkt => Sys2Proof.Machine.execWriteNotify pkt s
  | .readReq pkt => Sys2Proof.Machine.execReadReq pkt s
  | .readResp pkt => Sys2Proof.Machine.execReadResp pkt s
  | .ack pkt => Sys2Proof.Machine.execAck pkt s
  | .nak pkt => Sys2Proof.Machine.execNak pkt s
  | .mgmt pkt => Sys2Proof.Machine.execMgmt pkt s
  | .notificationDeliver flow => Sys2Proof.Machine.execNotificationDeliver flow s
  | .ackSend flow => Sys2Proof.Machine.execAckSend flow s
  | .packetTransmit turn => Sys2Proof.Machine.execPacketTransmit turn s
  | .rtoRetransmit flow psn => Sys2Proof.Machine.execRtoRetransmit flow psn s
  | .nakRetry flow psn => Sys2Proof.Machine.execNakRetry flow psn s
  | .flowFail flow => Sys2Proof.Machine.execFlowFail flow s
  | .ratePeriod flow => Sys2Proof.Machine.execRatePeriod flow s
  | .ringFullTimeout ring => Sys2Proof.Machine.execRingFullTimeout ring s
  | .keyInstall master value => Sys2Proof.Machine.execKeyInstall master value s
  | .keyRevoke master value => Sys2Proof.Machine.execKeyRevoke master value s
  | .keyClear master value => Sys2Proof.Machine.execKeyClear master value s
  | .keyRetire index => Sys2Proof.Machine.execKeyRetire index s
  | .keyRevokeSlow index => Sys2Proof.Machine.execKeyRevokeSlow index s
  | .flowInstall master value => Sys2Proof.Machine.execFlowInstall master value s
  | .flowReset master value => Sys2Proof.Machine.execFlowReset master value s
  | .nrtRunWrite master value => Sys2Proof.Machine.execNrtRunWrite master value s
  | .hostNop fn ring => Sys2Proof.Machine.execHostNop fn ring s
  | .loadJob fn ring clap => Sys2Proof.Machine.execLoadJob fn ring clap s
  | .startJob fn ring => Sys2Proof.Machine.execStartJob fn ring s
  | .stopJob fn ring => Sys2Proof.Machine.execStopJob fn ring s
  | .query fn ring => Sys2Proof.Machine.execQuery fn ring s
  | .snapshot fn ring => Sys2Proof.Machine.execSnapshot fn ring s
  | .flashWrite fn run => Sys2Proof.Machine.execFlashWrite fn run s
  | .detach fn ring => Sys2Proof.Machine.execDetach fn ring s
  | .sqDoorbell master fn ring value => Sys2Proof.Machine.execSqDoorbell master fn ring value s
  | .sqEntryRead fn ring entry => Sys2Proof.Machine.execSqEntryRead fn ring entry s
  | .sqEntryReread fn ring entry => Sys2Proof.Machine.execSqEntryReread fn ring entry s
  | .cqDoorbell master fn ring value => Sys2Proof.Machine.execCqDoorbell master fn ring value s
  | .cqFullTimeout fn ring => Sys2Proof.Machine.execCqFullTimeout fn ring s
  | .evrHeadWrite master fn value => Sys2Proof.Machine.execEvrHeadWrite master fn value s
  | .interruptCoalesce fn ring => Sys2Proof.Machine.execInterruptCoalesce fn ring s
  | .attach master fn value pci numVfs => Sys2Proof.Machine.execAttach master fn value pci numVfs s
  | .fnDetachWrite master fn value => Sys2Proof.Machine.execFnDetachWrite master fn value s
  | .fnLive master fn value => Sys2Proof.Machine.execFnLive master fn value s
  | .liveExpire fn => Sys2Proof.Machine.execLiveExpire fn s
  | .busMasterClear fn => Sys2Proof.Machine.execBusMasterClear fn s
  | .dmaError fn => Sys2Proof.Machine.execDmaError fn s
  | .perst => Sys2Proof.Machine.execPerst s
  | .flrPf => Sys2Proof.Machine.execFlrPf s
  | .flrVf fn => Sys2Proof.Machine.execFlrVf fn s
  | .pcieLinkUp rate width => Sys2Proof.Machine.execPcieLinkUp rate width s
  | .bar2Access fn aperture offset length data => Sys2Proof.Machine.execBar2Access fn aperture offset length data s
  | .flitCrcFail flit => Sys2Proof.Machine.execFlitCrcFail flit s
  | .linkAck mod seq => Sys2Proof.Machine.execLinkAck mod seq s
  | .linkReplay mod seq => Sys2Proof.Machine.execLinkReplay mod seq s
  | .craxisAckSend mod => Sys2Proof.Machine.execCraxisAckSend mod s
  | .replayRepeat mod => Sys2Proof.Machine.execReplayRepeat mod s
  | .rd out via msg => Sys2Proof.Machine.execRd out via msg s
  | .rdLine out via msg => Sys2Proof.Machine.execRdLine out via msg s
  | .flush out via msg => Sys2Proof.Machine.execFlush out via msg s
  | .csrRd out via msg => Sys2Proof.Machine.execCsrRd out via msg s
  | .wr out via msg => Sys2Proof.Machine.execWr out via msg s
  | .wrLine out via msg => Sys2Proof.Machine.execWrLine out via msg s
  | .csrWr out via msg => Sys2Proof.Machine.execCsrWr out via msg s
  | .rdData out via msg => Sys2Proof.Machine.execRdData out via msg s
  | .csrData out via msg => Sys2Proof.Machine.execCsrData out via msg s
  | .cmpl out via msg => Sys2Proof.Machine.execCmpl out via msg s
  | .cap out via msg => Sys2Proof.Machine.execCap out via msg s
  | .err mod msg addr ue => Sys2Proof.Machine.execErr mod msg addr ue s
  | .firewallTimeout stack tag => Sys2Proof.Machine.execFirewallTimeout stack tag s
  | .pwr out via msg => Sys2Proof.Machine.execPwr out via msg s
  | .resetNote out via msg => Sys2Proof.Machine.execResetNote out via msg s
  | .moduleTrained mod hubFail farFail cap => Sys2Proof.Machine.execModuleTrained mod hubFail farFail cap s
  | .trainingTimeout mod => Sys2Proof.Machine.execTrainingTimeout mod s
  | .laneFault mod => Sys2Proof.Machine.execLaneFault mod s
  | .recalibration mod => Sys2Proof.Machine.execRecalibration mod s
  | .craxisRetrainDone mod hubFail farFail => Sys2Proof.Machine.execCraxisRetrainDone mod hubFail farFail s
  | .interleaveRebuildDone link => Sys2Proof.Machine.execInterleaveRebuildDone link s
  | .farDieResetEnter die => Sys2Proof.Machine.execFarDieResetEnter die s
  | .farDieResetRelease die => Sys2Proof.Machine.execFarDieResetRelease die s
  | .relearn master link value => Sys2Proof.Machine.execRelearn master link value s
  | .powerControlTick m e draws => Sys2Proof.Machine.execPowerControlTick m e draws s
  | .sensorRecover => Sys2Proof.Machine.execSensorRecover s
  | .powerModelDivergence => Sys2Proof.Machine.execPowerModelDivergence s
  | .divergenceClear => Sys2Proof.Machine.execDivergenceClear s
  | .computePointLower group => Sys2Proof.Machine.execComputePointLower group s
  | .computePointRaise group => Sys2Proof.Machine.execComputePointRaise group s
  | .pointChangeDone group => Sys2Proof.Machine.execPointChangeDone group s
  | .recal master value => Sys2Proof.Machine.execRecal master value s
  | .powerFracWrite master value => Sys2Proof.Machine.execPowerFracWrite master value s
  | .droopDetect group => Sys2Proof.Machine.execDroopDetect group s
  | .droopStretchEnd group => Sys2Proof.Machine.execDroopStretchEnd group s
  | .droopPersistent group => Sys2Proof.Machine.execDroopPersistent group s
  | .thermalSample temps => Sys2Proof.Machine.execThermalSample temps s
  | .thermalThrottle row index => Sys2Proof.Machine.execThermalThrottle row index s
  | .thermalRecover row index => Sys2Proof.Machine.execThermalRecover row index s
  | .pwrReportOverdue row index => Sys2Proof.Machine.execPwrReportOverdue row index s
  | .thermalTrip row index => Sys2Proof.Machine.execThermalTrip row index s
  | .tileRetain tile => Sys2Proof.Machine.execTileRetain tile s
  | .tileWake tile => Sys2Proof.Machine.execTileWake tile s
  | .tileGroupPllStop group => Sys2Proof.Machine.execTileGroupPllStop group s
  | .hourRecord hours => Sys2Proof.Machine.execHourRecord hours s
  | .clkgStepWrite master value => Sys2Proof.Machine.execClkgStepWrite master value s
  | .clkgTrimWrite master value => Sys2Proof.Machine.execClkgTrimWrite master value s
  | .powerOn => Sys2Proof.Machine.execPowerOn s
  | .brownout => Sys2Proof.Machine.execBrownout s
  | .nreset => Sys2Proof.Machine.execNreset s
  | .keeperWatchdog => Sys2Proof.Machine.execKeeperWatchdog s
  | .keeperWdogKick master value => Sys2Proof.Machine.execKeeperWdogKick master value s
  | .deviceReset master value => Sys2Proof.Machine.execDeviceReset master value s
  | .twinReq master value => Sys2Proof.Machine.execTwinReq master value s
  | .twinReqRepeat => Sys2Proof.Machine.execTwinReqRepeat s
  | .twinResetRequest pair job => Sys2Proof.Machine.execTwinResetRequest pair job s
  | .ready master value => Sys2Proof.Machine.execReady master value s
  | .startFailure => Sys2Proof.Machine.execStartFailure s
  | .resetIntervalEnd source => Sys2Proof.Machine.execResetIntervalEnd source s
  | .dieRelease die => Sys2Proof.Machine.execDieRelease die s
  | .thermalWaitEnd => Sys2Proof.Machine.execThermalWaitEnd s
  | .stageBoot => Sys2Proof.Machine.execStageBoot s
  | .blockResetUpd master value => Sys2Proof.Machine.execBlockResetUpd master value s
  | .blockResetStack master value => Sys2Proof.Machine.execBlockResetStack master value s
  | .blockResetField master value => Sys2Proof.Machine.execBlockResetField master value s
  | .blockResetMgmt master value => Sys2Proof.Machine.execBlockResetMgmt master value s
  | .blockResetDone bit => Sys2Proof.Machine.execBlockResetDone bit s
  | .stageWdogKick master value => Sys2Proof.Machine.execStageWdogKick master value s
  | .stageWatchdog => Sys2Proof.Machine.execStageWatchdog s
  | .stageRestartDone master value => Sys2Proof.Machine.execStageRestartDone master value s
  | .recoveryRead addr len => Sys2Proof.Machine.execRecoveryRead addr len s
  | .recoveryErase place => Sys2Proof.Machine.execRecoveryErase place s
  | .recoveryProgram place len data => Sys2Proof.Machine.execRecoveryProgram place len data s
  | .recoveryExit => Sys2Proof.Machine.execRecoveryExit s
  | .scrubStep place error raced => Sys2Proof.Machine.execScrubStep place error raced s
  | .dramRowRepair addr bad => Sys2Proof.Machine.execDramRowRepair addr bad s
  | .backgroundForced kind => Sys2Proof.Machine.execBackgroundForced kind s
  | .plannedSwapRequest master value => Sys2Proof.Machine.execPlannedSwapRequest master value s
  | .plannedSwapComplete copy => Sys2Proof.Machine.execPlannedSwapComplete copy s
  | .eventRingWrite => Sys2Proof.Machine.execEventRingWrite s
  | .eventRingCopy => Sys2Proof.Machine.execEventRingCopy s
  | .dailiesTick => Sys2Proof.Machine.execDailiesTick s
  | .dailiesRecordWrite stream => Sys2Proof.Machine.execDailiesRecordWrite stream s
  | .dlyEnableWrite master stream value => Sys2Proof.Machine.execDlyEnableWrite master stream value s
  | .bwWindowEnd => Sys2Proof.Machine.execBwWindowEnd s
  | .bwWindowWrite master value => Sys2Proof.Machine.execBwWindowWrite master value s
  | .sampleWrite tile => Sys2Proof.Machine.execSampleWrite tile s
  | .powerLoss => Sys2Proof.Machine.execPowerLoss s
  | .portSignalLost port => Sys2Proof.Machine.execPortSignalLost port s
  | .pfcPauseExpire port prio kib => Sys2Proof.Machine.execPfcPauseExpire port prio kib s
  | .roomToneLevelZero tile => Sys2Proof.Machine.execRoomToneLevelZero tile s
  | .negativeStepAbsorbed => Sys2Proof.Machine.execNegativeStepAbsorbed s
  | .sidebandMessage stack msg => Sys2Proof.Machine.execSidebandMessage stack msg s
  | .creditReturn mod vc flits => Sys2Proof.Machine.execCreditReturn mod vc flits s

end Sys2Proof.Machine
end

