-- ==== Sys2Proof/Machine/Tick.lean ====
section
/-! DEFINITION. What happens at an edge of the 25 MHz reference whatever is commanded: the time counter (R20, R514), a state of the option loading (R562), the
counts of microseconds (R544), and stage firmware taking frames from the management queues (R389). -/

namespace Sys2Proof.Machine

/-- A trim as a signed number (R546). -/
def State.trim (s : State) : Int :=
  let v := s.fld Fl.CLKG_TRIM_RATE
  if v < 2 ^ 19 then v else (v : Int) - 2 ^ 20

/-- The time counter moves by a reference period at the trimmed rate, or by half of it while a negative step is absorbed. -/
def timeEdge : M Unit := do
  let p ← look (·.pwr)
  let rate ← look (·.trim)
  let full := (40 * (1000000000 + rate)).toNat
  let total := p.frac + (if p.neg = 0 then full else full / 2)
  let ns := total / 1000000000
  let now ← look (·.time)
  act (.time (now + ns))
  act (.pwr (fun p => { p with frac := total % 1000000000, neg := p.neg - ns, usNs := p.usNs + ns }))

/-- Does a write wait for a slot B that R283 holds: the update die's, or one that a flow has admitted? -/
def State.slotWaits (s : State) : Bool :=
  (match s.upd.run with
    | some r => r.held && s.slotHeld (match r.work with
      | some (.apply i _ _ _) => (s.group i).obj
      | some (.copy i) => (s.group i).obj
      | _ => 0xFFFF) (r.cmd.t % 2)
    | none => false) ||
    s.nrt.flows.any (fun f => f.2.held.any (fun h => s.writeHeld h.pkt))

/-- Does an update wait for a snapshot that is still to read its group (R332)? -/
def State.snapWaits (s : State) : Bool :=
  match s.upd.run with
  | some r => r.work.isNone && (match r.ready with
    | i :: _ => s.snapBlocks i r.cmd.t
    | [] => false)
  | none => false

/-- The microsecond counts of the waits (R304, R342, R380). DESIGN CHOICE: a microsecond in which several writes wait adds one. -/
def waitEdge : M Unit := do
  let slot ← look (·.slotWaits)
  let grad ← look (fun s => s.coll.gradHeld.any (fun h => s.gradHeldFor h.1 h.2))
  let snap ← look (·.snapWaits)
  let child ← look (·.childWaits)
  bump (Reg.REEL_COUNT_LO 7) (if slot then 1 else 0)
  bump (Reg.UPDT_COUNT_LO 6) (if grad then 1 else 0)
  bump (Reg.UPDT_COUNT_LO 7) (if snap then 1 else 0)
  bump (Reg.COLL_COUNT_LO 2) (if child then 1 else 0)

/-- The microseconds of the ports: those in low-power idle and those paused by the partner (R412), and what R399 and R402 judge of a port that is UP. -/
def portEdge (n : Nat) : M Unit := do
  let lpi ← getFld (Fl.MAC_STATUS_LPI_TX n)
  let p ← getPort n
  bump (Reg.MAC_COUNT_LO n 10) lpi
  bump (Reg.MAC_COUNT_LO n 11) (if p.paused.isEmpty then 0 else 1)
  let up ← look (·.portUp n)
  let kib ← getFld (Fl.MAC_LP_STEP_BACKLOG n)
  let share ← getFld (Fl.MAC_LP_UP_SHARE n)
  let sp ← getFld (Fl.MAC_STATUS_SPEED n)
  if up then modPort n (fun p => p.micro kib share (speedRate sp))

/-- The cycles of a microsecond that programmable counters count (R610 to R612): of each tile that is ON at its group's rate, with those run stretched and
those of room tone; and of the hub and the update die, where a chunk waits for a child or a write or an update is held. -/
def cycleEdge : M Unit := do
  let on ← look (fun s => (List.range 180).filter (fun n => decide (s.power (s.physOf n) = .on)))
  for n in on do
    let g ← look (fun s => s.physOf n / 16)
    let mhz ← getFld (Fl.CLKG_GROUP_MHZ g)
    let half ← getFld (Fl.CLKG_GROUP_STRETCHED g)
    let tone ← look (·.toneLevel n)
    let slate ← look (·.slate n)
    pmuTile n 0x01 mhz none slate false
    if tone ≠ 0 then pmuTile n 0x15 mhz none slate false
    if half = 1 then pmuTile n 0x17 mhz none slate false
  let child ← look (·.childWaits)
  let held ← look (fun s => s.coll.gradHeld.any (fun h => s.gradHeldFor h.1 h.2) || s.snapWaits)
  if child then pmuHub 0x10 1200 none none none none
  if held then pmuUpd 0x09 1200

/-- A microsecond ends: each count adds one where its condition holds. Whether the staged rise of a group makes a tile wait is a free value. -/
def microEdge : M Unit := do
  let cap ← getFld Fl.PWRM_STATUS_CAP_BOUND
  let hot ← getFld Fl.PWRM_STATUS_THROTTLED
  let tone ← look (fun s => (List.range 180).any (fun n => decide (s.toneLevel n ≠ 0)))
  let rise ← look (fun s => s.pwr.levels.any (fun e => s.rising e))
  bump (Reg.PWRM_COUNT_LO 0) cap
  bump (Reg.PWRM_COUNT_LO 1) hot
  bump (Reg.PWRM_COUNT_LO 3) (if tone then 1 else 0)
  if rise then
    let v ← freeValue
    bump (Reg.PWRM_COUNT_LO 4) (v % 2)
  waitEdge
  cycleEdge
  for n in List.range 9 do portEdge n
  let left ← look (fun s => s.pwr.levels.filter s.rising)
  act (.pwr (fun p => { p with usNs := p.usNs - 1000, levels := left }))

/-- Stage firmware takes the frames of the management queues and the egress timestamps reported. -/
def stageEdge : M Unit := do
  let go ← look (·.performs)
  if go then
    for n in List.range 9 do modPort n (fun p => { p with rxq := [], txq := [] })

/-- An edge of the reference, with 48 cycles of the hub's and of the update die's 1.2 GHz (R611, R612). The module does nothing while it has no power. -/
def tick : M Unit := do
  let on ← look (·.rst.powered)
  if on then
    timeEdge
    optionStep
    pmuHub 0x01 48 none none none none
    pmuUpd 0x01 48
    let us ← look (·.pwr.usNs)
    if 1000 ≤ us then microEdge
    stageEdge
    reinstallKeys

end Sys2Proof.Machine
end

