-- ==== Sys2Proof/Safety.lean ====
section
/-! DEFINITION. What it is for a state to be sound: the form that memory, registers and the other sparse parts of the state keep at every step, and
the bounds that the spec puts on the counter and the event buffer; and the words in which claims are made: a command completes, an event is told, a
register has no effect but its word's. -/

namespace Sys2Proof.Machine

/-- The bytes of the tiers: rising addresses, no byte that reads as it would unlisted, and none where there is no storage (R3, R4). -/
abbrev Memory := Store Byte
def Memory.wf (m : Memory) : Bool := Store.wf (fun _ => 0) m && m.all (fun e => storage e.1)

/-- Every listed register holds 0 in its reserved bits (R9). -/
def regsImplemented (l : Store W32) : Bool := l.all (fun e => decide (e.2 &&& BitVec.ofNat 32 (implMask e.1) = e.2))

/-- A sound state. -/
structure State.Inv (s : State) : Prop where
  time : s.time < 2 ^ 64
  mem : Memory.wf s.mem = true
  regs : Store.wf regReset s.regs = true
  reserved : regsImplemented s.regs = true
  shadows : Store.wf (fun _ => none) s.shadows = true
  latches : Store.wf (fun _ => none) s.latches = true
  holds : Store.wf (fun _ => none) s.holds = true
  poison0 : Store.wf (fun _ => false) s.poison0 = true
  poison1 : Store.wf (fun _ => false) s.poison1 = true
  poison2 : Store.wf (fun _ => false) s.poison2 = true
  tiles : Store.wf (fun _ => Tile.empty) s.tiles = true
  phys : Store.wf (fun _ => TilePower.off) s.phys = true
  ports : Store.wf (fun _ => Port.empty) s.ports = true
  events : s.events.length ≤ 4096
  undef : s.undef.all (fun r => r.only.isNone || (decide (baseT1 ≤ r.lo) && decide (r.hi < 0x3400000000))) = true
  mods : Store.wf (fun _ => CxMod.empty) s.cx.mods = true
  groups : Store.wf (fun _ => GroupClk.empty) s.pwr.groups = true
  fns : Store.wf (fun _ => HFn.empty) s.host.fns = true
  msix : Store.wf msixReset s.host.msix = true
  flows : Store.wf (fun _ => Flow.free) s.nrt.flows = true
  keys : Store.wf (fun _ => KeyEntry.free) s.nrt.keys = true
  alloc : Store.wf (fun _ => 0) s.hub.alloc = true
  streams : Store.wf (fun _ => (⟨0, 0, none⟩ : DlyStream)) s.hub.streams = true
  flash : Store.wf Config.flashByte s.rst.flash = true

/-! The words of claims. -/

/-- From s the command c answers a next state, and Q holds of it. -/
def Completes (c : Instr) (s : State) (Q : State → Prop) : Prop := ∃ t, exec c s = .next t ∧ Q t

/-- Since s an event has been raised with this code, source and detail. In a state whose event buffer has no room for 16 more records nothing is said:
there the record may be lost (R588). -/
def State.Told (s t : State) (e : Ev) (src : Nat × Nat) (detail : Nat) : Prop :=
  s.events.length + 16 ≤ 4096 →
    ∃ x ∈ t.events.drop s.events.length, x.code = e.code ∧ (x.kind, x.index) = src ∧ x.detail = detail % 2 ^ 80

/-- Memory is as it was, in a state whose Reel has no transfer in work: a command whose effects may stop the job leaves the destinations of the transfers that it abandons
undefined (R292, R300), and of those bytes nothing is said. -/
def State.Keeps (s t : State) : Prop := s.reel.xfers = [] → t.mem = s.mem ∧ t.undef = s.undef

/-- The offsets of the hub's programmable counters: they move at events of every kind (R605). -/
def pmonCounter (off : Nat) : Bool := decide (0xA00100 ≤ off) && decide (off < 0xA00600)

/-- The registers whose writes have effects beyond the register's word, each told of by a rule of its own. -/
def ownEffect (off : Nat) : Bool :=
  [Reg.IDENT_SURVEY, Reg.RSTC_CTRL, Reg.RSTC_BLOCK, Reg.RSTC_STAGE_WDOG, Reg.PWRM_CTRL, Reg.PWRM_FRAC, Reg.PWRM_CAP, Reg.CLKG_STEP, Reg.CLKG_MATCH,
    Reg.NRT_CTRL, Reg.NRT_FLOW_SEL, Reg.KEYT_CMD, Reg.REEL_CTRL, Reg.COLL_CTRL, Reg.UPDT_CTRL, Reg.UPDT_GROUP_CTL, Reg.PMON_BW_CTRL,
    Reg.RAS_SWAP].contains off ||
    (decide (0xC00000 ≤ off) && decide (off < 0xD00000)) ||
    (List.range 9).any (fun n => decide (off = Reg.MAC_CTRL n ∨ off = Reg.DLY_CTRL n ∨ off = Reg.FN_CTRL n ∨ off = Reg.EVR_HEAD n) ||
      (List.range 4).any (fun q => decide (off = Reg.SQ_DB n q ∨ off = Reg.CQ_DB n q))) ||
    (List.range 6).any (fun l => decide (off = Reg.CRAXIS_LINK_CFG l)) ||
    (List.range 64).any (fun n => decide (off = Reg.PMON_HUB_FILT n)) ||
    (decide (0x10000000 ≤ off) && (decide (off % 0x10000 = Reg.TILE_SEQ_CTRL 0 % 0x10000) || decide (off % 0x10000 = Reg.TILE_SMP_CTRL 0 % 0x10000) ||
      (List.range 8).any (fun i => decide (off % 0x10000 = Reg.TILE_SEQ_EC 0 i % 0x10000))))

/-- The bits that a field takes of a register's word. -/
def FieldSpec.part (f : FieldSpec) (w : Nat) : Nat := bitsOf w (f.lo + f.width - 1) f.lo

/-- May this master write the register at this offset: is it another than keeper firmware, or a register that keeper firmware does not merely read (R572)? -/
def mayWrite (m off : Nat) : Bool := decide (m ≠ mKeeper) || !keeperReads off

/-- What a write of v by master m at an offset makes of a field of the register there, by the field's type (R8), by who writes (R11, R572) and by its block's
RUN (R13): `s` is the state before it and `t` the state after. -/
def FieldSpec.takes (f : FieldSpec) (h : RegHit) (m off v : Nat) (s t : State) : Prop :=
  let old := f.part (s.reg off).toNat
  let now := f.part (t.reg off).toNat
  if mayWrite m off = false then now = old ∧ s.Told t Ev.csrPrivilege (masterSrc m) off else
  (f.ty = .ro → now = old) ∧
  (f.ty = .w1c → now = old - (old &&& f.part v)) ∧
  (f.ty = .wo → now = 0) ∧
  (f.ty = .rws → s.blockIdle off = true → now = f.part v) ∧
  (f.ty = .rws → s.blockIdle off = false → now = old ∧ Store.get (fun _ => none) t.shadows off = some (BitVec.ofNat 32 v)) ∧
  (f.ty = .rw → (f.static && s.running h) = false → now = f.part v) ∧
  (f.ty = .rw → (f.static && s.running h) = true → now = old ∧
    (f.part v ≠ old → s.Told t Ev.configWhileRunning (masterSrc m) (off + v % 2 ^ 32 * 2 ^ 32))) ∧
  (f.ty = .rwl → m = mKeeper → (f.static && s.running h) = false → now = f.part v)

/-- The registers with an RWL field whose writes have an effect of their own. -/
def rwlWithEffect (off : Nat) : Bool :=
  decide (off = Reg.RSTC_BLOCK) || decide (off = Reg.KEYT_CMD) || (List.range 6).any (fun l => decide (off = Reg.CRAXIS_LINK_CFG l))

/-- The parts of the module. -/
inductive StatePart where
  | time | registers | shadows | latches | holds | memory | events | outputs | tiles | powers | reel | job | upd | coll | nrt | ports | hub | host | cx | pwr | rst
deriving DecidableEq, Repr

def StatePart.all : List StatePart := [.time, .registers, .shadows, .latches, .holds, .memory, .events, .outputs, .tiles, .powers, .reel, .job, .upd, .coll, .nrt, .ports, .hub, .host, .cx, .pwr, .rst]

/-- The part is in t as it is in s. -/
def StatePart.stands (s t : State) : StatePart → Prop
  | .time => t.time = s.time
  | .registers => t.regs = s.regs
  | .shadows => t.shadows = s.shadows
  | .latches => t.latches = s.latches
  | .holds => t.holds = s.holds
  | .memory => t.mem = s.mem ∧ t.undef = s.undef ∧ t.poison0 = s.poison0 ∧ t.poison1 = s.poison1 ∧ t.poison2 = s.poison2
  | .events => t.events = s.events ∧ t.evSeq = s.evSeq
  | .outputs => t.out = s.out
  | .tiles => t.tiles = s.tiles
  | .powers => t.phys = s.phys
  | .reel => t.reel = s.reel
  | .job => t.job = s.job
  | .upd => t.upd = s.upd
  | .coll => t.coll = s.coll
  | .nrt => t.nrt = s.nrt
  | .ports => t.ports = s.ports
  | .hub => t.hub = s.hub
  | .host => t.host = s.host
  | .cx => t.cx = s.cx
  | .pwr => t.pwr = s.pwr
  | .rst => t.rst = s.rst

/-- The parts that a command may change: those its rules have it act on, and those that the failing of a Take, the stopping of a job, or what it lets go on act on. -/
def mayChange : Instr → List StatePart
  | .ratePeriod .. =>
      [.nrt]
  | .autonegRetry .. =>
      [.ports]
  | .tileRetain .. =>
      [.powers]
  | .divergenceClear .. =>
      [.pwr]
  | .retrainTimeout .. | .topologyPublish .. | .lpiEnter .. | .sensorRecover .. | .droopDetect .. | .droopStretchEnd .. | .blockResetDone ..
  | .portSignalLost .. =>
      [.registers]
  | .recoveryErase .. | .recoveryProgram .. =>
      [.rst]
  | .chainInterlockStart .. | .roomToneLevelZero .. =>
      [.tiles]
  | .layerGradientPresent .. =>
      [.upd]
  | .craxisAckSend .. =>
      [.outputs, .cx]
  | .interruptCoalesce .. =>
      [.outputs, .host]
  | .getVersion .. | .getCapabilities .. | .negotiateAlgorithms .. | .getDigests .. | .getCertificate .. | .challenge .. | .getMeasurements ..
  | .recoveryRead .. =>
      [.outputs, .rst]
  | .heartbeat .. =>
      [.registers, .coll]
  | .laneFault .. | .recalibration .. | .farDieResetRelease .. =>
      [.registers, .cx]
  | .airflowReversed .. | .joinTimeout .. | .ptpLost .. | .pcieLinkUp .. =>
      [.registers, .events]
  | .bwWindowEnd .. =>
      [.registers, .hub]
  | .replayRepeat .. =>
      [.registers, .outputs]
  | .portSignalDetect .. | .lldpPartnerExpire .. | .stepSpeedChange .. =>
      [.registers, .ports]
  | .computePointRaise .. | .pointChangeDone .. | .thermalRecover .. | .tileGroupPllStop .. | .thermalWaitEnd .. =>
      [.registers, .pwr]
  | .arrayPrepassStart .. | .arrayPassDone .. | .chainDescriptorComplete .. =>
      [.registers, .tiles]
  | .negativeStepAbsorbed .. =>
      [.time, .pwr]
  | .journal .. =>
      [.registers, .coll, .nrt]
  | .dieRelease .. =>
      [.registers, .cx, .rst]
  | .collectiveStall .. =>
      [.registers, .events, .coll]
  | .cqFullTimeout .. =>
      [.registers, .events, .host]
  | .backgroundForced .. | .dailiesTick .. =>
      [.registers, .events, .hub]
  | .ringFullTimeout .. | .keyRetire .. | .keyRevokeSlow .. =>
      [.registers, .events, .nrt]
  | .unmappedAccess .. =>
      [.registers, .events, .outputs]
  | .lldpduReceive .. =>
      [.registers, .events, .ports]
  | .powerControlTick .. | .powerModelDivergence .. | .computePointLower .. | .droopPersistent .. | .thermalSample .. | .thermalThrottle ..
  | .pwrReportOverdue .. =>
      [.registers, .events, .pwr]
  | .signalDeliver .. =>
      [.registers, .events, .tiles]
  | .snapCommand .. =>
      [.registers, .events, .upd]
  | .flitCrcFail .. =>
      [.registers, .outputs, .cx]
  | .supplyInputRestored .. =>
      [.registers, .pwr, .rst]
  | .manager .. =>
      [.registers, .events, .coll, .nrt]
  | .resetIntervalEnd .. =>
      [.registers, .events, .host, .rst]
  | .supplySurveyRetry .. | .hourRecord .. =>
      [.registers, .events, .pwr, .rst]
  | .snapGroupRead .. =>
      [.registers, .events, .upd, .nrt]
  | .csrBadAccess .. | .loReadLatch .. =>
      [.registers, .latches, .events, .outputs]
  | .eventRingWrite .. =>
      [.registers, .memory, .events, .cx]
  | .reelDeadlineMiss .. =>
      [.registers, .memory, .events, .reel]
  | .verWriteBack .. =>
      [.registers, .memory, .reel, .cx]
  | .sampleWrite .. =>
      [.registers, .memory, .tiles, .cx]
  | .pldmRequest .. =>
      [.registers, .outputs, .host, .pwr]
  | .linkAck .. | .linkReplay .. | .interleaveRebuildDone .. | .creditReturn .. =>
      [.registers, .outputs, .hub, .cx]
  | .frameReceive .. | .pfcFrame .. | .mgmtQueueSend .. | .lldpTransmit .. | .pdelayExchange .. | .stepDownRequest .. | .stepUpRequest ..
  | .stepTlv .. | .stepSpeedUp .. | .stepRequestAbandon .. | .lpiWake .. | .pfcPauseExpire .. =>
      [.registers, .outputs, .ports, .hub]
  | .rwsShadowApply .. =>
      [.registers, .shadows, .events, .pwr]
  | .fnLive .. | .clkgTrimWrite .. | .keeperWdogKick .. | .stageWdogKick .. =>
      [.registers, .shadows, .holds, .events]
  | .keeperBoot .. =>
      [.registers, .events, .host, .pwr, .rst]
  | .trainingTimeout .. | .craxisRetrainDone .. =>
      [.registers, .events, .outputs, .hub, .cx]
  | .takeReplayResume .. =>
      [.registers, .events, .tiles, .reel, .pwr]
  | .dramRowRepair .. =>
      [.registers, .memory, .events, .hub, .rst]
  | .moveComplete .. =>
      [.registers, .memory, .events, .tiles, .cx]
  | .dailiesRecordWrite .. =>
      [.registers, .memory, .outputs, .hub, .cx]
  | .heartbeatSend .. =>
      [.registers, .outputs, .coll, .ports, .hub]
  | .twinReqRepeat .. =>
      [.registers, .outputs, .ports, .hub, .rst]
  | .relearn .. =>
      [.registers, .shadows, .holds, .events, .cx]
  | .sqDoorbell .. =>
      [.registers, .shadows, .holds, .events, .host]
  | .plannedSwapRequest .. | .dlyEnableWrite .. | .bwWindowWrite .. =>
      [.registers, .shadows, .holds, .events, .hub]
  | .keyInstall .. | .keyRevoke .. | .keyClear .. =>
      [.registers, .shadows, .holds, .events, .nrt]
  | .recal .. | .powerFracWrite .. =>
      [.registers, .shadows, .holds, .events, .pwr]
  | .tileSeqEcWrite .. =>
      [.registers, .shadows, .holds, .events, .tiles]
  | .updtRunWrite .. | .updtGroupApply .. =>
      [.registers, .shadows, .holds, .events, .upd]
  | .farDieResetEnter .. =>
      [.registers, .events, .outputs, .hub, .cx, .rst]
  | .bar2Access .. =>
      [.registers, .memory, .events, .outputs, .hub, .cx]
  | .hostNop .. | .query .. | .sqEntryRead .. | .eventRingCopy .. =>
      [.registers, .memory, .outputs, .hub, .host, .cx]
  | .gradientWriteRelease .. =>
      [.registers, .memory, .upd, .coll, .nrt, .cx]
  | .flowInstall .. | .flowReset .. =>
      [.registers, .shadows, .holds, .memory, .events, .nrt]
  | .reelRunWrite .. =>
      [.registers, .shadows, .holds, .memory, .events, .reel]
  | .clkgStepWrite .. =>
      [.time, .registers, .shadows, .holds, .events, .pwr]
  | .tileWake .. =>
      [.registers, .events, .tiles, .powers, .nrt, .hub, .pwr]
  | .detach .. | .sqEntryReread .. | .liveExpire .. | .busMasterClear .. | .dmaError .. | .flrPf .. | .flrVf .. =>
      [.registers, .memory, .events, .outputs, .hub, .host, .cx]
  | .evrHeadWrite .. =>
      [.registers, .shadows, .holds, .events, .outputs, .hub, .host]
  | .flashWrite .. | .stageWatchdog .. =>
      [.registers, .memory, .events, .outputs, .hub, .host, .cx, .rst]
  | .hold .. =>
      [.registers, .memory, .events, .tiles, .reel, .upd, .coll, .hub]
  | .cqDoorbell .. | .attach .. | .fnDetachWrite .. =>
      [.registers, .shadows, .holds, .memory, .events, .outputs, .hub, .host, .cx]
  | .tileRunWrite .. =>
      [.registers, .shadows, .holds, .memory, .events, .tiles, .powers, .nrt, .hub, .pwr]
  | .matmul .. | .arrayDescriptor .. | .arrayPrepassDone .. | .splitPartialReceive .. | .splitStall .. | .chain .. | .chainDescriptor ..
  | .dispatch .. | .nop .. | .endProgram .. | .fence .. | .setix .. | .moveLocal .. | .moveToTile .. | .moveFromObj .. | .moveToObj .. | .listOut ..
  | .listBack .. | .recv .. | .signal .. | .wait .. | .clap .. | .arrive .. | .clapWait .. | .clapperTimeout .. | .cue .. | .loopCount ..
  | .loopIx .. | .skipTest .. | .skipRelease .. | .slateSet .. | .takeBegin .. | .takeAbort .. | .reelTableCopyDone .. | .clapRelease .. =>
      [.registers, .shadows, .memory, .events, .tiles, .reel, .job, .upd, .coll, .hub, .pwr]
  | .standinSwapReactive .. =>
      [.registers, .shadows, .memory, .events, .tiles, .powers, .reel, .job, .upd, .coll, .hub, .pwr]
  | .outputStageDrained .. | .chainVector .. | .takeEnd .. | .reelEntryPlaced .. | .updCmd .. | .groupUpdate .. =>
      [.registers, .shadows, .memory, .events, .tiles, .reel, .job, .upd, .coll, .hub, .cx, .pwr]
  | .build .. | .seal .. | .expand .. | .send .. | .sendNotify .. | .sendList .. | .nak .. =>
      [.registers, .shadows, .memory, .events, .tiles, .reel, .job, .upd, .coll, .nrt, .hub, .pwr]
  | .rd .. | .rdLine .. | .flush .. | .wr .. | .wrLine .. | .rdData .. | .csrData .. | .cmpl .. | .cap .. | .err .. | .firewallTimeout ..
  | .moduleTrained .. | .sidebandMessage .. =>
      [.registers, .shadows, .memory, .events, .outputs, .tiles, .reel, .job, .upd, .coll, .hub, .cx, .pwr]
  | .notificationDeliver .. =>
      [.registers, .shadows, .memory, .events, .tiles, .reel, .job, .upd, .coll, .nrt, .hub, .cx, .pwr]
  | .flowFail .. | .scrubStep .. =>
      [.registers, .shadows, .memory, .events, .tiles, .reel, .job, .upd, .coll, .nrt, .ports, .hub, .pwr]
  | .csrRd .. =>
      [.registers, .shadows, .latches, .memory, .events, .outputs, .tiles, .reel, .job, .upd, .coll, .hub, .cx, .pwr]
  | .resetNote .. =>
      [.registers, .shadows, .memory, .events, .outputs, .tiles, .reel, .job, .upd, .coll, .hub, .cx, .pwr, .rst]
  | .stopJob .. =>
      [.registers, .shadows, .memory, .events, .outputs, .tiles, .reel, .job, .upd, .coll, .hub, .host, .cx, .pwr]
  | .versionedReadResume .. | .portUp .. | .portDown .. | .linkRetrain .. | .readReq .. | .ack .. | .ackSend .. | .rtoRetransmit .. =>
      [.registers, .shadows, .memory, .events, .outputs, .tiles, .reel, .job, .upd, .coll, .nrt, .ports, .hub, .pwr]
  | .retrain .. | .macRunWrite .. | .nrtRunWrite .. =>
      [.registers, .shadows, .holds, .memory, .events, .outputs, .tiles, .reel, .job, .upd, .coll, .nrt, .ports, .hub, .pwr]
  | .snapshot .. =>
      [.registers, .shadows, .memory, .events, .outputs, .tiles, .reel, .job, .upd, .coll, .nrt, .hub, .host, .cx, .pwr]
  | .slotBWriteRelease .. | .groupUpdateDone .. | .write .. | .writeNotify .. | .readResp .. =>
      [.registers, .shadows, .memory, .events, .outputs, .tiles, .reel, .job, .upd, .coll, .nrt, .ports, .hub, .cx, .pwr]
  | .cageSurveyStart .. | .cmisReadDone .. | .cmisReadTimeout .. | .cageSignalDetect .. | .modprslChange .. =>
      [.registers, .shadows, .memory, .events, .outputs, .tiles, .reel, .job, .upd, .coll, .nrt, .ports, .hub, .pwr, .rst]
  | .registerWrite .. | .supplyInputOutOfRange .. | .resurvey .. | .clapx .. | .join .. | .joinAck .. | .moduleLossTimeout .. | .drainedReport ..
  | .drained .. | .updDoneReport .. | .updDone .. | .clapArrive .. | .journalAck .. | .restore .. | .restored .. | .collResume .. | .collRunWrite ..
  | .mgmt .. | .packetTransmit .. | .nakRetry .. | .loadJob .. | .startJob .. | .perst .. | .csrWr .. | .pwr .. | .thermalTrip .. | .powerOn ..
  | .brownout .. | .nreset .. | .keeperWatchdog .. | .deviceReset .. | .twinReq .. | .twinResetRequest .. | .ready .. | .startFailure ..
  | .stageBoot .. | .blockResetUpd .. | .blockResetStack .. | .blockResetField .. | .blockResetMgmt .. | .stageRestartDone .. | .recoveryExit ..
  | .plannedSwapComplete .. | .powerLoss .. => StatePart.all

end Sys2Proof.Machine
end

