-- ==== Sys2Proof/WellFormed.lean ====
section
/-! DEFINITION. Which commands are well formed: every operand in the range that the spec gives it. `exec` needs none of it to be total. -/

namespace Sys2Proof

open Sys2Proof.Machine

/-! The ranges. -/

def lt (n x : Nat) : Bool := decide (x < n)

/-- Logical tiles (R1), ports (R381), functions and their streams (R451, R617), modules of the links (R479). -/
def inTiles (x : Nat) : Bool := lt 180 x
def inPorts (x : Nat) : Bool := lt 9 x
def inFns (x : Nat) : Bool := lt 9 x
def inMods (x : Nat) : Bool := lt 104 x

/-- The master codes of R585. -/
def inMasters (m : Nat) : Bool := lt 0xB4 m || (decide (0xC0 ≤ m) && decide (m ≤ 0xC9)) || (decide (0xD0 ≤ m) && decide (m ≤ 0xD8))

/-- The sizes of a register access (R10). -/
def accessSize (n : Nat) : Bool := decide (n = 1) || decide (n = 2) || decide (n = 4)

/-- A byte string of a length. -/
def bytesOk (n : Nat) (b : List Byte) : Bool := decide (b.length = n)

/-- An NRT packet's fields are as wide as R414 has them. -/
def packetOk (p : Packet) : Bool :=
  lt 16 p.ver && lt 16 p.op && lt 4096 p.dstFlow && lt 4096 p.srcFlow && lt 256 p.epoch && lt 8 p.path && lt (2 ^ 24) p.psn && lt (2 ^ 32) p.key &&
    lt (2 ^ 40) p.offset && lt (2 ^ 16) p.length && lt (2 ^ 64) p.slate && lt (2 ^ 64) p.bitmap && lt 9 p.port && lt 9217 p.payload.length

/-- A read's fields are as wide as R414 and R415 have them. -/
def askOk (a : ReadAsk) : Bool :=
  lt (2 ^ 32) a.key && lt (2 ^ 40) a.offset && lt (2 ^ 32) a.length && lt (2 ^ 32) a.respKey && lt (2 ^ 64) a.respOffset && lt (2 ^ 64) a.slate

/-- A management message's fields are as wide as R345 has them. -/
def msgOk (m : Msg) : Bool := lt 256 m.type && lt 256 m.epoch && lt (2 ^ 16) m.module && lt (2 ^ 32) m.seq && lt (2 ^ 64) m.slate && bytesOk 48 m.arg

/-- A Craxis message's fields are as wide as R486 has them and its data as long as R487 has it. -/
def cxOk (bytes : Nat) (m : CxMsg) : Bool :=
  decide (m.len = 0) && lt (2 ^ 16) m.tag && lt (2 ^ 48) m.addr && lt 256 m.master && lt 4 m.vc && lt 1024 m.num && bytesOk bytes m.data

/-- A message's address is a multiple of n from the base that its receiver counts from (R7, R487). -/
def cxAligned (out : Bool) (via n : Nat) (m : CxMsg) : Bool := decide ((m.addr - cxBase out via m.addr) % n = 0)

/-- The range of an RD or a WR that arrives stays within one aligned group of 8 line pairs (R487). A transfer of the hub may have more, up to a tile's
16,384 line pairs: it goes out as a message for each group (R488). -/
def cxRange (out : Bool) (via : Nat) (m : CxMsg) : Bool :=
  if out then lt 16384 m.len else lt 8 ((m.addr - cxBase out via m.addr) / 192 % 8 + m.len)

/-- Where a Craxis message goes by: a link when the hub sends it, a module when it arrives. Only one that arrives may have a reserved opcode. -/
def viaOk (out : Bool) (via : Nat) (m : CxMsg) : Bool :=
  (if out then lt 6 via else inMods via) && m.code.all (fun c => !out && lt 256 c && !cxOpcodes.contains c)

/-- A response that the hub sends names the module of its request (R490). -/
def cxAnswerOk (out : Bool) (via : Nat) (m : CxMsg) : Bool := !out || (cxMods via).contains m.num

/-- A register access over the sideband. -/
def sideOk (a : SideAccess) : Bool := inMasters a.master && lt (2 ^ 48) a.addr && a.value.all (lt (2 ^ 32))
def sideMsgOk (x : SideMsg) : Bool :=
  match x with
  | .access a => sideOk a
  | .link | .other => true

/-- A place of R579. -/
def eccOk : EccPlace → Bool
  | .mem a => lt (2 ^ 48) a
  | .read a => lt (2 ^ 48) a
  | .imem t pc => inTiles t && lt 8192 pc
  | .parity t => inTiles t
  | .residue t => inTiles t
  | .key i => lt (2 ^ 18) i
  | .packet f p => lt 4096 f && lt (2 ^ 24) p
  | .received p => inPorts p
  | .chunk b t _ _ _ => lt (2 ^ 16) b && lt (2 ^ 32) t
  | .reelLine a => lt (2 ^ 48) a
  | .event => true
  | .updSram _ => true

/-- Is a command well formed? -/
def Instr.wf : Instr → Bool
  | .registerWrite master off value => inMasters master && lt (2 ^ 30) off && lt (2 ^ 32) value
  | .csrBadAccess master off size _ => inMasters master && lt (2 ^ 30) off && accessSize size
  | .loReadLatch master off => inMasters master && lt (2 ^ 30) off
  | .rwsShadowApply _ => true
  | .unmappedAccess master addr _ => inMasters master && lt (2 ^ 48) addr
  | .keeperBoot _ => true
  | .supplySurveyRetry _ => true
  | .supplyInputOutOfRange _ => true
  | .supplyInputRestored supply => lt 3 supply.input
  | .cageSurveyStart _ => true
  | .cmisReadDone cage media length klass _ => lt 5 cage && lt 6 media && decide (1 ≤ media) && lt 256 length && lt 9 klass
  | .cmisReadTimeout cage => lt 5 cage
  | .cageSignalDetect cage lanes => lt 5 cage && lt 256 lanes
  | .modprslChange cage _ => lt 5 cage
  | .resurvey master value _ => inMasters master && lt (2 ^ 32) value
  | .airflowReversed => true
  | .pldmRequest op _ => lt 128 op.addr
  | .getVersion req => lt 128 req.addr
  | .getCapabilities req => lt 128 req.addr
  | .negotiateAlgorithms req => lt 128 req.addr
  | .getDigests req => lt 128 req.addr
  | .getCertificate req => lt 128 req.addr
  | .challenge req => lt 128 req.addr
  | .getMeasurements req => lt 128 req.addr
  | .matmul tile => inTiles tile
  | .arrayDescriptor tile => inTiles tile
  | .arrayPrepassStart tile => inTiles tile
  | .arrayPrepassDone tile => inTiles tile
  | .arrayPassDone tile => inTiles tile
  | .outputStageDrained tile => inTiles tile
  | .splitPartialReceive tile => inTiles tile
  | .splitStall tile => inTiles tile
  | .chain tile => inTiles tile
  | .chainDescriptor tile => inTiles tile
  | .chainInterlockStart tile => inTiles tile
  | .chainVector tile => inTiles tile
  | .chainDescriptorComplete tile => inTiles tile
  | .dispatch tile => inTiles tile
  | .build tile => inTiles tile
  | .seal tile => inTiles tile
  | .expand tile => inTiles tile
  | .nop tile => inTiles tile
  | .endProgram tile => inTiles tile
  | .fence tile => inTiles tile
  | .setix tile => inTiles tile
  | .moveLocal tile => inTiles tile
  | .moveToTile tile => inTiles tile
  | .moveFromObj tile => inTiles tile
  | .moveToObj tile => inTiles tile
  | .listOut tile => inTiles tile
  | .listBack tile => inTiles tile
  | .moveComplete tile => inTiles tile
  | .send tile => inTiles tile
  | .sendNotify tile => inTiles tile
  | .sendList tile => inTiles tile
  | .recv tile => inTiles tile
  | .signal tile => inTiles tile
  | .signalDeliver tile => inTiles tile
  | .wait tile => inTiles tile
  | .clap tile => inTiles tile
  | .arrive tile => inTiles tile
  | .clapWait tile => inTiles tile
  | .clapx tile => inTiles tile
  | .clapperTimeout tile => inTiles tile
  | .cue tile => inTiles tile
  | .loopCount tile => inTiles tile
  | .loopIx tile => inTiles tile
  | .skipTest tile => inTiles tile
  | .skipRelease tile => inTiles tile
  | .slateSet tile => inTiles tile
  | .takeBegin tile => inTiles tile
  | .takeEnd tile => inTiles tile
  | .takeAbort tile => inTiles tile
  | .standinSwapReactive tile => inTiles tile
  | .takeReplayResume tile => inTiles tile
  | .tileRunWrite master tile value => inMasters master && inTiles tile && lt (2 ^ 32) value
  | .tileSeqEcWrite master tile n value => inMasters master && inTiles tile && lt 8 n && lt (2 ^ 32) value
  | .reelRunWrite master value => inMasters master && lt (2 ^ 32) value
  | .reelTableCopyDone => true
  | .reelEntryPlaced _ tile => inTiles tile
  | .reelDeadlineMiss _ tile => inTiles tile
  | .versionedReadResume _ n => lt 4096 n
  | .slotBWriteRelease _ flow => lt 4096 flow
  | .verWriteBack object => lt (2 ^ 16) object
  | .updCmd msg => msgOk msg
  | .layerGradientPresent layer step => lt 4096 layer && lt (2 ^ 32) step
  | .groupUpdate => true
  | .groupUpdateDone => true
  | .gradientWriteRelease bucket step => lt (2 ^ 16) bucket && lt (2 ^ 32) step
  | .snapCommand => true
  | .snapGroupRead => true
  | .updtRunWrite master value => inMasters master && lt (2 ^ 32) value
  | .updtGroupApply master value => inMasters master && lt (2 ^ 32) value
  | .join msg => msgOk msg
  | .joinTimeout => true
  | .joinAck msg => msgOk msg
  | .heartbeatSend dest => lt (2 ^ 16) dest
  | .heartbeat msg => msgOk msg
  | .moduleLossTimeout module => lt (2 ^ 16) module
  | .drainedReport step => lt (2 ^ 32) step
  | .drained msg => msgOk msg
  | .updDoneReport t => lt (2 ^ 32) t
  | .updDone msg => msgOk msg
  | .clapArrive msg => msgOk msg
  | .clapRelease msg => msgOk msg
  | .journal msg => msgOk msg
  | .journalAck msg => msgOk msg
  | .manager msg => msgOk msg
  | .hold msg => msgOk msg
  | .restore msg _ => msgOk msg
  | .restored msg => msgOk msg
  | .collResume master value => inMasters master && lt (2 ^ 32) value
  | .collRunWrite master value => inMasters master && lt (2 ^ 32) value
  | .collectiveStall bucket step child => lt (2 ^ 16) bucket && lt (2 ^ 32) step && lt (2 ^ 16) child
  | .portSignalDetect port => inPorts port
  | .autonegRetry port _ => inPorts port
  | .portUp port => inPorts port
  | .portDown port => inPorts port
  | .linkRetrain port _ _ _ => inPorts port
  | .retrain master port value => inMasters master && inPorts port && lt (2 ^ 32) value
  | .retrainTimeout port => inPorts port
  | .macRunWrite master port value => inMasters master && inPorts port && lt (2 ^ 32) value
  | .frameReceive port _ => inPorts port
  | .pfcFrame port mask _ _ => inPorts port && lt 256 mask
  | .mgmtQueueSend port _ => inPorts port
  | .lldpTransmit port => inPorts port
  | .lldpduReceive port mac _ _ _ => inPorts port && lt (2 ^ 48) mac
  | .lldpPartnerExpire port => inPorts port
  | .topologyPublish => true
  | .pdelayExchange port _ => inPorts port
  | .ptpLost port => inPorts port
  | .stepDownRequest port => inPorts port
  | .stepUpRequest port => inPorts port
  | .stepTlv port _ _ _ => inPorts port
  | .stepSpeedChange port => inPorts port
  | .stepSpeedUp port => inPorts port
  | .stepRequestAbandon port => inPorts port
  | .lpiEnter port _ => inPorts port
  | .lpiWake port _ => inPorts port
  | .write pkt => packetOk pkt
  | .writeNotify pkt => packetOk pkt
  | .readReq pkt => packetOk pkt
  | .readResp pkt => packetOk pkt
  | .ack pkt => packetOk pkt
  | .nak pkt => packetOk pkt
  | .mgmt pkt => packetOk pkt
  | .notificationDeliver flow => lt 4096 flow
  | .ackSend flow => lt 4096 flow
  | .packetTransmit x => lt 4096 x.flow && x.ask.all askOk
  | .rtoRetransmit flow psn => lt 4096 flow && lt (2 ^ 24) psn
  | .nakRetry flow psn => lt 4096 flow && lt (2 ^ 24) psn
  | .flowFail flow => lt 4096 flow
  | .ratePeriod flow => lt 4096 flow
  | .ringFullTimeout ring => lt 64 ring
  | .keyInstall master value => inMasters master && lt (2 ^ 32) value
  | .keyRevoke master value => inMasters master && lt (2 ^ 32) value
  | .keyClear master value => inMasters master && lt (2 ^ 32) value
  | .keyRetire index => lt (2 ^ 18) index
  | .keyRevokeSlow index => lt (2 ^ 18) index
  | .flowInstall master value => inMasters master && lt (2 ^ 32) value
  | .flowReset master value => inMasters master && lt (2 ^ 32) value
  | .nrtRunWrite master value => inMasters master && lt (2 ^ 32) value
  | .hostNop fn ring => inFns fn && lt 4 ring
  | .loadJob fn ring _ => inFns fn && lt 4 ring
  | .startJob fn ring => inFns fn && lt 4 ring
  | .stopJob fn ring => inFns fn && lt 4 ring
  | .query fn ring => inFns fn && lt 4 ring
  | .snapshot fn ring => inFns fn && lt 4 ring
  | .flashWrite fn x => inFns fn && lt 4 x.ring
  | .detach fn ring => inFns fn && lt 4 ring
  | .sqDoorbell master fn ring value => inMasters master && inFns fn && lt 4 ring && lt (2 ^ 32) value
  | .sqEntryRead fn ring entry => inFns fn && lt 4 ring && bytesOk 64 entry
  | .sqEntryReread fn ring entry => inFns fn && lt 4 ring && bytesOk 64 entry
  | .cqDoorbell master fn ring value => inMasters master && inFns fn && lt 4 ring && lt (2 ^ 32) value
  | .cqFullTimeout fn ring => inFns fn && lt 4 ring
  | .evrHeadWrite master fn value => inMasters master && inFns fn && lt (2 ^ 32) value
  | .interruptCoalesce fn ring => inFns fn && lt 4 ring
  | .attach master fn value _ numVfs => inMasters master && inFns fn && lt (2 ^ 32) value && lt 9 numVfs
  | .fnDetachWrite master fn value => inMasters master && inFns fn && lt (2 ^ 32) value
  | .fnLive master fn value => inMasters master && inFns fn && lt (2 ^ 32) value
  | .liveExpire fn => inFns fn
  | .busMasterClear fn => inFns fn
  | .dmaError fn => inFns fn
  | .perst => true
  | .flrPf => true
  | .flrVf fn => inFns fn
  | .pcieLinkUp _ _ => true
  | .bar2Access fn aperture offset _ _ => inFns fn && lt 8 aperture && lt (2 ^ 23) offset
  | .flitCrcFail x => inMods x.mod && lt 56 x.good && bytesOk 32 x.bytes
  | .linkAck mod seq => inMods mod && lt 1024 seq
  | .linkReplay mod seq => inMods mod && lt 1024 seq
  | .craxisAckSend mod => inMods mod
  | .replayRepeat mod => inMods mod
  | .rd out via msg => viaOk out via msg && cxOk 0 { msg with len := 0 } && cxAligned out via 192 msg && cxRange out via msg
  | .rdLine out via msg => viaOk out via msg && cxOk 0 msg && cxAligned out via 96 msg
  | .flush out via msg => viaOk out via msg && cxOk 0 msg
  | .csrRd out via msg => viaOk out via msg && cxOk 0 msg && decide (msg.addr % 4 = 0)
  | .wr out via msg =>
    viaOk out via msg && cxOk (192 * (msg.len + 1)) { msg with len := 0 } && cxAligned out via 192 msg && cxRange out via msg
  | .wrLine out via msg => viaOk out via msg && cxOk 96 msg && cxAligned out via 96 msg
  | .csrWr out via msg => viaOk out via msg && cxOk 4 msg && decide (msg.addr % 4 = 0)
  | .rdData out via msg => viaOk out via msg && cxOk msg.data.length { msg with len := 0 } && lt 8 msg.len && lt 1537 msg.data.length && cxAnswerOk out via msg
  | .csrData out via msg => viaOk out via msg && cxOk 4 msg && cxAnswerOk out via msg
  | .cmpl out via msg => viaOk out via msg && cxOk 0 msg && cxAnswerOk out via msg
  | .cap out via msg => viaOk out via msg && cxOk 16 msg
  | .err mod msg addr _ => viaOk false mod msg && cxOk 16 msg && lt (2 ^ 48) addr
  | .firewallTimeout stack tag => lt 4 stack && lt (2 ^ 16) tag
  | .pwr out via msg => viaOk out via msg && cxOk 16 msg
  | .resetNote out via msg => viaOk out via msg && cxOk 4 msg
  | .moduleTrained mod hubFail farFail cap' => inMods mod && lt (2 ^ 18) hubFail && lt (2 ^ 18) farFail && bytesOk 16 cap'
  | .trainingTimeout mod => inMods mod
  | .laneFault mod => inMods mod
  | .recalibration mod => inMods mod
  | .craxisRetrainDone mod hubFail farFail => inMods mod && lt (2 ^ 18) hubFail && lt (2 ^ 18) farFail
  | .interleaveRebuildDone link => lt 6 link
  | .farDieResetEnter die => lt 8 die
  | .farDieResetRelease die => lt 8 die
  | .relearn master link value => inMasters master && lt 6 link && lt (2 ^ 32) value
  | .powerControlTick _ _ _ => true
  | .sensorRecover => true
  | .powerModelDivergence => true
  | .divergenceClear => true
  | .computePointLower group => lt 12 group
  | .computePointRaise group => lt 12 group
  | .pointChangeDone group => lt 12 group
  | .recal master value => inMasters master && lt (2 ^ 32) value
  | .powerFracWrite master value => inMasters master && lt (2 ^ 32) value
  | .droopDetect group => lt 12 group
  | .droopStretchEnd group => lt 12 group
  | .droopPersistent group => lt 12 group
  | .thermalSample _ => true
  | .thermalThrottle row _ => lt 7 row
  | .thermalRecover row _ => lt 7 row
  | .pwrReportOverdue row _ => lt 7 row
  | .thermalTrip row _ => lt 7 row
  | .tileRetain tile => inTiles tile
  | .tileWake tile => inTiles tile
  | .tileGroupPllStop group => lt 12 group
  | .hourRecord hours => lt (2 ^ 32) hours
  | .clkgStepWrite master value => inMasters master && lt (2 ^ 32) value
  | .clkgTrimWrite master value => inMasters master && lt (2 ^ 32) value
  | .powerOn => true
  | .brownout => true
  | .nreset => true
  | .keeperWatchdog => true
  | .keeperWdogKick master value => inMasters master && lt (2 ^ 32) value
  | .deviceReset master value => inMasters master && lt (2 ^ 32) value
  | .twinReq master value => inMasters master && lt (2 ^ 32) value
  | .twinReqRepeat => true
  | .twinResetRequest _ _ => true
  | .ready master value => inMasters master && lt (2 ^ 32) value
  | .startFailure => true
  | .resetIntervalEnd _ => true
  | .dieRelease die => lt 8 die
  | .thermalWaitEnd => true
  | .stageBoot => true
  | .blockResetUpd master value => inMasters master && lt (2 ^ 32) value
  | .blockResetStack master value => inMasters master && lt (2 ^ 32) value
  | .blockResetField master value => inMasters master && lt (2 ^ 32) value
  | .blockResetMgmt master value => inMasters master && lt (2 ^ 32) value
  | .blockResetDone bit => lt 32 bit
  | .stageWdogKick master value => inMasters master && lt (2 ^ 32) value
  | .stageWatchdog => true
  | .stageRestartDone master value => inMasters master && lt (2 ^ 32) value
  | .recoveryRead addr len => lt (2 ^ 26) addr && lt (2 ^ 17) len
  | .recoveryErase x => lt (2 ^ 26) x.addr
  | .recoveryProgram x len _ => lt (2 ^ 26) x.addr && lt (2 ^ 17) len
  | .recoveryExit => true
  | .scrubStep place _ _ => eccOk place
  | .dramRowRepair addr _ => lt (2 ^ 48) addr
  | .backgroundForced kind => lt 6 kind
  | .plannedSwapRequest master value => inMasters master && lt (2 ^ 32) value
  | .plannedSwapComplete x => inTiles x.tile && x.bad.all (lt 8192)
  | .eventRingWrite => true
  | .eventRingCopy => true
  | .dailiesTick => true
  | .dailiesRecordWrite stream => inFns stream
  | .dlyEnableWrite master stream value => inMasters master && inFns stream && lt (2 ^ 32) value
  | .bwWindowEnd => true
  | .bwWindowWrite master value => inMasters master && lt (2 ^ 32) value
  | .sampleWrite tile => inTiles tile
  | .powerLoss => true
  | .portSignalLost port => inPorts port
  | .pfcPauseExpire port prio _ => inPorts port && lt 8 prio
  | .roomToneLevelZero tile => inTiles tile
  | .negativeStepAbsorbed => true
  | .sidebandMessage stack x => lt 4 stack && sideMsgOk x
  | .creditReturn mod vc flits => inMods mod && lt 4 vc && lt 16 flits

end Sys2Proof
end

