-- ==== Sys2Proof/Certificates/Slice0/Obligations.lean ====
section
/-! DEFINITION. The statements made of the module: of the machine as a whole, then of its commands family by family: what each does, that it completes, and
what it leaves as it was. -/

open Sys2Proof Sys2Proof.Machine

/-! The machine as a whole. -/

/-- The command at the front of the queue runs, on the state with the queue's rest. -/
def Obligations.StepRunsFront : Prop :=
  ∀ (c : Instr) (rest : List Instr) (s : State), s.pending = c :: rest → Machine.step s = exec c { s with pending := rest }

/-- On an empty queue an edge of the reference passes (the model's choice, log entry 1): a powered module's time counter moves by the 40 ns of a 25 MHz period while
neither trimmed nor stepped (R20, R514), and nothing of an unpowered one changes. -/
def Obligations.EmptyQueueTicks : Prop :=
  ∀ s : State, s.pending = [] →
    (s.rst.powered = false → Machine.step s = .next s) ∧
    (s.rst.powered = true → s.trim = 0 → s.pwr.neg = 0 → s.pwr.frac < 1000000000 →
      ∃ t, Machine.step s = .next t ∧ t.time = (s.time + 40) % 2 ^ 64 ∧ t.pwr.frac = s.pwr.frac ∧ t.mem = s.mem ∧ t.undef = s.undef ∧ t.tiles = s.tiles ∧
        t.out = s.out ∧ t.events = s.events)

/-- The state right after power-on is sound. -/
def Obligations.ResetIsSound : Prop := State.reset.Inv

/-- Every step keeps a state sound: memory lists no byte twice, none that has no storage and none that reads as unlisted; the tables of Safety.lean keep their canonical form;
reserved bits stay 0 (R9); the event buffer keeps to its 4,096 records (R588). -/
def Obligations.StepKeepsSound : Prop := ∀ s t : State, s.Inv → Machine.step s = .next t → t.Inv

/-- Every command answers a next state. It leaves the waiting commands as they are, takes back nothing given to the outside, and never runs the counts of free values and
of undefined ranges backwards. -/
def Obligations.EveryCommandAnswers : Prop :=
  ∀ (c : Instr) (s : State), Completes c s (fun t =>
    t.pending = s.pending ∧ s.out <:+ t.out ∧ s.freeCount ≤ t.freeCount ∧ s.epoch ≤ t.epoch)

/-- What a command leaves as it was: every part of the module but those it may change, in every state. -/
def Obligations.CommandsLeaveOtherParts : Prop :=
  ∀ (c : Instr) (s t : State), exec c s = .next t → ∀ p : StatePart, p ∉ mayChange c → p.stands s t

/-- Reserved bits read as 0 in every sound state, and what a write puts into them changes nothing of any register. -/
def Obligations.ReservedBitsReadZero : Prop :=
  ∀ s : State, s.Inv → ∀ (m off v : Nat),
    s.reg off &&& ~~~ BitVec.ofNat 32 (implMask off) = 0 ∧
    (∀ h : RegHit, findReg off = some h → h.spec.kind = .plain → ownEffect off = false → s.place m off true = .reg off →
      Completes (.registerWrite m off v) s (fun t =>
        Completes (.registerWrite m off (v &&& implMask off)) s (fun u => ∀ o, t.reg o = u.reg o)))

/-- A word written into a register that has no other effect: where no field refuses its part, the register's word is all that changes. -/
def Obligations.PlainWriteChangesItsWord : Prop :=
  ∀ (s : State) (m off v : Nat) (h : RegHit), findReg off = some h → h.spec.kind = .plain → h.spec.hasRws = false → ownEffect off = false →
    s.place m off true = .reg off → mayWrite m off = true →
    (h.spec.write m (s.running h) (s.reg off).toNat v).privilege = false → (h.spec.write m (s.running h) (s.reg off).toNat v).whileRunning = false →
    exec (.registerWrite m off v) s = .next { s with
      regs := Store.set regReset s.regs off
        (BitVec.ofNat 32 (h.spec.write m (s.running h) (s.reg off).toNat v).value &&& BitVec.ofNat 32 (implMask off)) }

/-- What a write makes of each field, by its access type (R8), by who writes (R11) and by its block's RUN (R13). A write by keeper firmware to a register that it may only
read (R572) changes none and is told of (log entry 222). -/
def Obligations.FieldsTakeWritesByType : Prop :=
  ∀ s : State, s.Inv → ∀ (m off v : Nat) (h : RegHit) (f : FieldSpec), findReg off = some h → h.spec.kind = .plain → ownEffect off = false →
    s.place m off true = .reg off → f ∈ h.spec.fields → pmonCounter off = false →
    Completes (.registerWrite m off v) s (f.takes h m off v s)

/-- A write to an RWL field from another master than keeper firmware is ignored: no RWL field of any register changes. It is told of when the written value differs from the
field's (of a 64-bit quantity, when its HI commits the halves); one that changes none is silent; the register's other fields take the write by their types. The registers are all
that have an RWL field: those without an effect of their own, and the three kinds with one. -/
def Obligations.KeeperAloneWritesRwl : Prop :=
  ∀ s : State, s.Inv → ∀ (m off v : Nat) (h : RegHit), findReg off = some h → (h.spec.fields.any (fun f => decide (f.ty = .rwl))) = true →
    ownEffect off = false ∨ rwlWithEffect off = true → s.place m off true = .reg off → m ≠ mKeeper →
    Completes (.registerWrite m off v) s (fun t =>
      (∀ (o : Nat) (g : RegHit), findReg o = some g → ∀ f ∈ g.spec.fields, f.ty = .rwl → f.part (t.reg o).toNat = f.part (s.reg o).toNat) ∧
      (h.spec.kind ≠ .lo → ∀ f ∈ h.spec.fields, f.ty = .rwl → f.part v ≠ f.part (s.reg off).toNat → s.Told t Ev.csrPrivilege (masterSrc m) off) ∧
      (h.spec.kind = .hi → ∀ (w : W32) (l : RegHit), Store.get (fun _ => none) s.holds (masterKey m (off - 4)) = some w → findReg (off - 4) = some l →
        ∀ f ∈ l.spec.fields, f.ty = .rwl → f.part w.toNat ≠ f.part (s.reg (off - 4)).toNat → s.Told t Ev.csrPrivilege (masterSrc m) (off - 4)) ∧
      (h.spec.kind = .lo → t.events = s.events) ∧
      (h.spec.kind = .plain → (∀ f ∈ h.spec.fields, f.ty = .rwl → f.part v = f.part (s.reg off).toNat) →
        ∀ x ∈ t.events.drop s.events.length, x.code ≠ Ev.csrPrivilege.code) ∧
      (h.spec.kind = .plain → ∀ f ∈ h.spec.fields, f.ty ≠ .rwl → f.takes h m off v s t))

/-- Reading LO latches HI for the master that reads; reading HI gives the master what it has latched, or HI as it stands; no register changes. -/
def Obligations.LoReadLatchesHi : Prop :=
  ∀ (s : State) (m off : Nat) (h : RegHit), off % 4 = 0 → findReg off = some h → s.place m off false = .reg off →
    (h.spec.kind = .plain → exec (.loReadLatch m off) s = .next { s with out := .readData m off (s.regView off) :: s.out }) ∧
    (h.spec.kind = .lo → exec (.loReadLatch m off) s = .next { s with
      latches := Store.set (fun _ => none) s.latches (masterKey m (off + 4)) (some (BitVec.ofNat 32 (s.regView (off + 4))))
      out := .readData m off (s.regView off) :: s.out }) ∧
    (h.spec.kind = .hi → ∀ w : W32, Store.get (fun _ => none) s.latches (masterKey m off) = some w →
      exec (.loReadLatch m off) s = .next { s with out := .readData m off w.toNat :: s.out }) ∧
    (h.spec.kind = .hi → Store.get (fun _ => none) s.latches (masterKey m off) = none →
      exec (.loReadLatch m off) s = .next { s with out := .readData m off (s.regView off) :: s.out })

/-- A register access that is unaligned, crosses a word or is a narrow write gives 0 or is ignored, and is told of; a read of an unmapped address gives 0, a write to one is
dropped, and both are told of. None changes memory, a latch or a register, the hub's programmable counters apart. -/
def Obligations.BadAccessesAreRefused : Prop :=
  ∀ (s : State) (m a n : Nat),
    (4 < a % 4 + n → Completes (.csrBadAccess m a n false) s (fun t =>
      .readData m a 0 ∈ t.out ∧ s.Told t Ev.csrAccess (masterSrc m) (a % 2 ^ 32 + n % 2 ^ 8 * 2 ^ 32) ∧
      t.latches = s.latches ∧ t.mem = s.mem ∧ t.undef = s.undef ∧ (s.Inv → ∀ o, pmonCounter o = false → o ≠ Reg.RAS_COUNT_LO 8 → o ≠ Reg.RAS_COUNT_HI 8 →
        t.reg o = s.reg o))) ∧
    (n ≠ 4 ∨ a % 4 ≠ 0 → Completes (.csrBadAccess m a n true) s (fun t =>
      t.out = s.out ∧ s.Told t Ev.csrAccess (masterSrc m) (a % 2 ^ 32 + n % 2 ^ 8 * 2 ^ 32 + 2 ^ 40) ∧
      t.latches = s.latches ∧ t.mem = s.mem ∧ t.undef = s.undef ∧ (s.Inv → ∀ o, pmonCounter o = false → o ≠ Reg.RAS_COUNT_LO 8 → o ≠ Reg.RAS_COUNT_HI 8 →
        t.reg o = s.reg o))) ∧
    (s.mapped m a false = false → Completes (.unmappedAccess m a false) s (fun t =>
      .readData m a 0 ∈ t.out ∧ s.Told t Ev.unmappedAccess (masterSrc m) a ∧ t.mem = s.mem ∧ t.undef = s.undef ∧
      (s.Inv → ∀ o, pmonCounter o = false → o ≠ Reg.RAS_COUNT_LO 8 → o ≠ Reg.RAS_COUNT_HI 8 → t.reg o = s.reg o))) ∧
    (s.mapped m a true = false → Completes (.unmappedAccess m a true) s (fun t =>
      t.out = s.out ∧ s.Told t Ev.unmappedAccess (masterSrc m) a ∧ t.mem = s.mem ∧ t.undef = s.undef ∧
      (s.Inv → ∀ o, pmonCounter o = false → o ≠ Reg.RAS_COUNT_LO 8 → o ≠ Reg.RAS_COUNT_HI 8 → t.reg o = s.reg o)))

/-- At the operation boundary of a block every pending shadow of it takes effect together: the RWS fields of each register take the shadow's bits, the rest of the
register stands, and registers outside the block stand. -/
def Obligations.ShadowsApplyTogether : Prop :=
  ∀ s : State, s.Inv → ∀ b : Nat, b ≠ 0x30000 → b ≠ 0xC00000 → Completes (.rwsShadowApply b) s (fun t =>
    (∀ (o : Nat) (w : W32) (h : RegHit), b ≤ o → o < blockEnd b → Store.get (fun _ => none) s.shadows o = some w → findReg o = some h →
      Store.get (fun _ => none) t.shadows o = none ∧
      t.reg o = BitVec.ofNat 32 (h.spec.applyShadow (s.reg o).toNat w.toNat) &&& BitVec.ofNat 32 (implMask o)) ∧
    (∀ o : Nat, (o < b ∨ blockEnd b ≤ o ∨ Store.get (fun _ => none) s.shadows o = none) → t.reg o = s.reg o) ∧
    t.mem = s.mem ∧ t.undef = s.undef ∧ t.tiles = s.tiles ∧ t.events = s.events)

/-! Supplies, cages, and the management bus. -/

/-- The supply survey sets the cap ceiling: 95 % of the limits that count, rounded down to 10 W, at most 800 W (R30). The start goes on from 300 W and waits below (R46); an
input restored counts again; one out of range stops counting, and a running module whose ceiling falls below 300 W browns out (R47). -/
def Obligations.SuppliesSetTheCeiling : Prop :=
  ∀ s : State, s.Inv → ∀ x : Supply,
    let ceil := fun (l : List Nat) => min 800 (l.sum * 95 / 100 / 10 * 10)
    let c := ceil (supplyLimits x)
    let left := (s.limits.zip (supplyLimits x)).map (fun p => if p.1 = 0 then 0 else p.2)
    let back := fun (i : Nat) => left.set i ((supplyLimits x).getD i 0)
    (s.rstState = stSupplyWait → Completes (.supplySurveyRetry x) s (fun t =>
      t.fld Fl.IDENT_CAP_CEILING_CEILING = c ∧ t.fld Fl.IDENT_SURVEY_SUPPLY_OK = (if 300 ≤ c then 1 else 0) ∧
      t.rstState = (if c < 300 then stSupplyWait else if s.pwr.tripAt.isSome then stThermalWait else stDies))) ∧
    (s.keeperRuns = true → ∀ i < 3, Completes (.supplyInputRestored ⟨i, x⟩) s (fun t =>
      t.fld Fl.IDENT_CAP_CEILING_CEILING = ceil (back i) ∧ t.fld Fl.IDENT_SURVEY_SUPPLY_OK = (if 300 ≤ ceil (back i) then 1 else 0) ∧
      t.fld Fl.PWRM_CAP_IN_FORCE = t.cap)) ∧
    (s.keeperRuns = true → 300 ≤ ceil left → Completes (.supplyInputOutOfRange x) s (fun t =>
      t.fld Fl.IDENT_CAP_CEILING_CEILING = ceil left ∧ t.fld Fl.PWRM_CAP_IN_FORCE = t.cap)) ∧
    (s.keeperRuns = true → s.rstState ≠ stSupplyWait → ceil left < 300 → Completes (.supplyInputOutOfRange x) s (fun t =>
      t.fld Fl.RSTC_CAUSE_CAUSE = s.causeKept 2 ∧ 2 ∈ t.rst.asserted ∧ t.rst.interval = true ∧ t.tiles = []))

/-- A survey of the cages: it starts on all five, a read records what it gives, a second read that fails is recorded with CMIS_OK 0, the signal ends a cage (R48), a change
of ModPrsL restarts the cage's read or begins a survey of the cage (R49, R50), a module above 12 W has its cage held (R36), and RESURVEY begins one of all five. The last cage of a survey to finish ends it: the results go into the registers in cage order, COUNT rises, and DONE follows (R48, R52). -/
def Obligations.CagesAreSurveyed : Prop :=
  (∀ (s : State) (c : Nat) (x : CageRead), s.keeperRuns = true →
      let other := s.rst.survey.any (fun e => decide (e.1 ≠ c) && !e.2.finished)
      (∀ l : List Bool, s.rst.firstSurvey = false → s.rst.survey = [] → (∃ i < 5, l.getD i false = true) →
        Completes (.cageSurveyStart l) s (fun t => t.rst.survey = (List.range 5).map (fun i => (i, CageRead.begin (l.getD i false) false)))) ∧
      (∀ (m v : Nat) (l : List Bool), s.rst.firstSurvey = true → s.rst.survey = [] → bitOf v 16 = true → (∃ i < 5, l.getD i false = true) →
        Completes (.resurvey m v l) s (fun t => t.rst.survey = (List.range 5).map (fun i => (i, CageRead.begin (l.getD i false) false)))) ∧
      (s.cageRead c = some x → x.read = false → other = true →
        (∀ media length klass watts : Nat, Completes (.cmisReadDone c media length klass watts) s (fun t => t.cageRead c = some { x with
          read := true, ok := true, media := media, length := length, klass := klass, lowPower := decide (120 < watts)
          finished := decide (120 < watts) || !s.cageOn c })) ∧
        (x.tries = 0 → Completes (.cmisReadTimeout c) s (fun t => t.cageRead c = some { x with tries := 1 })) ∧
        (x.tries ≠ 0 → Completes (.cmisReadTimeout c) s (fun t => t.cageRead c = some { x with
          read := true, ok := false, media := 4, length := 0xFF, klass := 0, lowPower := false, finished := !s.cageOn c || s.cageHeld c })) ∧
        (∀ p : Bool, x.restarts < 2 → Completes (.modprslChange c p) s (fun t => t.cageRead c = some { CageRead.begin p x.changed with
          restarts := x.restarts + 1 })) ∧
        (∀ p : Bool, 2 ≤ x.restarts → Completes (.modprslChange c p) s (fun t =>
          t.cageRead c = some { x with
            present := p, read := true, ok := false, media := if p then 4 else 0, length := if p then 0xFF else 0, klass := 0, lowPower := false
            signal := 0, finished := true }))) ∧
      (s.cageRead c = some x → x.read = true → x.finished = false → other = true → ∀ lanes : Nat,
        Completes (.cageSignalDetect c lanes) s (fun t => t.cageRead c = some { x with signal := lanes, finished := true })) ∧
      (s.cageRead c = none → s.rst.firstSurvey = true →
        Completes (.modprslChange c true) s (fun t => t.rst.survey = s.rst.survey ++ [(c, CageRead.begin true true)]))) ∧
  (∀ s : State, s.Inv → ∀ (c lanes : Nat) (x : CageRead), c < 5 → lanes < 16 → s.cageRead c = some x → x.read = true → x.finished = false →
      (∀ e ∈ s.rst.survey, e.1 ≠ c → e.2.finished = true) →
      Completes (.cageSignalDetect c lanes) s (fun t =>
        t.rst.survey = [] ∧ t.rst.firstSurvey = true ∧ t.fld (Fl.IDENT_CAGE_SIGNAL c) = lanes ∧
        t.fld Fl.IDENT_SURVEY_COUNT = min (s.fld Fl.IDENT_SURVEY_COUNT + 1) 255 ∧ s.Keeps t)) ∧
  (∀ s : State, s.Inv → ∀ (c media length klass watts : Nat) (x : CageRead), c < 5 → s.cageRead c = some x → x.read = false → 120 < watts →
      (∀ e ∈ s.rst.survey, e.1 ≠ c → e.2.finished = true) →
      Completes (.cmisReadDone c media length klass watts) s (fun t =>
        t.rst.survey = [] ∧ t.fld (Fl.IDENT_CAGE_LOWPWR c) = 1 ∧ t.fld (Fl.IDENT_CAGE_MODE c) = 0))


/-- Reversed air is told of above 200 W; PLDM reads module power and the events, and sets the cap, and is answered at the module's SMBus address only, 0x4E by default (R39, R43, R518). An SPDM request is answered while keeper firmware runs, and joins the transcript with its answer; GET_VERSION begins a new one; a challenge carries a nonce and is signed over
the transcript; measurements are the slots asked for (R574). Nothing else changes. The answers' own fields are free (log entry 19). -/
def Obligations.BmcAndSpdmAreAnswered : Prop :=
  (∀ s : State,
      (∀ i o : Int, s.temp 5 0 = some i → s.temp 6 0 = some o → o < i - 16 → 2000 < s.pwr.governs → Completes .airflowReversed s (fun t =>
        s.Told t Ev.airflowReversed (srcSensor 6 0) 0 ∧ t.mem = s.mem ∧ t.tiles = s.tiles)) ∧
      (s.mctpRuns = true → ∀ a : Nat, a = s.mctpAddr →
        exec (.pldmRequest ⟨a, 0⟩ 2) s = .next { s with out := .pldm 0 2 [s.pwr.governs] :: s.out } ∧
        exec (.pldmRequest ⟨a, 2⟩ 0) s = .next { s with out := .pldm 2 0 s.host.pldmLog :: s.out, host := { s.host with pldmLog := [] } } ∧
        ∀ w : Nat, Completes (.pldmRequest ⟨a, 1⟩ w) s (fun t => t.pwr.effecter = some w ∧ (s.Inv → t.fld Fl.PWRM_CAP_IN_FORCE = t.cap) ∧ .pldm 1 w [] ∈ t.out)) ∧
      (∀ a op w : Nat, a ≠ s.mctpAddr → exec (.pldmRequest ⟨a, op⟩ w) s = .next s) ∧
      (s.rst.cfg = [] → s.mctpAddr = 0x4E)) ∧
  (∀ (s : State) (a : Nat) (r : List Byte), s.mctpRuns = true → a = s.mctpAddr →
      let answer := fun (body : List Byte) => Config.spdmAnswer r s.rst.spdm ++ body
      let said := fun (old a : List Byte) (n : Nat) =>
        ({ s with out := .spdm a :: s.out, rst := { s.rst with spdm := old ++ r ++ a, nonces := s.rst.nonces + n } } : State)
      let chain := Config.spdmChain (s.flashBytes 0x3F00000 0x100000)
      let signed := fun (a : List Byte) => a ++ Config.spdmSign (s.rst.spdm ++ r ++ a)
      let k := leAt r 3 1
      let body := if k = 0 then [6] else if k = 0xFF then s.slots else (s.slots.drop (48 * (k - 1))).take 48
      exec (.getVersion ⟨a, r⟩) s = .next (said [] (Config.spdmAnswer r []) 0) ∧
      exec (.getCapabilities ⟨a, r⟩) s = .next (said s.rst.spdm (answer []) 0) ∧
      exec (.negotiateAlgorithms ⟨a, r⟩) s = .next (said s.rst.spdm (answer []) 0) ∧
      exec (.getDigests ⟨a, r⟩) s = .next (said s.rst.spdm (answer (Config.sha384 chain)) 0) ∧
      exec (.getCertificate ⟨a, r⟩) s = .next (said s.rst.spdm (answer chain) 0) ∧
      exec (.challenge ⟨a, r⟩) s = .next (said s.rst.spdm (signed (answer [] ++ Config.spdmNonce s.rst.nonces)) 1) ∧
      (bitOf (leAt r 2 1) 0 = false → exec (.getMeasurements ⟨a, r⟩) s = .next (said s.rst.spdm (answer body) 0)) ∧
      (bitOf (leAt r 2 1) 0 = true → exec (.getMeasurements ⟨a, r⟩) s = .next (said s.rst.spdm (signed (answer body ++ Config.spdmNonce s.rst.nonces)) 1)))


/-! Power, clocks, temperatures. -/

/-- Every 10 µs: M governs capping while the sensor is sound and the model agrees; E × 1.2 governs from the first implausible sample on, which is told of; max(E, M) while they have
diverged; the ticks of agreement and of difference are counted (R522 to R524). The failed sensor recovers after 1 s of plausible samples; a divergence of more than 1 ms is told of and
lasts until 10 ms of agreement (R523, R524); RECAL starts learning from an empty table (R525); fractions that sum above 128 are ignored and told of (R541). -/
def Obligations.MeasuredPowerGoverns : Prop :=
  (∀ s : State, s.Inv → ∀ (m e : Nat) (d x : List Nat),
      let same := if m = s.pwr.m then s.pwr.same + 1 else 0
      let sameE := if m = s.pwr.m then s.pwr.sameE else e
      let bad := implausible m e (s.fld Fl.IDENT_CAP_CEILING_CEILING) same sameE
      Completes (.powerControlTick m e ⟨d, x⟩) s (fun t =>
        t.pwr.m = m ∧ t.pwr.e = e ∧ t.pwr.draws = d ∧ t.pwr.inputs = x ∧ t.mem = s.mem ∧ t.undef = s.undef ∧ t.tiles = s.tiles ∧
        (bad = false → s.fld Fl.PWRM_STATUS_SENSOR_FAILED = 0 →
          t.fld Fl.PWRM_STATUS_SENSOR_FAILED = 0 ∧ t.pwr.governs = (if s.pwr.diverged then max e m else m) ∧
          (100 * (max m e - min m e) ≤ 15 * max m e → t.pwr.near = s.pwr.near + 1 ∧ t.pwr.apart = 0) ∧
          (15 * max m e < 100 * (max m e - min m e) → t.pwr.apart = s.pwr.apart + 1 ∧ t.pwr.near = 0)) ∧
        (bad = false → s.fld Fl.PWRM_STATUS_SENSOR_FAILED = 1 → t.pwr.governs = e * 12 / 10 ∧ t.pwr.good = s.pwr.good + 1) ∧
        (bad = true → t.fld Fl.PWRM_STATUS_SENSOR_FAILED = 1 ∧ t.pwr.governs = e * 12 / 10 ∧ t.pwr.good = 0) ∧
        (bad = true → s.fld Fl.PWRM_STATUS_SENSOR_FAILED = 0 → s.Told t Ev.powerSensorFailed srcHub 0))) ∧
  (∀ s : State, s.Inv →
      (s.fld Fl.PWRM_STATUS_SENSOR_FAILED = 1 → 100000 ≤ s.pwr.good → Completes .sensorRecover s (fun t =>
        t.fld Fl.PWRM_STATUS_SENSOR_FAILED = 0 ∧ t.fld Fl.PWRM_STATUS_FALLBACK = s.fld Fl.PWRM_STATUS_FALLBACK ∧
        (∀ o ≠ Reg.PWRM_STATUS, t.reg o = s.reg o) ∧ t.pwr = s.pwr)) ∧
      (s.fld Fl.PWRM_STATUS_SENSOR_FAILED = 0 → 100 < s.pwr.apart → s.pwr.diverged = false → Completes .powerModelDivergence s (fun t =>
        t.pwr.diverged = true ∧ t.pwr.governs = max s.pwr.e s.pwr.m ∧ t.fld Fl.PWRM_STATUS_DIVERGED = 1 ∧ t.reg64 (Reg.PWRM_COUNT_LO 5) = min (s.reg64 (Reg.PWRM_COUNT_LO 5) + 1) (2 ^ 48 - 1) ∧
        s.Told t Ev.powerModelDivergence srcHub 0 ∧ (s.fld Fl.PWRM_CTRL_MODE = 1 → t.fld Fl.PWRM_STATUS_FALLBACK = 1))) ∧
      (s.pwr.diverged = true → 1000 ≤ s.pwr.near → exec .divergenceClear s = .next { s with
        pwr := { s.pwr with diverged := false, governs := s.pwr.m } }) ∧
      (∀ m v : Nat, bitOf v 2 = true → Completes (.recal m v) s (fun t =>
        t.fld Fl.PWRM_STATUS_FALLBACK = 0 ∧ t.pwr.learned = [] ∧ t.pwr.learnLeft = max (t.fld Fl.PWRM_CTRL_CAL_STEPS) 1 + 1)) ∧
      (∀ m v : Nat, 128 < bitsOf v 7 0 + bitsOf v 15 8 + bitsOf v 23 16 → Completes (.powerFracWrite m v) s (fun t =>
        t.reg Reg.PWRM_FRAC = s.reg Reg.PWRM_FRAC ∧ s.Told t Ev.powerConfig srcHub 0)) ∧
      (∀ m v : Nat, bitsOf v 7 0 + bitsOf v 15 8 + bitsOf v 23 16 ≤ 128 → s.blockIdle Reg.PWRM_FRAC = true → Completes (.powerFracWrite m v) s (fun t =>
        t.fld Fl.PWRM_FRAC_MEMORY = bitsOf v 7 0 ∧ t.fld Fl.PWRM_FRAC_UPDATE = bitsOf v 15 8 ∧ t.fld Fl.PWRM_FRAC_HUB = bitsOf v 23 16)))

/-- With MODE at FIXED, each of MEMORY, UPDATE and HUB gets its fraction of the cap, and COMPUTE the rest less what HUB draws beyond its budget, while no sensor cuts a class. -/
def Obligations.FixedBudgets : Prop :=
  ∀ s : State, s.Inv → ∀ (m e : Nat) (d x : List Nat), s.fld Fl.PWRM_CTRL_MODE = 0 → s.pwr.cuts = [0, 0] →
    Completes (.powerControlTick m e ⟨d, x⟩) s (fun t =>
      let share := fun (f : Fld) => s.fld f * (10 * s.cap) / 256
      let hub := share Fl.PWRM_FRAC_HUB
      t.pwr.budgets = [10 * s.cap - (share Fl.PWRM_FRAC_MEMORY + share Fl.PWRM_FRAC_UPDATE + hub) - (d.getD 3 0 - hub),
        share Fl.PWRM_FRAC_MEMORY, share Fl.PWRM_FRAC_UPDATE, hub])

/-- Points: a group whose class is over budget, or while an input draws more than its limit (R31), goes down one and is bound; one whose next point fits goes up one; a change completes at its target; a droop halves the
clock and counts, its end restores it (R513, R519, R526). A persistent droop lowers the group one point and is told of, and for 100 ms neither the power controller nor a
sensor that recovers raises it above that point (R527). -/
def Obligations.PointsMove : Prop :=
  ∀ s : State, s.Inv → ∀ g < 12,
    let at' := (s.clk g).target.getD (s.point g)
    (s.clocked g = true → at' ≠ 0 → s.pwr.budgets.getD 0 0 < s.pwr.draws.getD 0 0 ∨ 10 * s.cap < s.pwr.governs ∨ s.inputOver = true →
      Completes (.computePointLower g) s (fun t => (t.clk g).target = some (at' - 1) ∧ (t.clk g).bound = true ∧ (at' - 1 < s.allowed g → t.fld Fl.PWRM_STATUS_CAP_BOUND = 1))) ∧
    (s.clocked g = true → at' < s.allowed g →
      Config.nextEstimate g (at' + 1) (s.groupVoltage g (at' + 1)) (s.pwr.draws.getD 0 0) ≤ s.pwr.budgets.getD 0 0 → s.pwr.governs ≤ 10 * s.cap →
      s.inputOver = false →
      Completes (.computePointRaise g) s (fun t => (t.clk g).target = some (at' + 1))) ∧
    (∀ p < 16, (s.clk g).target = some p → Completes (.pointChangeDone g) s (fun t => t.point g = p)) ∧
    (s.clocked g = true → s.fld (Fl.CLKG_GROUP_STRETCHED g) = 0 → Completes (.droopDetect g) s (fun t =>
      t.fld (Fl.CLKG_GROUP_STRETCHED g) = 1 ∧ t.fld (Fl.CLKG_GROUP_MHZ g) = pointMhz.getD (min (s.point g) at') 0 / 2 ∧
      t.reg64 (Reg.PWRM_COUNT_LO 2) = min (s.reg64 (Reg.PWRM_COUNT_LO 2) + 1) (2 ^ 48 - 1) ∧ t.pwr = s.pwr ∧ t.mem = s.mem ∧ t.tiles = s.tiles)) ∧
    (s.clocked g = true → Completes (.droopStretchEnd g) s (fun t =>
      t.fld (Fl.CLKG_GROUP_STRETCHED g) = 0 ∧ t.fld (Fl.CLKG_GROUP_MHZ g) = pointMhz.getD (min (s.point g) at') 0 ∧
      (∀ o ≠ Reg.CLKG_GROUP g, t.reg o = s.reg o) ∧ t.pwr = s.pwr ∧ t.mem = s.mem ∧ t.tiles = s.tiles)) ∧
    (s.clocked g = true → Completes (.droopPersistent g) s (fun t =>
      (t.clk g).target = some (at' - 1) ∧ (t.clk g).ceiling = some (at' - 1, s.time + 100000000) ∧ s.Told t Ev.droopPersistent srcHub 0)) ∧
    (∀ p u : Nat, (s.clk g).ceiling = some (p, u) → s.time < u → p ≤ at' →
      Completes (.computePointRaise g) s (fun t => (t.clk g).target = (s.clk g).target) ∧
      ∀ r i : Nat, Completes (.thermalRecover r i) s (fun t => (t.clk g).target.getD (t.point g) ≤ at'))

/-- Temperatures: a sample is the sensor's reading, and one above the warning threshold warns; a sensor above throttle lowers its group one point or cuts its class by 1/8, and one
3 °C below gives back as much; an overdue report counts as at throttle; a trip resets the module with cause 6 (R531 to R534). -/
def Obligations.TemperaturesGovern : Prop :=
  ∀ s : State, s.Inv → ∀ r i : Nat,
    (∀ v : Int, Completes (.thermalSample [⟨r, i, v⟩]) s (fun t =>
      t.temp r i = some v ∧ t.mem = s.mem ∧ t.tiles = s.tiles ∧
      (∀ w, sensorWarn r = some w → w < v → s.warns r = true → t.fld Fl.PWRM_STATUS_THERM_WARN = 1 ∧ t.pwr.therm = true ∧
        (s.pwr.warned.contains (r, i) = false → s.events.length + s.readings.length + 1 ≤ 4096 →
          ∃ x ∈ t.events.drop s.events.length, x.code = Ev.thermalWarn.code ∧ (x.kind, x.index) = srcSensor r i)))) ∧
    (s.throttles 0 i = true → i < 12 → s.clocked i = true → (s.clk i).target.getD (s.point i) ≠ 0 → Completes (.thermalThrottle 0 i) s (fun t =>
      (t.clk i).target = some ((s.clk i).target.getD (s.point i) - 1) ∧ t.fld Fl.PWRM_STATUS_THROTTLED = 1 ∧ t.pwr.throttled.contains (0, i) = true)) ∧
    (∀ c, sensorClass r = some c → s.throttles r i = true → Completes (.thermalThrottle r i) s (fun t =>
      t.pwr.cuts = modAt s.pwr.cuts c (fun x => min (x + 1) 8) ∧ t.pwr.groups = s.pwr.groups)) ∧
    (∀ (c : Nat) (v w : Int), sensorClass r = some c → s.temp r i = some v → sensorThrottle r = some w → v ≤ w - 24 → s.pwr.throttled.contains (r, i) = true →
      s.otherHot r i = false → Completes (.thermalRecover r i) s (fun t => t.pwr.cuts = modAt s.pwr.cuts c (· - 1))) ∧
    (∀ (p n : Nat) (v : Int), i < 12 → s.temp 0 i = some v → v ≤ 760 - 24 → s.pwr.throttled.contains (0, i) = true → s.otherHot 0 i = false →
      (s.clk i).hot = some (p, n) → 2 ≤ n → Completes (.thermalRecover 0 i) s (fun t => (t.clk i).hot = some (p + 1, n - 1))) ∧
    (2 ≤ r → r ≤ 4 → Completes (.pwrReportOverdue r i) s (fun t => t.temp r i = sensorThrottle r ∧ t.throttles r i = true)) ∧
    (s.rst.powered = true → r ≤ 2 ∨ (r ≤ 4 ∧ ∃ v w, s.temp r i = some v ∧ sensorTrip r = some w ∧ w ≤ v) → Completes (.thermalTrip r i) s (fun t =>
      t.fld Fl.RSTC_CAUSE_CAUSE = s.causeKept 6 ∧ 6 ∈ t.rst.asserted ∧ t.pwr.tripAt = some s.time ∧ t.tiles = []))

/-- Power states: a stopped tile retains its content, one that wakes is ON, a group with no tile in use stops its PLL; room tone's level 0 is reached
(R510, R512, R528, R529). A mesh
segment, field service or compute link is powered while any tile of its field is in use, a port while it is not DISABLED, TW6U's lanes, polish array and SRAM are in retention while
UPDT_CTRL.RUN is clear, and the fabric, the buffer SRAM, PCIe and the always-on domains are never gated (R511). -/
def Obligations.TilesRetainAndWake : Prop :=
  ∀ s : State, s.Inv → ∀ n < 180,
    (s.fld (Fl.TILE_SEQ_CTRL_RUN n) = 0 → s.power (s.physOf n) = .on → s.job = none → exec (.tileRetain n) s = .next { s with
      phys := Store.set (fun _ => TilePower.off) s.phys (s.physOf n) .retain }) ∧
    (s.power (s.physOf n) = .waking → Completes (.tileWake n) s (fun t => t.power (s.physOf n) = .on ∧ t.mem = s.mem ∧ t.undef = s.undef)) ∧
    (∀ g < 12, (∀ i < 16, s.power (16 * g + i) = .off) → Completes (.tileGroupPllStop g) s (fun t =>
      t.fld (Fl.CLKG_GROUP_STOPPED g) = 1 ∧ t.fld (Fl.CLKG_GROUP_STRETCHED g) = 0 ∧ t.fld (Fl.CLKG_GROUP_MHZ g) = 0 ∧
      (∀ o ≠ Reg.CLKG_GROUP g, t.reg o = s.reg o) ∧ t.mem = s.mem ∧ t.tiles = s.tiles)) ∧
    ((s.tile n).tone.isSome = true → Completes (.roomToneLevelZero n) s (fun t =>
      t.tile n = { s.tile n with tone := some (s.time, 0) } ∧ (∀ k ≠ n, t.tile k = s.tile k) ∧ t.regs = s.regs ∧ t.mem = s.mem)) ∧
    (s.rst.powered = true →
      (∀ f < 3, (∃ i < 64, s.power (64 * f + i) = .on ∨ s.power (64 * f + i) = .retain) →
        s.domain (.mesh (2 * f)) = .on ∧ s.domain (.mesh (2 * f + 1)) = .on ∧ s.domain (.field f) = .on ∧ s.domain (.computeLink f) = .on) ∧
      (∀ f < 3, (∀ i < 64, s.power (64 * f + i) = .off) →
        s.domain (.mesh (2 * f)) = .off ∧ s.domain (.mesh (2 * f + 1)) = .off ∧ s.domain (.field f) = .off ∧ s.domain (.computeLink f) = .off) ∧
      (∀ p < 9, (s.domain (.port p) = .off ↔ s.macState p = macDisabled)) ∧
      (∀ d ∈ [Domain.updLanes, .updPolish, .updSram], s.domain d = if s.fld Fl.UPDT_CTRL_RUN = 0 then .retention else .on) ∧
      (∀ d ∈ [Domain.fabric, .sram, .pcie, .aoClock, .aoKeeper, .aoMonitor], s.domain d = .on))

/-- The time counter never decreases: a positive step is added at once, a negative one is kept to be absorbed at half rate, and its absorption adds as much; each step of more than
1 µs is told of (R514). The keeper's hours go into CLKG_HOURS and the flash, and a threshold crossed waits as the column to come (R516). -/
def Obligations.TimeStepsAndHours : Prop :=
  ∀ s : State, s.Inv →
    (∀ m v : Nat, v < 2 ^ 31 → Completes (.clkgStepWrite m v) s (fun t =>
      t.time = (s.time + v) % 2 ^ 64 ∧ t.pwr.neg = s.pwr.neg ∧ (1000 < v → s.Told t Ev.timeStep srcHub 0))) ∧
    (∀ m v : Nat, 2 ^ 31 ≤ v → v < 2 ^ 32 → Completes (.clkgStepWrite m v) s (fun t =>
      t.time = s.time ∧ t.pwr.neg = s.pwr.neg + (2 ^ 32 - v) ∧ (1000 < 2 ^ 32 - v → s.Told t Ev.timeStep srcHub 0))) ∧
    exec .negativeStepAbsorbed s = .next { s with time := (s.time + s.pwr.neg) % 2 ^ 64, pwr := { s.pwr with neg := 0 } } ∧
    (∀ m v : Nat, Completes (.clkgTrimWrite m v) s (fun t => t.fld Fl.CLKG_TRIM_RATE = v % 2 ^ 20 ∧ t.time = s.time)) ∧
    (∀ h : Nat, s.keeperRuns = true → Completes (.hourRecord h) s (fun t =>
      t.reg Reg.CLKG_HOURS = BitVec.ofNat 32 h ∧
      t.rst.flash = (leBytes 4 h).zipIdx.foldl (fun m b => Store.set Config.flashByte m (0x30000 + b.2) b.1) s.rst.flash ∧
      (ageColumn (s.reg Reg.CLKG_HOURS).toNat < ageColumn h → t.pwr.ageNext = some (ageColumn h) ∧ s.Told t Ev.vfAgeColumn srcKeeper 0) ∧
      (∀ g < 12, t.fld (Fl.CLKG_GROUP_AGE g) = s.fld (Fl.CLKG_GROUP_AGE g))))

/-! Resets and the start. -/

/-- What a recorded source of FULL reach leaves: its code and the time in the cause record, its interval open, the tiers, tiles, job and events lost, and the time counter, the Craxis
BAD records, the operating hours and the option values kept (R547 to R549). -/
def FullResetLeaves (s : State) (code src : Nat) (t : State) : Prop :=
  t.fld Fl.RSTC_CAUSE_CAUSE = s.causeKept code ∧ t.reg64 Reg.RSTC_CAUSE_TIME_LO = s.time ∧ src ∈ t.rst.asserted ∧ t.rst.interval = true ∧ 2 ≤ t.rst.widest ∧
    t.time = s.time ∧ t.mem = [] ∧ t.tiles = [] ∧ t.phys = [] ∧ t.job = none ∧ t.events = [] ∧ t.rstState = 0 ∧
    (∀ h < 104, t.fld (Fl.CRAXIS_MOD_STATUS_BAD h) = s.fld (Fl.CRAXIS_MOD_STATUS_BAD h)) ∧
    t.reg Reg.CLKG_HOURS = s.reg Reg.CLKG_HOURS ∧ (∀ i < 4, t.reg (0x20000 + 4 * i) = s.reg (0x20000 + 4 * i))

/-- Each recorded source resets the module under its own code, where the conditions of R548 hold. -/
def Obligations.SourcesResetTheModule : Prop :=
  ∀ s : State, s.Inv → s.rst.powered = true →
    Completes .brownout s (FullResetLeaves s 2 2) ∧
    Completes .nreset s (FullResetLeaves s 3 3) ∧
    (s.fld Fl.OPTS_VALUES_HOST_RESET_REACH = 1 → Completes .perst s (FullResetLeaves s 4 20)) ∧
    (s.rstState ≠ 0 → s.rstState ≠ stRecovery → Completes .keeperWatchdog s (FullResetLeaves s 5 5)) ∧
    (∀ j : Nat, s.hasTwin = true → s.receives 8 = true → s.fld Fl.OPTS_VALUES_TWIN_RESET_EN = 1 → j = (s.job.map (·.jobId)).getD 0 % 2 ^ 32 ∨ j = 0 ∨ (s.job.map (·.jobId)).getD 0 % 2 ^ 32 = 0 →
      Completes (.twinResetRequest s.myPair j) s (FullResetLeaves s 7 7)) ∧
    (∀ m v : Nat, bitOf v 0 = true → bitsOf v 15 8 = 0xC3 → Completes (.deviceReset m v) s (FullResetLeaves s 8 8)) ∧
    (s.rstState ≠ 0 → s.rstState < stRunning → s.rstState ≠ stSupplyWait → s.rstState ≠ stThermalWait → Completes .startFailure s (FullResetLeaves s 9 9)) ∧
    (s.rstState = stRecovery → Completes .recoveryExit s (FullResetLeaves s 9 9))

/-- Losing power loses everything but the flash; power returning begins a power-on reset with cause 1 at time 0 (R547 to R549); PERST# with HOST reach detaches every function and leaves the
cause record, the tiles and the time alone (R474). The release that ends a FULL interval begins the start, at four failed starts minimal recovery mode (R550, R567, R569); while another such source is asserted the interval stays open; an
interval of HOST sources alone ends without a start. -/
def Obligations.ResetsBeginAndEnd : Prop :=
  (∀ s : State, s.Inv →
      Completes .powerLoss s (fun t => t.rst.powered = false ∧ t.time = 0 ∧ t.regs = [] ∧ t.mem = [] ∧ t.tiles = [] ∧ t.job = none ∧ t.rst.asserted = [] ∧
        t.rst.flash = s.rst.flash ∧ t.out = s.out) ∧
      (s.rst.powered = false → Completes .powerOn s (fun t => t.rst.powered = true ∧ t.rst.asserted = [1] ∧ t.rst.interval = true ∧ t.rst.lost = true ∧
        t.fld Fl.RSTC_CAUSE_CAUSE = 1 ∧ t.reg64 Reg.RSTC_CAUSE_TIME_LO = 0 ∧ t.time = 0 ∧ t.mem = [] ∧ t.tiles = [] ∧ t.rst.flash = s.rst.flash)) ∧
      (s.rst.powered = true → s.fld Fl.OPTS_VALUES_HOST_RESET_REACH = 0 → Completes .perst s (fun t =>
        (∀ f < 9, t.attached f = false) ∧ t.rst.hostHeld = true ∧ t.rst.interval = true ∧ t.reg Reg.HOSTIF_LINK = 0 ∧
        t.reg Reg.RSTC_CAUSE = s.reg Reg.RSTC_CAUSE ∧ t.tiles = s.tiles ∧ t.job = s.job ∧ t.time = s.time))) ∧
  (∀ s : State, s.Inv → s.rst.interval = true → ∀ c : Nat,
      (c ≠ 4 → c ∈ s.rst.asserted → (∀ x ∈ s.rst.asserted, x = c ∨ x = 4) → 2 ≤ s.rst.widest → Completes (.resetIntervalEnd c) s (fun t =>
        t.rst.interval = false ∧ t.rst.widest = 0 ∧ t.rst.lost = false ∧ t.rstState = (if 4 ≤ s.failedStarts.1 then stRecovery else stOptions) ∧
        t.fld Fl.RSTC_CAUSE_COUNT = min s.failedStarts.1 15 ∧ t.mem = s.mem ∧ t.tiles = s.tiles)) ∧
      (c ≠ 4 → c ∈ s.rst.asserted → (∃ x ∈ s.rst.asserted, x ≠ c ∧ x ≠ 4) → 2 ≤ s.rst.widest →
        exec (.resetIntervalEnd c) s = .next { s with rst := { s.rst with
          asserted := s.rst.asserted.filter (fun x => decide (x ≠ c)), hostHeld := (s.rst.asserted.filter (fun x => decide (x ≠ c))).contains 4 } }) ∧
      (s.rst.asserted = [4] → s.rst.widest = 1 →
        exec (.resetIntervalEnd 4) s = .next { s with rst := { s.rst with asserted := [], hostHeld := false, interval := false, widest := 0 } }))


/-- The start goes on step by step: the keeper image or recovery, the dies in their order, the wait after a thermal trip, the stage image or a failed start, READY (R554 to R556, R568). -/
def Obligations.StartGoesOn : Prop :=
  ∀ s : State, s.Inv →
    (∀ x : Supply, Completes (.keeperBoot x) s (fun t => t.rst.opt = none)) ∧
    (∀ x : Supply, s.rst.opt = none → s.rstState = stKeeperBoot → Completes (.keeperBoot x) s (fun t =>
      match s.pickKeeper with
      | none => t.rstState = stRecovery ∧ t.rst.bootFailed = true ∧ s.Told t Ev.recoveryMode srcKeeper 0
      | some k => t.fld Fl.OPTS_STATUS_KEEPER_SLOT = k ∧
          (let c := min 800 ((supplyLimits x).sum * 95 / 100 / 10 * 10)
           t.fld Fl.IDENT_CAP_CEILING_CEILING = c ∧
             t.rstState = (if c < 300 then stSupplyWait else if s.pwr.tripAt.isSome then stThermalWait else stDies)))) ∧
    (∀ d < 8, s.rstState = stDies → s.rst.released.length = d → d = 0 ∨ s.dieUp (d - 1) = true → Completes (.dieRelease d) s (fun t =>
      t.rst.released = s.rst.released ++ [d] ∧ (∀ h ∈ dieMods d, t.cxState h = cxTraining) ∧ t.mem = s.mem ∧ t.tiles = s.tiles)) ∧
    (s.rstState = stThermalWait → (∀ i < 4, ∃ v : Int, s.temp 1 i = some v ∧ v < 600) → (∀ t ∈ s.pwr.tripAt, t + 10000000000 ≤ s.time) →
      Completes .thermalWaitEnd s (fun t =>
      t.rstState = stDies ∧ t.pwr = { s.pwr with tripAt := none } ∧ ∀ o ≠ Reg.RSTC_STATE, t.reg o = s.reg o)) ∧
    (s.rstState = stDies → s.rst.released.length = 8 → (∀ d < 8, s.dieReady d = true) → Completes .stageBoot s (fun t =>
      match s.pickStage with
      | none => FullResetLeaves s 9 9 t
      | some k => t.rst.stage = .loaded ∧ t.rstState = stStageBoot ∧ t.fld Fl.OPTS_STATUS_STAGE_SLOT = k)) ∧
    (∀ m v : Nat, 0xC5 ≤ m → m ≤ 0xC8 → bitOf v 2 = true → bitOf v 1 = false → bitOf v 0 = false → s.rst.stage = .loaded →
      (s.rstState = stStageBoot → Completes (.ready m v) s (fun t =>
        t.rstState = stRunning ∧ t.rst.stage = .running ∧
        (s.rst.cfg = [] → s.Told t Ev.start srcStage (s.fld Fl.RSTC_CAUSE_CAUSE + s.fld Fl.RSTC_CAUSE_COUNT * 16)))) ∧
      (s.rstState = stRunning → Completes (.stageRestartDone m v) s (fun t =>
        t.rst.stage = .running ∧ t.fld Fl.RSTC_BLOCK_MGMT = 0 ∧ t.rstState = stRunning ∧ t.job = s.job ∧ t.tiles = s.tiles)))

/-- Twin resets: TWIN_REQ with the key sends the TLV, and it is sent twice more, where a twin port is UP; a request that does not match is refused and told of, and resets nothing, and without a
twin port none is heard (R34, R553). Block resets, with no job and no FULL interval: the update die loses its state and registers, a stack its T1 lines and only those, a field its tiles, and stage firmware restarts from its
slot; each bit then reads 1 until its block is back (R558, R571). -/
def Obligations.TwinsAndBlocksAreReset : Prop :=
  (∀ s : State, s.Inv →
      let tlv := Out.twinReset s.myPair ((s.job.map (·.jobId)).getD 0 % 2 ^ 32)
      let said := if s.hasTwin && s.portUp 8 then tlv :: s.out else s.out
      (∀ m v : Nat, bitOf v 1 = true → bitOf v 0 = false → bitOf v 2 = false → bitsOf v 15 8 = 0xC3 → Completes (.twinReq m v) s (fun t =>
        t.out = said ∧ t.rst = { s.rst with twinLeft := 2 } ∧ t.mem = s.mem ∧ t.events = s.events)) ∧
      (s.rst.twinLeft ≠ 0 → Completes .twinReqRepeat s (fun t =>
        t.out = said ∧ t.rst = { s.rst with twinLeft := s.rst.twinLeft - 1 } ∧ t.mem = s.mem ∧ t.events = s.events)) ∧
      (∀ p j : Nat, (s.hasTwin && s.receives 8) = false → exec (.twinResetRequest p j) s = .next s) ∧
      (∀ p j : Nat, s.rst.powered = true → s.hasTwin = true → s.receives 8 = true → s.fld Fl.OPTS_VALUES_TWIN_RESET_EN = 0 ∨ p ≠ s.myPair → Completes (.twinResetRequest p j) s (fun t =>
        s.Told t Ev.twinResetRefused srcKeeper 0 ∧ t.rst = s.rst ∧ t.mem = s.mem ∧ t.tiles = s.tiles ∧ t.job = s.job))) ∧
  (∀ s : State, s.Inv → s.rst.interval = false → s.job = none → s.reg Reg.RSTC_BLOCK = 0 →
      Completes (.blockResetUpd mKeeper 1) s (fun t =>
        t.upd = Upd.empty ∧ t.fld Fl.RSTC_BLOCK_UPD = 1 ∧ (∀ o, 0x900000 ≤ o → o < 0xA00000 → t.reg o = regReset o) ∧ t.tiles = s.tiles ∧ t.mem = s.mem) ∧
      (∀ k < 4, Completes (.blockResetStack mKeeper (2 ^ (1 + k))) s (fun t =>
        bitOf (t.fld Fl.RSTC_BLOCK_STK) k = true ∧ t.tiles = s.tiles ∧
        ∀ a, t.byte a = if inT1 a = true ∧ t1Stack a = k then Config.freeByte (s.epoch + 1) a else s.byte a)) ∧
      (∀ f < 3, Completes (.blockResetField mKeeper (2 ^ (5 + f))) s (fun t =>
        bitOf (t.fld Fl.RSTC_BLOCK_FLD) f = true ∧ (∀ i < 64, t.power (64 * f + i) = .off) ∧ (∀ p, p / 64 ≠ f → t.power p = s.power p) ∧
        (∀ g < 4, t.fld (Fl.CLKG_GROUP_STOPPED (4 * f + g)) = 1) ∧ (∀ a, physAt a = none → t.byte a = s.byte a))) ∧
      (s.rst.stage = .running → Completes (.blockResetMgmt mKeeper 0x100) s (fun t =>
        t.rst.stage = (if 3 ≤ (s.rst.restarts.filter (fun x => decide (s.time - x < 60000000000))).length then .stopped
          else if s.stageOk (s.fld Fl.OPTS_STATUS_STAGE_SLOT) then .loaded else .stopped) ∧ t.tiles = s.tiles)) ∧
      (∀ b ≤ 8, ∀ w : Nat, w < 2 ^ 9 → bitOf w b = true → (b = 8 → s.rst.stage = .running) → (b ≠ 8 → s.dieReady b = true) →
        Completes (.blockResetDone b) { s with regs := Store.set regReset s.regs Reg.RSTC_BLOCK (BitVec.ofNat 32 w) } (fun t =>
          t.reg Reg.RSTC_BLOCK = BitVec.ofNat 32 (w - 2 ^ b) ∧ ∀ o ≠ Reg.RSTC_BLOCK, t.reg o = s.reg o)))


/-- Watchdogs: the keeper's and stage firmware's writes restart theirs and reset nothing, another master's is ignored and told of; an expired stage watchdog restarts stage firmware, the
fourth time within 60 s for good (R571, R572, R576). -/
def Obligations.WatchdogsAreKicked : Prop :=
  ∀ s : State, s.Inv →
    (∀ v : Nat, Completes (.keeperWdogKick mKeeper v) s (fun t =>
      t.reg Reg.RSTC_WDOG = BitVec.ofNat 32 v ∧ (∀ o ≠ Reg.RSTC_WDOG, t.reg o = s.reg o) ∧ t.rst = s.rst ∧ t.mem = s.mem ∧ t.events = s.events)) ∧
    (∀ m v : Nat, 0xC5 ≤ m → m ≤ 0xC8 → Completes (.stageWdogKick m v) s (fun t =>
      (∀ o ≠ Reg.RSTC_STAGE_WDOG, t.reg o = s.reg o) ∧ t.rst = s.rst ∧ t.mem = s.mem ∧ t.events = s.events)) ∧
    (∀ m v : Nat, m < 0xC5 ∨ 0xC8 < m → Completes (.stageWdogKick m v) s (fun t =>
      t.reg Reg.RSTC_STAGE_WDOG = s.reg Reg.RSTC_STAGE_WDOG ∧ s.Told t Ev.csrPrivilege (masterSrc m) Reg.RSTC_STAGE_WDOG)) ∧
    (s.rstState = stRunning → s.rst.stage = .running ∨ s.rst.stage = .loaded → Completes .stageWatchdog s (fun t =>
      t.rst.stage = (if 3 ≤ (s.rst.restarts.filter (fun x => decide (s.time - x < 60000000000))).length then .stopped
        else if s.stageOk (s.fld Fl.OPTS_STATUS_STAGE_SLOT) then .loaded else .stopped) ∧
      s.Told t Ev.stageRestart srcKeeper 0 ∧ t.job = s.job ∧ t.tiles = s.tiles ∧ t.reel = s.reel ∧ t.upd = s.upd ∧ t.nrt = s.nrt))

/-- In minimal recovery mode the flash is read, erased by sectors and programmed; a command that touches the factory area or the range beyond is refused; where the flash reports a failure ERROR is set. The one function's BAR0
reads ADDR, LEN, ERROR, REFUSED and the buffer; a write of ADDR, of LEN and of the buffer is kept, ERROR and REFUSED clear by writing 1, and OP runs the command that ADDR and LEN describe (R569, R570). -/
def Obligations.RecoveryServesTheFlash : Prop :=
  ∀ s : State, s.rstState = stRecovery →
    let put := fun (l : List Byte) (at' : Nat) (m : Store Byte) => l.zipIdx.foldl (fun m b => Store.set Config.flashByte m (at' + b.2) b.1) m
    let buf := fun (l : List Byte) (at' : Nat) (m : Store Byte) => l.zipIdx.foldl (fun m x => Store.set (fun _ => 0) m (at' + x.2) x.1) m
    let mReq := fnMaster 0
    let whole := fun (a n : Nat) => if n = 0 then s.rst.torn else cutRanges s.rst.torn a (a + n - 1)
    let tear := fun (a n : Nat) => if n = 0 then s.rst.torn else ⟨a, a + n - 1, Config.freeValue s.freeCount, none⟩ :: s.rst.torn
    (∀ a < 2 ^ 26, ∀ n < 2 ^ 17,
      let here : Rst := { s.rst with recAddr := a, recSize := n }
      (a + min n 65536 ≤ 0x3F00000 →
        (let b := s.flashBytes a (min n 65536)
         exec (.recoveryRead a n) s = .next { s with out := .recovery b :: s.out, rst := { here with recBuf := buf b 0 s.rst.recBuf } }) ∧
        (∀ d : List Byte, let r := buf (d.take 65536) 0 s.rst.recBuf
          exec (.recoveryProgram ⟨a, false⟩ n d) s = .next { s with rst := { here with
            recBuf := r, torn := whole a (min n 65536), flash := put ((List.range (min n 65536)).map (fun i => Store.get (fun _ => 0) r i)) a s.rst.flash } } ∧
          exec (.recoveryProgram ⟨a, true⟩ n d) s = .next { s with
            freeCount := if n = 0 then s.freeCount else s.freeCount + 1
            rst := { here with recBuf := r, recError := true, torn := tear a (min n 65536) } })) ∧
      (0x3F00000 < a + min n 65536 →
        exec (.recoveryRead a n) s = .next { s with rst := { here with recRefused := true } } ∧
        ∀ (d : List Byte) (fails : Bool), exec (.recoveryProgram ⟨a, fails⟩ n d) s = .next { s with rst := { here with
          recBuf := buf (d.take 65536) 0 s.rst.recBuf, recRefused := true } })) ∧
    (∀ a < 2 ^ 26, s.rst.recSize < 2 ^ 17 →
      let p := a / 0x10000 * 0x10000
      (a < 0x3F00000 →
        exec (.recoveryErase ⟨a, false⟩) s = .next { s with rst := { s.rst with
          recAddr := a, torn := whole p 0x10000, flash := put (List.replicate 0x10000 0xFF) p s.rst.flash } } ∧
        exec (.recoveryErase ⟨a, true⟩) s = .next { s with
          freeCount := s.freeCount + 1, rst := { s.rst with recAddr := a, recError := true, torn := tear p 0x10000 } }) ∧
      (0x3F00000 ≤ a → ∀ fails : Bool, exec (.recoveryErase ⟨a, fails⟩) s = .next { s with rst := { s.rst with recAddr := a, recRefused := true } })) ∧
    (∀ off < 0x20000, off % 4 = 0 → exec (.loReadLatch mReq off) s = .next { s with out := .readData mReq off (s.recoveryView off) :: s.out }) ∧
    s.recoveryView 8 = s.rst.recAddr ∧ s.recoveryView 12 = s.rst.recSize ∧ bitOf (s.recoveryView 4) 1 = s.rst.recError ∧ bitOf (s.recoveryView 4) 2 = s.rst.recRefused ∧
    (∀ v : Nat,
      exec (.registerWrite mReq 4 v) s = .next { s with rst := { s.rst with recRefused := s.rst.recRefused && !bitOf v 2, recError := s.rst.recError && !bitOf v 1 } } ∧
      (s.rst.recSize < 2 ^ 17 → exec (.registerWrite mReq 8 v) s = .next { s with rst := { s.rst with recAddr := v % 2 ^ 26 } }) ∧
      (s.rst.recAddr < 2 ^ 26 → exec (.registerWrite mReq 12 v) s = .next { s with rst := { s.rst with recSize := v % 2 ^ 17 } }) ∧
      (∀ k < 16384, exec (.registerWrite mReq (0x10000 + 4 * k) v) s = .next { s with rst := { s.rst with recBuf := buf (leBytes 4 v) (4 * k) s.rst.recBuf } }) ∧
      (v % 8 = 1 → s.rst.recAddr + min s.rst.recSize 65536 ≤ 0x3F00000 →
        (let b := s.flashBytes s.rst.recAddr (min s.rst.recSize 65536)
         exec (.registerWrite mReq 0 v) s = .next { s with out := .recovery b :: s.out, rst := { s.rst with recBuf := buf b 0 s.rst.recBuf } })))

/-! Craxis and the hub firewall. -/

/-- Flits: one that fails its CRC is asked for again, and again while the receiver waits, and the flits before it are received; an ACK goes out with the next number, and with every 32nd
flit; ACK releases what it acknowledges, REPLAY sends it again and at its limit retrains the module; credits are returned, and a message held for them goes (R483 to R485, R491). -/
def Obligations.FlitsAreAcknowledgedAndReplayed : Prop :=
  ∀ s : State, s.Inv → ∀ h < 104, s.cxState h = cxActive →
    let x := s.cxm h
    (∀ (good : Nat) (f : List Byte), flitOk f = false → Completes (.flitCrcFail ⟨h, good, f⟩) s (fun t =>
      let next := (x.rxNext + good) % 1024
      t.cxm h = { x with rxNext := next, rxSince := (x.rxSince + good) % 32, rxPart := x.rxPart + good, waiting := true } ∧ cxReplay h next ∈ t.out ∧
      (∀ i < (x.rxSince + good) / 32, cxAck h ((x.rxNext + 32 * (i + 1) - x.rxSince) % 1024) ∈ t.out) ∧
      t.reg64 (Reg.CRAXIS_COUNT_LO (cxLink h) 1) = min (s.reg64 (Reg.CRAXIS_COUNT_LO (cxLink h) 1) + 1) (2 ^ 48 - 1) ∧ t.mem = s.mem)) ∧
    (∀ (good : Nat) (f : List Byte), flitOk f = true → exec (.flitCrcFail ⟨h, good, f⟩) s = .next s) ∧
    (x.waiting = true → Completes (.replayRepeat h) s (fun t => t.out = cxReplay h x.rxNext :: s.out ∧ t.cx = s.cx ∧ t.mem = s.mem)) ∧
    (x.rxSince ≠ 0 → Completes (.craxisAckSend h) s (fun t => t.out = cxAck h x.rxNext :: s.out ∧ t.cxm h = { x with rxSince := 0 } ∧
      t.regs = s.regs ∧ t.mem = s.mem)) ∧
    (∀ q n : Nat, x.beyond q = some n →
      (x.held = [] → Completes (.linkAck h q) s (fun t => t.cxm h = { x with
        sent := ackFlits x.sent n, replay := if (x.beyond x.replay.1).any (fun d => decide (d < n)) then (0, 0) else x.replay } ∧ t.out = s.out)) ∧
      (let k := if x.replay.1 = q then x.replay.2 + 1 else 1
       let limit := max (s.fld (Fl.CRAXIS_LINK_CFG_REPLAY_LIMIT (cxLink h))) 1
       (k < limit → Completes (.linkReplay h q) s (fun t => t.cxm h = { x with replay := (q, k) } ∧ ∀ e ∈ ackFlits x.sent n, cxAgain h e ∈ t.out)) ∧
       (limit ≤ k → Completes (.linkReplay h q) s (fun t => t.cxState h = cxRetrain ∧ t.out = s.out)))) ∧
    (∀ vc n : Nat, (x.held = [] → Completes (.creditReturn h vc n) s (fun t => t.cxm h = { x with credits := modAt x.credits vc (· + n) } ∧ t.out = s.out)) ∧
      (∀ (op : Nat) (m : CxMsg), s.fld (Fl.CRAXIS_LINK_STATUS_DRAINING (cxLink h)) = 0 → x.held = [(op, m)] → vc = cxVc op → vc < x.credits.length → (x.sent.map (·.flits)).sum + cxFlits m ≤ 128 →
        cxFlits m ≤ x.credits.getD vc 0 + n → (vc = 0 → s.cxReserved h + (⟨cxLink h, h, op, m.tag, m.len, m.master, true⟩ : CxReq).flits ≤ x.room) →
        Completes (.creditReturn h vc n) s (fun t => (t.cxm h).held = [] ∧ cxFrame h op m ∈ t.out)))

/-- The commands of the messages that the hub may send, with the opcodes of R487. -/
def cxCommands : List ((Bool → Nat → CxMsg → Instr) × Nat) :=
  [(.rd, 0x01), (.rdLine, 0x02), (.flush, 0x03), (.csrRd, 0x04), (.wr, 0x08), (.wrLine, 0x09), (.csrWr, 0x0A), (.rdData, 0x10), (.csrData, 0x11), (.cmpl, 0x12),
    (.cap, 0x18), (.pwr, 0x1A), (.resetNote, 0x1B)]

/-- A message of the hub goes on the module that the interleave gives it, when no held message stands in its way, and credits, the retry buffer and, for a request, the buffer for its response
have room, and a request then waits for its response; else it is held there. Behind a dead link a read or flush is failed at once and a posted write is dropped and counted; a stack is sent no
response, and register accesses only of keeper firmware and the row-repair engine. A transfer is as many messages as it has aligned groups of 8 line pairs, each of one group, that together are
the transfer, and each goes out or waits on the module of its own group (R485 to R492, R498, R502). -/
def Obligations.HubSendsMessages : Prop :=
  ∀ s : State, s.Inv → ∀ p ∈ cxCommands, ∀ (l h : Nat) (n : CxMsg), l < 6 →
    let transfer := decide (p.2 = opRd) || decide (p.2 = opWr)
    let m : CxMsg := if p.2 = opPwr then { n with data := s.limitData l (leAt n.data 1 1) } else n
    let barred := decide (1 ≤ l ∧ l ≤ 4) &&
      (decide (cxVc p.2 = 1) || ((decide (p.2 = opCsrRd) || decide (p.2 = opCsrWr)) && decide (m.master ≠ mKeeper) && decide (m.master ≠ mScrub)))
    let x := s.cxm h
    let goes := s.cxState h = cxActive ∧ (∀ e ∈ x.held, cxPass (cxVc p.2) (cxVc e.1) = true) ∧ (x.sent.map (·.flits)).sum + cxFlits m ≤ 128 ∧
      cxFlits m ≤ x.credits.getD (cxVc p.2) 0 ∧ (cxVc p.2 = 0 → s.cxReserved h + (⟨l, h, p.2, m.tag, m.len, m.master, true⟩ : CxReq).flits ≤ x.room)
    (barred = true → exec (p.1 true l n) s = .next s) ∧
    (transfer = true →
      ((cxPieces l m).map (fun q => q.len + 1)).sum = m.len + 1 ∧ (∀ q ∈ cxPieces l m, q.len < 8) ∧
      (m.data.length = 192 * (m.len + 1) → (cxPieces l m).flatMap (·.data) = m.data) ∧
      (s.linkDead l = false → s.fld (Fl.CRAXIS_LINK_STATUS_DRAINING l) = 0 → Completes (p.1 true l n) s (fun t => t.mem = s.mem ∧ t.undef = s.undef ∧
        ∀ q ∈ cxPieces l m, ∀ k, s.cxRoute l p.2 q = some k → cxFrame k p.2 q ∈ t.out ∨ (p.2, q) ∈ (t.cxm k).held))) ∧
    (barred = false → transfer = false ∨ cxPieces l m = [m] → s.linkDead l = false → s.fld (Fl.CRAXIS_LINK_STATUS_DRAINING l) = 0 → s.cxRoute l p.2 m = some h →
      (goes → Completes (p.1 true l n) s (fun t => cxFrame h p.2 m ∈ t.out ∧ t.mem = s.mem ∧ t.undef = s.undef ∧
        (t.cxm h).sent = x.sent ++ [⟨x.next, cxFlits m, p.2, m⟩] ∧
        (cxVc p.2 = 0 → (⟨l, h, p.2, m.tag, m.len, m.master, true⟩ : CxReq) ∈ t.cx.reqs))) ∧
      (¬goes → Completes (p.1 true l n) s (fun t => t.out = s.out ∧ (t.cxm h).held = x.held ++ [(p.2, m)] ∧ t.mem = s.mem))) ∧
    (barred = false → transfer = false ∨ cxPieces l m = [m] → s.linkDead l = true → Completes (p.1 true l n) s (fun t =>
      t.cx.reqs = s.cx.reqs ∧ t.cx.mods = s.cx.mods ∧ t.mem = s.mem ∧
      (cxVc p.2 = 0 → ∃ d, t.out = .craxisDone m.master m.tag (decide (p.2 ≤ 2)) (decide (3 ≤ p.2)) d :: s.out)))

/-- A message that brings the expected flits, from a die that no firewall stands before, is performed, and its room is given back as credits: reads and register reads are answered on its own
module, writes store, register writes write, responses complete their requests, FLUSH is completed, or waits while another module of the link waits for flits sent before. One with a reserved
opcode is dropped and counted, and one that is out of turn does nothing (R485 to R491). -/
def Obligations.ArrivingMessagesArePerformed : Prop :=
  ∀ s : State, s.Inv → ∀ (h : Nat) (m : CxMsg), h < 104 → cxLink h = 0 ∨ cxLink h = 5 → s.cxState h = cxActive →
    ((s.cxm h).expects m = false → ∀ p ∈ cxCommands, exec (p.1 false h m) s = .next s) ∧
    ((s.cxm h).expects m = true → m.code.isSome = true → ∀ p ∈ cxCommands, Completes (p.1 false h m) s (fun t => t.mem = s.mem ∧ t.undef = s.undef ∧ t.tiles = s.tiles ∧
      t.reg64 (Reg.CRAXIS_COUNT_LO (cxLink h) 5) = min (s.reg64 (Reg.CRAXIS_COUNT_LO (cxLink h) 5) + 1) (2 ^ 48 - 1))) ∧
    ((s.cxm h).expects m = true → m.code = none →
      let room := fun (k : Nat) => s.fld (Fl.CRAXIS_LINK_STATUS_DRAINING (cxLink h)) = 0 ∧ (s.cxm h).held = [] ∧ ((s.cxm h).sent.map (·.flits)).sum + k ≤ 128 ∧ k ≤ (s.cxm h).credits.getD 1 0
      let reply := fun (len : Nat) (poison : Bool) (b : List Byte) => ({ cxMsg m.tag m.addr m.master poison false b with len := len, num := h } : CxMsg)
      let bad := fun (k : Nat) => (List.range k).any (fun i => s.poisoned (m.addr + 96 * i))
      let back := fun (t : State) => ∀ o ∈ cxCredits h 0 (cxFlits m), o ∈ t.out
      let behind := (cxMods (cxLink h)).any (fun k => decide (k ≠ h) && ((s.cxm k).waiting || decide ((s.cxm k).rxPart ≠ 0)))
      let stored := fun (t : State) => ∀ a, t.byte a = if m.addr ≤ a ∧ a < m.addr + m.data.length then m.data.getD (a - m.addr) 0 else s.byte a
      (∀ k, k = 2 * (m.len + 1) → room (ceilDiv (12 + 96 * k) 28) →
        (s.reaches m.master m.addr k = true → Completes (.rd false h m) s (fun t =>
          cxFrame h opRdData (reply m.len (bad k) (s.bytes m.addr (96 * k))) ∈ t.out ∧ back t ∧ t.mem = s.mem)) ∧
        (s.reaches m.master m.addr k = false → Completes (.rd false h m) s (fun t =>
          cxFrame h opRdData (reply m.len false (List.replicate (96 * k) 0)) ∈ t.out ∧ s.Told t Ev.unmappedAccess (masterSrc m.master) m.addr ∧ t.mem = s.mem))) ∧
      (room 4 → s.reaches m.master m.addr 1 = true → Completes (.rdLine false h m) s (fun t =>
        cxFrame h opRdData (reply 0 (bad 1) (s.bytes m.addr 96)) ∈ t.out ∧ back t ∧ t.mem = s.mem)) ∧
      (room 1 → behind = false → (∀ e ∈ s.cx.flushes, cxLink e.1 ≠ cxLink h) → Completes (.flush false h m) s (fun t => cxFrame h opCmpl (reply 0 false []) ∈ t.out ∧ t.mem = s.mem)) ∧
      (behind = true → Completes (.flush false h m) s (fun t => t.cx.flushes = s.cx.flushes ++ [(h, m)] ∧ back t ∧ t.mem = s.mem)) ∧
      (∀ r : RegHit, findReg m.addr = some r → r.spec.kind = .plain → s.place m.master m.addr false = .reg m.addr → room 1 → Completes (.csrRd false h m) s (fun t =>
        cxFrame h opCsrData (reply 0 false (leBytes 4 (s.regView m.addr))) ∈ t.out ∧ t.mem = s.mem)) ∧
      (m.data ≠ [] → m.data.length % 96 = 0 → (∀ i < m.data.length, storage (m.addr + i) = true) → s.placeAt m.addr = none → m.poison = false →
        (s.reaches m.master m.addr (m.data.length / 96) = true → (∀ a ∈ linesOf m.addr m.data.length, s.isolatedLine a = false) →
          Completes (.wr false h m) s stored ∧ Completes (.wrLine false h m) s stored) ∧
        (s.reaches m.master m.addr (m.data.length / 96) = false → ∀ c ∈ [Instr.wr false h m, .wrLine false h m], Completes c s (fun t =>
          s.Told t Ev.unmappedAccess (masterSrc m.master) m.addr ∧ t.mem = s.mem ∧ t.undef = s.undef))) ∧
      (m.addr = Reg.CLKG_TRIM → s.place m.master m.addr true = .reg m.addr → Completes (.csrWr false h m) s (fun t =>
        t.fld Fl.CLKG_TRIM_RATE = leAt m.data 0 4 % 2 ^ 20 ∧ t.mem = s.mem)) ∧
      (∀ (c : Bool → Nat → CxMsg → Instr) (op : Nat) (r : CxReq), (c, op) ∈ cxCommands → cxVc op = 1 → s.reqFor (cxLink h) op m.tag = some r →
        Completes (c false h m) s (fun t => .craxisDone r.master r.tag m.poison m.fail m.data ∈ t.out ∧ t.mem = s.mem ∧
          ((s.cxm r.mod).held = [] → t.cx.reqs = s.cx.reqs.filter (fun x => decide (x ≠ r))))))

/-- Management messages that arrive: a CAP that agrees ends a disagreement, one that fails takes the module OUT; an ERR is handled as an error found here; a PWR report is a sensor's reading; a
READY is noted (R495 to R500, R537, R552, R579). -/
def Obligations.ManagementMessagesAct : Prop :=
  ∀ s : State, s.Inv → ∀ (h : Nat) (m : CxMsg), h < 104 → cxLink h = 0 ∨ cxLink h = 5 → s.cxState h = cxActive → (s.cxm h).expects m = true → m.code = none →
    (s.capOk h m.data = true → leAt m.data 14 1 = (s.planOf h).byte → Completes (.cap false h m) s (fun t =>
      (t.cxm h).again = false ∧ t.cxState h = cxActive ∧ t.mem = s.mem)) ∧
    (s.capOk h m.data = false → Completes (.cap false h m) s (fun t => t.cxState h = cxOutState ∧ s.Told t Ev.craxisRevision (srcLink h) 0)) ∧
    (∀ a : Nat, inT2 a = true → Completes (.err h m a true) s (fun t =>
      Store.get (fun _ => false) t.poison2 ((a - baseT2) / 32) = true ∧ t.fld Fl.RAS_STATUS_UE = 1 ∧ s.Told t Ev.eccUncorrected srcUpd (a % 2 ^ 48) ∧ t.mem = s.mem)) ∧
    (∀ i : Nat, cxLink h = 0 → leAt m.data 0 1 = 1 → leAt m.data 1 1 = i → leAt m.data 2 2 < 2 ^ 15 → Completes (.pwr false h m) s (fun t =>
      t.temp 0 i = some (leAt m.data 2 2 : Int) ∧
      (⟨0, i, leAt m.data 4 4, leAt m.data 8 2, leAt m.data 10 1, leAt m.data 12 4⟩ : PwrReport) ∈ t.pwr.reports ∧ t.mem = s.mem)) ∧
    (leAt m.data 0 1 = 2 → Completes (.resetNote false h m) s (fun t => dieOf h ∈ t.rst.ready ∧ t.mem = s.mem))

/-- The firewall: a request unanswered in time, a sideband message that is none of link management, and a message whose opcode the stack may not send are violations, counted, marked and told of;
with ACT at isolation the stack is isolated and its reads complete poisoned. Register accesses over the sideband go to a stack from keeper firmware and the row-repair engine alone, and to no
isolated one (R502 to R504). -/
def Obligations.FirewallJudges : Prop :=
  ∀ s : State, s.Inv → ∀ st < 4, s.job = none →
    let count := fun (c : Nat) (t : State) => t.reg64 (Reg.FWALL_VIOL_LO st c) = min (s.reg64 (Reg.FWALL_VIOL_LO st c) + 1) (2 ^ 48 - 1) ∧
      bitOf (t.fld (Fl.FWALL_STATUS_VIOL st)) c = true ∧ t.mem = s.mem
    (∀ (tag : Nat) (r : CxReq), s.cx.reqs.find? (fun r => decide (r.link = st + 1 ∧ r.tag = tag) && r.sent) = some r → Completes (.firewallTimeout st tag) s (fun t =>
      count 5 t ∧ (bitsOf (s.fld (Fl.FWALL_CTRL_ACT st)) 11 10 = 0 → s.fld (Fl.FWALL_CTRL_ESC st) = 0 → t.cx.reqs = s.cx.reqs) ∧
      (2 ≤ bitsOf (s.fld (Fl.FWALL_CTRL_ACT st)) 11 10 → s.fld (Fl.FWALL_STATUS_ISOLATED st) = 0 →
        t.fld (Fl.FWALL_STATUS_ISOLATED st) = 1 ∧ (∀ h ∈ cxMods (st + 1), t.cxState h = cxIsolated) ∧ (∀ x ∈ t.cx.reqs, x.link ≠ st + 1) ∧
        .craxisDone r.master r.tag (decide (r.op = opRd) || decide (r.op = opRdLine)) (decide (r.op = opCsrRd) || decide (r.op = opFlush))
          (if r.op = opCsrRd then leBytes 4 0xFFFFFFFF else []) ∈ t.out))) ∧
    (∀ p ∈ cxCommands, ∀ (h : Nat) (m : CxMsg), h < 104 → cxLink h = st + 1 → s.cxState h = cxActive → (s.cxm h).expects m = true →
      m.code.isSome = true ∨ bitOf (s.fld (Fl.FWALL_OPS_OPS st)) p.2 = false ∨ m.vc ≠ cxVc p.2 → Completes (p.1 false h m) s (fun t => count 1 t ∧ t.tiles = s.tiles)) ∧
    (s.fld (Fl.FWALL_STATUS_ISOLATED st) = 0 → Completes (.sidebandMessage st .other) s (fun t => count 0 t ∧
      (s.cx.raised.find? (fun e => decide (e.1 = st ∧ e.2.1 = 0)) = none → s.Told t Ev.firewallViolation (srcStack st) 0))) ∧
    exec (.sidebandMessage st .link) s = .next s ∧
    (∀ a : SideAccess,
      (s.fld (Fl.FWALL_STATUS_ISOLATED st) = 0 → a.master = mKeeper ∨ a.master = mScrub →
        exec (.sidebandMessage st (.access a)) s = .next { s with out := .sideband st a :: s.out }) ∧
      (a.master ≠ mKeeper → a.master ≠ mScrub → exec (.sidebandMessage st (.access a)) s = .next s)) ∧
    (s.fld (Fl.FWALL_STATUS_ISOLATED st) ≠ 0 → ∀ x : SideMsg, exec (.sidebandMessage st x) s = .next s)

/-- Modules train and retrain: a plan, of the features that both ends set, and a CAP that agree make a module ACTIVE with the credits that CAP gives; more bad lanes than any plan bears take it OUT;
the first timeout tries once more, the second takes it OUT; a lane fault and, one at a time, a recalibration retrain it; a retrain that finds nothing new puts it back in service (R494 to R497, R500). -/
def Obligations.ModulesTrain : Prop :=
  ∀ s : State, s.Inv → ∀ h < 104,
    (∀ (a b : Nat) (cap : List Byte), s.cxState h = cxTraining → h ∉ s.cx.relearn →
      let bad := (s.fld (Fl.CRAXIS_MOD_STATUS_BAD h) + (s.cxm h).badSpares * 2 ^ 16 ||| a ||| b) % 2 ^ 18
      let features := leAt cap 4 2 &&& cxFeatures
      let passes := ∀ st < 4, cxLink h = st + 1 → bitOf (s.fld (Fl.FWALL_OPS_OPS st)) opCap = true ∧
        (s.cx.mgt.filter (fun e => decide (e.1 = st ∧ s.time - e.2 < 1000))).length < s.fld (Fl.FWALL_LIMIT_RATE st)
      (∀ p : LanePlan, lanePlan features bad = some p → s.capOk h cap = true → leAt cap 14 1 = p.byte → passes → Completes (.moduleTrained h a b cap) s (fun t =>
        t.cxState h = cxActive ∧ (t.cxm h).credits = (List.range 4).map (fun i => leAt cap (8 + i) 1) ∧ t.fld (Fl.CRAXIS_MOD_STATUS_BAD h) = bad % 2 ^ 16 ∧
        .lanePlan h (if p.x8 then 8 else 16) (if p.upper then 1 else 0) p.spare0 p.spare1 ∈ t.out ∧ t.mem = s.mem)) ∧
      (lanePlan features bad = none → Completes (.moduleTrained h a b cap) s (fun t => t.cxState h = cxOutState ∧ s.Told t Ev.craxisModuleDown (srcLink h) 0))) ∧
    (s.cxState h = cxTraining → (s.cxm h).tries = 0 → Completes (.trainingTimeout h) s (fun t => t.cxm h = { s.cxm h with tries := 1 } ∧ t.regs = s.regs)) ∧
    (s.cxState h = cxTraining → (s.cxm h).tries ≠ 0 → Completes (.trainingTimeout h) s (fun t =>
      t.cxState h = cxOutState ∧ s.Told t Ev.craxisModuleDown (srcLink h) 0)) ∧
    (s.cxState h = cxActive → Completes (.laneFault h) s (fun t => t.cxState h = cxRetrain ∧ (t.cxm h).calibrating = false ∧ t.out = s.out ∧ t.mem = s.mem)) ∧
    (s.cxState h = cxActive → s.fld (Fl.CRAXIS_LINK_CFG_CAL_MS (cxLink h)) ≠ 0 → (∀ k ∈ cxMods (cxLink h), s.cxState k ≠ cxRetrain) →
      Completes (.recalibration h) s (fun t => t.cxState h = cxRetrain ∧ (t.cxm h).calibrating = true ∧ t.out = s.out ∧ t.mem = s.mem)) ∧
    (s.cxState h = cxRetrain → s.cx.relearn = [] →
      lanePlan (s.linkFeatures (cxLink h)) ((s.fld (Fl.CRAXIS_MOD_STATUS_BAD h) + (s.cxm h).badSpares * 2 ^ 16) % 2 ^ 18) ≠ none →
      Completes (.craxisRetrainDone h 0 0) s (fun t => t.cxState h = cxActive ∧ s.Told t Ev.craxisRetrain (srcLink h) 0 ∧
        (∀ e ∈ (s.cxm h).sent, cxAgain h e ∈ t.out) ∧ t.mem = s.mem))

/-- Links and far dies: a rebuilt link resumes, and what is sent again and what waited for it goes out or is held on its module, or waits on where no module is in service; a far die that enters
reset is sent a RESET_NOTE first, has its reads completed poisoned, its modules in RESET and its writes dropped, and is told of; the release of one that the start had released, with no FULL
interval open, begins bring-up; RELEARN clears the BAD records of a link, and its modules retrain one at a time (R493, R498, R506, R550, R552, R554). -/
def Obligations.FarDiesResetAndLinksRebuild : Prop :=
  ∀ s : State, s.Inv →
    (∀ l < 6, s.fld (Fl.CRAXIS_LINK_STATUS_DRAINING l) = 1 → Completes (.interleaveRebuildDone l) s (fun t =>
      let waiting := s.cx.resends ++ s.cx.pending
      t.fld (Fl.CRAXIS_LINK_STATUS_DRAINING l) = 0 ∧ t.cx.rebuilt.head? = some (l, s.time) ∧ t.mem = s.mem ∧ t.undef = s.undef ∧
      (∀ e ∈ s.cx.pending, e.1 ≠ l → e ∈ t.cx.pending) ∧ (∀ e ∈ s.cx.resends, e.1 ≠ l → e ∈ t.cx.resends) ∧
      ((∀ e ∈ waiting, e.1 ≠ l) → (∀ h ∈ cxMods l, (s.cxm h).held = []) → t.out = s.out ∧ t.cx.mods = s.cx.mods) ∧
      ∀ e ∈ waiting, e.1 = l → match s.cxRoute l e.2.1 e.2.2 with
        | some h => cxFrame h e.2.1 e.2.2 ∈ t.out ∨ (e.2.1, e.2.2) ∈ (t.cxm h).held
        | none => e ∈ t.cx.pending)) ∧
    (∀ l < 6, s.fld (Fl.CRAXIS_LINK_STATUS_DRAINING l) = 0 → exec (.interleaveRebuildDone l) s = .next s) ∧
    (∀ d < 8, s.cx.inReset.contains d = false → Completes (.farDieResetEnter d) s (fun t =>
      t.cx.inReset.contains d = true ∧ (∀ h ∈ dieMods d, t.cxState h = cxReset) ∧ d ∉ t.rst.ready ∧ t.fld (Fl.CRAXIS_LINK_STATUS_DRAINING (dieLink d)) = 1 ∧
      s.Told t Ev.craxisPeerReset (srcLink ((dieMods d).headD 0)) 0 ∧ t.mem = s.mem ∧
      (∀ h, (s.inService (dieLink d)).head? = some h → cxFrame h opResetNote (cxMsg 0 0 mKeeper false false [1, 0, 0, 0]) ∈ t.out) ∧
      (∀ r ∈ s.cx.reqs, r.link = dieLink d → r.mod ∈ dieMods d ∨ d ≤ 4 → r.op = opRd → .craxisDone r.master r.tag true false [] ∈ t.out ∧ r ∉ t.cx.reqs))) ∧
    (∀ d < 8, s.cx.inReset.contains d = true →
      let may := s.rst.released.contains d = true ∧ (s.rst.interval = false ∨ s.rst.widest < 2)
      (may → Completes (.farDieResetRelease d) s (fun t =>
        t.cx.inReset.contains d = false ∧ (∀ h ∈ dieMods d, t.cxState h = cxTraining) ∧
        (∀ h ∈ dieMods d, t.fld (Fl.CRAXIS_MOD_STATUS_BAD h) = s.fld (Fl.CRAXIS_MOD_STATUS_BAD h)) ∧ t.mem = s.mem ∧ t.out = s.out)) ∧
      (¬may → exec (.farDieResetRelease d) s = .next s)) ∧
    (∀ l < 6, ∀ v : Nat, bitOf v 24 = true → Completes (.relearn mKeeper l v) s (fun t =>
      (∀ h ∈ cxMods l, t.fld (Fl.CRAXIS_MOD_STATUS_BAD h) = 0 ∧ (t.cxm h).badSpares = 0) ∧ t.mem = s.mem ∧
      ((∀ h ∈ cxMods l, s.cxState h ≠ cxRetrain) → ∀ h, (cxMods l).find? (fun h => decide (s.cxState h = cxActive)) = some h → t.cxState h = cxRetrain) ∧
      ((∃ h ∈ cxMods l, s.cxState h = cxRetrain) → ∀ h ∈ cxMods l, t.cxState h = s.cxState h ∧ (s.cxState h = cxActive ∨ s.cxState h = cxRetrain → h ∈ t.cx.relearn))))

/-! Errors, spares, events, counters. -/

/-- Errors that a scrub finds: an uncorrectable one poisons what it holds, unless the line has been written since, is marked and told of; a correctable one is counted; SCRUB_EN stops the
scrubs alone, and another read's error is handled all the same; a faulty T0 row is replaced by a spare; an error in a tile's own storage fails its Take (R579 to R581, R590, R591, R595, R596).
A T1 row for which a repair is wanted is repaired while its stack has repairs left, and the bursts found bad in it are poisoned; without one the exhaustion is told of. Background work that
takes a forced slot is counted, and told of once for its kind in 1 s (R590, R595). -/
def Obligations.ErrorsAreScrubbedAndRowsRepaired : Prop :=
  (∀ s : State, s.Inv →
      let count := fun (k : Nat) (t : State) => t.reg64 (Reg.RAS_COUNT_LO k) = min (s.reg64 (Reg.RAS_COUNT_LO k) + 1) (2 ^ 48 - 1)
      let marks := fun (t : State) => t.poison0 = s.poison0 ∧ t.poison1 = s.poison1 ∧ t.poison2 = s.poison2 ∧ t.mem = s.mem ∧ t.undef = s.undef
      (∀ (a e : Nat) (raced : Bool), s.fld Fl.RAS_CTRL_SCRUB_EN = 0 → exec (.scrubStep (.mem a) e raced) s = .next s) ∧
      (∀ (a : Nat) (raced : Bool), Completes (.scrubStep (.mem a) 0 raced) s (fun t => marks t ∧ t.events = s.events)) ∧
      (∀ a : Nat, s.fld Fl.RAS_CTRL_SCRUB_EN = 1 → inT1 a = true ∨ inT2 a = true →
        let told := fun (t : State) => count 2 t ∧ t.fld Fl.RAS_STATUS_UE = 1 ∧
          s.Told t Ev.eccUncorrected (if inT2 a then srcUpd else srcStack (t1Stack a)) (a % 2 ^ 48)
        let wanted := fun (t : State) => inT1 a = true → t.hub.t1Repair.contains (t1Row a) = true
        Completes (.scrubStep (.mem a) 2 false) s (fun t => t.poisoned a = true ∧ told t ∧ wanted t ∧ t.mem = s.mem) ∧
        Completes (.scrubStep (.mem a) 2 true) s (fun t => told t ∧ wanted t ∧ marks t) ∧
        Completes (.scrubStep (.mem a) 1 false) s (fun t => count 1 t ∧ marks t ∧
          (inT1 a = true → (∃ e ∈ s.hub.t1Rows, e.1 = t1Row a ∧ e.2 ≠ s.patrolPass) → t.hub.t1Repair.contains (t1Row a) = true))) ∧
      (∀ (a : Nat) (raced : Bool), inT1 a = true ∨ inT2 a = true → Completes (.scrubStep (.read a) 2 raced) s (fun t => t.poisoned a = true ∧ count 2 t ∧
        t.fld Fl.RAS_STATUS_UE = 1 ∧ s.Told t Ev.eccUncorrected (if inT2 a then srcUpd else srcStack (t1Stack a)) (a % 2 ^ 48) ∧ t.mem = s.mem)) ∧
      (∀ a p n : Nat, s.fld Fl.RAS_CTRL_SCRUB_EN = 1 → physAt a = some p → s.logicalOf p = some n →
        (s.hub.rows.filter (fun r => decide (r = (p, bankOf ((a - physBase p) / 96))))).length < 4 →
        Completes (.scrubStep (.mem a) 2 false) s (fun t => t.poisoned a = true ∧ count 5 t ∧ t.hub.rows = s.hub.rows ++ [(p, bankOf ((a - physBase p) / 96))] ∧
          s.Told t Ev.eccUncorrected (srcPhys p) (sramDetail 0 ((a - physBase p) / 8)) ∧ s.Told t Ev.sramRowSpared (srcPhys p) 0 ∧ t.mem = s.mem)) ∧
      (∀ n : Nat, (s.tile n).take.isSome = true → (s.tile n).failed = none → Completes (.scrubStep (.parity n) 2 false) s (fun t =>
        (t.tile n).failed = some ⟨s.slate n, true⟩ ∧ s.Told t Ev.tileFault (srcTile n) 0 ∧ count 2 t ∧ marks t))) ∧
  (∀ s : State, s.Inv →
      (∀ (a : Nat) (bad : List Nat), s.hub.t1Repair.contains (t1Row a) = false → exec (.dramRowRepair a bad) s = .next s) ∧
      (∀ (a : Nat) (bad : List Nat), inT1 a = true → bad.length < 15 → s.hub.t1Repair.contains (t1Row a) = true → Completes (.dramRowRepair a bad) s (fun t =>
        t.mem = s.mem ∧ t.undef = s.undef ∧ t.hub.t1Repair.contains (t1Row a) = false ∧
        if Store.get (fun _ => 0) s.rst.hardRepairs (t1Stack a) + (s.rst.softRepairs.filter (fun x => decide (x = t1Stack a))).length < Config.repairRows (t1Stack a)
        then t.rst.softRepairs = s.rst.softRepairs ++ [t1Stack a] ∧ (∀ b ∈ bad, inT1 b = true → t1Row b = t1Row a → Store.get (fun _ => false) t.poison1 ((b - baseT1) / 64) = true) ∧
          t.reg64 (Reg.RAS_COUNT_LO 6) = min (s.reg64 (Reg.RAS_COUNT_LO 6) + 1) (2 ^ 48 - 1) ∧ s.Told t Ev.dramRowRepaired (srcStack (t1Stack a)) 0
        else t.rst = s.rst ∧ t.poison1 = s.poison1 ∧ t.fld Fl.RAS_STATUS_EXHAUSTED = 1 ∧ s.Told t Ev.repairExhausted (srcStack (t1Stack a)) 0)) ∧
      (∀ k : Nat, Completes (.backgroundForced k) s (fun t =>
        t.reg64 (Reg.RAS_COUNT_LO 7) = min (s.reg64 (Reg.RAS_COUNT_LO 7) + 1) (2 ^ 48 - 1) ∧ t.mem = s.mem ∧ t.tiles = s.tiles ∧
        (s.hub.bgAt.find? (fun e => decide (e.1 = k)) = none → s.Told t Ev.backgroundForced (backgroundSrc k) 0) ∧
        (∀ e, s.hub.bgAt.find? (fun e => decide (e.1 = k)) = some e → s.time < e.2 + 1000000000 → t.events = s.events ∧ t.hub = s.hub))))


/-- Stand-ins: a planned swap is armed by a write; a tile whose hardware failed moves to a stand-in, of its own field first, or its job stops; a tile that was armed when it came to wait at a
cross-module Clapper is copied whole to its stand-in, and every instruction word found bad in the copy is told of (R592, R593). -/
def Obligations.StandInsReplaceTiles : Prop :=
  ∀ s : State, s.Inv →
    (∀ m v : Nat, bitOf v 8 = true → bitsOf v 7 0 < 180 → Completes (.plannedSwapRequest m v) s (fun t =>
      bitsOf v 7 0 ∈ t.hub.swapArmed ∧ t.fld Fl.RAS_STATUS_SWAP_ARMED = 1 ∧ t.tiles = s.tiles ∧ t.mem = s.mem)) ∧
    (∀ n < 180,
      let old := s.physOf n
      let moved := fun (p : Nat) (t : State) => t.physOf n = p ∧ t.power p = .on ∧ t.power old = .off ∧ t.hub.retired = s.hub.retired ++ [old] ∧
        t.fld (Fl.RAS_TILEMAP_SWAPPED n) = 1 ∧ (∀ k < 180, k ≠ n → t.physOf k = s.physOf k)
      (∀ f, (s.tile n).failed = some f → f.swap = true → s.fld (Fl.TILE_SEQ_STATUS_STATE n) = seqAborting →
        (∀ p, s.standinFor old = some p → Completes (.standinSwapReactive n) s (fun t =>
          moved p t ∧ (t.tile n).failed = some { f with swap := false } ∧ s.Told t Ev.standinSwap (srcTile n) (old + p * 256))) ∧
        (s.standinFor old = none → Completes (.standinSwapReactive n) s (fun t =>
          s.Told t Ev.standinExhausted (srcTile n) 0 ∧ t.runJob = none))) ∧
      (∀ (c : Nat) (bad : List Nat), (s.tile n).wait = .clapx c → s.hub.swapping.contains n = true → s.coll.manager ≠ s.me → bad.length < 12 →
        (∀ p, s.standinFor old = some p → Completes (.plannedSwapComplete ⟨n, bad⟩) s (fun t =>
          moved p t ∧ t.hub.swapArmed.contains n = false ∧ t.hub.swapping.contains n = false ∧ ((∀ k ∈ s.hub.swapping, k = n) → t.fld Fl.RAS_STATUS_SWAP_BUSY = 0) ∧
          (∀ o < tileBytes, t.byte (physBase p + o) = s.byte (physBase old + o)) ∧ s.Told t Ev.standinSwap (srcTile n) (old + p * 256 + 65536) ∧
          ∀ pc ∈ bad, s.Told t Ev.eccUncorrected (srcPhys old) (sramDetail 1 pc))) ∧
        (s.standinFor old = none → Completes (.plannedSwapComplete ⟨n, bad⟩) s (fun t =>
          t.physOf n = old ∧ t.hub.swapArmed.contains n = false ∧ s.Told t Ev.standinExhausted (srcTile n) 0 ∧ t.mem = s.mem))))

/-- The event ring: the oldest waiting record goes to the ring and then PROD, while the ring has room, and RING_FULL reads whether records wait for room; stage firmware consumes a record and copies it to the rings of the functions entitled to it,
or to the backlogs of those that have detached (R473, R588, R589). -/
def Obligations.EventsReachTheirRings : Prop :=
  ∀ s : State, s.Inv → s.ringOn = true →
    (∀ (e : Event) (l : List Event), s.events = e :: l → s.ringFull = false → Completes .eventRingWrite s (fun t =>
      let b := s.ringBase + 32 * ((s.reg Reg.RAS_EVR_PROD).toNat % s.ringSize)
      t.events = l ∧ t.reg Reg.RAS_EVR_PROD = s.reg Reg.RAS_EVR_PROD + 1 ∧
      (∀ x, t.byte x = if b ≤ x ∧ x < b + 32 ∧ s.isolatedLine x = false then e.bytes.getD (x - b) 0 else s.byte x))) ∧
    (s.ringFull = true → exec .eventRingWrite s = .next s) ∧
    (s.fld Fl.RAS_STATUS_RING_FULL = 0 → bitOf (s.regView Reg.RAS_STATUS) 4 = (s.ringFull && !s.events.isEmpty)) ∧
    (s.performs = true → s.reg Reg.RAS_EVR_PROD ≠ s.reg Reg.RAS_EVR_CONS → Completes .eventRingCopy s (fun t =>
      let b := s.bytes (s.ringBase + 32 * ((s.reg Reg.RAS_EVR_CONS).toNat % s.ringSize)) 32
      t.reg Reg.RAS_EVR_CONS = s.reg Reg.RAS_EVR_CONS + 1 ∧ t.events = s.events ∧
      t.host.pldmLog = (if 3 ≤ bitsOf (leAt b 2 1) 2 0 ∨ leAt b 0 2 / 256 = 2 then s.host.pldmLog ++ [leAt b 0 2] else s.host.pldmLog) ∧
      (∀ f < 9, s.entitled f b = true → s.attached f = true → (s.hfn f).evrOn = true → s.evrFull f = false →
        .hostWrite f (s.reg64 (Reg.EVR_BASE_LO f) + 32 * (s.hfn f).evrTail) b ∈ t.out) ∧
      (∀ f < 9, s.entitled f b = true → s.attached f = true → (s.hfn f).evrOn = true → s.evrFull f = true → (t.hfn f).missed = (s.hfn f).missed + 1) ∧
      (∀ f < 9, s.entitled f b = true → s.attached f = false → s.fld (Fl.FN_EPOCH_EPOCH f) ≠ 0 → s.backlogOk = true →
        (t.hfn f).backProd = (s.hfn f).backProd + 1)))

/-- Dailies: a tick latches every counter for the streams due, unless a latch is held, and begins a new interval of the monitors; a stream's record goes to its ring and the last one due releases
the latch; ENABLE starts a stream whose base is good (R616 to R620, R626, R632). -/
def Obligations.DailiesAreLatchedAndRecorded : Prop :=
  ∀ s : State, s.Inv →
    (s.fld Fl.PMON_CTRL_EN = 0 → exec .dailiesTick s = .next s) ∧
    (s.fld Fl.PMON_CTRL_EN = 1 → Completes .dailiesTick s (fun t =>
      let due := (List.range 9).filter (fun f => decide (s.fld (Fl.DLY_CTRL_ENABLE f) = 1) && decide (((s.stream f).seq + 1) % s.dlyDiv f = 0))
      let room := due.filter (fun f => !s.dlyFull f)
      t.mem = s.mem ∧ t.tiles = s.tiles ∧
      (∀ m < 32, t.fld (Fl.BW_MIN_RATE m) = 0xFFFFFF ∧ t.fld (Fl.BW_MAX_RATE m) = 0 ∧ t.reg (Reg.BW_COUNT m) = 0 ∧ t.fld (Fl.BW_LAST_RATE m) = s.fld (Fl.BW_LAST_RATE m)) ∧
      (∀ n < 64, Store.get (fun _ => 0) t.hub.alloc n = (if 8 < s.fld (Fl.PMON_ALLOC_GUEST n) then 0 else s.fld (Fl.PMON_ALLOC_GUEST n))) ∧
      (s.hub.latch = none →
        t.hub.latch = (if room.isEmpty then none else some ⟨s.time, (s.reg Reg.COLL_STEP).toNat, s.regs, room⟩) ∧
        ∀ f < 9, (t.stream f).seq = if s.fld (Fl.DLY_CTRL_ENABLE f) = 1 then ((s.stream f).seq + 1) % 2 ^ 32 else (s.stream f).seq) ∧
      (s.hub.latch.isSome = true → t.hub.latch = s.hub.latch ∧ ∀ f ∈ due, (t.stream f).missed = min ((s.stream f).missed + 1) (2 ^ 32 - 1)))) ∧
    (∀ f < 9, ∀ l : DailyLatch, s.hub.latch = some l → l.due.contains f = true → s.fld (Fl.DLY_CTRL_ENABLE f) = 1 →
      let p := (s.reg (Reg.DLY_PROD f)).toNat
      let base := s.reg64 (Reg.DLY_BASE_LO f)
      let a := base + 192 + p % s.dlySlots f * (192 * slotUnits (s.fld (Fl.DLY_CFG_MASK f)))
      let b := s.dlyRecord l f
      let left := l.due.filter (fun x => decide (x ≠ f))
      Completes (.dailiesRecordWrite f) s (fun t =>
        t.reg (Reg.DLY_PROD f) = s.reg (Reg.DLY_PROD f) + 1 ∧ (t.stream f).missed = 0 ∧ t.hub.latch = (if left.isEmpty then none else some { l with due := left }) ∧
        (s.fld (Fl.DLY_CTRL_HOST f) = 1 → .hostWrite f a b ∈ t.out ∧ .hostWrite f base (leBytes 8 (p + 1)) ∈ t.out ∧ t.mem = s.mem) ∧
        (s.fld (Fl.DLY_CTRL_HOST f) = 0 → rangeT1 base 8 = true → rangeT1 a b.length = true → t.out = s.out ∧ ∀ x,
          t.byte x = if s.isolatedLine x = true then s.byte x else if base ≤ x ∧ x < base + 8 then (leBytes 8 (p + 1)).getD (x - base) 0 else if a ≤ x ∧ x < a + b.length then b.getD (x - a) 0 else s.byte x))) ∧
    (∀ f < 9, ∀ m v : Nat, s.fld (Fl.DLY_CTRL_ENABLE f) = 0 → bitOf v 0 = true →
      let base := s.reg64 (Reg.DLY_BASE_LO f)
      let ok := if bitOf v 1 then decide (base % 4096 = 0)
        else onPair base && rangeT1 base (192 + s.dlySlots f * 192 * slotUnits (s.fld (Fl.DLY_CFG_MASK f)))
      Completes (.dlyEnableWrite m f v) s (fun t => t.mem = s.mem ∧
        (ok = true → t.fld (Fl.DLY_CTRL_ENABLE f) = 1 ∧ t.reg (Reg.DLY_PROD f) = 0 ∧ t.stream f = ⟨0, 0, none⟩) ∧
        (ok = false → t.fld (Fl.DLY_CTRL_ENABLE f) = 0 ∧ t.fld Fl.PMON_CTRL_BADBASE = 1 ∧ t.stream f = s.stream f)))

/-- Monitors and samples: a window's end gives every monitor its rate, but not a window cut short by a write of its register; a tile's oldest sample goes to its buffer, or is lost and counted while the
buffer is full (R615, R623, R624, R631). -/
def Obligations.MonitorsAndSamples : Prop :=
  ∀ s : State, s.Inv →
    (s.hub.bwSkip = false → Completes .bwWindowEnd s (fun t => t.hub.bw = [] ∧ t.mem = s.mem ∧ t.events = s.events ∧ ∀ m < 32,
      let r := min (Store.get (fun _ => 0) s.hub.bw m / s.bwWindow) 0xFFFFFF
      t.fld (Fl.BW_LAST_RATE m) = r ∧ t.fld (Fl.BW_MIN_RATE m) = min (s.fld (Fl.BW_MIN_RATE m)) r ∧ t.fld (Fl.BW_MAX_RATE m) = max (s.fld (Fl.BW_MAX_RATE m)) r ∧
      t.reg (Reg.BW_COUNT m) = s.reg (Reg.BW_COUNT m) + 1)) ∧
    (s.hub.bwSkip = true → exec .bwWindowEnd s = .next { s with hub := { s.hub with bw := [], bwSkip := false } }) ∧
    (∀ m v : Nat, Completes (.bwWindowWrite m v) s (fun t =>
      t.fld Fl.PMON_BW_CTRL_WINDOW = v % 2 ^ 20 ∧ t.hub = { s.hub with bw := [], bwSkip := true } ∧ t.mem = s.mem ∧ ∀ o ≠ Reg.PMON_BW_CTRL, t.reg o = s.reg o)) ∧
    (∀ n < 180, ∀ (b : List Byte) (l : List (List Byte)), (s.tile n).sampled = b :: l → b.length ≤ 32 → Completes (.sampleWrite n) s (fun t =>
      t.tile n = { s.tile n with sampled := l } ∧ (∀ k ≠ n, t.tile k = s.tile k) ∧
      match s.smpBase with
      | none => t.fld Fl.PMON_CTRL_BADBASE = 1 ∧ t.mem = s.mem
      | some a =>
        if ((s.reg (Reg.TILE_SMP_PROD n)).toNat + 2 ^ 32 - (s.reg (Reg.TILE_SMP_CONS n)).toNat) % 2 ^ 32 < 4096 then
          (let at' := a + n * 131072 + (s.reg (Reg.TILE_SMP_PROD n)).toNat % 4096 * 32
           t.reg (Reg.TILE_SMP_PROD n) = s.reg (Reg.TILE_SMP_PROD n) + 1 ∧
             ∀ x, t.byte x = if at' ≤ x ∧ x < at' + b.length ∧ s.isolatedLine x = false then b.getD (x - at') 0 else s.byte x)
        else t.reg64 (Reg.TILE_SMP_LOST_LO n) = min (s.reg64 (Reg.TILE_SMP_LOST_LO n) + 1) (2 ^ 48 - 1) ∧ t.mem = s.mem))

/-! The host. -/

/-- Rings: on a ring whose turn it is the entry at the head is read, and a current one is taken up, a malformed one completes at once, and during a start only LOAD_JOB is taken, and refused; one
that is not current is read again, 16 times at most, and then stalls its ring. A doorbell of an attached function for a ring in use, under the epoch in force and within the ring, moves the
tail or the head, and a new head lets a completion that waits be written; any other changes nothing but STALE_DB, or is told of. A completion ring found full is told of once; a completion not
yet signalled is signalled (R466 to R470, R557, R589; the round of the rings is log entry 211). -/
def Obligations.RingsTakeEntries : Prop :=
  ∀ s : State, s.Inv → ∀ f < 9, ∀ q < 4,
    let r := s.hring f q
    let ends := fun (status : Nat) (t : State) => (t.hring f q).cur = none ∧
      ∃ b, leAt b 4 1 = status ∧ Out.hostWrite f (s.reg64 (Reg.CQ_BASE_LO f q) + 32 * r.cqTail) b ∈ t.out
    let take := fun (e : List Byte) (c : Instr) =>
      (s.performs = true → malformed e = false → Completes c s (fun t => (t.hring f q).cur = some ⟨e, false, false, none⟩ ∧
        (t.hring f q).serial = (r.serial + 1) % 65536 ∧ (t.hring f q).tries = none ∧
        t.fld (Fl.RING_STATUS_SQ_HEAD f q) = (s.fld (Fl.RING_STATUS_SQ_HEAD f q) + 1) % s.sqSize f q ∧ t.mem = s.mem ∧ t.out = s.out)) ∧
      (s.performs = true → e.length = 64 → malformed e = true → Completes c s (ends 1)) ∧
      (s.performs = false → s.starting = true → e.length = 64 → leAt e 0 1 = 1 → Completes c s (ends 3)) ∧
      (s.performs = false → s.starting = false ∨ leAt e 0 1 ≠ 1 → Completes c s (fun t => t.hring f q = r ∧ t.regs = s.regs ∧ t.mem = s.mem ∧ t.out = s.out))
    (s.ringReady f q = true → s.fld (Fl.RING_CFG_SQ_LOG2 f q) ≤ 12 → ∀ e : List Byte,
      (s.entryCurrent f q e = true →
        (r.tries = none → s.ringTurn f q = true → take e (.sqEntryRead f q e)) ∧ (r.tries ≠ none → take e (.sqEntryReread f q e))) ∧
      (s.entryCurrent f q e = false →
        (r.tries = none → s.ringTurn f q = true →
          Completes (.sqEntryRead f q e) s (fun t => (t.hring f q).tries = some 0 ∧ t.host.turn = 4 * f + q ∧ t.regs = s.regs ∧ t.mem = s.mem)) ∧
        (∀ k, r.tries = some k → k + 1 < 16 → Completes (.sqEntryReread f q e) s (fun t => (t.hring f q).tries = some (k + 1) ∧ t.regs = s.regs ∧ t.mem = s.mem)) ∧
        (∀ k, r.tries = some k → 16 ≤ k + 1 → Completes (.sqEntryReread f q e) s (fun t => (t.hring f q).tries = none ∧
          t.fld (Fl.RING_STATUS_STALLED f q) = 1 ∧ s.Told t Ev.hostDoorbellEarly (srcFn f) 0))) ∧
      (s.ringTurn f q = false → exec (.sqEntryRead f q e) s = .next s)) ∧
    (∀ m v : Nat,
      let epoch := bitsOf v 23 16 = s.fld (Fl.FN_EPOCH_EPOCH f) ∧ s.attached f = true
      let i := bitsOf v 11 0
      let sq := Instr.sqDoorbell m f q v
      let cq := Instr.cqDoorbell m f q v
      let evr := Instr.evrHeadWrite m f v
      let stale := fun (c : Instr) => Completes c s (fun t =>
        t.fld (Fl.FN_STATUS_STALE_DB f) = min (s.fld (Fl.FN_STATUS_STALE_DB f) + 1) 255 ∧ t.host = s.host ∧ t.mem = s.mem)
      let beyond := fun (c : Instr) => Completes c s (fun t => s.Told t Ev.hostDoorbellInvalid (srcFn f) 0 ∧ t.host = s.host ∧ t.mem = s.mem)
      (epoch → r.on = true → i < s.sqSize f q → Completes sq s (fun t =>
        (t.hring f q) = { r with tail := i } ∧ t.fld (Fl.RING_STATUS_STALLED f q) = 0 ∧ t.mem = s.mem ∧ t.out = s.out)) ∧
      (epoch → r.on = true → i < s.cqSize f q → Completes cq s (fun t =>
        (t.hring f q).cqHead = i ∧ (t.fld (Fl.RING_STATUS_CQ_FULL f q) = 1 ↔ t.cqFull f q = true) ∧
        ((∀ c, r.cur = some c → c.held = none) → t.mem = s.mem ∧ t.out = s.out) ∧
        (∀ c x, r.cur = some c → c.held = some x → c.orphan = false → (r.cqTail + 1) % s.cqSize f q ≠ i →
          (t.hring f q).cur = none ∧ .hostWrite f (s.reg64 (Reg.CQ_BASE_LO f q) + 32 * r.cqTail) (s.completion f q c x.1 x.2) ∈ t.out))) ∧
      (m ≠ mKeeper → epoch → (s.hfn f).evrOn = true → bitsOf v 14 0 < s.evrSize f → Completes evr s (fun t => (t.hfn f).evrHead = bitsOf v 14 0 ∧ t.mem = s.mem)) ∧
      (¬epoch ∨ r.on = false → stale sq ∧ stale cq) ∧
      (m ≠ mKeeper → ¬epoch ∨ (s.hfn f).evrOn = false → stale evr) ∧
      (epoch → r.on = true → s.sqSize f q ≤ i → beyond sq) ∧
      (epoch → r.on = true → s.cqSize f q ≤ i → beyond cq) ∧
      (m ≠ mKeeper → epoch → (s.hfn f).evrOn = true → s.evrSize f ≤ bitsOf v 14 0 → beyond evr) ∧
      (m = mKeeper → Completes evr s (fun t => s.Told t Ev.csrPrivilege (masterSrc m) (Reg.EVR_HEAD f) ∧ t.host = s.host ∧ t.mem = s.mem))) ∧
    (s.fld (Fl.RING_STATUS_CQ_FULL f q) = 1 → r.on = true → r.fullRaised = false → Completes (.cqFullTimeout f q) s (fun t =>
      s.Told t Ev.hostCqFull (srcFn f) 0 ∧ t.hring f q = { r with fullRaised := true } ∧ t.mem = s.mem)) ∧
    (s.fld (Fl.RING_STATUS_CQ_FULL f q) = 0 ∨ r.on = false ∨ r.fullRaised = true → exec (.cqFullTimeout f q) s = .next s) ∧
    (s.attached f = true → r.on = true → r.unsig ≠ 0 → Completes (.interruptCoalesce f q) s (fun t =>
      let v := s.fld (Fl.RING_CFG_VECTOR f q)
      t.hring f q = { r with unsig := 0 } ∧ t.regs = s.regs ∧ t.mem = s.mem ∧
      (if (s.hfn f).msixOn = false then t.out = s.out ∧ t.host.msixPend = s.host.msixPend
       else if s.msixMasked f v = true then t.out = s.out ∧ (f, v) ∈ t.host.msixPend else t.out = .msix f v :: s.out)))

/-- The commands of a ring, each with its completion: NOP, QUERY, LOAD_JOB after its checks, START_JOB, STOP_JOB, SNAPSHOT, FLASH_WRITE, DETACH. A completion waits while its ring is full. A guest that is not enabled may issue only NOP, QUERY and
DETACH; only the owner of the job, or guest 0, starts, stops and snapshots it (R259, R453, R463 to R465, R564). -/
def Obligations.HostCommandsComplete : Prop :=
  ∀ s : State, s.Inv → s.performs = true → ∀ f < 9, ∀ q < 4, ∀ c : HostCmd, (s.hring f q).cur = some c → c.begun = false → c.orphan = false → c.held = none →
    let op := leAt c.entry 0 1
    (s.cqFull f q = true → op = 0 → Completes (.hostNop f q) s (fun t => (t.hring f q).cur = some { c with held := some (0, []) } ∧ t.out = s.out ∧ t.regs = s.regs ∧ t.mem = s.mem)) ∧
    (s.cqFull f q = false →
    let done := fun (status : Nat) (result : List Byte) (t : State) => (t.hring f q).cur = none ∧
      .hostWrite f (s.reg64 (Reg.CQ_BASE_LO f q) + 32 * (s.hring f q).cqTail) (s.completion f q c status result) ∈ t.out
    let denied := fun (i : Instr) (k : Nat) => op = k → s.guestOn f = false → Completes i s (fun t => done 2 [] t ∧ t.job = s.job ∧ t.mem = s.mem)
    let owned := fun (i : Instr) (k : Nat) => op = k → s.guestOn f = true →
      (s.job = none → Completes i s (fun t => done 5 [] t ∧ t.mem = s.mem)) ∧
      (∀ j, s.job = some j → f ≠ 0 → f ≠ j.owner → Completes i s (fun t => done 2 [] t ∧ t.job = s.job ∧ t.mem = s.mem))
    (op = 0 → Completes (.hostNop f q) s (fun t => done 0 [] t ∧ t.job = s.job ∧ t.mem = s.mem)) ∧
    (op = 4 → Completes (.query f q) s (fun t => t.job = s.job ∧ t.mem = s.mem ∧
      done 0 (leBytes 1 s.jobState ++ leBytes 1 (s.fld Fl.COLL_STATUS_ROLE) ++ leBytes 2 0 ++ leBytes 4 (s.reg Reg.COLL_STEP).toNat ++
        leBytes 4 (s.reg Reg.UPDT_DONE).toNat) t)) ∧
    (op = 7 → s.attached f = true → Completes (.detach f q) s (fun t => done 0 [] t ∧ t.attached f = false ∧ t.fld (Fl.FN_STATUS_CAUSE f) = 1 ∧
      s.Told t Ev.hostDetached (srcFn f) 0 ∧ t.job = s.job)) ∧
    (∀ clap : ClapMap, denied (.loadJob f q clap) 1 ∧ (op = 1 → s.guestOn f = true → Completes (.loadJob f q clap) s (fun t =>
      let a := leAt c.entry 8 6
      let j := s.imageJob a f clap
      (t.hring f q).cur = none ∧
      if s.guestMayLoad f && rangeT1 a 128 && s.guestHolds f a 128 && s.guestHolds f a (s.le (a + 40) 8) && s.runJob.isNone && s.headerOk a &&
        !tiedWeight (s.imageObjects j) (s.imageGroups j) && s.imageOk j
      then t.job = some j ∧ ∀ n < j.tiles, t.power (s.physOf n) = .on
      else t.job = s.job ∧ t.mem = s.mem ∧ t.tiles = s.tiles))) ∧
    denied (.startJob f q) 2 ∧ owned (.startJob f q) 2 ∧ denied (.stopJob f q) 3 ∧ owned (.stopJob f q) 3 ∧ denied (.snapshot f q) 5 ∧ owned (.snapshot f q) 5 ∧
    (∀ j, s.job = some j → f = 0 ∨ f = j.owner → s.guestOn f = true →
      (op = 2 → j.running = true → Completes (.startJob f q) s (fun t => done 3 [] t ∧ s.Told t Ev.jobBusy srcStage 0 ∧ t.job = s.job ∧ t.mem = s.mem)) ∧
      (op = 2 → j.running = false → s.coll.rejoin = false → j.module ≠ 0 → s.coll.manager ≠ j.module → Completes (.startJob f q) s (fun t =>
        if t.fld Fl.COLL_CTRL_RUN = 1 then t.job = some { j with running := true, started := false, stopped := false } ∧ (t.hring f q).cur = some { c with begun := true }
        else done 4 [] t ∧ t.job = s.job)) ∧
      (op = 3 → j.running = true → Completes (.stopJob f q) s (fun t => done 0 [] t ∧ t.job = some { j with running := false, started := false, stopped := j.started } ∧
        (∀ n < 180, t.fld (Fl.TILE_SEQ_CTRL_RUN n) = 0) ∧ t.fld Fl.REEL_CTRL_RUN = 0 ∧ t.fld Fl.UPDT_CTRL_RUN = 0 ∧ t.fld Fl.COLL_CTRL_RUN = 0 ∧
        s.Told t Ev.jobStopped srcHub 0)) ∧
      (op = 3 → j.running = false → Completes (.stopJob f q) s (fun t => done 0 [] t ∧ t.job = s.job ∧
        (∀ n < 180, t.fld (Fl.TILE_SEQ_CTRL_RUN n) = 0) ∧ t.fld Fl.REEL_CTRL_RUN = 0 ∧ t.fld Fl.UPDT_CTRL_RUN = 0 ∧ t.fld Fl.COLL_CTRL_RUN = 0)) ∧
      (op = 5 →
        let b := fun (m : Nat) => snapBytes (leAt c.entry 8 4) (leAt c.entry 12 4) (leAt c.entry 16 2) (leAt c.entry 18 1) (leAt c.entry 24 8 + m * leAt c.entry 32 8)
        let kindOk := leAt c.entry 18 1 ≤ 1 ∧ leAt c.entry 16 2 ≤ 4095
        (s.guestMaySnap f = false → Completes (.snapshot f q) s (fun t => done 2 [] t ∧ t.upd = s.upd)) ∧
        (s.guestMaySnap f = true → ¬ kindOk → Completes (.snapshot f q) s (fun t => done 1 [] t ∧ t.upd = s.upd)) ∧
        (s.guestMaySnap f = true → kindOk → s.isManager = false → Completes (.snapshot f q) s (fun t => done 6 [] t ∧ t.upd = s.upd)) ∧
        (s.guestMaySnap f = true → kindOk → s.isManager = true → s.upd.run = none → Completes (.snapshot f q) s (fun t => (t.hring f q).cur = none ∧
          (s.me < s.modules → s.fld Fl.UPDT_CTRL_RUN = 1 → s.upd.queue.length < 8 → UpdCmd.decode (b s.me) ∈ t.upd.queue) ∧
          ∀ m < s.modules, m ≠ s.me → (s.flow (4032 + m)).state = 1 →
            ∃ x ∈ (t.flow (4032 + m)).tx, x.pkt.op = opMgmt ∧ (x.pkt.payload.drop 16).take 32 = b m)))) ∧
    ∀ cut : Bool, denied (.flashWrite f ⟨q, cut⟩) 6 ∧
    (op = 6 → s.guestOn f = true →
      let src := leAt c.entry 8 6
      let off := leAt c.entry 16 4
      let len := leAt c.entry 20 4
      (f ≠ 0 → Completes (.flashWrite f ⟨q, cut⟩) s (fun t => done 2 [] t ∧ t.rst.flash = s.rst.flash)) ∧
      (f = 0 → rangeT1 src len = false ∨ 0x4000000 < off + len → Completes (.flashWrite f ⟨q, cut⟩) s (fun t => done 1 [] t ∧ t.rst.flash = s.rst.flash)) ∧
      (f = 0 → rangeT1 src len = true → off + len ≤ 0x4000000 → s.flashMay off len = false → Completes (.flashWrite f ⟨q, cut⟩) s (fun t =>
        done 2 [] t ∧ s.Told t Ev.flashDenied srcKeeper 0 ∧ t.rst.flash = s.rst.flash)) ∧
      (f = 0 → rangeT1 src len = true → off + len ≤ 0x4000000 → s.flashMay off len = true →
        (cut = false → Completes (.flashWrite f ⟨q, cut⟩) s (fun t =>
          done 0 [] t ∧ t.mem = s.mem ∧ ∀ a, t.flashByte a = if off ≤ a ∧ a < off + len then s.byte (src + (a - off)) else s.flashByte a)) ∧
        (cut = true → Completes (.flashWrite f ⟨q, cut⟩) s (fun t =>
          t.rst = (if len = 0 then s.rst else { s.rst with torn := ⟨off, off + len - 1, Config.freeValue s.freeCount, none⟩ :: s.rst.torn }) ∧ t.hring f q = s.hring f q ∧ t.out = s.out ∧ t.mem = s.mem)))))

/-- Functions attach with a new epoch when their rings are valid and bus mastering is on, and detach with the cause that ends the epoch: a write, the liveness limit, the host's errors, its resets. The PCIe
link comes up as it has trained, in minimal recovery at Gen1 x1 (R451, R452, R471 to R475, R569). The data window: an access that the aperture, the storage and the guest's range allow reads or writes memory, poison and all; any other faults, reads zeros and writes nothing; what lies in an isolated stack reads poisoned, and no write reaches it (R457 to R459, R504). -/
def Obligations.FunctionsAttachAndReachMemory : Prop :=
  (∀ s : State, s.Inv → ∀ f < 9,
      let off := fun (cause : Nat) (t : State) => t.attached f = false ∧ t.fld (Fl.FN_STATUS_CAUSE f) = cause ∧ (∀ q, (t.hring f q).on = false) ∧
        (∀ g < 9, g ≠ f → t.attached g = s.attached g ∧ t.hfn g = s.hfn g) ∧ t.job = s.job ∧ t.tiles = s.tiles
      (∀ (m v nv : Nat) (p : PciControl), bitOf v 0 = true → bitOf v 1 = false → s.attached f = false →
        (f ≤ nv → p.busMaster = true → s.ringsValid f = true → Completes (.attach m f v p nv) s (fun t =>
          t.attached f = true ∧ t.fld (Fl.FN_EPOCH_EPOCH f) = (if s.fld (Fl.FN_EPOCH_EPOCH f) = 255 then 1 else s.fld (Fl.FN_EPOCH_EPOCH f) + 1) ∧
          (t.hfn f).evrOn = decide (s.fld (Fl.EVR_CFG_ENABLE f) = 1) ∧ (t.hfn f).msixOn = p.msixOn ∧ (t.hfn f).msixMask = p.msixMask ∧ t.host.numVfs = nv ∧
          (∀ q < 4, q < (s.hfn f).rings.length → t.hring f q = { HRing.empty with on := decide (s.fld (Fl.RING_CFG_ENABLE f q) = 1), cur := (s.hring f q).cur }) ∧
          (∀ q < 4, t.reg (Reg.RING_STATUS f q) = 0) ∧ (s.host.numVfs ≤ nv → t.mem = s.mem))) ∧
        (f ≤ nv → p.busMaster = false ∨ s.ringsValid f = false → Completes (.attach m f v p nv) s (fun t =>
          t.attached f = false ∧ t.fld (Fl.FN_STATUS_ATTACH_FAIL f) = 1 ∧ (s.host.numVfs ≤ nv → t.mem = s.mem))) ∧
        (nv < f → Completes (.attach m f v p nv) s (fun t => t.attached f = false ∧ t.host.numVfs = nv ∧ (s.host.numVfs ≤ nv → t.regs = s.regs ∧ t.mem = s.mem))) ∧
        Completes (.attach m f v p nv) s (fun t => ∀ g < 9, nv < g → g ≤ s.host.numVfs → g ≠ f → t.attached g = false)) ∧
      (s.attached f = true →
        (∀ m v : Nat, bitOf v 0 = false → bitOf v 1 = true → Completes (.fnDetachWrite m f v) s (fun t => off 1 t ∧ s.Told t Ev.hostDetached (srcFn f) 0)) ∧
        (s.fld (Fl.FN_CTRL_LIVE_MS f) ≠ 0 → Completes (.liveExpire f) s (fun t => off 2 t ∧ s.Told t Ev.hostDetached (srcFn f) 0)) ∧
        Completes (.flrVf f) s (fun t => off 3 t ∧ (t.hfn f).busMaster = false ∧ ∀ a < 8, t.reg (Reg.FN_WIN_LO f a) = regReset (Reg.FN_WIN_LO f a)) ∧
        Completes (.dmaError f) s (fun t => off 4 t ∧ s.Told t Ev.hostDetached (srcFn f) 0) ∧
        Completes (.busMasterClear f) s (fun t => off 5 t ∧ (t.hfn f).busMaster = false ∧ s.Told t Ev.hostDetached (srcFn f) 0) ∧
        Completes .flrPf s (fun t => t.attached f = false ∧ t.fld (Fl.FN_STATUS_CAUSE f) = 3 ∧ (t.hfn f).busMaster = false ∧ t.host.numVfs = 0 ∧ t.job = s.job ∧ t.tiles = s.tiles)) ∧
      (∀ m v : Nat, Completes (.fnLive m f v) s (fun t => t.host = s.host ∧ t.mem = s.mem ∧ t.events = s.events ∧ ∀ o ≠ Reg.FN_LIVE f, t.reg o = s.reg o)) ∧
      (s.fld (Fl.FN_CTRL_LIVE_MS f) = 0 → exec (.liveExpire f) s = .next s) ∧
      (∀ rate < 8, ∀ width < 32, s.rst.hostHeld = false → 3 ≤ s.rstState → s.rstState ≤ 7 → Completes (.pcieLinkUp rate width) s (fun t =>
        t.fld Fl.HOSTIF_LINK_RATE = rate ∧ t.fld Fl.HOSTIF_LINK_WIDTH = width ∧ t.fld Fl.HOSTIF_LINK_UP = 1 ∧
        t.fld Fl.HOSTIF_LINK_DEGRADED = (if width < 8 then 1 else 0) ∧ (width < 8 → s.Told t Ev.hostLinkDegraded srcHub 0) ∧ t.mem = s.mem)) ∧
      (∀ rate width : Nat, s.rst.hostHeld = false → s.rstState = stRecovery → Completes (.pcieLinkUp rate width) s (fun t =>
        t.fld Fl.HOSTIF_LINK_RATE = 1 ∧ t.fld Fl.HOSTIF_LINK_WIDTH = 1 ∧ t.fld Fl.HOSTIF_LINK_UP = 1 ∧ t.events = s.events ∧ t.mem = s.mem))) ∧
  (∀ s : State, s.Inv → ∀ f ap offset : Nat, f ≤ s.host.numVfs →
      let a := s.reg64 (Reg.FN_WIN_LO f ap) % 2 ^ 48 + offset
      (∀ n : Nat, s.windowFault f ap a n false = false → Completes (.bar2Access f ap offset n none) s (fun t =>
        t.out = .bar2 f (s.windowBytes a n) ((List.range n).any (fun i => s.poisoned (a + i))) :: s.out ∧ t.mem = s.mem ∧ t.undef = s.undef ∧ t.events = s.events)) ∧
      (∀ (n : Nat) (d : List Byte), s.windowFault f ap a d.length true = false → Completes (.bar2Access f ap offset n (some d)) s (fun t =>
        t.out = s.out ∧ t.events = s.events ∧
        ∀ x, t.byte x = if a ≤ x ∧ x < a + d.length ∧ s.isolatedLine x = false then d.getD (x - a) 0 else s.byte x)) ∧
      (∀ n : Nat, s.windowFault f ap a n false = true → Completes (.bar2Access f ap offset n none) s (fun t =>
        t.out = .bar2 f (List.replicate n 0) false :: s.out ∧ s.Told t Ev.hostWindowFault (srcFn f) (a % 2 ^ 48) ∧ t.mem = s.mem ∧ t.undef = s.undef)) ∧
      (∀ (n : Nat) (d : List Byte), s.windowFault f ap a d.length true = true → Completes (.bar2Access f ap offset n (some d)) s (fun t =>
        t.out = s.out ∧ s.Told t Ev.hostWindowFault (srcFn f) (a % 2 ^ 48) ∧ t.mem = s.mem ∧ t.undef = s.undef)))


/-! The NRT engine and the key table. -/

/-- A packet passes the first checks of R421: the engine runs, its port receives, it is well formed, its flow is ACTIVE and its own, its ECRC holds; and it is new and within the window. -/
def heard (s : State) (op : Nat) (p : Packet) : Prop :=
  s.fld Fl.NRT_CTRL_RUN = 1 ∧ s.hears p.port = true ∧ s.malformed { p with op := op } = false ∧ (s.flow p.dstFlow).state = 1 ∧ p.srcFlow = (s.flow p.dstFlow).peerFlow ∧
    p.epoch = (s.flow p.dstFlow).epoch ∧ p.ecrcOk = true ∧ p.psn < 2 ^ 24
def fresh (s : State) (p : Packet) : Prop :=
  psnSub p.psn (s.flow p.dstFlow).epsn < 1024 ∧ (s.flow p.dstFlow).placed.contains p.psn = false ∧
    (s.flow p.dstFlow).held.any (fun h => decide (h.psn = p.psn)) = false

/-- Its PSN counts as placed. -/
def isPlaced (t : State) (p : Packet) : Prop := 2 ^ 23 ≤ psnSub p.psn (t.flow p.dstFlow).epsn ∨ p.psn ∈ (t.flow p.dstFlow).placed

/-- Packets that write: an admitted one stores its payload at its key's base and its offset, a WRITE_NOTIFY holds its notification; one that its key refuses stores nothing, earns a NAK, which goes out or waits for a path, and counts as placed; with the engine
stopped, or at a port that receives nothing, none is performed (R383, R419 to R422, R425, R428, R434, R445). A packet of a loopback flow answers in the hub, where a send that then goes may stop the job. -/
def Obligations.PacketsWrite : Prop :=
  ∀ s : State, s.Inv → ∀ p : Packet,
    let f := p.dstFlow
    let e := s.keyEntry (keyIndex p.key)
    let a := e.base + p.offset
    let calm := (s.flow f).loopback = false ∨ s.reel.xfers = []
    let reachable := (∀ i < p.payload.length, storage (a + i) = true) ∧ ∀ l ∈ linesOf a p.payload.length, s.isolatedLine l = false
    let stored := fun (t : State) => ∀ x, t.byte x = if a ≤ x ∧ x < a + p.payload.length then p.payload.getD (x - a) 0 else s.byte x
    (∀ c ∈ [((.write : Packet → Instr), opWrite), (.readResp, opReadResp), (.writeNotify, opWriteNotify)], heard s c.2 p → fresh s p →
      (∀ k, s.judgeKey f { p with op := c.2 } = some k → Completes (c.1 p) s (fun t => isPlaced t p ∧ (calm → t.mem = s.mem) ∧
        ((s.flow f).loopback = true ∨ (s.choosePath f false none).isSome = true →
          t.reg64 (Reg.NRT_COUNT_LO 4) = min (s.reg64 (Reg.NRT_COUNT_LO 4) + 1) (2 ^ 48 - 1)) ∧
        ((s.flow f).loopback = false → s.choosePath f false none = none → ∃ x ∈ (t.flow f).acks, x.op = opNak ∧ x.key = p.psn ∧ x.offset = k * 2 ^ 32) ∧
        ((s.flow f).loopback = false → (s.flow f).notes = [] → (s.flow f).lastEvent = [] → s.Told t Ev.nrtKeyFault (srcFlow f) (faultDetail k p.key p.offset)))) ∧
      (c.2 ≠ opWriteNotify → s.judgeKey f { p with op := c.2 } = none → e.dest = 0 → s.writeHeld p = false → reachable →
        Completes (c.1 p) s (fun t => isPlaced t p ∧ (calm → stored t) ∧
          t.reg64 (Reg.NRT_COUNT_LO 1) = min (s.reg64 (Reg.NRT_COUNT_LO 1) + 1) (2 ^ 48 - 1))) ∧
      (c.2 = opWriteNotify → s.judgeKey f { p with op := c.2 } = none → (s.flow f).taint = [] → s.ringRefuses { p with op := c.2 } = none → e.dest = 0 →
        s.writeHeld p = false → reachable →
        Completes (c.1 p) s (fun t => isPlaced t p ∧ (calm → stored t) ∧
          (⟨p.psn, { p with op := c.2, slate := slateRead p.slate }⟩ : RxNote) ∈ (t.flow f).notes))) ∧
    (∀ c ∈ [((.write : Packet → Instr), opWrite), (.readResp, opReadResp), (.writeNotify, opWriteNotify), (.readReq, opReadReq), (.mgmt, opMgmt), (.ack, opAck), (.nak, opNak)],
      s.fld Fl.NRT_CTRL_RUN = 0 ∨ s.hears p.port = false → exec (c.1 p) s = .next s)

/-- Reads, acknowledgements, messages and notifications: an admitted READ_REQ is answered piece by piece from memory; an ACK takes the packets it acknowledges out of the window and leaves every other
there; a final NAK takes its packet out and is told of, a NAK of a retry class keeps it for later; a MGMT packet's message is heard while the collective engine
runs, and is ignored while it does not; a notification whose lower PSNs are all placed is
delivered once for each identity, to its counters, its ring or its mirror (R330, R364, R422, R430, R433 to R438). -/
def Obligations.PacketsAnswerAndNotify : Prop :=
  ∀ s : State, s.Inv → ∀ p : Packet,
    let f := p.dstFlow
    let fl := s.flow f
    let e := s.keyEntry (keyIndex p.key)
    let quiet := ∀ n, (s.tile n).sendQ = []
    let count := fun (c : Nat) (t : State) => t.reg64 (Reg.NRT_COUNT_LO c) = min (s.reg64 (Reg.NRT_COUNT_LO c) + 1) (2 ^ 48 - 1)
    (heard s opReadReq p → fresh s p → s.judgeKey f { p with op := opReadReq } = none → (s.readJudge { p with op := opReadReq }).1 = .proceed →
      (let a := e.base + p.offset
       let n := readLen p
       fl.loopback = false ∨ (fl.peerFlow ≠ f ∧ s.reel.xfers = []) → rangeT1 a n = true ∨ (inT2 a = true ∧ a + n ≤ 0x7FFFFFFC00) →
         Completes (.readReq p) s (fun t => isPlaced t p ∧ t.mem = s.mem ∧ t.undef = s.undef ∧
           ∀ k, (∀ i, i < (k + 1) * fl.payload → i < n → s.poisoned (a + i) = false) → k * fl.payload < n →
             ∃ x ∈ (t.flow f).tx, x.pkt.op = opReadResp ∧ x.pkt.key = respKey p ∧ x.pkt.offset = (respOffset p + k * fl.payload) % 2 ^ 40 ∧
               x.pkt.payload = s.bytes (a + k * fl.payload) (min fl.payload (n - k * fl.payload))))) ∧
    (heard s opAck p → Completes (.ack p) s (fun t =>
      let hit := fun (x : TxPkt) => (let d := psnSub x.psn (p.key % 2 ^ 24)
        (x.sent.isSome || x.pkt.retx) && (decide (2 ^ 23 ≤ d) || (decide (1 ≤ d ∧ d ≤ 64) && bitOf p.bitmap (d - 1))))
      s.Keeps t ∧ (∀ x ∈ fl.tx, hit x = false → ∃ y ∈ (t.flow f).tx, y.psn = x.psn) ∧
      (quiet → (t.flow f).tx.map (·.psn) = (fl.tx.filter (fun x => !hit x)).map (·.psn) ∧ t.mem = s.mem ∧
        (fl.tx.any hit = true → (t.flow f).una = ((fl.tx.filter (fun x => !hit x)).head?.map (·.psn)).getD fl.next)))) ∧
    (heard s opNak p →
      (let k := p.key % 2 ^ 24
       ∀ x, fl.tx.find? (fun x => decide (x.psn = k)) = some x → Completes (.nak p) s (fun t => s.Keeps t ∧ count 5 t ∧
        (0x10 ≤ p.offset / 2 ^ 32 → t.mem = s.mem ∧ t.flow f = { fl with tx := fl.tx.map (fun y => if y.psn = k then { y with
          retryAt := some (s.time + max (s.fld Fl.NRT_TIMING_RETRY_US) 1 * 1000), tries := if p.offset / 2 ^ 32 = 0x10 then 0 else y.tries
          timeouts := if p.offset / 2 ^ 32 = 0x10 then 0 else y.timeouts } else y) }) ∧
        (p.offset / 2 ^ 32 < 0x10 → quiet → (t.flow f).tx = fl.tx.filter (fun y => decide (y.psn ≠ k)) ∧ t.mem = s.mem ∧
          (fl.asks = [] → fl.lastEvent = [] → s.Told t Ev.nrtRemoteFault (srcFlow f) (faultDetail (p.offset / 2 ^ 32) x.pkt.key x.pkt.offset)))))) ∧
    (heard s opMgmt p → p.dgram = true → s.fld Fl.COLL_CTRL_RUN = 0 → Completes (.mgmt p) s (fun t =>
      count 1 t ∧ t.coll = s.coll ∧ t.upd = s.upd ∧ t.tiles = s.tiles ∧ t.nrt = s.nrt ∧ t.out = s.out ∧ t.mem = s.mem)) ∧
    (heard s opMgmt p → p.dgram = true ∨ fresh s p → fl.loopback = false → (msgDecode p.payload).type = 3 → s.fld Fl.COLL_CTRL_RUN = 1 →
      s.fld Fl.COLL_STATUS_EPOCH ≤ (msgDecode p.payload).epoch → slatePhase (msgDecode p.payload).slate ≤ 4 → Completes (.mgmt p) s (fun t =>
        ((msgDecode p.payload).module, s.time) ∈ t.coll.heard ∧ (p.dgram = false → isPlaced t p) ∧ t.mem = s.mem)) ∧
    (∀ (g : Nat) (n : RxNote), n ∈ (s.flow g).notes → 2 ^ 23 ≤ psnSub n.psn (s.flow g).epsn →
      (∀ m ∈ (s.flow g).notes, m ≠ n → 2 ^ 23 ≤ psnSub m.psn (s.flow g).epsn → psnSub n.psn (s.flow g).epsn < psnSub m.psn (s.flow g).epsn) →
      let k := s.keyEntry (keyIndex n.pkt.key)
      Completes (.notificationDeliver g) s (fun t => (t.flow g).notes = (s.flow g).notes.filter (fun x => decide (x.psn ≠ n.psn)) ∧
        ((s.flow g).ids.contains (identity n.pkt) = true → count 7 t ∧ s.Keeps t ∧ (t.flow g).ids = (s.flow g).ids ∧
          (t.keyEntry (keyIndex n.pkt.key)).inuse = k.inuse - 1) ∧
        ((s.flow g).ids.contains (identity n.pkt) = false → count 6 t ∧ (t.flow g).ids = (identity n.pkt :: (s.flow g).ids).take 64 ∧
          (k.nkind = 1 → (t.keyEntry (keyIndex n.pkt.key)).inuse = k.inuse - 1 ∧ ∀ i < min k.ntiles 180, k.tile0 + i < 180 → t.ec (k.tile0 + i) (k.ctr % 8) = min (s.ec (k.tile0 + i) (k.ctr % 8) + 1) 65535) ∧
          (k.nkind = 5 → quiet → ∀ m, t.upd.mirrors[k.obj]? = some m →
            m.committed = some (slateStep n.pkt.slate + 1) ∧
              (if slateStep n.pkt.slate % 2 = 1 then m.powers0 else m.powers1) = (commitPower n.pkt 0, commitPower n.pkt 1))))) ∧
    (∀ g : Nat, (∀ n ∈ (s.flow g).notes, psnSub n.psn (s.flow g).epsn < 2 ^ 23) → quiet → exec (.notificationDeliver g) s = .next s)

/-- The sending side: a read that stage firmware asks for joins its flow's queue; the lowest unsent PSN goes out within the window on the path chosen, with the fields of its frame and its ECRC; a timeout and a NAK of the retry class send again, RETX set, the 16th timeout
fails the flow; a failed flow has nothing outstanding; acknowledgements go out or wait for a path, and with the engine stopped nothing is sent; a period without CE raises the rate, which never falls below its
minimum; a ring found full for 1 ms is told of (R413 to R415, R422, R425, R427, R430 to R432, R436, R438, R442, R443, R445). -/
def Obligations.FlowsSend : Prop :=
  ∀ s : State, s.Inv → ∀ f : Nat,
    let fl := s.flow f
    let goes := fun (i : Nat) (p : Packet) (t : State) => ∀ w, fl.paths[i]? = some w → s.portHolds w.port = false → (s.port w.port).paused = [] →
      ∃ x : NrtFrame, .packet x ∈ t.out ∧ x.port = w.port ∧ x.flow = f ∧ x.path = i ∧ x.ipv6 = w.ipv6 ∧ x.ip = w.ip ∧ x.hops = 64 ∧ x.df = !w.ipv6 ∧
        x.udpDst = s.fld Fl.NRT_CTRL_UDP_PORT ∧ x.udpSrc = 0xC000 + (f * 8 + i) % 0x4000 ∧ x.ect = isDataOp p.op ∧ x.pkt = { p with path := i } ∧ x.ecrc = ecrcOf x.pkt
    let failed := fun (t : State) => (t.flow f).state = 2 ∧ (t.flow f).tx = [] ∧ t.fld Fl.NRT_STATUS_FLOW_FAILED = 1 ∧ s.Keeps t ∧
      (∀ n < 9, ∀ x ∈ (t.port n).held, ofFlow f x.2.2 = false) ∧ (fl.lastEvent = [] → s.Told t Ev.nrtFlowFailed (srcFlow f) 0)
    let count := fun (c : Nat) (t : State) => t.reg64 (Reg.NRT_COUNT_LO c) = min (s.reg64 (Reg.NRT_COUNT_LO c) + 1) (2 ^ 48 - 1)
    (s.fld Fl.NRT_CTRL_RUN = 0 → ∀ c ∈ [(.packetTransmit ⟨f, none⟩ : Instr), .ackSend f], Completes c s (fun t => t.out = s.out ∧ t.nrt = s.nrt ∧ t.mem = s.mem)) ∧
    (∀ a : ReadAsk, fl.state = 1 → s.fld Fl.NRT_CTRL_RUN = 0 ∨ fl.loopback = false → Completes (.packetTransmit ⟨f, some a⟩) s (fun t => t.mem = s.mem ∧
      ∃ y ∈ (t.flow f).tx, y.psn = fl.next ∧ y.pkt.op = opReadReq ∧ y.pkt.key = a.key ∧ y.pkt.offset = a.offset % 2 ^ 40 ∧
        y.pkt.payload = beBytes 4 a.length ++ beBytes 4 a.respKey ++ beBytes 8 a.respOffset)) ∧
    (s.fld Fl.NRT_CTRL_RUN = 1 → fl.state = 1 → fl.loopback = false →
      (∀ x i, fl.tx.find? (fun x => x.sent.isNone && x.retryAt.isNone && decide (psnSub x.psn fl.una < 1024)) = some x → x.tries = 0 → x.pkt.retx = false →
        s.choosePath f (isDataOp x.pkt.op) none = some i → Completes (.packetTransmit ⟨f, none⟩) s (fun t => (x.quiet = false → count 0 t) ∧ goes i x.pkt t ∧ t.mem = s.mem ∧
          ∃ y ∈ (t.flow f).tx, y.psn = x.psn ∧ y.sent = some s.time ∧ y.path = i)) ∧
      (∀ psn x, fl.tx.find? (fun x => decide (x.psn = psn) && x.sent.isSome && x.retryAt.isNone) = some x →
        (∀ i, x.tries < 16 → s.choosePath f (isDataOp x.pkt.op) (some x.path) = some i → Completes (.rtoRetransmit f psn) s (fun t => count 2 t ∧
          goes i { x.pkt with retx := true } t ∧ t.mem = s.mem ∧ ∃ y ∈ (t.flow f).tx, y.psn = psn ∧ y.tries = x.tries + 1 ∧ y.pkt.retx = true ∧ y.sent = some s.time)) ∧
        (16 ≤ x.tries → Completes (.rtoRetransmit f psn) s failed)) ∧
      (∀ psn x i, fl.tx.find? (fun x => decide (x.psn = psn) && x.retryAt.isSome) = some x → s.choosePath f (isDataOp x.pkt.op) (some x.path) = some i →
        Completes (.nakRetry f psn) s (fun t => goes i { x.pkt with retx := true } t ∧ t.mem = s.mem ∧
          ∃ y ∈ (t.flow f).tx, y.psn = psn ∧ y.tries = x.tries ∧ y.pkt.retx = true ∧ y.sent = some s.time ∧ y.retryAt = none)) ∧
      (fl.acks = [] → fl.back = [] → fl.ackDue = true → Completes (.ackSend f) s (fun t =>
        (t.flow f).ackDue = false ∧ (t.flow f).sinceAck = 0 ∧ t.mem = s.mem ∧
        ∃ p : Packet, p.op = opAck ∧ p.key = fl.epsn ∧ match s.choosePath f false none with
          | some i => goes i p t
          | none => (t.flow f).acks = [p]))) ∧
    (fl.state = 1 → (fl.loopback = false ∧ s.choosePath f false none = none) ∨ fl.tx ≠ [] → Completes (.flowFail f) s failed) ∧
    (Completes (.ratePeriod f) s (fun t => t.regs = s.regs ∧ t.mem = s.mem ∧ t.out = s.out ∧
      t.flow f = if fl.ceInPeriod then { fl with ceInPeriod := false }
        else { fl with
          alpha := fl.alpha.mul ((Dy.ofInt 1).sub s.gain)
          rate := (let r := fl.rate.add (Dy.ofInt (max (s.fld Fl.NRT_RATE_AI) 1 : Nat))
                   let r := if fl.rate0.lt r then fl.rate0 else r
                   if r.lt s.rateMin then s.rateMin else r) })) ∧
    (∀ ring : Nat, Completes (.ringFullTimeout ring) s (fun t => (∀ x ∈ t.nrt.ringFull, x.1 ≠ ring) ∧ t.mem = s.mem ∧
      ((s.ring ring).full = true → match s.nrt.ringFull.find? (fun x => decide (x.1 = ring)) with
        | some x => (s.flow x.2.1).lastEvent = [] → s.Told t Ev.nrtRingFull (srcFlow x.2.1) 0
        | none => s.Told t Ev.nrtRingFull (srcUnit mNrt) 0)))

/-- Keys and flows: keeper firmware installs, revokes and clears entries, each refused where the entry's state forbids it; a revoked entry retires once no access is under way, its generation one more; a flow record
is installed, a flow's reset raises its epoch and empties both PSN spaces; RUN takes hold where the bases are good (R418 to R420, R423, R424, R432, R440, R445 to R449). -/
def Obligations.KeysAndFlowsAreManaged : Prop :=
  ∀ s : State, s.Inv →
    (∀ v : Nat, let i := bitsOf v 17 0
      (bitsOf v 19 18 = 1 → Completes (.keyInstall mKeeper v) s (fun t => t.mem = s.mem ∧
        if (s.keyEntry i).state = 0 ∧ keyEntryOk s.staged = true
        then t.keyEntry i = { KeyEntry.decode s.staged with gen := (s.keyEntry i).gen } ∧
          t.reg Reg.KEYT_KEY = BitVec.ofNat 32 (i + (s.keyEntry i).gen * 2 ^ 18 + keyCheck (s.reg Reg.KEYT_SALT).toNat (i + (s.keyEntry i).gen * 2 ^ 18) * 2 ^ 26)
        else t.nrt = s.nrt ∧ t.fld Fl.KEYT_STATUS_REFUSED = 1)) ∧
      (bitsOf v 19 18 = 2 → Completes (.keyRevoke mKeeper v) s (fun t => t.mem = s.mem ∧
        if (s.keyEntry i).state = 1 then t.keyEntry i = { s.keyEntry i with state := 2, slowRaised := false }
        else t.nrt = s.nrt ∧ t.fld Fl.KEYT_STATUS_REFUSED = 1)) ∧
      (bitsOf v 19 18 = 3 → Completes (.keyClear mKeeper v) s (fun t => t.mem = s.mem ∧
        if s.nrt.keys.any (fun e => decide (e.2.state = 2)) then t.nrt = s.nrt ∧ t.fld Fl.KEYT_STATUS_REFUSED = 1 else t.nrt.keys = [])) ∧
      (∀ m ≠ mKeeper, Completes (.keyInstall m v) s (fun t => t.nrt = s.nrt ∧ t.mem = s.mem))) ∧
    (∀ i : Nat,
      ((s.keyEntry i).state = 2 → (s.keyEntry i).inuse = 0 → Completes (.keyRetire i) s (fun t =>
        t.keyEntry i = { KeyEntry.free with gen := ((s.keyEntry i).gen + 1) % 256 } ∧ t.fld Fl.KEYT_STATUS_DONE = 1 ∧ s.Told t Ev.keyRevoked srcHub 0 ∧ t.mem = s.mem)) ∧
      ((s.keyEntry i).state = 2 → (s.keyEntry i).inuse ≠ 0 → (s.keyEntry i).slowRaised = false → Completes (.keyRevokeSlow i) s (fun t =>
        t.keyEntry i = { s.keyEntry i with slowRaised := true } ∧ s.Told t Ev.keyRevokeSlow srcHub 0 ∧ t.mem = s.mem)) ∧
      ((s.keyEntry i).state ≠ 2 → exec (.keyRetire i) s = .next s ∧ exec (.keyRevokeSlow i) s = .next s)) ∧
    (∀ m v : Nat, let f := bitsOf v 11 0
      let b := s.bytes (s.reg64 Reg.NRT_FLOW_REC_LO) 192
      (m ≠ mKeeper → bitOf v 12 = true → bitOf v 13 = false →
        (inT1Table (s.reg64 Reg.NRT_FLOW_REC_LO) 192 = false → Completes (.flowInstall m v) s (fun t => t.nrt = s.nrt ∧ t.fld Fl.NRT_STATUS_REFUSED = 1 ∧ t.mem = s.mem)) ∧
        (inT1Table (s.reg64 Reg.NRT_FLOW_REC_LO) 192 = true → 4032 ≤ f → f = 4032 + s.me ∨ leAt b 6 1 ≠ 0 → Completes (.flowInstall m v) s (fun t =>
          t.nrt = s.nrt ∧ t.fld Fl.NRT_STATUS_REFUSED = 1 ∧ t.mem = s.mem)) ∧
        (inT1Table (s.reg64 Reg.NRT_FLOW_REC_LO) 192 = true → f < 4032 → Completes (.flowInstall m v) s (fun t =>
          (t.flow f).state = 1 ∧ (t.flow f).epoch = leAt b 4 1 ∧ (t.flow f).peerFlow = bitsOf (leAt b 2 2) 11 0 ∧ (t.flow f).loopback = bitOf (leAt b 5 1) 0 ∧
          (t.flow f).big = bitOf (leAt b 5 1) 1 ∧ (t.flow f).guest = leAt b 6 1 ∧ (t.flow f).paths = recordPaths b ∧ (t.flow f).next = 0 ∧ (t.flow f).epsn = 0 ∧
          (t.flow f).tx = [] ∧ (∀ g ≠ f, t.flow g = s.flow g)))) ∧
      (m = mKeeper → ∀ c ∈ [Instr.flowInstall m v, .flowReset m v], Completes c s (fun t =>
        s.Told t Ev.csrPrivilege (masterSrc m) Reg.NRT_FLOW_SEL ∧ t.nrt = s.nrt ∧ t.mem = s.mem)) ∧
      (m ≠ mKeeper → bitOf v 12 = false → bitOf v 13 = true → (s.flow f).state ≠ 0 → Completes (.flowReset m v) s (fun t =>
        (t.flow f).state = 1 ∧ (t.flow f).epoch = ((s.flow f).epoch + 1) % 256 ∧ (t.flow f).next = 0 ∧ (t.flow f).epsn = 0 ∧ (t.flow f).tx = [] ∧
        (t.flow f).notes = [] ∧ (t.flow f).ids = [] ∧ (t.flow f).paths = (s.flow f).paths ∧ (∀ g ≠ f, t.flow g = s.flow g)))) ∧
    (∀ v : Nat, Completes (.nrtRunWrite mKeeper v) s (fun t => s.Told t Ev.csrPrivilege (masterSrc mKeeper) Reg.NRT_CTRL ∧ t.nrt = s.nrt ∧ t.mem = s.mem)) ∧
    (∀ m v : Nat, m ≠ mKeeper → s.fld Fl.NRT_CTRL_RUN = 0 → bitOf v 0 = true → Completes (.nrtRunWrite m v) s (fun t => t.nrt = s.nrt ∧ t.mem = s.mem ∧
      if inT1Table (s.reg64 Reg.NRT_RING_BASE_LO) 2048 && inT1Table (s.reg64 Reg.NRT_DEDUP_BASE_LO) 0x400000 then t.fld Fl.NRT_CTRL_RUN = 1
      else t.fld Fl.NRT_CTRL_RUN = 0 ∧ t.fld Fl.NRT_STATUS_BADBASE = 1)) ∧
    (∀ m v : Nat, m ≠ mKeeper → bitOf v 0 = false → Completes (.nrtRunWrite m v) s (fun t => t.fld Fl.NRT_CTRL_RUN = 0 ∧ t.mem = s.mem ∧ t.out = s.out ∧
      (s.fld Fl.NRT_CTRL_RUN = 0 → t.nrt = s.nrt) ∧ (s.fld Fl.NRT_CTRL_RUN = 1 → ∀ n < 9, ∀ x ∈ (t.port n).held, isPacket x.2.2 = false)))

/-! The ports. -/

/-- The link states of a port: signal starts its training, alignment and FEC lock bring it up, loss of signal takes it down, errors and RETRAIN retrain it, RUN enables and disables it, for any master but keeper firmware (R382 to R384, R404,
R572). That a write by keeper firmware of a register it may only read has no effect and is told of is the model's reading (log entry 222). -/
def Obligations.PortsComeUpAndGoDown : Prop :=
  ∀ s : State, s.Inv → ∀ n < 9,
    let up := s.macState n = macUp ∨ s.macState n = macStepping
    let quiet := (s.port n).held = []
    let left := fun (state : Nat) (t : State) => t.macState n = state ∧ t.fld (Fl.MAC_STATUS_SPEED n) = 0 ∧ t.fld (Fl.MAC_STATUS_FEC_LOCK n) = 0 ∧ (t.port n).held = [] ∧
      (n = 8 → t.upd.mirroring = false) ∧ (quiet → s.Told t Ev.portDown (srcPort n) 0)
    let retrains := fun (t : State) => left macRetrain t ∧ t.reg64 (Reg.MAC_COUNT_LO n 6) = min (s.reg64 (Reg.MAC_COUNT_LO n 6) + 1) (2 ^ 48 - 1) ∧
      (quiet → s.Told t Ev.linkRetrain (srcPort n) 0)
    (s.macState n = macDown → Completes (.portSignalDetect n) s (fun t => t.macState n = macTraining ∧ (t.port n).noAbility = false ∧ t.mem = s.mem ∧ t.out = s.out)) ∧
    (∀ common : Bool, s.macState n = macTraining → s.portCopper n = true → Completes (.autonegRetry n common) s (fun t =>
      t.port n = { s.port n with noAbility := !common } ∧ t.regs = s.regs ∧ t.mem = s.mem)) ∧
    ((s.macState n = macTraining ∧ (s.portCopper n && (s.port n).noAbility) = false) ∨ s.macState n = macRetrain → Completes (.portUp n) s (fun t =>
      t.macState n = macUp ∧ t.fld (Fl.MAC_STATUS_SPEED n) = s.portSpeed n ∧ t.fld (Fl.MAC_STATUS_FEC_LOCK n) = 1 ∧ (t.port n).noSteps = false ∧
      (t.port n).abandoned = 0 ∧ s.Told t Ev.portUp (srcPort n) 0 ∧ s.Keeps t)) ∧
    (up → Completes (.portDown n) s (left macDown)) ∧
    (up → ∀ (cor unc : Nat) (lost : Bool),
      ((s.fld (Fl.MAC_CTRL_RETRAIN_THRESH n) ≠ 0 ∧ s.fld (Fl.MAC_CTRL_RETRAIN_THRESH n) < unc) ∨ lost = true → Completes (.linkRetrain n cor unc lost) s retrains) ∧
      (lost = false → s.fld (Fl.MAC_CTRL_RETRAIN_THRESH n) = 0 ∨ unc ≤ s.fld (Fl.MAC_CTRL_RETRAIN_THRESH n) → Completes (.linkRetrain n cor unc lost) s (fun t =>
        t.macState n = s.macState n ∧ t.ports = s.ports ∧ t.reg64 (Reg.MAC_COUNT_LO n 4) = min (s.reg64 (Reg.MAC_COUNT_LO n 4) + cor) (2 ^ 48 - 1) ∧
        t.reg64 (Reg.MAC_COUNT_LO n 5) = min (s.reg64 (Reg.MAC_COUNT_LO n 5) + unc) (2 ^ 48 - 1) ∧ t.events = s.events))) ∧
    (∀ v : Nat, ∀ c ∈ [Instr.retrain mKeeper n v, .macRunWrite mKeeper n v], Completes c s (fun t =>
      s.Told t Ev.csrPrivilege (masterSrc mKeeper) (Reg.MAC_CTRL n) ∧ t.ports = s.ports ∧ t.macState n = s.macState n ∧ t.mem = s.mem)) ∧
    (∀ m v : Nat, m ≠ mKeeper → up → s.fld (Fl.MAC_CTRL_RUN n) = 1 → bitOf v 0 = true → bitOf v 7 = true → Completes (.retrain m n v) s (fun t =>
      t.macState n = macRetrain ∧ t.fld (Fl.MAC_STATUS_FEC_LOCK n) = 0 ∧ t.reg64 (Reg.MAC_COUNT_LO n 6) = min (s.reg64 (Reg.MAC_COUNT_LO n 6) + 1) (2 ^ 48 - 1))) ∧
    (s.macState n = macRetrain → Completes (.retrainTimeout n) s (fun t => t.macState n = macDown ∧ t.ports = s.ports ∧ t.events = s.events ∧ ∀ o ≠ Reg.MAC_STATUS n, t.reg o = s.reg o)) ∧
    (s.macState n = macTraining ∨ s.macState n = macRetrain → Completes (.portSignalLost n) s (fun t =>
      t.macState n = macDown ∧ t.ports = s.ports ∧ t.events = s.events ∧ ∀ o ≠ Reg.MAC_STATUS n, t.reg o = s.reg o)) ∧
    (∀ m v : Nat, m ≠ mKeeper → s.fld (Fl.MAC_CTRL_RUN n) = 0 → bitOf v 0 = true → bitOf v 7 = false → Completes (.macRunWrite m n v) s (fun t =>
      t.fld (Fl.MAC_CTRL_RUN n) = 1 ∧ t.macState n = (if (s.cageOf n).isSome then macDown else s.macState n) ∧ t.ports = s.ports ∧ t.mem = s.mem)) ∧
    (∀ m v : Nat, m ≠ mKeeper → s.fld (Fl.MAC_CTRL_RUN n) = 1 → bitOf v 0 = false → Completes (.macRunWrite m n v) s (fun t =>
      t.fld (Fl.MAC_CTRL_RUN n) = 0 ∧ t.macState n = macDisabled ∧ t.fld (Fl.MAC_STATUS_FEC_LOCK n) = 0))

/-- Frames: a received one is dropped under its first failing cause or counted, stage firmware's queued without its tag and with its timestamp, and a partner's peer-delay request answered; PFC pauses and releases
priorities; frames of the management queue, the LLDP agent and the peer-delay measurement go out with their tags; the partner's LLDP is kept until it expires; the topology table is published; without GM_EN no frame offers the module as grandmaster (R347, R386 to R396, R404).
That a management frame over the port's limit, or beyond 64 held, is not taken is the model's choice (log entry 100). -/
def Obligations.PortsCarryFrames : Prop :=
  ∀ s : State, s.Inv → ∀ n < 9,
    let free := s.portHolds n = false ∧ (s.port n).paused = []
    let up := s.macState n = macUp ∨ s.macState n = macStepping
    let count := fun (c k : Nat) (t : State) => t.reg64 (Reg.MAC_COUNT_LO n c) = min (s.reg64 (Reg.MAC_COUNT_LO n c) + k) (2 ^ 48 - 1)
    let rx := 16 * s.time - s.fld (Fl.MAC_PTP_LAT_RX_LAT n)
    (∀ f : Frame, let g := s.sentFrame n f
      (g.fcsOk = true ∧ 64 ≤ g.length ∧ g.tags = if f.etherType = 0x88CC ∨ s.fld (Fl.MAC_VLAN_TAG_EN n) = 0 then [] else [(0x8100, s.mgmtPcp n * 2 ^ 13 + s.fld (Fl.MAC_VLAN_VID n))]) ∧
      (s.receives n = false → exec (.frameReceive n f) s = .next s) ∧
      (∀ c, s.receives n = true → s.frameCause n f = some c → Completes (.frameReceive n f) s (fun t =>
        t.reg64 (Reg.MAC_DROP_LO n c) = min (s.reg64 (Reg.MAC_DROP_LO n c) + 1) (2 ^ 48 - 1) ∧ (t.port n).rxq = (s.port n).rxq ∧ count 0 0 t ∧ t.mem = s.mem)) ∧
      (s.receives n = true → s.frameCause n f = none → Completes (.frameReceive n f) s (fun t => count 0 1 t ∧ count 1 f.length t ∧ t.mem = s.mem ∧
        (t.port n).rxq = (if s.forStage f then (s.port n).rxq ++ [⟨{ f with tags := [], length := f.length - 4 * f.tags.length }, rx / 16, rx % 16⟩] else (s.port n).rxq) ∧
        (f.ask = true → s.forStage f = false → free → .pdelayResp n (s.tagOf n (s.mgmtPcp n)) (rx / 16, rx % 16) ∈ t.out ∧
          ∃ t3, .pdelayFollow n (s.tagOf n (s.mgmtPcp n)) t3 ∈ t.out))) ∧
      (up → g.length ≤ s.frameLimit n → (s.port n).mgmtHeld < 64 → (f.master = true → s.fld (Fl.MAC_CTRL_GM_EN n) = 1) →
        (free → Completes (.mgmtQueueSend n f) s (fun t => .frame n g ∈ t.out ∧ count 2 1 t ∧ count 3 g.length t ∧ t.mem = s.mem)) ∧
        (s.portHolds n = true → Completes (.mgmtQueueSend n f) s (fun t => t.out = s.out ∧ (∃ k, (k, g.length, Out.frame n g) ∈ (t.port n).held) ∧ t.regs = s.regs ∧ t.mem = s.mem))) ∧
      (s.frameLimit n < g.length ∨ 64 ≤ (s.port n).mgmtHeld ∨ (f.master = true ∧ s.fld (Fl.MAC_CTRL_GM_EN n) = 0) → exec (.mgmtQueueSend n f) s = .next s)) ∧
    (∀ (mask : Nat) (quanta kib : List Nat), s.receives n = true → Completes (.pfcFrame n mask quanta kib) s (fun t => t.mem = s.mem ∧ ∀ i < 8, bitOf mask i = true →
      bitOf (s.pfcMask n) i = true → ((t.port n).paused.contains i = true ↔ quanta.getD i 0 ≠ 0))) ∧
    (∀ (prio : Nat) (kib : List Nat), Completes (.pfcPauseExpire n prio kib) s (fun t => (t.port n).paused = (s.port n).paused.filter (fun i => decide (i ≠ prio)) ∧ t.mem = s.mem ∧
      (s.portHolds n = false → ∀ x ∈ (s.port n).held, x.1 = prio → x.2.2 ∈ t.out))) ∧
    (up → free → s.fld (Fl.MAC_LLDP_TX_EN n) = 1 → Completes (.lldpTransmit n) s (fun t => t.mem = s.mem ∧
      .lldp ⟨n, s.portMac 0, s.portMac n, 4 * max (s.fld (Fl.MAC_LLDP_INTERVAL n)) 1, if s.fld (Fl.MAC_CTRL_JUMBO n) = 1 then 9216 else 1522,
        if s.lpMethod n = 2 then some (Config.wakeTime n % 65536) else none, leAt s.rst.cfg 16 6 / 2 ^ 24,
        n + (s.job.map (·.module)).getD 0xFF * 2 ^ 8 + 2 ^ 16 + ((if s.lpMethod n = 1 ∧ 2 ≤ s.portSpeed n then 1 else 0) + 2 * s.fld (Fl.MAC_CTRL_PDELAY_EN n) +
          (if n = 8 then 4 else 0)) * 2 ^ 24⟩ ∈ t.out)) ∧
    (∀ (mac ttl : Nat) (cap tw : Option Nat), s.receives n = true → Completes (.lldpduReceive n mac cap tw ttl) s (fun t =>
      (t.port n).partner.map (·.mac) = (if ttl = 0 then none else some mac) ∧ (t.port n).lldpAt = some s.time ∧ t.fld (Fl.MAC_STATUS_STEP_OK n) = (if ttl ≠ 0 ∧ bitOf (bitsOf (cap.getD 0) 31 24) 0 = true then 1 else 0) ∧
      (n = 8 → cap = none → t.fld (Fl.MAC_STATUS_MISCABLED 8) = 1 ∧ s.Told t Ev.twinMiscabled (srcPort 8) 0) ∧ t.mem = s.mem)) ∧
    Completes (.lldpPartnerExpire n) s (fun t => t.port n = { s.port n with partner := none } ∧ t.fld (Fl.MAC_STATUS_STEP_OK n) = 0 ∧ t.fld (Fl.MAC_STATUS_TW n) = 0 ∧
      (∀ o ≠ Reg.MAC_STATUS n, t.reg o = s.reg o) ∧ t.mem = s.mem) ∧
    Completes .topologyPublish s (fun t => t.reg Reg.TOPO_GEN = s.reg Reg.TOPO_GEN + 1 ∧ t.fld Fl.TOPO_CEILING_CEILING = s.fld Fl.IDENT_CAP_CEILING_CEILING ∧
      bitOf (t.fld Fl.TOPO_PORTS_PORTS_UP) n = s.linkUp n ∧ t.reg (Reg.TOPO_PARTNER_LO n) = BitVec.ofNat 32 (((s.port n).partner.map (·.mac)).getD 0) ∧ t.ports = s.ports ∧ t.mem = s.mem) ∧
    (∀ a : Option Int, s.macState n = macUp → (s.port n).exchanges < 16 → Completes (.pdelayExchange n a) s (fun t =>
      (t.port n).exchanges = (s.port n).exchanges + 1 ∧ (t.port n).delays = (s.port n).delays ++ a.toList ∧ (free → .pdelay n (s.tagOf n (s.mgmtPcp n)) ∈ t.out) ∧ t.mem = s.mem ∧
      ((s.port n).exchanges = 15 → 9 ≤ ((s.port n).delays ++ a.toList).length → t.fld (Fl.MAC_PTP_DELAY_VALID n) = 1))) ∧
    Completes (.ptpLost n) s (fun t => s.Told t Ev.ptpLost (srcPort n) 0 ∧ t.ports = s.ports ∧ t.mem = s.mem)

/-- Speed steps and low-power idle: a port long little used, backed up or busy asks, which holds the transmit queue; an acknowledgement, given or received, agrees the target (a step down only where STEP is the method), a request for the same direction the
higher one, and one for a step up overrides one's own for a step down; the change and the return to UP count it; a request without an answer is abandoned, the third for good; LPI is entered under R398 after LPI_IDLE and
left for a queued frame (R397 to R402, R409). -/
def Obligations.PortsStepAndIdle : Prop :=
  ∀ s : State, s.Inv → ∀ n < 9,
    let p := s.port n
    let sp := s.fld (Fl.MAC_STATUS_SPEED n)
    let count := fun (c : Nat) (t : State) => t.reg64 (Reg.MAC_COUNT_LO n c) = min (s.reg64 (Reg.MAC_COUNT_LO n c) + 1) (2 ^ 48 - 1)
    let told := fun (q : Port) => { q with txWin := q.txWin + 64, idleUs := 0 }
    let asks := fun (d : Bool) (target : Nat) (t : State) => t.macState n = macStepping ∧ t.port n = told { p with stepTo := some (d, target) } ∧
      t.out = .stepTlv n false d target :: s.out ∧ count 2 t ∧ t.mem = s.mem
    (s.stepReady n = true → s.lpMethod n = 1 → p.noSteps = false → 1 < sp → 200 ≤ p.low → Completes (.stepDownRequest n) s (asks false (sp - 1))) ∧
    (s.stepReady n = true → p.noSteps = false → sp < s.portSpeed n → 10 ≤ p.backUs ∨ p.busy = true → Completes (.stepUpRequest n) s (asks true (sp + 1))) ∧
    (p.low < 200 → exec (.stepDownRequest n) s = .next s) ∧ (p.backUs < 10 → p.busy = false → exec (.stepUpRequest n) s = .next s) ∧
    (∀ d target, s.receives n = true → p.stepTo = some (d, target) → Completes (.stepTlv n true d target) s (fun t =>
      t.port n = { p with stepTo := none, agreed := some target, abandoned := 0 } ∧ t.out = s.out ∧ t.regs = s.regs)) ∧
    (∀ (d : Bool) (target : Nat), s.receives n = true → p.stepTo = none → s.stepReady n = true →
      (if d then target = sp + 1 ∧ target ≤ s.portSpeed n else s.lpMethod n = 1 ∧ target + 1 = sp ∧ 1 ≤ target) → Completes (.stepTlv n false d target) s (fun t =>
        t.macState n = macStepping ∧ t.port n = told { p with stepTo := none, agreed := some target } ∧ t.out = .stepTlv n true d target :: s.out)) ∧
    (∀ target, p.stepTo = none → s.lpMethod n ≠ 1 → exec (.stepTlv n false false target) s = .next s) ∧
    (∀ d mine target, s.receives n = true → p.stepTo = some (d, mine) → 1 ≤ target → target ≤ s.portSpeed n → Completes (.stepTlv n false d target) s (fun t =>
      t.port n = { p with stepTo := none, agreed := some (max mine target), abandoned := 0 } ∧ t.out = s.out ∧ t.regs = s.regs)) ∧
    (∀ mine, s.receives n = true → p.stepTo = some (false, mine) → sp + 1 ≤ s.portSpeed n → Completes (.stepTlv n false true (sp + 1)) s (fun t =>
      t.macState n = macStepping ∧ t.port n = told { p with low := 0, stepTo := none, agreed := some (sp + 1), abandoned := 0 } ∧ t.out = .stepTlv n true true (sp + 1) :: s.out)) ∧
    (∀ mine target, p.stepTo = some (true, mine) → exec (.stepTlv n false false target) s = .next s) ∧
    (∀ target < 4, p.agreed = some target → s.macState n = macStepping → p.changing = none → Completes (.stepSpeedChange n) s (fun t =>
      t.fld (Fl.MAC_STATUS_SPEED n) = target ∧ t.fld (Fl.MAC_STATUS_FEC_LOCK n) = 0 ∧ t.port n = { p with changing := some (decide (sp < target)) } ∧ t.mem = s.mem)) ∧
    (∀ d, p.changing = some d → s.macState n = macStepping → Completes (.stepSpeedUp n) s (fun t =>
      t.macState n = macUp ∧ t.fld (Fl.MAC_STATUS_FEC_LOCK n) = 1 ∧ count (if d then 8 else 7) t ∧ (t.port n).agreed = none ∧ (t.port n).changing = none ∧ (t.port n).low = 0 ∧ t.mem = s.mem ∧
      (s.fld (Fl.MAC_STATUS_LPI_TX n) = 0 → ∀ x ∈ p.held, p.paused.contains x.1 = false → x.2.2 ∈ t.out))) ∧
    (s.macState n = macStepping → p.stepTo.isSome = true → Completes (.stepRequestAbandon n) s (fun t =>
      t.macState n = macUp ∧ count 9 t ∧ (t.port n).stepTo = none ∧ (t.port n).abandoned = p.abandoned + 1 ∧ (t.port n).noSteps = (p.noSteps || decide (2 ≤ p.abandoned)) ∧ t.mem = s.mem)) ∧
    (s.macState n = macUp → Completes (.lpiEnter n true) s (fun t => t.fld (Fl.MAC_STATUS_LPI_RX n) = 1 ∧ (∀ o ≠ Reg.MAC_STATUS n, t.reg o = s.reg o) ∧ t.ports = s.ports)) ∧
    (s.macState n = macUp → s.lpMethod n = 2 → p.partner.any (·.eee) = true → s.crossPending = false → p.held = [] → max (s.fld (Fl.MAC_LP_LPI_IDLE n)) 1 ≤ p.idleUs → Completes (.lpiEnter n false) s (fun t =>
      t.fld (Fl.MAC_STATUS_LPI_TX n) = 1 ∧ (∀ o ≠ Reg.MAC_STATUS n, t.reg o = s.reg o) ∧ t.ports = s.ports)) ∧
    (p.idleUs < max (s.fld (Fl.MAC_LP_LPI_IDLE n)) 1 → exec (.lpiEnter n false) s = .next s) ∧
    Completes (.lpiWake n true) s (fun t => t.fld (Fl.MAC_STATUS_LPI_RX n) = 0 ∧ (∀ o ≠ Reg.MAC_STATUS n, t.reg o = s.reg o) ∧ t.ports = s.ports) ∧
    (p.held ≠ [] → Completes (.lpiWake n false) s (fun t => t.fld (Fl.MAC_STATUS_LPI_TX n) = 0 ∧ t.mem = s.mem ∧
      (s.macState n ≠ macStepping → ∀ x ∈ p.held, p.paused.contains x.1 = false → x.2.2 ∈ t.out)))

/-! The manager and the collective engine. -/

/-- No Slate of the message has a reserved phase (R16). -/
def phasesOk (m : Msg) : Prop := slatePhase m.slate ≤ 4 ∧ (m.type = 5 → slatePhase (leAt m.arg 0 8) ≤ 4)

/-- The engine takes part and the message is of no earlier EPOCH and of no reserved phase (R16, R366, R376); the number of the next message to a module; a message for a module stands queued on its management
flow. -/
def hears (s : State) (m : Msg) : Prop := s.fld Fl.COLL_CTRL_RUN = 1 ∧ s.fld Fl.COLL_STATUS_EPOCH ≤ m.epoch ∧ phasesOk m
def seqTo (s : State) (dest : Nat) : Nat := ((s.coll.seq.find? (fun e => decide (e.1 = dest))).map (·.2)).getD 0
def sentMsg (s t : State) (dest type slate : Nat) (arg : List Byte) : Prop :=
  (s.flow (4032 + dest)).state = 1 → ∃ x ∈ (t.flow (4032 + dest)).tx, x.sent = none ∧ x.pkt.op = opMgmt ∧
    x.pkt.payload = msgBytes ⟨type, s.fld Fl.COLL_STATUS_EPOCH, s.me, seqTo s dest, slate, arg⟩

/-- The module is held: no Take open, no tile running, nothing in the update queue. -/
def isHeld (t : State) : Prop :=
  t.fld Fl.COLL_STATUS_HELD = 1 ∧ t.fld Fl.COLL_STATUS_LOST = 1 ∧ t.upd.queue = [] ∧
    ∀ n < 180, (t.tile n).take = none ∧ t.fld (Fl.TILE_SEQ_CTRL_RUN n) = 0

/-- The commands of messages that reach a module, but for RESTORE. -/
def msgCommands : List (Msg → Instr) :=
  [.join, .joinAck, .heartbeat, .drained, .updDone, .clapArrive, .clapRelease, .journal, .journalAck, .manager, .hold, .restored]

/-- Joining, hearing, losing and returning: messages outside the job, of a reserved phase or of an earlier EPOCH do nothing but be counted; JOINs are admitted or refuse the job; heartbeats go to the manager and the
standby; a lost module holds the job, a lost manager is succeeded; HOLD, RESTORE and RESUME take the job back to the step restored (R16, R345, R346, R364 to R371, R376). A JOIN_ACK that names another number of modules
refuses the job while its tiles have not been set running: the model's choice (log entry 93). -/
def Obligations.JobsJoinFailOverAndResume : Prop :=
  ∀ s : State, s.Inv →
    (∀ c ∈ msgCommands, ∀ m : Msg,
      (s.fld Fl.COLL_CTRL_RUN = 0 → phasesOk m → exec (c m) s = .next s) ∧
      (¬phasesOk m → Completes (c m) s (fun t => t.coll = s.coll ∧ t.mem = s.mem ∧ t.tiles = s.tiles ∧ t.out = s.out ∧
        ∀ w ws, (s.flow (4032 + m.module)).paths = w :: ws → w.port ≤ 8 → t.reg64 (Reg.MAC_DROP_LO w.port 9) = min (s.reg64 (Reg.MAC_DROP_LO w.port 9) + 1) (2 ^ 48 - 1))) ∧
      (s.fld Fl.COLL_CTRL_RUN = 1 → phasesOk m → m.epoch < s.fld Fl.COLL_STATUS_EPOCH → m.type ≠ 1 → Completes (c m) s (fun t =>
        t.reg64 (Reg.COLL_COUNT_LO 5) = min (s.reg64 (Reg.COLL_COUNT_LO 5) + 1) (2 ^ 48 - 1) ∧ t.coll = s.coll ∧ t.mem = s.mem ∧ t.tiles = s.tiles ∧ t.out = s.out))) ∧
    (∀ m : Msg, hears s m →
      exec (.heartbeat m) s = .next { s with
        coll := { s.coll with heard := (m.module, s.time) :: s.coll.heard.filter (fun h => decide (h.1 ≠ m.module)) } } ∧
      (s.isManager = true →
        (let j := joinOf m
         (j.rejoin = false → s.coll.mgr.admitted = false →
          (s.joinFits j = false → Completes (.join m) s (fun t => t.coll.mgr.joins = [] ∧ t.fld Fl.COLL_CTRL_RUN = 0 ∧ (∀ k, t.job = some k → k.running = false) ∧
            s.Told t Ev.joinMismatch (srcUnit mColl) 0)) ∧
          (s.joinFits j = true → Completes (.join m) s (fun t => t.coll.mgr.joins = s.coll.mgr.joins ++ [j] ∧
            if s.modules ≤ s.coll.mgr.joins.length + 1 then t.coll.mgr.admitted = true ∧ t.coll.mgr.s0 = 0 else t.coll.mgr.admitted = false ∧ t.mem = s.mem))) ∧
         (j.rejoin = true → s.coll.mgr.lost.contains j.module = true → s.coll.mgr.standby = none → Completes (.join m) s (fun t =>
          let may := Config.freeValue (s.freeCount + 1)
          let r := s.restart j.module (Config.freeValue s.freeCount % 2 ^ 32) (bitOf may 2) (bitOf may 0) (bitOf may 1)
          if r.possible then t.coll.mgr.restore = some r.step ∧ (1 < s.modules → t.fld Fl.COLL_STATUS_RESTORED = 0) ∧
            (s.coll.journal = [] → r.step = 0 ∨ (s.coll.rejoin = false ∧ ∀ g ∈ s.upd.groups, g.step = r.step ∧
              (s.overlap = false ∨ s.coll.twinLost = true ∨ g.obj = 0xFFFF)) → s.me ∈ t.coll.mgr.restored) ∧
            (r.exact = false → t.fld Fl.COLL_STATUS_INEXACT = 1 ∧ s.Told t Ev.restoreInexact (srcUnit mColl) 0)
          else t.coll.mgr = s.coll.mgr ∧ s.Told t Ev.restoreImpossible (srcUnit mColl) 0)))) ∧
      (leAt m.arg 4 2 ≠ s.modules → (s.job.any (·.started)) = false → Completes (.joinAck m) s (fun t => t.fld Fl.COLL_CTRL_RUN = 0 ∧ (∀ k, t.job = some k → k.running = false) ∧
        s.Told t Ev.joinMismatch (srcUnit mColl) 0)) ∧
      (leAt m.arg 4 2 ≠ s.modules → (s.job.any (·.started)) = true → exec (.joinAck m) s = exec (.heartbeat m) s) ∧
      (m.epoch < 256 → leAt m.arg 4 2 = s.modules → Completes (.joinAck m) s (fun t =>
        t.fld Fl.COLL_STATUS_EPOCH = m.epoch ∧ t.fld Fl.COLL_STATUS_HELD = 0 ∧ t.coll.manager = m.module ∧ t.coll.gens = [] ∧ t.coll.arrived = [] ∧
        t.coll.mgr.admitted = true ∧ t.coll.mgr.s0 = leAt m.arg 0 4 ∧ t.coll.mgr.lost = [] ∧
        ∀ j, s.runJob = some j → t.job = some { j with started := true } ∧ ∀ n < j.tiles, n < 180 → t.fld (Fl.TILE_SEQ_CTRL_RUN n) = 1)) ∧
      Completes (.manager m) s (fun t =>
        let standby := leAt m.arg 2 2
        t.fld Fl.COLL_STATUS_EPOCH = leAt m.arg 0 1 ∧ t.fld Fl.COLL_STATUS_ROLE = (if standby = s.me then 2 else 0) ∧ t.coll.manager = m.module ∧ t.coll.standby = (if standby = 0xFFFF then none else some standby) ∧ t.mem = s.mem ∧
        t.tiles = s.tiles ∧
        (s.isManager = true → m.module ≠ s.me → t.fld Fl.COLL_STATUS_FAILOVER = 1 ∧ s.Told t Ev.managerFailover (srcUnit mColl) 0) ∧
        ((s.flow (4032 + m.module)).state = 1 → ∀ e ∈ s.coll.arrived, ∃ x ∈ (t.flow (4032 + m.module)).tx, ∃ n, x.pkt.op = opMgmt ∧
          x.pkt.payload = msgBytes ⟨7, leAt m.arg 0 1, s.me, n, 0, leBytes 4 e.1 ++ leBytes 4 e.2⟩)) ∧
      Completes (.hold m) s isHeld ∧
      (∀ copies : List RestoreCopy, let r := leAt m.arg 0 4
        (copies = [] → m.epoch < 256 → s.coll.restoring ≠ some r → r = 0 ∨ (s.coll.rejoin = false ∧ ∀ g ∈ s.upd.groups, g.step = r) → Completes (.restore m copies) s (fun t =>
          t.coll.manager = m.module ∧ t.fld Fl.COLL_STATUS_EPOCH = m.epoch ∧
          (s.me ≠ m.module → (s.flow (4032 + m.module)).state = 1 → ∃ x ∈ (t.flow (4032 + m.module)).tx, x.sent = none ∧ x.pkt.op = opMgmt ∧
            x.pkt.payload = msgBytes ⟨0xE, m.epoch, s.me, seqTo s m.module, 0, leBytes 4 r⟩) ∧
          (s.overlap = true → r ≠ 0 → (∃ g ∈ s.upd.groups, g.obj ≠ 0xFFFF) → t.fld Fl.COLL_STATUS_INEXACT = 1) ∧
          ∀ (i : Nat) (o : Obj), s.reel.objects[i]? = some o → o.versioned = true → ∃ o' : Obj, t.reel.objects[i]? = some o' ∧ o'.verAt (r % 2) = r ∧
            (s.overlap = false ∨ r = 0 ∨ (∃ g ∈ s.upd.groups, g.obj ≠ 0xFFFF) → o'.verAt (1 - r % 2) = noVer))) ∧
        (copies = [] → r ≠ 0 → (∃ g ∈ s.upd.groups, g.step ≠ r) → Completes (.restore m copies) s (fun t =>
          t.coll.restoring = some r ∧ t.reel.objects = s.reel.objects ∧ t.coll.mgr = s.coll.mgr)) ∧
        (∀ (c : RestoreCopy) (g : Group), copies = [c] → c.step = r → r ≠ 0 → s.upd.groups[c.group]? = some g → Completes (.restore m copies) s (fun t =>
          t.upd.groups[c.group]? = some { g with step := r, bp1 := c.bp1, bp2 := c.bp2 }))) ∧
      (s.isManager = true → s.coll.mgr.standby = none → s.coll.mgr.restored.contains m.module = false →
        (∀ e ∈ s.coll.journal, e.2 ≠ .restored m.module (leAt m.arg 0 4)) → Completes (.restored m) s (fun t =>
          t.coll.mgr.restored = s.coll.mgr.restored ++ [m.module] ∧
          ((∀ k < s.modules, k ∈ s.coll.mgr.restored ++ [m.module]) → t.fld Fl.COLL_STATUS_RESTORED = 1)))) ∧
    (s.isManager = true → s.coll.mgr.admitted = false → s.coll.mgr.joins ≠ [] → s.job.isSome = true → Completes .joinTimeout s (fun t =>
      s.Told t Ev.joinTimeout (srcUnit mColl) 0 ∧ t.coll = s.coll ∧ t.mem = s.mem ∧ t.tiles = s.tiles ∧ t.out = s.out)) ∧
    (∀ dest : Nat, s.fld Fl.COLL_CTRL_RUN = 0 ∨ s.fld Fl.NRT_CTRL_RUN = 0 ∨ dest = s.me ∨ (dest ≠ s.coll.manager ∧ s.coll.standby ≠ some dest) → exec (.heartbeatSend dest) s = .next s) ∧
    (∀ dest : Nat, s.fld Fl.COLL_CTRL_RUN = 1 → s.fld Fl.NRT_CTRL_RUN = 1 → dest ≠ s.me → dest = s.coll.manager ∨ s.coll.standby = some dest → let f := 4032 + dest
      ((s.flow f).state ≠ 1 → Completes (.heartbeatSend dest) s (fun t => t.out = s.out ∧ t.mem = s.mem ∧
        t.reg64 (Reg.NRT_COUNT_LO 13) = min (s.reg64 (Reg.NRT_COUNT_LO 13) + 1) (2 ^ 48 - 1))) ∧
      ((s.flow f).state = 1 → Completes (.heartbeatSend dest) s (fun t => t.mem = s.mem ∧ t.tiles = s.tiles ∧
        ∀ i w, (s.flow f).paths[i]? = some w → s.pathUsable w false = true → s.heartbeatPort dest w.port = true → s.portHolds w.port = false → (s.port w.port).paused = [] →
          ∃ x : NrtFrame, .packet x ∈ t.out ∧ x.port = w.port ∧ x.flow = f ∧ x.path = i ∧ x.ip = w.ip ∧ x.ect = false ∧ x.pkt.op = opMgmt ∧ x.pkt.dgram = true ∧ x.pkt.path = i ∧
            x.pkt.payload = msgBytes ⟨3, s.fld Fl.COLL_STATUS_EPOCH, s.me, seqTo s dest, 0, []⟩))) ∧
    (∀ l : Nat, s.fld Fl.COLL_CTRL_RUN = 1 → l < s.modules → l ≠ s.me → s.coll.mgr.lost.contains l = false →
      (s.fld Fl.COLL_STATUS_ROLE = 1 → s.coll.mgr.standby = none → s.coll.fullTo ≠ some l → Completes (.moduleLossTimeout l) s (fun t =>
        isHeld t ∧ t.coll.mgr.held = true ∧ l ∈ t.coll.mgr.lost ∧ s.Told t Ev.moduleLost (srcUnit mColl) l)) ∧
      (s.fld Fl.COLL_STATUS_ROLE = 2 → l = s.coll.manager → Completes (.moduleLossTimeout l) s (fun t =>
        isHeld t ∧ t.fld Fl.COLL_STATUS_ROLE = 1 ∧ t.coll.manager = s.me ∧ t.fld Fl.COLL_STATUS_EPOCH = (s.fld Fl.COLL_STATUS_EPOCH + 1) % 256 ∧
        t.fld Fl.COLL_STATUS_FAILOVER = 1 ∧ l ∈ t.coll.mgr.lost ∧ s.Told t Ev.managerFailover (srcUnit mColl) 0 ∧ s.Told t Ev.moduleLost (srcUnit mColl) l))) ∧
    (∀ m v : Nat, bitOf v 0 = true → bitOf v 2 = true → s.fld Fl.COLL_CTRL_RUN = 1 → s.isManager = true → s.fld Fl.COLL_STATUS_RESTORED = 1 →
      m ≠ mKeeper → ∀ r, s.coll.mgr.restore = some r → Completes (.collResume m v) s (fun t =>
        t.fld Fl.COLL_STATUS_RESTORED = 0 ∧ t.fld Fl.COLL_STATUS_HELD = 0 ∧ t.coll.mgr.admitted = true ∧ t.coll.mgr.held = false ∧ t.coll.mgr.s0 = r ∧
        t.coll.mgr.lost = [] ∧ ∀ j, s.runJob = some j → ∀ n < j.tiles, n < 180 → t.fld (Fl.TILE_SEQ_CTRL_RUN n) = 1))

/-- Reports, releases and the journal: each report is made once and recorded once; a release reaches the tiles that wait; the standby records what the journal carries and acknowledges it; the engine's RUN
takes hold where its tables are good; a bucket that waits for a child stalls once (R249, R351 to R353, R357, R362, R365 to R368, R376 to R378). -/
def Obligations.ReportsReachTheManager : Prop :=
  ∀ s : State, s.Inv →
    (∀ x : Nat, s.fld Fl.COLL_CTRL_RUN = 1 →
      (s.reg Reg.COLL_STEP ≠ 0xFFFFFFFF → x ≤ (s.reg Reg.COLL_STEP).toNat → s.drainedOf x = true → s.coll.drainedSent.contains x = false →
        Completes (.drainedReport x) s (fun t => t.coll.drainedSent = s.coll.drainedSent ++ [x] ∧
          (s.isManager = false → sentMsg s t s.coll.manager 4 (mkSlate x 0 0 0 0) [] ∧ t.mem = s.mem ∧ t.tiles = s.tiles) ∧
          (s.isManager = true → s.coll.mgr.standby = none → s.coll.mgr.drained.contains (s.me, x) = false → (∀ e ∈ s.coll.journal, e.2 ≠ .reportDrained s.me x) →
            t.coll.mgr.drained = s.coll.mgr.drained ++ [(s.me, x)]))) ∧
      (s.updDoneOf x = true → s.coll.updDoneSent.contains x = false → Completes (.updDoneReport x) s (fun t => t.coll.updDoneSent = s.coll.updDoneSent ++ [x] ∧
        (s.isManager = false → sentMsg s t s.coll.manager 6 0 (leBytes 4 x) ∧ t.mem = s.mem ∧ t.tiles = s.tiles) ∧
        (s.isManager = true → s.coll.mgr.standby = none → s.coll.mgr.updDone.contains (s.me, x) = false → (∀ e ∈ s.coll.journal, e.2 ≠ .reportUpdDone s.me x) →
          t.coll.mgr.updDone = s.coll.mgr.updDone ++ [(s.me, x)])))) ∧
    (∀ m : Msg, hears s m →
      (s.isManager = true →
        (let e := (m.module, slateStep m.slate)
         let c := Change.reportDrained e.1 e.2
         s.coll.mgr.drained.contains e = false → (∀ x ∈ s.coll.journal, x.2 ≠ c) → Completes (.drained m) s (fun t =>
          match s.coll.mgr.standby with
          | none => t.coll.mgr.drained = s.coll.mgr.drained ++ [e]
          | some d => t.coll.mgr.drained = s.coll.mgr.drained ∧ (seqTo s d, c) ∈ t.coll.journal ∧ sentMsg s t d 9 0 (c.bytes false))) ∧
        (let e := (m.module, leAt m.arg 0 4)
         let c := Change.reportUpdDone e.1 e.2
         s.coll.mgr.updDone.contains e = false → (∀ x ∈ s.coll.journal, x.2 ≠ c) → Completes (.updDone m) s (fun t =>
          match s.coll.mgr.standby with
          | none => t.coll.mgr.updDone = s.coll.mgr.updDone ++ [e]
          | some d => t.coll.mgr.updDone = s.coll.mgr.updDone ∧ (seqTo s d, c) ∈ t.coll.journal ∧ sentMsg s t d 9 0 (c.bytes false))) ∧
        (let e := (m.module, leAt m.arg 0 4, leAt m.arg 4 4)
         s.coll.mgr.arrivals.contains e = false → Completes (.clapArrive m) s (fun t => t.coll.mgr.arrivals = s.coll.mgr.arrivals ++ [e])) ∧
        (∀ n c d k, s.coll.journal.find? (fun e => decide (e.1 = leAt m.arg 0 4)) = some (n, c) → s.coll.fullTo ≠ some m.module → c = .reportDrained d k →
          Completes (.journalAck m) s (fun t => t.coll.mgr.drained = s.coll.mgr.drained ++ [(d, k)])) ∧
        (s.coll.fullTo = some m.module → s.coll.fullLeft = [leAt m.arg 0 4] → Completes (.journalAck m) s (fun t =>
          t.coll.fullTo = none ∧ t.coll.fullLeft = [] ∧ t.coll.mgr.standby = some m.module))) ∧
      (let c := leAt m.arg 0 4
       let g := leAt m.arg 4 4
       let next := ((s.coll.gens.find? (fun e => decide (e.1 = c))).map (·.2)).getD 0
       (g < next → exec (.clapRelease m) s = exec (.heartbeat m) s) ∧
       (next ≤ g → Completes (.clapRelease m) s (fun t =>
          t.coll.gens = (c, g + 1) :: s.coll.gens.filter (fun e => decide (e.1 ≠ c)) ∧ t.coll.arrived = s.coll.arrived.filter (fun e => decide (e.1 ≠ c)) ∧
          s.Keeps t ∧ (c = 7 → (t.reg Reg.COLL_STEP).toNat = leAt m.arg 8 4 ∧ (leAt m.arg 8 4 = 2 ^ 32 - 1 → s.Told t Ev.stepLimit (srcUnit mColl) 0)) ∧
          ∀ n ∈ s.crossTiles c, (t.tile n).arrivals = (s.tile n).arrivals.filter (fun k => decide (k ≠ 16 + c)) ∧
            ((s.tile n).wait = .clapx (16 + c) → n < 180 → (t.tile n).wait = .none ∧ t.pc n = ((s.tile n).stepPc (s.pc n)).2 % 8192)))) ∧
      Completes (.journal m) s (fun t =>
        let base := if bitOf (leAt m.arg 0 1) 0 ∧ s.coll.fullTo ≠ some m.module then Mgr.empty else s.coll.mgr
        t.coll.mgr = (match Change.decode m.arg with
          | some c => c.record base
          | none => base) ∧ sentMsg s t m.module 0xA 0 (leBytes 4 m.seq) ∧ t.mem = s.mem ∧ t.tiles = s.tiles)) ∧
    (∀ m v : Nat, m ≠ mKeeper → s.fld Fl.COLL_CTRL_RUN = 1 → bitOf v 0 = false → Completes (.collRunWrite m v) s (fun t =>
      t.fld Fl.COLL_CTRL_RUN = 0 ∧ t.coll.runs = [] ∧ t.coll.chunks = [] ∧ t.coll.later = [])) ∧
    (∀ v : Nat, ∀ c ∈ [Instr.collRunWrite mKeeper v, .collResume mKeeper v], Completes c s (fun t =>
      s.Told t Ev.csrPrivilege (masterSrc mKeeper) Reg.COLL_CTRL ∧ t.coll = s.coll ∧ t.mem = s.mem)) ∧
    (∀ m v : Nat, m ≠ mKeeper → s.fld Fl.COLL_CTRL_RUN = 0 → bitOf v 0 = true → bitOf v 2 = false → Completes (.collRunWrite m v) s (fun t => t.mem = s.mem ∧
      if s.collBasesOk && s.bucketsOk s.bucketTable s.rgroupTable && s.rgroupsOk then
        t.fld Fl.COLL_CTRL_RUN = 1 ∧ t.coll.buckets = s.bucketTable ∧ t.coll.rgroups = s.rgroupTable ∧ t.coll.manager = 0 ∧
          t.fld Fl.COLL_STATUS_ROLE = (if s.modules = 1 then 3 else if s.me = 0 then 1 else if s.me = 1 then 2 else 0)
      else t.fld Fl.COLL_CTRL_RUN = 0 ∧ t.fld Fl.COLL_STATUS_BADBASE = 1 ∧ t.coll = s.coll ∧ (s.collBasesOk = true → s.Told t Ev.jobImageInvalid srcHub 0))) ∧
    (∀ bucket step child q r,
      let b := s.bucket bucket
      let g := s.rgroup b
      let cq := posOf g.members.length b.owner child
      s.bucketRun bucket step = some r → r.stalled = false → s.myPos b = some q → cq ∈ childrenOf g.members.length q →
      (∃ k < s.chunkCount b, k ∉ r.sent ∧ s.gotUnit bucket step cq false k = none) →
      Completes (.collectiveStall bucket step child) s (fun t =>
        s.Told t Ev.collectiveStall (srcUnit mColl) (bucket + child * 2 ^ 16) ∧ (∀ x, t.bucketRun bucket step = some x → x.stalled = true) ∧ t.mem = s.mem ∧ t.tiles = s.tiles))

/-! The update die and weight versions. -/

/-- What the next group of a command does, judged in the order of R316: with each outcome its work, its count and what of the group changes; one that a snapshot is still to read waits (R332), and a polished one's d lies
in the scratch region (R322, R325), whose base is the D buffer's place by the model's choice (log entry 90). -/
def Obligations.GroupsAreJudgedAndComputed : Prop :=
  ∀ s : State, s.Inv → ∀ (r : UpdRun) (i : Nat) (rest : List Nat) (g : Group),
    s.upd.run = some r → r.work = none → r.ready = i :: rest → s.upd.groups[i]? = some g →
    let t := r.cmd.t
    (s.snapBlocks i t = true → exec .groupUpdate s = .next s) ∧ (s.snapBlocks i t = false →
    let count := fun (c : Nat) (u : State) => u.reg64 (Reg.UPDT_COUNT_LO c) = min (s.reg64 (Reg.UPDT_COUNT_LO c) + 1) (2 ^ 48 - 1)
    let works := fun (u : State) (w : GroupWork) => u.tiles = s.tiles ∧ u.out = s.out ∧ ∃ q, u.upd.run = some q ∧ q.work = some w ∧ q.ready = rest ∧
      q.waiting = r.waiting ∧ q.cmd = r.cmd
    let gr := s.tensor g.gAddr g.rows g.cols
    let refused := t ≠ g.step ∧ t ≠ (g.step + 1) % 2 ^ 32
    let nonfinite := s.fld Fl.UPDT_CTRL_NONFINITE = 1 ∧ gr.any fpNonFinite = true
    (r.frozen.contains i = true → Completes .groupUpdate s (fun u => works u (.copy i) ∧ u.mem = s.mem ∧ count 1 u ∧ u.upd.groups = s.upd.groups)) ∧
    (r.frozen.contains i = false →
      (t = g.step → Completes .groupUpdate s (fun u => works u (.nothing i) ∧ u.mem = s.mem ∧ count 2 u ∧ u.upd.groups = s.upd.groups)) ∧
      (refused → Completes .groupUpdate s (fun u => works u (.copy i) ∧ u.mem = s.mem ∧ count 3 u ∧ u.upd.groups = s.upd.groups ∧ u.fld Fl.UPDT_STATUS_SKEW = 1 ∧
        s.Told u Ev.stepSkew srcUpd (i + g.step * 2 ^ 12 + t * 2 ^ 44) ∧
        (s.fld Fl.UPDT_CTRL_SKEW_ACTION = 1 → u.fld Fl.COLL_STATUS_INEXACT = 1) ∧
        (s.fld Fl.UPDT_CTRL_SKEW_ACTION = 0 → r.stopCode = 0 → ∃ q, u.upd.run = some q ∧ q.stopCode = Ev.stepSkew.code))) ∧
      (t ≠ g.step → t = (g.step + 1) % 2 ^ 32 → nonfinite → Completes .groupUpdate s (fun u => works u (.copy i) ∧ u.mem = s.mem ∧ count 3 u ∧ u.upd.groups = s.upd.groups ∧
        u.fld Fl.UPDT_STATUS_NONFINITE = 1 ∧ s.Told u Ev.updateNonfinite srcUpd 0)) ∧
      (t ≠ g.step → t = (g.step + 1) % 2 ^ 32 → ¬nonfinite →
        let c := s.scalars g t
        let s2 := if g.s2En then s.tensor g.s2Addr g.rows g.cols else List.replicate (g.rows * g.cols) 0
        let es := ((s.tensor g.s1Addr g.rows g.cols).zip (s2.zip gr)).map (fun x => updElem g c x.1 x.2.1 x.2.2)
        let d := if g.polish then (g.polishAll (es.map (·.2.2))).1 else es.map (·.2.2)
        Completes .groupUpdate s (fun u =>
          works u (.apply i ((d.zip (s.tensor g.pAddr g.rows g.cols)).map (fun x => updMaster c x.1 x.2)) (es.map (·.1)) (es.map (·.2.1))) ∧ count 0 u ∧
          u.upd.groups[i]? = some { g with step := t, bp1 := c.bp1, bp2 := c.bp2 } ∧ (∀ k, k ≠ i → u.upd.groups[k]? = s.upd.groups[k]?) ∧
          (g.polish = false → u.mem = s.mem) ∧
          (g.polish = true → (let b := s.reg64 Reg.UPDT_SCRATCH_BASE_LO
            let ds := (es.map (·.2.2)).flatMap (fun w => leBytes 4 w.toNat)
            ((∀ k < ds.length, storage (b + k) = true) → u.bytes b ds.length = ds) ∧
              ∀ x, x < b ∨ b + max ds.length g.scratch ≤ x → u.byte x = s.byte x))))))

/-- What the die's other commands do: a command enters the queue and is taken up; a layer's gradient frees its groups; results, copies and snapshots are written and sent; the last group completes the command; the
waits of R282, R283 and R315 end; RUN and APPLY take hold; VER is written back to its table (R274, R312 to R319, R326 to R333, R336 to R339, R341). -/
def Obligations.UpdatesAreWrittenAndSent : Prop :=
  ∀ s : State, s.Inv →
    let bytesAt := fun (u : State) (a : Nat) (d : List Byte) => (∀ k < d.length, storage (a + k) = true ∧ s.isolatedLine (a + k) = false) → u.bytes a d.length = d
    (∀ m : Msg, s.fld Fl.COLL_CTRL_RUN = 0 → phasesOk { m with type := 5 } → exec (.updCmd m) s = .next s) ∧
    (∀ m : Msg, ¬phasesOk { m with type := 5 } → Completes (.updCmd m) s (fun t => t.upd = s.upd ∧ t.coll = s.coll ∧ t.mem = s.mem)) ∧
    (∀ m : Msg, hears s { m with type := 5 } → let c := UpdCmd.decode m.arg
      (s.fld Fl.UPDT_CTRL_RUN = 0 → s.upd.run = none → exec (.updCmd m) s = exec (.heartbeat { m with type := 5 }) s) ∧
      (s.fld Fl.UPDT_CTRL_RUN = 1 →
        (8 ≤ s.upd.queue.length → s.upd.run = none → Completes (.updCmd m) s (fun t => t.upd = s.upd ∧ t.mem = s.mem ∧ s.Told t Ev.updateQueueFull srcUpd 0)) ∧
        (s.upd.queue.length < 8 → (∃ r, s.upd.run = some r ∧ r.work.isSome = true) → Completes (.updCmd m) s (fun t =>
          t.upd = { s.upd with queue := s.upd.queue ++ [c] } ∧ t.mem = s.mem ∧ t.fld Fl.UPDT_STATUS_QUEUED = s.upd.queue.length + 1)) ∧
        (s.upd.queue = [] → s.upd.run = none → c.snap = true → Completes (.updCmd m) s (fun t => t.upd = { s.upd with queue := [c] } ∧ t.mem = s.mem)) ∧
        (s.upd.queue = [] → s.upd.run = none → c.snap = false → s.cmdGroups c ≠ [] → Completes (.updCmd m) s (fun t =>
          t.upd.queue = [] ∧ t.mem = s.mem ∧ t.fld Fl.UPDT_STATUS_BUSY = 1 ∧
          (∃ r, t.upd.run = some r ∧ r.cmd = c ∧ r.work = none ∧ r.frozen = (s.cmdGroups c).filter (fun g => (s.group g).frozen) ∧
            (∀ g, g ∈ r.ready ↔ g ∈ s.cmdGroups c ∧ s.gradPresent (s.group g).layer (slateStep c.slate) = true ∧ ∃ l ∈ s.upd.layers, l.layer = (s.group g).layer) ∧
            (∀ g, g ∈ r.waiting ↔ g ∈ s.cmdGroups c ∧ g ∉ r.ready)) ∧
          (∀ j g l, s.job = some j → j.strictFrozen = true → (s.cmdGroups c).filter (fun g => (s.group g).frozen) = g :: l →
            t.fld Fl.UPDT_STATUS_FROZEN_STRICT = 1 ∧ s.Told t Ev.frozenUpdate srcUpd g))))) ∧
    (∀ layer step l, s.layerRow layer = some l → s.gradPresent layer step = false →
      l.buckets ≤ (s.upd.buckets.filter (fun b => decide (b.1 = layer ∧ b.2.1 = step))).length → Completes (.layerGradientPresent layer step) s (fun t =>
        t.regs = s.regs ∧ t.mem = s.mem ∧ t.upd.present = s.upd.present ++ [(layer, step)] ∧
        ∀ r, s.upd.run = some r → slateStep r.cmd.slate = step → ∃ q, t.upd.run = some q ∧
          q.waiting = r.waiting.filter (fun g => decide ((s.group g).layer ≠ layer)) ∧ q.ready = r.ready ++ r.waiting.filter (fun g => decide ((s.group g).layer = layer)))) ∧
    (∀ r, s.upd.run = some r →
      (∀ i g p s1 s2, r.work = some (.apply i p s1 s2) → g = s.group i →
        (g.obj ≠ 0xFFFF → s.slotHeld g.obj (r.cmd.t % 2) = true → r.waiting ++ r.ready ≠ [] → Completes .groupUpdateDone s (fun t => t.mem = s.mem ∧
          ∃ q, t.upd.run = some q ∧ q.held = true ∧ q.work = r.work)) ∧
        (g.obj = 0xFFFF ∨ s.slotHeld g.obj (r.cmd.t % 2) = false →
          (r.held = true → s.slotHeld g.obj (r.cmd.t % 2) = false → ∀ f, exec (.slotBWriteRelease true f) s = exec .groupUpdateDone s) ∧
          (r.waiting ++ r.ready ≠ [] → Completes .groupUpdateDone s (fun t => (∃ q, t.upd.run = some q ∧ q.work = none) ∧
            (let dp := tensorRows g.rows g.cols p
             let d1 := tensorRows g.rows g.cols s1
             let d2 := tensorRows g.rows g.cols s2
             g.obj = 0xFFFF → g.pAddr + dp.length ≤ g.s1Addr → g.s1Addr + d1.length ≤ g.s2Addr → bytesAt t g.pAddr dp ∧ bytesAt t g.s1Addr d1 ∧
               (g.s2En = true → bytesAt t g.s2Addr d2) ∧ ∀ x, x < g.pAddr ∨ g.s2Addr + d2.length ≤ x → t.byte x = s.byte x) ∧
            (∀ o, s.reel.objects[g.obj]? = some o → g.obj ≠ 0xFFFF →
              let rows := (List.range g.rows).map (fun k => encodeRow g.conv s.jobSeed r.cmd.slate (g.row0 + k) ((p.drop (k * g.cols)).take g.cols))
              let ps := o.pieces g.row0 g.rows
              let d := rows.flatMap (·.1)
              (g.conv.format.sniril = true → (ps.getD 0 (0, 0)).1 + d.length ≤ (ps.getD 1 (0, 0)).1) →
              bytesAt t ((if r.cmd.t % 2 = 0 then o.addr0 else o.addr1) + (ps.getD 0 (0, 0)).1) d) ∧
            (∀ o, s.reel.objects[g.obj]? = some o → g.obj ≠ 0xFFFF → o.nshard ≤ 1 → (s.upd.groups.filter (fun x => decide (x.obj = g.obj))).length ≤ 1 →
              o.verAt (1 - r.cmd.t % 2) + 1 = r.cmd.t → o.verAt (1 - r.cmd.t % 2) ≠ noVer → ∃ q, t.reel.objects[g.obj]? = some q ∧ q.verAt (r.cmd.t % 2) = r.cmd.t) ∧
            (g.mirrorEn = true → (∃ j, s.job = some j ∧ 1 < j.modules) → s.portUp 8 = true → s.upd.mirroring = true →
              ∃ k, let o := Out.mirror k (s.tagOf 8 (s.dataPcp 8)) i (r.cmd.t % 2) p s1 (if g.s2En then s2 else []) r.cmd.t g.bp1 g.bp2
                if s.portHolds 8 || (s.port 8).paused.contains (s.dataPcp 8) then ∃ n, (s.dataPcp 8, n, o) ∈ (t.port 8).held else o ∈ t.out))))) ∧
      (∀ i g, r.work = some (.copy i) → g = s.group i → g.obj ≠ 0xFFFF → s.slotHeld g.obj (r.cmd.t % 2) = false → r.waiting ++ r.ready ≠ [] →
        (s.objAt g.obj).format.sniril = false → (s.objAt g.obj).sparse = 0 → Completes .groupUpdateDone s (fun t =>
          let o := s.objAt g.obj
          let p := (o.pieces g.row0 g.rows).getD 0 (0, 0)
          bytesAt t ((if r.cmd.t % 2 = 0 then o.addr0 else o.addr1) + p.1) (s.bytes ((if (r.cmd.t - 1) % 2 = 0 then o.addr0 else o.addr1) + p.1) p.2))) ∧
      (∀ i, r.work = some (.nothing i) → r.waiting ++ r.ready = [] → r.cut = false → r.cmd.t < 2 ^ 32 → s.upd.queue = [] → Completes .groupUpdateDone s (fun t =>
        t.upd.run = none ∧ (t.reg Reg.UPDT_DONE).toNat = r.cmd.t ∧ (s.upd.snap = none → t.fld Fl.UPDT_STATUS_BUSY = 0)))) ∧
    (∀ c rest, s.upd.queue = c :: rest → c.snap = true → s.upd.snap = none → rest = [] → Completes .snapCommand s (fun t => t.mem = s.mem ∧ t.upd.queue = [] ∧
      if s.upd.groups.any (fun g => decide (c.t < g.step)) then t.upd.snap = none ∧ t.fld Fl.UPDT_STATUS_SNAP_LATE = 1 ∧ s.Told t Ev.snapLate srcUpd 0
      else ∃ x, t.upd.snap = some x ∧ x.cmd = c ∧ x.left = List.range s.upd.groups.length ∧ x.records = [])) ∧
    (∀ x, s.upd.snap = some x → s.upd.run = none →
      (let sent := fun (t : State) (off : Nat) (d : List Byte) => (s.flow x.cmd.flow).state = 1 → ∀ k, k * (s.flow x.cmd.flow).payload < d.length →
         ∃ y ∈ (t.flow x.cmd.flow).tx, y.pkt.key = x.cmd.key ∧ y.pkt.offset = (off + k * (s.flow x.cmd.flow).payload) % 2 ^ 40 ∧
           y.pkt.payload = (d.drop (k * (s.flow x.cmd.flow).payload)).take (s.flow x.cmd.flow).payload
       (x.left = [] → Completes .snapGroupRead s (fun t => t.mem = s.mem ∧ t.upd.snap = none ∧ sent t x.cmd.offset (s.manifest x))) ∧
       (∀ i rest, x.left = i :: rest →
         ((s.group i).step < x.cmd.t → exec .snapGroupRead s = .next s) ∧
         (x.cmd.t < (s.group i).step → Completes .snapGroupRead s (fun t => t.mem = s.mem ∧ t.upd.snap = none ∧ t.fld Fl.UPDT_STATUS_SNAP_LATE = 1 ∧
           s.Told t Ev.snapLate srcUpd 0)) ∧
         ((s.group i).step = x.cmd.t → Completes .snapGroupRead s (fun t => t.mem = s.mem ∧
           match s.snapBytes x.cmd (s.group i) with
           | none => t.upd.snap = none ∧ s.Told t Ev.poisonExport srcUpd 0
           | some d => sent t x.next d ∧ ∃ y, t.upd.snap = some y ∧ y.left = rest ∧ y.records.length = x.records.length + 1 ∧
               y.next = x.next + ceilDiv d.length 192 * 192))))) ∧
    (∀ v : Nat, ∀ c ∈ [(Instr.updtRunWrite mKeeper v, Reg.UPDT_CTRL), (.updtGroupApply mKeeper v, Reg.UPDT_GROUP_CTL)], Completes c.1 s (fun t =>
      s.Told t Ev.csrPrivilege (masterSrc mKeeper) c.2 ∧ t.upd = s.upd ∧ t.mem = s.mem)) ∧
    (∀ m v : Nat, m ≠ mKeeper →
      (s.fld Fl.UPDT_CTRL_RUN = 0 → bitOf v 0 = true → Completes (.updtRunWrite m v) s (fun t => t.upd = s.upd ∧ t.mem = s.mem ∧
        t.fld Fl.UPDT_CTRL_RUN = (if s.scratchOk then 1 else 0) ∧ (s.scratchOk = false → t.fld Fl.UPDT_STATUS_BADBASE = 1))) ∧
      (s.fld Fl.UPDT_CTRL_RUN = 1 → bitOf v 0 = false → Completes (.updtRunWrite m v) s (fun t => t.mem = s.mem ∧ t.fld Fl.UPDT_CTRL_RUN = 0 ∧
        t.upd.queue = [] ∧ t.fld Fl.UPDT_STATUS_QUEUED = 0 ∧ t.upd.groups = s.upd.groups ∧
        ∀ r, t.upd.run = some r → r.cut = true ∧ r.ready = [] ∧ r.waiting = [] ∧ r.work.isSome = true)) ∧
      Completes (.updtGroupApply m v) s (fun t => t.mem = s.mem ∧ t.upd.run = s.upd.run ∧
        (bitOf v 13 = false → t.upd = s.upd) ∧
        (bitOf v 13 = true → ∀ g, s.upd.groups[bitsOf v 11 0]? = some g → t.upd.groups[bitsOf v 11 0]? = some { g with frozen := bitOf v 12 }))) ∧
    (∀ bucket step, s.coll.gradHeld.contains (bucket, step) = true → s.gradHeldFor bucket step = false → Completes (.gradientWriteRelease bucket step) s (fun t =>
      t.coll.gradHeld = s.coll.gradHeld.filter (fun e => decide (e ≠ (bucket, step))) ∧
      (let b := s.bucket bucket
       let o := s.objAt b.dobj
       let d := (List.range b.lpairs).flatMap (fun i => (s.pairWords ((s.objAt b.gobj).addr0 + (b.off + i) * 192)).flatMap (fun w => leBytes 4 w.toNat))
       ∀ r q, s.coll.later = [] → s.bucketRun bucket step = some r → r.sent = [] → r.done = [] → r.complete = false → s.chunkCount b = 1 → (s.rgroup b).members.length = 1 → s.myPos b = some q →
         bytesAt t (o.addr0 + b.off * 192) d ∧ (b.layer, step, bucket) ∈ t.upd.buckets ∧ ∃ x, t.bucketRun bucket step = some x ∧ x.complete = true))) ∧
    (∀ f : Nat,
      (∀ r rest, (s.flow f).reads = r :: rest → (s.readJudge r.pkt).1 = .proceed → Completes (.versionedReadResume true f) s (fun t => (t.flow f).reads = rest ∧ ((s.flow f).loopback = false ∨ s.reel.xfers = [] → t.mem = s.mem))) ∧
      (∀ m, (s.tile f).moveQ.find? (·.held) = some m → (s.objAt m.target.target).judge (s.versionOf (slateStep m.slate)) = .proceed → s.shardChecked m.target.target = false →
        Completes (.versionedReadResume false f) s (fun t => t.mem = s.mem ∧ t.regs = s.regs ∧
          (t.tile f).moveQ = (s.tile f).moveQ.map (fun y => if y = m then { y with held := false } else y))) ∧
      (∀ h rest, (s.flow f).held = h :: rest → s.writeHeld h.pkt = false → (s.keyEntry (keyIndex h.pkt.key)).dest = 0 →
        (let a := (s.keyEntry (keyIndex h.pkt.key)).base + h.pkt.offset
         (∀ k < h.pkt.payload.length, storage (a + k) = true) → Completes (.slotBWriteRelease false f) s (fun t => (t.flow f).held = rest ∧
           ((s.flow f).loopback = false ∨ s.reel.xfers = [] → ∀ x, t.byte x = if a ≤ x ∧ x < a + h.pkt.payload.length ∧ s.isolatedLine x = false then h.pkt.payload.getD (x - a) 0 else s.byte x))))) ∧
    (∀ object : Nat, Completes (.verWriteBack object) s (fun t => t.regs = s.regs ∧
      t.reel.verDue = s.reel.verDue.filter (fun e => decide (e.1 ≠ object)) ∧
      ∀ place, (object, place) ∈ s.reel.verDue →
        let a := s.reg64 Reg.REEL_OT_BASE_LO + 64 * object + 40 + 4 * place
        (∀ k < 4, storage (a + k) = true ∧ s.isolatedLine (a + k) = false) → t.le a 4 = (if place = 0 then (s.objAt object).ver0 else (s.objAt object).ver1) % 2 ^ 32))

/-! The Reel. -/

/-- The Reel: RUN takes hold where the bases are good and its end forgets every transfer; the tables are copied and the entries of START 0xFFFF arm; a transfer places its lines with their poison; a deadline missed
takes the entry's fallback (R274, R282, R287 to R292, R294, R300 to R303, R582). -/
def Obligations.ReelTransfersArePlaced : Prop :=
  ∀ s : State, s.Inv →
    (∀ v : Nat, Completes (.reelRunWrite mKeeper v) s (fun t => s.Told t Ev.csrPrivilege (masterSrc mKeeper) Reg.REEL_CTRL ∧ t.reel = s.reel ∧ t.mem = s.mem)) ∧
    (∀ m v : Nat, m ≠ mKeeper →
      (s.fld Fl.REEL_CTRL_RUN = 0 → bitOf v 0 = true → Completes (.reelRunWrite m v) s (fun t => t.mem = s.mem ∧ t.tiles = s.tiles ∧
        if s.reelBasesOk then t.fld Fl.REEL_CTRL_RUN = 1 ∧ t.reel.copying = true ∧ t.reel.ready = false ∧ t.reel.xfers = []
        else t.fld Fl.REEL_CTRL_RUN = 0 ∧ t.fld Fl.REEL_STATUS_BADBASE = 1 ∧ t.reel = s.reel)) ∧
      (s.fld Fl.REEL_CTRL_RUN = 1 → bitOf v 0 = false → Completes (.reelRunWrite m v) s (fun t => t.fld Fl.REEL_CTRL_RUN = 0 ∧ t.fld Fl.REEL_STATUS_BUSY = 0 ∧
        t.reel.xfers = [] ∧ t.reel.ready = false ∧ t.tiles = s.tiles ∧ t.out = s.out))) ∧
    (let os := (List.range (s.fld Fl.REEL_OT_COUNT_COUNT)).map (fun i => Obj.decode (s.bytes (s.reg64 Reg.REEL_OT_BASE_LO + 64 * i) 64))
     let es := (List.range (s.fld Fl.REEL_TAB_COUNT_COUNT)).map (fun i => ReelEntry.decode (s.bytes (s.reg64 Reg.REEL_TAB_BASE_LO + 32 * i) 32))
     s.reel.copying = true → s.reel.xfers = [] → (∀ o ∈ os, o.judge (s.versionOf 0) ≠ .retired) → (∀ e ∈ es, e.obj < os.length) → Completes .reelTableCopyDone s (fun t =>
       t.reel.copying = false ∧ t.reel.ready = true ∧ t.reel.objects = os ∧ t.reel.entries = es ∧ t.mem = s.mem ∧ t.tiles = s.tiles ∧ t.out = s.out ∧
       ∀ (k : Nat) (e : ReelEntry), es[k]? = some e → e.start = 0xFFFF → e.alt = false → ∀ i ≤ e.ntm1,
         (⟨k, e.tile0 + i, 0, e.mbAdv % 4096, .queued, none, false⟩ : Xfer) ∈ t.reel.xfers)) ∧
    (∀ (entry tile : Nat) (x : Xfer), s.xfer entry tile = some x → s.reel.ready = true → x.st = .queued → s.inFlight x = true →
      s.shardChecked (s.entry entry).obj = false → (∀ n < 180, (s.tile n).locks = []) →
      let n := (s.entry entry).lines + 1
      let src := (s.xferSrc x).2
      let dst := s.xferDst x
      baseT1 ≤ src → src + n * 96 ≤ dst ∨ dst + n * 96 ≤ src → (∀ k < n * 96, storage (dst + k) = true) →
      Completes (.reelEntryPlaced entry tile) s (fun t =>
        (∃ y, t.xfer entry tile = some y ∧ y.st = .placed ∧ y.step = x.step ∧ y.mb = x.mb) ∧ t.out = s.out ∧
        (∀ a, t.byte a = if dst ≤ a ∧ a < dst + n * 96 ∧ s.isolatedLine a = false then s.byte (src + (a - dst)) else s.byte a) ∧
        ((physAt dst).isSome = true → (dst - regionBase dst) % 96 = 0 → ∀ i < n, t.poisoned (dst + i * 96) = s.poisoned (src + i * 96)) ∧
        (inT1 dst = true → onPair dst = true → n % 2 = 0 → (∀ i < n, s.poisoned (src + i * 96) = false) →
          ∀ i < n, s.isolatedLine (dst + i * 96) = false → t.poisoned (dst + i * 96) = false))) ∧
    (∀ (entry tile : Nat),
      let e := s.entry entry
      let x := s.xfer entry tile
      let slate := s.slate tile
      let occ := (x.map (fun y => (y.step, y.mb))).getD (slateStep slate, slateMb slate)
      s.atCue tile = some e.cue → (entry, e) ∈ s.applying tile e.cue → e.fallback < 4 → (∀ y, x = some y → y.st = .queued ∧ y.missed = false) →
      Completes (.reelDeadlineMiss entry tile) s (fun t => t.tiles = s.tiles ∧ t.out = s.out ∧
        t.reg64 (Reg.REEL_COUNT_LO (2 + e.fallback)) = min (s.reg64 (Reg.REEL_COUNT_LO (2 + e.fallback)) + 1) (2 ^ 48 - 1) ∧
        (e.fallback = 0 → t.mem = s.mem ∧ t.xfer entry tile = x.map (fun y => { y with missed := true })) ∧
        (e.fallback ≠ 0 → t.xfer entry tile = some ⟨entry, tile, occ.1, occ.2, if e.fallback = 2 then .lower else .missed, some (s.cueSeq tile), true⟩) ∧
        (e.fallback = 2 → (⟨entry + 1, tile, occ.1, occ.2, .queued, some (s.cueSeq tile), false⟩ : Xfer) ∈ t.reel.xfers) ∧
        (2 ≤ e.fallback → t.fld Fl.REEL_STATUS_INEXACT = 1 ∧ t.fld Fl.COLL_STATUS_INEXACT = 1)))

/-! The units of a tile. -/

/-- What the last of some unit writes that reaches a byte of a scratchpad puts there, and memory after them. -/
def lastWrite (ws : List Wr) (x : Nat) : Option Byte :=
  ws.foldl (fun a w => if w.off ≤ x ∧ x < w.off + w.bytes.length then some (w.bytes.getD (x - w.off) 0) else a) none
def wrote (s t : State) (tile : Nat) (ws : List Wr) : Prop :=
  (s.tile tile).locks = [] → (∀ w ∈ ws, ∀ k < w.bytes.length, storage (s.tileBase tile + w.off + k) = true) →
    ∀ a, t.byte a = if s.tileBase tile ≤ a then (lastWrite ws (a - s.tileBase tile)).getD (s.byte a) else s.byte a

/-- The oldest run of an array still has a pass to write. -/
def goesOn (l : List ArrRun) : Prop := ∀ h ∈ l.head?, h.started = true → h.drained < h.total

/-- The array: a descriptor is taken up or rejected, starts, is pre-passed and passed over; drained, its rows are written once; a split group combines its partials level by level, and one that never comes fails the
descriptor. One that its pre-pass fails leaves as the oldest, once its earlier passes are written; each wait for anchors, the drain buffer or an earlier descriptor's destination is counted
(R100 to R103, R110 to R125, R137, R145, R151 to R154, R160, R161, R165, R633). -/
def Obligations.ArrayDescriptorsRun : Prop :=
  ∀ s : State, s.Inv → ∀ tile < 180,
    let x := s.tile tile
    let v := s.tmem tile
    let stalls := fun (t : State) => t.mem = s.mem ∧ t.tiles = s.tiles ∧ t.reg64 (Reg.TILE_ARR_STALL_LO tile) = min (s.reg64 (Reg.TILE_ARR_STALL_LO tile) + 1) (2 ^ 48 - 1)
    (∀ q rest, x.arrayQ = q :: rest → (∀ r ∈ x.arr, r.started = true ∧ r.total ≤ r.prepassed) →
      let d := ADesc.decode q.bytes
      let dir := Store.get (fun _ => ListDir.none) x.dir d.list
      let r : ArrRun := ⟨q, if d.xlist then min d.m dir.length else d.m, if d.xlist then listTokens v dir (min d.m dir.length) else [], false, [], false, [], 0, 0, 0, [], [], none, false, false⟩
      (d.xlist = true → x.buildBefore q.ord d.list = true → Completes (.arrayDescriptor tile) s (fun t => t.tiles = s.tiles ∧ t.mem = s.mem ∧
        t.reg64 (Reg.TILE_DSP_STALL_LO tile) = min (s.reg64 (Reg.TILE_DSP_STALL_LO tile) + 1) (2 ^ 48 - 1))) ∧
      (d.xlist = false ∨ x.buildBefore q.ord d.list = false ∧ dir.length ≠ 0 →
        (r.desc.reject tile r.xSpan = true → Completes (.arrayDescriptor tile) s (fun t => t.fld (Fl.TILE_ARR_STATUS_REJECT tile) = 1 ∧ (t.tile tile).arr = x.arr ∧ s.Keeps t ∧
          s.Told t Ev.descriptorInvalid (srcTile tile) 0)) ∧
        (r.desc.reject tile r.xSpan = false → Completes (.arrayDescriptor tile) s (fun t => t.mem = s.mem ∧ t.out = s.out ∧
          t.fld (Fl.TILE_ARR_STATUS_KIND tile) = d.kindCode ∧ t.fld (Fl.TILE_ARR_STATUS_BUSY tile) = 1 ∧ (t.tile tile).arrayQ = rest ∧
          (x.arr.any (fun e => spansMeet r.spans e.desc.writeSpans) = true → t.reg64 (Reg.TILE_ARR_STALL_LO tile) = min (s.reg64 (Reg.TILE_ARR_STALL_LO tile) + 1) (2 ^ 48 - 1)) ∧
          (t.tile tile).arr = x.arr ++ [{ r with waiting := x.arr.any (fun e => spansMeet r.spans e.desc.writeSpans) }])))) ∧
    (∀ i r, x.arr.findIdx? (·.waiting) = some i → x.arr[i]? = some r →
      if (x.arr.take i).any (fun e => spansMeet r.spans e.desc.writeSpans) then Completes (.arrayPrepassStart tile) s stalls
      else Completes (.arrayPrepassStart tile) s (fun t => t.regs = s.regs ∧ t.mem = s.mem ∧ (t.tile tile).arr = modAt x.arr i (fun r => { r with waiting := false }))) ∧
    (∀ i r0, x.arr.findIdx? (fun r => !r.started || decide (r.prepassed < r.total)) = some i → x.arr[i]? = some r0 → r0.waiting = false → r0.ready.length < 2 →
      let d := r0.desc
      let r := { r0 with rows := if r0.started then r0.rows else d.rowsOf v, started := true }
      let ps := d.passAt r.rows r.prepassed
      let becomes := fun (y : ArrRun) (p : State → Prop) => goesOn (modAt x.arr i (fun _ => y)) →
        Completes (.arrayPrepassDone tile) s (fun t => p t ∧ t.mem = s.mem ∧ t.out = s.out ∧ (t.tile tile).arr = modAt x.arr i (fun _ => y))
      let alone := x.arr = [r0] ∧ r.prepassed ≤ r.drained ∧ r.skipped = []
      let zeroed := fun (t : State) => wrote s t tile (if d.member = 0 ∨ d.gsize = 0 then d.zeroRows r.rows ++ d.preTail else [])
      match d.maskPoison v ps (decide (r.total ≤ (ps.range + 1) * d.colPasses)) with
      | some l => becomes { r with bad := some (.mask l) } (fun _ => True) ∧
          (alone → Completes (.arrayPrepassDone tile) s (fun t => (t.tile tile).arr = [] ∧ s.Keeps t ∧ s.Told t Ev.maskPoison (srcTile tile) l))
      | none => (r.total = 0 → becomes r (fun _ => True) ∧ (alone → Completes (.arrayPrepassDone tile) s (fun t => (t.tile tile).arr = [] ∧ zeroed t))) ∧
          (r.total ≠ 0 → d.blockWord v ps.no = 0 →
            becomes { r with prepassed := r.prepassed + 1, streamed := r.streamed + 1, drained := r.drained + 1, skipped := r.skipped ++ [ps.no] } (fun t => t.regs = s.regs)) ∧
          (r.total ≠ 0 → d.blockWord v ps.no ≠ 0 → d.metaBad v ps = true →
            becomes { r with bad := some .metadata } (fun t => t.fld (Fl.TILE_ARR_STATUS_METADATA tile) = 1) ∧
            (alone → Completes (.arrayPrepassDone tile) s (fun t => (t.tile tile).arr = [] ∧ s.Keeps t ∧
              t.fld (Fl.TILE_ARR_STATUS_METADATA tile) = 1 ∧ s.Told t Ev.sparseMetadata (srcTile tile) 0))) ∧
          (r.total ≠ 0 → d.blockWord v ps.no ≠ 0 → d.metaBad v ps = false →
            becomes { r with prepassed := r.prepassed + 1, ready := r.ready ++ [d.prepass v r.xrow ps] } (fun t => t.regs = s.regs))) ∧
    (∀ i r, x.arr.findIdx? (fun r => !r.started || decide (r.streamed < r.total)) = some i → x.arr[i]? = some r → r.ready = [] ∨ x.drain.isSome = true →
      Completes (.arrayPassDone tile) s stalls) ∧
    (∀ i r pre more, x.arr.findIdx? (fun r => !r.started || decide (r.streamed < r.total)) = some i → x.arr[i]? = some r → r.ready = pre :: more → x.drain = none →
      Completes (.arrayPassDone tile) s (fun t =>
        let c := r.desc.passCells v r.xrow (r.desc.passAt r.rows pre.pass) pre
        (t.tile tile).drain = some ⟨pre.pass, c.1, 0⟩ ∧ (t.tile tile).arr = modAt x.arr i (fun r => { r with streamed := r.streamed + 1, ready := more }) ∧
        (c.2.1 ≠ 0 → t.fld (Fl.TILE_LA_STATUS_TRUNC tile) = 1) ∧ (c.2.2 ≠ 0 → t.fld (Fl.TILE_LA_STATUS_VANISH tile) = 1) ∧ t.mem = s.mem ∧ t.out = s.out)) ∧
    (∀ r rest b, x.arr = r :: rest → x.drain = some b → x.waitsLevel = none → r.desc.gsize = 0 ∨ r.desc.member = 0 →
      r.desc.os.rbEn = false → s.fld Fl.TELE_FMTH_CTRL_ENABLE = 0 → r.drained + 1 < r.total → Completes (.outputStageDrained tile) s (fun t =>
        let ps := r.desc.passAt r.rows b.pass
        let o := r.desc.drain v (fun c row col => srOf s.jobSeed r.q.slate c row col) ps b.cells (if r.before ps then r.bounds else [])
        (t.tile tile).drain = none ∧ (t.tile tile).arr = { r with drained := r.drained + 1, bounds := o.bounds } :: rest ∧ wrote s t tile o.writes ∧
        (o.ovf = true → t.fld (Fl.TILE_LA_STATUS_OVF tile) = 1) ∧ (o.nar = true → t.fld (Fl.TILE_LA_STATUS_NAR tile) = 1) ∧ t.out = s.out)) ∧
    (∀ r rest b l, x.arr = r :: rest → x.drain = some b → x.waitsLevel = some l →
      (∀ c, s.partialReady r b l = true → (s.tile (r.sender l)).drain = some c → Completes (.splitPartialReceive tile) s (fun t =>
        (t.tile tile).drain = some { b with cells := b.cells.zipIdx.map (fun p => (c.cells[p.2]?).elim p.1 p.1.combine), level := l + 1 } ∧ (t.tile (r.sender l)).drain = none)) ∧
      (s.partialReady r b l = false → goesOn rest → Completes (.splitStall tile) s (fun t => (t.tile tile).arr = rest ∧ (t.tile tile).drain = none ∧ s.Keeps t ∧
        s.Told t Ev.splitStall (srcTile tile) (r.desc.member + 2 ^ l + r.sender l * 16))))

/-- The vector chain and the dispatch unit: a descriptor is taken up, started, passed vector by vector and completed, or rejected or failed on the cause the rules name; BUILD waits for the readers of its lists, then writes its lists, directory
and counts, SEAL and EXPAND their lines; what a list-driven send that waited for them then does is told of where no send waits (R170 to R194, R201 to R213, R221 to R225, R633). -/
def Obligations.ChainAndDispatchRun : Prop :=
  ∀ s : State, s.Inv → ∀ tile < 180,
    let x := s.tile tile
    let v := s.tmem tile
    let counts := fun (lo n : Nat) (t : State) => t.reg64 lo = min (s.reg64 lo + n) (2 ^ 48 - 1)
    (∀ q rest, x.chainQ = q :: rest → (∀ r ∈ x.chn, r.passed = true) →
      let d := CDesc.decode q.bytes
      (d.reject = true → Completes (.chainDescriptor tile) s (fun t => t.fld (Fl.TILE_CHN_STATUS_REJECT tile) = 1 ∧ (t.tile tile).chn = x.chn ∧ s.Keeps t ∧
        s.Told t Ev.descriptorInvalid (srcTile tile) 0)) ∧
      (d.reject = false → Completes (.chainDescriptor tile) s (fun t => t.fld (Fl.TILE_CHN_STATUS_BUSY tile) = 1 ∧ (t.tile tile).chainQ = rest ∧ t.mem = s.mem ∧ t.out = s.out ∧
        (t.tile tile).chn = x.chn ++ [⟨q, x.chn.any (fun e => spansMeet (d.readSpans ++ d.writeSpans) e.desc.writeSpans), 0, CRow.empty, false⟩]))) ∧
    (∀ i r, x.chn.findIdx? (·.waiting) = some i → x.chn[i]? = some r → Completes (.chainInterlockStart tile) s (fun t => t.regs = s.regs ∧ t.mem = s.mem ∧
      (t.tile tile).chn = if (x.chn.take i).any (fun e => spansMeet (r.desc.readSpans ++ r.desc.writeSpans) e.desc.writeSpans) then x.chn
        else modAt x.chn i (fun r => { r with waiting := false }))) ∧
    (∀ i r, x.chn.findIdx? (fun r => !r.passed) = some i → x.chn[i]? = some r → r.waiting = false →
      let d := r.desc
      let row := r.next / d.perRow
      let u := r.next % d.perRow
      let o := d.vector v (fun c a b => srOf s.jobSeed r.q.slate c a b) r.row row u
      match (if d.maskStream then d.maskPoison v row u else none), (if d.trap then o.trapCol else none) with
      | some l, _ => Completes (.chainVector tile) s (fun t => (t.tile tile).chn = x.chn.eraseIdx i ∧ s.Keeps t ∧ s.Told t Ev.maskPoison (srcTile tile) l)
      | none, some c => Completes (.chainVector tile) s (fun t => (t.tile tile).chn = x.chn.eraseIdx i ∧ s.Keeps t ∧ t.fld (Fl.TILE_CHN_STATUS_TRAPPED tile) = 1 ∧
          s.Told t Ev.chainInvalid (srcTile tile) (row + c * 2 ^ 24))
      | none, none => s.fld Fl.TELE_FMTH_CTRL_ENABLE = 0 → Completes (.chainVector tile) s (fun t =>
          (t.tile tile).chn = modAt x.chn i (fun r => { r with next := r.next + 1, row := o.row }) ∧ wrote s t tile o.writes ∧ counts (Reg.TILE_CHN_VEC_LO tile) 1 t ∧
          (o.flags.invalid = true → t.fld (Fl.TILE_CHN_STATUS_INVALID tile) = 1) ∧ (o.flags.divzero = true → t.fld (Fl.TILE_CHN_STATUS_DIVZERO tile) = 1) ∧
          (o.flags.overflow = true → t.fld (Fl.TILE_CHN_STATUS_OVERFLOW tile) = 1) ∧ (o.flags.nanIn = true → t.fld (Fl.TILE_CHN_STATUS_NAN_IN tile) = 1))) ∧
    (∀ r rest, x.chn = r :: rest → r.passed = true → Completes (.chainDescriptorComplete tile) s (fun t => (t.tile tile).chn = rest ∧ t.mem = s.mem ∧
      t.fld (Fl.TILE_CHN_STATUS_BUSY tile) = (if rest.isEmpty then 0 else 1))) ∧
    (∀ q rest, x.dispQ = q :: rest →
      let d := DDesc.decode q.bytes
      let ok := d.reject v (s.skipTable tile) = false
      (∀ c ∈ [((.build : Nat → Instr), 0), (.seal, 1), (.expand, 2)], d.op = c.2 → x.readsLists q.ord d.nplace = false → d.reject v (s.skipTable tile) = true →
        Completes (c.1 tile) s (fun t => t.fld (Fl.TILE_DSP_STATUS_REJECT tile) = 1 ∧ s.Keeps t ∧ s.Told t Ev.descriptorInvalid (srcTile tile) 0)) ∧
      (d.op = 0 → x.readsLists q.ord d.nplace = true → Completes (.build tile) s (fun t => t.fld (Fl.TILE_DSP_STATUS_BUSY tile) = 1 ∧ counts (Reg.TILE_DSP_STALL_LO tile) 1 t ∧
        t.tiles = s.tiles ∧ t.mem = s.mem)) ∧
      (d.op = 0 → x.readsLists q.ord d.nplace = false → ok →
        match d.maskPoison v with
        | some l => Completes (.build tile) s (fun t => s.Keeps t ∧ s.Told t Ev.maskPoison (srcTile tile) l)
        | none => Completes (.build tile) s (fun t =>
            let b := d.build v
            (x.sendQ = [] → (t.tile tile).dispQ = rest ∧ wrote s t tile (d.buildWrites v b) ∧ t.fld (Fl.TILE_DSP_STATUS_BUSY tile) = 0) ∧
            (Store.wf (fun _ => ListDir.none) x.dir = true → ∀ i e, (d.buildDir v b)[i]? = some e → Store.get (fun _ => ListDir.none) (t.tile tile).dir i = e) ∧
            counts (Reg.TILE_DSP_ROUTED_LO tile) b.routed t ∧ counts (Reg.TILE_DSP_DROPPED_LO tile) b.dropped t ∧ counts (Reg.TILE_DSP_BADCHOICE_LO tile) b.bad t ∧
            counts (Reg.TILE_DSP_SKIPTOK_LO tile) b.skipTok t ∧ (b.firstBad.isSome = true → t.fld (Fl.TILE_DSP_STATUS_BADCHOICE tile) = 1) ∧
            (d.dropEvent = true → b.dropped ≠ 0 → t.fld (Fl.TILE_DSP_STATUS_OVERFLOW tile) = 1))) ∧
      (d.op = 1 → ok →
        (d.sealBad v = true → Completes (.seal tile) s (fun t => s.Keeps t ∧ s.Told t Ev.descriptorInvalid (srcTile tile) 0)) ∧
        (d.sealBad v = false → Completes (.seal tile) s (fun t => x.sendQ = [] → (t.tile tile).dispQ = rest ∧ wrote s t tile (d.sealWrites v)))) ∧
      (d.op = 2 → ok → Completes (.expand tile) s (fun t => x.sendQ = [] → (t.tile tile).dispQ = rest ∧ wrote s t tile (d.expandWrites v (s.skipTable tile)))))

/-! The sequencer of a tile. -/

/-- The micro-op at the program counter of a tile that issues. -/
def atUop (s : State) (n cls op w : Nat) : Prop := s.issues n = true ∧ s.uop n = w ∧ uopLegal w = true ∧ uopCls w = cls ∧ uopOp w = op

/-- The tile has gone on after the micro-op, as from tile contents y, with the back-branch of a loop that ends there; it has waited; it is at fault (R231, R237, R240). -/
def counted (s t : State) (lo : Nat) : Prop := t.reg64 lo = min (s.reg64 lo + 1) (2 ^ 48 - 1)
def wentOn (s t : State) (n : Nat) (y : Tile) : Prop :=
  t.pc n = (y.stepPc (s.pc n)).2 % 8192 ∧ (t.tile n).loops = (y.stepPc (s.pc n)).1.loops ∧ (t.tile n).ix = (y.stepPc (s.pc n)).1.ix ∧
    t.fld (Fl.TILE_SEQ_STATUS_STATE n) = seqIssuing ∧ (t.tile n).wait = .none ∧ (t.tile n).issued = (s.tile n).issued + 1 ∧ counted s t (Reg.TILE_SEQ_ISSUE_LO n) ∧
    t.mem = s.mem ∧ ∀ k, k ≠ n → t.tile k = s.tile k
def hasWaited (s t : State) (n : Nat) : Prop :=
  t.pc n = s.pc n ∧ t.fld (Fl.TILE_SEQ_STATUS_STATE n) = seqWaiting ∧ (t.tile n).waited = (s.tile n).waited + 1 ∧ counted s t (Reg.TILE_SEQ_WAIT_LO n) ∧ t.mem = s.mem ∧
    ∀ k, k ≠ n → t.tile k = s.tile k
def hasFaulted (s t : State) (n : Nat) : Prop :=
  t.fld (Fl.TILE_SEQ_STATUS_STATE n) = seqFault ∧ t.fld (Fl.TILE_SEQ_STATUS_FAULT n) = 1 ∧ t.fld (Fl.TILE_SEQ_PC_FAULT_PC n) = s.pc n ∧ s.Keeps t ∧
    s.Told t Ev.seqFault (srcTile n) 0

/-- Control micro-ops: an illegal code is a fault; descriptors are copied into their units' queues; index registers, loops, skips, counters and the Slate move as their micro-ops say, and what cannot issue waits
(R218, R219, R231 to R238, R240, R245, R246). -/
def Obligations.TilesRunTheirPrograms : Prop :=
  ∀ s : State, s.Inv → ∀ n < 180,
    let x := s.tile n
    let pc := s.pc n
    let slate := s.slate n
    let v := s.tmem n
    (s.issues n = true → uopLegal (s.uop n) = false → Completes (.nop n) s (hasFaulted s · n)) ∧
    (∀ c ∈ [((.matmul : Nat → Instr), 1, 192, 4, 2), (.chain, 2, 192, 4, 2), (.dispatch, 3, 96, 2, 1)], ∀ w, atUop s n c.2.1 0 w →
      let line := x.effLine w
      let q := fun (y : Tile) => if c.2.1 = 1 then y.arrayQ else if c.2.1 = 2 then y.chainQ else y.dispQ
      (32767 < line ∨ line % c.2.2.2.2 ≠ 0 → Completes (c.1 n) s (hasFaulted s · n)) ∧
      (line ≤ 32767 → line % c.2.2.2.2 = 0 →
        (c.2.2.2.1 ≤ (q x).length → Completes (c.1 n) s (fun t => hasWaited s t n ∧ q (t.tile n) = q x)) ∧
        ((q x).length < c.2.2.2.1 → Completes (c.1 n) s (fun t => wentOn s t n x ∧
          q (t.tile n) = q x ++ [⟨s.bytes (s.tileBase n + line * 96) c.2.2.1, slate, pc, line, x.issued⟩])))) ∧
    (∀ w, atUop s n 0 0 w → Completes (.nop n) s (wentOn s · n x)) ∧
    (∀ w, atUop s n 0 1 w → Completes (.endProgram n) s (fun t => t.fld (Fl.TILE_SEQ_STATUS_STATE n) = seqEnded ∧ (t.tile n).loops = [] ∧ counted s t (Reg.TILE_SEQ_ISSUE_LO n) ∧ t.mem = s.mem)) ∧
    (∀ w, atUop s n 0 2 w →
      (x.fenced (bitsOf w 4 0) = true → Completes (.fence n) s (wentOn s · n x)) ∧ (x.fenced (bitsOf w 4 0) = false → Completes (.fence n) s (hasWaited s · n))) ∧
    (∀ w, atUop s n 0 3 w → Completes (.setix n) s (wentOn s · n
      (x.setIx (bitsOf w 3 0) (if bitOf w 4 then x.ixOf (bitsOf w 3 0) + bitsOf w 31 8 else bitsOf w 31 8)))) ∧
    (∀ c ∈ [((.loopCount : Nat → Instr), 0), (.loopIx, 1)], ∀ w, atUop s n 8 c.2 w →
      let last := pc + bitsOf w 12 0
      let count := if c.2 = 0 then bitsOf w 39 17 else x.ixOf (uopIx w)
      let error := 8191 < last ∨ 4 ≤ x.loops.length ∨ ∃ l ∈ x.loops, l.last ≤ last
      (error → Completes (c.1 n) s (hasFaulted s · n)) ∧
      (¬error → 0 < bitsOf w 12 0 →
        (c.2 = 1 ∧ count = 0 → Completes (c.1 n) s (fun t => t.pc n = (last + 1) % 8192 ∧ counted s t (Reg.TILE_SEQ_ISSUE_LO n) ∧ t.mem = s.mem)) ∧
        (c.2 = 0 ∨ count ≠ 0 → Completes (c.1 n) s (fun t => t.pc n = (pc + 1) % 8192 ∧ counted s t (Reg.TILE_SEQ_ISSUE_LO n) ∧ t.mem = s.mem ∧
          (t.tile n).loops = ⟨pc + 1, last, count, bitsOf w 16 13, 0⟩ :: popLeft (pc + 1) x.loops ∧ (t.tile n).ix = (x.setIx (bitsOf w 16 13) 0).ix)))) ∧
    (∀ w, atUop s n 9 0 w →
      let line := s.skipLineOf n
      let slot := s.skipSlot n
      let layer := bitsOf w 9 0
      (v.le (line * 96) 8 / 2 ^ 20 ≠ slate / 2 ^ 20 → Completes (.skipTest n) s (fun t => t.fld (Fl.TILE_DSP_STATUS_STALE n) = 1 ∧ s.Keeps t ∧
        s.Told t Ev.skipMapStale (srcTile n) 0)) ∧
      (v.le (line * 96) 8 / 2 ^ 20 = slate / 2 ^ 20 →
        (bitOf (v.le (line * 96 + 64 + layer / 8) 1) (layer % 8) = true → Completes (.skipTest n) s (fun t => slot ∈ (t.tile n).locks ∧ t.mem = s.mem ∧
          t.pc n = (pc + bitsOf w 22 10) % 8192 ∧ (t.tile n).loops = popLeft (pc + bitsOf w 22 10) x.loops ∧ counted s t (Reg.TILE_SEQ_ISSUE_LO n))) ∧
        (bitOf (v.le (line * 96 + 64 + layer / 8) 1) (layer % 8) = false → Completes (.skipTest n) s (fun t => slot ∈ (t.tile n).locks ∧ wentOn s t n x)))) ∧
    (∀ w, atUop s n 9 1 w → Completes (.skipRelease n) s (fun t => wentOn s t n x ∧
      (t.tile n).locks = x.locks.filter (fun m => decide (m ≠ s.skipSlot n)) ∧ (t.tile n).shardLog = x.shardLog.filter (fun e => decide (e.slot ≠ s.skipSlot n)))) ∧
    (∀ c ∈ [((.recv : Nat → Instr), 5, 3, 0), (.wait, 6, 1, 8)], ∀ w, atUop s n c.2.1 c.2.2.1 w →
      let e := c.2.2.2 + bitsOf w 2 0
      (s.ec n e < bitsOf w 18 3 → Completes (c.1 n) s (hasWaited s · n)) ∧
      (bitsOf w 18 3 ≤ s.ec n e → Completes (c.1 n) s (fun t => wentOn s t n x ∧ t.ec n e = s.ec n e - bitsOf w 18 3 ∧ (∀ k < 16, k ≠ e → t.ec n k = s.ec n k) ∧
        (c.2.1 = 5 → (t.tile n).take = x.take.map (fun r => { r with recv := modAt r.recv e (· + bitsOf w 18 3) }))))) ∧
    (∀ w, atUop s n 6 0 w → Completes (.signal n) s (fun t => wentOn s t n x ∧ (t.tile n).signals = x.signals ++
      [⟨bitsOf w 7 0, bitsOf w 10 8, bitsOf w 26 11, slate, (x.moveQ.filter (·.toward n (bitsOf w 7 0))).length, x.issued⟩])) ∧
    (∀ y rest, takeSignal x.signals = some (y, rest) → y.tile < 180 → y.ctr < 8 → Completes (.signalDeliver n) s (fun t =>
      (t.tile n).signals = rest ∧ t.ec y.tile (8 + y.ctr) = min (s.ec y.tile (8 + y.ctr) + y.inc) 65535 ∧ t.mem = s.mem ∧
      (65535 < s.ec y.tile (8 + y.ctr) + y.inc → t.fld (Fl.TILE_SEQ_STATUS_SATURATED y.tile) = 1 ∧ s.Told t Ev.seqCounterSaturated (srcTile y.tile) 0))) ∧
    (∀ w, atUop s n 10 0 w →
      let mode := bitsOf w 1 0
      let step := if mode = 1 then (s.reg Reg.COLL_STEP).toNat else if mode = 2 then slateStep slate + 1 else slateStep slate
      (x.take.isSome = true → mode ≠ 0 ∨ bitOf w 15 = true → Completes (.slateSet n) s (hasFaulted s · n)) ∧
      (x.take = none ∨ mode = 0 ∧ bitOf w 15 = false → mode = 0 ∨ step < 2 ^ 32 - 1 → Completes (.slateSet n) s (fun t => wentOn s t n x ∧
        t.slate n = mkSlate step (if bitOf w 15 then (if bitOf w 14 then x.ixOf (uopIx w) % 4096 else bitsOf w 13 2) else slateMb slate) (slateTake slate)
          (if bitOf w 16 then bitsOf w 20 17 else slatePhase slate) (if bitOf w 21 then bitsOf w 29 22 else slateStage slate))) ∧
      (x.take = none → mode ≠ 0 → 2 ^ 32 - 1 ≤ step → Completes (.slateSet n) s (fun t => slateStep (t.slate n) = 2 ^ 32 - 1 ∧ s.Told t Ev.stepLimit (srcTile n) 0))) ∧
    (∀ m value : Nat,
      (m = mKeeper → (∀ i < 8, Completes (.tileSeqEcWrite m n i value) s (fun t => s.Told t Ev.csrPrivilege (masterSrc m) (Reg.TILE_SEQ_EC n i) ∧ t.tiles = s.tiles ∧ t.mem = s.mem)) ∧
        Completes (.tileRunWrite m n value) s (fun t => s.Told t Ev.csrPrivilege (masterSrc m) (Reg.TILE_SEQ_CTRL n) ∧ t.tiles = s.tiles ∧ t.mem = s.mem)) ∧ (m ≠ mKeeper →
      (s.fld (Fl.TILE_SEQ_CTRL_RUN n) = 0 → bitOf value 0 = true →
        (s.power (s.physOf n) = .on → Completes (.tileRunWrite m n value) s (fun t => t.pc n = 0 ∧ t.slate n = 0 ∧ (∀ k < 16, t.ec n k = 0) ∧ t.mem = s.mem ∧
          (t.tile n).ix = List.replicate 16 0 ∧ (t.tile n).loops = [] ∧ (t.tile n).take = none ∧ t.fld (Fl.TILE_SEQ_CTRL_RUN n) = 1 ∧
          t.fld (Fl.TILE_SEQ_STATUS_STATE n) = seqIssuing)) ∧
        (s.power (s.physOf n) ≠ .on → Completes (.tileRunWrite m n value) s (fun t => (t.tile n).wakeRun = true ∧ t.power (s.physOf n) = .waking ∧
          t.fld (Fl.TILE_SEQ_CTRL_RUN n) = 1))) ∧
      (s.fld (Fl.TILE_SEQ_CTRL_RUN n) = 1 → bitOf value 0 = false → Completes (.tileRunWrite m n value) s (fun t => t.mem = s.mem ∧ t.fld (Fl.TILE_SEQ_CTRL_RUN n) = 0 ∧
        (t.tile n).arrayQ = [] ∧ (t.tile n).chainQ = [] ∧ (t.tile n).dispQ = [] ∧ (t.tile n).moveQ = [] ∧ (t.tile n).sendQ = [] ∧ (t.tile n).signals = [] ∧
        t.fld (Fl.TILE_SEQ_STATUS_STATE n) = (if s.fld (Fl.TILE_SEQ_STATUS_STATE n) = seqFault then seqFault else seqIdle))) ∧
      (∀ i < 8, Completes (.tileSeqEcWrite m n i value) s (fun t => t.ec n (2 * i) = value % 65536 ∧ t.ec n (2 * i + 1) = value / 65536 % 65536 ∧ t.mem = s.mem ∧
        (4 ≤ i → ∀ r, x.take = some r → r.ec.length = 8 → ∃ q, (t.tile n).take = some q ∧ q.ec.getD (2 * i - 8) 0 = value % 65536 ∧
          q.ec.getD (2 * i - 7) 0 = value / 65536 % 65536)))))

/-- Moves, sends and cues: what they name is judged, a full queue waits, a move copies its lines, a send reaches its flow's packets, a CUE waits for its entries and goes past them (R212, R231, R239, R240, R242 to R244,
R275, R282, R286 to R293, R427). -/
def Obligations.TilesMoveAndSend : Prop :=
  ∀ s : State, s.Inv → ∀ n < 180,
    let x := s.tile n
    let slate := s.slate n
    let pc := s.pc n
    let queued := fun (c : Nat → Instr) (m : Move) =>
      (8 ≤ x.moveQ.length → Completes (c n) s (hasWaited s · n)) ∧
      (x.moveQ.length < 8 → Completes (c n) s (fun t => wentOn s t n x ∧ (t.tile n).moveQ = x.moveQ ++ [m]))
    let move := fun (kind : MoveKind) (w remote list : Nat) (e : Target16) => (⟨kind, x.effLine w, uopCount w, remote, e, list, slate, pc, false, x.issued⟩ : Move)
    (∀ w, atUop s n 4 0 w →
      let dst := (uopRef w * 4 + x.walk w) % 2 ^ 24
      (32768 < x.effLine w + uopCount w ∨ 32768 < dst + uopCount w → Completes (.moveLocal n) s (hasFaulted s · n)) ∧
      (x.effLine w + uopCount w ≤ 32768 → dst + uopCount w ≤ 32768 → queued .moveLocal (move .localCopy w dst 0 ⟨0, 0, 0, 0⟩))) ∧
    (∀ w, atUop s n 4 1 w →
      (s.targetFor n w 0 false = none → Completes (.moveToTile n) s (hasFaulted s · n)) ∧
      (∀ e, s.targetFor n w 0 false = some e → e.aux ≤ 179 → queued .moveToTile (move .toTile w (e.offset + x.walk w) 0 e))) ∧
    (∀ w, atUop s n 4 2 w →
      (s.targetFor n w 1 false = none → Completes (.moveFromObj n) s (hasFaulted s · n)) ∧
      (∀ e, s.targetFor n w 1 false = some e → e.target < s.objCount → (e.offset + x.walk w + uopCount w) * 96 ≤ (s.objAt e.target).size →
        ((s.objAt e.target).judge (s.versionOf (slateStep slate)) = .proceed → s.shardChecked e.target = false →
          queued .moveFromObj (move .fromObj w (e.offset + x.walk w) 0 e)) ∧
        ((s.objAt e.target).judge (s.versionOf (slateStep slate)) = .wait →
          queued .moveFromObj { move .fromObj w (e.offset + x.walk w) 0 e with held := true })) ∧
      (∀ e, s.targetFor n w 1 false = some e → e.target < s.objCount → x.moveQ.length < 8 → (s.objAt e.target).size < (e.offset + x.walk w + uopCount w) * 96 →
        Completes (.moveFromObj n) s (fun t => s.Keeps t ∧ s.Told t Ev.objectBounds (srcTile n) 0))) ∧
    (∀ w, atUop s n 4 3 w →
      (∀ e, s.targetFor n w 1 false = some e → s.objCount ≤ e.target ∨ (s.objAt e.target).versioned = true → Completes (.moveToObj n) s (hasFaulted s · n)) ∧
      (∀ e, s.targetFor n w 1 false = some e → e.target < s.objCount → (s.objAt e.target).versioned = false →
        (e.offset + x.walk w + uopCount w) * 96 ≤ (s.objAt e.target).size → queued .moveToObj (move .toObj w (e.offset + x.walk w) 0 e))) ∧
    (∀ c ∈ [((.listOut : Nat → Instr), 4, MoveKind.listOut), (.listBack, 5, .listBack)], ∀ w, atUop s n 4 c.2.1 w →
      (s.targetFor n w 3 true = none → Completes (c.1 n) s (hasFaulted s · n)) ∧
      (∀ e, s.targetFor n w 3 true = some e → s.placementTile e.aux ≤ 179 → queued c.1 (move c.2.2 w (s.placementTile e.aux) (uopLine w) e))) ∧
    (∀ m rest, x.moveQ = m :: rest → m.held = false → m.kind ≠ .listOut → m.kind ≠ .listBack → (∀ k < 180, (s.tile k).locks = []) →
      let ls := s.moveLines n m
      let src := (ls.getD 0 (0, 0)).1
      let dst := (ls.getD 0 (0, 0)).2
      src + m.count * 96 ≤ dst ∨ dst + m.count * 96 ≤ src → (∀ k < m.count * 96, storage (dst + k) = true) → Completes (.moveComplete n) s (fun t =>
        (t.tile n).moveQ = rest ∧ t.out = s.out ∧ (∀ a, t.byte a = if dst ≤ a ∧ a < dst + m.count * 96 ∧ s.isolatedLine a = false then s.byte (src + (a - dst)) else s.byte a) ∧
        (t.tile n).signals = x.signals.map (fun y => if m.ord < y.ord ∧ m.toward n y.tile then { y with after := y.after - 1 } else y))) ∧
    (∀ c ∈ [((.send : Nat → Instr), 0, SendKind.plain), (.sendNotify, 1, .notify)], ∀ w, atUop s n 5 c.2.1 w →
      (s.targetFor n w 2 false = none → Completes (c.1 n) s (hasFaulted s · n)) ∧
      (∀ e, s.targetFor n w 2 false = some e →
        (4032 ≤ e.aux ∨ (s.flow e.aux).state = 0 ∧ x.sendQ.length < 16 → Completes (c.1 n) s (hasFaulted s · n)) ∧
        (e.aux < 4032 → 16 ≤ x.sendQ.length → Completes (c.1 n) s (hasWaited s · n)) ∧
        (e.aux < 4032 → (s.flow e.aux).state = 1 →
          let f := s.flow e.aux
          let q : SendItem := ⟨c.2.2, x.effLine w, uopCount w, e.offset + x.walk w * 96, e, uopLine w, slate, pc, x.issued⟩
          let d := s.bytes (s.tileBase n + q.line * 96) (q.count * 96)
          (x.sendQ = [] → 1024 ≤ psnSub f.next f.una → Completes (c.1 n) s (fun t => wentOn s t n x ∧ (t.tile n).sendQ = [q])) ∧
          (x.sendQ = [] → psnSub f.next f.una < 1024 → (∀ i < q.count, (s.tmem n).bad (q.line + i) = false) → Completes (c.1 n) s (fun t => wentOn s t n x ∧
            (t.tile n).sendQ = [] ∧ (t.tile n).sendsOut = x.sendsOut + 1 ∧
            ∀ k, k * f.payload < d.length → ∃ y ∈ (t.flow e.aux).tx, y.tile = some n ∧ y.pkt.key = e.target ∧ y.pkt.offset = (q.offset + k * f.payload) % 2 ^ 40 ∧
              y.pkt.payload = (d.drop (k * f.payload)).take f.payload ∧ y.pkt.slate = slate ∧
              y.pkt.op = (if c.2.1 = 1 ∧ d.length ≤ (k + 1) * f.payload then opWriteNotify else opWrite)))))) ∧
    (∀ w, atUop s n 5 2 w →
      (s.targetFor n w 3 true = none → Completes (.sendList n) s (hasFaulted s · n)) ∧
      (∀ e, s.targetFor n w 3 true = some e → x.sendQ = [] → Completes (.sendList n) s (fun t =>
        let q : SendItem := ⟨.list, x.effLine w, uopCount w, e.offset + x.walk w * 96, e, uopLine w, slate, pc, x.issued⟩
        let f := s.flow (Config.listFlow e.aux)
        t.pc n = (x.stepPc pc).2 % 8192 ∧ counted s t (Reg.TILE_SEQ_ISSUE_LO n) ∧ s.Keeps t ∧
        (x.buildBefore x.issued q.list = true → (t.tile n).sendQ = [q] ∧ counted s t (Reg.TILE_DSP_STALL_LO n) ∧ t.nrt = s.nrt) ∧
        (x.buildBefore x.issued q.list = false → if f.state ≠ 1 ∨ psnSub f.next f.una < 1024 then (t.tile n).sendQ = [] else (t.tile n).sendQ = [q]) ∧
        (x.buildBefore x.issued q.list = false → f.state = 1 → psnSub f.next f.una < 1024 → (∀ l ∈ s.sendReads n q, (s.tmem n).bad l = false) →
          ∃ y ∈ (t.flow (Config.listFlow e.aux)).tx, y.tile = some n ∧ y.pkt.offset = (Config.listFill e.aux + 2 * (s.listOf n q.list).1.src) % 2 ^ 40 ∧
            y.pkt.payload = leBytes 2 (s.listOf n q.list).1.length)))) ∧
    (∀ w, atUop s n 7 0 w →
      let cue := (bitsOf w 15 0 + x.walk w) % 65536
      let app := s.applying n cue
      (s.reel.copying = true → Completes (.cue n) s (hasWaited s · n)) ∧
      (s.reel.copying = false → x.cueReached = true → (∃ p ∈ app, s.entryResolved p.1 n = false) → Completes (.cue n) s (hasWaited s · n)) ∧
      (s.reel.copying = false → x.cueReached = true ∨ app = [] → (∀ p ∈ app, s.entryResolved p.1 n = true ∧ p.2.start ≠ 0xFFFF ∧
          ∀ e, s.entryHolder p.1 n = some e → s.entryMismatch e n slate = false) → (∀ e ∈ s.reel.entries, e.start ≠ cue) → Completes (.cue n) s (fun t =>
        counted s t (Reg.TILE_SEQ_ISSUE_LO n) ∧ t.fld (Fl.TILE_SEQ_STATUS_STATE n) = seqIssuing ∧ t.mem = s.mem ∧ (t.tile n).cueReached = false ∧
        (∀ p ∈ app, t.xfer p.1 n = none) ∧ (n = 0 → t.hub.lastCue = some cue) ∧
        t.pc n = (match app.find? (fun p => decide (p.2.fallback ≠ 0) && (s.xfer p.1 n).any (fun y => decide (y.st = .placed))) with
          | some p => if p.2.rskip = 0 then (x.stepPc pc).2 else pc + 1 + p.2.rskip
          | none => (x.stepPc pc).2) % 8192)))

/-- Takes and Clappers: a Take opens with its record and closes when its work is complete; a failed one is aborted on its group and, once no swap is outstanding, restored under the next Take number, Take 15 stopping the
job; a Clapper holds its participants until the last arrives (R18, R240, R247 to R249, R251, R252, R254, R255, R296). -/
def Obligations.TakesAndClappers : Prop :=
  ∀ s : State, s.Inv → ∀ n < 180,
    let x := s.tile n
    let slate := s.slate n
    (∀ w, atUop s n 10 1 w →
      (x.take.isSome = true → Completes (.takeBegin n) s (hasFaulted s · n)) ∧
      (x.take = none → Completes (.takeBegin n) s (fun t => wentOn s t n x ∧ t.fld (Fl.TILE_SEQ_STATUS_TAKE_OPEN n) = 1 ∧
        t.slate n = mkSlate (slateStep slate) (slateMb slate) 0 (slatePhase slate) (slateStage slate) ∧
        (t.tile n).take = some ⟨t.pc n, (t.tile n).ix, (t.tile n).loops, (List.range 8).map (fun c => s.ec n (8 + c)), t.slate n, List.replicate 8 0, x.arrivals⟩ ∧
        (t.tile n).failed = none))) ∧
    (∀ w, atUop s n 10 2 w →
      (x.take = none → Completes (.takeEnd n) s (hasFaulted s · n)) ∧
      (x.take.isSome = true → (x.fenced 15 && x.sendQ.isEmpty && x.failed.isNone) = false → Completes (.takeEnd n) s (hasWaited s · n)) ∧
      (x.take.isSome = true → (x.fenced 15 && x.sendQ.isEmpty && x.failed.isNone) = true → s.fld Fl.TELE_FMTH_CTRL_ENABLE = 0 → Completes (.takeEnd n) s (fun t => wentOn s t n x ∧
        (t.tile n).take = none ∧ (t.tile n).rejects = [] ∧ (t.tile n).health = [] ∧ t.fld (Fl.TILE_SEQ_STATUS_TAKE_OPEN n) = 0))) ∧
    (∀ f, x.failed = some f → s.fld (Fl.TILE_SEQ_STATUS_STATE n) ≠ seqAborting →
      (slateTake f.slate = 15 → Completes (.takeAbort n) s (fun t => (t.tile n).failed = none ∧ s.Keeps t ∧ s.Told t Ev.takeLimit (srcTile n) 0)) ∧
      (slateTake f.slate ≠ 15 → Completes (.takeAbort n) s (fun t => ∀ k ∈ s.groupOf n, k < 180 →
        (s.issues k = true ∨ (s.tile k).take.isSome = true → t.fld (Fl.TILE_SEQ_STATUS_STATE k) = seqAborting) ∧ (t.tile k).arr = [] ∧ (t.tile k).chn = [] ∧ (t.tile k).drain = none ∧ (t.tile k).arrayQ = [] ∧
        (t.tile k).chainQ = [] ∧ (t.tile k).dispQ = [] ∧ (t.tile k).moveQ = [] ∧ (t.tile k).sendQ = [] ∧ (t.tile k).wait = .none ∧ (t.tile k).health = [] ∧
        (∀ r, (s.tile k).take = some r → (t.tile k).arrivals = r.arrivals) ∧
        (∀ c, (s.tile k).take = none → (s.tile k).wait = .clap c → c ∉ (t.tile k).arrivals) ∧
        (∀ y ∈ t.reel.xfers, y.tile ≠ k)))) ∧
    (∀ f, x.failed = some f → s.fld (Fl.TILE_SEQ_STATUS_STATE n) = seqAborting → (∀ k ∈ s.groupOf n, ∀ g, (s.tile k).failed = some g → g.swap = false) →
      Completes (.takeReplayResume n) s (fun t => t.mem = s.mem ∧ ∀ k ∈ s.groupOf n, k < 180 → s.fld (Fl.TILE_SEQ_STATUS_STATE k) = seqAborting →
        ((s.tile k).take = none → t.pc k = s.pc k ∧ t.fld (Fl.TILE_SEQ_STATUS_STATE k) = seqIssuing ∧ (t.tile k).failed = none) ∧ ∀ r, (s.tile k).take = some r →
        t.pc k = r.pc % 8192 ∧ t.fld (Fl.TILE_SEQ_STATUS_STATE k) = seqIssuing ∧ (t.tile k).ix = r.ix ∧ (t.tile k).loops = r.loops ∧ (t.tile k).failed = none ∧
        (t.tile k).health = [] ∧
        t.slate k = mkSlate (slateStep r.slate) (slateMb r.slate) (slateTake f.slate + 1) (slatePhase r.slate) (slateStage r.slate) ∧
        ∀ c < 8, t.ec k (8 + c) = r.ec.getD c 0 % 65536 ∧ t.ec k c = min (s.ec k c + r.recv.getD c 0) 65535)) ∧
    (∀ w c, c = bitsOf w 3 0 →
      let released := fun (t : State) => ∀ p ∈ s.onDie c, c ∉ (t.tile p).arrivals
      let last := ∀ p ∈ s.onDie c, p ≠ n → (s.tile p).arrivals.contains c = true
      (∀ i ∈ [((.clap : Nat → Instr), 2), (.arrive, 3), (.clapWait, 4)], atUop s n 6 i.2 w → (s.onDie c).contains n = false → Completes (i.1 n) s (hasFaulted s · n)) ∧
      ((s.onDie c).contains n = true → x.arrivals.contains c = false → x.wait = .none →
        (atUop s n 6 2 w → ¬last → Completes (.clap n) s (fun t => hasWaited s t n ∧ (t.tile n).wait = .clap c ∧ (t.tile n).arrivals = x.arrivals ++ [c])) ∧
        (atUop s n 6 2 w → last → Completes (.clap n) s (fun t => released t ∧ (t.tile n).wait = .none ∧ t.pc n = (x.stepPc (s.pc n)).2 % 8192 ∧ t.mem = s.mem ∧
          counted s t (Reg.TILE_SEQ_ISSUE_LO n))) ∧
        (atUop s n 6 3 w → ¬last → Completes (.arrive n) s (fun t => wentOn s t n x ∧ (t.tile n).arrivals = x.arrivals ++ [c])) ∧
        (atUop s n 6 3 w → last → Completes (.arrive n) s (fun t => released t ∧ t.pc n = (x.stepPc (s.pc n)).2 % 8192 ∧ t.mem = s.mem ∧ counted s t (Reg.TILE_SEQ_ISSUE_LO n))) ∧
        (atUop s n 6 4 w → Completes (.clapWait n) s (wentOn s · n x))) ∧
      ((s.onDie c).contains n = true → x.arrivals.contains c = true →
        (atUop s n 6 3 w → Completes (.arrive n) s (fun t => hasWaited s t n ∧ (t.tile n).wait = .toArrive c ∧ (t.tile n).arrivals = x.arrivals)) ∧
        (atUop s n 6 4 w → Completes (.clapWait n) s (fun t => hasWaited s t n ∧ (t.tile n).wait = .clapWait c ∧ (t.tile n).arrivals = x.arrivals)))) ∧
    (∀ w, atUop s n 6 5 w →
      let c := bitsOf w 2 0
      let ts := s.crossTiles c
      let g := ((s.coll.gens.find? (fun e => decide (e.1 = c))).map (·.2)).getD 0
      (x.take.isSome = true ∨ ts.contains n = false → Completes (.clapx n) s (hasFaulted s · n)) ∧
      (x.take = none → ts.contains n = true → x.arrivals.contains (16 + c) = false → s.isManager = false → Completes (.clapx n) s (fun t =>
        (t.tile n).wait = .clapx (16 + c) ∧ (t.tile n).arrivals = x.arrivals ++ [16 + c] ∧ hasWaited s t n ∧
        ((∀ k ∈ ts, k ≠ n → (s.tile k).arrivals.contains (16 + c) = true) → n ∉ s.hub.swapArmed → (∀ k ∈ ts, k ∉ s.hub.swapping) → s.coll.arrived.contains (c, g) = false →
          t.coll.arrived = s.coll.arrived ++ [(c, g)] ∧ sentMsg s t s.coll.manager 7 0 (leBytes 4 c ++ leBytes 4 g)) ∧
        (n ∈ s.hub.swapArmed → n ∈ t.hub.swapping ∧ t.fld Fl.RAS_STATUS_SWAP_BUSY = 1 ∧ t.coll.arrived = s.coll.arrived)))) ∧
    (x.wait ≠ .none → Completes (.clapperTimeout n) s (fun t => s.Keeps t ∧ s.Told t Ev.clapperTimeout (srcTile n) 0 ∧
      (∀ r, x.take = some r → x.failed = none →
        (∃ f, (t.tile n).failed = some f ∧ f.slate = mkSlate (slateStep r.slate) (slateMb r.slate) (slateTake slate) (slatePhase r.slate) (slateStage r.slate)) ∧ t.fld (Fl.TILE_SEQ_STATUS_TAKE_FAILED n) = 1)))
end

