-- ==== Sys2Proof/Laws/Store.lean ====
section
/-! SUPPORT. What the operations of a store do: reading after writing, and the canonical form. -/

namespace Sys2Proof.Machine

variable {α : Type}

theorem Store.above_mono {j k : Nat} (h : j ≤ k) {l : Store α} (hl : Store.above k l = true) : Store.above j l = true := by
  induction l with
  | nil => rfl
  | cons e t ih =>
    obtain ⟨i, v⟩ := e
    simp only [Store.above, Bool.and_eq_true, decide_eq_true_eq] at hl ⊢
    exact ⟨by omega, ih hl.2⟩

/-- A key below every listed one reads as unlisted. -/
theorem Store.get_of_above (d : Nat → α) {k : Nat} {l : Store α} (h : Store.above k l = true) : Store.get d l k = d k := by
  cases l with
  | nil => rfl
  | cons e t =>
    obtain ⟨i, v⟩ := e
    simp only [Store.above, Bool.and_eq_true, decide_eq_true_eq] at h
    simp only [Store.get]
    rw [if_neg (by omega), if_pos h.1]

@[simp] theorem Store.get_nil (d : Nat → α) (k : Nat) : Store.get d [] k = d k := rfl

theorem Store.above_filter {k : Nat} {l : Store α} (p : Nat × α → Bool) (h : Store.above k l = true) : Store.above k (l.filter p) = true := by
  induction l with
  | nil => rfl
  | cons e t ih =>
    obtain ⟨i, w⟩ := e
    simp only [Store.above, Bool.and_eq_true, decide_eq_true_eq] at h
    simp only [List.filter]
    split
    · simp [Store.above, h.1, ih h.2]
    · exact ih h.2

section
variable [DecidableEq α]

theorem Store.wf_cons {d : Nat → α} {k : Nat} {v : α} {t : Store α} :
    Store.wf d ((k, v) :: t) = true ↔ v ≠ d k ∧ Store.above k t = true ∧ Store.wf d t = true := by
  simp [Store.wf, and_assoc]

theorem Store.above_set {d : Nat → α} {j k : Nat} {v : α} {l : Store α} (hj : j < k) (h : Store.above j l = true) :
    Store.above j (Store.set d l k v) = true := by
  induction l with
  | nil =>
    simp only [Store.set]
    split <;> simp [Store.above, hj]
  | cons e t ih =>
    obtain ⟨i, w⟩ := e
    simp only [Store.above, Bool.and_eq_true, decide_eq_true_eq] at h
    simp only [Store.set]
    split
    · split
      · exact h.2
      · simp [Store.above, hj, h.2]
    · split
      · split
        · simp [Store.above, h.1, h.2]
        · simp [Store.above, hj, h.1, h.2]
      · simp [Store.above, h.1, ih h.2]

/-- Writing keeps the canonical form. -/
theorem Store.wf_set (d : Nat → α) (k : Nat) (v : α) {l : Store α} (h : Store.wf d l = true) : Store.wf d (Store.set d l k v) = true := by
  induction l with
  | nil =>
    simp only [Store.set]
    split
    · rfl
    · simp [Store.wf, Store.above, *]
  | cons e t ih =>
    obtain ⟨i, w⟩ := e
    obtain ⟨hw, ha, ht⟩ := Store.wf_cons.mp h
    simp only [Store.set]
    split
    · rename_i hk
      subst hk
      split
      · exact ht
      · exact Store.wf_cons.mpr ⟨by assumption, ha, ht⟩
    · split
      · rename_i hk
        split
        · exact h
        · exact Store.wf_cons.mpr ⟨by assumption, by simp [Store.above, hk, Store.above_mono (Nat.le_of_lt hk) ha], h⟩
      · exact Store.wf_cons.mpr ⟨hw, Store.above_set (by omega) ha, ih ht⟩

/-- Reading after writing. -/
theorem Store.get_set (d : Nat → α) (k j : Nat) (v : α) {l : Store α} (h : Store.wf d l = true) :
    Store.get d (Store.set d l k v) j = if j = k then v else Store.get d l j := by
  induction l with
  | nil =>
    simp only [Store.set]
    split
    · split
      · simp_all [Store.get]
      · rfl
    · simp only [Store.get]
      split
      · rfl
      · split <;> rfl
  | cons e t ih =>
    obtain ⟨i, w⟩ := e
    obtain ⟨hw, ha, ht⟩ := Store.wf_cons.mp h
    simp only [Store.set]
    split
    · rename_i hk
      subst hk
      split
      · rename_i hv
        by_cases hj : j = k
        · subst hj
          simp [Store.get_of_above d ha, hv]
        · rw [if_neg hj]
          simp only [Store.get, if_neg hj]
          split
          · rename_i hlt
            exact Store.get_of_above d (Store.above_mono (Nat.le_of_lt hlt) ha)
          · rfl
      · simp only [Store.get]
        by_cases hj : j = k <;> simp [hj]
    · split
      · rename_i hne hk
        split
        · rename_i hv
          by_cases hj : j = k
          · subst hj
            simp [Store.get, hne, hk, hv]
          · rw [if_neg hj]
        · simp only [Store.get]
          by_cases hj : j = k
          · simp [hj]
          · rw [if_neg hj, if_neg hj]
            by_cases hjk : j < k
            · rw [if_pos hjk, if_neg (by omega), if_pos (by omega)]
            · rw [if_neg hjk]
      · rename_i hne hk
        simp only [Store.get]
        by_cases hj : j = i
        · subst hj
          rw [if_pos rfl, if_pos rfl, if_neg (by omega)]
        · rw [if_neg hj, if_neg hj]
          by_cases hji : j < i
          · rw [if_pos hji, if_pos hji, if_neg (by omega)]
          · rw [if_neg hji, if_neg hji, ih ht]

theorem Store.get_set_same (d : Nat → α) (k : Nat) (v : α) {l : Store α} (h : Store.wf d l = true) : Store.get d (Store.set d l k v) k = v := by
  rw [Store.get_set d k k v h, if_pos rfl]

theorem Store.get_set_other (d : Nat → α) {j k : Nat} (v : α) {l : Store α} (h : Store.wf d l = true) (hj : j ≠ k) :
    Store.get d (Store.set d l k v) j = Store.get d l j := by
  rw [Store.get_set d k j v h, if_neg hj]

theorem Store.wf_update (d : Nat → α) (k : Nat) (f : α → α) {l : Store α} (h : Store.wf d l = true) : Store.wf d (Store.update d l k f) = true :=
  Store.wf_set d k _ h

/-- Dropping entries keeps the canonical form. -/
theorem Store.wf_drop (d : Nat → α) (p : Nat → Bool) {l : Store α} (h : Store.wf d l = true) : Store.wf d (Store.drop l p) = true := by
  induction l with
  | nil => rfl
  | cons e t ih =>
    obtain ⟨i, w⟩ := e
    obtain ⟨hw, ha, ht⟩ := Store.wf_cons.mp h
    simp only [Store.drop, List.filter]
    split
    · exact Store.wf_cons.mpr ⟨hw, Store.above_filter _ ha, ih ht⟩
    · exact ih ht

/-- What is listed after a write was listed before, or is what was written. -/
theorem Store.mem_set {d : Nat → α} {k : Nat} {v : α} {l : Store α} {e : Nat × α} (h : e ∈ Store.set d l k v) : e ∈ l ∨ e = (k, v) := by
  induction l with
  | nil =>
    simp only [Store.set] at h
    split at h <;> simp_all
  | cons x t ih =>
    obtain ⟨i, w⟩ := x
    simp only [Store.set] at h
    split at h
    · split at h <;> simp_all
      rcases h with h | h <;> simp_all
    · split at h
      · split at h <;> simp_all
        rcases h with h | h | h <;> simp_all
      · rcases List.mem_cons.mp h with h | h
        · exact .inl (h ▸ List.mem_cons_self)
        · rcases ih h with h | h
          · exact .inl (List.mem_cons_of_mem _ h)
          · exact .inr h

end

end Sys2Proof.Machine
end

