-- ==== Sys2Proof/Laws/Mem.lean ====
section
/-! SUPPORT. Memory: what a write does to every byte (R3, R7, R255), and that every operation keeps the canonical form. -/

namespace Sys2Proof.Machine

/-! The canonical form. -/

theorem Memory.wf_iff (m : Memory) : Memory.wf m = true ↔ Store.wf (fun _ => 0) m = true ∧ ∀ e ∈ m, storage e.1 = true := by
  simp [Memory.wf]

theorem Memory.wf_set {m : Memory} (h : Memory.wf m = true) {a : Nat} (ha : storage a = true) (b : Byte) :
    Memory.wf (Store.set (fun _ => 0) m a b) = true := by
  obtain ⟨hw, hs⟩ := (Memory.wf_iff m).mp h
  refine (Memory.wf_iff _).mpr ⟨Store.wf_set _ _ _ hw, fun e he => ?_⟩
  rcases Store.mem_set he with h | h
  · exact hs e h
  · exact h ▸ ha

theorem Memory.wf_fold {m : Memory} (h : Memory.wf m = true) (a : Nat) (l : List (Byte × Nat)) :
    Memory.wf (l.foldl (fun m p => if storage (a + p.2) then Store.set (fun _ => 0) m (a + p.2) p.1 else m) m) = true := by
  induction l generalizing m with
  | nil => exact h
  | cons p t ih =>
    rw [List.foldl_cons]
    apply ih
    split
    · exact Memory.wf_set h ‹_› _
    · exact h

theorem Memory.wf_writeBytes {m : Memory} (h : Memory.wf m = true) (a : Nat) (bs : List Byte) : Memory.wf (writeBytes m a bs) = true :=
  Memory.wf_fold h a _

theorem Memory.wf_drop {m : Memory} (h : Memory.wf m = true) (p : Nat → Bool) : Memory.wf (Store.drop m p) = true := by
  obtain ⟨hw, hs⟩ := (Memory.wf_iff m).mp h
  refine (Memory.wf_iff _).mpr ⟨Store.wf_drop _ _ hw, fun e he => hs e ?_⟩
  exact (List.mem_filter.mp he).1

theorem resetAll_mem (s : State) (power : Bool) : (resetAll s power).mem = [] := by
  cases power <;> rfl

/-- Every elementary change keeps the memory canonical. -/
theorem Act.apply_mem_wf (x : Act) (s : State) (h : Memory.wf s.mem = true) : Memory.wf (x.apply s).mem = true := by
  cases x with
  | write a bs =>
    simp only [Act.apply]
    split
    · exact h
    · exact Memory.wf_writeBytes h a bs
  | undef a n =>
    simp only [Act.apply]
    split
    · exact h
    · exact Memory.wf_drop h (fun k => decide (a ≤ k) && decide (k < a + n))
  | undefStack k => exact Memory.wf_drop h (fun a => inT1 a && decide (t1Stack a = k))
  | event e =>
    simp only [Act.apply, addEvent]
    split <;> exact h
  | reset power => rw [Act.apply, resetAll_mem]; rfl
  | _ => exact h

/-! What a write does to a byte. -/

theorem get_fold {m : Memory} (h : Store.wf (fun _ => 0) m = true) (a n : Nat) (bs : List Byte) (x : Nat) :
    Store.get (fun _ => 0) ((bs.zipIdx n).foldl (fun m p => if storage (a + p.2) then Store.set (fun _ => 0) m (a + p.2) p.1 else m) m) x =
      if a + n ≤ x ∧ x < a + n + bs.length ∧ storage x = true then bs.getD (x - a - n) 0 else Store.get (fun _ => 0) m x := by
  induction bs generalizing m n with
  | nil => simp; omega
  | cons b t ih =>
    rw [List.zipIdx_cons, List.foldl_cons]
    have hw : Store.wf (fun _ => (0 : Byte)) (if storage (a + n) then Store.set (fun _ => 0) m (a + n) b else m) = true := by
      split
      · exact Store.wf_set _ _ _ h
      · exact h
    rw [ih hw]
    by_cases hx : x = a + n
    · subst hx
      rw [if_neg (by omega)]
      by_cases hs : storage (a + n) = true
      · rw [if_pos hs, if_pos ⟨by omega, by simp, hs⟩, Store.get_set_same _ _ _ h]
        simp
      · rw [if_neg hs, if_neg (by simp [hs])]
    · have hm : Store.get (fun _ => (0 : Byte)) (if storage (a + n) then Store.set (fun _ => 0) m (a + n) b else m) x = Store.get (fun _ => 0) m x := by
        split
        · exact Store.get_set_other _ _ h hx
        · rfl
      rw [hm]
      by_cases hc : a + (n + 1) ≤ x ∧ x < a + (n + 1) + t.length ∧ storage x = true
      · rw [if_pos hc, if_pos ⟨by omega, by simp; omega, hc.2.2⟩]
        have hk : x - a - n = (x - a - (n + 1)) + 1 := by omega
        rw [hk, List.getD_cons_succ]
      · rw [if_neg hc, if_neg]
        intro ⟨h1, h2, h3⟩
        simp only [List.length_cons] at h2
        exact hc ⟨by omega, by omega, h3⟩

/-- A listed byte after a write. -/
theorem get_writeBytes {m : Memory} (h : Store.wf (fun _ => 0) m = true) (a : Nat) (bs : List Byte) (x : Nat) :
    Store.get (fun _ => 0) (writeBytes m a bs) x =
      if a ≤ x ∧ x < a + bs.length ∧ storage x = true then bs.getD (x - a) 0 else Store.get (fun _ => 0) m x := by
  have := get_fold h a 0 bs x
  simpa [writeBytes] using this

theorem cutRanges_in (l : List UndefRange) {lo hi x : Nat} (h : lo ≤ x ∧ x ≤ hi) : (cutRanges l lo hi).find? (·.has x) = none := by
  induction l with
  | nil => rfl
  | cons r t ih =>
    rw [cutRanges, List.flatMap_cons, List.find?_append]
    rw [cutRanges] at ih
    rw [ih, Option.or_none]
    split
    · simp [UndefRange.has]; omega
    · split <;> split <;> simp [UndefRange.has] <;> omega

theorem cutRanges_out (l : List UndefRange) {lo hi x : Nat} (h : x < lo ∨ hi < x) :
    ((cutRanges l lo hi).find? (·.has x)).map (·.epoch) = (l.find? (·.has x)).map (·.epoch) := by
  induction l with
  | nil => rfl
  | cons r t ih =>
    rw [cutRanges, List.flatMap_cons, List.find?_append]
    rw [cutRanges] at ih
    by_cases hr : r.has x = true
    · rw [List.find?_cons_of_pos (p := fun y : UndefRange => y.has x) hr]
      have hb := hr
      simp only [UndefRange.has, Bool.and_eq_true, decide_eq_true_eq] at hb
      obtain ⟨⟨h1, h2⟩, h3⟩ := hb
      split
      · rw [List.find?_cons_of_pos (p := fun y : UndefRange => y.has x) hr]; rfl
      · rename_i hc
        by_cases hx : x < lo
        · rw [if_pos (show r.lo < lo by omega)]
          have : (UndefRange.has { r with hi := lo - 1 } x) = true := by
            simp only [UndefRange.has, Bool.and_eq_true, decide_eq_true_eq]
            exact ⟨⟨h1, by omega⟩, h3⟩
          rw [List.cons_append, List.find?_cons_of_pos (p := fun y : UndefRange => y.has x) this]; rfl
        · rw [if_pos (show hi < r.hi by omega)]
          have : (UndefRange.has { r with lo := hi + 1 } x) = true := by
            simp only [UndefRange.has, Bool.and_eq_true, decide_eq_true_eq]
            exact ⟨⟨by omega, h2⟩, h3⟩
          have no : ∀ y ∈ (if r.lo < lo then [{ r with hi := lo - 1 }] else ([] : List UndefRange)), ¬(y.has x = true) := by
            intro y hy
            split at hy
            · simp only [List.mem_singleton] at hy
              subst hy
              simp [UndefRange.has]; omega
            · simp at hy
          rw [List.find?_append, List.find?_eq_none (p := fun y : UndefRange => y.has x) |>.mpr no, Option.none_or, List.find?_cons_of_pos (p := fun y : UndefRange => y.has x) this]; rfl
    · rw [List.find?_cons_of_neg (p := fun y : UndefRange => y.has x) hr, ← ih]
      have none' : ∀ y ∈ (if hi < r.lo ∨ r.hi < lo then [r] else
          (if r.lo < lo then [{ r with hi := lo - 1 }] else []) ++ (if hi < r.hi then [{ r with lo := hi + 1 }] else [])), ¬(y.has x = true) := by
        intro y hy hyx
        apply hr
        simp only [UndefRange.has, Bool.and_eq_true, decide_eq_true_eq] at hyx ⊢
        split at hy
        · simp only [List.mem_singleton] at hy; subst hy; exact hyx
        · rcases List.mem_append.mp hy with hy | hy <;> split at hy <;> simp only [List.mem_singleton, List.not_mem_nil] at hy
          all_goals (subst hy; exact ⟨⟨by have := hyx.1; simp at this; omega, by have := hyx.1; simp at this; omega⟩, hyx.2⟩)
      rw [List.find?_eq_none (p := fun y : UndefRange => y.has x) |>.mpr none', Option.none_or]

theorem apply_write_mem (a : Nat) (b : Byte) (t : List Byte) (s : State) : ((Act.write a (b :: t)).apply s).mem = writeBytes s.mem a (b :: t) := rfl
theorem apply_write_undef (a : Nat) (b : Byte) (t : List Byte) (s : State) :
    ((Act.write a (b :: t)).apply s).undef = cutRanges s.undef a (a + (b :: t).length - 1) := rfl

/-- A byte outside what is written reads as before. -/
theorem byte_write_out {s : State} (h : Store.wf (fun _ => 0) s.mem = true) (a : Nat) (bs : List Byte) {x : Nat} (hx : x < a ∨ a + bs.length ≤ x) :
    ((Act.write a bs).apply s).byte x = s.byte x := by
  cases bs with
  | nil => rfl
  | cons b t =>
    have hc := cutRanges_out s.undef (lo := a) (hi := a + (b :: t).length - 1) (x := x) (by simp at hx ⊢; omega)
    have hg := get_writeBytes h a (b :: t) x
    rw [if_neg (by omega)] at hg
    have e : ((Act.write a (b :: t)).apply s).byte x =
        match ((cutRanges s.undef a (a + (b :: t).length - 1)).find? (·.has x)).map (·.epoch) with
        | some n => Config.freeByte n x
        | none => Store.get (fun _ => 0) (writeBytes s.mem a (b :: t)) x := by
      rw [State.byte, apply_write_undef, apply_write_mem]
      cases (cutRanges s.undef a (a + (b :: t).length - 1)).find? (·.has x) <;> rfl
    rw [e, hc, hg, State.byte]
    cases s.undef.find? (·.has x) <;> rfl

/-- A byte of storage that is written reads as what is written. -/
theorem byte_write_in {s : State} (h : Store.wf (fun _ => 0) s.mem = true) (a : Nat) (bs : List Byte) {x : Nat} (hx : a ≤ x ∧ x < a + bs.length)
    (hs : storage x = true) : ((Act.write a bs).apply s).byte x = bs.getD (x - a) 0 := by
  cases bs with
  | nil => simp at hx; omega
  | cons b t =>
    have hc := cutRanges_in s.undef (lo := a) (hi := a + (b :: t).length - 1) (x := x) (by simp at hx ⊢; omega)
    have hg := get_writeBytes h a (b :: t) x
    rw [if_pos ⟨hx.1, hx.2, hs⟩] at hg
    rw [State.byte, apply_write_undef, apply_write_mem]
    split
    · rename_i r hr
      exact absurd (hr.symm.trans hc) (by simp)
    · exact hg

end Sys2Proof.Machine
end

