-- ==== Sys2Proof/Laws/Flash.lean ====
section
/-! SUPPORT. What a write of the flash does to a byte of it (R564). -/

namespace Sys2Proof.Machine

/-- A stored byte of the flash after a write. -/
theorem get_flash {m : Store Byte} (h : Store.wf Config.flashByte m = true) (a n : Nat) (bs : List Byte) (x : Nat) :
    Store.get Config.flashByte ((bs.zipIdx n).foldl (fun m b => Store.set Config.flashByte m (a + b.2) b.1) m) x =
      if a + n ≤ x ∧ x < a + n + bs.length then bs.getD (x - a - n) 0 else Store.get Config.flashByte m x := by
  induction bs generalizing m n with
  | nil => simp
  | cons b t ih =>
    rw [List.zipIdx_cons, List.foldl_cons, ih (Store.wf_set _ _ _ h)]
    by_cases hx : x = a + n
    · subst hx
      rw [if_neg (by omega), if_pos ⟨by omega, by simp⟩, Store.get_set_same _ _ _ h]
      simp
    · rw [Store.get_set_other _ _ h hx]
      by_cases hc : a + (n + 1) ≤ x ∧ x < a + (n + 1) + t.length
      · rw [if_pos hc, if_pos ⟨by omega, by simp; omega⟩, show x - a - n = (x - a - (n + 1)) + 1 by omega, List.getD_cons_succ]
      · rw [if_neg hc, if_neg]
        intro ⟨h1, h2⟩
        simp only [List.length_cons] at h2
        omega

/-- A byte of the flash after a write of it: what is written, and elsewhere what it was, free where an earlier write was cut off. -/
theorem flashByte_flash {s : State} (h : Store.wf Config.flashByte s.rst.flash = true) (a : Nat) (bs : List Byte) (x : Nat) :
    ((Act.flash a bs).apply s).flashByte x = if a ≤ x ∧ x < a + bs.length then bs.getD (x - a) 0 else s.flashByte x := by
  cases bs with
  | nil => rw [if_neg (by simp only [List.length_nil]; omega)]; rfl
  | cons b t =>
    have hg := get_flash h a 0 (b :: t) x
    have e : ((Act.flash a (b :: t)).apply s).flashByte x =
        match ((cutRanges s.rst.torn a (a + (b :: t).length - 1)).find? (·.has x)).map (·.epoch) with
        | some n => Config.tornByte n x
        | none => Store.get Config.flashByte (((b :: t).zipIdx 0).foldl (fun m b => Store.set Config.flashByte m (a + b.2) b.1) s.rst.flash) x := by
      rw [State.flashByte]
      show (match (cutRanges s.rst.torn a (a + (b :: t).length - 1)).find? (·.has x) with
        | some r => Config.tornByte r.epoch x
        | none => _) = _
      cases (cutRanges s.rst.torn a (a + (b :: t).length - 1)).find? (·.has x) <;> rfl
    rw [e, hg]
    by_cases hx : a ≤ x ∧ x < a + (b :: t).length
    · rw [cutRanges_in s.rst.torn (lo := a) (hi := a + (b :: t).length - 1) (x := x) (by omega), if_pos (by simpa using hx), if_pos hx]
      rfl
    · rw [cutRanges_out s.rst.torn (lo := a) (hi := a + (b :: t).length - 1) (x := x) (by simp at hx ⊢; omega), if_neg (by simpa using hx), if_neg hx, State.flashByte]
      cases s.rst.torn.find? (·.has x) <;> rfl

end Sys2Proof.Machine
end

