-- ==== Sys2Proof/Laws/Run.lean ====
section
/-! SUPPORT. Running meanings: what a program does, piece by piece, and that every command runs one. -/

namespace Sys2Proof.Machine

/-! Programs. -/

@[simp] theorem Prog.run_done (s : State) : Prog.done.run s = s := rfl
@[simp] theorem Prog.run_act (a : Act) (k : Prog) (s : State) : (Prog.act a k).run s = k.run (a.apply s) := rfl
@[simp] theorem Prog.run_get (k : State → Prog) (s : State) : (Prog.get k).run s = (k s).run s := rfl

/-- What every elementary change keeps, every program keeps. -/
theorem Prog.run_keeps {P : State → Prop} (h : ∀ (a : Act) (s : State), P s → P (a.apply s)) (p : Prog) (s : State) (hs : P s) : P (p.run s) := by
  induction p generalizing s with
  | done => exact hs
  | act a k ih => exact ih _ (h a s hs)
  | get k ih => exact ih s s hs

/-- What every elementary change relates a state to, every program does, if the relation composes. -/
theorem Prog.run_rel {R : State → State → Prop} (refl : ∀ s, R s s) (trans : ∀ {s t u}, R s t → R t u → R s u)
    (h : ∀ (a : Act) (s : State), R s (a.apply s)) (p : Prog) (s : State) : R s (p.run s) := by
  induction p generalizing s with
  | done => exact refl s
  | act a k ih => exact trans (h a s) (ih _)
  | get k ih => exact ih s s

/-! What a piece of a meaning does: `Does m s a t` says that from s it yields a and leaves t, whatever comes after. -/

def Does {α : Type} (m : M α) (s : State) (a : α) (t : State) : Prop := ∀ k : α → Prog, Prog.run (m k) s = Prog.run (k a) t

theorem Does.run {m : M Unit} {s t : State} (h : Does m s () t) : m.run s = t := h _
theorem Does.next {m : M Unit} {s t : State} (h : Does m s () t) : M.next m s = .next t := by simp [M.next, h.run]

theorem does_pure {α : Type} (a : α) (s : State) : Does (pure a) s a s := fun _ => rfl
theorem does_act (a : Act) (s : State) : Does (act a) s () (a.apply s) := fun _ => rfl
theorem does_look {α : Type} (f : State → α) (s : State) : Does (look f) s (f s) s := fun _ => rfl
theorem does_bind {α β : Type} {m : M α} {f : α → M β} {s t u : State} {a : α} {b : β} (h : Does m s a t) (g : Does (f a) t b u) :
    Does (m >>= f) s b u := fun k => (h _).trans (g k)
theorem does_map {α β : Type} {m : M α} {f : α → β} {s t : State} {a : α} (h : Does m s a t) : Does (f <$> m) s (f a) t := fun _ => h _

theorem does_ite {α : Type} {c : Prop} [Decidable c] {m n : M α} {s t : State} {a : α} (h : c → Does m s a t) (g : ¬c → Does n s a t) :
    Does (if c then m else n) s a t := by
  split
  · exact h ‹_›
  · exact g ‹_›
theorem does_if_pos {α : Type} {c : Prop} [Decidable c] {m n : M α} {s t : State} {a : α} (hc : c) (h : Does m s a t) :
    Does (if c then m else n) s a t := by rw [if_pos hc]; exact h
theorem does_if_neg {α : Type} {c : Prop} [Decidable c] {m n : M α} {s t : State} {a : α} (hc : ¬c) (h : Does n s a t) :
    Does (if c then m else n) s a t := by rw [if_neg hc]; exact h

/-- A loop whose body does `f x` for each element folds f. -/
theorem does_for {α : Type} (l : List α) (body : α → M Unit) (f : State → α → State) (h : ∀ x s, Does (body x) s () (f s x)) (s : State) :
    Does (forIn l PUnit.unit (fun x _ => do body x; pure (ForInStep.yield PUnit.unit))) s PUnit.unit (l.foldl f s) := by
  induction l generalizing s with
  | nil => exact fun _ => rfl
  | cons x t ih =>
    intro k
    rw [List.forIn_cons]
    exact (h x s _).trans (ih (f s x) k)

/-! Registers. -/

theorem does_getReg (off : Nat) (s : State) : Does (getReg off) s (s.reg off) s := does_look _ s
theorem does_setReg (off : Nat) (v : W32) (s : State) : Does (setReg off v) s () ((Act.reg off v).apply s) := does_act _ s
theorem does_getFld (f : Fld) (s : State) : Does (getFld f) s (s.fld f) s := does_look _ s
theorem does_setFld (f : Fld) (v : Nat) (s : State) : Does (setFld f v) s () ((Act.reg f.off (f.put (s.reg f.off) v)).apply s) := fun _ => rfl

/-! Every command runs a program. -/

/-- A command always answers a next state, that of a program. -/
theorem exec_runs (c : Instr) (s : State) : ∃ p : Prog, exec c s = .next (p.run s) := by
  cases c <;> exact ⟨_, rfl⟩

/-- A step always answers a next state: that of a program, from the state with the front of the queue taken off. -/
theorem step_runs (s : State) : ∃ p : Prog, step s = .next (p.run { s with pending := s.pending.tail }) := by
  unfold step
  split
  · rename_i h
    refine ⟨tick (fun _ => .done), ?_⟩
    have hs : s = { s with pending := s.pending.tail } := by rw [h]; cases s; simp_all
    rw [← hs]
    rfl
  · rename_i c rest h
    obtain ⟨p, hp⟩ := exec_runs c { s with pending := rest }
    exact ⟨p, by rw [hp, h]; rfl⟩

/-- What holds of the state with the front of its queue taken off, and what every elementary change keeps, holds after a step. -/
theorem step_keeps {P : State → Prop} (h : ∀ (a : Act) (s : State), P s → P (a.apply s)) (pop : ∀ s, P s → P { s with pending := s.pending.tail })
    (s t : State) (hs : P s) (ht : step s = .next t) : P t := by
  obtain ⟨p, hp⟩ := step_runs s
  rw [hp] at ht
  cases ht
  exact Prog.run_keeps h p _ (pop s hs)

end Sys2Proof.Machine
end

