-- ==== Sys2Proof/Laws/Frame.lean ====
section
/-! SUPPORT. Frames: which kinds of elementary change a piece of a meaning can make, and what of the state such a piece therefore leaves as it was. -/

namespace Sys2Proof.Machine

/-- The kinds of elementary change. -/
inductive ActKind where
  | time | reg | shadow | latch | hold | write | undef | poison | event | out | free | tile | phys | reel | job | upd | coll | nrt | port | hub
  | host | cx | pwr | rst | reset
deriving DecidableEq, Repr

/-- The kind of a change. -/
def Act.kind : Act → ActKind
  | .time _ => .time
  | .reg _ _ => .reg
  | .shadow _ _ => .shadow
  | .latch _ _ => .latch
  | .hold _ _ => .hold
  | .write _ _ => .write
  | .undef _ _ | .undefStack _ => .undef
  | .poison0 _ _ | .poison1 _ _ | .poison2 _ _ => .poison
  | .event _ | .dropEvents _ => .event
  | .out _ => .out
  | .free => .free
  | .tile _ _ => .tile
  | .phys _ _ => .phys
  | .reel _ => .reel
  | .job _ => .job
  | .upd _ => .upd
  | .coll _ => .coll
  | .nrt _ => .nrt
  | .port _ _ => .port
  | .hub _ => .hub
  | .host _ => .host
  | .cx _ => .cx
  | .pwr _ => .pwr
  | .rst _ | .flash _ _ => .rst
  | .cxm _ _ => .cx
  | .clk _ _ => .pwr
  | .fn _ _ | .msix _ _ | .msixDrop _ => .host
  | .flow _ _ | .sends _ | .key _ _ | .keysClear => .nrt
  | .alloc _ _ | .stream _ _ => .hub
  | .reset _ => .reset

/-- A program that makes only changes of the kinds S. -/
def Prog.Only (S : List ActKind) : Prog → Prop
  | .done => True
  | .act a k => a.kind ∈ S ∧ k.Only S
  | .get k => ∀ s, (k s).Only S

/-- A piece of a meaning that makes only changes of the kinds S. -/
def Uses {α : Type} (S : List ActKind) (m : M α) : Prop := ∀ k : α → Prog, (∀ a, (k a).Only S) → Prog.Only S (m k)

/-- What no change of the kinds S touches, a program of them leaves as it was. -/
theorem Prog.Only.keeps {β : Type} {S : List ActKind} {f : State → β} (h : ∀ (a : Act) (s : State), a.kind ∈ S → f (a.apply s) = f s) {p : Prog}
    (hp : p.Only S) (s : State) : f (p.run s) = f s := by
  induction p generalizing s with
  | done => rfl
  | act a k ih => exact (ih hp.2 _).trans (h a s hp.1)
  | get k ih => exact ih s (hp s) s

theorem Uses.keeps {β : Type} {S : List ActKind} {f : State → β} (h : ∀ (a : Act) (s : State), a.kind ∈ S → f (a.apply s) = f s) {m : M Unit}
    (hm : Uses S m) (s : State) : f (m.run s) = f s := (hm (fun _ => .done) (fun _ => trivial)).keeps h s

theorem Prog.Only.mono {S T : List ActKind} (h : S ⊆ T) {p : Prog} (hp : p.Only S) : p.Only T := by
  induction p with
  | done => trivial
  | act a k ih => exact ⟨h hp.1, ih hp.2⟩
  | get k ih => exact fun s => ih s (hp s)

section
variable {α β : Type} {S : List ActKind}

theorem uses_pure (a : α) : Uses S (pure a) := fun _ h => h a
theorem uses_act {a : Act} (h : a.kind ∈ S) : Uses S (act a) := fun _ hk => ⟨h, hk ()⟩
theorem uses_look (f : State → α) : Uses S (look f) := fun _ hk s => hk (f s)
theorem uses_bind {m : M α} {f : α → M β} (h : Uses S m) (g : ∀ a, Uses S (f a)) : Uses S (m >>= f) := fun k hk => h _ (fun a => g a k hk)
theorem uses_map {m : M α} {f : α → β} (h : Uses S m) : Uses S (f <$> m) := fun _ hk => h _ (fun a => hk (f a))
theorem uses_ite {c : Prop} [Decidable c] {m n : M α} (h : Uses S m) (g : Uses S n) : Uses S (if c then m else n) := by split <;> assumption
theorem uses_forIn {γ : Type} (l : List γ) (b : β) {f : γ → β → M (ForInStep β)} (h : ∀ x b, Uses S (f x b)) : Uses S (forIn l b f) := by
  induction l generalizing b with
  | nil => exact uses_pure b
  | cons x t ih =>
    rw [List.forIn_cons]
    refine uses_bind (h x b) (fun r => ?_)
    cases r with
    | done b => exact uses_pure b
    | yield b => exact ih b

theorem uses_getReg (off : Nat) : Uses S (getReg off) := uses_look _
theorem uses_getFld (f : Fld) : Uses S (getFld f) := uses_look _
theorem uses_setReg (off : Nat) (v : W32) (h : ActKind.reg ∈ S) : Uses S (setReg off v) := uses_act h
theorem uses_setFld (f : Fld) (v : Nat) (h : ActKind.reg ∈ S) : Uses S (setFld f v) := uses_bind (uses_getReg _) (fun _ => uses_setReg _ _ h)
theorem uses_setBit (f : Fld) (h : ActKind.reg ∈ S) : Uses S (setBit f) := uses_setFld f 1 h
theorem uses_bump (lo n : Nat) (h : ActKind.reg ∈ S) : Uses S (bump lo n) := by
  unfold bump
  split
  · exact uses_pure _
  · exact uses_bind (uses_look _) (fun _ => uses_bind (uses_setReg _ _ h) (fun _ => uses_setReg _ _ h))
theorem uses_bumpFld (f : Fld) (n : Nat) (h : ActKind.reg ∈ S) : Uses S (bumpFld f n) := uses_bind (uses_getFld f) (fun _ => uses_setFld _ _ h)
theorem uses_freeValue (h : ActKind.free ∈ S) : Uses S freeValue := uses_bind (uses_look _) (fun _ => uses_bind (uses_act h) (fun _ => uses_pure _))
theorem uses_pmuAdd (sel n : Nat) (h : ActKind.reg ∈ S) : Uses S (pmuAdd sel n) := by
  refine uses_bind (uses_look _) (fun _ => uses_bind (uses_setReg _ _ h) (fun _ => uses_bind (uses_setReg _ _ h) (fun _ => ?_)))
  split
  · exact uses_bind (uses_getReg _) (fun _ => uses_setReg _ _ h)
  · exact uses_pure _
theorem uses_pmuCount (base count ev n : Nat) (o : Occ) (h : ActKind.reg ∈ S) : Uses S (pmuCount base count ev n o) := by
  unfold pmuCount
  split
  · exact uses_pure _
  · refine uses_bind (uses_look _) (fun l => ?_)
    exact uses_bind (uses_forIn _ _ (fun x _ => uses_bind (uses_pmuAdd _ _ h) (fun _ => uses_pure _))) (fun _ => uses_pure _)
theorem uses_pmuTile (n ev amount : Nat) (pc : Option Nat) (slate : Nat) (priv : Bool) (h : ActKind.reg ∈ S) :
    Uses S (pmuTile n ev amount pc slate priv) := uses_bind (uses_look _) (fun _ => uses_bind (uses_look _) (fun _ => uses_pmuCount _ _ _ _ _ h))
theorem uses_pmuHub (ev amount : Nat) (priv master addr cls : Option Nat) (h : ActKind.reg ∈ S) : Uses S (pmuHub ev amount priv master addr cls) :=
  uses_bind (uses_look _) (fun _ => uses_pmuCount _ _ _ _ _ h)
theorem uses_pmuUpd (ev amount : Nat) (h : ActKind.reg ∈ S) : Uses S (pmuUpd ev amount) :=
  uses_bind (uses_look _) (fun _ => uses_pmuCount _ _ _ _ _ h)
theorem uses_bwCount (m k : Nat) (h : ActKind.hub ∈ S) : Uses S (bwCount m k) := uses_act h
theorem uses_raiseEvent (e : Event) (h : ActKind.reg ∈ S) (g : ActKind.event ∈ S) : Uses S (raiseEvent e) :=
  uses_bind (uses_act g) (fun _ => uses_pmuHub _ _ _ _ _ _ h)
theorem uses_raise (e : Ev) (src : Nat × Nat) (detail slate : Nat) (h : ActKind.reg ∈ S) (g : ActKind.event ∈ S) :
    Uses S (raise e src detail slate) := uses_raiseEvent _ h g
theorem uses_raiseStop (e : Ev) (src : Nat × Nat) (detail slate : Nat) (h : ActKind.reg ∈ S) (g : ActKind.event ∈ S) :
    Uses S (raiseStop e src detail slate) := uses_raiseEvent _ h g

/-- Committing a register's word changes registers and shadows, and may raise events. -/
theorem uses_commitReg (master : Nat) (hit : RegHit) (off value : Nat) (h : ActKind.reg ∈ S) (g : ActKind.event ∈ S) (w : ActKind.shadow ∈ S) :
    Uses S (commitReg master hit off value) := by
  unfold commitReg
  repeat' first
    | exact uses_pure _
    | exact uses_look _
    | exact uses_getReg _
    | exact uses_setReg _ _ h
    | exact uses_raise _ _ _ _ h g
    | exact uses_act w
    | apply uses_ite
    | refine uses_bind ?_ (fun _ => ?_)

/-- A write that keeper firmware may be barred from does what it does, or is told of. -/
theorem uses_byMaster {master off : Nat} {w : M Unit} (hw : Uses S w) (h : ActKind.reg ∈ S) (g : ActKind.event ∈ S) : Uses S (byMaster master off w) :=
  uses_ite (uses_raise _ _ _ _ h g) hw

/-- A write of a register changes registers, shadows and holding registers, and may raise events. -/
theorem uses_regWrite (master off value : Nat) (h : ActKind.reg ∈ S) (g : ActKind.event ∈ S) (w : ActKind.shadow ∈ S) (d : ActKind.hold ∈ S) :
    Uses S (regWrite master off value) := by
  have tail : ∀ (k off v : Nat) (hit : RegHit),
      Uses S (act (.hold k none) >>= fun _ => commitReg master hit off v) := fun _ _ _ _ => uses_bind (uses_act d) (fun _ => uses_commitReg _ _ _ _ h g w)
  unfold regWrite
  split
  · exact uses_raise _ _ _ _ h g
  · refine uses_byMaster ?_ h g
    split
    · exact uses_commitReg _ _ _ _ h g w
    · exact uses_act d
    · refine uses_bind (uses_look _) (fun held => ?_)
      split
      · exact uses_bind (uses_commitReg _ _ _ _ h g w) (fun _ => tail _ _ _ _)
      · exact tail _ _ _ _

/-- Counting hub traffic changes registers alone. -/
theorem uses_pmuHubEach (ev : Nat) (priv master cls : Option Nat) (l : List (Nat × Nat)) (h : ActKind.reg ∈ S) : Uses S (pmuHubEach ev priv master cls l) := by
  unfold pmuHubEach
  split
  · exact uses_pure _
  · exact uses_bind (uses_look _) (fun _ =>
      uses_bind (uses_forIn _ _ (fun x _ => uses_bind (uses_pmuAdd _ _ h) (fun _ => uses_pure _))) (fun _ => uses_pure _))
theorem uses_trafficOf (write : Bool) (a lines : Nat) (priv master cls : Option Nat) (h : ActKind.reg ∈ S) :
    Uses S (trafficOf write a lines priv master cls) := by
  unfold trafficOf
  split
  · exact uses_pure _
  · exact uses_ite (uses_bind (uses_pmuHubEach _ _ _ _ _ h) (fun _ => uses_pmuHubEach _ _ _ _ _ h)) (uses_ite (uses_pmuHubEach _ _ _ _ _ h) (uses_pure _))
theorem uses_byteTraffic (write : Bool) (a n : Nat) (priv master cls : Option Nat) (h : ActKind.reg ∈ S) :
    Uses S (byteTraffic write a n priv master cls) := uses_ite (uses_pure _) (uses_trafficOf _ _ _ _ _ _ h)

theorem uses_memWrite (a : Nat) (bs : List Byte) (h : ActKind.write ∈ S) : Uses S (memWrite a bs) := uses_act h
/-- A write of the hub's writes memory, and counts what an isolated stack does not take. -/
theorem uses_tierWrite (a : Nat) (bs : List Byte) (h : ActKind.write ∈ S) (c : ActKind.cx ∈ S) : Uses S (tierWrite a bs) := by
  unfold tierWrite
  refine uses_bind (uses_look _) (fun _ => uses_ite (uses_act h) ?_)
  exact uses_bind (uses_forIn _ _ (fun x _ => uses_bind (uses_act h) (fun _ => uses_pure _)))
    (fun _ => uses_bind (uses_forIn _ _ (fun x _ => uses_bind (uses_act c) (fun _ => uses_pure _))) (fun _ => uses_pure _))
theorem uses_poisonLine (a : Nat) (h : ActKind.poison ∈ S) : Uses S (poisonLine a) := by
  unfold poisonLine
  split
  · exact uses_act h
  · refine uses_ite (uses_act h) (uses_ite ?_ (uses_pure _))
    exact uses_bind (uses_act h) (fun _ => uses_bind (uses_act h) (fun _ => uses_act h))

end

end Sys2Proof.Machine
end

