-- ==== Sys2Proof/Laws/State.lean ====
section
/-! SUPPORT. What each elementary change leaves of each part of the state: one lemma for each change and field, true by definition; and what it puts into
the field it changes. -/

namespace Sys2Proof.Machine

section
variable (s : State) (t : Nat)
@[simp] theorem apply_time_regs : ((Act.time t).apply s).regs = s.regs := rfl
@[simp] theorem apply_time_shadows : ((Act.time t).apply s).shadows = s.shadows := rfl
@[simp] theorem apply_time_latches : ((Act.time t).apply s).latches = s.latches := rfl
@[simp] theorem apply_time_holds : ((Act.time t).apply s).holds = s.holds := rfl
@[simp] theorem apply_time_mem : ((Act.time t).apply s).mem = s.mem := rfl
@[simp] theorem apply_time_undef : ((Act.time t).apply s).undef = s.undef := rfl
@[simp] theorem apply_time_epoch : ((Act.time t).apply s).epoch = s.epoch := rfl
@[simp] theorem apply_time_poison0 : ((Act.time t).apply s).poison0 = s.poison0 := rfl
@[simp] theorem apply_time_poison1 : ((Act.time t).apply s).poison1 = s.poison1 := rfl
@[simp] theorem apply_time_poison2 : ((Act.time t).apply s).poison2 = s.poison2 := rfl
@[simp] theorem apply_time_events : ((Act.time t).apply s).events = s.events := rfl
@[simp] theorem apply_time_evSeq : ((Act.time t).apply s).evSeq = s.evSeq := rfl
@[simp] theorem apply_time_out : ((Act.time t).apply s).out = s.out := rfl
@[simp] theorem apply_time_freeCount : ((Act.time t).apply s).freeCount = s.freeCount := rfl
@[simp] theorem apply_time_tiles : ((Act.time t).apply s).tiles = s.tiles := rfl
@[simp] theorem apply_time_phys : ((Act.time t).apply s).phys = s.phys := rfl
@[simp] theorem apply_time_reel : ((Act.time t).apply s).reel = s.reel := rfl
@[simp] theorem apply_time_job : ((Act.time t).apply s).job = s.job := rfl
@[simp] theorem apply_time_upd : ((Act.time t).apply s).upd = s.upd := rfl
@[simp] theorem apply_time_coll : ((Act.time t).apply s).coll = s.coll := rfl
@[simp] theorem apply_time_nrt : ((Act.time t).apply s).nrt = s.nrt := rfl
@[simp] theorem apply_time_ports : ((Act.time t).apply s).ports = s.ports := rfl
@[simp] theorem apply_time_hub : ((Act.time t).apply s).hub = s.hub := rfl
@[simp] theorem apply_time_host : ((Act.time t).apply s).host = s.host := rfl
@[simp] theorem apply_time_cx : ((Act.time t).apply s).cx = s.cx := rfl
@[simp] theorem apply_time_pwr : ((Act.time t).apply s).pwr = s.pwr := rfl
@[simp] theorem apply_time_rst : ((Act.time t).apply s).rst = s.rst := rfl
@[simp] theorem apply_time_pending : ((Act.time t).apply s).pending = s.pending := rfl
end

section
variable (s : State) (off : Nat) (v : W32)
@[simp] theorem apply_reg_time : ((Act.reg off v).apply s).time = s.time := rfl
@[simp] theorem apply_reg_shadows : ((Act.reg off v).apply s).shadows = s.shadows := rfl
@[simp] theorem apply_reg_latches : ((Act.reg off v).apply s).latches = s.latches := rfl
@[simp] theorem apply_reg_holds : ((Act.reg off v).apply s).holds = s.holds := rfl
@[simp] theorem apply_reg_mem : ((Act.reg off v).apply s).mem = s.mem := rfl
@[simp] theorem apply_reg_undef : ((Act.reg off v).apply s).undef = s.undef := rfl
@[simp] theorem apply_reg_epoch : ((Act.reg off v).apply s).epoch = s.epoch := rfl
@[simp] theorem apply_reg_poison0 : ((Act.reg off v).apply s).poison0 = s.poison0 := rfl
@[simp] theorem apply_reg_poison1 : ((Act.reg off v).apply s).poison1 = s.poison1 := rfl
@[simp] theorem apply_reg_poison2 : ((Act.reg off v).apply s).poison2 = s.poison2 := rfl
@[simp] theorem apply_reg_events : ((Act.reg off v).apply s).events = s.events := rfl
@[simp] theorem apply_reg_evSeq : ((Act.reg off v).apply s).evSeq = s.evSeq := rfl
@[simp] theorem apply_reg_out : ((Act.reg off v).apply s).out = s.out := rfl
@[simp] theorem apply_reg_freeCount : ((Act.reg off v).apply s).freeCount = s.freeCount := rfl
@[simp] theorem apply_reg_tiles : ((Act.reg off v).apply s).tiles = s.tiles := rfl
@[simp] theorem apply_reg_phys : ((Act.reg off v).apply s).phys = s.phys := rfl
@[simp] theorem apply_reg_reel : ((Act.reg off v).apply s).reel = s.reel := rfl
@[simp] theorem apply_reg_job : ((Act.reg off v).apply s).job = s.job := rfl
@[simp] theorem apply_reg_upd : ((Act.reg off v).apply s).upd = s.upd := rfl
@[simp] theorem apply_reg_coll : ((Act.reg off v).apply s).coll = s.coll := rfl
@[simp] theorem apply_reg_nrt : ((Act.reg off v).apply s).nrt = s.nrt := rfl
@[simp] theorem apply_reg_ports : ((Act.reg off v).apply s).ports = s.ports := rfl
@[simp] theorem apply_reg_hub : ((Act.reg off v).apply s).hub = s.hub := rfl
@[simp] theorem apply_reg_host : ((Act.reg off v).apply s).host = s.host := rfl
@[simp] theorem apply_reg_cx : ((Act.reg off v).apply s).cx = s.cx := rfl
@[simp] theorem apply_reg_pwr : ((Act.reg off v).apply s).pwr = s.pwr := rfl
@[simp] theorem apply_reg_rst : ((Act.reg off v).apply s).rst = s.rst := rfl
@[simp] theorem apply_reg_pending : ((Act.reg off v).apply s).pending = s.pending := rfl
end

section
variable (s : State) (k : Nat) (v : Option W32)
@[simp] theorem apply_shadow_time : ((Act.shadow k v).apply s).time = s.time := rfl
@[simp] theorem apply_shadow_regs : ((Act.shadow k v).apply s).regs = s.regs := rfl
@[simp] theorem apply_shadow_latches : ((Act.shadow k v).apply s).latches = s.latches := rfl
@[simp] theorem apply_shadow_holds : ((Act.shadow k v).apply s).holds = s.holds := rfl
@[simp] theorem apply_shadow_mem : ((Act.shadow k v).apply s).mem = s.mem := rfl
@[simp] theorem apply_shadow_undef : ((Act.shadow k v).apply s).undef = s.undef := rfl
@[simp] theorem apply_shadow_epoch : ((Act.shadow k v).apply s).epoch = s.epoch := rfl
@[simp] theorem apply_shadow_poison0 : ((Act.shadow k v).apply s).poison0 = s.poison0 := rfl
@[simp] theorem apply_shadow_poison1 : ((Act.shadow k v).apply s).poison1 = s.poison1 := rfl
@[simp] theorem apply_shadow_poison2 : ((Act.shadow k v).apply s).poison2 = s.poison2 := rfl
@[simp] theorem apply_shadow_events : ((Act.shadow k v).apply s).events = s.events := rfl
@[simp] theorem apply_shadow_evSeq : ((Act.shadow k v).apply s).evSeq = s.evSeq := rfl
@[simp] theorem apply_shadow_out : ((Act.shadow k v).apply s).out = s.out := rfl
@[simp] theorem apply_shadow_freeCount : ((Act.shadow k v).apply s).freeCount = s.freeCount := rfl
@[simp] theorem apply_shadow_tiles : ((Act.shadow k v).apply s).tiles = s.tiles := rfl
@[simp] theorem apply_shadow_phys : ((Act.shadow k v).apply s).phys = s.phys := rfl
@[simp] theorem apply_shadow_reel : ((Act.shadow k v).apply s).reel = s.reel := rfl
@[simp] theorem apply_shadow_job : ((Act.shadow k v).apply s).job = s.job := rfl
@[simp] theorem apply_shadow_upd : ((Act.shadow k v).apply s).upd = s.upd := rfl
@[simp] theorem apply_shadow_coll : ((Act.shadow k v).apply s).coll = s.coll := rfl
@[simp] theorem apply_shadow_nrt : ((Act.shadow k v).apply s).nrt = s.nrt := rfl
@[simp] theorem apply_shadow_ports : ((Act.shadow k v).apply s).ports = s.ports := rfl
@[simp] theorem apply_shadow_hub : ((Act.shadow k v).apply s).hub = s.hub := rfl
@[simp] theorem apply_shadow_host : ((Act.shadow k v).apply s).host = s.host := rfl
@[simp] theorem apply_shadow_cx : ((Act.shadow k v).apply s).cx = s.cx := rfl
@[simp] theorem apply_shadow_pwr : ((Act.shadow k v).apply s).pwr = s.pwr := rfl
@[simp] theorem apply_shadow_rst : ((Act.shadow k v).apply s).rst = s.rst := rfl
@[simp] theorem apply_shadow_pending : ((Act.shadow k v).apply s).pending = s.pending := rfl
end

section
variable (s : State) (k : Nat) (v : Option W32)
@[simp] theorem apply_latch_time : ((Act.latch k v).apply s).time = s.time := rfl
@[simp] theorem apply_latch_regs : ((Act.latch k v).apply s).regs = s.regs := rfl
@[simp] theorem apply_latch_shadows : ((Act.latch k v).apply s).shadows = s.shadows := rfl
@[simp] theorem apply_latch_holds : ((Act.latch k v).apply s).holds = s.holds := rfl
@[simp] theorem apply_latch_mem : ((Act.latch k v).apply s).mem = s.mem := rfl
@[simp] theorem apply_latch_undef : ((Act.latch k v).apply s).undef = s.undef := rfl
@[simp] theorem apply_latch_epoch : ((Act.latch k v).apply s).epoch = s.epoch := rfl
@[simp] theorem apply_latch_poison0 : ((Act.latch k v).apply s).poison0 = s.poison0 := rfl
@[simp] theorem apply_latch_poison1 : ((Act.latch k v).apply s).poison1 = s.poison1 := rfl
@[simp] theorem apply_latch_poison2 : ((Act.latch k v).apply s).poison2 = s.poison2 := rfl
@[simp] theorem apply_latch_events : ((Act.latch k v).apply s).events = s.events := rfl
@[simp] theorem apply_latch_evSeq : ((Act.latch k v).apply s).evSeq = s.evSeq := rfl
@[simp] theorem apply_latch_out : ((Act.latch k v).apply s).out = s.out := rfl
@[simp] theorem apply_latch_freeCount : ((Act.latch k v).apply s).freeCount = s.freeCount := rfl
@[simp] theorem apply_latch_tiles : ((Act.latch k v).apply s).tiles = s.tiles := rfl
@[simp] theorem apply_latch_phys : ((Act.latch k v).apply s).phys = s.phys := rfl
@[simp] theorem apply_latch_reel : ((Act.latch k v).apply s).reel = s.reel := rfl
@[simp] theorem apply_latch_job : ((Act.latch k v).apply s).job = s.job := rfl
@[simp] theorem apply_latch_upd : ((Act.latch k v).apply s).upd = s.upd := rfl
@[simp] theorem apply_latch_coll : ((Act.latch k v).apply s).coll = s.coll := rfl
@[simp] theorem apply_latch_nrt : ((Act.latch k v).apply s).nrt = s.nrt := rfl
@[simp] theorem apply_latch_ports : ((Act.latch k v).apply s).ports = s.ports := rfl
@[simp] theorem apply_latch_hub : ((Act.latch k v).apply s).hub = s.hub := rfl
@[simp] theorem apply_latch_host : ((Act.latch k v).apply s).host = s.host := rfl
@[simp] theorem apply_latch_cx : ((Act.latch k v).apply s).cx = s.cx := rfl
@[simp] theorem apply_latch_pwr : ((Act.latch k v).apply s).pwr = s.pwr := rfl
@[simp] theorem apply_latch_rst : ((Act.latch k v).apply s).rst = s.rst := rfl
@[simp] theorem apply_latch_pending : ((Act.latch k v).apply s).pending = s.pending := rfl
end

section
variable (s : State) (k : Nat) (v : Option W32)
@[simp] theorem apply_hold_time : ((Act.hold k v).apply s).time = s.time := rfl
@[simp] theorem apply_hold_regs : ((Act.hold k v).apply s).regs = s.regs := rfl
@[simp] theorem apply_hold_shadows : ((Act.hold k v).apply s).shadows = s.shadows := rfl
@[simp] theorem apply_hold_latches : ((Act.hold k v).apply s).latches = s.latches := rfl
@[simp] theorem apply_hold_mem : ((Act.hold k v).apply s).mem = s.mem := rfl
@[simp] theorem apply_hold_undef : ((Act.hold k v).apply s).undef = s.undef := rfl
@[simp] theorem apply_hold_epoch : ((Act.hold k v).apply s).epoch = s.epoch := rfl
@[simp] theorem apply_hold_poison0 : ((Act.hold k v).apply s).poison0 = s.poison0 := rfl
@[simp] theorem apply_hold_poison1 : ((Act.hold k v).apply s).poison1 = s.poison1 := rfl
@[simp] theorem apply_hold_poison2 : ((Act.hold k v).apply s).poison2 = s.poison2 := rfl
@[simp] theorem apply_hold_events : ((Act.hold k v).apply s).events = s.events := rfl
@[simp] theorem apply_hold_evSeq : ((Act.hold k v).apply s).evSeq = s.evSeq := rfl
@[simp] theorem apply_hold_out : ((Act.hold k v).apply s).out = s.out := rfl
@[simp] theorem apply_hold_freeCount : ((Act.hold k v).apply s).freeCount = s.freeCount := rfl
@[simp] theorem apply_hold_tiles : ((Act.hold k v).apply s).tiles = s.tiles := rfl
@[simp] theorem apply_hold_phys : ((Act.hold k v).apply s).phys = s.phys := rfl
@[simp] theorem apply_hold_reel : ((Act.hold k v).apply s).reel = s.reel := rfl
@[simp] theorem apply_hold_job : ((Act.hold k v).apply s).job = s.job := rfl
@[simp] theorem apply_hold_upd : ((Act.hold k v).apply s).upd = s.upd := rfl
@[simp] theorem apply_hold_coll : ((Act.hold k v).apply s).coll = s.coll := rfl
@[simp] theorem apply_hold_nrt : ((Act.hold k v).apply s).nrt = s.nrt := rfl
@[simp] theorem apply_hold_ports : ((Act.hold k v).apply s).ports = s.ports := rfl
@[simp] theorem apply_hold_hub : ((Act.hold k v).apply s).hub = s.hub := rfl
@[simp] theorem apply_hold_host : ((Act.hold k v).apply s).host = s.host := rfl
@[simp] theorem apply_hold_cx : ((Act.hold k v).apply s).cx = s.cx := rfl
@[simp] theorem apply_hold_pwr : ((Act.hold k v).apply s).pwr = s.pwr := rfl
@[simp] theorem apply_hold_rst : ((Act.hold k v).apply s).rst = s.rst := rfl
@[simp] theorem apply_hold_pending : ((Act.hold k v).apply s).pending = s.pending := rfl
end

section
variable (s : State) (k : Nat)
@[simp] theorem apply_undefStack_time : ((Act.undefStack k).apply s).time = s.time := rfl
@[simp] theorem apply_undefStack_regs : ((Act.undefStack k).apply s).regs = s.regs := rfl
@[simp] theorem apply_undefStack_shadows : ((Act.undefStack k).apply s).shadows = s.shadows := rfl
@[simp] theorem apply_undefStack_latches : ((Act.undefStack k).apply s).latches = s.latches := rfl
@[simp] theorem apply_undefStack_holds : ((Act.undefStack k).apply s).holds = s.holds := rfl
@[simp] theorem apply_undefStack_poison0 : ((Act.undefStack k).apply s).poison0 = s.poison0 := rfl
@[simp] theorem apply_undefStack_poison2 : ((Act.undefStack k).apply s).poison2 = s.poison2 := rfl
@[simp] theorem apply_undefStack_events : ((Act.undefStack k).apply s).events = s.events := rfl
@[simp] theorem apply_undefStack_evSeq : ((Act.undefStack k).apply s).evSeq = s.evSeq := rfl
@[simp] theorem apply_undefStack_out : ((Act.undefStack k).apply s).out = s.out := rfl
@[simp] theorem apply_undefStack_freeCount : ((Act.undefStack k).apply s).freeCount = s.freeCount := rfl
@[simp] theorem apply_undefStack_tiles : ((Act.undefStack k).apply s).tiles = s.tiles := rfl
@[simp] theorem apply_undefStack_phys : ((Act.undefStack k).apply s).phys = s.phys := rfl
@[simp] theorem apply_undefStack_reel : ((Act.undefStack k).apply s).reel = s.reel := rfl
@[simp] theorem apply_undefStack_job : ((Act.undefStack k).apply s).job = s.job := rfl
@[simp] theorem apply_undefStack_upd : ((Act.undefStack k).apply s).upd = s.upd := rfl
@[simp] theorem apply_undefStack_coll : ((Act.undefStack k).apply s).coll = s.coll := rfl
@[simp] theorem apply_undefStack_nrt : ((Act.undefStack k).apply s).nrt = s.nrt := rfl
@[simp] theorem apply_undefStack_ports : ((Act.undefStack k).apply s).ports = s.ports := rfl
@[simp] theorem apply_undefStack_hub : ((Act.undefStack k).apply s).hub = s.hub := rfl
@[simp] theorem apply_undefStack_host : ((Act.undefStack k).apply s).host = s.host := rfl
@[simp] theorem apply_undefStack_cx : ((Act.undefStack k).apply s).cx = s.cx := rfl
@[simp] theorem apply_undefStack_pwr : ((Act.undefStack k).apply s).pwr = s.pwr := rfl
@[simp] theorem apply_undefStack_rst : ((Act.undefStack k).apply s).rst = s.rst := rfl
@[simp] theorem apply_undefStack_pending : ((Act.undefStack k).apply s).pending = s.pending := rfl
end

section
variable (s : State) (k : Nat) (b : Bool)
@[simp] theorem apply_poison0_time : ((Act.poison0 k b).apply s).time = s.time := rfl
@[simp] theorem apply_poison0_regs : ((Act.poison0 k b).apply s).regs = s.regs := rfl
@[simp] theorem apply_poison0_shadows : ((Act.poison0 k b).apply s).shadows = s.shadows := rfl
@[simp] theorem apply_poison0_latches : ((Act.poison0 k b).apply s).latches = s.latches := rfl
@[simp] theorem apply_poison0_holds : ((Act.poison0 k b).apply s).holds = s.holds := rfl
@[simp] theorem apply_poison0_mem : ((Act.poison0 k b).apply s).mem = s.mem := rfl
@[simp] theorem apply_poison0_undef : ((Act.poison0 k b).apply s).undef = s.undef := rfl
@[simp] theorem apply_poison0_epoch : ((Act.poison0 k b).apply s).epoch = s.epoch := rfl
@[simp] theorem apply_poison0_poison1 : ((Act.poison0 k b).apply s).poison1 = s.poison1 := rfl
@[simp] theorem apply_poison0_poison2 : ((Act.poison0 k b).apply s).poison2 = s.poison2 := rfl
@[simp] theorem apply_poison0_events : ((Act.poison0 k b).apply s).events = s.events := rfl
@[simp] theorem apply_poison0_evSeq : ((Act.poison0 k b).apply s).evSeq = s.evSeq := rfl
@[simp] theorem apply_poison0_out : ((Act.poison0 k b).apply s).out = s.out := rfl
@[simp] theorem apply_poison0_freeCount : ((Act.poison0 k b).apply s).freeCount = s.freeCount := rfl
@[simp] theorem apply_poison0_tiles : ((Act.poison0 k b).apply s).tiles = s.tiles := rfl
@[simp] theorem apply_poison0_phys : ((Act.poison0 k b).apply s).phys = s.phys := rfl
@[simp] theorem apply_poison0_reel : ((Act.poison0 k b).apply s).reel = s.reel := rfl
@[simp] theorem apply_poison0_job : ((Act.poison0 k b).apply s).job = s.job := rfl
@[simp] theorem apply_poison0_upd : ((Act.poison0 k b).apply s).upd = s.upd := rfl
@[simp] theorem apply_poison0_coll : ((Act.poison0 k b).apply s).coll = s.coll := rfl
@[simp] theorem apply_poison0_nrt : ((Act.poison0 k b).apply s).nrt = s.nrt := rfl
@[simp] theorem apply_poison0_ports : ((Act.poison0 k b).apply s).ports = s.ports := rfl
@[simp] theorem apply_poison0_hub : ((Act.poison0 k b).apply s).hub = s.hub := rfl
@[simp] theorem apply_poison0_host : ((Act.poison0 k b).apply s).host = s.host := rfl
@[simp] theorem apply_poison0_cx : ((Act.poison0 k b).apply s).cx = s.cx := rfl
@[simp] theorem apply_poison0_pwr : ((Act.poison0 k b).apply s).pwr = s.pwr := rfl
@[simp] theorem apply_poison0_rst : ((Act.poison0 k b).apply s).rst = s.rst := rfl
@[simp] theorem apply_poison0_pending : ((Act.poison0 k b).apply s).pending = s.pending := rfl
end

section
variable (s : State) (k : Nat) (b : Bool)
@[simp] theorem apply_poison1_time : ((Act.poison1 k b).apply s).time = s.time := rfl
@[simp] theorem apply_poison1_regs : ((Act.poison1 k b).apply s).regs = s.regs := rfl
@[simp] theorem apply_poison1_shadows : ((Act.poison1 k b).apply s).shadows = s.shadows := rfl
@[simp] theorem apply_poison1_latches : ((Act.poison1 k b).apply s).latches = s.latches := rfl
@[simp] theorem apply_poison1_holds : ((Act.poison1 k b).apply s).holds = s.holds := rfl
@[simp] theorem apply_poison1_mem : ((Act.poison1 k b).apply s).mem = s.mem := rfl
@[simp] theorem apply_poison1_undef : ((Act.poison1 k b).apply s).undef = s.undef := rfl
@[simp] theorem apply_poison1_epoch : ((Act.poison1 k b).apply s).epoch = s.epoch := rfl
@[simp] theorem apply_poison1_poison0 : ((Act.poison1 k b).apply s).poison0 = s.poison0 := rfl
@[simp] theorem apply_poison1_poison2 : ((Act.poison1 k b).apply s).poison2 = s.poison2 := rfl
@[simp] theorem apply_poison1_events : ((Act.poison1 k b).apply s).events = s.events := rfl
@[simp] theorem apply_poison1_evSeq : ((Act.poison1 k b).apply s).evSeq = s.evSeq := rfl
@[simp] theorem apply_poison1_out : ((Act.poison1 k b).apply s).out = s.out := rfl
@[simp] theorem apply_poison1_freeCount : ((Act.poison1 k b).apply s).freeCount = s.freeCount := rfl
@[simp] theorem apply_poison1_tiles : ((Act.poison1 k b).apply s).tiles = s.tiles := rfl
@[simp] theorem apply_poison1_phys : ((Act.poison1 k b).apply s).phys = s.phys := rfl
@[simp] theorem apply_poison1_reel : ((Act.poison1 k b).apply s).reel = s.reel := rfl
@[simp] theorem apply_poison1_job : ((Act.poison1 k b).apply s).job = s.job := rfl
@[simp] theorem apply_poison1_upd : ((Act.poison1 k b).apply s).upd = s.upd := rfl
@[simp] theorem apply_poison1_coll : ((Act.poison1 k b).apply s).coll = s.coll := rfl
@[simp] theorem apply_poison1_nrt : ((Act.poison1 k b).apply s).nrt = s.nrt := rfl
@[simp] theorem apply_poison1_ports : ((Act.poison1 k b).apply s).ports = s.ports := rfl
@[simp] theorem apply_poison1_hub : ((Act.poison1 k b).apply s).hub = s.hub := rfl
@[simp] theorem apply_poison1_host : ((Act.poison1 k b).apply s).host = s.host := rfl
@[simp] theorem apply_poison1_cx : ((Act.poison1 k b).apply s).cx = s.cx := rfl
@[simp] theorem apply_poison1_pwr : ((Act.poison1 k b).apply s).pwr = s.pwr := rfl
@[simp] theorem apply_poison1_rst : ((Act.poison1 k b).apply s).rst = s.rst := rfl
@[simp] theorem apply_poison1_pending : ((Act.poison1 k b).apply s).pending = s.pending := rfl
end

section
variable (s : State) (k : Nat) (b : Bool)
@[simp] theorem apply_poison2_time : ((Act.poison2 k b).apply s).time = s.time := rfl
@[simp] theorem apply_poison2_regs : ((Act.poison2 k b).apply s).regs = s.regs := rfl
@[simp] theorem apply_poison2_shadows : ((Act.poison2 k b).apply s).shadows = s.shadows := rfl
@[simp] theorem apply_poison2_latches : ((Act.poison2 k b).apply s).latches = s.latches := rfl
@[simp] theorem apply_poison2_holds : ((Act.poison2 k b).apply s).holds = s.holds := rfl
@[simp] theorem apply_poison2_mem : ((Act.poison2 k b).apply s).mem = s.mem := rfl
@[simp] theorem apply_poison2_undef : ((Act.poison2 k b).apply s).undef = s.undef := rfl
@[simp] theorem apply_poison2_epoch : ((Act.poison2 k b).apply s).epoch = s.epoch := rfl
@[simp] theorem apply_poison2_poison0 : ((Act.poison2 k b).apply s).poison0 = s.poison0 := rfl
@[simp] theorem apply_poison2_poison1 : ((Act.poison2 k b).apply s).poison1 = s.poison1 := rfl
@[simp] theorem apply_poison2_events : ((Act.poison2 k b).apply s).events = s.events := rfl
@[simp] theorem apply_poison2_evSeq : ((Act.poison2 k b).apply s).evSeq = s.evSeq := rfl
@[simp] theorem apply_poison2_out : ((Act.poison2 k b).apply s).out = s.out := rfl
@[simp] theorem apply_poison2_freeCount : ((Act.poison2 k b).apply s).freeCount = s.freeCount := rfl
@[simp] theorem apply_poison2_tiles : ((Act.poison2 k b).apply s).tiles = s.tiles := rfl
@[simp] theorem apply_poison2_phys : ((Act.poison2 k b).apply s).phys = s.phys := rfl
@[simp] theorem apply_poison2_reel : ((Act.poison2 k b).apply s).reel = s.reel := rfl
@[simp] theorem apply_poison2_job : ((Act.poison2 k b).apply s).job = s.job := rfl
@[simp] theorem apply_poison2_upd : ((Act.poison2 k b).apply s).upd = s.upd := rfl
@[simp] theorem apply_poison2_coll : ((Act.poison2 k b).apply s).coll = s.coll := rfl
@[simp] theorem apply_poison2_nrt : ((Act.poison2 k b).apply s).nrt = s.nrt := rfl
@[simp] theorem apply_poison2_ports : ((Act.poison2 k b).apply s).ports = s.ports := rfl
@[simp] theorem apply_poison2_hub : ((Act.poison2 k b).apply s).hub = s.hub := rfl
@[simp] theorem apply_poison2_host : ((Act.poison2 k b).apply s).host = s.host := rfl
@[simp] theorem apply_poison2_cx : ((Act.poison2 k b).apply s).cx = s.cx := rfl
@[simp] theorem apply_poison2_pwr : ((Act.poison2 k b).apply s).pwr = s.pwr := rfl
@[simp] theorem apply_poison2_rst : ((Act.poison2 k b).apply s).rst = s.rst := rfl
@[simp] theorem apply_poison2_pending : ((Act.poison2 k b).apply s).pending = s.pending := rfl
end

section
variable (s : State) (o : Out)
@[simp] theorem apply_out_time : ((Act.out o).apply s).time = s.time := rfl
@[simp] theorem apply_out_regs : ((Act.out o).apply s).regs = s.regs := rfl
@[simp] theorem apply_out_shadows : ((Act.out o).apply s).shadows = s.shadows := rfl
@[simp] theorem apply_out_latches : ((Act.out o).apply s).latches = s.latches := rfl
@[simp] theorem apply_out_holds : ((Act.out o).apply s).holds = s.holds := rfl
@[simp] theorem apply_out_mem : ((Act.out o).apply s).mem = s.mem := rfl
@[simp] theorem apply_out_undef : ((Act.out o).apply s).undef = s.undef := rfl
@[simp] theorem apply_out_epoch : ((Act.out o).apply s).epoch = s.epoch := rfl
@[simp] theorem apply_out_poison0 : ((Act.out o).apply s).poison0 = s.poison0 := rfl
@[simp] theorem apply_out_poison1 : ((Act.out o).apply s).poison1 = s.poison1 := rfl
@[simp] theorem apply_out_poison2 : ((Act.out o).apply s).poison2 = s.poison2 := rfl
@[simp] theorem apply_out_events : ((Act.out o).apply s).events = s.events := rfl
@[simp] theorem apply_out_evSeq : ((Act.out o).apply s).evSeq = s.evSeq := rfl
@[simp] theorem apply_out_freeCount : ((Act.out o).apply s).freeCount = s.freeCount := rfl
@[simp] theorem apply_out_tiles : ((Act.out o).apply s).tiles = s.tiles := rfl
@[simp] theorem apply_out_phys : ((Act.out o).apply s).phys = s.phys := rfl
@[simp] theorem apply_out_reel : ((Act.out o).apply s).reel = s.reel := rfl
@[simp] theorem apply_out_job : ((Act.out o).apply s).job = s.job := rfl
@[simp] theorem apply_out_upd : ((Act.out o).apply s).upd = s.upd := rfl
@[simp] theorem apply_out_coll : ((Act.out o).apply s).coll = s.coll := rfl
@[simp] theorem apply_out_nrt : ((Act.out o).apply s).nrt = s.nrt := rfl
@[simp] theorem apply_out_ports : ((Act.out o).apply s).ports = s.ports := rfl
@[simp] theorem apply_out_hub : ((Act.out o).apply s).hub = s.hub := rfl
@[simp] theorem apply_out_host : ((Act.out o).apply s).host = s.host := rfl
@[simp] theorem apply_out_cx : ((Act.out o).apply s).cx = s.cx := rfl
@[simp] theorem apply_out_pwr : ((Act.out o).apply s).pwr = s.pwr := rfl
@[simp] theorem apply_out_rst : ((Act.out o).apply s).rst = s.rst := rfl
@[simp] theorem apply_out_pending : ((Act.out o).apply s).pending = s.pending := rfl
end

section
variable (s : State)
@[simp] theorem apply_free_time : (Act.free.apply s).time = s.time := rfl
@[simp] theorem apply_free_regs : (Act.free.apply s).regs = s.regs := rfl
@[simp] theorem apply_free_shadows : (Act.free.apply s).shadows = s.shadows := rfl
@[simp] theorem apply_free_latches : (Act.free.apply s).latches = s.latches := rfl
@[simp] theorem apply_free_holds : (Act.free.apply s).holds = s.holds := rfl
@[simp] theorem apply_free_mem : (Act.free.apply s).mem = s.mem := rfl
@[simp] theorem apply_free_undef : (Act.free.apply s).undef = s.undef := rfl
@[simp] theorem apply_free_epoch : (Act.free.apply s).epoch = s.epoch := rfl
@[simp] theorem apply_free_poison0 : (Act.free.apply s).poison0 = s.poison0 := rfl
@[simp] theorem apply_free_poison1 : (Act.free.apply s).poison1 = s.poison1 := rfl
@[simp] theorem apply_free_poison2 : (Act.free.apply s).poison2 = s.poison2 := rfl
@[simp] theorem apply_free_events : (Act.free.apply s).events = s.events := rfl
@[simp] theorem apply_free_evSeq : (Act.free.apply s).evSeq = s.evSeq := rfl
@[simp] theorem apply_free_out : (Act.free.apply s).out = s.out := rfl
@[simp] theorem apply_free_tiles : (Act.free.apply s).tiles = s.tiles := rfl
@[simp] theorem apply_free_phys : (Act.free.apply s).phys = s.phys := rfl
@[simp] theorem apply_free_reel : (Act.free.apply s).reel = s.reel := rfl
@[simp] theorem apply_free_job : (Act.free.apply s).job = s.job := rfl
@[simp] theorem apply_free_upd : (Act.free.apply s).upd = s.upd := rfl
@[simp] theorem apply_free_coll : (Act.free.apply s).coll = s.coll := rfl
@[simp] theorem apply_free_nrt : (Act.free.apply s).nrt = s.nrt := rfl
@[simp] theorem apply_free_ports : (Act.free.apply s).ports = s.ports := rfl
@[simp] theorem apply_free_hub : (Act.free.apply s).hub = s.hub := rfl
@[simp] theorem apply_free_host : (Act.free.apply s).host = s.host := rfl
@[simp] theorem apply_free_cx : (Act.free.apply s).cx = s.cx := rfl
@[simp] theorem apply_free_pwr : (Act.free.apply s).pwr = s.pwr := rfl
@[simp] theorem apply_free_rst : (Act.free.apply s).rst = s.rst := rfl
@[simp] theorem apply_free_pending : (Act.free.apply s).pending = s.pending := rfl
end

section
variable (s : State) (n : Nat) (f : Tile → Tile)
@[simp] theorem apply_tile_time : ((Act.tile n f).apply s).time = s.time := rfl
@[simp] theorem apply_tile_regs : ((Act.tile n f).apply s).regs = s.regs := rfl
@[simp] theorem apply_tile_shadows : ((Act.tile n f).apply s).shadows = s.shadows := rfl
@[simp] theorem apply_tile_latches : ((Act.tile n f).apply s).latches = s.latches := rfl
@[simp] theorem apply_tile_holds : ((Act.tile n f).apply s).holds = s.holds := rfl
@[simp] theorem apply_tile_mem : ((Act.tile n f).apply s).mem = s.mem := rfl
@[simp] theorem apply_tile_undef : ((Act.tile n f).apply s).undef = s.undef := rfl
@[simp] theorem apply_tile_epoch : ((Act.tile n f).apply s).epoch = s.epoch := rfl
@[simp] theorem apply_tile_poison0 : ((Act.tile n f).apply s).poison0 = s.poison0 := rfl
@[simp] theorem apply_tile_poison1 : ((Act.tile n f).apply s).poison1 = s.poison1 := rfl
@[simp] theorem apply_tile_poison2 : ((Act.tile n f).apply s).poison2 = s.poison2 := rfl
@[simp] theorem apply_tile_events : ((Act.tile n f).apply s).events = s.events := rfl
@[simp] theorem apply_tile_evSeq : ((Act.tile n f).apply s).evSeq = s.evSeq := rfl
@[simp] theorem apply_tile_out : ((Act.tile n f).apply s).out = s.out := rfl
@[simp] theorem apply_tile_freeCount : ((Act.tile n f).apply s).freeCount = s.freeCount := rfl
@[simp] theorem apply_tile_phys : ((Act.tile n f).apply s).phys = s.phys := rfl
@[simp] theorem apply_tile_reel : ((Act.tile n f).apply s).reel = s.reel := rfl
@[simp] theorem apply_tile_job : ((Act.tile n f).apply s).job = s.job := rfl
@[simp] theorem apply_tile_upd : ((Act.tile n f).apply s).upd = s.upd := rfl
@[simp] theorem apply_tile_coll : ((Act.tile n f).apply s).coll = s.coll := rfl
@[simp] theorem apply_tile_nrt : ((Act.tile n f).apply s).nrt = s.nrt := rfl
@[simp] theorem apply_tile_ports : ((Act.tile n f).apply s).ports = s.ports := rfl
@[simp] theorem apply_tile_hub : ((Act.tile n f).apply s).hub = s.hub := rfl
@[simp] theorem apply_tile_host : ((Act.tile n f).apply s).host = s.host := rfl
@[simp] theorem apply_tile_cx : ((Act.tile n f).apply s).cx = s.cx := rfl
@[simp] theorem apply_tile_pwr : ((Act.tile n f).apply s).pwr = s.pwr := rfl
@[simp] theorem apply_tile_rst : ((Act.tile n f).apply s).rst = s.rst := rfl
@[simp] theorem apply_tile_pending : ((Act.tile n f).apply s).pending = s.pending := rfl
end

section
variable (s : State) (p : Nat) (v : TilePower)
@[simp] theorem apply_phys_time : ((Act.phys p v).apply s).time = s.time := rfl
@[simp] theorem apply_phys_regs : ((Act.phys p v).apply s).regs = s.regs := rfl
@[simp] theorem apply_phys_shadows : ((Act.phys p v).apply s).shadows = s.shadows := rfl
@[simp] theorem apply_phys_latches : ((Act.phys p v).apply s).latches = s.latches := rfl
@[simp] theorem apply_phys_holds : ((Act.phys p v).apply s).holds = s.holds := rfl
@[simp] theorem apply_phys_mem : ((Act.phys p v).apply s).mem = s.mem := rfl
@[simp] theorem apply_phys_undef : ((Act.phys p v).apply s).undef = s.undef := rfl
@[simp] theorem apply_phys_epoch : ((Act.phys p v).apply s).epoch = s.epoch := rfl
@[simp] theorem apply_phys_poison0 : ((Act.phys p v).apply s).poison0 = s.poison0 := rfl
@[simp] theorem apply_phys_poison1 : ((Act.phys p v).apply s).poison1 = s.poison1 := rfl
@[simp] theorem apply_phys_poison2 : ((Act.phys p v).apply s).poison2 = s.poison2 := rfl
@[simp] theorem apply_phys_events : ((Act.phys p v).apply s).events = s.events := rfl
@[simp] theorem apply_phys_evSeq : ((Act.phys p v).apply s).evSeq = s.evSeq := rfl
@[simp] theorem apply_phys_out : ((Act.phys p v).apply s).out = s.out := rfl
@[simp] theorem apply_phys_freeCount : ((Act.phys p v).apply s).freeCount = s.freeCount := rfl
@[simp] theorem apply_phys_tiles : ((Act.phys p v).apply s).tiles = s.tiles := rfl
@[simp] theorem apply_phys_reel : ((Act.phys p v).apply s).reel = s.reel := rfl
@[simp] theorem apply_phys_job : ((Act.phys p v).apply s).job = s.job := rfl
@[simp] theorem apply_phys_upd : ((Act.phys p v).apply s).upd = s.upd := rfl
@[simp] theorem apply_phys_coll : ((Act.phys p v).apply s).coll = s.coll := rfl
@[simp] theorem apply_phys_nrt : ((Act.phys p v).apply s).nrt = s.nrt := rfl
@[simp] theorem apply_phys_ports : ((Act.phys p v).apply s).ports = s.ports := rfl
@[simp] theorem apply_phys_hub : ((Act.phys p v).apply s).hub = s.hub := rfl
@[simp] theorem apply_phys_host : ((Act.phys p v).apply s).host = s.host := rfl
@[simp] theorem apply_phys_cx : ((Act.phys p v).apply s).cx = s.cx := rfl
@[simp] theorem apply_phys_pwr : ((Act.phys p v).apply s).pwr = s.pwr := rfl
@[simp] theorem apply_phys_rst : ((Act.phys p v).apply s).rst = s.rst := rfl
@[simp] theorem apply_phys_pending : ((Act.phys p v).apply s).pending = s.pending := rfl
end

section
variable (s : State) (f : Reel → Reel)
@[simp] theorem apply_reel_time : ((Act.reel f).apply s).time = s.time := rfl
@[simp] theorem apply_reel_regs : ((Act.reel f).apply s).regs = s.regs := rfl
@[simp] theorem apply_reel_shadows : ((Act.reel f).apply s).shadows = s.shadows := rfl
@[simp] theorem apply_reel_latches : ((Act.reel f).apply s).latches = s.latches := rfl
@[simp] theorem apply_reel_holds : ((Act.reel f).apply s).holds = s.holds := rfl
@[simp] theorem apply_reel_mem : ((Act.reel f).apply s).mem = s.mem := rfl
@[simp] theorem apply_reel_undef : ((Act.reel f).apply s).undef = s.undef := rfl
@[simp] theorem apply_reel_epoch : ((Act.reel f).apply s).epoch = s.epoch := rfl
@[simp] theorem apply_reel_poison0 : ((Act.reel f).apply s).poison0 = s.poison0 := rfl
@[simp] theorem apply_reel_poison1 : ((Act.reel f).apply s).poison1 = s.poison1 := rfl
@[simp] theorem apply_reel_poison2 : ((Act.reel f).apply s).poison2 = s.poison2 := rfl
@[simp] theorem apply_reel_events : ((Act.reel f).apply s).events = s.events := rfl
@[simp] theorem apply_reel_evSeq : ((Act.reel f).apply s).evSeq = s.evSeq := rfl
@[simp] theorem apply_reel_out : ((Act.reel f).apply s).out = s.out := rfl
@[simp] theorem apply_reel_freeCount : ((Act.reel f).apply s).freeCount = s.freeCount := rfl
@[simp] theorem apply_reel_tiles : ((Act.reel f).apply s).tiles = s.tiles := rfl
@[simp] theorem apply_reel_phys : ((Act.reel f).apply s).phys = s.phys := rfl
@[simp] theorem apply_reel_job : ((Act.reel f).apply s).job = s.job := rfl
@[simp] theorem apply_reel_upd : ((Act.reel f).apply s).upd = s.upd := rfl
@[simp] theorem apply_reel_coll : ((Act.reel f).apply s).coll = s.coll := rfl
@[simp] theorem apply_reel_nrt : ((Act.reel f).apply s).nrt = s.nrt := rfl
@[simp] theorem apply_reel_ports : ((Act.reel f).apply s).ports = s.ports := rfl
@[simp] theorem apply_reel_hub : ((Act.reel f).apply s).hub = s.hub := rfl
@[simp] theorem apply_reel_host : ((Act.reel f).apply s).host = s.host := rfl
@[simp] theorem apply_reel_cx : ((Act.reel f).apply s).cx = s.cx := rfl
@[simp] theorem apply_reel_pwr : ((Act.reel f).apply s).pwr = s.pwr := rfl
@[simp] theorem apply_reel_rst : ((Act.reel f).apply s).rst = s.rst := rfl
@[simp] theorem apply_reel_pending : ((Act.reel f).apply s).pending = s.pending := rfl
end

section
variable (s : State) (f : Option Job → Option Job)
@[simp] theorem apply_job_time : ((Act.job f).apply s).time = s.time := rfl
@[simp] theorem apply_job_regs : ((Act.job f).apply s).regs = s.regs := rfl
@[simp] theorem apply_job_shadows : ((Act.job f).apply s).shadows = s.shadows := rfl
@[simp] theorem apply_job_latches : ((Act.job f).apply s).latches = s.latches := rfl
@[simp] theorem apply_job_holds : ((Act.job f).apply s).holds = s.holds := rfl
@[simp] theorem apply_job_mem : ((Act.job f).apply s).mem = s.mem := rfl
@[simp] theorem apply_job_undef : ((Act.job f).apply s).undef = s.undef := rfl
@[simp] theorem apply_job_epoch : ((Act.job f).apply s).epoch = s.epoch := rfl
@[simp] theorem apply_job_poison0 : ((Act.job f).apply s).poison0 = s.poison0 := rfl
@[simp] theorem apply_job_poison1 : ((Act.job f).apply s).poison1 = s.poison1 := rfl
@[simp] theorem apply_job_poison2 : ((Act.job f).apply s).poison2 = s.poison2 := rfl
@[simp] theorem apply_job_events : ((Act.job f).apply s).events = s.events := rfl
@[simp] theorem apply_job_evSeq : ((Act.job f).apply s).evSeq = s.evSeq := rfl
@[simp] theorem apply_job_out : ((Act.job f).apply s).out = s.out := rfl
@[simp] theorem apply_job_freeCount : ((Act.job f).apply s).freeCount = s.freeCount := rfl
@[simp] theorem apply_job_tiles : ((Act.job f).apply s).tiles = s.tiles := rfl
@[simp] theorem apply_job_phys : ((Act.job f).apply s).phys = s.phys := rfl
@[simp] theorem apply_job_reel : ((Act.job f).apply s).reel = s.reel := rfl
@[simp] theorem apply_job_upd : ((Act.job f).apply s).upd = s.upd := rfl
@[simp] theorem apply_job_coll : ((Act.job f).apply s).coll = s.coll := rfl
@[simp] theorem apply_job_nrt : ((Act.job f).apply s).nrt = s.nrt := rfl
@[simp] theorem apply_job_ports : ((Act.job f).apply s).ports = s.ports := rfl
@[simp] theorem apply_job_hub : ((Act.job f).apply s).hub = s.hub := rfl
@[simp] theorem apply_job_host : ((Act.job f).apply s).host = s.host := rfl
@[simp] theorem apply_job_cx : ((Act.job f).apply s).cx = s.cx := rfl
@[simp] theorem apply_job_pwr : ((Act.job f).apply s).pwr = s.pwr := rfl
@[simp] theorem apply_job_rst : ((Act.job f).apply s).rst = s.rst := rfl
@[simp] theorem apply_job_pending : ((Act.job f).apply s).pending = s.pending := rfl
end

section
variable (s : State) (f : Upd → Upd)
@[simp] theorem apply_upd_time : ((Act.upd f).apply s).time = s.time := rfl
@[simp] theorem apply_upd_regs : ((Act.upd f).apply s).regs = s.regs := rfl
@[simp] theorem apply_upd_shadows : ((Act.upd f).apply s).shadows = s.shadows := rfl
@[simp] theorem apply_upd_latches : ((Act.upd f).apply s).latches = s.latches := rfl
@[simp] theorem apply_upd_holds : ((Act.upd f).apply s).holds = s.holds := rfl
@[simp] theorem apply_upd_mem : ((Act.upd f).apply s).mem = s.mem := rfl
@[simp] theorem apply_upd_undef : ((Act.upd f).apply s).undef = s.undef := rfl
@[simp] theorem apply_upd_epoch : ((Act.upd f).apply s).epoch = s.epoch := rfl
@[simp] theorem apply_upd_poison0 : ((Act.upd f).apply s).poison0 = s.poison0 := rfl
@[simp] theorem apply_upd_poison1 : ((Act.upd f).apply s).poison1 = s.poison1 := rfl
@[simp] theorem apply_upd_poison2 : ((Act.upd f).apply s).poison2 = s.poison2 := rfl
@[simp] theorem apply_upd_events : ((Act.upd f).apply s).events = s.events := rfl
@[simp] theorem apply_upd_evSeq : ((Act.upd f).apply s).evSeq = s.evSeq := rfl
@[simp] theorem apply_upd_out : ((Act.upd f).apply s).out = s.out := rfl
@[simp] theorem apply_upd_freeCount : ((Act.upd f).apply s).freeCount = s.freeCount := rfl
@[simp] theorem apply_upd_tiles : ((Act.upd f).apply s).tiles = s.tiles := rfl
@[simp] theorem apply_upd_phys : ((Act.upd f).apply s).phys = s.phys := rfl
@[simp] theorem apply_upd_reel : ((Act.upd f).apply s).reel = s.reel := rfl
@[simp] theorem apply_upd_job : ((Act.upd f).apply s).job = s.job := rfl
@[simp] theorem apply_upd_coll : ((Act.upd f).apply s).coll = s.coll := rfl
@[simp] theorem apply_upd_nrt : ((Act.upd f).apply s).nrt = s.nrt := rfl
@[simp] theorem apply_upd_ports : ((Act.upd f).apply s).ports = s.ports := rfl
@[simp] theorem apply_upd_hub : ((Act.upd f).apply s).hub = s.hub := rfl
@[simp] theorem apply_upd_host : ((Act.upd f).apply s).host = s.host := rfl
@[simp] theorem apply_upd_cx : ((Act.upd f).apply s).cx = s.cx := rfl
@[simp] theorem apply_upd_pwr : ((Act.upd f).apply s).pwr = s.pwr := rfl
@[simp] theorem apply_upd_rst : ((Act.upd f).apply s).rst = s.rst := rfl
@[simp] theorem apply_upd_pending : ((Act.upd f).apply s).pending = s.pending := rfl
end

section
variable (s : State) (f : Coll → Coll)
@[simp] theorem apply_coll_time : ((Act.coll f).apply s).time = s.time := rfl
@[simp] theorem apply_coll_regs : ((Act.coll f).apply s).regs = s.regs := rfl
@[simp] theorem apply_coll_shadows : ((Act.coll f).apply s).shadows = s.shadows := rfl
@[simp] theorem apply_coll_latches : ((Act.coll f).apply s).latches = s.latches := rfl
@[simp] theorem apply_coll_holds : ((Act.coll f).apply s).holds = s.holds := rfl
@[simp] theorem apply_coll_mem : ((Act.coll f).apply s).mem = s.mem := rfl
@[simp] theorem apply_coll_undef : ((Act.coll f).apply s).undef = s.undef := rfl
@[simp] theorem apply_coll_epoch : ((Act.coll f).apply s).epoch = s.epoch := rfl
@[simp] theorem apply_coll_poison0 : ((Act.coll f).apply s).poison0 = s.poison0 := rfl
@[simp] theorem apply_coll_poison1 : ((Act.coll f).apply s).poison1 = s.poison1 := rfl
@[simp] theorem apply_coll_poison2 : ((Act.coll f).apply s).poison2 = s.poison2 := rfl
@[simp] theorem apply_coll_events : ((Act.coll f).apply s).events = s.events := rfl
@[simp] theorem apply_coll_evSeq : ((Act.coll f).apply s).evSeq = s.evSeq := rfl
@[simp] theorem apply_coll_out : ((Act.coll f).apply s).out = s.out := rfl
@[simp] theorem apply_coll_freeCount : ((Act.coll f).apply s).freeCount = s.freeCount := rfl
@[simp] theorem apply_coll_tiles : ((Act.coll f).apply s).tiles = s.tiles := rfl
@[simp] theorem apply_coll_phys : ((Act.coll f).apply s).phys = s.phys := rfl
@[simp] theorem apply_coll_reel : ((Act.coll f).apply s).reel = s.reel := rfl
@[simp] theorem apply_coll_job : ((Act.coll f).apply s).job = s.job := rfl
@[simp] theorem apply_coll_upd : ((Act.coll f).apply s).upd = s.upd := rfl
@[simp] theorem apply_coll_nrt : ((Act.coll f).apply s).nrt = s.nrt := rfl
@[simp] theorem apply_coll_ports : ((Act.coll f).apply s).ports = s.ports := rfl
@[simp] theorem apply_coll_hub : ((Act.coll f).apply s).hub = s.hub := rfl
@[simp] theorem apply_coll_host : ((Act.coll f).apply s).host = s.host := rfl
@[simp] theorem apply_coll_cx : ((Act.coll f).apply s).cx = s.cx := rfl
@[simp] theorem apply_coll_pwr : ((Act.coll f).apply s).pwr = s.pwr := rfl
@[simp] theorem apply_coll_rst : ((Act.coll f).apply s).rst = s.rst := rfl
@[simp] theorem apply_coll_pending : ((Act.coll f).apply s).pending = s.pending := rfl
end

section
variable (s : State) (f : Nrt → Nrt)
@[simp] theorem apply_nrt_time : ((Act.nrt f).apply s).time = s.time := rfl
@[simp] theorem apply_nrt_regs : ((Act.nrt f).apply s).regs = s.regs := rfl
@[simp] theorem apply_nrt_shadows : ((Act.nrt f).apply s).shadows = s.shadows := rfl
@[simp] theorem apply_nrt_latches : ((Act.nrt f).apply s).latches = s.latches := rfl
@[simp] theorem apply_nrt_holds : ((Act.nrt f).apply s).holds = s.holds := rfl
@[simp] theorem apply_nrt_mem : ((Act.nrt f).apply s).mem = s.mem := rfl
@[simp] theorem apply_nrt_undef : ((Act.nrt f).apply s).undef = s.undef := rfl
@[simp] theorem apply_nrt_epoch : ((Act.nrt f).apply s).epoch = s.epoch := rfl
@[simp] theorem apply_nrt_poison0 : ((Act.nrt f).apply s).poison0 = s.poison0 := rfl
@[simp] theorem apply_nrt_poison1 : ((Act.nrt f).apply s).poison1 = s.poison1 := rfl
@[simp] theorem apply_nrt_poison2 : ((Act.nrt f).apply s).poison2 = s.poison2 := rfl
@[simp] theorem apply_nrt_events : ((Act.nrt f).apply s).events = s.events := rfl
@[simp] theorem apply_nrt_evSeq : ((Act.nrt f).apply s).evSeq = s.evSeq := rfl
@[simp] theorem apply_nrt_out : ((Act.nrt f).apply s).out = s.out := rfl
@[simp] theorem apply_nrt_freeCount : ((Act.nrt f).apply s).freeCount = s.freeCount := rfl
@[simp] theorem apply_nrt_tiles : ((Act.nrt f).apply s).tiles = s.tiles := rfl
@[simp] theorem apply_nrt_phys : ((Act.nrt f).apply s).phys = s.phys := rfl
@[simp] theorem apply_nrt_reel : ((Act.nrt f).apply s).reel = s.reel := rfl
@[simp] theorem apply_nrt_job : ((Act.nrt f).apply s).job = s.job := rfl
@[simp] theorem apply_nrt_upd : ((Act.nrt f).apply s).upd = s.upd := rfl
@[simp] theorem apply_nrt_coll : ((Act.nrt f).apply s).coll = s.coll := rfl
@[simp] theorem apply_nrt_ports : ((Act.nrt f).apply s).ports = s.ports := rfl
@[simp] theorem apply_nrt_hub : ((Act.nrt f).apply s).hub = s.hub := rfl
@[simp] theorem apply_nrt_host : ((Act.nrt f).apply s).host = s.host := rfl
@[simp] theorem apply_nrt_cx : ((Act.nrt f).apply s).cx = s.cx := rfl
@[simp] theorem apply_nrt_pwr : ((Act.nrt f).apply s).pwr = s.pwr := rfl
@[simp] theorem apply_nrt_rst : ((Act.nrt f).apply s).rst = s.rst := rfl
@[simp] theorem apply_nrt_pending : ((Act.nrt f).apply s).pending = s.pending := rfl
end

section
variable (s : State) (n : Nat) (f : Port → Port)
@[simp] theorem apply_port_time : ((Act.port n f).apply s).time = s.time := rfl
@[simp] theorem apply_port_regs : ((Act.port n f).apply s).regs = s.regs := rfl
@[simp] theorem apply_port_shadows : ((Act.port n f).apply s).shadows = s.shadows := rfl
@[simp] theorem apply_port_latches : ((Act.port n f).apply s).latches = s.latches := rfl
@[simp] theorem apply_port_holds : ((Act.port n f).apply s).holds = s.holds := rfl
@[simp] theorem apply_port_mem : ((Act.port n f).apply s).mem = s.mem := rfl
@[simp] theorem apply_port_undef : ((Act.port n f).apply s).undef = s.undef := rfl
@[simp] theorem apply_port_epoch : ((Act.port n f).apply s).epoch = s.epoch := rfl
@[simp] theorem apply_port_poison0 : ((Act.port n f).apply s).poison0 = s.poison0 := rfl
@[simp] theorem apply_port_poison1 : ((Act.port n f).apply s).poison1 = s.poison1 := rfl
@[simp] theorem apply_port_poison2 : ((Act.port n f).apply s).poison2 = s.poison2 := rfl
@[simp] theorem apply_port_events : ((Act.port n f).apply s).events = s.events := rfl
@[simp] theorem apply_port_evSeq : ((Act.port n f).apply s).evSeq = s.evSeq := rfl
@[simp] theorem apply_port_out : ((Act.port n f).apply s).out = s.out := rfl
@[simp] theorem apply_port_freeCount : ((Act.port n f).apply s).freeCount = s.freeCount := rfl
@[simp] theorem apply_port_tiles : ((Act.port n f).apply s).tiles = s.tiles := rfl
@[simp] theorem apply_port_phys : ((Act.port n f).apply s).phys = s.phys := rfl
@[simp] theorem apply_port_reel : ((Act.port n f).apply s).reel = s.reel := rfl
@[simp] theorem apply_port_job : ((Act.port n f).apply s).job = s.job := rfl
@[simp] theorem apply_port_upd : ((Act.port n f).apply s).upd = s.upd := rfl
@[simp] theorem apply_port_coll : ((Act.port n f).apply s).coll = s.coll := rfl
@[simp] theorem apply_port_nrt : ((Act.port n f).apply s).nrt = s.nrt := rfl
@[simp] theorem apply_port_hub : ((Act.port n f).apply s).hub = s.hub := rfl
@[simp] theorem apply_port_host : ((Act.port n f).apply s).host = s.host := rfl
@[simp] theorem apply_port_cx : ((Act.port n f).apply s).cx = s.cx := rfl
@[simp] theorem apply_port_pwr : ((Act.port n f).apply s).pwr = s.pwr := rfl
@[simp] theorem apply_port_rst : ((Act.port n f).apply s).rst = s.rst := rfl
@[simp] theorem apply_port_pending : ((Act.port n f).apply s).pending = s.pending := rfl
end

section
variable (s : State) (f : Hub → Hub)
@[simp] theorem apply_hub_time : ((Act.hub f).apply s).time = s.time := rfl
@[simp] theorem apply_hub_regs : ((Act.hub f).apply s).regs = s.regs := rfl
@[simp] theorem apply_hub_shadows : ((Act.hub f).apply s).shadows = s.shadows := rfl
@[simp] theorem apply_hub_latches : ((Act.hub f).apply s).latches = s.latches := rfl
@[simp] theorem apply_hub_holds : ((Act.hub f).apply s).holds = s.holds := rfl
@[simp] theorem apply_hub_mem : ((Act.hub f).apply s).mem = s.mem := rfl
@[simp] theorem apply_hub_undef : ((Act.hub f).apply s).undef = s.undef := rfl
@[simp] theorem apply_hub_epoch : ((Act.hub f).apply s).epoch = s.epoch := rfl
@[simp] theorem apply_hub_poison0 : ((Act.hub f).apply s).poison0 = s.poison0 := rfl
@[simp] theorem apply_hub_poison1 : ((Act.hub f).apply s).poison1 = s.poison1 := rfl
@[simp] theorem apply_hub_poison2 : ((Act.hub f).apply s).poison2 = s.poison2 := rfl
@[simp] theorem apply_hub_events : ((Act.hub f).apply s).events = s.events := rfl
@[simp] theorem apply_hub_evSeq : ((Act.hub f).apply s).evSeq = s.evSeq := rfl
@[simp] theorem apply_hub_out : ((Act.hub f).apply s).out = s.out := rfl
@[simp] theorem apply_hub_freeCount : ((Act.hub f).apply s).freeCount = s.freeCount := rfl
@[simp] theorem apply_hub_tiles : ((Act.hub f).apply s).tiles = s.tiles := rfl
@[simp] theorem apply_hub_phys : ((Act.hub f).apply s).phys = s.phys := rfl
@[simp] theorem apply_hub_reel : ((Act.hub f).apply s).reel = s.reel := rfl
@[simp] theorem apply_hub_job : ((Act.hub f).apply s).job = s.job := rfl
@[simp] theorem apply_hub_upd : ((Act.hub f).apply s).upd = s.upd := rfl
@[simp] theorem apply_hub_coll : ((Act.hub f).apply s).coll = s.coll := rfl
@[simp] theorem apply_hub_nrt : ((Act.hub f).apply s).nrt = s.nrt := rfl
@[simp] theorem apply_hub_ports : ((Act.hub f).apply s).ports = s.ports := rfl
@[simp] theorem apply_hub_host : ((Act.hub f).apply s).host = s.host := rfl
@[simp] theorem apply_hub_cx : ((Act.hub f).apply s).cx = s.cx := rfl
@[simp] theorem apply_hub_pwr : ((Act.hub f).apply s).pwr = s.pwr := rfl
@[simp] theorem apply_hub_rst : ((Act.hub f).apply s).rst = s.rst := rfl
@[simp] theorem apply_hub_pending : ((Act.hub f).apply s).pending = s.pending := rfl
end

section
variable (s : State) (f : HostIf → HostIf)
@[simp] theorem apply_host_time : ((Act.host f).apply s).time = s.time := rfl
@[simp] theorem apply_host_regs : ((Act.host f).apply s).regs = s.regs := rfl
@[simp] theorem apply_host_shadows : ((Act.host f).apply s).shadows = s.shadows := rfl
@[simp] theorem apply_host_latches : ((Act.host f).apply s).latches = s.latches := rfl
@[simp] theorem apply_host_holds : ((Act.host f).apply s).holds = s.holds := rfl
@[simp] theorem apply_host_mem : ((Act.host f).apply s).mem = s.mem := rfl
@[simp] theorem apply_host_undef : ((Act.host f).apply s).undef = s.undef := rfl
@[simp] theorem apply_host_epoch : ((Act.host f).apply s).epoch = s.epoch := rfl
@[simp] theorem apply_host_poison0 : ((Act.host f).apply s).poison0 = s.poison0 := rfl
@[simp] theorem apply_host_poison1 : ((Act.host f).apply s).poison1 = s.poison1 := rfl
@[simp] theorem apply_host_poison2 : ((Act.host f).apply s).poison2 = s.poison2 := rfl
@[simp] theorem apply_host_events : ((Act.host f).apply s).events = s.events := rfl
@[simp] theorem apply_host_evSeq : ((Act.host f).apply s).evSeq = s.evSeq := rfl
@[simp] theorem apply_host_out : ((Act.host f).apply s).out = s.out := rfl
@[simp] theorem apply_host_freeCount : ((Act.host f).apply s).freeCount = s.freeCount := rfl
@[simp] theorem apply_host_tiles : ((Act.host f).apply s).tiles = s.tiles := rfl
@[simp] theorem apply_host_phys : ((Act.host f).apply s).phys = s.phys := rfl
@[simp] theorem apply_host_reel : ((Act.host f).apply s).reel = s.reel := rfl
@[simp] theorem apply_host_job : ((Act.host f).apply s).job = s.job := rfl
@[simp] theorem apply_host_upd : ((Act.host f).apply s).upd = s.upd := rfl
@[simp] theorem apply_host_coll : ((Act.host f).apply s).coll = s.coll := rfl
@[simp] theorem apply_host_nrt : ((Act.host f).apply s).nrt = s.nrt := rfl
@[simp] theorem apply_host_ports : ((Act.host f).apply s).ports = s.ports := rfl
@[simp] theorem apply_host_hub : ((Act.host f).apply s).hub = s.hub := rfl
@[simp] theorem apply_host_cx : ((Act.host f).apply s).cx = s.cx := rfl
@[simp] theorem apply_host_pwr : ((Act.host f).apply s).pwr = s.pwr := rfl
@[simp] theorem apply_host_rst : ((Act.host f).apply s).rst = s.rst := rfl
@[simp] theorem apply_host_pending : ((Act.host f).apply s).pending = s.pending := rfl
end

section
variable (s : State) (f : Cx → Cx)
@[simp] theorem apply_cx_time : ((Act.cx f).apply s).time = s.time := rfl
@[simp] theorem apply_cx_regs : ((Act.cx f).apply s).regs = s.regs := rfl
@[simp] theorem apply_cx_shadows : ((Act.cx f).apply s).shadows = s.shadows := rfl
@[simp] theorem apply_cx_latches : ((Act.cx f).apply s).latches = s.latches := rfl
@[simp] theorem apply_cx_holds : ((Act.cx f).apply s).holds = s.holds := rfl
@[simp] theorem apply_cx_mem : ((Act.cx f).apply s).mem = s.mem := rfl
@[simp] theorem apply_cx_undef : ((Act.cx f).apply s).undef = s.undef := rfl
@[simp] theorem apply_cx_epoch : ((Act.cx f).apply s).epoch = s.epoch := rfl
@[simp] theorem apply_cx_poison0 : ((Act.cx f).apply s).poison0 = s.poison0 := rfl
@[simp] theorem apply_cx_poison1 : ((Act.cx f).apply s).poison1 = s.poison1 := rfl
@[simp] theorem apply_cx_poison2 : ((Act.cx f).apply s).poison2 = s.poison2 := rfl
@[simp] theorem apply_cx_events : ((Act.cx f).apply s).events = s.events := rfl
@[simp] theorem apply_cx_evSeq : ((Act.cx f).apply s).evSeq = s.evSeq := rfl
@[simp] theorem apply_cx_out : ((Act.cx f).apply s).out = s.out := rfl
@[simp] theorem apply_cx_freeCount : ((Act.cx f).apply s).freeCount = s.freeCount := rfl
@[simp] theorem apply_cx_tiles : ((Act.cx f).apply s).tiles = s.tiles := rfl
@[simp] theorem apply_cx_phys : ((Act.cx f).apply s).phys = s.phys := rfl
@[simp] theorem apply_cx_reel : ((Act.cx f).apply s).reel = s.reel := rfl
@[simp] theorem apply_cx_job : ((Act.cx f).apply s).job = s.job := rfl
@[simp] theorem apply_cx_upd : ((Act.cx f).apply s).upd = s.upd := rfl
@[simp] theorem apply_cx_coll : ((Act.cx f).apply s).coll = s.coll := rfl
@[simp] theorem apply_cx_nrt : ((Act.cx f).apply s).nrt = s.nrt := rfl
@[simp] theorem apply_cx_ports : ((Act.cx f).apply s).ports = s.ports := rfl
@[simp] theorem apply_cx_hub : ((Act.cx f).apply s).hub = s.hub := rfl
@[simp] theorem apply_cx_host : ((Act.cx f).apply s).host = s.host := rfl
@[simp] theorem apply_cx_pwr : ((Act.cx f).apply s).pwr = s.pwr := rfl
@[simp] theorem apply_cx_rst : ((Act.cx f).apply s).rst = s.rst := rfl
@[simp] theorem apply_cx_pending : ((Act.cx f).apply s).pending = s.pending := rfl
end

section
variable (s : State) (f : Pwr → Pwr)
@[simp] theorem apply_pwr_time : ((Act.pwr f).apply s).time = s.time := rfl
@[simp] theorem apply_pwr_regs : ((Act.pwr f).apply s).regs = s.regs := rfl
@[simp] theorem apply_pwr_shadows : ((Act.pwr f).apply s).shadows = s.shadows := rfl
@[simp] theorem apply_pwr_latches : ((Act.pwr f).apply s).latches = s.latches := rfl
@[simp] theorem apply_pwr_holds : ((Act.pwr f).apply s).holds = s.holds := rfl
@[simp] theorem apply_pwr_mem : ((Act.pwr f).apply s).mem = s.mem := rfl
@[simp] theorem apply_pwr_undef : ((Act.pwr f).apply s).undef = s.undef := rfl
@[simp] theorem apply_pwr_epoch : ((Act.pwr f).apply s).epoch = s.epoch := rfl
@[simp] theorem apply_pwr_poison0 : ((Act.pwr f).apply s).poison0 = s.poison0 := rfl
@[simp] theorem apply_pwr_poison1 : ((Act.pwr f).apply s).poison1 = s.poison1 := rfl
@[simp] theorem apply_pwr_poison2 : ((Act.pwr f).apply s).poison2 = s.poison2 := rfl
@[simp] theorem apply_pwr_events : ((Act.pwr f).apply s).events = s.events := rfl
@[simp] theorem apply_pwr_evSeq : ((Act.pwr f).apply s).evSeq = s.evSeq := rfl
@[simp] theorem apply_pwr_out : ((Act.pwr f).apply s).out = s.out := rfl
@[simp] theorem apply_pwr_freeCount : ((Act.pwr f).apply s).freeCount = s.freeCount := rfl
@[simp] theorem apply_pwr_tiles : ((Act.pwr f).apply s).tiles = s.tiles := rfl
@[simp] theorem apply_pwr_phys : ((Act.pwr f).apply s).phys = s.phys := rfl
@[simp] theorem apply_pwr_reel : ((Act.pwr f).apply s).reel = s.reel := rfl
@[simp] theorem apply_pwr_job : ((Act.pwr f).apply s).job = s.job := rfl
@[simp] theorem apply_pwr_upd : ((Act.pwr f).apply s).upd = s.upd := rfl
@[simp] theorem apply_pwr_coll : ((Act.pwr f).apply s).coll = s.coll := rfl
@[simp] theorem apply_pwr_nrt : ((Act.pwr f).apply s).nrt = s.nrt := rfl
@[simp] theorem apply_pwr_ports : ((Act.pwr f).apply s).ports = s.ports := rfl
@[simp] theorem apply_pwr_hub : ((Act.pwr f).apply s).hub = s.hub := rfl
@[simp] theorem apply_pwr_host : ((Act.pwr f).apply s).host = s.host := rfl
@[simp] theorem apply_pwr_cx : ((Act.pwr f).apply s).cx = s.cx := rfl
@[simp] theorem apply_pwr_rst : ((Act.pwr f).apply s).rst = s.rst := rfl
@[simp] theorem apply_pwr_pending : ((Act.pwr f).apply s).pending = s.pending := rfl
end

section
variable (s : State) (f : Rst → Rst)
@[simp] theorem apply_rst_time : ((Act.rst f).apply s).time = s.time := rfl
@[simp] theorem apply_rst_regs : ((Act.rst f).apply s).regs = s.regs := rfl
@[simp] theorem apply_rst_shadows : ((Act.rst f).apply s).shadows = s.shadows := rfl
@[simp] theorem apply_rst_latches : ((Act.rst f).apply s).latches = s.latches := rfl
@[simp] theorem apply_rst_holds : ((Act.rst f).apply s).holds = s.holds := rfl
@[simp] theorem apply_rst_mem : ((Act.rst f).apply s).mem = s.mem := rfl
@[simp] theorem apply_rst_undef : ((Act.rst f).apply s).undef = s.undef := rfl
@[simp] theorem apply_rst_epoch : ((Act.rst f).apply s).epoch = s.epoch := rfl
@[simp] theorem apply_rst_poison0 : ((Act.rst f).apply s).poison0 = s.poison0 := rfl
@[simp] theorem apply_rst_poison1 : ((Act.rst f).apply s).poison1 = s.poison1 := rfl
@[simp] theorem apply_rst_poison2 : ((Act.rst f).apply s).poison2 = s.poison2 := rfl
@[simp] theorem apply_rst_events : ((Act.rst f).apply s).events = s.events := rfl
@[simp] theorem apply_rst_evSeq : ((Act.rst f).apply s).evSeq = s.evSeq := rfl
@[simp] theorem apply_rst_out : ((Act.rst f).apply s).out = s.out := rfl
@[simp] theorem apply_rst_freeCount : ((Act.rst f).apply s).freeCount = s.freeCount := rfl
@[simp] theorem apply_rst_tiles : ((Act.rst f).apply s).tiles = s.tiles := rfl
@[simp] theorem apply_rst_phys : ((Act.rst f).apply s).phys = s.phys := rfl
@[simp] theorem apply_rst_reel : ((Act.rst f).apply s).reel = s.reel := rfl
@[simp] theorem apply_rst_job : ((Act.rst f).apply s).job = s.job := rfl
@[simp] theorem apply_rst_upd : ((Act.rst f).apply s).upd = s.upd := rfl
@[simp] theorem apply_rst_coll : ((Act.rst f).apply s).coll = s.coll := rfl
@[simp] theorem apply_rst_nrt : ((Act.rst f).apply s).nrt = s.nrt := rfl
@[simp] theorem apply_rst_ports : ((Act.rst f).apply s).ports = s.ports := rfl
@[simp] theorem apply_rst_hub : ((Act.rst f).apply s).hub = s.hub := rfl
@[simp] theorem apply_rst_host : ((Act.rst f).apply s).host = s.host := rfl
@[simp] theorem apply_rst_cx : ((Act.rst f).apply s).cx = s.cx := rfl
@[simp] theorem apply_rst_pwr : ((Act.rst f).apply s).pwr = s.pwr := rfl
@[simp] theorem apply_rst_pending : ((Act.rst f).apply s).pending = s.pending := rfl
end

section
variable (s : State) (h : Nat) (f : CxMod → CxMod)
@[simp] theorem apply_cxm_time : ((Act.cxm h f).apply s).time = s.time := rfl
@[simp] theorem apply_cxm_regs : ((Act.cxm h f).apply s).regs = s.regs := rfl
@[simp] theorem apply_cxm_shadows : ((Act.cxm h f).apply s).shadows = s.shadows := rfl
@[simp] theorem apply_cxm_latches : ((Act.cxm h f).apply s).latches = s.latches := rfl
@[simp] theorem apply_cxm_holds : ((Act.cxm h f).apply s).holds = s.holds := rfl
@[simp] theorem apply_cxm_mem : ((Act.cxm h f).apply s).mem = s.mem := rfl
@[simp] theorem apply_cxm_undef : ((Act.cxm h f).apply s).undef = s.undef := rfl
@[simp] theorem apply_cxm_epoch : ((Act.cxm h f).apply s).epoch = s.epoch := rfl
@[simp] theorem apply_cxm_poison0 : ((Act.cxm h f).apply s).poison0 = s.poison0 := rfl
@[simp] theorem apply_cxm_poison1 : ((Act.cxm h f).apply s).poison1 = s.poison1 := rfl
@[simp] theorem apply_cxm_poison2 : ((Act.cxm h f).apply s).poison2 = s.poison2 := rfl
@[simp] theorem apply_cxm_events : ((Act.cxm h f).apply s).events = s.events := rfl
@[simp] theorem apply_cxm_evSeq : ((Act.cxm h f).apply s).evSeq = s.evSeq := rfl
@[simp] theorem apply_cxm_out : ((Act.cxm h f).apply s).out = s.out := rfl
@[simp] theorem apply_cxm_freeCount : ((Act.cxm h f).apply s).freeCount = s.freeCount := rfl
@[simp] theorem apply_cxm_tiles : ((Act.cxm h f).apply s).tiles = s.tiles := rfl
@[simp] theorem apply_cxm_phys : ((Act.cxm h f).apply s).phys = s.phys := rfl
@[simp] theorem apply_cxm_reel : ((Act.cxm h f).apply s).reel = s.reel := rfl
@[simp] theorem apply_cxm_job : ((Act.cxm h f).apply s).job = s.job := rfl
@[simp] theorem apply_cxm_upd : ((Act.cxm h f).apply s).upd = s.upd := rfl
@[simp] theorem apply_cxm_coll : ((Act.cxm h f).apply s).coll = s.coll := rfl
@[simp] theorem apply_cxm_nrt : ((Act.cxm h f).apply s).nrt = s.nrt := rfl
@[simp] theorem apply_cxm_ports : ((Act.cxm h f).apply s).ports = s.ports := rfl
@[simp] theorem apply_cxm_hub : ((Act.cxm h f).apply s).hub = s.hub := rfl
@[simp] theorem apply_cxm_host : ((Act.cxm h f).apply s).host = s.host := rfl
@[simp] theorem apply_cxm_pwr : ((Act.cxm h f).apply s).pwr = s.pwr := rfl
@[simp] theorem apply_cxm_rst : ((Act.cxm h f).apply s).rst = s.rst := rfl
@[simp] theorem apply_cxm_pending : ((Act.cxm h f).apply s).pending = s.pending := rfl
end

section
variable (s : State) (g : Nat) (f : GroupClk → GroupClk)
@[simp] theorem apply_clk_time : ((Act.clk g f).apply s).time = s.time := rfl
@[simp] theorem apply_clk_regs : ((Act.clk g f).apply s).regs = s.regs := rfl
@[simp] theorem apply_clk_shadows : ((Act.clk g f).apply s).shadows = s.shadows := rfl
@[simp] theorem apply_clk_latches : ((Act.clk g f).apply s).latches = s.latches := rfl
@[simp] theorem apply_clk_holds : ((Act.clk g f).apply s).holds = s.holds := rfl
@[simp] theorem apply_clk_mem : ((Act.clk g f).apply s).mem = s.mem := rfl
@[simp] theorem apply_clk_undef : ((Act.clk g f).apply s).undef = s.undef := rfl
@[simp] theorem apply_clk_epoch : ((Act.clk g f).apply s).epoch = s.epoch := rfl
@[simp] theorem apply_clk_poison0 : ((Act.clk g f).apply s).poison0 = s.poison0 := rfl
@[simp] theorem apply_clk_poison1 : ((Act.clk g f).apply s).poison1 = s.poison1 := rfl
@[simp] theorem apply_clk_poison2 : ((Act.clk g f).apply s).poison2 = s.poison2 := rfl
@[simp] theorem apply_clk_events : ((Act.clk g f).apply s).events = s.events := rfl
@[simp] theorem apply_clk_evSeq : ((Act.clk g f).apply s).evSeq = s.evSeq := rfl
@[simp] theorem apply_clk_out : ((Act.clk g f).apply s).out = s.out := rfl
@[simp] theorem apply_clk_freeCount : ((Act.clk g f).apply s).freeCount = s.freeCount := rfl
@[simp] theorem apply_clk_tiles : ((Act.clk g f).apply s).tiles = s.tiles := rfl
@[simp] theorem apply_clk_phys : ((Act.clk g f).apply s).phys = s.phys := rfl
@[simp] theorem apply_clk_reel : ((Act.clk g f).apply s).reel = s.reel := rfl
@[simp] theorem apply_clk_job : ((Act.clk g f).apply s).job = s.job := rfl
@[simp] theorem apply_clk_upd : ((Act.clk g f).apply s).upd = s.upd := rfl
@[simp] theorem apply_clk_coll : ((Act.clk g f).apply s).coll = s.coll := rfl
@[simp] theorem apply_clk_nrt : ((Act.clk g f).apply s).nrt = s.nrt := rfl
@[simp] theorem apply_clk_ports : ((Act.clk g f).apply s).ports = s.ports := rfl
@[simp] theorem apply_clk_hub : ((Act.clk g f).apply s).hub = s.hub := rfl
@[simp] theorem apply_clk_host : ((Act.clk g f).apply s).host = s.host := rfl
@[simp] theorem apply_clk_cx : ((Act.clk g f).apply s).cx = s.cx := rfl
@[simp] theorem apply_clk_rst : ((Act.clk g f).apply s).rst = s.rst := rfl
@[simp] theorem apply_clk_pending : ((Act.clk g f).apply s).pending = s.pending := rfl
end

section
variable (s : State) (n : Nat) (f : HFn → HFn)
@[simp] theorem apply_fn_time : ((Act.fn n f).apply s).time = s.time := rfl
@[simp] theorem apply_fn_regs : ((Act.fn n f).apply s).regs = s.regs := rfl
@[simp] theorem apply_fn_shadows : ((Act.fn n f).apply s).shadows = s.shadows := rfl
@[simp] theorem apply_fn_latches : ((Act.fn n f).apply s).latches = s.latches := rfl
@[simp] theorem apply_fn_holds : ((Act.fn n f).apply s).holds = s.holds := rfl
@[simp] theorem apply_fn_mem : ((Act.fn n f).apply s).mem = s.mem := rfl
@[simp] theorem apply_fn_undef : ((Act.fn n f).apply s).undef = s.undef := rfl
@[simp] theorem apply_fn_epoch : ((Act.fn n f).apply s).epoch = s.epoch := rfl
@[simp] theorem apply_fn_poison0 : ((Act.fn n f).apply s).poison0 = s.poison0 := rfl
@[simp] theorem apply_fn_poison1 : ((Act.fn n f).apply s).poison1 = s.poison1 := rfl
@[simp] theorem apply_fn_poison2 : ((Act.fn n f).apply s).poison2 = s.poison2 := rfl
@[simp] theorem apply_fn_events : ((Act.fn n f).apply s).events = s.events := rfl
@[simp] theorem apply_fn_evSeq : ((Act.fn n f).apply s).evSeq = s.evSeq := rfl
@[simp] theorem apply_fn_out : ((Act.fn n f).apply s).out = s.out := rfl
@[simp] theorem apply_fn_freeCount : ((Act.fn n f).apply s).freeCount = s.freeCount := rfl
@[simp] theorem apply_fn_tiles : ((Act.fn n f).apply s).tiles = s.tiles := rfl
@[simp] theorem apply_fn_phys : ((Act.fn n f).apply s).phys = s.phys := rfl
@[simp] theorem apply_fn_reel : ((Act.fn n f).apply s).reel = s.reel := rfl
@[simp] theorem apply_fn_job : ((Act.fn n f).apply s).job = s.job := rfl
@[simp] theorem apply_fn_upd : ((Act.fn n f).apply s).upd = s.upd := rfl
@[simp] theorem apply_fn_coll : ((Act.fn n f).apply s).coll = s.coll := rfl
@[simp] theorem apply_fn_nrt : ((Act.fn n f).apply s).nrt = s.nrt := rfl
@[simp] theorem apply_fn_ports : ((Act.fn n f).apply s).ports = s.ports := rfl
@[simp] theorem apply_fn_hub : ((Act.fn n f).apply s).hub = s.hub := rfl
@[simp] theorem apply_fn_cx : ((Act.fn n f).apply s).cx = s.cx := rfl
@[simp] theorem apply_fn_pwr : ((Act.fn n f).apply s).pwr = s.pwr := rfl
@[simp] theorem apply_fn_rst : ((Act.fn n f).apply s).rst = s.rst := rfl
@[simp] theorem apply_fn_pending : ((Act.fn n f).apply s).pending = s.pending := rfl
end

section
variable (s : State) (k : Nat) (v : W32)
@[simp] theorem apply_msix_time : ((Act.msix k v).apply s).time = s.time := rfl
@[simp] theorem apply_msix_regs : ((Act.msix k v).apply s).regs = s.regs := rfl
@[simp] theorem apply_msix_shadows : ((Act.msix k v).apply s).shadows = s.shadows := rfl
@[simp] theorem apply_msix_latches : ((Act.msix k v).apply s).latches = s.latches := rfl
@[simp] theorem apply_msix_holds : ((Act.msix k v).apply s).holds = s.holds := rfl
@[simp] theorem apply_msix_mem : ((Act.msix k v).apply s).mem = s.mem := rfl
@[simp] theorem apply_msix_undef : ((Act.msix k v).apply s).undef = s.undef := rfl
@[simp] theorem apply_msix_epoch : ((Act.msix k v).apply s).epoch = s.epoch := rfl
@[simp] theorem apply_msix_poison0 : ((Act.msix k v).apply s).poison0 = s.poison0 := rfl
@[simp] theorem apply_msix_poison1 : ((Act.msix k v).apply s).poison1 = s.poison1 := rfl
@[simp] theorem apply_msix_poison2 : ((Act.msix k v).apply s).poison2 = s.poison2 := rfl
@[simp] theorem apply_msix_events : ((Act.msix k v).apply s).events = s.events := rfl
@[simp] theorem apply_msix_evSeq : ((Act.msix k v).apply s).evSeq = s.evSeq := rfl
@[simp] theorem apply_msix_out : ((Act.msix k v).apply s).out = s.out := rfl
@[simp] theorem apply_msix_freeCount : ((Act.msix k v).apply s).freeCount = s.freeCount := rfl
@[simp] theorem apply_msix_tiles : ((Act.msix k v).apply s).tiles = s.tiles := rfl
@[simp] theorem apply_msix_phys : ((Act.msix k v).apply s).phys = s.phys := rfl
@[simp] theorem apply_msix_reel : ((Act.msix k v).apply s).reel = s.reel := rfl
@[simp] theorem apply_msix_job : ((Act.msix k v).apply s).job = s.job := rfl
@[simp] theorem apply_msix_upd : ((Act.msix k v).apply s).upd = s.upd := rfl
@[simp] theorem apply_msix_coll : ((Act.msix k v).apply s).coll = s.coll := rfl
@[simp] theorem apply_msix_nrt : ((Act.msix k v).apply s).nrt = s.nrt := rfl
@[simp] theorem apply_msix_ports : ((Act.msix k v).apply s).ports = s.ports := rfl
@[simp] theorem apply_msix_hub : ((Act.msix k v).apply s).hub = s.hub := rfl
@[simp] theorem apply_msix_cx : ((Act.msix k v).apply s).cx = s.cx := rfl
@[simp] theorem apply_msix_pwr : ((Act.msix k v).apply s).pwr = s.pwr := rfl
@[simp] theorem apply_msix_rst : ((Act.msix k v).apply s).rst = s.rst := rfl
@[simp] theorem apply_msix_pending : ((Act.msix k v).apply s).pending = s.pending := rfl
end

section
variable (s : State) (n : Nat)
@[simp] theorem apply_msixDrop_time : ((Act.msixDrop n).apply s).time = s.time := rfl
@[simp] theorem apply_msixDrop_regs : ((Act.msixDrop n).apply s).regs = s.regs := rfl
@[simp] theorem apply_msixDrop_shadows : ((Act.msixDrop n).apply s).shadows = s.shadows := rfl
@[simp] theorem apply_msixDrop_latches : ((Act.msixDrop n).apply s).latches = s.latches := rfl
@[simp] theorem apply_msixDrop_holds : ((Act.msixDrop n).apply s).holds = s.holds := rfl
@[simp] theorem apply_msixDrop_mem : ((Act.msixDrop n).apply s).mem = s.mem := rfl
@[simp] theorem apply_msixDrop_undef : ((Act.msixDrop n).apply s).undef = s.undef := rfl
@[simp] theorem apply_msixDrop_epoch : ((Act.msixDrop n).apply s).epoch = s.epoch := rfl
@[simp] theorem apply_msixDrop_poison0 : ((Act.msixDrop n).apply s).poison0 = s.poison0 := rfl
@[simp] theorem apply_msixDrop_poison1 : ((Act.msixDrop n).apply s).poison1 = s.poison1 := rfl
@[simp] theorem apply_msixDrop_poison2 : ((Act.msixDrop n).apply s).poison2 = s.poison2 := rfl
@[simp] theorem apply_msixDrop_events : ((Act.msixDrop n).apply s).events = s.events := rfl
@[simp] theorem apply_msixDrop_evSeq : ((Act.msixDrop n).apply s).evSeq = s.evSeq := rfl
@[simp] theorem apply_msixDrop_out : ((Act.msixDrop n).apply s).out = s.out := rfl
@[simp] theorem apply_msixDrop_freeCount : ((Act.msixDrop n).apply s).freeCount = s.freeCount := rfl
@[simp] theorem apply_msixDrop_tiles : ((Act.msixDrop n).apply s).tiles = s.tiles := rfl
@[simp] theorem apply_msixDrop_phys : ((Act.msixDrop n).apply s).phys = s.phys := rfl
@[simp] theorem apply_msixDrop_reel : ((Act.msixDrop n).apply s).reel = s.reel := rfl
@[simp] theorem apply_msixDrop_job : ((Act.msixDrop n).apply s).job = s.job := rfl
@[simp] theorem apply_msixDrop_upd : ((Act.msixDrop n).apply s).upd = s.upd := rfl
@[simp] theorem apply_msixDrop_coll : ((Act.msixDrop n).apply s).coll = s.coll := rfl
@[simp] theorem apply_msixDrop_nrt : ((Act.msixDrop n).apply s).nrt = s.nrt := rfl
@[simp] theorem apply_msixDrop_ports : ((Act.msixDrop n).apply s).ports = s.ports := rfl
@[simp] theorem apply_msixDrop_hub : ((Act.msixDrop n).apply s).hub = s.hub := rfl
@[simp] theorem apply_msixDrop_cx : ((Act.msixDrop n).apply s).cx = s.cx := rfl
@[simp] theorem apply_msixDrop_pwr : ((Act.msixDrop n).apply s).pwr = s.pwr := rfl
@[simp] theorem apply_msixDrop_rst : ((Act.msixDrop n).apply s).rst = s.rst := rfl
@[simp] theorem apply_msixDrop_pending : ((Act.msixDrop n).apply s).pending = s.pending := rfl
end

section
variable (s : State) (n : Nat) (f : Flow → Flow)
@[simp] theorem apply_flow_time : ((Act.flow n f).apply s).time = s.time := rfl
@[simp] theorem apply_flow_regs : ((Act.flow n f).apply s).regs = s.regs := rfl
@[simp] theorem apply_flow_shadows : ((Act.flow n f).apply s).shadows = s.shadows := rfl
@[simp] theorem apply_flow_latches : ((Act.flow n f).apply s).latches = s.latches := rfl
@[simp] theorem apply_flow_holds : ((Act.flow n f).apply s).holds = s.holds := rfl
@[simp] theorem apply_flow_mem : ((Act.flow n f).apply s).mem = s.mem := rfl
@[simp] theorem apply_flow_undef : ((Act.flow n f).apply s).undef = s.undef := rfl
@[simp] theorem apply_flow_epoch : ((Act.flow n f).apply s).epoch = s.epoch := rfl
@[simp] theorem apply_flow_poison0 : ((Act.flow n f).apply s).poison0 = s.poison0 := rfl
@[simp] theorem apply_flow_poison1 : ((Act.flow n f).apply s).poison1 = s.poison1 := rfl
@[simp] theorem apply_flow_poison2 : ((Act.flow n f).apply s).poison2 = s.poison2 := rfl
@[simp] theorem apply_flow_events : ((Act.flow n f).apply s).events = s.events := rfl
@[simp] theorem apply_flow_evSeq : ((Act.flow n f).apply s).evSeq = s.evSeq := rfl
@[simp] theorem apply_flow_out : ((Act.flow n f).apply s).out = s.out := rfl
@[simp] theorem apply_flow_freeCount : ((Act.flow n f).apply s).freeCount = s.freeCount := rfl
@[simp] theorem apply_flow_tiles : ((Act.flow n f).apply s).tiles = s.tiles := rfl
@[simp] theorem apply_flow_phys : ((Act.flow n f).apply s).phys = s.phys := rfl
@[simp] theorem apply_flow_reel : ((Act.flow n f).apply s).reel = s.reel := rfl
@[simp] theorem apply_flow_job : ((Act.flow n f).apply s).job = s.job := rfl
@[simp] theorem apply_flow_upd : ((Act.flow n f).apply s).upd = s.upd := rfl
@[simp] theorem apply_flow_coll : ((Act.flow n f).apply s).coll = s.coll := rfl
@[simp] theorem apply_flow_ports : ((Act.flow n f).apply s).ports = s.ports := rfl
@[simp] theorem apply_flow_hub : ((Act.flow n f).apply s).hub = s.hub := rfl
@[simp] theorem apply_flow_host : ((Act.flow n f).apply s).host = s.host := rfl
@[simp] theorem apply_flow_cx : ((Act.flow n f).apply s).cx = s.cx := rfl
@[simp] theorem apply_flow_pwr : ((Act.flow n f).apply s).pwr = s.pwr := rfl
@[simp] theorem apply_flow_rst : ((Act.flow n f).apply s).rst = s.rst := rfl
@[simp] theorem apply_flow_pending : ((Act.flow n f).apply s).pending = s.pending := rfl
end

section
variable (s : State) (f : TxPkt → TxPkt)
@[simp] theorem apply_sends_time : ((Act.sends f).apply s).time = s.time := rfl
@[simp] theorem apply_sends_regs : ((Act.sends f).apply s).regs = s.regs := rfl
@[simp] theorem apply_sends_shadows : ((Act.sends f).apply s).shadows = s.shadows := rfl
@[simp] theorem apply_sends_latches : ((Act.sends f).apply s).latches = s.latches := rfl
@[simp] theorem apply_sends_holds : ((Act.sends f).apply s).holds = s.holds := rfl
@[simp] theorem apply_sends_mem : ((Act.sends f).apply s).mem = s.mem := rfl
@[simp] theorem apply_sends_undef : ((Act.sends f).apply s).undef = s.undef := rfl
@[simp] theorem apply_sends_epoch : ((Act.sends f).apply s).epoch = s.epoch := rfl
@[simp] theorem apply_sends_poison0 : ((Act.sends f).apply s).poison0 = s.poison0 := rfl
@[simp] theorem apply_sends_poison1 : ((Act.sends f).apply s).poison1 = s.poison1 := rfl
@[simp] theorem apply_sends_poison2 : ((Act.sends f).apply s).poison2 = s.poison2 := rfl
@[simp] theorem apply_sends_events : ((Act.sends f).apply s).events = s.events := rfl
@[simp] theorem apply_sends_evSeq : ((Act.sends f).apply s).evSeq = s.evSeq := rfl
@[simp] theorem apply_sends_out : ((Act.sends f).apply s).out = s.out := rfl
@[simp] theorem apply_sends_freeCount : ((Act.sends f).apply s).freeCount = s.freeCount := rfl
@[simp] theorem apply_sends_tiles : ((Act.sends f).apply s).tiles = s.tiles := rfl
@[simp] theorem apply_sends_phys : ((Act.sends f).apply s).phys = s.phys := rfl
@[simp] theorem apply_sends_reel : ((Act.sends f).apply s).reel = s.reel := rfl
@[simp] theorem apply_sends_job : ((Act.sends f).apply s).job = s.job := rfl
@[simp] theorem apply_sends_upd : ((Act.sends f).apply s).upd = s.upd := rfl
@[simp] theorem apply_sends_coll : ((Act.sends f).apply s).coll = s.coll := rfl
@[simp] theorem apply_sends_ports : ((Act.sends f).apply s).ports = s.ports := rfl
@[simp] theorem apply_sends_hub : ((Act.sends f).apply s).hub = s.hub := rfl
@[simp] theorem apply_sends_host : ((Act.sends f).apply s).host = s.host := rfl
@[simp] theorem apply_sends_cx : ((Act.sends f).apply s).cx = s.cx := rfl
@[simp] theorem apply_sends_pwr : ((Act.sends f).apply s).pwr = s.pwr := rfl
@[simp] theorem apply_sends_rst : ((Act.sends f).apply s).rst = s.rst := rfl
@[simp] theorem apply_sends_pending : ((Act.sends f).apply s).pending = s.pending := rfl
end

section
variable (s : State) (i : Nat) (f : KeyEntry → KeyEntry)
@[simp] theorem apply_key_time : ((Act.key i f).apply s).time = s.time := rfl
@[simp] theorem apply_key_regs : ((Act.key i f).apply s).regs = s.regs := rfl
@[simp] theorem apply_key_shadows : ((Act.key i f).apply s).shadows = s.shadows := rfl
@[simp] theorem apply_key_latches : ((Act.key i f).apply s).latches = s.latches := rfl
@[simp] theorem apply_key_holds : ((Act.key i f).apply s).holds = s.holds := rfl
@[simp] theorem apply_key_mem : ((Act.key i f).apply s).mem = s.mem := rfl
@[simp] theorem apply_key_undef : ((Act.key i f).apply s).undef = s.undef := rfl
@[simp] theorem apply_key_epoch : ((Act.key i f).apply s).epoch = s.epoch := rfl
@[simp] theorem apply_key_poison0 : ((Act.key i f).apply s).poison0 = s.poison0 := rfl
@[simp] theorem apply_key_poison1 : ((Act.key i f).apply s).poison1 = s.poison1 := rfl
@[simp] theorem apply_key_poison2 : ((Act.key i f).apply s).poison2 = s.poison2 := rfl
@[simp] theorem apply_key_events : ((Act.key i f).apply s).events = s.events := rfl
@[simp] theorem apply_key_evSeq : ((Act.key i f).apply s).evSeq = s.evSeq := rfl
@[simp] theorem apply_key_out : ((Act.key i f).apply s).out = s.out := rfl
@[simp] theorem apply_key_freeCount : ((Act.key i f).apply s).freeCount = s.freeCount := rfl
@[simp] theorem apply_key_tiles : ((Act.key i f).apply s).tiles = s.tiles := rfl
@[simp] theorem apply_key_phys : ((Act.key i f).apply s).phys = s.phys := rfl
@[simp] theorem apply_key_reel : ((Act.key i f).apply s).reel = s.reel := rfl
@[simp] theorem apply_key_job : ((Act.key i f).apply s).job = s.job := rfl
@[simp] theorem apply_key_upd : ((Act.key i f).apply s).upd = s.upd := rfl
@[simp] theorem apply_key_coll : ((Act.key i f).apply s).coll = s.coll := rfl
@[simp] theorem apply_key_ports : ((Act.key i f).apply s).ports = s.ports := rfl
@[simp] theorem apply_key_hub : ((Act.key i f).apply s).hub = s.hub := rfl
@[simp] theorem apply_key_host : ((Act.key i f).apply s).host = s.host := rfl
@[simp] theorem apply_key_cx : ((Act.key i f).apply s).cx = s.cx := rfl
@[simp] theorem apply_key_pwr : ((Act.key i f).apply s).pwr = s.pwr := rfl
@[simp] theorem apply_key_rst : ((Act.key i f).apply s).rst = s.rst := rfl
@[simp] theorem apply_key_pending : ((Act.key i f).apply s).pending = s.pending := rfl
end

section
variable (s : State)
@[simp] theorem apply_keysClear_time : (Act.keysClear.apply s).time = s.time := rfl
@[simp] theorem apply_keysClear_regs : (Act.keysClear.apply s).regs = s.regs := rfl
@[simp] theorem apply_keysClear_shadows : (Act.keysClear.apply s).shadows = s.shadows := rfl
@[simp] theorem apply_keysClear_latches : (Act.keysClear.apply s).latches = s.latches := rfl
@[simp] theorem apply_keysClear_holds : (Act.keysClear.apply s).holds = s.holds := rfl
@[simp] theorem apply_keysClear_mem : (Act.keysClear.apply s).mem = s.mem := rfl
@[simp] theorem apply_keysClear_undef : (Act.keysClear.apply s).undef = s.undef := rfl
@[simp] theorem apply_keysClear_epoch : (Act.keysClear.apply s).epoch = s.epoch := rfl
@[simp] theorem apply_keysClear_poison0 : (Act.keysClear.apply s).poison0 = s.poison0 := rfl
@[simp] theorem apply_keysClear_poison1 : (Act.keysClear.apply s).poison1 = s.poison1 := rfl
@[simp] theorem apply_keysClear_poison2 : (Act.keysClear.apply s).poison2 = s.poison2 := rfl
@[simp] theorem apply_keysClear_events : (Act.keysClear.apply s).events = s.events := rfl
@[simp] theorem apply_keysClear_evSeq : (Act.keysClear.apply s).evSeq = s.evSeq := rfl
@[simp] theorem apply_keysClear_out : (Act.keysClear.apply s).out = s.out := rfl
@[simp] theorem apply_keysClear_freeCount : (Act.keysClear.apply s).freeCount = s.freeCount := rfl
@[simp] theorem apply_keysClear_tiles : (Act.keysClear.apply s).tiles = s.tiles := rfl
@[simp] theorem apply_keysClear_phys : (Act.keysClear.apply s).phys = s.phys := rfl
@[simp] theorem apply_keysClear_reel : (Act.keysClear.apply s).reel = s.reel := rfl
@[simp] theorem apply_keysClear_job : (Act.keysClear.apply s).job = s.job := rfl
@[simp] theorem apply_keysClear_upd : (Act.keysClear.apply s).upd = s.upd := rfl
@[simp] theorem apply_keysClear_coll : (Act.keysClear.apply s).coll = s.coll := rfl
@[simp] theorem apply_keysClear_ports : (Act.keysClear.apply s).ports = s.ports := rfl
@[simp] theorem apply_keysClear_hub : (Act.keysClear.apply s).hub = s.hub := rfl
@[simp] theorem apply_keysClear_host : (Act.keysClear.apply s).host = s.host := rfl
@[simp] theorem apply_keysClear_cx : (Act.keysClear.apply s).cx = s.cx := rfl
@[simp] theorem apply_keysClear_pwr : (Act.keysClear.apply s).pwr = s.pwr := rfl
@[simp] theorem apply_keysClear_rst : (Act.keysClear.apply s).rst = s.rst := rfl
@[simp] theorem apply_keysClear_pending : (Act.keysClear.apply s).pending = s.pending := rfl
end

section
variable (s : State) (n : Nat) (g : Nat)
@[simp] theorem apply_alloc_time : ((Act.alloc n g).apply s).time = s.time := rfl
@[simp] theorem apply_alloc_regs : ((Act.alloc n g).apply s).regs = s.regs := rfl
@[simp] theorem apply_alloc_shadows : ((Act.alloc n g).apply s).shadows = s.shadows := rfl
@[simp] theorem apply_alloc_latches : ((Act.alloc n g).apply s).latches = s.latches := rfl
@[simp] theorem apply_alloc_holds : ((Act.alloc n g).apply s).holds = s.holds := rfl
@[simp] theorem apply_alloc_mem : ((Act.alloc n g).apply s).mem = s.mem := rfl
@[simp] theorem apply_alloc_undef : ((Act.alloc n g).apply s).undef = s.undef := rfl
@[simp] theorem apply_alloc_epoch : ((Act.alloc n g).apply s).epoch = s.epoch := rfl
@[simp] theorem apply_alloc_poison0 : ((Act.alloc n g).apply s).poison0 = s.poison0 := rfl
@[simp] theorem apply_alloc_poison1 : ((Act.alloc n g).apply s).poison1 = s.poison1 := rfl
@[simp] theorem apply_alloc_poison2 : ((Act.alloc n g).apply s).poison2 = s.poison2 := rfl
@[simp] theorem apply_alloc_events : ((Act.alloc n g).apply s).events = s.events := rfl
@[simp] theorem apply_alloc_evSeq : ((Act.alloc n g).apply s).evSeq = s.evSeq := rfl
@[simp] theorem apply_alloc_out : ((Act.alloc n g).apply s).out = s.out := rfl
@[simp] theorem apply_alloc_freeCount : ((Act.alloc n g).apply s).freeCount = s.freeCount := rfl
@[simp] theorem apply_alloc_tiles : ((Act.alloc n g).apply s).tiles = s.tiles := rfl
@[simp] theorem apply_alloc_phys : ((Act.alloc n g).apply s).phys = s.phys := rfl
@[simp] theorem apply_alloc_reel : ((Act.alloc n g).apply s).reel = s.reel := rfl
@[simp] theorem apply_alloc_job : ((Act.alloc n g).apply s).job = s.job := rfl
@[simp] theorem apply_alloc_upd : ((Act.alloc n g).apply s).upd = s.upd := rfl
@[simp] theorem apply_alloc_coll : ((Act.alloc n g).apply s).coll = s.coll := rfl
@[simp] theorem apply_alloc_nrt : ((Act.alloc n g).apply s).nrt = s.nrt := rfl
@[simp] theorem apply_alloc_ports : ((Act.alloc n g).apply s).ports = s.ports := rfl
@[simp] theorem apply_alloc_host : ((Act.alloc n g).apply s).host = s.host := rfl
@[simp] theorem apply_alloc_cx : ((Act.alloc n g).apply s).cx = s.cx := rfl
@[simp] theorem apply_alloc_pwr : ((Act.alloc n g).apply s).pwr = s.pwr := rfl
@[simp] theorem apply_alloc_rst : ((Act.alloc n g).apply s).rst = s.rst := rfl
@[simp] theorem apply_alloc_pending : ((Act.alloc n g).apply s).pending = s.pending := rfl
end

section
variable (s : State) (n : Nat) (f : DlyStream → DlyStream)
@[simp] theorem apply_stream_time : ((Act.stream n f).apply s).time = s.time := rfl
@[simp] theorem apply_stream_regs : ((Act.stream n f).apply s).regs = s.regs := rfl
@[simp] theorem apply_stream_shadows : ((Act.stream n f).apply s).shadows = s.shadows := rfl
@[simp] theorem apply_stream_latches : ((Act.stream n f).apply s).latches = s.latches := rfl
@[simp] theorem apply_stream_holds : ((Act.stream n f).apply s).holds = s.holds := rfl
@[simp] theorem apply_stream_mem : ((Act.stream n f).apply s).mem = s.mem := rfl
@[simp] theorem apply_stream_undef : ((Act.stream n f).apply s).undef = s.undef := rfl
@[simp] theorem apply_stream_epoch : ((Act.stream n f).apply s).epoch = s.epoch := rfl
@[simp] theorem apply_stream_poison0 : ((Act.stream n f).apply s).poison0 = s.poison0 := rfl
@[simp] theorem apply_stream_poison1 : ((Act.stream n f).apply s).poison1 = s.poison1 := rfl
@[simp] theorem apply_stream_poison2 : ((Act.stream n f).apply s).poison2 = s.poison2 := rfl
@[simp] theorem apply_stream_events : ((Act.stream n f).apply s).events = s.events := rfl
@[simp] theorem apply_stream_evSeq : ((Act.stream n f).apply s).evSeq = s.evSeq := rfl
@[simp] theorem apply_stream_out : ((Act.stream n f).apply s).out = s.out := rfl
@[simp] theorem apply_stream_freeCount : ((Act.stream n f).apply s).freeCount = s.freeCount := rfl
@[simp] theorem apply_stream_tiles : ((Act.stream n f).apply s).tiles = s.tiles := rfl
@[simp] theorem apply_stream_phys : ((Act.stream n f).apply s).phys = s.phys := rfl
@[simp] theorem apply_stream_reel : ((Act.stream n f).apply s).reel = s.reel := rfl
@[simp] theorem apply_stream_job : ((Act.stream n f).apply s).job = s.job := rfl
@[simp] theorem apply_stream_upd : ((Act.stream n f).apply s).upd = s.upd := rfl
@[simp] theorem apply_stream_coll : ((Act.stream n f).apply s).coll = s.coll := rfl
@[simp] theorem apply_stream_nrt : ((Act.stream n f).apply s).nrt = s.nrt := rfl
@[simp] theorem apply_stream_ports : ((Act.stream n f).apply s).ports = s.ports := rfl
@[simp] theorem apply_stream_host : ((Act.stream n f).apply s).host = s.host := rfl
@[simp] theorem apply_stream_cx : ((Act.stream n f).apply s).cx = s.cx := rfl
@[simp] theorem apply_stream_pwr : ((Act.stream n f).apply s).pwr = s.pwr := rfl
@[simp] theorem apply_stream_rst : ((Act.stream n f).apply s).rst = s.rst := rfl
@[simp] theorem apply_stream_pending : ((Act.stream n f).apply s).pending = s.pending := rfl
end

section
variable (s : State) (a : Nat) (bs : List Byte)
@[simp] theorem apply_flash_time : ((Act.flash a bs).apply s).time = s.time := rfl
@[simp] theorem apply_flash_regs : ((Act.flash a bs).apply s).regs = s.regs := rfl
@[simp] theorem apply_flash_shadows : ((Act.flash a bs).apply s).shadows = s.shadows := rfl
@[simp] theorem apply_flash_latches : ((Act.flash a bs).apply s).latches = s.latches := rfl
@[simp] theorem apply_flash_holds : ((Act.flash a bs).apply s).holds = s.holds := rfl
@[simp] theorem apply_flash_mem : ((Act.flash a bs).apply s).mem = s.mem := rfl
@[simp] theorem apply_flash_undef : ((Act.flash a bs).apply s).undef = s.undef := rfl
@[simp] theorem apply_flash_epoch : ((Act.flash a bs).apply s).epoch = s.epoch := rfl
@[simp] theorem apply_flash_poison0 : ((Act.flash a bs).apply s).poison0 = s.poison0 := rfl
@[simp] theorem apply_flash_poison1 : ((Act.flash a bs).apply s).poison1 = s.poison1 := rfl
@[simp] theorem apply_flash_poison2 : ((Act.flash a bs).apply s).poison2 = s.poison2 := rfl
@[simp] theorem apply_flash_events : ((Act.flash a bs).apply s).events = s.events := rfl
@[simp] theorem apply_flash_evSeq : ((Act.flash a bs).apply s).evSeq = s.evSeq := rfl
@[simp] theorem apply_flash_out : ((Act.flash a bs).apply s).out = s.out := rfl
@[simp] theorem apply_flash_freeCount : ((Act.flash a bs).apply s).freeCount = s.freeCount := rfl
@[simp] theorem apply_flash_tiles : ((Act.flash a bs).apply s).tiles = s.tiles := rfl
@[simp] theorem apply_flash_phys : ((Act.flash a bs).apply s).phys = s.phys := rfl
@[simp] theorem apply_flash_reel : ((Act.flash a bs).apply s).reel = s.reel := rfl
@[simp] theorem apply_flash_job : ((Act.flash a bs).apply s).job = s.job := rfl
@[simp] theorem apply_flash_upd : ((Act.flash a bs).apply s).upd = s.upd := rfl
@[simp] theorem apply_flash_coll : ((Act.flash a bs).apply s).coll = s.coll := rfl
@[simp] theorem apply_flash_nrt : ((Act.flash a bs).apply s).nrt = s.nrt := rfl
@[simp] theorem apply_flash_ports : ((Act.flash a bs).apply s).ports = s.ports := rfl
@[simp] theorem apply_flash_hub : ((Act.flash a bs).apply s).hub = s.hub := rfl
@[simp] theorem apply_flash_host : ((Act.flash a bs).apply s).host = s.host := rfl
@[simp] theorem apply_flash_cx : ((Act.flash a bs).apply s).cx = s.cx := rfl
@[simp] theorem apply_flash_pwr : ((Act.flash a bs).apply s).pwr = s.pwr := rfl
@[simp] theorem apply_flash_pending : ((Act.flash a bs).apply s).pending = s.pending := rfl
end

section
variable (s : State)
@[simp] theorem apply_time_time (t : Nat) : ((Act.time t).apply s).time = t % 2 ^ 64 := rfl
theorem apply_reg_regs (off : Nat) (v : W32) : ((Act.reg off v).apply s).regs = Store.set regReset s.regs off (v &&& BitVec.ofNat 32 (implMask off)) := rfl
@[simp] theorem apply_out_out (o : Out) : ((Act.out o).apply s).out = o :: s.out := rfl
@[simp] theorem apply_free_freeCount : (Act.free.apply s).freeCount = s.freeCount + 1 := rfl
@[simp] theorem apply_reel_reel (f : Reel → Reel) : ((Act.reel f).apply s).reel = f s.reel := rfl
@[simp] theorem apply_job_job (f : Option Job → Option Job) : ((Act.job f).apply s).job = f s.job := rfl
@[simp] theorem apply_upd_upd (f : Upd → Upd) : ((Act.upd f).apply s).upd = f s.upd := rfl
@[simp] theorem apply_coll_coll (f : Coll → Coll) : ((Act.coll f).apply s).coll = f s.coll := rfl
@[simp] theorem apply_nrt_nrt (f : Nrt → Nrt) : ((Act.nrt f).apply s).nrt = { f s.nrt with flows := s.nrt.flows, keys := s.nrt.keys } := rfl
@[simp] theorem apply_hub_hub (f : Hub → Hub) : ((Act.hub f).apply s).hub = { f s.hub with alloc := s.hub.alloc, streams := s.hub.streams } := rfl
@[simp] theorem apply_host_host (f : HostIf → HostIf) : ((Act.host f).apply s).host = { f s.host with fns := s.host.fns, msix := s.host.msix } := rfl
@[simp] theorem apply_cx_cx (f : Cx → Cx) : ((Act.cx f).apply s).cx = { f s.cx with mods := s.cx.mods } := rfl
@[simp] theorem apply_pwr_pwr (f : Pwr → Pwr) : ((Act.pwr f).apply s).pwr = { f s.pwr with groups := s.pwr.groups } := rfl
@[simp] theorem apply_rst_rst (f : Rst → Rst) : ((Act.rst f).apply s).rst = { f s.rst with flash := s.rst.flash } := rfl
theorem apply_event (e : Event) : (Act.event e).apply s = addEvent s e := rfl
end

/-! An event: the record joins the waiting ones, or is lost and counted in a full buffer (R584, R588). -/
section
variable (s : State) (e : Event)
@[simp] theorem addEvent_evSeq : (addEvent s e).evSeq = s.evSeq + 1 := by unfold addEvent; dsimp only; split <;> rfl
theorem addEvent_events (h : s.events.length < 4096) :
    (addEvent s e).events = s.events ++ [{ e with seq := s.evSeq % 256, time := s.time }] := by
  unfold addEvent; dsimp only; rw [if_pos h]
theorem addEvent_regs (h : s.events.length < 4096) : (addEvent s e).regs = s.regs := by unfold addEvent; dsimp only; rw [if_pos h]
@[simp] theorem addEvent_time : (addEvent s e).time = s.time := by unfold addEvent; dsimp only; split <;> rfl
@[simp] theorem addEvent_shadows : (addEvent s e).shadows = s.shadows := by unfold addEvent; dsimp only; split <;> rfl
@[simp] theorem addEvent_latches : (addEvent s e).latches = s.latches := by unfold addEvent; dsimp only; split <;> rfl
@[simp] theorem addEvent_holds : (addEvent s e).holds = s.holds := by unfold addEvent; dsimp only; split <;> rfl
@[simp] theorem addEvent_mem : (addEvent s e).mem = s.mem := by unfold addEvent; dsimp only; split <;> rfl
@[simp] theorem addEvent_undef : (addEvent s e).undef = s.undef := by unfold addEvent; dsimp only; split <;> rfl
@[simp] theorem addEvent_epoch : (addEvent s e).epoch = s.epoch := by unfold addEvent; dsimp only; split <;> rfl
@[simp] theorem addEvent_poison0 : (addEvent s e).poison0 = s.poison0 := by unfold addEvent; dsimp only; split <;> rfl
@[simp] theorem addEvent_poison1 : (addEvent s e).poison1 = s.poison1 := by unfold addEvent; dsimp only; split <;> rfl
@[simp] theorem addEvent_poison2 : (addEvent s e).poison2 = s.poison2 := by unfold addEvent; dsimp only; split <;> rfl
@[simp] theorem addEvent_out : (addEvent s e).out = s.out := by unfold addEvent; dsimp only; split <;> rfl
@[simp] theorem addEvent_freeCount : (addEvent s e).freeCount = s.freeCount := by unfold addEvent; dsimp only; split <;> rfl
@[simp] theorem addEvent_tiles : (addEvent s e).tiles = s.tiles := by unfold addEvent; dsimp only; split <;> rfl
@[simp] theorem addEvent_phys : (addEvent s e).phys = s.phys := by unfold addEvent; dsimp only; split <;> rfl
@[simp] theorem addEvent_reel : (addEvent s e).reel = s.reel := by unfold addEvent; dsimp only; split <;> rfl
@[simp] theorem addEvent_job : (addEvent s e).job = s.job := by unfold addEvent; dsimp only; split <;> rfl
@[simp] theorem addEvent_upd : (addEvent s e).upd = s.upd := by unfold addEvent; dsimp only; split <;> rfl
@[simp] theorem addEvent_coll : (addEvent s e).coll = s.coll := by unfold addEvent; dsimp only; split <;> rfl
@[simp] theorem addEvent_nrt : (addEvent s e).nrt = s.nrt := by unfold addEvent; dsimp only; split <;> rfl
@[simp] theorem addEvent_ports : (addEvent s e).ports = s.ports := by unfold addEvent; dsimp only; split <;> rfl
@[simp] theorem addEvent_hub : (addEvent s e).hub = s.hub := by unfold addEvent; dsimp only; split <;> rfl
@[simp] theorem addEvent_host : (addEvent s e).host = s.host := by unfold addEvent; dsimp only; split <;> rfl
@[simp] theorem addEvent_cx : (addEvent s e).cx = s.cx := by unfold addEvent; dsimp only; split <;> rfl
@[simp] theorem addEvent_pwr : (addEvent s e).pwr = s.pwr := by unfold addEvent; dsimp only; split <;> rfl
@[simp] theorem addEvent_rst : (addEvent s e).rst = s.rst := by unfold addEvent; dsimp only; split <;> rfl
@[simp] theorem addEvent_pending : (addEvent s e).pending = s.pending := by unfold addEvent; dsimp only; split <;> rfl
end

/-! A write of bytes. -/
section
variable (s : State) (a : Nat) (bs : List Byte)
@[simp] theorem apply_write_time : ((Act.write a bs).apply s).time = s.time := by cases bs <;> rfl
@[simp] theorem apply_write_regs : ((Act.write a bs).apply s).regs = s.regs := by cases bs <;> rfl
@[simp] theorem apply_write_shadows : ((Act.write a bs).apply s).shadows = s.shadows := by cases bs <;> rfl
@[simp] theorem apply_write_latches : ((Act.write a bs).apply s).latches = s.latches := by cases bs <;> rfl
@[simp] theorem apply_write_holds : ((Act.write a bs).apply s).holds = s.holds := by cases bs <;> rfl
@[simp] theorem apply_write_epoch : ((Act.write a bs).apply s).epoch = s.epoch := by cases bs <;> rfl
@[simp] theorem apply_write_events : ((Act.write a bs).apply s).events = s.events := by cases bs <;> rfl
@[simp] theorem apply_write_evSeq : ((Act.write a bs).apply s).evSeq = s.evSeq := by cases bs <;> rfl
@[simp] theorem apply_write_out : ((Act.write a bs).apply s).out = s.out := by cases bs <;> rfl
@[simp] theorem apply_write_freeCount : ((Act.write a bs).apply s).freeCount = s.freeCount := by cases bs <;> rfl
@[simp] theorem apply_write_tiles : ((Act.write a bs).apply s).tiles = s.tiles := by cases bs <;> rfl
@[simp] theorem apply_write_phys : ((Act.write a bs).apply s).phys = s.phys := by cases bs <;> rfl
@[simp] theorem apply_write_reel : ((Act.write a bs).apply s).reel = s.reel := by cases bs <;> rfl
@[simp] theorem apply_write_job : ((Act.write a bs).apply s).job = s.job := by cases bs <;> rfl
@[simp] theorem apply_write_upd : ((Act.write a bs).apply s).upd = s.upd := by cases bs <;> rfl
@[simp] theorem apply_write_coll : ((Act.write a bs).apply s).coll = s.coll := by cases bs <;> rfl
@[simp] theorem apply_write_nrt : ((Act.write a bs).apply s).nrt = s.nrt := by cases bs <;> rfl
@[simp] theorem apply_write_ports : ((Act.write a bs).apply s).ports = s.ports := by cases bs <;> rfl
@[simp] theorem apply_write_hub : ((Act.write a bs).apply s).hub = s.hub := by cases bs <;> rfl
@[simp] theorem apply_write_host : ((Act.write a bs).apply s).host = s.host := by cases bs <;> rfl
@[simp] theorem apply_write_cx : ((Act.write a bs).apply s).cx = s.cx := by cases bs <;> rfl
@[simp] theorem apply_write_pwr : ((Act.write a bs).apply s).pwr = s.pwr := by cases bs <;> rfl
@[simp] theorem apply_write_rst : ((Act.write a bs).apply s).rst = s.rst := by cases bs <;> rfl
@[simp] theorem apply_write_pending : ((Act.write a bs).apply s).pending = s.pending := by cases bs <;> rfl
end

end Sys2Proof.Machine
end

