-- ==== Sys2Proof/Tests/Slice0.lean ====
section
/-! SUPPORT. The model's own tests: ill-formed commands are refused; small steps with results taken from the rules; and for each statement of Obligations.lean states and operands that
meet its hypotheses together, clause by clause. -/

namespace Sys2Proof.Tests

open Sys2Proof Sys2Proof.Machine

set_option Elab.async false

/-! The states of the tests. -/

/-- Soundness as a check, for states whose flash has not been written. -/
def sound (s : State) : Bool :=
  decide (s.time < 2 ^ 64) && Memory.wf s.mem && Store.wf regReset s.regs && regsImplemented s.regs && Store.wf (fun _ => none) s.shadows &&
    Store.wf (fun _ => none) s.latches && Store.wf (fun _ => none) s.holds && Store.wf (fun _ => false) s.poison0 && Store.wf (fun _ => false) s.poison1 &&
    Store.wf (fun _ => false) s.poison2 && Store.wf (fun _ => Tile.empty) s.tiles && Store.wf (fun _ => TilePower.off) s.phys &&
    Store.wf (fun _ => Port.empty) s.ports && decide (s.events.length ≤ 4096) &&
    s.undef.all (fun r => r.only.isNone || (decide (baseT1 ≤ r.lo) && decide (r.hi < 0x3400000000))) && Store.wf (fun _ => CxMod.empty) s.cx.mods &&
    Store.wf (fun _ => GroupClk.empty) s.pwr.groups && Store.wf (fun _ => HFn.empty) s.host.fns && Store.wf msixReset s.host.msix &&
    Store.wf (fun _ => Flow.free) s.nrt.flows && Store.wf (fun _ => KeyEntry.free) s.nrt.keys && Store.wf (fun _ => 0) s.hub.alloc &&
    Store.wf (fun _ => (⟨0, 0, none⟩ : DlyStream)) s.hub.streams && s.rst.flash.isEmpty

theorem sound_inv {s : State} (h : sound s = true) : s.Inv := by
  simp only [sound, Bool.and_eq_true, decide_eq_true_eq, List.isEmpty_iff] at h
  obtain ⟨⟨⟨⟨⟨⟨⟨⟨⟨⟨⟨⟨⟨⟨⟨⟨⟨⟨⟨⟨⟨⟨⟨h1, h2⟩, h3⟩, h4⟩, h5⟩, h6⟩, h7⟩, h8⟩, h9⟩, h10⟩, h11⟩, h12⟩, h13⟩, h14⟩, h15⟩, h16⟩, h17⟩, h18⟩, h19⟩, h20⟩, h21⟩, h22⟩, h23⟩, h24⟩ := h
  exact ⟨h1, h2, h3, h4, h5, h6, h7, h8, h9, h10, h11, h12, h13, h14, h15, h16, h17, h18, h19, h20, h21, h22, h23, by rw [h24]; rfl⟩

/-- A field of a register set. -/
def put (s : State) (f : Fld) (v : Nat) : State :=
  { s with regs := Store.set regReset s.regs f.off (f.put (s.reg f.off) v &&& BitVec.ofNat 32 (implMask f.off)) }

/-- A register set. -/
def word (s : State) (off v : Nat) : State := { s with regs := Store.set regReset s.regs off (BitVec.ofNat 32 v &&& BitVec.ofNat 32 (implMask off)) }

/-- A tile's contents set. -/
def tileIs (s : State) (n : Nat) (x : Tile) : State := { s with tiles := Store.set (fun _ => Tile.empty) s.tiles n x }

/-- The module with every byte of memory 0. -/
def m0 : State := { State.reset with undef := [] }
theorem reset_inv : State.reset.Inv := sound_inv (by decide +kernel)
theorem m0_inv : m0.Inv := sound_inv (by decide +kernel)

/-! Ill-formed commands: one for each check of WellFormed.lean, and well-formed ones at the ends of the ranges. -/

def fullMsg : Msg := ⟨255, 255, 65535, 2 ^ 32 - 1, 2 ^ 64 - 1, List.replicate 48 0⟩
def fullCx : CxMsg := { len := 7, tag := 65535, addr := 0, master := 255, poison := false, fail := false, data := [], vc := 3, num := 1023, code := none }
def widest : Packet := { ver := 15, op := 15, dgram := false, retx := false, dstFlow := 4095, srcFlow := 4095, epoch := 255, path := 7, psn := 2 ^ 24 - 1, key := 2 ^ 32 - 1
                         offset := 2 ^ 40 - 1, length := 65535, slate := 2 ^ 64 - 1, bitmap := 2 ^ 64 - 1, payload := [], port := 8, ce := false, ecrcOk := true }

theorem test_wf_accepts_the_widest : ([.nop 179, .registerWrite 0xB3 (2 ^ 30 - 1) (2 ^ 32 - 1), .registerWrite 0xC9 0 0, .registerWrite 0xD8 0 0, .csrBadAccess 0 0 2 false, .tileSeqEcWrite 0 179 7 0,
    .portUp 8, .flrVf 8, .flitCrcFail ⟨103, 55, List.replicate 32 0⟩, .write widest, .joinAck fullMsg, .rd true 5 fullCx, .rd false 103 fullCx, .rdLine false 0 { fullCx with len := 0, code := some 0x17 }, .rdData true 5 { fullCx with num := 103 },
    .cmisReadDone 4 1 255 8 0, .plannedSwapComplete ⟨179, [8191]⟩, .backgroundForced 5, .sidebandMessage 3 (.access ⟨0xB3, 0, none⟩),
    .packetTransmit ⟨4095, some ⟨0, 0, 0, 0, 0, 0⟩⟩, .scrubStep (.imem 179 8191) 0 false, .ringFullTimeout 63] : List Instr).all Instr.wf = true := by decide +kernel

theorem test_wf_refuses_a_tile : (Instr.nop 180).wf = false := rfl
theorem test_wf_refuses_a_port : (Instr.portUp 9).wf = false := rfl
theorem test_wf_refuses_a_function : (Instr.flrVf 9).wf = false := rfl
theorem test_wf_refuses_a_module : (Instr.flitCrcFail ⟨104, 0, List.replicate 32 0⟩).wf = false := by decide +kernel
theorem test_wf_refuses_a_master : ([0xB4, 0xBF, 0xCA, 0xCF, 0xD9].all fun m => !(Instr.registerWrite m 0 0).wf) = true := by decide +kernel
theorem test_wf_refuses_an_offset : (Instr.registerWrite 0 (2 ^ 30) 0).wf = false := by decide +kernel
theorem test_wf_refuses_a_value : (Instr.registerWrite 0 0 (2 ^ 32)).wf = false := by decide +kernel
theorem test_wf_refuses_an_access_size : ([0, 3, 5, 8].all fun n => !(Instr.csrBadAccess 0 0 n false).wf) = true := by decide +kernel
theorem test_wf_refuses_an_entry : (Instr.sqEntryRead 0 0 []).wf = false := by decide +kernel
theorem test_wf_refuses_a_packet : ([{ widest with op := 16 }, { widest with dstFlow := 4096 }, { widest with srcFlow := 4096 }, { widest with epoch := 256 }, { widest with path := 8 },
    { widest with psn := 2 ^ 24 }, { widest with key := 2 ^ 32 }, { widest with offset := 2 ^ 40 }, { widest with length := 2 ^ 16 }, { widest with bitmap := 2 ^ 64 }, { widest with ver := 16 }, { widest with slate := 2 ^ 64 }, { widest with port := 9 }].all
      fun p => !(Instr.write p).wf) = true := by decide +kernel
theorem test_wf_refuses_a_message : ([{ fullMsg with type := 256 }, { fullMsg with epoch := 256 }, { fullMsg with module := 2 ^ 16 }, { fullMsg with seq := 2 ^ 32 }, { fullMsg with slate := 2 ^ 64 },
    { fullMsg with arg := [] }].all fun m => !(Instr.join m).wf) = true := by decide +kernel
theorem test_wf_refuses_a_craxis_message : ([{ fullCx with len := 16384 }, { fullCx with tag := 2 ^ 16 }, { fullCx with addr := 2 ^ 48 }, { fullCx with addr := 0x4000000000 + 96 }, { fullCx with master := 256 }, { fullCx with vc := 4 },
    { fullCx with num := 1024 }, { fullCx with data := [0] }].all fun m => !(Instr.rd true 0 m).wf) = true ∧
    ([{ fullCx with len := 8 }, { fullCx with addr := 0x1000000000 + 192 }].all fun m => !(Instr.rd false 0 m).wf) = true ∧
    (Instr.rd true 0 { fullCx with len := 16383, addr := 0x4000000000 + 192 }).wf = true := by decide +kernel
theorem test_wf_refuses_a_way : (Instr.rd true 6 fullCx).wf = false ∧ (Instr.rd false 104 fullCx).wf = false ∧ (Instr.rdData true 5 { fullCx with num := 95 }).wf = false := by decide +kernel
/-- A reserved opcode only arrives, and is none of R487's. -/
theorem test_wf_refuses_a_code : (Instr.flush true 5 { fullCx with len := 0, code := some 0x17 }).wf = false ∧ (Instr.flush false 0 { fullCx with len := 0, code := some 1 }).wf = false := by decide +kernel
theorem test_wf_refuses_a_place : ([.mem (2 ^ 48), .imem 180 0, .imem 0 8192, .parity 180, .residue 180, .key (2 ^ 18), .packet 4096 0, .packet 0 (2 ^ 24), .received 9, .reelLine (2 ^ 48)].all
    fun p => !(Instr.scrubStep p 0 false).wf) = true := by decide +kernel
theorem test_wf_refuses_a_bound : ([.ringFullTimeout 64, .cmisReadDone 5 1 0 0 0, .cmisReadDone 0 0 0 0 0, .backgroundForced 6, .plannedSwapComplete ⟨0, [8192]⟩, .flitCrcFail ⟨0, 56, List.replicate 32 0⟩, .keyRetire (2 ^ 18), .flowFail 4096, .thermalTrip 7 0, .droopDetect 12, .dieRelease 8, .blockResetDone 32,
    .tileSeqEcWrite 0 0 8 0, .firewallTimeout 4 0] : List Instr).all (fun c => !c.wf) = true := by decide +kernel

/-! No word spells a command: the table gives its rows no bits. -/

theorem test_no_word_is_a_command : decodeTableWord 32 0 = none ∧ (State.reset.withFetchWord 32 0) = State.reset := ⟨rfl, rfl⟩

/-! The worked examples of the spec. -/

/-- R298's slice 2 of layer 7: the w_in entry passes its checks, and neither a destination past line 32,767 nor a LOWER entry with no lower entry does. -/
theorem test_reel_entries :
    let e : ReelEntry := { ReelEntry.decode [] with cue := 59, start := 56, tile0 := 64, ntm1 := 15, srcOff := 569216, lines := 17787, destLine := 8192, deadline := 20 }
    let o : Obj := { Obj.decode [] with tier := 1, size := 226074624 }
    reelOk [e] [o] 180 = true ∧ reelOk [{ e with destLine := 16384 }] [o] 180 = false ∧ reelOk [{ e with fallback := 2 }] [o] 180 = false := by decide +kernel

/-- 02_sniril_formats, Worked example: an S12 block of 13.703125, −2.25, −315 × 2^−20 and −2^−21, its scale and its codes. -/
theorem test_s12_block :
    let b := encodeBlock .s12 (Conv.decode 0x1110001) ((([0x415B4000, 0xC0100000, 0xB99D8000, 0xB5000000] : List W32)).map (fun x => ⟨fpEVal x, 0, none⟩))
    b.scale = 0xFB ∧ b.codes = [0x7DB, 0xE90, 0x84F, 0] ∧ b.health.vanish = 1 := by decide +kernel
/-- The same example: the first six bytes of the line (R66). -/
theorem test_s12_packing : packCodes .s12 [0x7DB, 0xE90, 0x84F, 0] = [0xDB, 0x07, 0xE9, 0x4F, 0x08, 0x00] := by decide +kernel
/-- 03_long_accumulation, Worked example: the partial records of two members, combined (R111, R113). -/
theorem test_partials_combine :
    let p : Cell := ⟨3582408 * 2 ^ 57, 0, false, 10, false, false⟩
    let q : Cell := ⟨16256, 0, false, 10, false, false⟩
    (p.combine q).record = 10 * 2 ^ 116 + 0x6D53900000000000 * 2 ^ 16 + 0x3F80 := by decide +kernel
/-- 01_module_and_package, Worked example: 600, 0 and 66 W give 630 W; 450 and 66 W give 490 W (R30). -/
theorem test_ceilings : ceilingOf [600, 0, 66] = 630 ∧ ceilingOf [450, 66] = 490 := by decide +kernel
/-- 07_tile_programs_and_slates, Worked example: the Slate of step 1,207, micro-batch 5, phase 1, stage 3, and that of its first replay. -/
theorem test_slates : mkSlate 1207 5 0 1 3 = 0x000004B700501030 ∧ mkSlate 1207 5 1 1 3 = 0x000004B700511030 := by decide +kernel
/-- 12_nimvon_transport: the key 0x0004_1A3C names entry 6,716, generation 1. -/
theorem test_key : keyIndex 0x00041A3C = 6716 ∧ bitsOf 0x00041A3C 25 18 = 1 ∧ bitsOf 0x00041A3C 31 26 = 0 := by decide +kernel
/-- 18_counters_and_dailies, Worked example: all seven sections make a slot of 245 units of 192 bytes. -/
theorem test_slot_units : slotUnits 0x7F = 245 := by decide +kernel

/-- 09_parameter_update, Worked example: the group, its curves in T2, and the first update of its element. -/
def adam : Group := { Group.decode [] with
  s2En := true, bc1 := true, bc2 := true, curveAddr := 0x4000000000, nEta := 1, nLam := 1, a1 := 0x3F600000, b1 := 0x3E000000, a2 := 0x3F7FC000, b2 := 0x3A800000
  eps := 0x35800000, sc := 0x3F800000, bp1 := 0x3F800000, bp2 := 0x3F800000 }
theorem test_first_update :
    let s := { m0 with mem := writeBytes m0.mem 0x4000000000 ([1, 0, 0, 0] ++ leBytes 4 0x3A800000 ++ [1, 0, 0, 0] ++ leBytes 4 0x3D800000) }
    let c := s.scalars adam 1
    let e := updElem adam c 0 0 0x3E800000
    c = ⟨0x3F600000, 0x3F7FC000, 0x41000000, 0x44800000, 0x3A800000, 0x3F7FFC00⟩ ∧ e = (0x3D000000, 0x38800000, 0x3F7FFFC0) ∧ updMaster c e.2.2 0x3F000000 = 0x3EFF7C00 := by decide +kernel
/-! The machine as a whole. -/

theorem witness_StepRunsFront : ({ m0 with pending := [.nop 179, .powerLoss] }).pending = Instr.nop 179 :: [.powerLoss] := rfl

theorem witness_EmptyQueueTicks :
    (State.reset.pending = [] ∧ State.reset.rst.powered = true ∧ State.reset.trim = 0 ∧ State.reset.pwr.neg = 0 ∧ State.reset.pwr.frac < 1000000000) ∧
    (let s := { m0 with rst := { m0.rst with powered := false } }
     s.pending = [] ∧ s.rst.powered = false) := by decide +kernel

/-- The next state of an outcome. -/
def after : Host.Outcome State Fault Refusal → Option State
  | .next t => some t
  | _ => none

theorem witness_StepKeepsSound : m0.Inv ∧ (after (Machine.step m0)).any (fun t => decide (t.time = 40)) = true := ⟨m0_inv, by decide +kernel⟩

theorem witness_CommandsLeaveOtherParts : (after (exec (.tileRetain 0) m0)).isSome = true ∧ StatePart.registers ∉ mayChange (.tileRetain 0) := by decide +kernel

/-- A register that has no other effect than its word's, seen by keeper firmware and by a tile. -/
theorem witness_ReservedBitsReadZero : m0.Inv ∧ (findReg Reg.CLKG_TRIM).any (fun h => decide (h.spec.kind = .plain)) = true ∧ ownEffect Reg.CLKG_TRIM = false ∧
    m0.place mKeeper Reg.CLKG_TRIM true = .reg Reg.CLKG_TRIM := ⟨m0_inv, by decide +kernel⟩

theorem witness_PlainWriteChangesItsWord : (findReg Reg.CLKG_TRIM).any (fun h => decide (h.spec.kind = .plain) && !h.spec.hasRws &&
      !(h.spec.write 0 (m0.running h) (m0.reg Reg.CLKG_TRIM).toNat 0xFFFFF).privilege && !(h.spec.write 0 (m0.running h) (m0.reg Reg.CLKG_TRIM).toNat 0xFFFFF).whileRunning) = true ∧
    ownEffect Reg.CLKG_TRIM = false ∧ m0.place 0 Reg.CLKG_TRIM true = .reg Reg.CLKG_TRIM := by decide +kernel

/-- Has the register at an offset a field of a type, static as said, under a RUN bit that is set or not? -/
def hasField (s : State) (off : Nat) (ty : FType) (held : Bool) : Bool :=
  (findReg off).any (fun h => decide (h.spec.kind = .plain) && h.spec.fields.any (fun f => decide (f.ty = ty) && ((f.static && s.running h) == held))) && !ownEffect off &&
    decide (s.place mKeeper off true = .reg off) && !pmonCounter off

/-- Tile 0's array at work; port 0 running. -/
def busy : State := put (tileIs m0 0 { Tile.empty with arr := [⟨⟨[], 0, 0, 0, 0⟩, 0, [], false, [], false, [], 0, 0, 0, [], [], none, false, false⟩] }) (Fl.MAC_CTRL_RUN 0) 1

theorem witness_FieldsTakeWritesByType : m0.Inv ∧ busy.Inv ∧ hasField m0 Reg.PWRM_STATUS .ro false = true ∧ hasField m0 Reg.PWRM_STATUS .w1c false = true ∧
    hasField m0 (Reg.FN_LIVE 0) .wo false = true ∧ hasField m0 (Reg.TILE_LA_CTRL 0) .rws false = true ∧ m0.blockIdle (Reg.TILE_LA_CTRL 0) = true ∧
    hasField busy (Reg.TILE_LA_CTRL 0) .rws false = true ∧ busy.blockIdle (Reg.TILE_LA_CTRL 0) = false ∧ hasField m0 (Reg.MAC_VLAN 0) .rw false = true ∧
    hasField busy (Reg.MAC_VLAN 0) .rw true = true ∧ hasField m0 Reg.RSTC_WDOG .rwl false = true ∧ mayWrite mKeeper (Reg.MAC_VLAN 0) = false ∧ mayWrite 0xC5 (Reg.MAC_VLAN 0) = true :=
  ⟨m0_inv, sound_inv (by decide +kernel), by decide +kernel⟩

theorem witness_KeeperAloneWritesRwl : m0.Inv ∧ hasField m0 (Reg.HOSTIF_GUEST_SIZE 7) .rwl false = true ∧ 0xB3 ≠ mKeeper ∧
    m0.place 0xB3 (Reg.HOSTIF_GUEST_SIZE 7) true = .reg (Reg.HOSTIF_GUEST_SIZE 7) ∧ bitsOf 5 17 0 ≠ bitsOf (m0.reg (Reg.HOSTIF_GUEST_SIZE 7)).toNat 17 0 :=
  ⟨m0_inv, by decide +kernel⟩

theorem witness_KeeperAloneWritesRwl_effects : m0.Inv ∧ rwlWithEffect Reg.KEYT_CMD = true ∧ rwlWithEffect (Reg.CRAXIS_LINK_CFG 5) = true ∧
    m0.place 0xB3 Reg.KEYT_CMD true = .reg Reg.KEYT_CMD ∧
    (findReg Reg.KEYT_CMD).any (fun h => h.spec.fields.any (fun f => decide (f.ty = .rwl))) = true ∧
    m0.place 0xB3 (Reg.HOSTIF_GUEST_BASE_HI 7) true = .reg (Reg.HOSTIF_GUEST_BASE_HI 7) ∧ ownEffect (Reg.HOSTIF_GUEST_BASE_HI 7) = false ∧
    (findReg (Reg.HOSTIF_GUEST_BASE_HI 7)).any (fun h => decide (h.spec.kind = .hi) && h.spec.fields.any (fun f => decide (f.ty = .rwl))) = true :=
  ⟨m0_inv, by decide +kernel⟩

theorem witness_LoReadLatchesHi : (findReg Reg.CLKG_TRIM).any (fun h => decide (h.spec.kind = .plain)) = true ∧
    (findReg (Reg.RSTC_COUNT_LO 4)).any (fun h => decide (h.spec.kind = .lo)) = true ∧ (findReg (Reg.RSTC_COUNT_LO 4 + 4)).any (fun h => decide (h.spec.kind = .hi)) = true ∧
    m0.place 0 (Reg.RSTC_COUNT_LO 4) false = .reg (Reg.RSTC_COUNT_LO 4) ∧ Reg.RSTC_COUNT_LO 4 % 4 = 0 ∧
    (Store.get (fun _ => none) [(masterKey 0 (Reg.RSTC_COUNT_LO 4 + 4), some (7 : W32))] (masterKey 0 (Reg.RSTC_COUNT_LO 4 + 4))) = some 7 ∧
    Store.get (fun _ => none) m0.latches (masterKey 0 (Reg.RSTC_COUNT_LO 4 + 4)) = none := by decide +kernel

theorem witness_BadAccessesAreRefused : 4 < 3 % 4 + 2 ∧ ((2 : Nat) ≠ 4 ∨ (4 : Nat) % 4 ≠ 0) ∧ ((4 : Nat) ≠ 4 ∨ (6 : Nat) % 4 ≠ 0) ∧ m0.mapped mKeeper 0x80000000 false = false ∧
    m0.mapped mKeeper 0x3400000000 true = false ∧ m0.mapped 0 0x200 false = false := by decide +kernel

theorem witness_ShadowsApplyTogether :
    let s := { busy with shadows := [(Reg.TILE_LA_CTRL 0, some 0x300)] }
    s.Inv ∧ tileBlock 0 ≠ 0x30000 ∧ tileBlock 0 ≠ 0xC00000 ∧ tileBlock 0 ≤ Reg.TILE_LA_CTRL 0 ∧ Reg.TILE_LA_CTRL 0 < blockEnd (tileBlock 0) ∧
      Store.get (fun _ => none) s.shadows (Reg.TILE_LA_CTRL 0) = some 0x300 ∧ (findReg (Reg.TILE_LA_CTRL 0)).isSome = true :=
  ⟨sound_inv (by decide +kernel), by decide +kernel⟩

/-! Supplies, cages, and the management bus. -/

/-- A start in a state of R552. -/
def inState (n : Nat) : State := put m0 Fl.RSTC_STATE_STATE n

/-- Both connectors of 450 W and the slot; none. -/
def fullSupply : Supply := ⟨12000, 12000, 12000, 3300, 3300, 2, 2⟩
def noSupply : Supply := ⟨0, 0, 0, 3300, 3300, 0, 0⟩
def surveyed : State := put (put (put (inState stRunning) Fl.IDENT_SUPPLY_SLOT_LIMIT 66) Fl.IDENT_SUPPLY_CONN0_LIMIT 450) Fl.IDENT_SUPPLY_CONN1_LIMIT 300

theorem witness_SuppliesSetTheCeiling : (inState stSupplyWait).Inv ∧ (inState stSupplyWait).rstState = stSupplyWait ∧ surveyed.Inv ∧ surveyed.keeperRuns = true ∧
    (let left := fun (x : Supply) => (surveyed.limits.zip (supplyLimits x)).map (fun p => if p.1 = 0 then 0 else p.2)
     300 ≤ min 800 ((left fullSupply).sum * 95 / 100 / 10 * 10) ∧ surveyed.rstState ≠ stSupplyWait ∧ min 800 ((left noSupply).sum * 95 / 100 / 10 * 10) < 300) :=
  ⟨sound_inv (by decide +kernel), by decide +kernel, sound_inv (by decide +kernel), by decide +kernel⟩

/-- A survey of which cage 4 is left: its read, and another cage still at work. -/
def cageAt (x : CageRead) (others : List (Nat × CageRead)) : State := { inState stDies with rst := { m0.rst with survey := (4, x) :: others } }
def newCage : CageRead := CageRead.begin true false

theorem witness_CagesAreSurveyed :
    ((inState stDies).keeperRuns = true ∧ (inState stDies).rst.firstSurvey = false ∧ (inState stDies).rst.survey = [] ∧ [false, false, false, false, true].getD 4 false = true) ∧
    (let s := { inState stDies with rst := { m0.rst with firstSurvey := true } }
     s.keeperRuns = true ∧ s.rst.firstSurvey = true ∧ s.rst.survey = [] ∧ bitOf 0x10000 16 = true ∧ s.cageRead 4 = none) ∧
    (let s := cageAt newCage [(0, newCage)]
     s.keeperRuns = true ∧ s.cageRead 4 = some newCage ∧ newCage.read = false ∧ s.rst.survey.any (fun e => decide (e.1 ≠ 4) && !e.2.finished) = true ∧
       newCage.tries = 0 ∧ newCage.restarts < 2) ∧
    (let x := { newCage with tries := 1, restarts := 2 }
     let s := cageAt x [(0, newCage)]
     s.cageRead 4 = some x ∧ x.read = false ∧ x.tries ≠ 0 ∧ 2 ≤ x.restarts ∧ s.rst.survey.any (fun e => decide (e.1 ≠ 4) && !e.2.finished) = true) ∧
    (let x := { newCage with read := true }
     let s := cageAt x [(0, newCage)]
     s.cageRead 4 = some x ∧ x.read = true ∧ x.finished = false ∧ s.rst.survey.any (fun e => decide (e.1 ≠ 4) && !e.2.finished) = true) := by decide +kernel

theorem witness_CagesAreSurveyed_last :
    let x := { newCage with read := true }
    let s := cageAt x [(0, { newCage with finished := true })]
    s.Inv ∧ s.cageRead 4 = some x ∧ x.read = true ∧ x.finished = false ∧ ∀ e ∈ s.rst.survey, e.1 ≠ 4 → e.2.finished = true :=
  ⟨sound_inv (by decide +kernel), by decide +kernel⟩

theorem witness_CagesAreSurveyed_held :
    let s := cageAt newCage [(0, { newCage with finished := true })]
    s.Inv ∧ s.cageRead 4 = some newCage ∧ newCage.read = false ∧ 120 < 121 ∧ ∀ e ∈ s.rst.survey, e.1 ≠ 4 → e.2.finished = true :=
  ⟨sound_inv (by decide +kernel), by decide +kernel⟩

theorem witness_BmcAndSpdmAreAnswered :
    (let s := { m0 with pwr := { m0.pwr with governs := 2001, temps := [(5, 0, 320), (6, 0, 303)] } }
     s.temp 5 0 = some 320 ∧ s.temp 6 0 = some 303 ∧ (303 : Int) < 320 - 16 ∧ 2000 < s.pwr.governs) ∧ (inState stRunning).mctpRuns = true ∧ (inState stRecovery).mctpRuns = true ∧ (inState stRunning).mctpAddr = 0x4E ∧ (0x4F : Nat) ≠ 0x4E ∧
    bitOf (leAt [0x11, 0xE0, 0, 1] 2 1) 0 = false ∧ bitOf (leAt [0x11, 0xE0, 1, 0xFF] 2 1) 0 = true := by decide +kernel

/-! Power, clocks, temperatures. -/

/-- A running module under a ceiling of 800 W, its group 11 clocked at point 3. -/
def warm : State := put (put (put (inState stRunning) Fl.IDENT_CAP_CEILING_CEILING 800) (Fl.CLKG_GROUP_STOPPED 11) 0) (Fl.CLKG_GROUP_POINT 11) 3
def sick : State := put warm Fl.PWRM_STATUS_SENSOR_FAILED 1
def withPwr (f : Pwr → Pwr) : State := { warm with pwr := f warm.pwr }

theorem witness_MeasuredPowerGoverns : warm.Inv ∧ sick.Inv ∧
    (implausible 3000 3000 800 1 3000 = false ∧ warm.fld Fl.IDENT_CAP_CEILING_CEILING = 800 ∧ warm.fld Fl.PWRM_STATUS_SENSOR_FAILED = 0 ∧
      100 * (max 3000 3000 - min 3000 3000) ≤ 15 * max 3000 3000 ∧ 15 * max 3000 2000 < 100 * (max 3000 2000 - min 3000 2000) ∧
      implausible 3000 2000 800 1 2000 = false) ∧
    (implausible 3000 3000 800 1 3000 = false ∧ sick.fld Fl.PWRM_STATUS_SENSOR_FAILED = 1) ∧ implausible 299 3000 800 1 3000 = true :=
  ⟨sound_inv (by decide +kernel), sound_inv (by decide +kernel), by decide +kernel⟩

theorem witness_MeasuredPowerGoverns_recovery :
    (let s := { sick with pwr := { sick.pwr with good := 100000 } }
     s.Inv ∧ s.fld Fl.PWRM_STATUS_SENSOR_FAILED = 1 ∧ 100000 ≤ s.pwr.good) ∧
    (let s := withPwr (fun p => { p with apart := 101 })
     s.Inv ∧ s.fld Fl.PWRM_STATUS_SENSOR_FAILED = 0 ∧ 100 < s.pwr.apart ∧ s.pwr.diverged = false) ∧
    (let s := withPwr (fun p => { p with diverged := true, near := 1000 })
     s.Inv ∧ s.pwr.diverged = true ∧ 1000 ≤ s.pwr.near) ∧
    bitOf 4 2 = true ∧ 128 < bitsOf 0x404001 7 0 + bitsOf 0x404001 15 8 + bitsOf 0x404001 23 16 ∧
    bitsOf 0x404000 7 0 + bitsOf 0x404000 15 8 + bitsOf 0x404000 23 16 ≤ 128 ∧ warm.blockIdle Reg.PWRM_FRAC = true :=
  ⟨⟨sound_inv (by decide +kernel), by decide +kernel⟩, ⟨sound_inv (by decide +kernel), by decide +kernel⟩, ⟨sound_inv (by decide +kernel), by decide +kernel⟩,
    by decide +kernel⟩

theorem witness_FixedBudgets : warm.Inv ∧ warm.fld Fl.PWRM_CTRL_MODE = 0 ∧ warm.pwr.cuts = [0, 0] := ⟨sound_inv (by decide +kernel), by decide +kernel⟩

theorem witness_PointsMove :
    (let s := withPwr (fun p => { p with governs := 10 * warm.cap + 1 })
     s.Inv ∧ s.clocked 11 = true ∧ (s.clk 11).target.getD (s.point 11) ≠ 0 ∧ (s.pwr.budgets.getD 0 0 < s.pwr.draws.getD 0 0 ∨ 10 * s.cap < s.pwr.governs ∨ s.inputOver = true)) ∧
    (let s := withPwr (fun p => { p with inputs := [0, 0, 1] })
     s.Inv ∧ s.inputOver = true ∧ s.clocked 11 = true ∧ (s.clk 11).target.getD (s.point 11) ≠ 0) ∧
    (let s := withPwr (fun p => { p with budgets := [Config.nextEstimate 11 4 (warm.groupVoltage 11 4) 0, 0, 0, 0] })
     s.Inv ∧ s.clocked 11 = true ∧ (s.clk 11).target.getD (s.point 11) = 3 ∧ 3 < s.allowed 11 ∧
       Config.nextEstimate 11 (3 + 1) (s.groupVoltage 11 (3 + 1)) (s.pwr.draws.getD 0 0) ≤ s.pwr.budgets.getD 0 0 ∧ s.pwr.governs ≤ 10 * s.cap ∧ s.inputOver = false) ∧
    (let s := withPwr (fun p => { p with groups := [(11, { GroupClk.empty with target := some 15 })] })
     s.Inv ∧ (s.clk 11).target = some 15) ∧
    warm.clocked 11 = true ∧ warm.fld (Fl.CLKG_GROUP_STRETCHED 11) = 0 :=
  ⟨⟨sound_inv (by decide +kernel), by decide +kernel⟩, ⟨sound_inv (by decide +kernel), by decide +kernel⟩,
    ⟨sound_inv (by decide +kernel), by decide +kernel, by decide +kernel, by decide +kernel, Nat.le_refl _, by decide +kernel⟩,
    ⟨sound_inv (by decide +kernel), by decide +kernel⟩, by decide +kernel⟩

theorem witness_PointsMove_held :
    (let s := withPwr (fun p => { p with groups := [(11, { GroupClk.empty with ceiling := some (3, 2 ^ 40) })] })
     s.Inv ∧ (s.clk 11).ceiling = some (3, 2 ^ 40) ∧ s.time < 2 ^ 40 ∧ 3 ≤ (s.clk 11).target.getD (s.point 11)) :=
  ⟨sound_inv (by decide +kernel), by decide +kernel⟩

theorem witness_TemperaturesGovern :
    (sensorWarn 0 = some 800 ∧ (800 : Int) < 801 ∧ warm.warns 0 = true ∧ warm.pwr.warned.contains (0, 11) = false ∧ warm.events.length + warm.pwr.temps.length + 1 ≤ 4096) ∧
    (let s := withPwr (fun p => { p with temps := [(0, 11, 761)] })
     s.Inv ∧ s.throttles 0 11 = true ∧ s.clocked 11 = true ∧ (s.clk 11).target.getD (s.point 11) ≠ 0) ∧
    (let s := withPwr (fun p => { p with temps := [(4, 0, 681)] })
     sensorClass 4 = some 1 ∧ s.throttles 4 0 = true) ∧
    (let s := withPwr (fun p => { p with temps := [(3, 0, 656)], throttled := [(3, 0)] })
     s.Inv ∧ sensorClass 3 = some 0 ∧ s.temp 3 0 = some 656 ∧ sensorThrottle 3 = some 680 ∧ (656 : Int) ≤ 680 - 24 ∧ s.pwr.throttled.contains (3, 0) = true ∧
       s.otherHot 3 0 = false) ∧
    (let s := withPwr (fun p => { p with temps := [(0, 11, 736)], throttled := [(0, 11)], groups := [(11, { GroupClk.empty with hot := some (1, 2) })] })
     s.Inv ∧ s.temp 0 11 = some 736 ∧ (736 : Int) ≤ 760 - 24 ∧ s.pwr.throttled.contains (0, 11) = true ∧ s.otherHot 0 11 = false ∧ (s.clk 11).hot = some (1, 2)) ∧
    (let s := withPwr (fun p => { p with temps := [(4, 0, 800)] })
     s.rst.powered = true ∧ s.temp 4 0 = some 800 ∧ sensorTrip 4 = some 800) :=
  ⟨by decide +kernel, ⟨sound_inv (by decide +kernel), by decide +kernel⟩, by decide +kernel,
    ⟨sound_inv (by decide +kernel), by decide +kernel⟩, ⟨sound_inv (by decide +kernel), by decide +kernel⟩,
    by decide +kernel⟩

theorem witness_TilesRetainAndWake :
    (let s := { m0 with phys := [(187, .on)] }
     s.Inv ∧ s.physOf 179 = 187 ∧ s.fld (Fl.TILE_SEQ_CTRL_RUN 179) = 0 ∧ s.power (s.physOf 179) = .on ∧ s.job = none) ∧
    (let s := { m0 with phys := [(187, .waking)] }
     s.Inv ∧ s.power (s.physOf 179) = .waking) ∧
    (∀ i < 16, m0.power (16 * 11 + i) = .off) ∧
    (let s := tileIs m0 179 { Tile.empty with tone := some (0, 65536) }
     s.Inv ∧ (s.tile 179).tone.isSome = true) ∧
    ({ m0 with phys := [(187, .on)] } : State).power (64 * 2 + 59) = .on ∧ m0.rst.powered = true ∧ (∀ i < 64, m0.power (64 * 2 + i) = .off) :=
  ⟨⟨sound_inv (by decide +kernel), by decide +kernel⟩, ⟨sound_inv (by decide +kernel), by decide +kernel⟩, by decide +kernel,
    ⟨sound_inv (by decide +kernel), by decide +kernel⟩, by decide +kernel⟩

theorem witness_TimeStepsAndHours : m0.Inv ∧ 1000 < 2 ^ 31 - 1 ∧ (2 ^ 31 ≤ 2 ^ 32 - 1001 ∧ 1000 < 2 ^ 32 - (2 ^ 32 - 1001)) ∧ warm.keeperRuns = true := ⟨m0_inv, by decide +kernel⟩

/-! Resets and the start. -/

/-- As m0, the option values chosen. -/
def optioned (reach twin : Nat) : State := put (put m0 Fl.OPTS_VALUES_HOST_RESET_REACH reach) Fl.OPTS_VALUES_TWIN_RESET_EN twin

/-- As optioned, with a twin on port 8. -/
def twinned (reach twin : Nat) : State := put (put (optioned reach twin) (Fl.IDENT_CAGE_MODE 4) 1) (Fl.MAC_STATUS_STATE 8) macUp

theorem witness_SourcesResetTheModule_twin : (twinned 0 1).Inv ∧ (twinned 0 1).rst.powered = true ∧ (twinned 0 1).hasTwin = true ∧ (twinned 0 1).receives 8 = true ∧
    (twinned 0 1).fld Fl.OPTS_VALUES_TWIN_RESET_EN = 1 ∧ (0 : Nat) = ((twinned 0 1).job.map (·.jobId)).getD 0 % 2 ^ 32 :=
  ⟨sound_inv (by decide +kernel), by decide +kernel⟩

theorem witness_SourcesResetTheModule : m0.Inv ∧ (optioned 1 1).Inv ∧ (inState stRecovery).Inv ∧ m0.rst.powered = true ∧ (optioned 1 1).rst.powered = true ∧
    (optioned 1 1).fld Fl.OPTS_VALUES_HOST_RESET_REACH = 1 ∧ (inState stRunning).keeperRuns = true ∧ (optioned 1 1).fld Fl.OPTS_VALUES_TWIN_RESET_EN = 1 ∧
    ((0 : Nat) = ((optioned 1 1).job.map (·.jobId)).getD 0 % 2 ^ 32 ∨ (0 : Nat) = 0 ∨ ((optioned 1 1).job.map (·.jobId)).getD 0 % 2 ^ 32 = 0) ∧
    bitOf 0xC301 0 = true ∧ bitsOf 0xC301 15 8 = 0xC3 ∧
    ((inState stDies).rstState ≠ 0 ∧ (inState stDies).rstState < stRunning ∧ (inState stDies).rstState ≠ stSupplyWait ∧ (inState stDies).rstState ≠ stThermalWait) ∧
    (inState stRecovery).rstState = stRecovery :=
  ⟨m0_inv, sound_inv (by decide +kernel), sound_inv (by decide +kernel), by decide +kernel⟩

theorem witness_ResetsBeginAndEnd :
    (let s := { m0 with rst := { m0.rst with powered := false } }
     s.Inv ∧ s.rst.powered = false) ∧
    (m0.rst.powered = true ∧ (optioned 0 0).fld Fl.OPTS_VALUES_HOST_RESET_REACH = 0) ∧
    (m0.rst.interval = true ∧ 1 ≠ 4 ∧ 1 ∈ m0.rst.asserted ∧ (∀ x ∈ m0.rst.asserted, x = 1 ∨ x = 4) ∧ 2 ≤ m0.rst.widest) ∧
    (let s := { m0 with rst := { m0.rst with asserted := [3, 2, 4] } }
     s.Inv ∧ s.rst.interval = true ∧ 2 ∈ s.rst.asserted ∧ (∃ x ∈ s.rst.asserted, x ≠ 2 ∧ x ≠ 4) ∧ 2 ≤ s.rst.widest) ∧
    (let s := { m0 with rst := { m0.rst with asserted := [4], widest := 1 } }
     s.Inv ∧ s.rst.interval = true ∧ s.rst.asserted = [4] ∧ s.rst.widest = 1) :=
  ⟨⟨sound_inv (by decide +kernel), by decide +kernel⟩, by decide +kernel, by decide +kernel, ⟨sound_inv (by decide +kernel), by decide +kernel⟩, sound_inv (by decide +kernel), by decide +kernel⟩

/-- All far dies released, their links up and their READY seen. -/
def upMods (hs : List Nat) : State :=
  { hs.foldl (fun s h => put s (Fl.CRAXIS_MOD_STATUS_STATE h) cxActive) (inState stDies) with
    rst := { m0.rst with released := [0, 1, 2, 3, 4, 5, 6, 7], ready := [0, 1, 2, 3, 4, 5, 6, 7] } }

def diesUp : State := upMods (List.range 104)

theorem witness_StartGoesOn : (inState stKeeperBoot).Inv ∧ ((inState stKeeperBoot).rstState = stKeeperBoot ∧ (inState stKeeperBoot).rst.opt = none) ∧
    ((inState stDies).Inv ∧ (inState stDies).rstState = stDies ∧ (inState stDies).rst.released.length = 0) ∧
    (let s := { inState stThermalWait with pwr := { m0.pwr with temps := [(1, 0, 599), (1, 1, 599), (1, 2, 599), (1, 3, 599)] } }
     let t := { s with time := 10000000005, pwr := { s.pwr with tripAt := some 5 } }
     s.Inv ∧ t.Inv ∧ s.rstState = stThermalWait ∧ (∀ i < 4, (s.temp 1 i).any (fun v => decide (v < 600)) = true) ∧ s.pwr.tripAt = none ∧
       t.rstState = stThermalWait ∧ (∀ i < 4, (t.temp 1 i).any (fun v => decide (v < 600)) = true) ∧ t.pwr.tripAt = some 5 ∧ 5 + 10000000000 ≤ t.time) ∧
    (0xC5 ≤ 0xC8 ∧ bitOf 4 2 = true ∧ bitOf 4 1 = false ∧ bitOf 4 0 = false) ∧
    (let s := { inState stStageBoot with rst := { m0.rst with stage := .loaded } }
     s.Inv ∧ s.rst.stage = .loaded ∧ s.rstState = stStageBoot ∧ s.rst.cfg = []) ∧
    (let s := { inState stRunning with rst := { m0.rst with stage := .loaded } }
     s.Inv ∧ s.rst.stage = .loaded ∧ s.rstState = stRunning) :=
  ⟨sound_inv (by decide +kernel), by decide +kernel, ⟨sound_inv (by decide +kernel), by decide +kernel⟩, ⟨sound_inv (by decide +kernel), sound_inv (by decide +kernel), by decide +kernel⟩, by decide +kernel,
    ⟨sound_inv (by decide +kernel), by decide +kernel⟩, sound_inv (by decide +kernel), by decide +kernel⟩

theorem witness_StartGoesOn_stage : diesUp.Inv ∧ diesUp.rstState = stDies ∧ diesUp.rst.released.length = 8 ∧ ∀ d < 8, diesUp.dieReady d = true :=
  ⟨sound_inv (by decide +kernel), by decide +kernel⟩

theorem witness_StartGoesOn_nextDie :
    let s := { upMods (dieMods 6) with rst := { (upMods []).rst with released := [0, 1, 2, 3, 4, 5, 6], ready := [] } }
    s.rstState = stDies ∧ s.rst.released.length = 7 ∧ s.dieUp 6 = true := by decide +kernel

theorem witness_TwinsAndBlocksAreReset : m0.Inv ∧ (bitOf 0xC302 1 = true ∧ bitOf 0xC302 0 = false ∧ bitOf 0xC302 2 = false ∧ bitsOf 0xC302 15 8 = 0xC3) ∧
    { m0.rst with twinLeft := 2 }.twinLeft ≠ 0 ∧
    (∀ e < 2, (twinned 0 e).Inv ∧ ((twinned 0 e).hasTwin && (twinned 0 e).portUp 8) = true ∧ (twinned 0 e).rst.powered = true ∧ (twinned 0 e).hasTwin = true ∧ (twinned 0 e).receives 8 = true ∧
      (twinned 0 e).fld Fl.OPTS_VALUES_TWIN_RESET_EN = e) ∧
    (m0.hasTwin && m0.receives 8) = false ∧ (m0.hasTwin && m0.portUp 8) = false ∧ (twinned 0 1).myPair + 1 ≠ (twinned 0 1).myPair ∧
    (let s := { inState stRunning with rst := { (upMods []).rst with interval := false, stage := .running } }
     s.Inv ∧ s.rst.interval = false ∧ s.job = none ∧ s.reg Reg.RSTC_BLOCK = 0 ∧ s.rst.stage = .running) ∧
    (let s := { upMods (dieMods 7) with rst := { (upMods []).rst with interval := false, stage := .running } }
     s.Inv ∧ s.rst.interval = false ∧ s.job = none ∧ s.reg Reg.RSTC_BLOCK = 0 ∧ s.rst.stage = .running ∧ bitOf 0x100 8 = true ∧ bitOf 0x80 7 = true ∧ s.dieReady 7 = true) :=
  ⟨m0_inv, by decide +kernel, by decide +kernel, fun e h => ⟨sound_inv (by revert e; decide +kernel), by revert e; decide +kernel⟩, by decide +kernel, by decide +kernel, by omega,
    ⟨sound_inv (by decide +kernel), by decide +kernel⟩, sound_inv (by decide +kernel), by decide +kernel⟩

theorem witness_WatchdogsAreKicked :
    let s := { inState stRunning with rst := { m0.rst with stage := .running } }
    s.Inv ∧ (0xC5 ≤ 0xC8) ∧ (0xC4 < 0xC5 ∨ 0xC8 < 0xC4) ∧ s.rstState = stRunning ∧ s.rst.stage = .running :=
  ⟨sound_inv (by decide +kernel), by decide +kernel⟩

theorem witness_RecoveryServesTheFlash : (inState stRecovery).rstState = stRecovery ∧ 0x3EF0000 + min 70000 65536 ≤ 0x3F00000 ∧ 0x3EFFFFF < 0x3F00000 ∧
    0x3F00000 < 0x3F00000 + min 1 65536 ∧ (inState stRecovery).rst.recSize < 2 ^ 17 ∧ (inState stRecovery).rst.recAddr < 2 ^ 26 ∧
    (let s := { inState stRecovery with rst := { m0.rst with recAddr := 0x3EF0000, recSize := 2 ^ 17 - 1 } }
     s.rstState = stRecovery ∧ s.rst.recSize < 2 ^ 17 ∧ s.rst.recAddr < 2 ^ 26 ∧ 9 % 8 = 1 ∧ s.rst.recAddr + min s.rst.recSize 65536 ≤ 0x3F00000) := by decide +kernel

theorem witness_TimeStepsAndHours_column (h : 0 < Config.hours1) : ageColumn 0 < ageColumn (max Config.hours1 Config.hours2) := by
  have h1 : ¬ max Config.hours1 Config.hours2 < Config.hours1 := by omega
  have h2 : ¬ max Config.hours1 Config.hours2 < Config.hours2 := by omega
  simp only [ageColumn, if_pos h, if_neg h1, if_neg h2]
  omega

/-! Craxis and the hub firewall. -/

/-- Module 103 (link 5) in a state, with contents; its far die out of reset. -/
def linked (state : Nat) (x : CxMod) : State :=
  { put m0 (Fl.CRAXIS_MOD_STATUS_STATE 103) state with cx := { m0.cx with mods := [(103, x)], inReset := [] } }
def aMsg : CxMsg := cxMsg 7 0x4000000000 0xC0 false false []
def fed : CxMod := { CxMod.empty with credits := [8, 64, 64, 4], room := 255 }

theorem witness_FlitsAreAcknowledgedAndReplayed :
    (let x := { fed with waiting := true, rxSince := 1, next := 2, sent := [⟨1, 1, opRd, aMsg⟩] }
     let s := linked cxActive x
     flitOk (List.replicate 32 0) = false ∧ flitOk (linkFlit 1 1023) = true ∧
     s.Inv ∧ s.cxState 103 = cxActive ∧ s.cxm 103 = x ∧ x.waiting = true ∧ x.rxSince ≠ 0 ∧ x.beyond 2 = some 1 ∧ x.held = [] ∧ 1 < max (s.fld (Fl.CRAXIS_LINK_CFG_REPLAY_LIMIT 5)) 1) ∧
    (let x := { fed with replay := (0, 65535) }
     let s := linked cxActive x
     s.Inv ∧ x.beyond 0 = some 0 ∧ max (s.fld (Fl.CRAXIS_LINK_CFG_REPLAY_LIMIT 5)) 1 ≤ 65535 + 1) ∧
    (let x := { fed with credits := [0, 64, 64, 4], held := [(opRd, aMsg)] }
     let s := linked cxActive x
     s.Inv ∧ s.fld (Fl.CRAXIS_LINK_STATUS_DRAINING (cxLink 103)) = 0 ∧ s.cxm 103 = x ∧ x.held = [(opRd, aMsg)] ∧ 0 = cxVc opRd ∧ cxVc opRd < x.credits.length ∧ (x.sent.map (·.flits)).sum + cxFlits aMsg ≤ 128 ∧ cxFlits aMsg ≤ x.credits.getD 0 0 + 1 ∧
       s.cxReserved 103 + (⟨cxLink 103, 103, opRd, aMsg.tag, aMsg.len, aMsg.master, true⟩ : CxReq).flits ≤ x.room) :=
  ⟨⟨by decide +kernel, by decide +kernel, sound_inv (by decide +kernel), by decide +kernel⟩, ⟨sound_inv (by decide +kernel), by decide +kernel⟩,
    ⟨sound_inv (by decide +kernel), by decide +kernel⟩⟩

/-- The CRC-16 of polynomial 0x1021 and initial value 0xFFFF has the check value 0x29B1. -/
theorem test_crc16 : crc16 ("123456789".toList.map (fun c => BitVec.ofNat 8 c.toNat)) = 0x29B1 := by decide +kernel
/-- R484 to R486: an RD of one line pair from 0x4000000000 is one flit of REQ that starts a message; an ACK of SEQ 0x123 is a link message; 7 flits of PST come back in one NULL flit. -/
theorem test_flits : (msgFlits opRd aMsg).map (·.take 16) = [[0x04, 0, 1, 0, 7, 0, 0, 0, 0, 0, 0x40, 0, 0xC0, 0, 0, 0]] ∧ (linkFlit 1 0x123).take 6 = [0x08, 0, 1, 0, 0x23, 1] ∧
    (creditFlit 2 7).take 2 = [0xD0, 0x03] ∧ (cxCredits 0 1 56).length = 4 := by decide +kernel

theorem witness_HubSendsMessages :
    (let s := linked cxActive fed
     let long := { aMsg with len := 16383, data := [] }
     let m := { aMsg with num := 103 }
     s.Inv ∧ cxPieces 5 aMsg = [aMsg] ∧ (cxPieces 5 long).length = 2048 ∧ s.cxRoute 5 opRd long = some 103 ∧
       (∀ p ∈ cxCommands, cxVc p.2 = 0 → s.cxReserved 103 + (⟨5, 103, p.2, aMsg.tag, aMsg.len, aMsg.master, true⟩ : CxReq).flits ≤ (s.cxm 103).room) ∧
       s.linkDead 5 = false ∧ s.fld (Fl.CRAXIS_LINK_STATUS_DRAINING 5) = 0 ∧ (∀ p ∈ cxCommands, s.cxRoute 5 p.2 m = some 103) ∧ s.cxState 103 = cxActive ∧
       (s.cxm 103).held = [] ∧ ((s.cxm 103).sent.map (·.flits)).sum + cxFlits aMsg ≤ 128 ∧ ∀ p ∈ cxCommands, cxFlits aMsg ≤ (s.cxm 103).credits.getD (cxVc p.2) 0) ∧
    (let s := linked cxActive { fed with held := [(opRd, aMsg)] }
     s.Inv ∧ s.cxRoute 5 opRd { aMsg with num := 103 } = some 103 ∧ ¬(∀ e ∈ (s.cxm 103).held, cxPass (cxVc opRd) (cxVc e.1) = true)) ∧
    (decide (1 ≤ 4 ∧ 4 ≤ 4) && (decide (cxVc opRdData = 1))) = true ∧ 0xC0 ≠ mKeeper ∧ 0xC0 ≠ mScrub ∧
    m0.linkDead 0 = true ∧ cxPieces 0 aMsg = [aMsg] :=
  ⟨⟨sound_inv (by decide +kernel), by decide +kernel⟩, ⟨sound_inv (by decide +kernel), by decide +kernel⟩, by decide +kernel⟩

theorem witness_ArrivingMessagesArePerformed :
    let s := { linked cxActive fed with cx := { (linked cxActive fed).cx with reqs := [⟨5, 103, opRd, 7, 0, 0xC0, true⟩] } }
    let room := fun (k : Nat) => s.fld (Fl.CRAXIS_LINK_STATUS_DRAINING (cxLink 103)) = 0 ∧ (s.cxm 103).held = [] ∧ ((s.cxm 103).sent.map (·.flits)).sum + k ≤ 128 ∧ k ≤ (s.cxm 103).credits.getD 1 0
    let m := { aMsg with data := List.replicate 96 1 }
    let part := linked cxActive { fed with rxPart := 1, rxNext := 1 }
    let wait := { s with cx := { s.cx with mods := [(102, { fed with rxPart := 1 }), (103, fed)] } }
    s.Inv ∧ part.Inv ∧ wait.Inv ∧ cxLink 103 = 5 ∧ s.cxState 103 = cxActive ∧ (s.cxm 103).expects aMsg = true ∧ aMsg.code = none ∧ ({ aMsg with code := some 0x17 }).code.isSome = true ∧
      (s.cxm 103).expects { aMsg with num := 1 } = false ∧ (part.cxm 103).expects m = true ∧
      s.reaches aMsg.master aMsg.addr 2 = true ∧ s.reaches aMsg.master 0x2000000 1 = false ∧ s.reaches aMsg.master aMsg.addr 1 = true ∧
      ((cxMods 5).any (fun k => decide (k ≠ 103) && ((s.cxm k).waiting || decide ((s.cxm k).rxPart ≠ 0)))) = false ∧ s.cx.flushes = [] ∧
      ((cxMods 5).any (fun k => decide (k ≠ 103) && ((wait.cxm k).waiting || decide ((wait.cxm k).rxPart ≠ 0)))) = true ∧
      (∀ a ∈ linesOf m.addr m.data.length, s.isolatedLine a = false) ∧ room (ceilDiv (12 + 96 * 2) 28) ∧ room 4 ∧ room 1 ∧
      ((findReg Reg.CLKG_TRIM).any (fun h => decide (h.spec.kind = .plain)) = true ∧ s.place 0xC0 Reg.CLKG_TRIM false = .reg Reg.CLKG_TRIM) ∧
      (m.data ≠ [] ∧ m.data.length % 96 = 0 ∧ (∀ i < m.data.length, storage (m.addr + i) = true) ∧ s.placeAt m.addr = none ∧ m.poison = false) ∧
      s.place 0xC0 Reg.CLKG_TRIM true = .reg Reg.CLKG_TRIM ∧
      (cxVc opRdData = 1 ∧ (opRdData ∈ cxCommands.map (·.2)) ∧ (s.cxm 103).held = [] ∧ s.reqFor 5 opRdData aMsg.tag = some ⟨5, 103, opRd, 7, 0, 0xC0, true⟩) :=
  ⟨sound_inv (by decide +kernel), sound_inv (by decide +kernel), sound_inv (by decide +kernel), by decide +kernel⟩

/-- A CAP of TW6U with every feature and the least buffers of R491, for the plan in force. -/
def aCap : List Byte := [3, 0xFF, 1, 0, 7, 0, 0, 0, 8, 64, 64, 4, 0, 0, 0, 0]

theorem plan_byte_lt (p : LanePlan) : p.byte < 256 := by unfold LanePlan.byte; split <;> split <;> omega

/-- aCap with the byte of a plan. -/
def capFor (p : LanePlan) : List Byte := aCap.take 14 ++ (leBytes 1 p.byte ++ [0])
theorem capFor_plan (p : LanePlan) : leAt (capFor p) 14 1 = p.byte := by
  have h := plan_byte_lt p
  simp only [leAt, capFor, aCap, leBytes, leNat, List.take, List.drop, List.cons_append, List.nil_append, BitVec.toNat_ofNat]
  omega

/-- Whatever revisions are fused, 0xFF is none below them. -/
theorem minRev_le (s : State) (l : Nat) : s.minRev l ≤ 0xFF := by
  have h : ∀ n x : Nat, x % 2 ^ (n + 8 - 1 + 1 - n) ≤ 0xFF := fun n x => by
    have e : n + 8 - 1 + 1 - n = 8 := by omega
    rw [e]; omega
  unfold State.minRev
  split
  · exact h _ _
  · split
    · exact h _ _
    · exact h _ _

/-- A CAP of TW6U passes whatever revisions are fused. -/
theorem capOk_of {s : State} {b : List Byte} (h : (decide (leAt b 0 1 = 3) && decide (leAt b 2 1 = 1) && decide (leAt b 1 1 = 0xFF) && decide (8 ≤ leAt b 8 1) &&
    decide (64 ≤ leAt b 9 1) && decide (64 ≤ leAt b 10 1) && decide (4 ≤ leAt b 11 1) && s.cx.caps.isEmpty) = true) : s.capOk 103 b = true := by
  simp only [Bool.and_eq_true, decide_eq_true_eq, List.isEmpty_iff] at h
  obtain ⟨⟨⟨⟨⟨⟨⟨h0, h2⟩, h1⟩, h8⟩, h9⟩, h10⟩, h11⟩, hc⟩ := h
  have hl : cxLink 103 = 5 := by decide
  simp [State.capOk, hl, h0, h2, h1, h8, h9, h10, h11, hc, minRev_le]

theorem witness_ManagementMessagesAct :
    (let s := linked cxActive fed
     s.Inv ∧ (s.cxm 103).expects aMsg = true ∧ s.capOk 103 (capFor (s.planOf 103)) = true ∧ leAt (capFor (s.planOf 103)) 14 1 = (s.planOf 103).byte ∧ s.capOk 103 [2] = false ∧ inT2 0x7FFFFFFBFF = true) ∧
    (let s := { put m0 (Fl.CRAXIS_MOD_STATUS_STATE 47) cxActive with cx := { m0.cx with inReset := [] } }
     s.Inv ∧ cxLink 47 = 0 ∧ s.cxState 47 = cxActive ∧ (s.cxm 47).expects aMsg = true ∧ leAt [1, 11, 0xFF, 0x7F] 0 1 = 1 ∧ leAt [1, 11, 0xFF, 0x7F] 1 1 = 11 ∧ leAt [1, 11, 0xFF, 0x7F] 2 2 < 2 ^ 15 ∧
       leAt [2, 0, 0, 0] 0 1 = 2) :=
  ⟨⟨sound_inv (by decide +kernel), by decide +kernel, capOk_of (by decide +kernel), capFor_plan _, by decide +kernel⟩, sound_inv (by decide +kernel), by decide +kernel⟩

/-- Stack 3 with a request out and what its firewall does at a violation of class 5. -/
def walled (action : Nat) : State :=
  { put m0 (Fl.FWALL_CTRL_ACT 3) (action * 2 ^ 10) with cx := { m0.cx with reqs := [⟨4, 90, opRd, 9, 0, 0, true⟩] } }

theorem witness_FirewallJudges :
    ((walled 0).Inv ∧ (walled 0).job = none ∧ (walled 0).cx.reqs.find? (fun r => decide (r.link = 3 + 1 ∧ r.tag = 9) && r.sent) = some ⟨4, 90, opRd, 9, 0, 0, true⟩ ∧
      bitsOf ((walled 0).fld (Fl.FWALL_CTRL_ACT 3)) 11 10 = 0) ∧
    (put (walled 0) (Fl.FWALL_CTRL_ESC 3) 0).fld (Fl.FWALL_CTRL_ESC 3) = 0 ∧
    ((walled 2).Inv ∧ 2 ≤ bitsOf ((walled 2).fld (Fl.FWALL_CTRL_ACT 3)) 11 10 ∧ (walled 2).fld (Fl.FWALL_STATUS_ISOLATED 3) = 0) ∧
    m0.cx.raised.find? (fun e => decide (e.1 = 3 ∧ e.2.1 = 0)) = none ∧
    (let s := { put m0 (Fl.CRAXIS_MOD_STATUS_STATE 95) cxActive with cx := { m0.cx with mods := [(95, fed)], inReset := [] } }
     s.Inv ∧ s.job = none ∧ cxLink 95 = 3 + 1 ∧ s.cxState 95 = cxActive ∧ (s.cxm 95).expects aMsg = true ∧ ({ aMsg with code := some 0x17 }).code.isSome = true ∧
       aMsg.vc ≠ cxVc opRdData) ∧
    (m0.fld (Fl.FWALL_STATUS_ISOLATED 3) = 0 ∧ (0xC0 : Nat) ≠ mKeeper ∧ (0xC0 : Nat) ≠ mScrub) ∧ (put m0 (Fl.FWALL_STATUS_ISOLATED 3) 1).fld (Fl.FWALL_STATUS_ISOLATED 3) ≠ 0 :=
  ⟨⟨sound_inv (by decide +kernel), by decide +kernel⟩, by decide +kernel, ⟨sound_inv (by decide +kernel), by decide +kernel⟩, by decide +kernel,
    ⟨sound_inv (by decide +kernel), by decide +kernel⟩, by decide +kernel⟩

theorem witness_ModulesTrain :
    (let s := linked cxTraining fed
     s.Inv ∧ (s.cxState 103 = cxTraining ∧ (s.cxm 103).tries = 0 ∧ s.cx.relearn = []) ∧
       (let bad := fun (a b : Nat) => (s.fld (Fl.CRAXIS_MOD_STATUS_BAD 103) + (s.cxm 103).badSpares * 2 ^ 16 ||| a ||| b) % 2 ^ 18
        let p : LanePlan := ⟨false, false, 4, 31⟩
        let features := leAt (capFor p) 4 2 &&& cxFeatures
        (lanePlan features (bad 0x10 0) = some p ∧ lanePlan features (bad 0x3FFFF 0) = none ∧ cxLink 103 = 5) ∧ s.capOk 103 (capFor p) = true ∧ leAt (capFor p) 14 1 = p.byte)) ∧
    (cxLink 95 = 3 + 1 ∧ bitOf (m0.fld (Fl.FWALL_OPS_OPS 3)) opCap = true ∧ (m0.cx.mgt.filter (fun e => decide (e.1 = 3 ∧ m0.time - e.2 < 1000))).length < m0.fld (Fl.FWALL_LIMIT_RATE 3)) ∧
    (let s := linked cxTraining { fed with tries := 1 }
     s.Inv ∧ s.cxState 103 = cxTraining ∧ (s.cxm 103).tries ≠ 0) ∧
    (let s := linked cxActive fed
     s.cxState 103 = cxActive ∧ s.fld (Fl.CRAXIS_LINK_CFG_CAL_MS (cxLink 103)) ≠ 0 ∧ ∀ k ∈ cxMods (cxLink 103), s.cxState k ≠ cxRetrain) ∧
    (let s := linked cxRetrain fed
     s.Inv ∧ s.cxState 103 = cxRetrain ∧ s.cx.relearn = [] ∧
       lanePlan (s.linkFeatures (cxLink 103)) ((s.fld (Fl.CRAXIS_MOD_STATUS_BAD 103) + (s.cxm 103).badSpares * 2 ^ 16) % 2 ^ 18) ≠ none) :=
  ⟨⟨sound_inv (by decide +kernel), by decide +kernel, by decide +kernel, capOk_of (by decide +kernel), capFor_plan _⟩, by decide +kernel, ⟨sound_inv (by decide +kernel), by decide +kernel⟩, by decide +kernel,
    sound_inv (by decide +kernel), by decide +kernel⟩

theorem witness_FarDiesResetAndLinksRebuild :
    (let s := put m0 (Fl.CRAXIS_LINK_STATUS_DRAINING 5) 1
     s.Inv ∧ s.fld (Fl.CRAXIS_LINK_STATUS_DRAINING 5) = 1 ∧ (∀ e ∈ s.cx.resends ++ s.cx.pending, e.1 ≠ 5) ∧ (∀ h ∈ cxMods 5, (s.cxm h).held = []) ∧ s.cx.inReset.contains 7 = true ∧ m0.fld (Fl.CRAXIS_LINK_STATUS_DRAINING 5) = 0) ∧
    (let s := put (linked cxActive fed) (Fl.CRAXIS_LINK_STATUS_DRAINING 5) 1
     let t := { s with cx := { s.cx with pending := [(5, opRd, aMsg), (0, opRd, aMsg)] } }
     let u := { put m0 (Fl.CRAXIS_LINK_STATUS_DRAINING 5) 1 with cx := { m0.cx with pending := [(5, opRd, aMsg)] } }
     t.Inv ∧ u.Inv ∧ t.fld (Fl.CRAXIS_LINK_STATUS_DRAINING 5) = 1 ∧ u.fld (Fl.CRAXIS_LINK_STATUS_DRAINING 5) = 1 ∧ (5, opRd, aMsg) ∈ t.cx.pending ∧ (0, opRd, aMsg) ∈ t.cx.pending ∧
       t.cxRoute 5 opRd aMsg = some 103 ∧ (5, opRd, aMsg) ∈ u.cx.pending ∧ u.cxRoute 5 opRd aMsg = none) ∧
    (let s := { linked cxActive fed with cx := { (linked cxActive fed).cx with reqs := [⟨5, 103, opRd, 7, 0, 0xC0, true⟩] } }
     s.Inv ∧ s.cx.inReset.contains 0 = false ∧ (⟨5, 103, opRd, 7, 0, 0xC0, true⟩ : CxReq) ∈ s.cx.reqs ∧ 103 ∈ dieMods 0 ∧ dieLink 0 = 5 ∧ bitOf 0x1000000 24 = true ∧
       (cxMods 5).find? (fun h => decide (s.cxState h = cxActive)) = some 103 ∧ (∀ h ∈ cxMods 5, s.cxState h ≠ cxRetrain) ∧ (s.inService (dieLink 0)).head? = some 103) ∧
    (let s := { m0 with rst := { m0.rst with released := [7], interval := false } }
     s.Inv ∧ s.cx.inReset.contains 7 = true ∧ s.rst.released.contains 7 = true ∧ s.rst.interval = false ∧ s.cx.inReset.contains 6 = true ∧ s.rst.released.contains 6 = false) ∧
    (∃ h ∈ cxMods 5, (linked cxRetrain fed).cxState h = cxRetrain) :=
  ⟨⟨sound_inv (by decide +kernel), by decide +kernel⟩, ⟨sound_inv (by decide +kernel), sound_inv (by decide +kernel), by decide +kernel⟩, ⟨sound_inv (by decide +kernel), by decide +kernel⟩,
    ⟨sound_inv (by decide +kernel), by decide +kernel⟩, by decide +kernel⟩

/-! Errors, spares, events, counters. -/

theorem witness_ErrorsAreScrubbedAndRowsRepaired :
    (let s := put m0 Fl.RAS_CTRL_SCRUB_EN 0
     s.Inv ∧ s.fld Fl.RAS_CTRL_SCRUB_EN = 0) ∧
    (let s := put m0 Fl.RAS_CTRL_SCRUB_EN 1
     s.Inv ∧ s.fld Fl.RAS_CTRL_SCRUB_EN = 1 ∧ inT1 0x33FFFFFFFF = true ∧ inT2 0x7FFFFFFBFF = true ∧ physAt (physBase 187 + tileBytes - 1) = some 187 ∧ s.logicalOf 187 = some 179 ∧
       (s.hub.rows.filter (fun r => decide (r = (187, bankOf ((physBase 187 + tileBytes - 1 - physBase 187) / 96))))).length < 4) ∧
    (let s := tileIs m0 179 { Tile.empty with take := some ⟨0, [], [], [], 0, [], []⟩ }
     s.Inv ∧ (s.tile 179).take.isSome = true ∧ (s.tile 179).failed = none) ∧
    (inT1 0x1000000000 = true ∧ [0x1000000040, 0x3000000000].length < 15) ∧ m0.hub.bgAt.find? (fun e => decide (e.1 = 3)) = none ∧
    (let s := { m0 with time := 1000000004, hub := { m0.hub with bgAt := [(3, 5)] } }
     s.Inv ∧ s.hub.bgAt.find? (fun e => decide (e.1 = 3)) = some (3, 5) ∧ s.time < 5 + 1000000000) :=
  ⟨⟨sound_inv (by decide +kernel), by decide +kernel⟩, ⟨sound_inv (by decide +kernel), by decide +kernel⟩, ⟨sound_inv (by decide +kernel), by decide +kernel⟩, by decide +kernel, by decide +kernel, sound_inv (by decide +kernel), by decide +kernel⟩

/-- The rows of T1 that repairs are wanted for, and those with an error of an earlier pass. -/
theorem witness_ErrorsAreScrubbedAndRowsRepaired_rows :
    let s := { put m0 Fl.RAS_CTRL_SCRUB_EN 1 with hub := { m0.hub with t1Repair := [t1Row 0x1000000000], t1Rows := [(t1Row 0x33FFFFFFFF, 1)] } }
    s.Inv ∧ s.hub.t1Repair.contains (t1Row 0x1000000000) = true ∧ m0.hub.t1Repair.contains (t1Row 0x1000000000) = false ∧
      (∃ e ∈ s.hub.t1Rows, e.1 = t1Row 0x33FFFFFFFF ∧ e.2 ≠ s.patrolPass) ∧ inT1 0x33FFFFFFFF = true :=
  ⟨sound_inv (by decide +kernel), by simp, rfl, ⟨_, .head _, rfl, by decide +kernel⟩, by decide +kernel⟩

theorem witness_StandInsReplaceTiles : (bitOf 0x1B3 8 = true ∧ bitsOf 0x1B3 7 0 < 180) ∧
    (let s := put (tileIs m0 179 { Tile.empty with failed := some ⟨0, true⟩ }) (Fl.TILE_SEQ_STATUS_STATE 179) seqAborting
     s.Inv ∧ (s.tile 179).failed = some ⟨0, true⟩ ∧ s.fld (Fl.TILE_SEQ_STATUS_STATE 179) = seqAborting ∧ (s.standinFor (s.physOf 179)).isSome = true ∧
       (let t := { s with hub := { s.hub with retired := (List.range 192).filter (fun p => (s.logicalOf p).isNone) } }
        (t.tile 179).failed = some ⟨0, true⟩ ∧ t.standinFor (t.physOf 179) = none)) ∧
    (let s := { tileIs m0 179 { Tile.empty with wait := .clapx 16 } with hub := { m0.hub with swapArmed := [179], swapping := [179] }, coll := { m0.coll with manager := 1 } }
     s.Inv ∧ (s.tile 179).wait = .clapx 16 ∧ s.hub.swapping.contains 179 = true ∧ s.coll.manager ≠ s.me ∧ [0, 8191].length < 12 ∧ (s.standinFor (s.physOf 179)).isSome = true) :=
  ⟨by decide +kernel, ⟨sound_inv (by decide +kernel), by decide +kernel⟩, sound_inv (by decide +kernel), by decide +kernel⟩

theorem witness_StandInsReplaceTiles_exhausted :
    let s := { tileIs m0 179 { Tile.empty with wait := .clapx 16 } with
      hub := { m0.hub with swapArmed := [179], swapping := [179], retired := (List.range 192).filter (fun p => (m0.logicalOf p).isNone) }, coll := { m0.coll with manager := 1 } }
    s.Inv ∧ (s.tile 179).wait = .clapx 16 ∧ s.hub.swapping.contains 179 = true ∧ s.coll.manager ≠ s.me ∧ s.standinFor (s.physOf 179) = none :=
  ⟨sound_inv (by decide +kernel), by decide +kernel⟩

/-- The event ring on, at the base of T1; a record waits. -/
def anEvent : Event := evOf Ev.jobBusy srcStage 0 0
def ringed : State := { put (word (word m0 Reg.RAS_EVR_BASE_LO 0xC0) Reg.RAS_EVR_BASE_HI 0x10) Fl.RAS_EVR_CFG_ENABLE 1 with events := [anEvent] }

theorem witness_EventsReachTheirRings :
    (ringed.Inv ∧ ringed.ringOn = true ∧ ringed.events = anEvent :: [] ∧ ringed.ringFull = false) ∧
    (let s := word ringed Reg.RAS_EVR_PROD ringed.ringSize
     s.Inv ∧ s.ringOn = true ∧ s.events ≠ [] ∧ s.ringFull = true) ∧
    (let s := { put (word (put ringed Fl.RSTC_STATE_STATE stRunning) Reg.RAS_EVR_PROD 1) (Fl.FN_STATUS_ATTACHED 0) 1 with
       rst := { m0.rst with stage := .running }, host := { m0.host with fns := [(0, { HFn.empty with evrOn := true })] } }
     let t := { s with host := { s.host with fns := [(0, { HFn.empty with evrOn := true, evrHead := 1 })] } }
     let u := put (word (word (put s (Fl.FN_STATUS_ATTACHED 0) 0) Reg.HOSTIF_BACKLOG_BASE_LO 0x300) Reg.HOSTIF_BACKLOG_BASE_HI 0x10) (Fl.FN_EPOCH_EPOCH 0) 1
     t.Inv ∧ u.Inv ∧ s.Inv ∧ t.ringOn = true ∧ t.performs = true ∧ s.evrFull 0 = false ∧ t.evrFull 0 = true ∧ t.entitled 0 (t.bytes (t.ringBase + 32 * ((t.reg Reg.RAS_EVR_CONS).toNat % t.ringSize)) 32) = true ∧
       t.attached 0 = true ∧ u.ringOn = true ∧ u.performs = true ∧ u.reg Reg.RAS_EVR_PROD ≠ u.reg Reg.RAS_EVR_CONS ∧ u.attached 0 = false ∧ u.fld (Fl.FN_EPOCH_EPOCH 0) ≠ 0 ∧ u.backlogOk = true ∧
       s.fld Fl.RAS_STATUS_RING_FULL = 0 ∧ s.ringOn = true ∧ s.performs = true ∧ s.reg Reg.RAS_EVR_PROD ≠ s.reg Reg.RAS_EVR_CONS ∧
       s.entitled 0 (s.bytes (s.ringBase + 32 * ((s.reg Reg.RAS_EVR_CONS).toNat % s.ringSize)) 32) = true ∧ s.attached 0 = true ∧ (s.hfn 0).evrOn = true) :=
  ⟨⟨sound_inv (by decide +kernel), by decide +kernel⟩, ⟨sound_inv (by decide +kernel), by decide +kernel⟩, sound_inv (by decide +kernel), sound_inv (by decide +kernel), sound_inv (by decide +kernel), by decide +kernel⟩

/-- Dailies on, and stream 8 enabled into T1. -/
def dailies : State := put (put (word (word m0 (Reg.DLY_BASE_LO 8) 0xC0) (Reg.DLY_BASE_LO 8 + 4) 0x10) Fl.PMON_CTRL_EN 1) (Fl.DLY_CTRL_ENABLE 8) 1
def aLatch : DailyLatch := ⟨5, 0, [], [8]⟩

theorem witness_DailiesAreLatchedAndRecorded : (m0.Inv ∧ m0.fld Fl.PMON_CTRL_EN = 0) ∧ (dailies.Inv ∧ dailies.fld Fl.PMON_CTRL_EN = 1 ∧ dailies.hub.latch = none) ∧
    (let s := { dailies with hub := { m0.hub with latch := some aLatch } }
     s.Inv ∧ s.fld Fl.PMON_CTRL_EN = 1 ∧ s.hub.latch = some aLatch ∧ aLatch.due.contains 8 = true ∧ s.fld (Fl.DLY_CTRL_ENABLE 8) = 1 ∧ s.fld (Fl.DLY_CTRL_HOST 8) = 0 ∧
       rangeT1 (s.reg64 (Reg.DLY_BASE_LO 8)) 8 = true ∧
       rangeT1 (s.reg64 (Reg.DLY_BASE_LO 8) + 192 + (s.reg (Reg.DLY_PROD 8)).toNat % s.dlySlots 8 * (192 * slotUnits (s.fld (Fl.DLY_CFG_MASK 8)))) (s.dlyRecord aLatch 8).length = true ∧
       (put s (Fl.DLY_CTRL_HOST 8) 1).fld (Fl.DLY_CTRL_HOST 8) = 1) ∧
    (let s := put dailies (Fl.DLY_CTRL_ENABLE 8) 0
     let base := s.reg64 (Reg.DLY_BASE_LO 8)
     s.Inv ∧ s.fld (Fl.DLY_CTRL_ENABLE 8) = 0 ∧ bitOf 1 0 = true ∧
       (if bitOf 1 1 then decide (base % 4096 = 0) else onPair base && rangeT1 base (192 + s.dlySlots 8 * 192 * slotUnits (s.fld (Fl.DLY_CFG_MASK 8)))) = true) ∧
    (m0.fld (Fl.DLY_CTRL_ENABLE 8) = 0 ∧
      (if bitOf 1 1 then decide (m0.reg64 (Reg.DLY_BASE_LO 8) % 4096 = 0) else onPair (m0.reg64 (Reg.DLY_BASE_LO 8)) &&
        rangeT1 (m0.reg64 (Reg.DLY_BASE_LO 8)) (192 + m0.dlySlots 8 * 192 * slotUnits (m0.fld (Fl.DLY_CFG_MASK 8)))) = false) :=
  ⟨⟨m0_inv, by decide +kernel⟩, ⟨sound_inv (by decide +kernel), by decide +kernel⟩, ⟨sound_inv (by decide +kernel), by decide +kernel⟩, ⟨sound_inv (by decide +kernel), by decide +kernel⟩, by decide +kernel⟩

theorem witness_MonitorsAndSamples : (m0.Inv ∧ m0.hub.bwSkip = false) ∧
    (let s := { m0 with hub := { m0.hub with bwSkip := true } }
     s.Inv ∧ s.hub.bwSkip = true) ∧
    (let s := tileIs m0 179 { Tile.empty with sampled := [List.replicate 32 1] }
     s.Inv ∧ (s.tile 179).sampled = List.replicate 32 1 :: [] ∧ (List.replicate 32 (1 : Byte)).length ≤ 32 ∧ s.smpBase = none) ∧
    (let s := word (word (tileIs m0 179 { Tile.empty with sampled := [[1]] }) Reg.PMON_SMP_BASE_LO 0xC0) (Reg.PMON_SMP_BASE_LO + 4) 0x10
     s.Inv ∧ s.smpBase = some 0x10000000C0 ∧ ((s.reg (Reg.TILE_SMP_PROD 179)).toNat + 2 ^ 32 - (s.reg (Reg.TILE_SMP_CONS 179)).toNat) % 2 ^ 32 < 4096 ∧
       (let t := word s (Reg.TILE_SMP_PROD 179) 4096
        t.smpBase = some 0x10000000C0 ∧ ¬ ((t.reg (Reg.TILE_SMP_PROD 179)).toNat + 2 ^ 32 - (t.reg (Reg.TILE_SMP_CONS 179)).toNat) % 2 ^ 32 < 4096)) :=
  ⟨⟨m0_inv, by decide +kernel⟩, ⟨sound_inv (by decide +kernel), by decide +kernel⟩, ⟨sound_inv (by decide +kernel), by decide +kernel⟩, sound_inv (by decide +kernel), by decide +kernel⟩

/-! The host. -/

/-- Stage firmware performing commands; function 0 attached, its ring 3 of 16 entries. -/
def served : State := { put (put (put (put m0 Fl.RSTC_STATE_STATE stRunning) (Fl.FN_STATUS_ATTACHED 0) 1) (Fl.RING_CFG_SQ_LOG2 0 3) 4) (Fl.RING_CFG_CQ_LOG2 0 3) 4 with
  rst := { m0.rst with stage := .running } }
def hosted (r : HRing) : State := { served with host := { m0.host with fns := [(0, { HFn.empty with rings := [HRing.empty, HRing.empty, HRing.empty, r], evrOn := true })] } }
def onRing : HRing := { HRing.empty with on := true, tail := 1, cqHead := 15 }

/-- A submission entry of an opcode. -/
def entryOf (op : Nat) : List Byte := leBytes 1 op ++ List.replicate 63 0

theorem witness_RingsTakeEntries :
    (let s := hosted onRing
     s.Inv ∧ s.ringReady 0 3 = true ∧ s.ringTurn 0 3 = true ∧ s.fld (Fl.RING_CFG_SQ_LOG2 0 3) ≤ 12 ∧ s.entryCurrent 0 3 (entryOf 0) = true ∧ (s.hring 0 3).tries = none ∧ s.performs = true ∧
       malformed (entryOf 0) = false ∧ malformed (entryOf 8) = true ∧ (entryOf 8).length = 64 ∧ s.entryCurrent 0 3 (List.replicate 64 255) = false) ∧
    (let s := put (hosted onRing) Fl.RSTC_STATE_STATE stStageBoot
     s.Inv ∧ s.ringReady 0 3 = true ∧ s.ringTurn 0 3 = true ∧ s.performs = false ∧ s.starting = true ∧ leAt (entryOf 1) 0 1 = 1 ∧ (entryOf 1).length = 64 ∧ leAt (entryOf 0) 0 1 ≠ 1 ∧
       { s with rst := { s.rst with stage := .stopped } }.performs = false ∧ (put s Fl.RSTC_STATE_STATE stRecovery).starting = false) ∧
    (let s := hosted { onRing with tries := some 14 }
     s.Inv ∧ s.ringReady 0 3 = true ∧ (s.hring 0 3).tries = some 14 ∧ 14 + 1 < 16 ∧ s.entryCurrent 0 3 (entryOf 0) = true) ∧
    (let s := hosted { onRing with tries := some 15 }
     s.Inv ∧ s.ringReady 0 3 = true ∧ (s.hring 0 3).tries = some 15 ∧ 16 ≤ 15 + 1) ∧
    (let s := hosted onRing
     bitsOf 15 23 16 = s.fld (Fl.FN_EPOCH_EPOCH 0) ∧ s.attached 0 = true ∧ bitsOf 15 11 0 < s.sqSize 0 3 ∧ bitsOf 15 11 0 < s.cqSize 0 3 ∧ (s.hring 0 3).on = true ∧
       bitsOf 0 14 0 < s.evrSize 0 ∧ (s.hfn 0).evrOn = true ∧ bitsOf 0x10000 23 16 ≠ s.fld (Fl.FN_EPOCH_EPOCH 0) ∧ s.sqSize 0 3 ≤ bitsOf 16 11 0) ∧
    (let s := put (hosted { onRing with unsig := 1 }) (Fl.RING_STATUS_CQ_FULL 0 3) 1
     s.Inv ∧ s.fld (Fl.RING_STATUS_CQ_FULL 0 3) = 1 ∧ (s.hring 0 3).on = true ∧ (s.hring 0 3).fullRaised = false ∧ s.attached 0 = true ∧ (s.hring 0 3).unsig ≠ 0 ∧
       0xC5 ≠ mKeeper ∧ (s.hfn 0).msixOn = false ∧ (HFn.empty.msixMask = false)) ∧
    (let s := { hosted onRing with host := { m0.host with turn := 1, fns := [(0, { HFn.empty with rings := [HRing.empty, HRing.empty, onRing, onRing], evrOn := true })] } }
     s.Inv ∧ s.ringReady 0 3 = true ∧ s.ringTurn 0 3 = false) ∧
    (let c : HostCmd := ⟨entryOf 0, false, false, some (0, [])⟩
     let s := hosted { onRing with cqHead := 1, cur := some c }
     s.Inv ∧ bitsOf 15 23 16 = s.fld (Fl.FN_EPOCH_EPOCH 0) ∧ s.attached 0 = true ∧ (s.hring 0 3).on = true ∧ bitsOf 15 11 0 < s.cqSize 0 3 ∧ (s.hring 0 3).cur = some c ∧
       c.held = some (0, []) ∧ c.orphan = false ∧ ((s.hring 0 3).cqTail + 1) % s.cqSize 0 3 ≠ bitsOf 15 11 0) :=
  ⟨⟨sound_inv (by decide +kernel), by decide +kernel⟩, ⟨sound_inv (by decide +kernel), by decide +kernel⟩, ⟨sound_inv (by decide +kernel), by decide +kernel⟩, ⟨sound_inv (by decide +kernel), by decide +kernel⟩,
    by decide +kernel, ⟨sound_inv (by decide +kernel), by decide +kernel⟩, ⟨sound_inv (by decide +kernel), by decide +kernel⟩, sound_inv (by decide +kernel), by decide +kernel⟩

/-- A command of an opcode in progress on ring 3 of function f, which another guest may own. -/
def inWork (f op : Nat) : State :=
  { served with host := { m0.host with fns := [(f, { HFn.empty with rings := [HRing.empty, HRing.empty, HRing.empty, { onRing with cur := some ⟨entryOf op, false, false, none⟩ }] })] } }
def aJob : Job := ⟨0x10000000C0, 1, 0, false, false, 1, 2, 180, [], [], [], ⟨[], [], []⟩, 0, false, false, false⟩

theorem witness_HostCommandsComplete :
    (∀ op < 8, (inWork 0 op).Inv ∧ (inWork 0 op).performs = true ∧ ((inWork 0 op).hring 0 3).cur = some ⟨entryOf op, false, false, none⟩ ∧ leAt (entryOf op) 0 1 = op ∧
      (inWork 0 op).attached 0 = true ∧ (inWork 0 op).guestOn 0 = true ∧ (inWork 0 op).job = none ∧ (inWork 0 op).cqFull 0 3 = false) ∧
    (∀ op < 8, (inWork 8 op).Inv ∧ (inWork 8 op).performs = true ∧ ((inWork 8 op).hring 8 3).cur = some ⟨entryOf op, false, false, none⟩ ∧ (inWork 8 op).guestOn 8 = false ∧ (inWork 8 op).cqFull 8 3 = false) ∧
    (let s := hosted { onRing with cqHead := 1, cur := some ⟨entryOf 0, false, false, none⟩ }
     s.Inv ∧ s.performs = true ∧ s.cqFull 0 3 = true ∧ (s.hring 0 3).cur = some ⟨entryOf 0, false, false, none⟩) ∧
    (let s := { put (inWork 8 2) (Fl.HOSTIF_GUEST_CFG_ENABLE 7) 1 with job := some aJob }
     s.Inv ∧ s.guestOn 8 = true ∧ s.job = some aJob ∧ 8 ≠ 0 ∧ 8 ≠ aJob.owner ∧ s.guestMaySnap 8 = false) ∧
    (let s := { inWork 0 2 with job := some { aJob with running := true } }
     s.Inv ∧ s.job.any (·.running) = true) ∧
    (let s := { inWork 0 2 with job := some aJob }
     s.Inv ∧ s.coll.rejoin = false ∧ aJob.module ≠ 0 ∧ s.coll.manager ≠ aJob.module) ∧
    (let e := entryOf 5
     let kindOk := leAt e 18 1 ≤ 1 ∧ leAt e 16 2 ≤ 4095
     (inWork 0 5).guestMaySnap 0 = true ∧ kindOk) ∧
    ¬ (leAt (entryOf 5 |>.set 18 2) 18 1 ≤ 1) := by
  refine ⟨fun op h => ⟨?_, ?_⟩, fun op h => ⟨?_, ?_⟩, ⟨sound_inv (by decide +kernel), by decide +kernel⟩, ⟨sound_inv (by decide +kernel), by decide +kernel⟩, ⟨sound_inv (by decide +kernel), by decide +kernel⟩, ⟨sound_inv (by decide +kernel), by decide +kernel⟩,
    by decide +kernel⟩
  · exact sound_inv (by revert op; decide +kernel)
  · revert op; decide +kernel
  · exact sound_inv (by revert op; decide +kernel)
  · revert op; decide +kernel

theorem witness_HostCommandsComplete_snapshot :
    (let s := { inWork 0 5 with job := some { aJob with running := true } }
     s.isManager = false) ∧
    (let s := { put (inWork 0 5) Fl.UPDT_CTRL_RUN 1 with job := some { aJob with running := true }, coll := { m0.coll with manager := 1 }, nrt := { m0.nrt with flows := [(4032, { Flow.free with state := 1 })] } }
     s.Inv ∧ s.isManager = true ∧ s.upd.run = none ∧ s.me < s.modules ∧ s.fld Fl.UPDT_CTRL_RUN = 1 ∧ s.upd.queue.length < 8 ∧ 0 < s.modules ∧ 0 ≠ s.me ∧ (s.flow (4032 + 0)).state = 1) :=
  ⟨by decide +kernel, sound_inv (by decide +kernel), by decide +kernel⟩

theorem witness_HostCommandsComplete_flash :
    let e := fun (src off len : Nat) => [6, 0, 0, 0, 0, 0, 0, 0] ++ leBytes 8 src ++ leBytes 4 off ++ leBytes 4 len ++ List.replicate 40 0
    (rangeT1 (leAt (e 0 0 1) 8 6) (leAt (e 0 0 1) 20 4) = false) ∧
    (let x := e 0x10000000C0 0x3FFFFFF 1
     rangeT1 (leAt x 8 6) (leAt x 20 4) = true ∧ leAt x 16 4 + leAt x 20 4 ≤ 0x4000000 ∧ (inWork 0 6).flashMay (leAt x 16 4) (leAt x 20 4) = false) ∧
    (let x := e 0x10000000C0 0 0
     rangeT1 (leAt x 8 6) (leAt x 20 4) = true ∧ leAt x 16 4 + leAt x 20 4 ≤ 0x4000000 ∧ (inWork 0 6).flashMay (leAt x 16 4) (leAt x 20 4) = true) := by decide +kernel

theorem witness_FunctionsAttachAndReachMemory :
    (m0.Inv ∧ (let p : PciControl := ⟨true, true, false⟩; 8 ≤ 8 ∧ p.busMaster = true ∧ { p with busMaster := false }.busMaster = false ∧ 7 < 8) ∧
      bitOf 1 0 = true ∧ bitOf 1 1 = false ∧ m0.attached 8 = false ∧ m0.ringsValid 8 = true) ∧
    ((inState stRecovery).Inv ∧ (inState stRecovery).rst.hostHeld = false ∧ (inState stRecovery).rstState = stRecovery) ∧
    (let s := put (put m0 (Fl.RING_CFG_ENABLE 8 3) 1) (Fl.RING_CFG_VECTOR 8 3) 8
     s.Inv ∧ s.attached 8 = false ∧ s.ringsValid 8 = false) ∧
    (let s := put (put m0 (Fl.FN_STATUS_ATTACHED 8) 1) (Fl.FN_CTRL_LIVE_MS 8) 1
     s.Inv ∧ s.attached 8 = true ∧ bitOf 2 0 = false ∧ bitOf 2 1 = true ∧ s.fld (Fl.FN_CTRL_LIVE_MS 8) ≠ 0) ∧
    (put m0 (Fl.FN_CTRL_LIVE_MS 8) 0).fld (Fl.FN_CTRL_LIVE_MS 8) = 0 ∧
    ((inState 3).rst.hostHeld = false ∧ (inState 3).rstState = 3 ∧ (inState 7).rst.hostHeld = false ∧ (inState 7).rstState = 7) ∧
    (let s := put (word (word m0 (Reg.FN_WIN_LO 0 7) 0xC0) (Reg.FN_WIN_LO 0 7 + 4) 0x10) (Fl.FN_WIN_HI_EN 0 7) 1
     let a := s.reg64 (Reg.FN_WIN_LO 0 7) % 2 ^ 48 + 0x7FFFC0
     let v := { m0 with host := { m0.host with numVfs := 8 } }
     s.Inv ∧ v.Inv ∧ 0 ≤ s.host.numVfs ∧ 8 ≤ v.host.numVfs ∧ v.windowFault 8 7 0 64 false = true ∧ s.windowFault 0 7 a 64 false = false ∧ s.windowFault 0 7 a 64 true = false ∧ m0.windowFault 0 7 0 64 false = true ∧ m0.windowFault 0 7 0 64 true = true) :=
  ⟨⟨m0_inv, by decide +kernel⟩, ⟨sound_inv (by decide +kernel), by decide +kernel⟩, ⟨sound_inv (by decide +kernel), by decide +kernel⟩, ⟨sound_inv (by decide +kernel), by decide +kernel⟩, by decide +kernel, by decide +kernel,
    sound_inv (by decide +kernel), sound_inv (by decide +kernel), by decide +kernel⟩

/-! The NRT engine and the key table. -/

/-- The engine running; flow 4031 ACTIVE over port 8, toward flow 5; key 3 a range of T1 for reads and writes, key 4 none. -/
def aPath : NPath := ⟨8, false, true, 0x0A000001⟩
def aFlow : Flow := { Flow.free with state := 1, peerFlow := 5, paths := [aPath] }
def aKey : KeyEntry := { KeyEntry.free with base := 0x10000000C0, length := 192, r := true, w := true, n := true, state := 1, nkind := 1, ctr := 7, tile0 := 179, ntiles := 1 }
def keyFor (i : Nat) : Nat := i + keyCheck 0 i * 2 ^ 26
def netted (f : Flow) : State :=
  { put (put (put m0 Fl.NRT_CTRL_RUN 1) (Fl.MAC_STATUS_STATE 8) macUp) (Fl.MAC_CTRL_JUMBO 8) 1 with
    nrt := { m0.nrt with keys := [(3, aKey)], flows := [(4031, f)], hops := [(8, 0x0A000001)] } }
def aPkt (op key : Nat) (b : List Byte) : Packet := ⟨1, op, false, false, 4031, 5, 0, 0, 0, key, 0, b.length, 0, 0, b, 8, false, true⟩

theorem witness_PacketsWrite :
    (∀ op ∈ [opWrite, opReadResp, opWriteNotify],
      let s := netted aFlow
      let p := aPkt op (keyFor 3) (List.replicate 192 7)
      let e := s.keyEntry (keyIndex p.key)
      s.Inv ∧ heard s op p ∧ fresh s p ∧ s.judgeKey 4031 { p with op := op } = none ∧ e.dest = 0 ∧ s.writeHeld p = false ∧
        (∀ i < p.payload.length, storage (e.base + p.offset + i) = true) ∧ (∀ l ∈ linesOf (e.base + p.offset) p.payload.length, s.isolatedLine l = false) ∧ (s.flow 4031).taint = [] ∧ s.ringRefuses { p with op := op } = none ∧
        (s.flow 4031).loopback = false ∧ (netted { aFlow with loopback := true }).reel.xfers = []) ∧
    (∀ op ∈ [opWrite, opReadResp, opWriteNotify],
      let s := netted aFlow
      let p := { aPkt op (keyFor 3) (List.replicate 192 7) with offset := 1 }
      heard s op p ∧ fresh s p ∧ s.judgeKey 4031 { p with op := op } = some 7 ∧ (s.flow 4031).loopback = false ∧ (s.flow 4031).notes = [] ∧ (s.flow 4031).lastEvent = [] ∧
        (s.choosePath 4031 false none).isSome = true ∧ (netted { aFlow with paths := [] }).choosePath 4031 false none = none) ∧
    (m0.fld Fl.NRT_CTRL_RUN = 0 ∧ m0.hears 8 = false) := by
  refine ⟨fun op h => ⟨sound_inv (by decide +kernel), ?_⟩, ?_, by decide +kernel⟩
  · revert op; unfold heard fresh; decide +kernel
  · unfold heard fresh; decide +kernel

/-- The message of a MGMT packet. -/
def aMsg64 (type : Nat) : List Byte := msgBytes ⟨type, 0, 1, 0, 0, List.replicate 48 0⟩

def aRead : Packet := aPkt opReadReq (keyFor 3) ([0, 0, 0, 192] ++ List.replicate 12 0)
theorem witness_PacketsAnswerAndNotify_heard : (netted aFlow).Inv ∧ heard (netted aFlow) opReadReq aRead ∧ fresh (netted aFlow) aRead := by
  refine ⟨sound_inv (by decide +kernel), ?_, ?_⟩ <;> (try unfold heard) <;> (try unfold fresh) <;> decide +kernel

/-- An acknowledgement of packet 7, and a NAK of it of a class; a packet of the management context to this module. -/
def anAck : Packet := aPkt opAck 8 []
def aNak (klass : Nat) : Packet := { aPkt opNak 7 [] with offset := klass * 2 ^ 32 }
def sentOne : TxPkt := ⟨7, aPkt opWrite 9 [1], none, 0, some 0, 0, 0, 0, none, false⟩
def awaiting : State := netted { aFlow with tx := [sentOne], una := 7, next := 8 }
theorem witness_PacketsAnswerAndNotify_acks : awaiting.Inv ∧ heard awaiting opAck anAck ∧
    (∀ k ∈ [7, 0x10, 0x11], heard awaiting opNak (aNak k) ∧ (aNak k).offset / 2 ^ 32 = k ∧ (awaiting.flow 4031).tx.find? (fun x => decide (x.psn = (aNak k).key % 2 ^ 24)) = some sentOne) ∧
    (awaiting.flow 4031).asks = [] ∧ (awaiting.flow 4031).lastEvent = [] ∧ ∀ n, (awaiting.tile n).sendQ = [] := by
  refine ⟨sound_inv (by decide +kernel), ?_, ?_, by decide +kernel, by decide +kernel, fun _ => rfl⟩ <;> unfold heard <;> decide +kernel

def aNote : RxNote := ⟨0, aPkt opWriteNotify (keyFor 3) [1]⟩
def noted : State := netted { aFlow with epsn := 2, notes := [⟨1, aPkt opWriteNotify (keyFor 3) [2]⟩, aNote] }
def notedTwice : State := netted { aFlow with epsn := 2, notes := [aNote], ids := [identity aNote.pkt] }
theorem witness_PacketsAnswerAndNotify_notes : noted.Inv ∧ notedTwice.Inv ∧ aNote ∈ (noted.flow 4031).notes ∧ 2 ^ 23 ≤ psnSub aNote.psn (noted.flow 4031).epsn ∧
    (∀ m ∈ (noted.flow 4031).notes, m ≠ aNote → 2 ^ 23 ≤ psnSub m.psn (noted.flow 4031).epsn →
      psnSub aNote.psn (noted.flow 4031).epsn < psnSub m.psn (noted.flow 4031).epsn) ∧
    (noted.flow 4031).ids.contains (identity aNote.pkt) = false ∧ aNote ∈ (notedTwice.flow 4031).notes ∧ (notedTwice.flow 4031).ids.contains (identity aNote.pkt) = true ∧
    (let k := noted.keyEntry (keyIndex aNote.pkt.key)
     k.nkind = 1 ∧ 0 < min k.ntiles 180 ∧ k.tile0 + 0 < 180) :=
  ⟨sound_inv (by decide +kernel), sound_inv (by decide +kernel), by decide +kernel⟩

/-- A commit of a mirror, and a notification whose lower PSNs are not all placed. -/
theorem witness_PacketsAnswerAndNotify_commit :
    (let r : MirrorRow := ⟨0, false, 1, 1, 0, 0, 0, none, none, none, (0, 0), (0, 0)⟩
     let s := { noted with nrt := { noted.nrt with keys := [(3, { aKey with nkind := 5 })] }, upd := { m0.upd with mirrors := [r] } }
     let k := s.keyEntry (keyIndex aNote.pkt.key)
     s.Inv ∧ (aNote ∈ (s.flow 4031).notes ∧ (s.flow 4031).ids.contains (identity aNote.pkt) = false ∧ k.nkind = 5 ∧ s.upd.mirrors[k.obj]? = some r) ∧ ∀ n, (s.tile n).sendQ = []) ∧
    (let s := netted { aFlow with notes := [⟨1, aPkt opWriteNotify (keyFor 3) [2]⟩] }
     s.Inv ∧ (∀ n ∈ (s.flow 4031).notes, psnSub n.psn (s.flow 4031).epsn < 2 ^ 23) ∧ ∀ n, (s.tile n).sendQ = []) :=
  ⟨⟨sound_inv (by decide +kernel), by decide +kernel, fun _ => rfl⟩, sound_inv (by decide +kernel), by decide +kernel, fun _ => rfl⟩

def aMember : State := { put (netted aFlow) Fl.COLL_CTRL_RUN 1 with nrt := { m0.nrt with flows := [(4033, { aFlow with peerFlow := 4032 })] } }
def aMgmt : Packet := { aPkt opMgmt 0 (aMsg64 3) with dstFlow := 4033, srcFlow := 4032, dgram := true }
theorem witness_PacketsAnswerAndNotify_mgmt : aMember.Inv ∧ (∀ d : Bool, heard aMember opMgmt { aMgmt with dgram := d }) ∧ fresh aMember { aMgmt with dgram := false } ∧ (aMgmt.dgram = true ∧
    (aMember.flow 4033).loopback = false ∧ (msgDecode aMgmt.payload).type = 3 ∧ aMember.fld Fl.COLL_CTRL_RUN = 1 ∧ aMember.fld Fl.COLL_STATUS_EPOCH ≤ (msgDecode aMgmt.payload).epoch ∧
    slatePhase (msgDecode aMgmt.payload).slate ≤ 4) ∧
    (let s := put aMember Fl.COLL_CTRL_RUN 0
     s.Inv ∧ heard s opMgmt aMgmt ∧ s.fld Fl.COLL_CTRL_RUN = 0) := by
  refine ⟨sound_inv (by decide +kernel), ?_, ?_, by decide +kernel, sound_inv (by decide +kernel), ?_, by decide +kernel⟩ <;>
    (try unfold heard) <;> (try unfold fresh) <;> decide +kernel

theorem witness_PacketsAnswerAndNotify_read : (netted aFlow).judgeKey 4031 { aRead with op := opReadReq } = none ∧
    ((netted aFlow).readJudge { aRead with op := opReadReq }).1 = .proceed ∧ readLen aRead = 192 ∧ rangeT1 (aKey.base + aRead.offset) 192 = true ∧
    (netted aFlow).flow 4031 = aFlow ∧ aFlow.loopback = false ∧ aFlow.peerFlow ≠ 4031 ∧ (netted aFlow).reel.xfers = [] ∧
    ∀ i < 192, (netted aFlow).poisoned (aKey.base + aRead.offset + i) = false := by decide +kernel

/-- A packet to go, and one sent on the flow's path. -/
def toGo : TxPkt := ⟨7, aPkt opWrite 9 [1], none, 0, none, 0, 0, 0, none, false⟩
def gone : TxPkt := { toGo with sent := some 0, tries := 15 }

theorem witness_FlowsSend :
    (let s := netted { aFlow with tx := [toGo], una := 7, next := 8 }
     s.Inv ∧ s.fld Fl.NRT_CTRL_RUN = 1 ∧ (s.flow 4031).state = 1 ∧ (s.flow 4031).loopback = false ∧
       (s.flow 4031).tx.find? (fun x => x.sent.isNone && x.retryAt.isNone && decide (psnSub x.psn (s.flow 4031).una < 1024)) = some toGo ∧ toGo.tries = 0 ∧ toGo.pkt.retx = false ∧
       s.choosePath 4031 (isDataOp toGo.pkt.op) none = some 0 ∧ (s.flow 4031).paths[0]? = some aPath ∧ s.portHolds 8 = false ∧ (s.port 8).paused = [] ∧ (s.flow 4031).lastEvent = []) ∧
    (let s := netted { aFlow with tx := [gone], una := 7, next := 8 }
     s.Inv ∧ (s.flow 4031).tx.find? (fun x => decide (x.psn = 7) && x.sent.isSome && x.retryAt.isNone) = some gone ∧ gone.tries < 16 ∧
       s.choosePath 4031 (isDataOp gone.pkt.op) (some gone.path) = some 0) ∧
    (let x := { gone with tries := 16 }
     let s := netted { aFlow with tx := [x], una := 7, next := 8 }
     s.Inv ∧ (s.flow 4031).tx.find? (fun x => decide (x.psn = 7) && x.sent.isSome && x.retryAt.isNone) = some x ∧ 16 ≤ x.tries ∧ (s.flow 4031).tx ≠ []) ∧
    (let x := { gone with retryAt := some 0 }
     let s := netted { aFlow with tx := [x], una := 7, next := 8 }
     s.Inv ∧ (s.flow 4031).tx.find? (fun x => decide (x.psn = 7) && x.retryAt.isSome) = some x ∧ s.choosePath 4031 (isDataOp x.pkt.op) (some x.path) = some 0) ∧
    (let s := netted { aFlow with ackDue := true }
     s.Inv ∧ (s.flow 4031).acks = [] ∧ (s.flow 4031).back = [] ∧ (s.flow 4031).ackDue = true ∧ s.choosePath 4031 false none = some 0) ∧
    (let s := netted { aFlow with paths := [], acks := [], ackDue := true }
     s.Inv ∧ s.choosePath 4031 false none = none ∧ (s.flow 4031).loopback = false ∧ (s.flow 4031).ackDue = true) ∧
    (m0.fld Fl.NRT_CTRL_RUN = 0 ∧ ((netted { aFlow with loopback := true, tx := [toGo] }).flow 4031).tx ≠ []) :=
  ⟨⟨sound_inv (by decide +kernel), by decide +kernel⟩, ⟨sound_inv (by decide +kernel), by decide +kernel⟩, ⟨sound_inv (by decide +kernel), by decide +kernel⟩, ⟨sound_inv (by decide +kernel), by decide +kernel⟩,
    ⟨sound_inv (by decide +kernel), by decide +kernel⟩, ⟨sound_inv (by decide +kernel), by decide +kernel⟩, by decide +kernel⟩

def keyState (st inuse : Nat) : State := { m0 with nrt := { m0.nrt with keys := [(2 ^ 18 - 1, { aKey with state := st, inuse := inuse })] } }
/-- An entry of T1, of 192 bytes, for writes, in the staging registers. -/
def stagedKey : State := word (word (word (word m0 (Reg.KEYT_STAGE 0) 0xC0) (Reg.KEYT_STAGE 1) 0x10) (Reg.KEYT_STAGE 2) 192) (Reg.KEYT_STAGE 3) 0x20000

theorem witness_KeysAndFlowsAreManaged :
    (stagedKey.Inv ∧ bitsOf 0x7FFFF 19 18 = 1 ∧ keyEntryOk stagedKey.staged = true ∧ (stagedKey.keyEntry (bitsOf 0x7FFFF 17 0)).state = 0 ∧ bitsOf 0xBFFFF 19 18 = 2 ∧ bitsOf 0xFFFFF 19 18 = 3 ∧ 0xC5 ≠ mKeeper) ∧
    ((keyState 1 0).Inv ∧ ((keyState 1 0).keyEntry (2 ^ 18 - 1)).state = 1 ∧ ¬ ((keyState 1 0).keyEntry (2 ^ 18 - 1)).state = 2) ∧
    ((keyState 2 0).Inv ∧ ((keyState 2 0).keyEntry (2 ^ 18 - 1)).state = 2 ∧ ((keyState 2 0).keyEntry (2 ^ 18 - 1)).inuse = 0 ∧
      (keyState 2 0).nrt.keys.any (fun e => decide (e.2.state = 2)) = true) ∧
    ((keyState 2 1).Inv ∧ ((keyState 2 1).keyEntry (2 ^ 18 - 1)).inuse ≠ 0 ∧ ((keyState 2 1).keyEntry (2 ^ 18 - 1)).slowRaised = false) ∧
    (bitOf 0x1FBF 12 = true ∧ bitOf 0x1FBF 13 = false ∧ bitsOf 0x1FBF 11 0 = 4031 ∧ bitsOf 0x1FC0 11 0 = 4032 + m0.me ∧ bitOf 0x2FBF 13 = true ∧ bitOf 0x2FBF 12 = false ∧
      inT1Table (m0.reg64 Reg.NRT_FLOW_REC_LO) 192 = false ∧ m0.fld Fl.NRT_CTRL_RUN = 0 ∧ bitOf 1 0 = true ∧ bitOf 0 0 = false) ∧
    (let s := word (word m0 Reg.NRT_FLOW_REC_LO 0xC0) (Reg.NRT_FLOW_REC_LO + 4) 0x10
     s.Inv ∧ inT1Table (s.reg64 Reg.NRT_FLOW_REC_LO) 192 = true) ∧ ((netted aFlow).flow 4031).state ≠ 0 :=
  ⟨⟨sound_inv (by decide +kernel), by decide +kernel⟩, ⟨sound_inv (by decide +kernel), by decide +kernel⟩, ⟨sound_inv (by decide +kernel), by decide +kernel⟩, ⟨sound_inv (by decide +kernel), by decide +kernel⟩, by decide +kernel,
    ⟨sound_inv (by decide +kernel), by decide +kernel⟩, by decide +kernel⟩

/-! The ports. -/

/-- Port 7 in a state, its cage optical and of a rate; port 8 the same. -/
def ported (n state : Nat) (p : Port) : State :=
  { put (put (put (put (put m0 (Fl.MAC_STATUS_STATE n) state) (Fl.IDENT_CAGE_FIRST_PORT 4) n) (Fl.IDENT_CAGE_MODE 4) 1) (Fl.MAC_CTRL_RUN n) 1) (Fl.MAC_STATUS_SPEED n) 2 with
    ports := if p = Port.empty then [] else [(n, p)] }

theorem witness_PortsComeUpAndGoDown :
    ((ported 8 macDown Port.empty).Inv ∧ (ported 8 macDown Port.empty).macState 8 = macDown) ∧
    (let s := put (ported 8 macTraining Port.empty) (Fl.IDENT_CAGE_MEDIA 4) 1
     s.Inv ∧ s.macState 8 = macTraining ∧ s.portCopper 8 = true ∧ (s.portCopper 8 && (s.port 8).noAbility) = false) ∧
    ((ported 8 macRetrain Port.empty).Inv ∧ (ported 8 macRetrain Port.empty).macState 8 = macRetrain) ∧
    (let s := put (ported 8 macStepping Port.empty) (Fl.MAC_CTRL_RETRAIN_THRESH 8) 255
     s.Inv ∧ s.macState 8 = macStepping ∧ (s.port 8).held = [] ∧ s.fld (Fl.MAC_CTRL_RETRAIN_THRESH 8) ≠ 0 ∧ s.fld (Fl.MAC_CTRL_RETRAIN_THRESH 8) < 256 ∧
       255 ≤ s.fld (Fl.MAC_CTRL_RETRAIN_THRESH 8) ∧ s.fld (Fl.MAC_CTRL_RUN 8) = 1 ∧ bitOf 0x81 0 = true ∧ bitOf 0x81 7 = true ∧ bitOf 0 0 = false) ∧
    (m0.fld (Fl.MAC_CTRL_RUN 8) = 0 ∧ bitOf 1 0 = true ∧ bitOf 1 7 = false ∧ 0xC5 ≠ mKeeper) :=
  ⟨⟨sound_inv (by decide +kernel), by decide +kernel⟩, ⟨sound_inv (by decide +kernel), by decide +kernel⟩, ⟨sound_inv (by decide +kernel), by decide +kernel⟩, ⟨sound_inv (by decide +kernel), by decide +kernel⟩,
    by decide +kernel⟩

/-- An ARP frame to every port. -/
def arp : Frame := ⟨64, true, macBroadcast, 1, [], 0x0806, 0, false, 0, 0, 0, false, false, false, false, false, false, false, false, [], []⟩
def aHeld : Nat × Nat × Out := (7, 64, .frame 8 arp)

theorem witness_PortsCarryFrames :
    (let s := put (ported 8 macUp Port.empty) (Fl.MAC_LLDP_TX_EN 8) 1
     let g := s.sentFrame 8 arp
     let ask := { arp with etherType := 0x88F7, pdelay := true, ask := true }
     s.Inv ∧ s.receives 8 = true ∧ m0.receives 8 = false ∧ s.frameCause 8 arp = none ∧ s.forStage arp = true ∧ s.frameCause 8 ask = none ∧ ask.ask = true ∧ s.forStage ask = false ∧
       g.length ≤ s.frameLimit 8 ∧ (s.port 8).mgmtHeld < 64 ∧ s.frameLimit 8 < (s.sentFrame 8 { arp with length := 1523 }).length ∧ s.frameCause 8 { arp with length := 63 } = some 1 ∧
       s.macState 8 = macUp ∧ s.portHolds 8 = false ∧ (s.port 8).paused = [] ∧ s.fld (Fl.MAC_LLDP_TX_EN 8) = 1 ∧
       ({ arp with master := true }.master = true ∧ s.fld (Fl.MAC_CTRL_GM_EN 8) = 0 ∧ (put s (Fl.MAC_CTRL_GM_EN 8) 1).fld (Fl.MAC_CTRL_GM_EN 8) = 1)) ∧
    (let s := put (put (ported 8 macStepping { Port.empty with held := [aHeld], paused := [7] }) (Fl.MAC_CTRL_PFC_EN 8) 1) (Fl.MAC_PFC_PRIO_EN 8) 255
     s.Inv ∧ s.macState 8 = macStepping ∧ s.portHolds 8 = true ∧ (s.sentFrame 8 arp).length ≤ s.frameLimit 8 ∧ (s.port 8).mgmtHeld < 64 ∧
       64 ≤ { Port.empty with held := List.replicate 64 aHeld }.mgmtHeld ∧ bitOf 128 7 = true ∧ bitOf (s.pfcMask 8) 7 = true ∧ s.receives 8 = false ∧
       (let t := put s (Fl.MAC_STATUS_STATE 8) macUp
        t.portHolds 8 = false ∧ aHeld ∈ (t.port 8).held ∧ aHeld.1 = 7 ∧ t.receives 8 = true)) ∧
    (let s := ported 8 macUp { Port.empty with exchanges := 15, delays := List.replicate 8 0 }
     s.Inv ∧ s.macState 8 = macUp ∧ s.portHolds 8 = false ∧ (s.port 8).paused = [] ∧ (s.port 8).exchanges < 16 ∧ (s.port 8).exchanges = 15 ∧ 9 ≤ ((s.port 8).delays ++ (some (0 : Int)).toList).length) :=
  ⟨⟨sound_inv (by decide +kernel), by decide +kernel⟩, ⟨sound_inv (by decide +kernel), by decide +kernel⟩, sound_inv (by decide +kernel), by decide +kernel⟩

theorem witness_PortsStepAndIdle :
    (let s := put (put (ported 7 macUp { Port.empty with low := 200, backUs := 10 }) (Fl.MAC_STATUS_STEP_OK 7) 1) (Fl.MAC_CTRL_LP_MODE 7) 1
     s.Inv ∧ s.stepReady 7 = true ∧ s.lpMethod 7 = 1 ∧ (s.port 7).noSteps = false ∧ 1 < s.fld (Fl.MAC_STATUS_SPEED 7) ∧ s.fld (Fl.MAC_STATUS_SPEED 7) < s.portSpeed 7 ∧ 200 ≤ (s.port 7).low ∧
       10 ≤ (s.port 7).backUs ∧ s.receives 7 = true ∧ (s.port 7).stepTo = none ∧ (3 = s.fld (Fl.MAC_STATUS_SPEED 7) + 1 ∧ 3 ≤ s.portSpeed 7) ∧ (1 + 1 = s.fld (Fl.MAC_STATUS_SPEED 7) ∧ 1 ≤ 1)) ∧
    (let s := put (put (ported 7 macUp { Port.empty with low := 199, busy := true }) (Fl.MAC_STATUS_STEP_OK 7) 1) (Fl.MAC_CTRL_LP_MODE 7) 1
     s.Inv ∧ s.stepReady 7 = true ∧ (s.port 7).busy = true ∧ (s.port 7).noSteps = false ∧ s.fld (Fl.MAC_STATUS_SPEED 7) < s.portSpeed 7 ∧ (s.port 7).low < 200 ∧
       Port.empty.backUs < 10 ∧ Port.empty.busy = false) ∧
    (let s := put (ported 7 macStepping { Port.empty with stepTo := some (false, 1) }) (Fl.MAC_STATUS_FEC_LOCK 7) 1
     s.Inv ∧ s.receives 7 = true ∧ (s.port 7).stepTo = some (false, 1) ∧ s.macState 7 = macStepping ∧ (s.port 7).stepTo.isSome = true ∧ 1 ≤ s.portSpeed 7 ∧
       s.fld (Fl.MAC_STATUS_SPEED 7) + 1 ≤ s.portSpeed 7 ∧ { Port.empty with stepTo := some (true, 3) }.stepTo = some (true, 3)) ∧
    (let s := ported 7 macStepping { Port.empty with agreed := some 3, held := [aHeld] }
     s.Inv ∧ (s.port 7).agreed = some 3 ∧ s.macState 7 = macStepping ∧ (s.port 7).changing = none ∧ (s.port 7).held ≠ []) ∧
    (let s := ported 7 macStepping { Port.empty with agreed := some 3, changing := some true, held := [aHeld] }
     s.Inv ∧ (s.port 7).changing = some true ∧ s.macState 7 = macStepping ∧ s.fld (Fl.MAC_STATUS_LPI_TX 7) = 0 ∧ (s.port 7).paused.contains 7 = false) ∧
    (let s := put (put (ported 7 macUp { Port.empty with idleUs := 5, partner := some ⟨1, 0, false, true, false, 0, 0, 120, 0⟩ }) (Fl.MAC_CTRL_LP_MODE 7) 2) (Fl.MAC_LP_LPI_IDLE 7) 5
     s.Inv ∧ s.macState 7 = macUp ∧ s.lpMethod 7 = 2 ∧ (s.port 7).partner.any (·.eee) = true ∧ s.crossPending = false ∧ (s.port 7).held = [] ∧
       (s.port 7).stepTo = none ∧ s.lpMethod 7 ≠ 1 ∧ max (s.fld (Fl.MAC_LP_LPI_IDLE 7)) 1 ≤ (s.port 7).idleUs ∧ (m0.port 7).idleUs < max (m0.fld (Fl.MAC_LP_LPI_IDLE 7)) 1) :=
  ⟨⟨sound_inv (by decide +kernel), by decide +kernel⟩, ⟨sound_inv (by decide +kernel), by decide +kernel⟩, ⟨sound_inv (by decide +kernel), by decide +kernel⟩, ⟨sound_inv (by decide +kernel), by decide +kernel⟩,
    ⟨sound_inv (by decide +kernel), by decide +kernel⟩, sound_inv (by decide +kernel), by decide +kernel⟩

/-! The manager and the collective engine. -/

/-- Bytes put into memory. -/
def poke (s : State) (a : Nat) (b : List Byte) : State := { s with mem := writeBytes s.mem a b }

/-- Ring 2 of the table at the base of T1, of 64 entries and full. -/
theorem witness_FlowsSend_ring :
    let s := poke (poke (word (word m0 Reg.NRT_RING_BASE_LO 0xC0) (Reg.NRT_RING_BASE_LO + 4) 0x10) 0x1000000100 ([0xC0, 0, 0, 0, 0x10, 0, 0, 0, 6] ++ List.replicate 7 0)) 0x1000000110 [64]
    let t := { s with nrt := { s.nrt with ringFull := [(2, 4031, 0)] } }
    s.Inv ∧ t.Inv ∧ (s.ring 2).full = true ∧ (t.ring 2).full = true ∧ s.nrt.ringFull.find? (fun x => decide (x.1 = 2)) = none ∧
      t.nrt.ringFull.find? (fun x => decide (x.1 = 2)) = some (2, 4031, 0) ∧ (t.flow 4031).lastEvent = [] := ⟨sound_inv (by decide +kernel), sound_inv (by decide +kernel), by decide +kernel⟩

/-- Module 1 of 2 of a running job, a member, and the manager; its flows to module 0 and to itself ACTIVE. -/
def running : Job := { aJob with running := true, clap := ⟨[], [[0, 1], [], [], [], [], [], [], [0, 1]], [[179], [], [], [], [], [], [], [178, 179]]⟩ }
def member (c : Coll) : State :=
  { put (put m0 Fl.COLL_CTRL_RUN 1) Fl.RSTC_STATE_STATE stRunning with job := some running, coll := c, nrt := { m0.nrt with flows := [(4032, { Flow.free with state := 1, paths := [aPath] })] } }
def boss (m : Mgr) : State := member { m0.coll with manager := 1, mgr := m }
def msgOf (type : Nat) (arg : List Byte) : Msg := ⟨type, 255, 0, 9, 0, arg⟩

/-- A message of a reserved phase. -/
def badPhase (type : Nat) : Msg := { msgOf type (leBytes 8 (mkSlate 0 0 0 5 0)) with slate := mkSlate 0 0 0 5 0 }

theorem witness_JobsJoinFailOverAndResume_message : (m0.fld Fl.COLL_CTRL_RUN = 0 ∧ phasesOk (msgOf 3 []) ∧ ¬phasesOk (badPhase 3)) ∧
    (((member m0.coll).flow (4032 + (badPhase 3).module)).paths = aPath :: [] ∧ aPath.port ≤ 8) ∧
    (let s := put (member m0.coll) Fl.COLL_STATUS_EPOCH 1
     s.Inv ∧ s.fld Fl.COLL_CTRL_RUN = 1 ∧ phasesOk { msgOf 3 [] with epoch := 0 } ∧ { msgOf 3 [] with epoch := 0 }.epoch < s.fld Fl.COLL_STATUS_EPOCH ∧ (msgOf 3 []).type ≠ 1) ∧
    ((member m0.coll).Inv ∧ (∀ k ∈ [3, 0xB, 0xC], hears (member m0.coll) (msgOf k [])) ∧ hears (member m0.coll) (msgOf 2 (leBytes 4 0 ++ leBytes 2 2)) ∧ (member m0.coll).isManager = false ∧
      (msgOf 2 []).epoch < 256 ∧ leAt (msgOf 2 (leBytes 4 0 ++ leBytes 2 2)).arg 4 2 = (member m0.coll).modules ∧ leAt (msgOf 2 []).arg 4 2 ≠ (member m0.coll).modules ∧
      (member m0.coll).runJob = some running ∧ ((member m0.coll).flow (4032 + (msgOf 0xB []).module)).state = 1) := by
  unfold hears phasesOk
  exact ⟨by decide +kernel, by decide +kernel, ⟨sound_inv (by decide +kernel), by decide +kernel⟩, sound_inv (by decide +kernel), by decide +kernel⟩

theorem witness_JobsJoinFailOverAndResume_join :
    (let s := boss Mgr.empty
     let j := joinOf (msgOf 1 (leBytes 8 1))
     s.Inv ∧ s.isManager = true ∧ j.rejoin = false ∧ s.coll.mgr.admitted = false ∧ s.joinFits j = true ∧ s.modules ≤ s.coll.mgr.joins.length + 2 ∧
       s.joinFits (joinOf (msgOf 1 [])) = false) ∧
    (let s := boss { Mgr.empty with joins := [⟨1, 1, 0, 0, false⟩] }
     s.joinFits (joinOf (msgOf 1 (leBytes 8 1))) = true ∧ s.modules ≤ s.coll.mgr.joins.length + 1 ∧ s.job.isSome = true ∧ s.coll.mgr.joins ≠ []) ∧
    (let s := boss { Mgr.empty with lost := [0] }
     let j := joinOf (msgOf 1 (leBytes 4 1 ++ List.replicate 8 0 ++ [1]))
     s.Inv ∧ hears s (msgOf 1 (leBytes 4 1 ++ List.replicate 8 0 ++ [1])) ∧ j.rejoin = true ∧ s.coll.mgr.lost.contains j.module = true ∧ s.coll.mgr.standby = none ∧ s.coll.journal = [] ∧
       s.upd.groups = [] ∧ 1 < s.modules) := by
  unfold hears phasesOk
  exact ⟨⟨sound_inv (by decide +kernel), by decide +kernel⟩, by decide +kernel, sound_inv (by decide +kernel), by decide +kernel⟩

/-- The twin of the manager lost, and what the manager has of its groups and its own. -/
def orphaned (own : List Group) (mirrors : List MirrorRow) : State :=
  { boss { Mgr.empty with lost := [0] } with upd := { m0.upd with groups := own, mirrors := mirrors }, job := some { running with overlap := true } }

/-- A restore that is possible and exact, one that is not exact, and one that is not possible. -/
theorem witness_JobsJoinFailOverAndResume_restart :
    let r : MirrorRow := ⟨0, false, 1, 1, 0, 0, 0, some 5, none, some 5, (0, 0), (0, 0)⟩
    let g := fun (n : Nat) => { Group.decode [] with step := n }
    (orphaned [] []).Inv ∧ (orphaned [] [r]).Inv ∧ (orphaned [g 1, g 6] []).Inv ∧ (∀ x y z : Bool, ((orphaned [] []).restart 0 0 x y z).possible = true ∧
      ((orphaned [] []).restart 0 0 x y z).exact = true ∧ ((orphaned [] [r]).restart 0 0 true y z).possible = true ∧ ((orphaned [] [r]).restart 0 0 x y z).exact = false ∧
      ((orphaned [g 1, g 6] []).restart 0 0 x y z).possible = false) :=
  ⟨sound_inv (by decide +kernel), sound_inv (by decide +kernel), sound_inv (by decide +kernel), by decide +kernel⟩

/-- A group of one value, and an object with two places. -/
def aGroup : Group := { Group.decode [] with rows := 1, cols := 1, obj := 0xFFFF, layer := 1, pAddr := 0x4000000000, s1Addr := 0x4000000100, s2Addr := 0x4000000200, gAddr := 0x4000000300 }
def anObj : Obj := { Obj.decode [] with fmt := 4, versioned := true, rows := 1, cols := 1, addr0 := 0x10000000C0, addr1 := 0x1000010080, size := 192, ver0 := 4, ver1 := 5 }
def updated (u : Upd) : State := { put (put m0 Fl.UPDT_CTRL_RUN 1) Fl.COLL_CTRL_RUN 1 with upd := u, job := some running, reel := { m0.reel with objects := [anObj] } }

theorem witness_JobsJoinFailOverAndResume_restore :
    (let s := { member m0.coll with reel := { m0.reel with objects := [anObj] }, upd := { m0.upd with groups := [aGroup] } }
     s.Inv ∧ (∀ g ∈ s.upd.groups, g.step ≤ leAt (msgOf 0xD (leBytes 4 4)).arg 0 4) ∧ s.me ≠ (msgOf 0xD []).module ∧ s.reel.objects[0]? = some anObj ∧ anObj.versioned = true ∧
       s.upd.groups[0]? = some aGroup ∧ (msgOf 0xD []).epoch < 256 ∧ s.overlap = false ∧ (s.flow (4032 + (msgOf 0xD []).module)).state = 1 ∧
       (let c : RestoreCopy := ⟨0, 4, [], [], [], 0, 0⟩
        c.step = leAt (msgOf 0xD (leBytes 4 4)).arg 0 4 ∧ s.upd.groups[c.group]? = some aGroup)) ∧
    (let s := boss Mgr.empty
     s.Inv ∧ s.isManager = true ∧ s.coll.mgr.standby = none ∧ s.coll.mgr.restored.contains 0 = false ∧ (∀ e ∈ s.coll.journal, e.2 ≠ .restored 0 0)) ∧
    (let m := msgOf 0xD (leBytes 4 4)
     let s := { member m0.coll with upd := { m0.upd with groups := [{ aGroup with step := 4 }] } }
     let t := { member m0.coll with upd := { m0.upd with groups := [{ aGroup with step := 3, obj := 0 }] }, job := some { running with overlap := true } }
     s.Inv ∧ t.Inv ∧ hears s m ∧ m.epoch < 256 ∧ s.coll.restoring ≠ some (leAt m.arg 0 4) ∧ s.coll.rejoin = false ∧ (∀ g ∈ s.upd.groups, g.step = leAt m.arg 0 4) ∧
       t.overlap = true ∧ (∃ g ∈ t.upd.groups, g.obj ≠ 0xFFFF) ∧ leAt m.arg 0 4 ≠ 0 ∧ (∃ g ∈ t.upd.groups, g.step ≠ leAt m.arg 0 4)) ∧
    (let m := msgOf 2 (leBytes 4 0 ++ leBytes 2 3)
     hears (member m0.coll) m ∧ leAt m.arg 4 2 ≠ (member m0.coll).modules ∧ (member m0.coll).job.any (·.started) = false ∧
       ({ member m0.coll with job := some { running with started := true } } : State).job.any (·.started) = true) ∧
    (let s := boss { Mgr.empty with restored := [1] }
     ∀ k < s.modules, k ∈ s.coll.mgr.restored ++ [(msgOf 0xE []).module]) := by
  unfold hears phasesOk
  exact ⟨⟨sound_inv (by decide +kernel), by decide +kernel⟩, ⟨sound_inv (by decide +kernel), by decide +kernel⟩, ⟨sound_inv (by decide +kernel), sound_inv (by decide +kernel), by decide +kernel⟩, by decide +kernel, by decide +kernel⟩

theorem witness_JobsJoinFailOverAndResume_loss :
    (let s := put (put (member { m0.coll with standby := some 1 }) (Fl.MAC_STATUS_STATE 8) macUp) Fl.NRT_CTRL_RUN 1
     let t := { s with nrt := { s.nrt with hops := [(8, 0x0A000001)] } }
     let u := { s with coll := { s.coll with standby := some 5 } }
     t.Inv ∧ u.Inv ∧ t.fld Fl.COLL_CTRL_RUN = 1 ∧ t.fld Fl.NRT_CTRL_RUN = 1 ∧ 0 ≠ t.me ∧ 0 = t.coll.manager ∧ t.heartbeatPort 0 8 = true ∧ 1 = t.me ∧
       (5 ≠ u.me ∧ u.coll.standby = some 5 ∧ (u.flow (4032 + 5)).state ≠ 1) ∧ (t.flow (4032 + 0)).state = 1 ∧ (t.flow (4032 + 0)).paths[0]? = some aPath ∧ t.pathUsable aPath false = true ∧ t.portHolds 8 = false ∧ (t.port 8).paused = [] ∧
       (t.flow (4032 + 1)).state ≠ 1) ∧
    (let s := put (boss Mgr.empty) Fl.COLL_STATUS_ROLE 1
     s.Inv ∧ s.fld Fl.COLL_CTRL_RUN = 1 ∧ 0 < s.modules ∧ 0 ≠ s.me ∧ s.coll.mgr.lost.contains 0 = false ∧ s.fld Fl.COLL_STATUS_ROLE = 1 ∧ s.coll.mgr.standby = none ∧
       s.coll.fullTo ≠ some 0) ∧
    (let s := put (member m0.coll) Fl.COLL_STATUS_ROLE 2
     s.Inv ∧ s.fld Fl.COLL_STATUS_ROLE = 2 ∧ 0 = s.coll.manager) ∧
    (let s := put (boss { Mgr.empty with restore := some 3 }) Fl.COLL_STATUS_RESTORED 1
     s.Inv ∧ bitOf 5 0 = true ∧ bitOf 5 2 = true ∧ s.isManager = true ∧ s.fld Fl.COLL_STATUS_RESTORED = 1 ∧ s.coll.mgr.restore = some 3) :=
  ⟨⟨sound_inv (by decide +kernel), sound_inv (by decide +kernel), by decide +kernel⟩, ⟨sound_inv (by decide +kernel), by decide +kernel⟩, ⟨sound_inv (by decide +kernel), by decide +kernel⟩,
    sound_inv (by decide +kernel), by decide +kernel⟩

theorem witness_ReportsReachTheManager :
    (let s := word (word (member m0.coll) Reg.COLL_STEP 0) Reg.UPDT_DONE 7
     s.Inv ∧ s.fld Fl.COLL_CTRL_RUN = 1 ∧ s.reg Reg.COLL_STEP ≠ 0xFFFFFFFF ∧ 0 ≤ (s.reg Reg.COLL_STEP).toNat ∧ s.drainedOf 0 = true ∧ s.coll.drainedSent.contains 0 = false ∧
       s.isManager = false ∧ s.updDoneOf 7 = true ∧ s.coll.updDoneSent.contains 7 = false ∧ (s.flow (4032 + s.coll.manager)).state = 1) ∧
    (let s := word (word (boss Mgr.empty) Reg.COLL_STEP 0) Reg.UPDT_DONE 7
     s.Inv ∧ (∀ k ∈ [4, 6, 7, 9], hears s (msgOf k [])) ∧ s.isManager = true ∧ s.coll.mgr.standby = none ∧ s.drainedOf 0 = true ∧ s.updDoneOf 7 = true ∧ s.coll.mgr.drained.contains (1, 0) = false ∧
       s.coll.mgr.updDone.contains (1, 7) = false ∧ (∀ e ∈ s.coll.journal, e.2 ≠ .reportDrained 1 0) ∧ s.coll.mgr.arrivals.contains (0, 0, 0) = false) ∧
    (let s := { boss { Mgr.empty with standby := some 0 } with coll := { (boss { Mgr.empty with standby := some 0 }).coll with journal := [(6, .reportDrained 1 0)] } }
     s.Inv ∧ s.coll.mgr.standby = some 0 ∧ s.coll.journal.find? (fun e => decide (e.1 = leAt (leBytes 4 6) 0 4)) = some (6, .reportDrained 1 0) ∧ s.coll.fullTo ≠ some 0 ∧
       (∀ x ∈ s.coll.journal, x.2 ≠ .reportDrained 0 0) ∧ (∀ x ∈ s.coll.journal, x.2 ≠ .reportUpdDone 0 0)) ∧
    (let s := member { m0.coll with manager := 1, fullTo := some 0, fullLeft := [6] }
     s.Inv ∧ hears s (msgOf 0xA (leBytes 4 6)) ∧ s.isManager = true ∧ s.coll.fullTo = some (msgOf 0xA []).module ∧ s.coll.fullLeft = [leAt (leBytes 4 6) 0 4]) := by
  unfold hears phasesOk
  exact ⟨⟨sound_inv (by decide +kernel), by decide +kernel⟩, ⟨sound_inv (by decide +kernel), by decide +kernel⟩, ⟨sound_inv (by decide +kernel), by decide +kernel⟩, sound_inv (by decide +kernel), by decide +kernel⟩

/-- A bucket of one line pair in layer 1, and a group of module 0, in T1. -/
def tabled (bucket : List Byte) : State :=
  let w := fun (s : State) (lo hi v : Nat) => word (word s lo v) hi 0x10
  { put (put (put (poke (poke (w (w m0 Reg.COLL_BKT_BASE_LO Reg.COLL_BKT_BASE_HI 0xC0) Reg.COLL_RG_BASE_LO Reg.COLL_RG_BASE_HI 0x180) 0x10000000C0 bucket) 0x1000000180 [1])
      Fl.COLL_BKT_COUNT_COUNT 1) Fl.COLL_RG_COUNT_COUNT 1) Fl.REEL_OT_COUNT_COUNT 1 with
    undef := [], reel := { m0.reel with objects := [{ anObj with fmt := 3 }] }, upd := { m0.upd with layers := [⟨1, 0, 1, 1⟩] } }
def aBucket : List Byte := leBytes 4 1 ++ leBytes 8 0 ++ leBytes 4 1 ++ List.replicate 16 0

theorem witness_ReportsReachTheManager_engine :
    (let s := tileIs (member { m0.coll with gens := [(7, 3)] }) 179 { Tile.empty with wait := .clapx 23, arrivals := [23] }
     let m := msgOf 8 (leBytes 4 7 ++ leBytes 4 3 ++ leBytes 4 (2 ^ 32 - 1))
     s.Inv ∧ hears s m ∧ ((s.coll.gens.find? (fun e => decide (e.1 = leAt m.arg 0 4))).map (·.2)).getD 0 ≤ leAt m.arg 4 4 ∧ leAt m.arg 0 4 = 7 ∧ leAt m.arg 8 4 = 2 ^ 32 - 1 ∧
       179 ∈ s.crossTiles 7 ∧ (s.tile 179).wait = .clapx (16 + 7) ∧
       leAt (leBytes 4 7 ++ leBytes 4 2) 4 4 < ((s.coll.gens.find? (fun e => decide (e.1 = 7))).map (·.2)).getD 0) ∧
    (bitOf 0 0 = false ∧ (member m0.coll).fld Fl.COLL_CTRL_RUN = 1 ∧ m0.fld Fl.COLL_CTRL_RUN = 0 ∧ bitOf 1 0 = true ∧ bitOf 1 2 = false ∧ m0.collBasesOk = false) ∧
    (let s := tabled aBucket
     s.Inv ∧ s.fld Fl.COLL_CTRL_RUN = 0 ∧ (s.collBasesOk && s.bucketsOk s.bucketTable s.rgroupTable && s.rgroupsOk) = true) ∧
    (let s := tabled (List.replicate 32 0)
     s.Inv ∧ s.fld Fl.COLL_CTRL_RUN = 0 ∧ s.collBasesOk = true ∧ (s.collBasesOk && s.bucketsOk s.bucketTable s.rgroupTable && s.rgroupsOk) = false) ∧
    (let b : Bucket := { Bucket.decode [] with lpairs := 1 }
     let s := member { m0.coll with buckets := [b], rgroups := [⟨[1, 0], [0, 0]⟩], runs := [⟨0, 5, [], [], [], false, false⟩] }
     s.Inv ∧ s.bucketRun 0 5 = some ⟨0, 5, [], [], [], false, false⟩ ∧ s.myPos b = some 0 ∧ posOf (s.rgroup b).members.length b.owner 1 ∈ childrenOf (s.rgroup b).members.length 0 ∧
       (0 < s.chunkCount b ∧ 0 ∉ ([] : List Nat) ∧ s.gotUnit 0 5 (posOf (s.rgroup b).members.length b.owner 1) false 0 = none)) := by
  unfold hears phasesOk
  exact ⟨⟨sound_inv (by decide +kernel), by decide +kernel⟩, by decide +kernel, ⟨sound_inv (by decide +kernel), by decide +kernel⟩, ⟨sound_inv (by decide +kernel), by decide +kernel⟩,
    sound_inv (by decide +kernel), by decide +kernel⟩

/-! The update die and weight versions. -/

/-- A command for step 5 of one group, at work on it. -/
def aCmd : UpdCmd := ⟨mkSlate 5 0 0 2 0, 5, 0, 1, 0, 0, 0, 0⟩
def aRun : UpdRun := ⟨aCmd, [], [0], [], none, false, false, 0, false, [], []⟩
def atWork (r : UpdRun) (g : Group) : State := updated { m0.upd with groups := [g], layers := [⟨1, 0, 1, 0⟩], run := some r }
def upTo (n : Nat) : Group := { aGroup with step := n }

theorem witness_GroupsAreJudgedAndComputed :
    (let s := atWork { aRun with frozen := [0] } (upTo 4)
     let t := { s with upd := { s.upd with snap := some ⟨{ aCmd with t := 4 }, [0], [], 0⟩ } }
     s.Inv ∧ t.Inv ∧ t.snapBlocks 0 5 = true ∧ s.snapBlocks 0 aRun.cmd.t = false ∧ s.upd.groups[0]? = some (upTo 4) ∧ { aRun with frozen := [0] }.frozen.contains 0 = true) ∧
    ((atWork aRun (upTo 5)).Inv ∧ aRun.work = none ∧ aRun.ready = 0 :: [] ∧ aRun.frozen.contains 0 = false ∧ aRun.cmd.t = (upTo 5).step) ∧
    (let s := put (atWork aRun (upTo 6)) Fl.UPDT_CTRL_SKEW_ACTION 0
     (put s Fl.UPDT_CTRL_SKEW_ACTION 1).fld Fl.UPDT_CTRL_SKEW_ACTION = 1 ∧ s.Inv ∧ aRun.cmd.t ≠ (upTo 6).step ∧ aRun.cmd.t ≠ ((upTo 6).step + 1) % 2 ^ 32 ∧ s.fld Fl.UPDT_CTRL_SKEW_ACTION = 0 ∧ aRun.stopCode = 0) ∧
    (let s := put (poke (atWork aRun (upTo 4)) 0x4000000300 (leBytes 4 0x7F800000)) Fl.UPDT_CTRL_NONFINITE 1
     s.Inv ∧ aRun.cmd.t ≠ (upTo 4).step ∧ aRun.cmd.t = ((upTo 4).step + 1) % 2 ^ 32 ∧ s.fld Fl.UPDT_CTRL_NONFINITE = 1 ∧ (s.tensor (upTo 4).gAddr 1 1).any fpNonFinite = true) ∧
    (let s := atWork aRun (upTo 4)
     s.Inv ∧ (upTo 4).polish = false ∧ ¬ (s.fld Fl.UPDT_CTRL_NONFINITE = 1 ∧ (s.tensor (upTo 4).gAddr 1 1).any fpNonFinite = true)) ∧
    (let g := { upTo 4 with polish := true, polishBlock := true }
     let s := word (atWork aRun g) (Reg.UPDT_SCRATCH_BASE_LO + 4) 0x41
     s.Inv ∧ g.polish = true ∧ s.reg64 Reg.UPDT_SCRATCH_BASE_LO = 0x4100000000 ∧ ∀ k < 4, storage (s.reg64 Reg.UPDT_SCRATCH_BASE_LO + k) = true) :=
  ⟨⟨sound_inv (by decide +kernel), sound_inv (by decide +kernel), by decide +kernel⟩, ⟨sound_inv (by decide +kernel), by decide +kernel⟩, ⟨by decide +kernel, sound_inv (by decide +kernel), by decide +kernel⟩,
    ⟨sound_inv (by decide +kernel), by decide +kernel⟩, ⟨sound_inv (by decide +kernel), by decide +kernel⟩, sound_inv (by decide +kernel), by decide +kernel⟩

/-- An UPD_CMD that the engine hears, and one of a reserved phase. -/
def updMsg (phase : Nat) : Msg := { msgOf 0 (leBytes 8 (mkSlate 5 0 0 phase 0) ++ leBytes 4 5 ++ leBytes 2 0 ++ leBytes 2 1) with type := 5 }
theorem witness_UpdatesAreWrittenAndSent_heard : (∀ p ∈ [3, 4], hears (updated m0.upd) (updMsg p) ∧ phasesOk (updMsg p)) ∧ ¬phasesOk (updMsg 5) ∧ (updated m0.upd).Inv ∧
    UpdCmd.decode (updMsg 3).arg = UpdCmd.decode (leBytes 8 (mkSlate 5 0 0 3 0) ++ leBytes 4 5 ++ leBytes 2 0 ++ leBytes 2 1) := by
  unfold hears phasesOk
  exact ⟨by decide +kernel, by decide +kernel, sound_inv (by decide +kernel), by decide +kernel⟩

theorem witness_UpdatesAreWrittenAndSent_commands :
    (m0.fld Fl.UPDT_CTRL_RUN = 0 ∧ m0.upd.run = none ∧ m0.fld Fl.COLL_CTRL_RUN = 0) ∧
    (let s := updated { m0.upd with queue := List.replicate 8 aCmd }
     s.Inv ∧ s.fld Fl.UPDT_CTRL_RUN = 1 ∧ 8 ≤ s.upd.queue.length ∧ s.upd.run = none) ∧
    (let s := atWork { aRun with work := some (.nothing 0) } (upTo 4)
     s.Inv ∧ s.upd.queue.length < 8 ∧ s.upd.run.any (fun r => r.work.isSome) = true) ∧
    (let c := UpdCmd.decode (leBytes 8 (mkSlate 5 0 0 4 0))
     c.snap = true) ∧
    (let c := UpdCmd.decode (leBytes 8 (mkSlate 5 0 0 3 0) ++ leBytes 4 5 ++ leBytes 2 0 ++ leBytes 2 1)
     let s := { updated { m0.upd with groups := [{ upTo 4 with frozen := true }], layers := [⟨1, 0, 1, 0⟩], present := [(1, 5)] } with job := some { running with strictFrozen := true } }
     s.Inv ∧ s.upd.queue = [] ∧ s.upd.run = none ∧ c.snap = false ∧ s.cmdGroups c ≠ [] ∧ (s.cmdGroups c).filter (fun g => (s.group g).frozen) = 0 :: []) ∧
    (let s := atWork { aRun with waiting := [0], ready := [] } (upTo 4)
     s.Inv ∧ s.layerRow 1 = some ⟨1, 0, 1, 0⟩ ∧ s.gradPresent 1 5 = false ∧ (0 : Nat) ≤ (s.upd.buckets.filter (fun b => decide (b.1 = 1 ∧ b.2.1 = 5))).length ∧
       slateStep aRun.cmd.slate = 5) :=
  ⟨by decide +kernel, ⟨sound_inv (by decide +kernel), by decide +kernel⟩, ⟨sound_inv (by decide +kernel), by decide +kernel⟩, by decide +kernel, ⟨sound_inv (by decide +kernel), by decide +kernel⟩,
    sound_inv (by decide +kernel), by decide +kernel⟩

/-- A group of object 0 whose work is done, with another to come. -/
def workedOn (w : GroupWork) (g : Group) : State :=
  updated { m0.upd with groups := [g, { g with obj := 0xFFFF }], run := some { aRun with work := some w, ready := [1] } }
def inObj : Group := { upTo 5 with obj := 0, mirrorEn := true }

theorem witness_UpdatesAreWrittenAndSent_done :
    (let s := workedOn (.apply 0 [0x3F800000] [0] [0]) (upTo 5)
     s.Inv ∧ (s.group 0).obj = 0xFFFF ∧ (tensorRows 1 1 [0x3F800000]).length = 96 ∧ aGroup.pAddr + 96 ≤ aGroup.s1Addr ∧ aGroup.s1Addr + 96 ≤ aGroup.s2Addr) ∧
    (let s := put (workedOn (.apply 0 [0x3F800000] [0] [0]) inObj) (Fl.MAC_STATUS_STATE 8) macUp
     s.Inv ∧ (s.group 0).obj ≠ 0xFFFF ∧ s.slotHeld 0 (5 % 2) = false ∧ s.reel.objects[0]? = some anObj ∧ anObj.nshard ≤ 1 ∧ anObj.verAt (1 - 5 % 2) + 1 = 5 ∧
       anObj.verAt (1 - 5 % 2) ≠ noVer ∧ s.portUp 8 = true ∧ s.upd.mirroring = true ∧ s.job.any (fun j => decide (1 < j.modules)) = true ∧ (s.objAt 0).format.sniril = false ∧
       (s.objAt 0).sparse = 0 ∧ (s.upd.groups.filter (fun x => decide (x.obj = 0))).length ≤ 1) ∧
    (let s := put (workedOn (.apply 0 [0x3F800000] [0] [0]) inObj) (Fl.MAC_STATUS_STATE 8) macDown
     let t := { s with upd := { s.upd with run := s.upd.run.map (fun (r : UpdRun) => { r with held := true }) } }
     t.Inv ∧ t.upd.run.any (fun r => r.held) = true ∧ t.slotHeld 0 (5 % 2) = false) ∧
    (let s := atWork { aRun with work := some (.nothing 0), ready := [] } (upTo 5)
     s.Inv ∧ s.upd.queue = [] ∧ aRun.cut = false ∧ aRun.cmd.t < 2 ^ 32) ∧
    (let s := tileIs (workedOn (.apply 0 [0x3F800000] [0] [0]) inObj) 0 { Tile.empty with take := some ⟨0, [], [], [], 0, [], []⟩ }
     let t := { s with reel := { s.reel with objects := [{ anObj with ver0 := 1, ver1 := 0 }] } }
     t.Inv ∧ (t.group 0).obj ≠ 0xFFFF ∧ t.slotHeld 0 (5 % 2) = true) :=
  ⟨⟨sound_inv (by decide +kernel), by decide +kernel⟩, ⟨sound_inv (by decide +kernel), by decide +kernel⟩, ⟨sound_inv (by decide +kernel), by decide +kernel⟩, ⟨sound_inv (by decide +kernel), by decide +kernel⟩, sound_inv (by decide +kernel), by decide +kernel⟩

/-- A snapshot of the master of step 5. -/
def snapCmd : UpdCmd := { aCmd with slate := mkSlate 5 0 0 4 0, flow := 7 }
def snapping (left : List Nat) (g : Group) : State := updated { m0.upd with groups := [g], snap := some ⟨snapCmd, left, [], 0⟩ }

theorem witness_UpdatesAreWrittenAndSent_snapshots :
    (let s := updated { m0.upd with groups := [upTo 5], queue := [snapCmd] }
     s.Inv ∧ s.upd.queue = snapCmd :: [] ∧ snapCmd.snap = true ∧ s.upd.snap = none ∧ s.upd.groups.any (fun g => decide (snapCmd.t < g.step)) = false ∧
       (updated { m0.upd with groups := [upTo 6], queue := [snapCmd] }).upd.groups.any (fun g => decide (snapCmd.t < g.step)) = true) ∧
    ((snapping [] (upTo 5)).Inv ∧ (snapping [] (upTo 5)).upd.run = none) ∧ ((snapping [0] (upTo 4)).Inv ∧ ((snapping [0] (upTo 4)).group 0).step < snapCmd.t) ∧
    ((snapping [0] (upTo 6)).Inv ∧ snapCmd.t < ((snapping [0] (upTo 6)).group 0).step) ∧
    ((snapping [0] (upTo 5)).Inv ∧ ((snapping [0] (upTo 5)).group 0).step = snapCmd.t ∧ ((snapping [0] (upTo 5)).snapBytes snapCmd (upTo 5)).isSome = true) :=
  ⟨⟨sound_inv (by decide +kernel), by decide +kernel⟩, ⟨sound_inv (by decide +kernel), by decide +kernel⟩, ⟨sound_inv (by decide +kernel), by decide +kernel⟩, ⟨sound_inv (by decide +kernel), by decide +kernel⟩,
    sound_inv (by decide +kernel), by decide +kernel⟩

theorem witness_UpdatesAreWrittenAndSent_registers :
    (m0.fld Fl.UPDT_CTRL_RUN = 0 ∧ bitOf 1 0 = true ∧ bitOf 0 0 = false ∧ m0.scratchOk = true ∧ (word (word m0 Reg.UPDT_SCRATCH_BASE_LO 1) (Reg.UPDT_SCRATCH_BASE_LO + 4) 0x40).scratchOk = false) ∧
    ((atWork aRun (upTo 4)).Inv ∧ (atWork aRun (upTo 4)).fld Fl.UPDT_CTRL_RUN = 1) ∧ bitOf 0x1FFF 13 = false ∧ bitOf 0x3000 13 = true ∧
    (atWork aRun (upTo 4)).upd.groups[bitsOf 0x3000 11 0]? = some (upTo 4) :=
  ⟨by decide +kernel, ⟨sound_inv (by decide +kernel), by decide +kernel⟩, by decide +kernel⟩

theorem witness_UpdatesAreWrittenAndSent_waits :
    (let b : Bucket := { Bucket.decode [] with lpairs := 1, layer := 1 }
     let s := member { m0.coll with buckets := [b], rgroups := [⟨[1], [0]⟩], runs := [⟨0, 5, [], [], [], false, false⟩], gradHeld := [(0, 5)] }
     s.Inv ∧ s.coll.gradHeld.contains (0, 5) = true ∧ s.gradHeldFor 0 5 = false ∧ s.coll.later = [] ∧ s.bucketRun 0 5 = some ⟨0, 5, [], [], [], false, false⟩ ∧ s.chunkCount (s.bucket 0) = 1 ∧
       (s.rgroup (s.bucket 0)).members.length = 1 ∧ s.myPos (s.bucket 0) = some 0) ∧
    (let p := aPkt opReadReq (keyFor 3) (List.replicate 16 0)
     let s := netted { aFlow with reads := [⟨p, 0, true⟩] }
     s.Inv ∧ (s.flow 4031).reads = ⟨p, 0, true⟩ :: [] ∧ (s.readJudge p).1 = .proceed) ∧
    (let m : Move := ⟨.fromObj, 0, 1, 0, ⟨1, 0, 0, 0⟩, 0, mkSlate 4 0 0 0 0, 0, true, 0⟩
     let s := { tileIs m0 179 { Tile.empty with moveQ := [m] } with reel := { m0.reel with objects := [anObj] }, upd := { m0.upd with groups := [inObj] } }
     s.Inv ∧ (s.tile 179).moveQ.find? (·.held) = some m ∧ (s.objAt m.target.target).judge (s.versionOf (slateStep m.slate)) = .proceed ∧ s.shardChecked m.target.target = false) ∧
    (let h : RxHeld := ⟨1, aPkt opWrite (keyFor 3) [1]⟩
     let s := netted { aFlow with held := [h] }
     s.Inv ∧ (s.flow 4031).held = h :: [] ∧ s.writeHeld h.pkt = false ∧ (s.keyEntry (keyIndex h.pkt.key)).dest = 0 ∧
       (∀ k < h.pkt.payload.length, storage ((s.keyEntry (keyIndex h.pkt.key)).base + h.pkt.offset + k) = true)) ∧
    (let s := { word (word m0 Reg.REEL_OT_BASE_LO 0xC0) (Reg.REEL_OT_BASE_LO + 4) 0x10 with reel := { m0.reel with objects := [anObj], verDue := [(0, 1)] } }
     s.Inv ∧ (0, 1) ∈ s.reel.verDue ∧ ∀ k < 4, storage (s.reg64 Reg.REEL_OT_BASE_LO + 64 * 0 + 40 + 4 * 1 + k) = true ∧ s.isolatedLine (s.reg64 Reg.REEL_OT_BASE_LO + 64 * 0 + 40 + 4 * 1 + k) = false) :=
  ⟨⟨sound_inv (by decide +kernel), by decide +kernel⟩, ⟨sound_inv (by decide +kernel), by decide +kernel⟩, ⟨sound_inv (by decide +kernel), by decide +kernel⟩, ⟨sound_inv (by decide +kernel), by decide +kernel⟩,
    sound_inv (by decide +kernel), by decide +kernel⟩

/-! The Reel. -/

/-- An entry for tile 179 of one line, of object 0, at cue 9. -/
def anEntry : ReelEntry := { ReelEntry.decode [] with cue := 9, start := 0xFFFF, tile0 := 179, fallback := 2 }
def queued (missed : Bool) : Xfer := ⟨0, 179, 4, 0, .queued, none, missed⟩
def reeled (es : List ReelEntry) (xs : List Xfer) : State :=
  { put m0 Fl.REEL_CTRL_RUN 1 with reel := { m0.reel with ready := true, objects := [{ anObj with versioned := false }], entries := es, xfers := xs } }

theorem witness_ReelTransfersArePlaced :
    (m0.fld Fl.REEL_CTRL_RUN = 0 ∧ bitOf 1 0 = true ∧ bitOf 0 0 = false ∧ m0.reelBasesOk = false ∧ (reeled [] []).fld Fl.REEL_CTRL_RUN = 1) ∧
    (let s := put (put (word (word (word (word m0 Reg.REEL_OT_BASE_LO 0xC0) (Reg.REEL_OT_BASE_LO + 4) 0x10) Reg.REEL_TAB_BASE_LO 0xC0) (Reg.REEL_TAB_BASE_LO + 4) 0x10)
       Fl.REEL_OT_COUNT_COUNT 1) Fl.REEL_TAB_COUNT_COUNT 1
     let t := poke { s with reel := { m0.reel with copying := true } } 0x10000000C6 [0xFF, 0xFF]
     let e := ReelEntry.decode (t.bytes 0x10000000C0 32)
     s.reelBasesOk = true ∧ t.reel.copying = true ∧ t.reel.xfers = [] ∧ (Obj.decode (t.bytes 0x10000000C0 64)).judge (t.versionOf 0) ≠ .retired ∧ e.obj < 1) ∧
    (let s := reeled [anEntry] [queued false]
     s.Inv ∧ s.xfer 0 179 = some (queued false) ∧ s.reel.ready = true ∧ s.inFlight (queued false) = true ∧ s.shardChecked (s.entry 0).obj = false ∧ (∀ n < 180, (s.tile n).locks = []) ∧
       baseT1 ≤ (s.xferSrc (queued false)).2 ∧ s.xferDst (queued false) + 96 ≤ (s.xferSrc (queued false)).2 ∧ (∀ k < 96, storage (s.xferDst (queued false) + k) = true) ∧
       (physAt (s.xferDst (queued false))).isSome = true ∧ (s.xferDst (queued false) - regionBase (s.xferDst (queued false))) % 96 = 0) :=
  ⟨by decide +kernel, by decide +kernel, sound_inv (by decide +kernel), by decide +kernel⟩

/-- Tile 179 at the CUE of cue 9. -/
def cued (es : List ReelEntry) (xs : List Xfer) (reached : Bool) : State :=
  put (put (tileIs (reeled es xs) 179 { Tile.empty with im := [(0, BitVec.ofNat 64 (7 * 2 ^ 60 + 9))], cueReached := reached }) (Fl.TILE_SEQ_CTRL_RUN 179) 1)
    (Fl.TILE_SEQ_STATUS_STATE 179) seqIssuing

/-- A transfer of two lines, a pair, to T1. -/
theorem witness_ReelTransfersArePlaced_pair :
    let e := { anEntry with lines := 1, dtierT1 := true, dobj := 1 }
    let s := { reeled [e] [queued false] with reel := { (reeled [e] [queued false]).reel with objects := [{ anObj with versioned := false }, { anObj with versioned := false, addr0 := 0x1000000180 }] } }
    let dst := s.xferDst (queued false)
    s.Inv ∧ s.xfer 0 179 = some (queued false) ∧ s.inFlight (queued false) = true ∧ s.shardChecked (s.entry 0).obj = false ∧ baseT1 ≤ (s.xferSrc (queued false)).2 ∧
      (s.xferSrc (queued false)).2 + 192 ≤ dst ∧ (∀ k < 192, storage (dst + k) = true) ∧ inT1 dst = true ∧ onPair dst = true ∧
      ∀ i < 2, s.poisoned ((s.xferSrc (queued false)).2 + i * 96) = false ∧ s.isolatedLine (dst + i * 96) = false :=
  ⟨sound_inv (by decide +kernel), by decide +kernel⟩

theorem witness_ReelTransfersArePlaced_deadline :
    ∀ f < 4, (cued [{ anEntry with fallback := f }] [queued false] true).Inv ∧ (cued [{ anEntry with fallback := f }] [queued false] true).atCue 179 = some 9 ∧
      (0, { anEntry with fallback := f }) ∈ (cued [{ anEntry with fallback := f }] [queued false] true).applying 179 9 ∧ { anEntry with fallback := f }.fallback < 4 ∧
      (cued [{ anEntry with fallback := f }] [queued false] true).xfer 0 179 = some (queued false) ∧ (queued false).st = .queued ∧ (queued false).missed = false := by
  intro f h
  refine ⟨sound_inv (by revert f; decide +kernel), ?_⟩
  revert f
  decide +kernel

/-! The units of a tile. -/

/-- An array descriptor of one value: its control word, its K, its N, its mask line and its group. -/
def opnd (data scale : Nat) : List Byte := leBytes 4 (data + 2 ^ 16) ++ leBytes 4 (scale + 2 ^ 16) ++ List.replicate 24 0
def arrayBytes (ctl k n mask : Nat) (group : List Byte) : List Byte :=
  leBytes 4 ctl ++ leBytes 4 1 ++ leBytes 4 n ++ leBytes 4 k ++ leBytes 4 0 ++ leBytes 4 k ++ leBytes 4 mask ++ group ++ List.replicate (20 - group.length) 0 ++
    opnd 100 104 ++ opnd 108 112 ++ opnd 116 120 ++ leBytes 8 3 ++ List.replicate 40 0

/-- The general product, its run before its pre-pass and after it, and a tile of both. -/
def general : List Byte := arrayBytes 3 1 1 0 []
def queueOf (b : List Byte) : QDesc := ⟨b, 0, 0, 0, 1⟩
def arrRun (b : List Byte) (rows : List Nat) (started : Bool) (ready : List APre) (prepassed streamed : Nat) : ArrRun :=
  ⟨queueOf b, 1, [], false, rows, started, ready, prepassed, streamed, 0, [], [], none, false, false⟩
def aCell : Cell := ⟨3, 0, false, 0, false, false⟩
def inArray (r : List ArrRun) (b : Option DrainBuf) : State := tileIs m0 179 { Tile.empty with arr := r, drain := b }
/-- Line 130 of tile 179's scratchpad poisoned. -/
def poisoned (s : State) : State := { s with poison0 := [(s.physOf 179 * 32768 + 130, true)] }

theorem witness_ArrayDescriptorsRun_takeUp :
    (let s := tileIs m0 179 { Tile.empty with arrayQ := [queueOf (arrayBytes 0x83 1 1 0 [])], dispQ := [⟨leBytes 8 0 ++ leBytes 4 0x10001, 0, 0, 0, 0⟩] }
     s.Inv ∧ (ADesc.decode (arrayBytes 0x83 1 1 0 [])).xlist = true ∧ (s.tile 179).buildBefore 1 0 = true) ∧
    (let s := tileIs m0 179 { Tile.empty with arrayQ := [queueOf general] }
     s.Inv ∧ (ADesc.decode general).xlist = false ∧ { arrRun general [] false [] 0 0 with m := 1 }.desc.reject 179 none = false) ∧
    (let s := tileIs m0 179 { Tile.empty with arrayQ := [queueOf (arrayBytes 3 1 0 0 [])] }
     s.Inv ∧ (ADesc.decode (arrayBytes 3 1 0 0 [])).xlist = false ∧ (arrRun (arrayBytes 3 1 0 0 []) [] false [] 0 0).desc.reject 179 none = true) ∧
    (let r := { arrRun general [] false [] 0 0 with waiting := true }
     let s := inArray [arrRun general [0] true [] 1 0, r] none
     s.Inv ∧ (s.tile 179).arr.findIdx? (·.waiting) = some 1 ∧ (s.tile 179).arr[1]? = some r ∧ ((s.tile 179).arr.take 1).any (fun e => spansMeet r.spans e.desc.writeSpans) = true) :=
  ⟨⟨sound_inv (by decide +kernel), by decide +kernel⟩, ⟨sound_inv (by decide +kernel), by decide +kernel⟩, ⟨sound_inv (by decide +kernel), by decide +kernel⟩, sound_inv (by decide +kernel), by decide +kernel⟩

/-- A descriptor that a destination of an earlier one keeps waiting from its take-up on, one that starts, and one of a list that is there. -/
theorem witness_ArrayDescriptorsRun_waits :
    (let s := tileIs m0 179 { Tile.empty with arrayQ := [queueOf general], arr := [arrRun general [0] true [] 1 0] }
     s.Inv ∧ (∀ r ∈ (s.tile 179).arr, r.started = true ∧ r.total ≤ r.prepassed) ∧ (arrRun general [] false [] 0 0).desc.reject 179 none = false ∧
       (s.tile 179).arr.any (fun e => spansMeet (arrRun general [] false [] 0 0).spans e.desc.writeSpans) = true) ∧
    (let r := { arrRun general [] false [] 0 0 with waiting := true }
     let s := inArray [r] none
     s.Inv ∧ (s.tile 179).arr.findIdx? (·.waiting) = some 0 ∧ ((s.tile 179).arr.take 0).any (fun e => spansMeet r.spans e.desc.writeSpans) = false) ∧
    (let b := arrayBytes 0x83 1 1 0 []
     let x := { Tile.empty with arrayQ := [queueOf b], dir := [(0, { ListDir.none with length := 1, base := 130 })] }
     let s := tileIs m0 179 x
     s.Inv ∧ (ADesc.decode b).xlist = true ∧ (ADesc.decode b).list = 0 ∧ x.buildBefore 1 0 = false ∧ (Store.get (fun _ => ListDir.none) x.dir 0).length ≠ 0) :=
  ⟨⟨sound_inv (by decide +kernel), by decide +kernel⟩, ⟨sound_inv (by decide +kernel), by decide +kernel⟩, sound_inv (by decide +kernel), by decide +kernel⟩

/-- A run behind another that still has a pass to write, at each outcome of its pre-pass. -/
theorem witness_ArrayDescriptorsRun_behind :
    let h := arrRun general [0] true [⟨0, [0], []⟩] 1 0
    let s := fun (b : List Byte) => inArray [h, arrRun b [] false [] 0 0] none
    let r := fun (s : State) (b : List Byte) => { arrRun b [] false [] 0 0 with rows := (ADesc.decode b).rowsOf (s.tmem 179), started := true }
    let poison := fun (s : State) (r : ArrRun) => r.desc.maskPoison (s.tmem 179) (r.desc.passAt r.rows 0) (decide (r.total ≤ ((r.desc.passAt r.rows 0).range + 1) * r.desc.colPasses))
    h.started = true ∧ h.drained < h.total ∧
      (let b := arrayBytes 0x13 1 1 130 []
       let t := poisoned (s b)
       t.Inv ∧ (s b).Inv ∧ poison t (r t b) = some 130 ∧ poison (s b) (r (s b) b) = none ∧ (r (s b) b).total = 0) ∧
      ((s general).Inv ∧ poison (s general) (r (s general) general) = none ∧ (r (s general) general).total ≠ 0 ∧
        (r (s general) general).desc.metaBad ((s general).tmem 179) ((r (s general) general).desc.passAt (r (s general) general).rows 0) = false) :=
  ⟨by decide +kernel, by decide +kernel, ⟨sound_inv (by decide +kernel), sound_inv (by decide +kernel), by decide +kernel⟩, sound_inv (by decide +kernel), by decide +kernel⟩

/-- A run behind another, at a pre-pass that fails it, and one whose BLOCK word is 0. -/
theorem witness_ArrayDescriptorsRun_later :
    (let b := arrayBytes 4 8 1 0 []
     let h := arrRun general [0] true [⟨0, [0], []⟩] 1 0
     let s := inArray [h, arrRun b [] false [] 0 0] none
     let r := { arrRun b [] false [] 0 0 with rows := (ADesc.decode b).rowsOf (s.tmem 179), started := true }
     s.Inv ∧ (s.tile 179).arr.findIdx? (fun r => !r.started || decide (r.prepassed < r.total)) = some 1 ∧ h.drained < h.total ∧ r.total ≠ 0 ∧
       r.desc.maskPoison (s.tmem 179) (r.desc.passAt r.rows 0) true = none ∧ r.desc.blockWord (s.tmem 179) 0 ≠ 0 ∧ r.desc.metaBad (s.tmem 179) (r.desc.passAt r.rows 0) = true) ∧
    (let b := arrayBytes 0x23 1 65 130 []
     let s := inArray [arrRun b [] false [] 0 0] none
     let r := { arrRun b [] false [] 0 0 with rows := (ADesc.decode b).rowsOf (s.tmem 179), started := true }
     s.Inv ∧ 1 < r.total ∧ r.desc.maskPoison (s.tmem 179) (r.desc.passAt r.rows 0) true = none ∧ r.desc.blockWord (s.tmem 179) 0 = 0) ∧
    (let s := inArray [arrRun general [0] true [] 0 0] none
     s.Inv ∧ (s.tile 179).arr.findIdx? (fun r => !r.started || decide (r.streamed < r.total)) = some 0 ∧ (arrRun general [0] true [] 0 0).ready = []) :=
  ⟨⟨sound_inv (by decide +kernel), by decide +kernel⟩, ⟨sound_inv (by decide +kernel), by decide +kernel⟩, sound_inv (by decide +kernel), by decide +kernel⟩

theorem witness_ArrayDescriptorsRun_prepass :
    (let b := arrayBytes 0x13 1 1 130 []
     let s := poisoned (inArray [arrRun b [] false [] 0 0] none)
     let r := { arrRun b [] false [] 0 0 with rows := (ADesc.decode b).rowsOf (s.tmem 179), started := true }
     s.Inv ∧ (s.tile 179).arr.findIdx? (fun r => !r.started || decide (r.prepassed < r.total)) = some 0 ∧ r.prepassed ≤ r.drained ∧ r.skipped = [] ∧
       r.desc.maskPoison (s.tmem 179) (r.desc.passAt r.rows 0) (decide (r.total ≤ ((r.desc.passAt r.rows 0).range + 1) * r.desc.colPasses)) = some 130) ∧
    (let b := arrayBytes 0x13 1 1 130 []
     let s := inArray [arrRun b [] false [] 0 0] none
     let r := { arrRun b [] false [] 0 0 with rows := (ADesc.decode b).rowsOf (s.tmem 179), started := true }
     s.Inv ∧ r.total = 0 ∧ r.desc.maskPoison (s.tmem 179) (r.desc.passAt r.rows 0) (decide (r.total ≤ ((r.desc.passAt r.rows 0).range + 1) * r.desc.colPasses)) = none) ∧
    (let b := arrayBytes 4 8 1 0 []
     let s := inArray [arrRun b [] false [] 0 0] none
     let r := { arrRun b [] false [] 0 0 with rows := (ADesc.decode b).rowsOf (s.tmem 179), started := true }
     s.Inv ∧ r.total ≠ 0 ∧ r.desc.maskPoison (s.tmem 179) (r.desc.passAt r.rows 0) true = none ∧ r.desc.metaBad (s.tmem 179) (r.desc.passAt r.rows 0) = true) ∧
    (let s := inArray [arrRun general [] false [] 0 0] none
     let r := { arrRun general [] false [] 0 0 with rows := (ADesc.decode general).rowsOf (s.tmem 179), started := true }
     s.Inv ∧ r.total ≠ 0 ∧ r.desc.maskPoison (s.tmem 179) (r.desc.passAt r.rows 0) true = none ∧ r.desc.metaBad (s.tmem 179) (r.desc.passAt r.rows 0) = false) :=
  ⟨⟨sound_inv (by decide +kernel), by decide +kernel⟩, ⟨sound_inv (by decide +kernel), by decide +kernel⟩, ⟨sound_inv (by decide +kernel), by decide +kernel⟩, sound_inv (by decide +kernel), by decide +kernel⟩

/-- Members 0 and 1 of a split product, of tiles 179 and 178, each with a pass in its drain buffer. -/
def splitRun (member : Nat) : ArrRun := arrRun (arrayBytes (0x10003 + member * 2 ^ 20) 1 1 0 [179, 178]) [0] true [] 1 1
def split (sender : Option DrainBuf) : State :=
  tileIs (tileIs m0 179 { Tile.empty with arr := [splitRun 0], drain := some ⟨0, [aCell], 0⟩ }) 178 { Tile.empty with arr := [splitRun 1], drain := sender }

theorem witness_ArrayDescriptorsRun_drain :
    (let r := arrRun general [0] true [⟨0, [0], []⟩] 1 0
     let s := inArray [r] none
     s.Inv ∧ (s.tile 179).arr.findIdx? (fun r => !r.started || decide (r.streamed < r.total)) = some 0 ∧ r.ready = ⟨0, [0], []⟩ :: [] ∧ (s.tile 179).drain = none) ∧
    (let r := arrRun (arrayBytes 3 1 65 0 []) [0] true [] 1 1
     let s := inArray [r] (some ⟨0, List.replicate 64 aCell, 0⟩)
     s.Inv ∧ (s.tile 179).waitsLevel = none ∧ r.desc.gsize = 0 ∧ r.desc.os.rbEn = false ∧ s.fld Fl.TELE_FMTH_CTRL_ENABLE = 0 ∧ r.drained + 1 < r.total ∧ (s.tile 179).locks = [] ∧
       ∀ k < 256, storage (s.tileBase 179 + 116 * 96 + k) = true) ∧
    (let s := split (some ⟨0, [aCell], 0⟩)
     s.Inv ∧ (s.tile 179).waitsLevel = some 0 ∧ s.partialReady (splitRun 0) ⟨0, [aCell], 0⟩ 0 = true ∧ (s.tile ((splitRun 0).sender 0)).drain = some ⟨0, [aCell], 0⟩) ∧
    (let s := split none
     s.Inv ∧ (s.tile 179).waitsLevel = some 0 ∧ s.partialReady (splitRun 0) ⟨0, [aCell], 0⟩ 0 = false) :=
  ⟨⟨sound_inv (by decide +kernel), by decide +kernel⟩, ⟨sound_inv (by decide +kernel), by decide +kernel⟩, ⟨sound_inv (by decide +kernel), by decide +kernel⟩, sound_inv (by decide +kernel), by decide +kernel⟩

/-- A chain descriptor of one value: its control word, the function and the source of its output. -/
def chainBytes (ctl mask fn src : Nat) : List Byte :=
  leBytes 4 ctl ++ leBytes 4 1 ++ leBytes 4 1 ++ leBytes 4 (mask + 2 ^ 16) ++ leBytes 4 0 ++ leBytes 4 fn ++ leBytes 8 0 ++ leBytes 4 (src + 2 ^ 8) ++ List.replicate 28 0 ++
    leBytes 4 (100 + 2 ^ 16) ++ leBytes 4 0 ++ leBytes 4 (3 * 2 ^ 24) ++ leBytes 4 0 ++ List.replicate 8 0 ++ leBytes 4 (7 * 2 ^ 24) ++ leBytes 4 0 ++ List.replicate 8 0 ++
    leBytes 4 (7 * 2 ^ 24) ++ leBytes 4 0 ++ leBytes 4 (120 + 2 ^ 16) ++ leBytes 12 0 ++ leBytes 8 3 ++ List.replicate 56 0
def chainRun (b : List Byte) : ChainRun := ⟨queueOf b, false, 0, CRow.empty, false⟩
def inChain (r : List ChainRun) : State := tileIs m0 179 { Tile.empty with chn := r }
def passed (s : State) (b : List Byte) : CVec := (CDesc.decode b).vector (s.tmem 179) (fun c x y => srOf s.jobSeed 0 c x y) CRow.empty 0 0

theorem witness_ChainAndDispatchRun_chain :
    (let s := tileIs m0 179 { Tile.empty with chainQ := [queueOf (chainBytes 0 0 0 0)] }
     s.Inv ∧ (CDesc.decode (chainBytes 0 0 0 0)).reject = false ∧ (CDesc.decode (chainBytes 32 0 0 0)).reject = true) ∧
    (let r := { chainRun (chainBytes 0 0 0 0) with waiting := true }
     let s := inChain [chainRun (chainBytes 0 0 0 0), r]
     s.Inv ∧ (s.tile 179).chn.findIdx? (·.waiting) = some 1 ∧ (s.tile 179).chn[1]? = some r) ∧
    (let b := chainBytes 1 130 0 0
     let s := poisoned (inChain [chainRun b])
     s.Inv ∧ (s.tile 179).chn.findIdx? (fun r => !r.passed) = some 0 ∧ (CDesc.decode b).maskStream = true ∧ (CDesc.decode b).maskPoison (s.tmem 179) 0 0 = some 130) ∧
    (let b := chainBytes 8 0 5 12
     let s := inChain [chainRun b]
     s.Inv ∧ (s.tile 179).chn.findIdx? (fun r => !r.passed) = some 0 ∧ (CDesc.decode b).maskStream = false ∧ (CDesc.decode b).trap = true ∧ (passed s b).trapCol = some 0) ∧
    (let b := chainBytes 0 0 0 0
     let s := inChain [chainRun b]
     s.Inv ∧ (s.tile 179).chn.findIdx? (fun r => !r.passed) = some 0 ∧ (CDesc.decode b).maskStream = false ∧ (CDesc.decode b).trap = false ∧ s.fld Fl.TELE_FMTH_CTRL_ENABLE = 0 ∧
       (s.tile 179).locks = [] ∧ ∀ w ∈ (passed s b).writes, ∀ k < w.bytes.length, storage (s.tileBase 179 + w.off + k) = true) ∧
    (let r := { chainRun (chainBytes 0 0 0 0) with next := 1 }
     (inChain [r]).Inv ∧ r.passed = true) :=
  ⟨⟨sound_inv (by decide +kernel), by decide +kernel⟩, ⟨sound_inv (by decide +kernel), by decide +kernel⟩, ⟨sound_inv (by decide +kernel), by decide +kernel⟩, ⟨sound_inv (by decide +kernel), by decide +kernel⟩,
    ⟨sound_inv (by decide +kernel), by decide +kernel⟩, sound_inv (by decide +kernel), by decide +kernel⟩

/-- A dispatch descriptor of one token, one expert and one place. -/
def dispBytes (ctl : Nat) : List Byte :=
  leBytes 4 ctl ++ leBytes 4 1 ++ leBytes 4 0x10001 ++ leBytes 4 (100 + 2 ^ 16) ++ leBytes 4 (101 + 2 ^ 16) ++ leBytes 4 (102 + 103 * 2 ^ 16) ++ leBytes 4 (104 + 107 * 2 ^ 16) ++
    leBytes 4 (130 + 2 ^ 16) ++ leBytes 4 0 ++ leBytes 4 (150 + 2 ^ 16) ++ leBytes 4 (154 + 2 ^ 16) ++ leBytes 4 (2 * 2 ^ 16) ++ leBytes 4 160 ++ List.replicate 44 0
def inDisp (ctl : Nat) : State := tileIs m0 179 { Tile.empty with dispQ := [queueOf (dispBytes ctl)] }
def dd (ctl : Nat) : DDesc := DDesc.decode (dispBytes ctl)

theorem witness_ChainAndDispatchRun_dispatch :
    (∀ op < 3, (inDisp (op + 2 ^ 16)).Inv ∧ (dd (op + 2 ^ 16)).op = op ∧ ((inDisp (op + 2 ^ 16)).tile 179).readsLists 1 (dd (op + 2 ^ 16)).nplace = false ∧
      (dd (op + 2 ^ 16)).reject ((inDisp (op + 2 ^ 16)).tmem 179) ((inDisp (op + 2 ^ 16)).skipTable 179) = true) ∧
    (∀ op < 3, (inDisp op).Inv ∧ (dd op).op = op ∧ ((inDisp op).tile 179).readsLists 1 (dd op).nplace = false ∧ (dd op).reject ((inDisp op).tmem 179) ((inDisp op).skipTable 179) = false) ∧
    (let s := poisoned (inDisp 0x20)
     s.Inv ∧ (dd 0x20).op = 0 ∧ (dd 0x20).reject (s.tmem 179) (s.skipTable 179) = false ∧ (dd 0x20).maskPoison (s.tmem 179) = some 130) ∧
    (let q : QDesc := queueOf (dispBytes 0)
     let s := tileIs m0 179 { Tile.empty with dispQ := [q], arrayQ := [{ queueOf (arrayBytes 0x83 1 1 0 []) with ord := 0 }] }
     s.Inv ∧ (dd 0).op = 0 ∧ (s.tile 179).readsLists q.ord (dd 0).nplace = true ∧ Tile.empty.sendQ = []) ∧
    ((dd 0).maskPoison ((inDisp 0).tmem 179) = none ∧ Store.wf (fun _ => ListDir.none) ((inDisp 0).tile 179).dir = true ∧ (dd 1).sealBad ((inDisp 1).tmem 179) = false) ∧
    (let s := poke (inDisp 1) ((inDisp 1).tileBase 179 + 160 * 96) [3]
     s.Inv ∧ (dd 1).reject (s.tmem 179) (s.skipTable 179) = false ∧ (dd 1).sealBad (s.tmem 179) = true) := by
  refine ⟨fun op h => ⟨sound_inv (by revert op; decide +kernel), ?_⟩, fun op h => ⟨sound_inv (by revert op; decide +kernel), ?_⟩, ⟨sound_inv (by decide +kernel), by decide +kernel⟩,
    ⟨sound_inv (by decide +kernel), by decide +kernel⟩, by decide +kernel, sound_inv (by decide +kernel), by decide +kernel⟩ <;> (revert op; decide +kernel)

/-! The sequencer. -/

/-- A micro-op, and tile 179 issuing one of them with some contents; IX1 holds 32,767. -/
def mop (cls op low : Nat) : Nat := cls * 2 ^ 60 + op * 2 ^ 56 + low
def issuing (w : Nat) (x : Tile) : State :=
  put (put (tileIs m0 179 { x with im := [(0, BitVec.ofNat 64 w), (1, BitVec.ofNat 64 w)] }) (Fl.TILE_SEQ_CTRL_RUN 179) 1) (Fl.TILE_SEQ_STATUS_STATE 179) seqIssuing
def far : Tile := { Tile.empty with ix := 0 :: 32767 :: List.replicate 14 0 }
def atMop (s : State) (cls op low : Nat) : Prop := atUop s 179 cls op (mop cls op low)
def walked (low : Nat) : Nat := low + 2 ^ 52 + 2 ^ 40
def aTake : TakeRec := ⟨0, List.replicate 16 0, [], List.replicate 8 0, 0, List.replicate 8 0, []⟩
def looping (n : Nat) : Tile := { Tile.empty with loops := List.replicate n ⟨0, 8191, 2, 0, 0⟩ }

theorem witness_TilesRunTheirPrograms_queues :
    (let s := issuing (mop 15 0 0) Tile.empty
     s.Inv ∧ s.issues 179 = true ∧ uopLegal (s.uop 179) = false) ∧
    (∀ c < 3, (issuing (mop (c + 1) 0 (walked 1)) far).Inv ∧ atMop (issuing (mop (c + 1) 0 (walked 1)) far) (c + 1) 0 (walked 1) ∧
      32767 < far.effLine (mop (c + 1) 0 (walked 1))) ∧
    (∀ c < 3, (issuing (mop (c + 1) 0 2) Tile.empty).Inv ∧ atMop (issuing (mop (c + 1) 0 2) Tile.empty) (c + 1) 0 2 ∧ Tile.empty.effLine (mop (c + 1) 0 2) = 2) ∧
    (let q := List.replicate 4 (queueOf [])
     let x := { Tile.empty with arrayQ := q, chainQ := q, dispQ := q }
     ∀ c < 3, (issuing (mop (c + 1) 0 2) x).Inv ∧ atMop (issuing (mop (c + 1) 0 2) x) (c + 1) 0 2) := by
  unfold atMop atUop
  refine ⟨⟨sound_inv (by decide +kernel), by decide +kernel⟩, fun c h => ⟨sound_inv (by revert c; decide +kernel), ?_⟩, fun c h => ⟨sound_inv (by revert c; decide +kernel), ?_⟩,
    fun c h => ⟨sound_inv (by revert c; decide +kernel), ?_⟩⟩ <;> (revert c; decide +kernel)

theorem witness_TilesRunTheirPrograms_control :
    (∀ c ∈ [(0, 0, 0), (0, 1, 0), (0, 2, 1), (0, 3, 0x111), (9, 1, 0)], (issuing (mop c.1 c.2.1 c.2.2) Tile.empty).Inv ∧ atMop (issuing (mop c.1 c.2.1 c.2.2) Tile.empty) c.1 c.2.1 c.2.2) ∧
    Tile.empty.fenced 1 = true ∧
    (let x := { Tile.empty with dispQ := [queueOf []] }
     (issuing (mop 0 2 4) x).Inv ∧ atMop (issuing (mop 0 2 4) x) 0 2 4 ∧ x.fenced (bitsOf (mop 0 2 4) 4 0) = false) ∧
    (∀ op < 2, (issuing (mop 8 op 1) (looping 4)).Inv ∧ atMop (issuing (mop 8 op 1) (looping 4)) 8 op 1 ∧ 4 ≤ (looping 4).loops.length) ∧
    (∀ op < 2, (issuing (mop 8 op 8191) (looping 1)).Inv ∧ atMop (issuing (mop 8 op 8191) (looping 1)) 8 op 8191 ∧ ∃ l ∈ (looping 1).loops, l.last ≤ 0 + 8191) ∧
    (∀ op < 2, (put (issuing (mop 8 op 8191) Tile.empty) (Fl.TILE_SEQ_PC_PC 179) 1).Inv ∧ atMop (put (issuing (mop 8 op 8191) Tile.empty) (Fl.TILE_SEQ_PC_PC 179) 1) 8 op 8191 ∧
      8191 < (put (issuing (mop 8 op 8191) Tile.empty) (Fl.TILE_SEQ_PC_PC 179) 1).pc 179 + 8191) ∧
    (∀ op < 2, (issuing (mop 8 op 1) far).Inv ∧ atMop (issuing (mop 8 op 1) far) 8 op 1 ∧ 0 < bitsOf (mop 8 op 1) 12 0 ∧
      ¬ (8191 < (issuing (mop 8 op 1) far).pc 179 + bitsOf (mop 8 op 1) 12 0 ∨ 4 ≤ far.loops.length ∨ ∃ l ∈ far.loops, l.last ≤ (issuing (mop 8 op 1) far).pc 179 + bitsOf (mop 8 op 1) 12 0)) ∧
    (far.ixOf (uopIx (mop 8 1 1)) = 0 ∧ far.ixOf (uopIx (mop 8 1 (1 + 2 ^ 52))) = 32767) := by
  unfold atMop atUop
  refine ⟨fun c h => ⟨sound_inv (by revert c; decide +kernel), ?_⟩, by decide +kernel, ⟨sound_inv (by decide +kernel), by decide +kernel⟩, fun op h => ⟨sound_inv (by revert op; decide +kernel), ?_⟩,
    fun op h => ⟨sound_inv (by revert op; decide +kernel), ?_⟩, fun op h => ⟨sound_inv (by revert op; decide +kernel), ?_⟩, fun op h => ⟨sound_inv (by revert op; decide +kernel), ?_⟩,
    by decide +kernel⟩ <;> first | (revert c; decide +kernel) | (revert op; decide +kernel)

theorem witness_TilesRunTheirPrograms_counters :
    (let s := word (issuing (mop 9 0 (0x400 + 8)) Tile.empty) (Reg.TILE_SEQ_SLATE_LO 179 + 4) 1
     s.Inv ∧ atMop s 9 0 (0x400 + 8) ∧ (s.tmem 179).le (s.skipLineOf 179 * 96) 8 / 2 ^ 20 ≠ s.slate 179 / 2 ^ 20) ∧
    (let s := poke (issuing (mop 9 0 (0x400 + 8)) Tile.empty) ((issuing 0 Tile.empty).tileBase 179 + 65) [1]
     s.Inv ∧ atMop s 9 0 (0x400 + 8) ∧ (s.tmem 179).le (s.skipLineOf 179 * 96) 8 / 2 ^ 20 = s.slate 179 / 2 ^ 20 ∧
       bitOf ((s.tmem 179).le (s.skipLineOf 179 * 96 + 64 + 8 / 8) 1) (8 % 8) = true) ∧
    (let s := issuing (mop 9 0 (0x400 + 8)) Tile.empty
     s.Inv ∧ (s.tmem 179).le (s.skipLineOf 179 * 96) 8 / 2 ^ 20 = s.slate 179 / 2 ^ 20 ∧ bitOf ((s.tmem 179).le (s.skipLineOf 179 * 96 + 64 + 8 / 8) 1) (8 % 8) = false) ∧
    (∀ c ∈ [(5, 3, 7), (6, 1, 15)], (issuing (mop c.1 c.2.1 (7 + 8)) Tile.empty).Inv ∧ atMop (issuing (mop c.1 c.2.1 (7 + 8)) Tile.empty) c.1 c.2.1 (7 + 8) ∧
      (issuing (mop c.1 c.2.1 (7 + 8)) Tile.empty).ec 179 c.2.2 < bitsOf (mop c.1 c.2.1 (7 + 8)) 18 3 ∧
      (let s := word (word (issuing (mop c.1 c.2.1 (7 + 8)) Tile.empty) (Reg.TILE_SEQ_EC 179 3) 0x20000) (Reg.TILE_SEQ_EC 179 7) 0x20000
       s.Inv ∧ atMop s c.1 c.2.1 (7 + 8) ∧ bitsOf (mop c.1 c.2.1 (7 + 8)) 18 3 ≤ s.ec 179 c.2.2)) ∧
    ((issuing (mop 6 0 179) Tile.empty).Inv ∧ atMop (issuing (mop 6 0 179) Tile.empty) 6 0 179) ∧
    (let y : SignalItem := ⟨179, 7, 1, 0, 0, 2⟩
     let s := word (tileIs m0 179 { Tile.empty with signals := [⟨0, 0, 1, 0, 1, 1⟩, y] }) (Reg.TILE_SEQ_EC 179 7) 0xFFFF0000
     s.Inv ∧ takeSignal (s.tile 179).signals = some (y, [⟨0, 0, 1, 0, 1, 1⟩]) ∧ 65535 < s.ec y.tile (8 + y.ctr) + y.inc) := by
  unfold atMop atUop
  refine ⟨⟨sound_inv (by decide +kernel), by decide +kernel⟩, ⟨sound_inv (by decide +kernel), by decide +kernel⟩, ⟨sound_inv (by decide +kernel), by decide +kernel⟩,
    fun c h => ⟨sound_inv (by revert c; decide +kernel), ?_, ?_, sound_inv (by revert c; decide +kernel), ?_⟩, ⟨sound_inv (by decide +kernel), by decide +kernel⟩, sound_inv (by decide +kernel), by decide +kernel⟩ <;>
    (revert c; decide +kernel)

theorem witness_TilesRunTheirPrograms_runs :
    (let s := issuing (mop 10 0 2) { Tile.empty with take := some aTake }
     s.Inv ∧ atMop s 10 0 2 ∧ (s.tile 179).take.isSome = true ∧ bitsOf (mop 10 0 2) 1 0 ≠ 0) ∧
    (let s := issuing (mop 10 0 2) Tile.empty
     s.Inv ∧ atMop s 10 0 2 ∧ (s.tile 179).take = none ∧ slateStep (s.slate 179) + 1 < 2 ^ 32 - 1) ∧
    (let s := issuing (mop 10 0 0) { Tile.empty with take := some aTake }
     s.Inv ∧ atMop s 10 0 0 ∧ bitsOf (mop 10 0 0) 1 0 = 0 ∧ bitOf (mop 10 0 0) 15 = false) ∧
    (let s := word (issuing (mop 10 0 1) Tile.empty) Reg.COLL_STEP (2 ^ 32 - 1)
     s.Inv ∧ atMop s 10 0 1 ∧ (s.tile 179).take = none ∧ bitsOf (mop 10 0 1) 1 0 = 1 ∧ 2 ^ 32 - 1 ≤ (s.reg Reg.COLL_STEP).toNat) ∧
    (let s := { m0 with phys := [(m0.physOf 179, TilePower.on)] }
     s.Inv ∧ s.fld (Fl.TILE_SEQ_CTRL_RUN 179) = 0 ∧ bitOf 1 0 = true ∧ s.power (s.physOf 179) = .on ∧ m0.power (m0.physOf 179) ≠ .on) ∧
    ((issuing 0 Tile.empty).Inv ∧ (issuing 0 Tile.empty).fld (Fl.TILE_SEQ_CTRL_RUN 179) = 1 ∧ bitOf 0 0 = false) ∧
    (let s := tileIs m0 179 { Tile.empty with take := some aTake }
     s.Inv ∧ (s.tile 179).take = some aTake ∧ aTake.ec.length = 8) := by
  unfold atMop atUop
  exact ⟨⟨sound_inv (by decide +kernel), by decide +kernel⟩, ⟨sound_inv (by decide +kernel), by decide +kernel⟩, ⟨sound_inv (by decide +kernel), by decide +kernel⟩, ⟨sound_inv (by decide +kernel), by decide +kernel⟩, ⟨sound_inv (by decide +kernel), by decide +kernel⟩, ⟨sound_inv (by decide +kernel), by decide +kernel⟩,
    sound_inv (by decide +kernel), by decide +kernel⟩

/-- Tile 179 at a micro-op that names entry 0 of its target table, and what that entry names. -/
def named (w : Nat) (e : Target16) : State := issuing w { Tile.empty with targets := [e] }
def objects (s : State) (o : Obj) : State := { put s Fl.REEL_OT_COUNT_COUNT 1 with reel := { m0.reel with objects := [o] } }
def flat : Obj := { anObj with versioned := false }

theorem witness_TilesMoveAndSend_moves :
    (let w := mop 4 0 (walked 2)
     (issuing w far).Inv ∧ atMop (issuing w far) 4 0 (walked 2) ∧ 32768 < far.effLine w + uopCount w) ∧
    (let w := mop 4 0 (2 + 2 ^ 27)
     let q : Move := ⟨.localCopy, 0, 1, 0, ⟨0, 0, 0, 0⟩, 0, 0, 0, false, 0⟩
     (issuing w { Tile.empty with moveQ := List.replicate 8 q }).Inv ∧ (issuing w Tile.empty).Inv ∧ atMop (issuing w Tile.empty) 4 0 (2 + 2 ^ 27) ∧
       Tile.empty.effLine w + uopCount w ≤ 32768 ∧ (uopRef w * 4 + Tile.empty.walk w) % 2 ^ 24 + uopCount w ≤ 32768) ∧
    ((issuing (mop 4 1 0) Tile.empty).Inv ∧ atMop (issuing (mop 4 1 0) Tile.empty) 4 1 0 ∧ (issuing (mop 4 1 0) Tile.empty).targetFor 179 (mop 4 1 0) 0 false = none) ∧
    ((named (mop 4 1 0) ⟨0, 179, 0, 0⟩).Inv ∧ atMop (named (mop 4 1 0) ⟨0, 179, 0, 0⟩) 4 1 0 ∧
      (named (mop 4 1 0) ⟨0, 179, 0, 0⟩).targetFor 179 (mop 4 1 0) 0 false = some ⟨0, 179, 0, 0⟩) ∧
    (let w := mop 4 2 0
     (named w ⟨0, 0, 0, 0⟩).Inv ∧ atMop (named w ⟨0, 0, 0, 0⟩) 4 2 0 ∧ (named w ⟨0, 0, 0, 0⟩).targetFor 179 w 1 false = none) ∧
    (let w := mop 4 2 0
     let s := objects (named w ⟨1, 0, 0, 1⟩) flat
     s.Inv ∧ atMop s 4 2 0 ∧ s.targetFor 179 w 1 false = some ⟨1, 0, 0, 1⟩ ∧ 0 < s.objCount ∧ (1 + Tile.empty.walk w + uopCount w) * 96 ≤ (s.objAt 0).size ∧
       (s.objAt 0).judge (s.versionOf 0) = .proceed ∧ s.shardChecked 0 = false) ∧
    (let w := mop 4 2 0
     let s := word (objects (named w ⟨1, 0, 0, 0⟩) anObj) (Reg.TILE_SEQ_SLATE_LO 179 + 4) 6
     s.Inv ∧ atMop s 4 2 0 ∧ s.targetFor 179 w 1 false = some ⟨1, 0, 0, 0⟩ ∧ (s.objAt 0).judge (s.versionOf (slateStep (s.slate 179))) = .wait) ∧
    (let w := mop 4 2 0
     let s := objects (named w ⟨1, 0, 0, 2⟩) flat
     s.Inv ∧ atMop s 4 2 0 ∧ s.targetFor 179 w 1 false = some ⟨1, 0, 0, 2⟩ ∧ (s.objAt 0).size < (2 + Tile.empty.walk w + uopCount w) * 96) := by
  unfold atMop atUop
  exact ⟨⟨sound_inv (by decide +kernel), by decide +kernel⟩, ⟨sound_inv (by decide +kernel), sound_inv (by decide +kernel), by decide +kernel⟩, ⟨sound_inv (by decide +kernel), by decide +kernel⟩,
    ⟨sound_inv (by decide +kernel), by decide +kernel⟩, ⟨sound_inv (by decide +kernel), by decide +kernel⟩, ⟨sound_inv (by decide +kernel), by decide +kernel⟩, ⟨sound_inv (by decide +kernel), by decide +kernel⟩,
    sound_inv (by decide +kernel), by decide +kernel⟩

theorem witness_TilesMoveAndSend_stores :
    (let w := mop 4 3 0
     let s := objects (named w ⟨1, 0, 0, 0⟩) anObj
     s.Inv ∧ atMop s 4 3 0 ∧ s.targetFor 179 w 1 false = some ⟨1, 0, 0, 0⟩ ∧ (s.objAt 0).versioned = true) ∧
    (let w := mop 4 3 0
     let s := objects (named w ⟨1, 0, 0, 1⟩) flat
     s.Inv ∧ atMop s 4 3 0 ∧ s.targetFor 179 w 1 false = some ⟨1, 0, 0, 1⟩ ∧ 0 < s.objCount ∧ (s.objAt 0).versioned = false ∧ (1 + Tile.empty.walk w + uopCount w) * 96 ≤ (s.objAt 0).size) ∧
    (∀ op < 2, (issuing (mop 4 (4 + op) 255) Tile.empty).Inv ∧ atMop (issuing (mop 4 (4 + op) 255) Tile.empty) 4 (4 + op) 255 ∧
      (issuing (mop 4 (4 + op) 255) Tile.empty).targetFor 179 (mop 4 (4 + op) 255) 3 true = none) ∧
    (∀ op < 2, (named (mop 4 (4 + op) 255) ⟨3, 0, 0, 0⟩).Inv ∧ atMop (named (mop 4 (4 + op) 255) ⟨3, 0, 0, 0⟩) 4 (4 + op) 255 ∧
      (named (mop 4 (4 + op) 255) ⟨3, 0, 0, 0⟩).targetFor 179 (mop 4 (4 + op) 255) 3 true = some ⟨3, 0, 0, 0⟩ ∧ (named (mop 4 (4 + op) 255) ⟨3, 0, 0, 0⟩).placementTile 0 ≤ 179) ∧
    (let m : Move := ⟨.toTile, 0, 2, 0, ⟨0, 178, 0, 0⟩, 0, 0, 0, false, 1⟩
     let s := tileIs m0 179 { Tile.empty with moveQ := [m], signals := [⟨178, 0, 1, 0, 1, 2⟩] }
     let a := s.tileBase 179
     let b := s.tileBase 178
     s.Inv ∧ (s.tile 179).moveQ = m :: [] ∧ (s.moveLines 179 m).getD 0 (0, 0) = (a, b) ∧ (a + 192 ≤ b ∨ b + 192 ≤ a) ∧ ∀ k < 192, storage (b + k) = true) := by
  unfold atMop atUop
  refine ⟨⟨sound_inv (by decide +kernel), by decide +kernel⟩, ⟨sound_inv (by decide +kernel), by decide +kernel⟩, fun op h => ⟨sound_inv (by revert op; decide +kernel), ?_⟩,
    fun op h => ⟨sound_inv (by revert op; decide +kernel), ?_⟩, sound_inv (by decide +kernel), by decide +kernel⟩ <;> (revert op; decide +kernel)

/-- Flow 4031, ACTIVE, as the target of a send. -/
def sending (w : Nat) (f : Flow) (q : List SendItem) : State :=
  { issuing w { Tile.empty with targets := [⟨2, 4031, keyFor 3, 0⟩], sendQ := q } with nrt := { m0.nrt with flows := [(4031, f)] } }

theorem witness_TilesMoveAndSend_sends :
    (∀ op < 2, (issuing (mop 5 op 0) Tile.empty).Inv ∧ atMop (issuing (mop 5 op 0) Tile.empty) 5 op 0 ∧ (issuing (mop 5 op 0) Tile.empty).targetFor 179 (mop 5 op 0) 2 false = none) ∧
    (∀ op < 2, (named (mop 5 op 0) ⟨2, 4032, 0, 0⟩).Inv ∧ atMop (named (mop 5 op 0) ⟨2, 4032, 0, 0⟩) 5 op 0 ∧
      (named (mop 5 op 0) ⟨2, 4032, 0, 0⟩).targetFor 179 (mop 5 op 0) 2 false = some ⟨2, 4032, 0, 0⟩) ∧
    (∀ op < 2, (named (mop 5 op 0) ⟨2, 4031, 0, 0⟩).Inv ∧ atMop (named (mop 5 op 0) ⟨2, 4031, 0, 0⟩) 5 op 0 ∧
      (named (mop 5 op 0) ⟨2, 4031, 0, 0⟩).targetFor 179 (mop 5 op 0) 2 false = some ⟨2, 4031, 0, 0⟩ ∧ ((named (mop 5 op 0) ⟨2, 4031, 0, 0⟩).flow 4031).state = 0) ∧
    (let q : SendItem := ⟨.plain, 0, 1, 0, ⟨2, 4031, 0, 0⟩, 0, 0, 0, 0⟩
     ∀ op < 2, (sending (mop 5 op 0) aFlow (List.replicate 16 q)).Inv ∧ atMop (sending (mop 5 op 0) aFlow (List.replicate 16 q)) 5 op 0 ∧
       (sending (mop 5 op 0) aFlow (List.replicate 16 q)).targetFor 179 (mop 5 op 0) 2 false = some ⟨2, 4031, keyFor 3, 0⟩) ∧
    (∀ op < 2, (sending (mop 5 op 0) { aFlow with next := 1024 } []).Inv ∧ ((sending (mop 5 op 0) { aFlow with next := 1024 } []).flow 4031).state = 1 ∧
      1024 ≤ psnSub { aFlow with next := 1024 }.next { aFlow with next := 1024 }.una) ∧
    (∀ op < 2, (sending (mop 5 op 0) aFlow []).Inv ∧ atMop (sending (mop 5 op 0) aFlow []) 5 op 0 ∧ ((sending (mop 5 op 0) aFlow []).flow 4031).state = 1 ∧
      psnSub aFlow.next aFlow.una < 1024 ∧ ((sending (mop 5 op 0) aFlow []).tmem 179).bad 0 = false ∧ 0 < aFlow.payload) ∧
    ((issuing (mop 5 2 255) Tile.empty).Inv ∧ atMop (issuing (mop 5 2 255) Tile.empty) 5 2 255 ∧ (issuing (mop 5 2 255) Tile.empty).targetFor 179 (mop 5 2 255) 3 true = none) ∧
    (let s := named (mop 5 2 255) ⟨3, 0, 0, 0⟩
     s.Inv ∧ atMop s 5 2 255 ∧ s.targetFor 179 (mop 5 2 255) 3 true = some ⟨3, 0, 0, 0⟩ ∧ (s.tile 179).sendQ = [] ∧ (s.tile 179).buildBefore (s.tile 179).issued 255 = false) ∧
    (let s := issuing (mop 5 2 0) { Tile.empty with targets := [⟨3, 0, 0, 0⟩], dispQ := [queueOf (dispBytes 0)], issued := 2 }
     s.Inv ∧ atMop s 5 2 0 ∧ s.targetFor 179 (mop 5 2 0) 3 true = some ⟨3, 0, 0, 0⟩ ∧ (s.tile 179).sendQ = [] ∧ (s.tile 179).buildBefore (s.tile 179).issued (uopLine (mop 5 2 0)) = true) := by
  unfold atMop atUop
  refine ⟨fun op h => ⟨sound_inv (by revert op; decide +kernel), ?_⟩, fun op h => ⟨sound_inv (by revert op; decide +kernel), ?_⟩, fun op h => ⟨sound_inv (by revert op; decide +kernel), ?_⟩,
    fun op h => ⟨sound_inv (by revert op; decide +kernel), ?_⟩, fun op h => ⟨sound_inv (by revert op; decide +kernel), ?_⟩,
    fun op h => ⟨sound_inv (by revert op; decide +kernel), ?_⟩, ⟨sound_inv (by decide +kernel), by decide +kernel⟩, ⟨sound_inv (by decide +kernel), by decide +kernel⟩,
    sound_inv (by decide +kernel), by decide +kernel⟩ <;> (revert op; decide +kernel)

/-- The flow of a list-driven send is the deployment's choice; every flow is ACTIVE here. -/
theorem witness_TilesMoveAndSend_list :
    let s := { named (mop 5 2 255) ⟨3, 0, 0, 0⟩ with nrt := { m0.nrt with flows := [(Config.listFlow 0, aFlow)] } }
    s.Inv ∧ (s.flow (Config.listFlow 0)).state = 1 ∧ psnSub (s.flow (Config.listFlow 0)).next (s.flow (Config.listFlow 0)).una < 1024 ∧
      s.sendReads 179 ⟨.list, 0, 1, 0, ⟨3, 0, 0, 0⟩, 255, 0, 0, 0⟩ = [] := by
  have h : ({ named (mop 5 2 255) ⟨3, 0, 0, 0⟩ with nrt := { m0.nrt with flows := [(Config.listFlow 0, aFlow)] } } : State).flow (Config.listFlow 0) = aFlow := by
    simp [State.flow, Store.get]
  refine ⟨?_, ?_, ?_, by decide +kernel⟩
  · have hi : (named (mop 5 2 255) ⟨3, 0, 0, 0⟩).Inv := sound_inv (by decide +kernel)
    exact { hi with flows := by simp [Store.wf, Store.above, aFlow, Flow.free] }
  · rw [h]; decide
  · rw [h]; decide

theorem witness_TilesMoveAndSend_cues :
    (let s := cued [anEntry] [queued false] true
     let t := { s with reel := { s.reel with copying := true } }
     t.Inv ∧ atMop t 7 0 9 ∧ t.reel.copying = true) ∧
    (let s := cued [anEntry] [queued false] true
     s.Inv ∧ atMop s 7 0 9 ∧ s.reel.copying = false ∧ (s.tile 179).cueReached = true ∧ ∃ p ∈ s.applying 179 9, s.entryResolved p.1 179 = false) ∧
    (let e := { anEntry with start := 8 }
     let s := cued [e] [{ queued false with st := .placed }] true
     s.Inv ∧ atMop s 7 0 9 ∧ (s.tile 179).cueReached = true ∧ s.applying 179 9 = [(0, e)] ∧ s.entryResolved 0 179 = true ∧ s.entryHolder 0 179 = some 0 ∧
       s.entryMismatch 0 179 (s.slate 179) = false ∧ e.start ≠ 0xFFFF ∧ e.start ≠ 9 ∧ e.fallback ≠ 0) ∧
    (let e := { anEntry with start := 8, rskip := 3 }
     let s := cued [e] [{ queued false with st := .placed }] true
     s.Inv ∧ atMop s 7 0 9 ∧ s.applying 179 9 = [(0, e)] ∧ s.entryResolved 0 179 = true ∧ s.entryMismatch 0 179 (s.slate 179) = false ∧ e.fallback ≠ 0 ∧ e.rskip ≠ 0) ∧
    (let s := cued [] [] false
     s.Inv ∧ atMop s 7 0 9 ∧ s.reel.copying = false ∧ s.applying 179 9 = []) := by
  unfold atMop atUop
  exact ⟨⟨sound_inv (by decide +kernel), by decide +kernel⟩, ⟨sound_inv (by decide +kernel), by decide +kernel⟩, ⟨sound_inv (by decide +kernel), by decide +kernel⟩, ⟨sound_inv (by decide +kernel), by decide +kernel⟩, sound_inv (by decide +kernel), by decide +kernel⟩

/-- A Take that failed on tile 179, of a Slate. -/
def failedAt (take state : Nat) : State :=
  put (tileIs m0 179 { Tile.empty with take := some aTake, failed := some ⟨mkSlate 0 0 take 0 0, false⟩ }) (Fl.TILE_SEQ_STATUS_STATE 179) state
/-- The same without a Take of its own. -/
def failedOut (state : Nat) : State := put (tileIs m0 179 { Tile.empty with failed := some ⟨0, false⟩ }) (Fl.TILE_SEQ_STATUS_STATE 179) state
/-- Tiles 178 and 179 of channel 7. -/
def clapping (w : Nat) (x y : Tile) : State := { tileIs (issuing w x) 178 y with job := some { running with clap := ⟨[[], [], [], [], [], [], [], [178, 179]], running.clap.modules, running.clap.tiles⟩ } }
def hereAt (c : Nat) : Tile := { Tile.empty with arrivals := [c] }

/-- A tile without a Take that waits at a Clapper when its group is aborted, and one armed for a swap that comes to a cross-module Clapper. -/
theorem witness_TakesAndClappers_waiting :
    (let s := put (put (tileIs m0 179 { Tile.empty with failed := some ⟨0, false⟩, wait := .clap 7, arrivals := [7] }) (Fl.TILE_SEQ_STATUS_STATE 179) seqIssuing) (Fl.TILE_SEQ_CTRL_RUN 179) 1
     s.Inv ∧ (s.tile 179).failed = some ⟨0, false⟩ ∧ s.groupOf 179 = [179] ∧ s.issues 179 = true ∧ (s.tile 179).take = none ∧ (s.tile 179).wait = .clap 7 ∧ 7 ∈ (s.tile 179).arrivals) ∧
    (let s := { clapping (mop 6 5 7) Tile.empty (hereAt 23) with hub := { m0.hub with swapArmed := [179] } }
     s.Inv ∧ atMop s 6 5 7 ∧ (s.tile 179).take = none ∧ (s.crossTiles 7).contains 179 = true ∧ s.isManager = false ∧ 179 ∈ s.hub.swapArmed) := by
  unfold atMop atUop
  exact ⟨⟨sound_inv (by decide +kernel), by decide +kernel⟩, sound_inv (by decide +kernel), by decide +kernel⟩

theorem witness_TakesAndClappers_outside : let x := { Tile.empty with take := some aTake, failed := some ⟨0, false⟩ }
    (failedOut seqIssuing).Inv ∧ (failedOut seqAborting).Inv ∧ (issuing (mop 10 2 0) x).Inv ∧ (x.fenced 15 && x.sendQ.isEmpty && x.failed.isNone) = false ∧ (failedOut seqIssuing).groupOf 179 = [179] ∧
    (failedOut seqIssuing).fld (Fl.TILE_SEQ_STATUS_STATE 179) ≠ seqAborting ∧ (failedOut seqAborting).fld (Fl.TILE_SEQ_STATUS_STATE 179) = seqAborting ∧ slateTake 0 ≠ 15 ∧
    ((failedOut seqAborting).tile 179).take = none ∧ ((failedOut seqAborting).tile 179).failed = some ⟨0, false⟩ :=
  ⟨sound_inv (by decide +kernel), sound_inv (by decide +kernel), sound_inv (by decide +kernel), by decide +kernel⟩

theorem witness_TakesAndClappers_takes :
    (let x := { Tile.empty with take := some aTake }
     (issuing (mop 10 1 0) x).Inv ∧ atMop (issuing (mop 10 1 0) x) 10 1 0 ∧ (issuing (mop 10 1 0) Tile.empty).Inv ∧ atMop (issuing (mop 10 1 0) Tile.empty) 10 1 0) ∧
    (let x := { Tile.empty with take := some aTake }
     (issuing (mop 10 2 0) x).Inv ∧ atMop (issuing (mop 10 2 0) x) 10 2 0 ∧ (issuing (mop 10 2 0) Tile.empty).Inv ∧ atMop (issuing (mop 10 2 0) Tile.empty) 10 2 0 ∧
       (x.fenced 15 && x.sendQ.isEmpty && x.failed.isNone) = true ∧ (issuing (mop 10 2 0) x).fld Fl.TELE_FMTH_CTRL_ENABLE = 0 ∧
       ({ x with chainQ := [queueOf []] }.fenced 15 && x.sendQ.isEmpty && x.failed.isNone) = false) ∧
    ((failedAt 15 seqIssuing).Inv ∧ (failedAt 15 seqIssuing).fld (Fl.TILE_SEQ_STATUS_STATE 179) ≠ seqAborting ∧ slateTake (mkSlate 0 0 15 0 0) = 15) ∧
    ((failedAt 14 seqIssuing).Inv ∧ slateTake (mkSlate 0 0 14 0 0) ≠ 15 ∧ (failedAt 14 seqIssuing).groupOf 179 = [179] ∧ ((failedAt 14 seqIssuing).tile 179).take = some aTake) ∧
    ((failedAt 14 seqAborting).Inv ∧ (failedAt 14 seqAborting).fld (Fl.TILE_SEQ_STATUS_STATE 179) = seqAborting ∧
      ∀ k ∈ (failedAt 14 seqAborting).groupOf 179, ∀ g, ((failedAt 14 seqAborting).tile k).failed = some g → g.swap = false) := by
  unfold atMop atUop
  refine ⟨⟨sound_inv (by decide +kernel), by decide +kernel, sound_inv (by decide +kernel), by decide +kernel⟩, ⟨sound_inv (by decide +kernel), by decide +kernel, sound_inv (by decide +kernel), by decide +kernel⟩,
    ⟨sound_inv (by decide +kernel), by decide +kernel⟩, ⟨sound_inv (by decide +kernel), by decide +kernel⟩, sound_inv (by decide +kernel), by decide +kernel, ?_⟩
  have h : (failedAt 14 seqAborting).groupOf 179 = [179] := by decide +kernel
  have g : ((failedAt 14 seqAborting).tile 179).failed = some ⟨mkSlate 0 0 14 0 0, false⟩ := by decide +kernel
  rw [h]
  intro k hk f hf
  rw [List.mem_singleton] at hk
  subst hk
  rw [g] at hf
  cases hf
  rfl

theorem witness_TakesAndClappers_claps :
    (∀ op < 3, (issuing (mop 6 (2 + op) 14) Tile.empty).Inv ∧ atMop (issuing (mop 6 (2 + op) 14) Tile.empty) 6 (2 + op) 14 ∧ ((issuing (mop 6 (2 + op) 14) Tile.empty).onDie 14).contains 179 = false) ∧
    (∀ op < 3, (clapping (mop 6 (2 + op) 7) Tile.empty Tile.empty).Inv ∧ atMop (clapping (mop 6 (2 + op) 7) Tile.empty Tile.empty) 6 (2 + op) 7 ∧
      (clapping (mop 6 (2 + op) 7) Tile.empty Tile.empty).onDie 7 = [178, 179] ∧ Tile.empty.arrivals.contains 7 = false ∧ Tile.empty.wait = .none ∧
      ((clapping (mop 6 (2 + op) 7) Tile.empty Tile.empty).tile 178).arrivals.contains 7 = false) ∧
    (∀ op < 2, (clapping (mop 6 (2 + op) 7) Tile.empty (hereAt 7)).Inv ∧ atMop (clapping (mop 6 (2 + op) 7) Tile.empty (hereAt 7)) 6 (2 + op) 7 ∧
      ((clapping (mop 6 (2 + op) 7) Tile.empty (hereAt 7)).tile 178).arrivals.contains 7 = true) ∧
    (∀ op < 2, (clapping (mop 6 (3 + op) 7) (hereAt 7) Tile.empty).Inv ∧ atMop (clapping (mop 6 (3 + op) 7) (hereAt 7) Tile.empty) 6 (3 + op) 7 ∧
      ((clapping (mop 6 (3 + op) 7) (hereAt 7) Tile.empty).onDie 7).contains 179 = true ∧ ((clapping (mop 6 (3 + op) 7) (hereAt 7) Tile.empty).tile 179).arrivals.contains 7 = true) := by
  unfold atMop atUop
  refine ⟨fun op h => ⟨sound_inv (by revert op; decide +kernel), ?_⟩, fun op h => ⟨sound_inv (by revert op; decide +kernel), ?_⟩, fun op h => ⟨sound_inv (by revert op; decide +kernel), ?_⟩,
    fun op h => ⟨sound_inv (by revert op; decide +kernel), ?_⟩⟩ <;> (revert op; decide +kernel)

theorem witness_TakesAndClappers_cross :
    (let s := issuing (mop 6 5 7) Tile.empty
     s.Inv ∧ atMop s 6 5 7 ∧ (s.crossTiles 7).contains 179 = false) ∧
    (let s := clapping (mop 6 5 7) Tile.empty (hereAt 23)
     s.Inv ∧ atMop s 6 5 7 ∧ (s.tile 179).take = none ∧ s.crossTiles 7 = [178, 179] ∧ s.hub.swapping = [] ∧ Tile.empty.arrivals.contains 23 = false ∧ s.isManager = false ∧
       (s.tile 178).arrivals.contains 23 = true ∧ s.hub.swapArmed = [] ∧ s.coll.arrived.contains (7, 0) = false) ∧
    (let s := tileIs m0 179 { Tile.empty with wait := .clap 7, take := some aTake }
     s.Inv ∧ (s.tile 179).wait ≠ .none ∧ (s.tile 179).take.isSome = true ∧ (s.tile 179).failed = none) := by
  unfold atMop atUop
  exact ⟨⟨sound_inv (by decide +kernel), by decide +kernel⟩, ⟨sound_inv (by decide +kernel), by decide +kernel⟩, sound_inv (by decide +kernel), by decide +kernel⟩

end Sys2Proof.Tests
end

section
/-! Soundness (R9, R588): ... -/

namespace Sys2Proof.Machine

/-! Numbers laid out in the fields of a register. -/

/-- The fields of a list lie in rising places from bit `n` on, within 32 bits, and their reset values fit them. -/
def fieldsFrom : Nat → List FieldSpec → Bool
  | n, [] => decide (n ≤ 32)
  | n, f :: t => decide (n ≤ f.lo) && decide (0 < f.width) && decide (f.reset < 2 ^ f.width) && fieldsFrom (f.lo + f.width) t

/-- The word whose field `f` holds `v f`. -/
def pack (v : FieldSpec → Nat) (l : List FieldSpec) : Nat := (l.map (fun f => v f * 2 ^ f.lo)).sum

theorem pack_cons (v : FieldSpec → Nat) (f : FieldSpec) (l : List FieldSpec) : pack v (f :: l) = v f * 2 ^ f.lo + pack v l := by simp [pack]

/-- Every register of the map has fields in rising places. -/
theorem blocks_fields : (blocks.all (fun b => b.regs.all (fun r => fieldsFrom 0 r.fields))) = true := by decide +kernel

theorem BlockSpec.find_mem {b : BlockSpec} {a : Nat} {h : RegHit} (hf : b.find a = some h) : h.spec ∈ b.regs := by
  unfold BlockSpec.find at hf
  dsimp only at hf
  generalize (if b.stride = 0 then 0 else (a - b.base) / b.stride) = k at hf
  simp only [Option.ite_none_left_eq_some] at hf
  obtain ⟨-, -, hf⟩ := hf
  split at hf
  · exact absurd hf (by simp)
  · rename_i r hr
    rw [← Option.some.inj hf]
    exact List.mem_of_find?_eq_some hr

/-- A search that keeps its first hit finds what `findSome?` finds. -/
theorem foldl_eq_or_findSome? {α β : Type} (p : α → Option β) {g : Option β → α → Option β} (hg : ∀ acc x, g acc x = acc.or (p x)) (l : List α) (acc : Option β) :
    l.foldl g acc = acc.or (l.findSome? p) := by
  induction l generalizing acc with
  | nil => simp
  | cons x t ih =>
    rw [List.foldl_cons, ih, hg, Option.or_assoc]
    cases hx : p x <;> simp [hx]

/-- The register at an aligned offset is that of the first block that holds it. -/
theorem findReg_eq {a : Nat} (h : a % 4 = 0) : findReg a = blocks.findSome? (·.find a) := by
  rw [findReg, if_neg (by omega)]
  exact (foldl_eq_or_findSome? (·.find a) (fun acc b => by cases acc <;> rfl) blocks none).trans (Option.none_or)

theorem findReg_aligned {a : Nat} {h : RegHit} (hf : findReg a = some h) : a % 4 = 0 := by
  by_contra hn
  rw [findReg, if_pos hn] at hf
  cases hf

theorem findReg_mem {a : Nat} {h : RegHit} (hf : findReg a = some h) : ∃ b ∈ blocks, b.find a = some h := by
  rw [findReg_eq (findReg_aligned hf)] at hf
  exact List.exists_of_findSome?_eq_some hf

theorem findReg_fields {a : Nat} {h : RegHit} (hf : findReg a = some h) : fieldsFrom 0 h.spec.fields = true := by
  obtain ⟨b, hb, hm⟩ := findReg_mem hf
  exact List.all_eq_true.mp (List.all_eq_true.mp blocks_fields b hb) _ (BlockSpec.find_mem hm)


theorem fieldsFrom_cons {n : Nat} {f : FieldSpec} {t : List FieldSpec} :
    fieldsFrom n (f :: t) = true ↔ n ≤ f.lo ∧ 0 < f.width ∧ f.reset < 2 ^ f.width ∧ fieldsFrom (f.lo + f.width) t = true := by
  simp [fieldsFrom, and_assoc]

theorem fieldsFrom_le {n : Nat} {l : List FieldSpec} (h : fieldsFrom n l = true) : n ≤ 32 := by
  induction l generalizing n with
  | nil => simpa [fieldsFrom] using h
  | cons f t ih =>
    obtain ⟨hn, -, -, ht⟩ := fieldsFrom_cons.mp h
    exact hn.trans ((Nat.le_add_right _ _).trans (ih ht))

/-- A field of the list lies from bit `n` on and within the word, and its reset value fits it. -/
theorem fieldsFrom_mem {n : Nat} {l : List FieldSpec} (h : fieldsFrom n l = true) {f : FieldSpec} (hf : f ∈ l) :
    n ≤ f.lo ∧ f.lo + f.width ≤ 32 ∧ 0 < f.width ∧ f.reset < 2 ^ f.width := by
  induction l generalizing n with
  | nil => cases hf
  | cons g t ih =>
    obtain ⟨hn, hw, hr, ht⟩ := fieldsFrom_cons.mp h
    rcases List.mem_cons.mp hf with hfg | hft
    · subst hfg
      exact ⟨hn, fieldsFrom_le ht, hw, hr⟩
    · have hg := ih ht hft
      exact ⟨by omega, hg.2⟩

theorem two_pow_dvd_pack (v : FieldSpec → Nat) {n : Nat} {l : List FieldSpec} (h : fieldsFrom n l = true) : 2 ^ n ∣ pack v l := by
  induction l generalizing n with
  | nil => exact Nat.dvd_zero _
  | cons f t ih =>
    obtain ⟨hn, -, -, ht⟩ := fieldsFrom_cons.mp h
    rw [pack_cons]
    exact Nat.dvd_add (Dvd.dvd.mul_left (Nat.pow_dvd_pow 2 hn) _) (Nat.dvd_trans (Nat.pow_dvd_pow 2 (by omega)) (ih ht))

/-- The bits of a packed word are those of its fields. -/
theorem testBit_pack {v : FieldSpec → Nat} {n : Nat} {l : List FieldSpec} (h : fieldsFrom n l = true) (hv : ∀ f ∈ l, v f < 2 ^ f.width) (i : Nat) :
    (pack v l).testBit i = l.any (fun f => decide (f.lo ≤ i) && (v f).testBit (i - f.lo)) := by
  induction l generalizing n with
  | nil => simp [pack]
  | cons f t ih =>
    obtain ⟨hn, -, -, ht⟩ := fieldsFrom_cons.mp h
    obtain ⟨q, hq⟩ := two_pow_dvd_pack v ht
    have hf : v f * 2 ^ f.lo < 2 ^ (f.lo + f.width) := by
      rw [Nat.pow_add, Nat.mul_comm]
      exact Nat.mul_lt_mul_of_pos_left (hv f List.mem_cons_self) (Nat.two_pow_pos _)
    have low : (v f * 2 ^ f.lo).testBit i = (decide (f.lo ≤ i) && (v f).testBit (i - f.lo)) := by
      rw [Nat.mul_comm, Nat.testBit_two_pow_mul]
    have high : (pack v t).testBit i = (decide (f.lo + f.width ≤ i) && q.testBit (i - (f.lo + f.width))) := by
      rw [hq, Nat.testBit_two_pow_mul]
    rw [List.any_cons, ← low, ← ih ht (fun g hg => hv g (List.mem_cons_of_mem _ hg)), high, pack_cons, hq, Nat.add_comm, Nat.testBit_two_pow_mul_add _ hf]
    split
    · simp [show ¬ f.lo + f.width ≤ i by omega]
    · rw [Nat.testBit_lt_two_pow (Nat.lt_of_lt_of_le hf (Nat.pow_le_pow_right (by omega) (by omega)))]
      simp [show f.lo + f.width ≤ i by omega]

/-- Two fields of a register that share a bit are one. -/
theorem fieldsFrom_disjoint {n : Nat} {l : List FieldSpec} (h : fieldsFrom n l = true) {f g : FieldSpec} (hf : f ∈ l) (hg : g ∈ l) {i : Nat}
    (hfi : f.lo ≤ i ∧ i < f.lo + f.width) (hgi : g.lo ≤ i ∧ i < g.lo + g.width) : f = g := by
  induction l generalizing n with
  | nil => cases hf
  | cons e t ih =>
    obtain ⟨-, -, -, ht⟩ := fieldsFrom_cons.mp h
    rcases List.mem_cons.mp hf with hfe | hft <;> rcases List.mem_cons.mp hg with hge | hgt
    · exact hfe.trans hge.symm
    · have := fieldsFrom_mem ht hgt
      subst hfe
      omega
    · have := fieldsFrom_mem ht hft
      subst hge
      omega
    · exact ih ht hft hgt

/-- The bits of a field's part of a word are those of the word there. -/
theorem FieldSpec.testBit_part {f : FieldSpec} (hw : 0 < f.width) (w i : Nat) : (f.part w).testBit i = (decide (i < f.width) && w.testBit (f.lo + i)) := by
  rw [FieldSpec.part, bitsOf, show f.lo + f.width - 1 + 1 - f.lo = f.width by omega, Nat.testBit_mod_two_pow, Nat.testBit_div_two_pow, Nat.add_comm]

theorem FieldSpec.part_lt {f : FieldSpec} (hw : 0 < f.width) (w : Nat) : f.part w < 2 ^ f.width := by
  rw [FieldSpec.part, bitsOf, show f.lo + f.width - 1 + 1 - f.lo = f.width by omega]
  exact Nat.mod_lt _ (Nat.two_pow_pos _)

/-- A field's part of a packed word is what was put there. -/
theorem FieldSpec.part_pack {v : FieldSpec → Nat} {l : List FieldSpec} (h : fieldsFrom 0 l = true) (hv : ∀ f ∈ l, v f < 2 ^ f.width) {f : FieldSpec} (hf : f ∈ l) :
    f.part (pack v l) = v f := by
  have hw := (fieldsFrom_mem h hf).2.2.1
  apply Nat.eq_of_testBit_eq
  intro i
  rw [FieldSpec.testBit_part hw, testBit_pack h hv]
  by_cases hi : i < f.width
  · rw [decide_eq_true hi, Bool.true_and, Bool.eq_iff_iff, List.any_eq_true]
    constructor
    · rintro ⟨g, hg, hb⟩
      rw [Bool.and_eq_true, decide_eq_true_eq] at hb
      have hlt : f.lo + i - g.lo < g.width := by
        by_contra hn
        rw [Nat.testBit_lt_two_pow (Nat.lt_of_lt_of_le (hv g hg) (Nat.pow_le_pow_right (by omega) (by omega)))] at hb
        exact absurd hb.2 (by simp)
      obtain rfl := fieldsFrom_disjoint h hf hg (i := f.lo + i) (by omega) (by omega)
      simpa using hb.2
    · exact fun hb => ⟨f, hf, by simpa using hb⟩
  · rw [decide_eq_false hi, Bool.false_and, Nat.testBit_lt_two_pow (Nat.lt_of_lt_of_le (hv f hf) (Nat.pow_le_pow_right (by omega) (by omega)))]

/-! Reserved bits (R9). -/

theorem testBit_foldl_or {α : Type} (g : α → Nat) (l : List α) (a i : Nat) :
    (l.foldl (fun m f => m ||| g f) a).testBit i = (a.testBit i || l.any (fun f => (g f).testBit i)) := by
  induction l generalizing a with
  | nil => simp
  | cons f t ih => rw [List.foldl_cons, ih, Nat.testBit_or, List.any_cons, Bool.or_assoc]

/-- The implemented bits of a register are those of its fields. -/
theorem testBit_implMask {off : Nat} {h : RegHit} (hf : findReg off = some h) (i : Nat) :
    (implMask off).testBit i = h.spec.fields.any (fun f => decide (f.lo ≤ i) && decide (i < f.lo + f.width)) := by
  have hm : implMask off = h.spec.fields.foldl (fun m f => m ||| f.mask) 0 := by rw [implMask, hf]
  rw [hm, testBit_foldl_or, Nat.zero_testBit, Bool.false_or]
  congr 1
  funext f
  rw [FieldSpec.mask, Nat.mul_comm, Nat.testBit_two_pow_mul, Nat.testBit_two_pow_sub_one]
  by_cases hi : f.lo ≤ i
  · rw [Bool.eq_iff_iff]
    simp [hi]
    omega
  · simp [hi]

/-- The word has no reserved bit of the register at the offset set. -/
def Implemented (off : Nat) (w : W32) : Prop := w &&& BitVec.ofNat 32 (implMask off) = w

theorem implemented_iff {off : Nat} {w : W32} : Implemented off w ↔ ∀ i < 32, w.getLsbD i = true → (implMask off).testBit i = true := by
  rw [Implemented, BitVec.eq_of_getLsbD_eq_iff]
  refine forall₂_congr fun i hi => ?_
  simp only [BitVec.getLsbD_and, BitVec.getLsbD_ofNat, hi, decide_true, Bool.true_and, Bool.and_eq_left_iff_imp]

theorem implemented_and (off : Nat) (w : W32) : Implemented off (w &&& BitVec.ofNat 32 (implMask off)) := by
  rw [Implemented, BitVec.and_assoc, BitVec.and_self]

theorem implemented_zero (off : Nat) : Implemented off 0 := BitVec.zero_and

/-- A packed word has no reserved bit set. -/
theorem implemented_pack {off : Nat} {h : RegHit} (hf : findReg off = some h) {v : FieldSpec → Nat} (hv : ∀ f ∈ h.spec.fields, v f < 2 ^ f.width) :
    Implemented off (BitVec.ofNat 32 (pack v h.spec.fields)) := by
  rw [implemented_iff]
  intro i hi hb
  rw [BitVec.getLsbD_ofNat, testBit_pack (findReg_fields hf) hv, Bool.and_eq_true, List.any_eq_true] at hb
  obtain ⟨-, f, hmem, hb⟩ := hb
  rw [Bool.and_eq_true, decide_eq_true_eq] at hb
  rw [testBit_implMask hf, List.any_eq_true]
  refine ⟨f, hmem, ?_⟩
  have hlt : i - f.lo < f.width := by
    by_contra hn
    rw [Nat.testBit_lt_two_pow (Nat.lt_of_lt_of_le (hv f hmem) (Nat.pow_le_pow_right (by omega) (by omega)))] at hb
    exact absurd hb.2 (by simp)
  rw [Bool.and_eq_true, decide_eq_true_eq, decide_eq_true_eq]
  omega

/-- The tile map resets to physical tiles, the fused word of OPTS_MIN_REV to three bytes, every other register to its fields' reset values. -/
theorem implemented_regReset (off : Nat) : Implemented off (regReset off) := by
  rw [regReset]
  split
  · rename_i hoff
    obtain ⟨n, hn, rfl⟩ : ∃ n < 180, off = 0xB00400 + 4 * n := ⟨(off - 0xB00400) / 4, by omega, by omega⟩
    have hall : ∀ n < 180, Implemented (0xB00400 + 4 * n) (BitVec.ofNat 32 (firstPhys ((0xB00400 + 4 * n - 0xB00400) / 4))) := by
      unfold Implemented
      decide +kernel
    exact hall n hn
  · split
    · rename_i hoff
      subst hoff
      have hlt : Config.fusedMinRev < 2 ^ 24 := by
        unfold Config.fusedMinRev
        omega
      rw [implemented_iff]
      intro i _ hb
      rw [show implMask 0x2000C = 2 ^ 24 - 1 by decide +kernel, Nat.testBit_two_pow_sub_one, decide_eq_true_eq]
      by_contra hn
      rw [BitVec.getLsbD_ofNat, Nat.testBit_lt_two_pow (Nat.lt_of_lt_of_le hlt (Nat.pow_le_pow_right (by omega) (by omega)))] at hb
      simp at hb
    · split
      · exact implemented_zero off
      · rename_i h hf
        rw [implemented_iff]
        intro i hi hb
        rw [BitVec.getLsbD_ofNat, testBit_foldl_or, Bool.and_eq_true, Nat.zero_testBit, Bool.false_or, List.any_eq_true] at hb
        obtain ⟨-, f, hmem, hb⟩ := hb
        rw [Nat.mul_comm, Nat.testBit_two_pow_mul, Bool.and_eq_true, decide_eq_true_eq] at hb
        have hfit := (fieldsFrom_mem (findReg_fields hf) hmem).2.2.2
        have hlt : i - f.lo < f.width := by
          by_contra hn
          rw [Nat.testBit_lt_two_pow (Nat.lt_of_lt_of_le hfit (Nat.pow_le_pow_right (by omega) (by omega)))] at hb
          exact absurd hb.2 (by simp)
        rw [testBit_implMask hf, List.any_eq_true]
        refine ⟨f, hmem, ?_⟩
        rw [Bool.and_eq_true, decide_eq_true_eq, decide_eq_true_eq]
        omega

theorem Store.get_or_mem {α : Type} (d : Nat → α) (l : Store α) (k : Nat) : Store.get d l k = d k ∨ (k, Store.get d l k) ∈ l := by
  induction l with
  | nil => exact .inl rfl
  | cons e t ih =>
    obtain ⟨j, v⟩ := e
    simp only [Store.get]
    split
    · rename_i hk
      exact .inr (hk ▸ List.mem_cons_self)
    · split
      · exact .inl rfl
      · exact ih.imp_right (List.mem_cons_of_mem _)

theorem regsImplemented_iff {l : Store W32} : regsImplemented l = true ↔ ∀ e ∈ l, Implemented e.1 e.2 := by
  simp [regsImplemented, Implemented]

/-- A word without reserved bits, written into registers without them, leaves none. -/
theorem regsImplemented_set {l : Store W32} (h : regsImplemented l = true) {off : Nat} {v : W32} (hv : Implemented off v) :
    regsImplemented (Store.set regReset l off v) = true := by
  rw [regsImplemented_iff] at h ⊢
  intro e he
  rcases Store.mem_set he with he | rfl
  · exact h e he
  · exact hv

theorem State.reg_implemented {s : State} (h : regsImplemented s.regs = true) (off : Nat) : Implemented off (s.reg off) := by
  rcases Store.get_or_mem regReset s.regs off with hr | hr
  · rw [State.reg, hr]
    exact implemented_regReset off
  · exact regsImplemented_iff.mp h _ hr

/-! The canonical form of the registers, with no reserved bit set. -/

/-- The registers of a sound state. -/
def RegsSound (l : Store W32) : Prop := Store.wf regReset l = true ∧ regsImplemented l = true

theorem RegsSound.set {l : Store W32} (h : RegsSound l) {off : Nat} {v : W32} (hv : Implemented off v) : RegsSound (Store.set regReset l off v) :=
  ⟨Store.wf_set _ _ _ h.1, regsImplemented_set h.2 hv⟩

theorem RegsSound.foldl_set {α : Type} {l : Store W32} (h : RegsSound l) (ks : List α) {off : α → Nat} {v : α → W32} (hv : ∀ k ∈ ks, Implemented (off k) (v k)) :
    RegsSound (ks.foldl (fun m k => Store.set regReset m (off k) (v k)) l) := by
  induction ks generalizing l with
  | nil => exact h
  | cons k t ih => exact ih (h.set (hv k List.mem_cons_self)) (fun j hj => hv j (List.mem_cons_of_mem _ hj))

theorem State.fld_lt (s : State) {f : Fld} (hw : 0 < f.width) : s.fld f < 2 ^ f.width := by
  rw [State.fld, bitsOf, show f.lo + f.width - 1 + 1 - f.lo = f.width by omega]
  exact Nat.mod_lt _ (Nat.two_pow_pos _)

theorem implemented_clkgGroup {g a : Nat} (hg : g < 12) (ha : a < 4) : Implemented (Reg.CLKG_GROUP g) (BitVec.ofNat 32 (a * 16 + 64)) := by
  have hm : ∀ g < 12, implMask (Reg.CLKG_GROUP g) = 0x7FFFF := by decide +kernel
  rw [Implemented, hm g hg]
  revert a
  decide

theorem implemented_modStatus {i : Nat} (hi : i < 104) (w : W32) : Implemented (Reg.CRAXIS_MOD_STATUS i) w := by
  have hm : ∀ i < 104, implMask (Reg.CRAXIS_MOD_STATUS i) = 2 ^ 32 - 1 := by decide +kernel
  rw [Implemented, hm i hi]
  exact BitVec.and_allOnes

theorem implemented_survey {n : Nat} (hn : n < 256) : Implemented Reg.IDENT_SURVEY (BitVec.ofNat 32 (n * 256)) := by
  unfold Implemented
  revert n
  decide +kernel

theorem implemented_rasCount (n : Nat) (hn : n < 2 ^ 48) :
    Implemented (Reg.RAS_COUNT_LO 8) (BitVec.ofNat 32 n) ∧ Implemented (Reg.RAS_COUNT_LO 8 + 4) (BitVec.ofNat 32 (n / 2 ^ 32)) := by
  constructor
  · rw [Implemented, show implMask (Reg.RAS_COUNT_LO 8) = 2 ^ 32 - 1 by decide +kernel]
    exact BitVec.and_allOnes
  · rw [implemented_iff]
    intro i _ hb
    rw [show implMask (Reg.RAS_COUNT_LO 8 + 4) = 2 ^ 16 - 1 by decide +kernel, Nat.testBit_two_pow_sub_one, decide_eq_true_eq]
    by_contra hi
    have hlt : n / 2 ^ 32 < 2 ^ i := Nat.lt_of_lt_of_le (by omega : n / 2 ^ 32 < 2 ^ 16) (Nat.pow_le_pow_right (by omega) (by omega))
    rw [BitVec.getLsbD_ofNat, Nat.testBit_lt_two_pow hlt] at hb
    simp at hb

/-! Soundness is kept by every elementary change. -/

theorem State.Inv.regsSound {s : State} (h : s.Inv) : RegsSound s.regs := ⟨h.regs, h.reserved⟩

/-- Keys that a map of the values keeps stay above what they were above. -/
theorem Store.above_map {α β : Type} (g : Nat × α → β) (k : Nat) (l : Store α) : Store.above k (l.map (fun e => (e.1, g e))) = Store.above k l := by
  induction l with
  | nil => rfl
  | cons e t ih => simp [Store.above, ih]

/-- Changing values without making one what its key reads as unlisted keeps the canonical form. -/
theorem Store.wf_map {α β : Type} [DecidableEq α] [DecidableEq β] {d : Nat → α} {d' : Nat → β} (g : Nat × α → β) {l : Store α} (h : Store.wf d l = true)
    (hg : ∀ e ∈ l, e.2 ≠ d e.1 → g e ≠ d' e.1) : Store.wf d' (l.map (fun e => (e.1, g e))) = true := by
  induction l with
  | nil => rfl
  | cons e t ih =>
    obtain ⟨hne, ha, ht⟩ := Store.wf_cons.mp (show Store.wf d ((e.1, e.2) :: t) = true from h)
    exact Store.wf_cons.mpr ⟨hg e List.mem_cons_self hne, (Store.above_map g e.1 t).trans ha, ih ht (fun x hx => hg x (List.mem_cons_of_mem _ hx))⟩

theorem Store.wf_filter {α : Type} [DecidableEq α] {d : Nat → α} (p : Nat × α → Bool) {l : Store α} (h : Store.wf d l = true) : Store.wf d (l.filter p) = true := by
  induction l with
  | nil => rfl
  | cons e t ih =>
    obtain ⟨hne, ha, ht⟩ := Store.wf_cons.mp (show Store.wf d ((e.1, e.2) :: t) = true from h)
    rw [List.filter_cons]
    split
    · exact Store.wf_cons.mpr ⟨hne, Store.above_filter p ha, ih ht⟩
    · exact ih ht

/-- Changing the packets of a flow keeps it from being a free one, which has none. -/
theorem Flow.map_tx_ne_free {x : Flow} (h : x ≠ Flow.free) (f : TxPkt → TxPkt) : { x with tx := x.tx.map f } ≠ Flow.free := by
  intro heq
  apply h
  have htx : x.tx.map f = [] := congrArg Flow.tx heq
  have hx : x.tx = [] := List.map_eq_nil_iff.mp htx
  rw [← heq, hx]
  exact congrArg (fun l => { x with tx := l }) hx

/-- The check that a sound state makes of its undefined ranges: one of a stack lies in T1. -/
def UndefRange.ok (r : UndefRange) : Bool := r.only.isNone || (decide (baseT1 ≤ r.lo) && decide (r.hi < 0x3400000000))

theorem UndefRange.ok_shrink {r r' : UndefRange} (h : r.ok = true) (ho : r'.only = r.only) (hlo : r.lo ≤ r'.lo) (hhi : r'.hi ≤ r.hi) : r'.ok = true := by
  simp only [UndefRange.ok, Bool.or_eq_true, Bool.and_eq_true, decide_eq_true_eq, ho] at h ⊢
  exact h.imp_right (fun ⟨h1, h2⟩ => ⟨by omega, by omega⟩)

theorem cutRanges_ok {l : List UndefRange} (h : ∀ r ∈ l, r.ok = true) (lo hi : Nat) : ∀ r ∈ cutRanges l lo hi, r.ok = true := by
  intro r hr
  obtain ⟨q, hq, hr⟩ := List.mem_flatMap.mp hr
  split at hr
  · exact List.mem_singleton.mp hr ▸ h q hq
  · rename_i hc
    rcases List.mem_append.mp hr with hr | hr
    · split at hr
      · rw [List.mem_singleton.mp hr]
        exact UndefRange.ok_shrink (h q hq) rfl (Nat.le_refl _) (by show lo - 1 ≤ q.hi; omega)
      · cases hr
    · split at hr
      · rw [List.mem_singleton.mp hr]
        exact UndefRange.ok_shrink (h q hq) rfl (by show q.lo ≤ hi + 1; omega) (Nat.le_refl _)
      · cases hr

theorem State.Inv.undef_ok {s : State} (h : s.Inv) : ∀ r ∈ s.undef, r.ok = true := List.all_eq_true.mp h.undef

theorem clearWhole_wf {st : Store Bool} (h : Store.wf (fun _ => false) st = true) (base u key a n : Nat) :
    Store.wf (fun _ => false) (clearWhole st base u key a n) = true := by
  unfold clearWhole
  exact Store.wf_drop _ _ h

theorem foldl_set_wf {α β : Type} [DecidableEq α] {d : Nat → α} {m : Store α} (h : Store.wf d m = true) (l : List β) (k : β → Nat) (v : β → α) :
    Store.wf d (l.foldl (fun m b => Store.set d m (k b) (v b)) m) = true := by
  induction l generalizing m with
  | nil => exact h
  | cons b t ih => exact ih (Store.wf_set _ _ _ h)

/-- A record joins the waiting ones while there is room, and is counted otherwise (R588). -/
theorem addEvent_inv {s : State} (h : s.Inv) (e : Event) : (addEvent s e).Inv := by
  unfold addEvent
  dsimp only
  split
  · rename_i hlt
    exact { h with events := by rw [List.length_append]; exact hlt }
  · have hn := implemented_rasCount (min (State.reg64 { s with evSeq := s.evSeq + 1 } (Reg.RAS_COUNT_LO 8) + 1) (2 ^ 48 - 1)) (by omega)
    have hr := (h.regsSound.set hn.1).set hn.2
    exact { h with regs := hr.1, reserved := hr.2 }

/-- A reset of POWER reach leaves the state of power-on but for the flash and what the model keeps. -/
theorem resetAll_power_inv {s : State} (h : s.Inv) : (resetAll s true).Inv where
  time := Nat.two_pow_pos 64
  mem := rfl
  regs := rfl
  reserved := rfl
  shadows := rfl
  latches := rfl
  holds := rfl
  poison0 := rfl
  poison1 := rfl
  poison2 := rfl
  tiles := rfl
  phys := rfl
  ports := rfl
  events := Nat.zero_le _
  undef := rfl
  mods := rfl
  groups := rfl
  fns := rfl
  msix := rfl
  flows := rfl
  keys := rfl
  alloc := rfl
  streams := rfl
  flash := h.flash

/-- The registers after a reset of FULL reach: those kept, the option values, the age column of each group, the BAD record of each module, the surveys counted. -/
def fullResetRegs (s : State) : Store W32 :=
  let kept := (keptRegs ++ (List.range 16).map (fun i => 0x20000 + 4 * i)).foldl (fun m k => Store.set regReset m k (s.reg k)) []
  let aged := (List.range 12).foldl (fun m g => Store.set regReset m (Reg.CLKG_GROUP g) (BitVec.ofNat 32 (s.fld (Fl.CLKG_GROUP_AGE g) * 16 + 64))) kept
  let marked := ((List.range 104).map (fun h => (h, s.fld (Fl.CRAXIS_MOD_STATUS_BAD h)))).foldl (fun m k =>
    Store.set regReset m (Reg.CRAXIS_MOD_STATUS k.1) (BitVec.ofNat 32 (0xFFC0 + k.2 * 65536))) aged
  Store.set regReset marked Reg.IDENT_SURVEY (BitVec.ofNat 32 (s.fld ⟨Reg.IDENT_SURVEY, 8, 8⟩ * 256))

theorem resetAll_full_regs (s : State) : (resetAll s false).regs = fullResetRegs s := by
  simp only [resetAll, Bool.false_eq_true, if_false, fullResetRegs, State.reset]

/-- They have no reserved bits. -/
theorem fullResetRegs_sound {s : State} (h : s.Inv) : RegsSound (fullResetRegs s) := by
  have h0 : RegsSound [] := ⟨rfl, rfl⟩
  have kept := h0.foldl_set (keptRegs ++ (List.range 16).map (fun i => 0x20000 + 4 * i)) (off := fun k => k) (v := s.reg) (fun k _ => s.reg_implemented h.reserved k)
  have aged := kept.foldl_set (List.range 12) (off := Reg.CLKG_GROUP) (v := fun g => BitVec.ofNat 32 (s.fld (Fl.CLKG_GROUP_AGE g) * 16 + 64))
    (fun g hg => implemented_clkgGroup (List.mem_range.mp hg) (s.fld_lt (f := Fl.CLKG_GROUP_AGE g) (Nat.two_pos)))
  have marked := aged.foldl_set ((List.range 104).map (fun h => (h, s.fld (Fl.CRAXIS_MOD_STATUS_BAD h)))) (off := fun k => Reg.CRAXIS_MOD_STATUS k.1)
    (v := fun k => BitVec.ofNat 32 (0xFFC0 + k.2 * 65536)) (by
      intro k hk
      obtain ⟨i, hi, rfl⟩ := List.mem_map.mp hk
      exact implemented_modStatus (List.mem_range.mp hi) _)
  unfold fullResetRegs
  exact marked.set (implemented_survey (s.fld_lt (f := ⟨Reg.IDENT_SURVEY, 8, 8⟩) (by decide)))

theorem resetAll_full_time (s : State) : (resetAll s false).time = s.time := by simp only [resetAll, Bool.false_eq_true, if_false]

/-- A reset of FULL reach keeps the option values and the BAD records of the modules that have any. -/
theorem resetAll_full_inv {s : State} (h : s.Inv) : (resetAll s false).Inv where
  time := by rw [resetAll_full_time]; exact h.time
  mem := rfl
  regs := by rw [resetAll_full_regs]; exact (fullResetRegs_sound h).1
  reserved := by rw [resetAll_full_regs]; exact (fullResetRegs_sound h).2
  shadows := rfl
  latches := rfl
  holds := rfl
  poison0 := rfl
  poison1 := rfl
  poison2 := rfl
  tiles := rfl
  phys := rfl
  ports := rfl
  events := Nat.zero_le _
  undef := rfl
  mods := by
    refine Store.wf_map (fun e => { CxMod.empty with badSpares := e.2.badSpares }) (Store.wf_filter _ h.mods) (fun e he _ heq => ?_)
    have hbad := (List.mem_filter.mp he).2
    rw [decide_eq_true_eq] at hbad
    exact hbad (congrArg CxMod.badSpares heq)
  groups := rfl
  fns := rfl
  msix := rfl
  flows := rfl
  keys := rfl
  alloc := rfl
  streams := rfl
  flash := h.flash

/-- Every elementary change keeps a state sound. -/
theorem Act.apply_inv (x : Act) (s : State) (h : s.Inv) : (x.apply s).Inv := by
  cases x with
  | time t => exact { h with time := Nat.mod_lt _ (by decide) }
  | reg off v =>
    have hr := h.regsSound.set (implemented_and off v)
    exact { h with regs := hr.1, reserved := hr.2 }
  | shadow off v => exact { h with shadows := Store.wf_set _ _ _ h.shadows }
  | latch k v => exact { h with latches := Store.wf_set _ _ _ h.latches }
  | hold k v => exact { h with holds := Store.wf_set _ _ _ h.holds }
  | write a bs =>
    cases bs with
    | nil => exact h
    | cons b t =>
      have hm := Act.apply_mem_wf (.write a (b :: t)) s h.mem
      have hu := List.all_eq_true.mpr (cutRanges_ok h.undef_ok a (a + (b :: t).length - 1))
      have h0 : Store.wf (fun _ => false) ((Act.write a (b :: t)).apply s).poison0 = true := by
        show Store.wf _ (match physAt a with | some p => _ | none => _) = true
        split
        · exact clearWhole_wf h.poison0 _ _ _ _ _
        · exact h.poison0
      have h1 : Store.wf (fun _ => false) ((Act.write a (b :: t)).apply s).poison1 = true := by
        show Store.wf _ (if inT1 a then _ else _) = true
        split
        · exact clearWhole_wf h.poison1 _ _ _ _ _
        · exact h.poison1
      have h2 : Store.wf (fun _ => false) ((Act.write a (b :: t)).apply s).poison2 = true := by
        show Store.wf _ (if inT2 a then _ else _) = true
        split
        · exact clearWhole_wf h.poison2 _ _ _ _ _
        · exact h.poison2
      exact { h with mem := hm, undef := hu, poison0 := h0, poison1 := h1, poison2 := h2 }
  | undef a n =>
    have hm := Act.apply_mem_wf (.undef a n) s h.mem
    simp only [Act.apply] at hm ⊢
    split
    · exact h
    · rename_i hn
      rw [if_neg hn] at hm
      exact { h with mem := hm, undef := List.all_eq_true.mpr (List.forall_mem_cons.mpr ⟨rfl, cutRanges_ok h.undef_ok a (a + n - 1)⟩) }
  | undefStack k =>
    have hu : ∀ r ∈ s.undef.filter (fun r => decide (r.only ≠ some k)), r.ok = true := fun r hr => h.undef_ok r (List.mem_filter.mp hr).1
    exact { h with
      mem := Act.apply_mem_wf (.undefStack k) s h.mem
      undef := List.all_eq_true.mpr (List.forall_mem_cons.mpr ⟨rfl, hu⟩)
      poison1 := Store.wf_drop _ (fun b => decide (b / 3 % 4 = k)) h.poison1 }
  | poison0 k b => exact { h with poison0 := Store.wf_set _ _ _ h.poison0 }
  | poison1 k b => exact { h with poison1 := Store.wf_set _ _ _ h.poison1 }
  | poison2 k b => exact { h with poison2 := Store.wf_set _ _ _ h.poison2 }
  | event e => exact addEvent_inv h e
  | dropEvents n => exact { h with events := by rw [Act.apply, List.length_drop]; have := h.events; omega }
  | tile n f => exact { h with tiles := Store.wf_update _ _ _ h.tiles }
  | phys p v => exact { h with phys := Store.wf_set _ _ _ h.phys }
  | port n f => exact { h with ports := Store.wf_update _ _ _ h.ports }
  | cxm i f => exact { h with mods := Store.wf_update _ _ _ h.mods }
  | clk g f => exact { h with groups := Store.wf_update _ _ _ h.groups }
  | fn n f => exact { h with fns := Store.wf_update _ _ _ h.fns }
  | msix k v => exact { h with msix := Store.wf_set _ _ _ h.msix }
  | msixDrop n => exact { h with msix := Store.wf_drop _ (fun k => decide (k / 1024 = n)) h.msix }
  | flow n f => exact { h with flows := Store.wf_update _ _ _ h.flows }
  | sends f => exact { h with flows := Store.wf_map (fun e => { e.2 with tx := e.2.tx.map f }) h.flows (fun _ _ hne => Flow.map_tx_ne_free hne f) }
  | key i f => exact { h with keys := Store.wf_update _ _ _ h.keys }
  | keysClear => exact { h with keys := rfl }
  | alloc n g => exact { h with alloc := Store.wf_set _ _ _ h.alloc }
  | stream n f => exact { h with streams := Store.wf_update _ _ _ h.streams }
  | flash a bs => exact { h with flash := foldl_set_wf h.flash bs.zipIdx (fun b => a + b.2) (·.1) }
  | reset power =>
    cases power
    · exact resetAll_full_inv h
    · exact resetAll_power_inv h
  | out _ | free | reel _ | job _ | upd _ | coll _ | nrt _ | hub _ | host _ | cx _ | pwr _ | rst _ => exact { h with }

/-- Settles O3: right after power-on no register is listed, no byte of memory, and no table has an entry. -/
theorem resetIsSound : Obligations.ResetIsSound where
  time := Nat.two_pow_pos 64
  mem := rfl
  regs := rfl
  reserved := rfl
  shadows := rfl
  latches := rfl
  holds := rfl
  poison0 := rfl
  poison1 := rfl
  poison2 := rfl
  tiles := rfl
  phys := rfl
  ports := rfl
  events := Nat.zero_le _
  undef := rfl
  mods := rfl
  groups := rfl
  fns := rfl
  msix := rfl
  flows := rfl
  keys := rfl
  alloc := rfl
  streams := rfl
  flash := rfl

/-- Settles O4: every command runs a program of elementary changes, and each of these keeps a state sound. -/
theorem stepKeepsSound : Obligations.StepKeepsSound :=
  step_keeps (P := State.Inv) Act.apply_inv (fun _ h => { h with })

end Sys2Proof.Machine
end

section
/-! SUPPORT. Which elementary changes a piece of a meaning makes, and what therefore holds of the state it leaves: the rules by which the proofs below run a meaning
piece by piece. -/

namespace Sys2Proof.Machine

open Sys2Proof

/-! Changes of a kind lead from one state to another. -/

/-- Changes that satisfy `P` lead from a state to another. -/
inductive Ran (P : Act → Prop) : State → State → Prop where
  | refl (s : State) : Ran P s s
  | step {a : Act} {s t : State} (h : P a) (r : Ran P (a.apply s) t) : Ran P s t

section
variable {P Q : Act → Prop} {s t u : State}

theorem Ran.one {a : Act} (h : P a) : Ran P s (a.apply s) := .step h (.refl _)

theorem Ran.trans (h : Ran P s t) (g : Ran P t u) : Ran P s u := by
  induction h with
  | refl s => exact g
  | step ha _ ih => exact .step ha (ih g)

theorem Ran.mono (h : ∀ a, P a → Q a) (r : Ran P s t) : Ran Q s t := by
  induction r with
  | refl s => exact .refl s
  | step ha _ ih => exact .step (h _ ha) ih

/-- What no such change touches is as it was. -/
theorem Ran.keeps {β : Type} {f : State → β} (h : ∀ a s, P a → f (a.apply s) = f s) (r : Ran P s t) : f t = f s := by
  induction r with
  | refl s => rfl
  | step ha _ ih => exact ih.trans (h _ _ ha)

/-- What every such change preserves still holds. -/
theorem Ran.preserves {I : State → Prop} (h : ∀ a s, P a → I s → I (a.apply s)) (r : Ran P s t) (hs : I s) : I t := by
  induction r with
  | refl s => exact hs
  | step ha _ ih => exact ih (h _ _ ha hs)

theorem Ran.inv (r : Ran P s t) (hs : s.Inv) : t.Inv := r.preserves (fun a s _ => a.apply_inv s) hs

end

/-! What holds after a piece of a meaning. -/

/-- From `s` the piece yields a value and leaves a state of which `Q` holds. -/
def Post {α : Type} (m : M α) (s : State) (Q : α → State → Prop) : Prop := ∃ a t, Does m s a t ∧ Q a t

section
variable {α β : Type} {m : M α} {s : State} {Q R : α → State → Prop}

theorem Does.post {a : α} {t : State} (h : Does m s a t) (q : Q a t) : Post m s Q := ⟨a, t, h, q⟩

theorem Post.mono (h : Post m s R) (g : ∀ a t, R a t → Q a t) : Post m s Q := by
  obtain ⟨a, t, hd, hr⟩ := h
  exact ⟨a, t, hd, g a t hr⟩

theorem post_bind {f : α → M β} {Q : β → State → Prop} (h : Post m s (fun a t => Post (f a) t Q)) : Post (m >>= f) s Q := by
  obtain ⟨a, t, hd, b, u, he, hq⟩ := h
  exact ⟨b, u, does_bind hd he, hq⟩

theorem post_ite {c : Prop} [Decidable c] {m n : M α} {s : State} {Q : α → State → Prop} (h : c → Post m s Q) (g : ¬c → Post n s Q) :
    Post (if c then m else n) s Q := by
  split
  · exact h ‹_›
  · exact g ‹_›

theorem post_pure {a : α} (h : Q a s) : Post (pure a) s Q := (does_pure a s).post h
theorem post_look {f : State → α} (h : Q (f s) s) : Post (look f) s Q := (does_look f s).post h
theorem post_act {a : Act} {Q : Unit → State → Prop} (h : Q () (a.apply s)) : Post (act a) s Q := (does_act a s).post h

/-- A command whose meaning leaves what is claimed completes with it. -/
theorem Post.completes {c : Instr} {m : M Unit} {s : State} {Q : State → Prop} (h : Post m s (fun _ t => Q t)) (hc : exec c s = M.next m s) : Completes c s Q := by
  obtain ⟨a, t, hd, hq⟩ := h
  exact ⟨t, hc.trans hd.next, hq⟩

end

/-! Pieces that make only changes of a kind. -/

/-- From every state the piece makes only changes that satisfy `P`. -/
def Acts {α : Type} (P : Act → Prop) (m : M α) : Prop := ∀ s, Post m s (fun _ t => Ran P s t)

section
variable {α β : Type} {P Q : Act → Prop}

theorem Acts.mono {m : M α} (h : ∀ a, P a → Q a) (hm : Acts P m) : Acts Q m := fun s => (hm s).mono (fun _ _ r => r.mono h)

theorem acts_pure (a : α) : Acts P (pure a) := fun s => post_pure (.refl s)
theorem acts_look (f : State → α) : Acts P (look f) := fun s => post_look (.refl s)
theorem acts_act {a : Act} (h : P a) : Acts P (act a) := fun _ => post_act (.one h)

theorem acts_bind {m : M α} {f : α → M β} (h : Acts P m) (g : ∀ a, Acts P (f a)) : Acts P (m >>= f) := fun s =>
  post_bind ((h s).mono (fun a t r => (g a t).mono (fun _ _ q => r.trans q)))

theorem acts_ite {c : Prop} [Decidable c] {m n : M α} (h : c → Acts P m) (g : ¬c → Acts P n) : Acts P (if c then m else n) := by
  split
  · exact h ‹_›
  · exact g ‹_›

theorem acts_when {c : Prop} [Decidable c] {m : M Unit} (h : c → Acts P m) : Acts P (if c then m else pure ()) := acts_ite h (fun _ => acts_pure ())

/-- A conditional piece and what follows it. -/
theorem acts_when_then {c : Prop} [Decidable c] {m : M Unit} {r : Unit → M β} (h : c → Acts P m) (g : ∀ a, Acts P (r a)) : Acts P (if c then m >>= r else r ()) :=
  acts_ite (fun hc => acts_bind (h hc) g) (fun _ => g ())

theorem acts_forIn {γ : Type} (l : List γ) (b : β) {f : γ → β → M (ForInStep β)} (h : ∀ x ∈ l, ∀ b, Acts P (f x b)) : Acts P (forIn l b f) := by
  induction l generalizing b with
  | nil => exact acts_pure b
  | cons x t ih =>
    rw [List.forIn_cons]
    refine acts_bind (h x List.mem_cons_self b) (fun r => ?_)
    cases r with
    | done b => exact acts_pure b
    | yield b => exact ih b (fun y hy => h y (List.mem_cons_of_mem _ hy))

/-- A loop over the elements of a list. -/
theorem acts_for {γ : Type} (l : List γ) {body : γ → M Unit} (h : ∀ x ∈ l, Acts P (body x)) :
    Acts P (forIn l PUnit.unit (fun x _ => do body x; pure (ForInStep.yield PUnit.unit))) :=
  acts_forIn l _ (fun x hx _ => acts_bind (h x hx) (fun _ => acts_pure _))

/-! The shared operations on registers, counters and events. -/

theorem acts_getReg (off : Nat) : Acts P (getReg off) := acts_look _
theorem acts_getFld (f : Fld) : Acts P (getFld f) := acts_look _
theorem acts_setReg {off : Nat} {v : W32} (h : P (.reg off v)) : Acts P (setReg off v) := acts_act h
theorem acts_setFld {f : Fld} {v : Nat} (h : ∀ w, P (.reg f.off w)) : Acts P (setFld f v) := acts_bind (acts_getReg _) (fun _ => acts_setReg (h _))
theorem acts_setBit {f : Fld} (h : ∀ w, P (.reg f.off w)) : Acts P (setBit f) := acts_setFld h
theorem acts_bump {lo n : Nat} (h : ∀ w, P (.reg lo w)) (g : ∀ w, P (.reg (lo + 4) w)) : Acts P (bump lo n) :=
  acts_ite (fun _ => acts_pure _) (fun _ => acts_bind (acts_look _) (fun _ => acts_bind (acts_setReg (h _)) (fun _ => acts_setReg (g _))))
theorem acts_freeValue (h : P .free) : Acts P freeValue := acts_bind (acts_look _) (fun _ => acts_bind (acts_act h) (fun _ => acts_pure _))

/-- A counter's SEL register and its two value registers. -/
theorem acts_pmuAdd {sel n : Nat} (h : ∀ k < 4, ∀ w, P (.reg (sel + 4 * k) w)) : Acts P (pmuAdd sel n) :=
  acts_bind (acts_look _) (fun _ => acts_bind (acts_setReg (h 2 (by omega) _)) (fun _ => acts_bind (acts_setReg (h 3 (by omega) _)) (fun _ =>
    acts_when (fun _ => acts_bind (acts_getReg _) (fun _ => acts_setReg (h 0 (by omega) _))))))

/-- Occurrences counted in a block of counters change registers of the block. -/
theorem acts_pmuCount {base count ev n : Nat} {o : Occ} (h : ∀ i < count, ∀ k < 4, ∀ w, P (.reg (base + 16 * i + 4 * k) w)) : Acts P (pmuCount base count ev n o) := by
  refine acts_ite (fun _ => acts_pure _) (fun _ s => post_bind (post_look ?_))
  refine acts_bind (acts_for _ (fun i hi => ?_)) (fun _ => acts_pure _) s
  exact acts_pmuAdd (h i (List.mem_range.mp (List.mem_filter.mp hi).1))

/-- The changes of the hub's programmable counters. -/
def OnHubCounters (P : Act → Prop) : Prop := ∀ off w, pmonCounter off = true → P (.reg off w)

theorem pmonCounter_iff {off : Nat} : pmonCounter off = true ↔ 0xA00100 ≤ off ∧ off < 0xA00600 := by simp [pmonCounter]

theorem pmonCounter_hub {i k : Nat} (hi : i < 64) (hk : k < 4) : pmonCounter (Reg.PMON_HUB_SEL 0 + 16 * i + 4 * k) = true := by
  rw [pmonCounter_iff, Reg.PMON_HUB_SEL]
  omega

theorem pmonCounter_upd {i k : Nat} (hi : i < 16) (hk : k < 4) : pmonCounter (Reg.PMON_UPD_SEL 0 + 16 * i + 4 * k) = true := by
  rw [pmonCounter_iff, Reg.PMON_UPD_SEL]
  omega

theorem acts_pmuHub (h : OnHubCounters P) {ev amount : Nat} {priv master addr cls : Option Nat} : Acts P (pmuHub ev amount priv master addr cls) :=
  acts_bind (acts_look _) (fun _ => acts_pmuCount (fun _ hi _ hk w => h _ w (pmonCounter_hub hi hk)))

theorem acts_pmuUpd (h : OnHubCounters P) {ev amount : Nat} : Acts P (pmuUpd ev amount) :=
  acts_bind (acts_look _) (fun _ => acts_pmuCount (fun _ hi _ hk w => h _ w (pmonCounter_upd hi hk)))

theorem acts_pmuTile {n ev amount : Nat} {pc : Option Nat} {slate : Nat} {priv : Bool} (h : ∀ i < 16, ∀ k < 4, ∀ w, P (.reg (Reg.TILE_PMU_SEL n 0 + 16 * i + 4 * k) w)) :
    Acts P (pmuTile n ev amount pc slate priv) :=
  acts_bind (acts_look _) (fun _ => acts_bind (acts_look _) (fun _ => acts_pmuCount h))

theorem acts_raiseEvent (h : OnHubCounters P) {e : Event} (g : P (.event e)) : Acts P (raiseEvent e) := acts_bind (acts_act g) (fun _ => acts_pmuHub h)
theorem acts_raise (h : OnHubCounters P) (g : ∀ e, P (.event e)) {e : Ev} {src : Nat × Nat} {detail slate : Nat} : Acts P (raise e src detail slate) :=
  acts_raiseEvent h (g _)
theorem acts_raiseStop (h : OnHubCounters P) (g : ∀ e, P (.event e)) {e : Ev} {src : Nat × Nat} {detail slate : Nat} : Acts P (raiseStop e src detail slate) :=
  acts_raiseEvent h (g _)

end

end Sys2Proof.Machine
end

section
/-! SUPPORT. Which parts of the state the changes of each kind can change, and what a run of changes therefore leaves as it was. -/

namespace Sys2Proof.Machine

open Sys2Proof

/-- The parts of the state that a change of a kind may change. -/
def ActKind.changes : ActKind → List StatePart
  | .time => [.time]
  | .reg => [.registers]
  | .shadow => [.shadows]
  | .latch => [.latches]
  | .hold => [.holds]
  | .write | .undef | .poison => [.memory]
  | .event => [.registers, .events]
  | .out => [.outputs]
  | .free => []
  | .tile => [.tiles]
  | .phys => [.powers]
  | .reel => [.reel]
  | .job => [.job]
  | .upd => [.upd]
  | .coll => [.coll]
  | .nrt => [.nrt]
  | .port => [.ports]
  | .hub => [.hub]
  | .host => [.host]
  | .cx => [.cx]
  | .pwr => [.pwr]
  | .rst => [.rst]
  | .reset => StatePart.all

theorem apply_undef_zero (s : State) (a : Nat) : (Act.undef a 0).apply s = s := rfl
theorem apply_undef_pos (s : State) (a n : Nat) : (Act.undef a (n + 1)).apply s = { s with
    mem := Store.drop s.mem (fun k => decide (a ≤ k) && decide (k < a + (n + 1)))
    undef := ⟨a, a + (n + 1) - 1, s.epoch + 1, none⟩ :: cutRanges s.undef a (a + (n + 1) - 1)
    epoch := s.epoch + 1 } := rfl

theorem apply_dropEvents (s : State) (n : Nat) : (Act.dropEvents n).apply s = { s with events := s.events.drop n } := rfl
theorem apply_undefStack (s : State) (k : Nat) : (Act.undefStack k).apply s = { s with
    mem := Store.drop s.mem (fun a => inT1 a && decide (t1Stack a = k))
    undef := ⟨baseT1, 0x33FFFFFFFF, s.epoch + 1, some k⟩ :: s.undef.filter (fun r => decide (r.only ≠ some k))
    poison1 := Store.drop s.poison1 (fun b => decide (b / 3 % 4 = k))
    epoch := s.epoch + 1 } := rfl

theorem StatePart.mem_all (p : StatePart) : p ∈ StatePart.all := by cases p <;> decide

/-- A change leaves the parts that its kind does not change. -/
theorem Act.apply_stands {a : Act} {p : StatePart} (h : p ∉ a.kind.changes) (s : State) : p.stands s (a.apply s) := by
  cases a with
  | undef a n =>
    cases n with
    | zero => cases p <;> simp [StatePart.stands, apply_undef_zero]
    | succ n =>
      rw [apply_undef_pos]
      cases p <;> simp_all [StatePart.stands, Act.kind, ActKind.changes]
  | reset power => exact absurd p.mem_all h
  | _ => cases p <;> simp_all [StatePart.stands, Act.kind, ActKind.changes, apply_event, apply_dropEvents, apply_undefStack]

theorem StatePart.stands_refl (p : StatePart) (s : State) : p.stands s s := by cases p <;> simp [StatePart.stands]

theorem StatePart.stands_trans {p : StatePart} {s t u : State} (h : p.stands s t) (g : p.stands t u) : p.stands s u := by
  cases p <;> simp_all [StatePart.stands]

/-- Changes that are of no kind that changes a part leave it. -/
theorem Ran.stands {P : Act → Prop} {s t : State} (r : Ran P s t) (p : StatePart) (h : ∀ a, P a → p ∉ a.kind.changes) : p.stands s t := by
  induction r with
  | refl s => exact p.stands_refl s
  | step ha _ ih => exact StatePart.stands_trans (Act.apply_stands (h _ ha) _) ih

end Sys2Proof.Machine
end

section
/-! An edge of the reference on an empty queue (R20, R514). -/

namespace Sys2Proof.Machine

open Sys2Proof

/-- The changes of an edge besides the time counter's: registers, the power controller but for the counter's fraction, resets, ports and keys. -/
def Act.ofEdge : Act → Prop
  | .reg _ _ | .free | .port _ _ | .rst _ | .nrt _ | .key _ _ => True
  | .pwr f => ∀ p, (f p).frac = p.frac
  | _ => False

theorem onHubCounters_ofEdge : OnHubCounters Act.ofEdge := fun _ _ _ => trivial

theorem acts_measure (i : Nat) (item : List Byte) : Acts Act.ofEdge (measure i item) :=
  acts_bind (acts_look _) (fun _ => acts_bind (acts_for _ (fun _ _ => acts_setReg trivial)) (fun _ => acts_pure _))

theorem acts_modRst_edge (f : Rst → Rst) : Acts Act.ofEdge (modRst f) := acts_act trivial

theorem acts_optionCommit (x : OptLoad) : Acts Act.ofEdge (optionCommit x) := by
  have set : ∀ off v, Acts Act.ofEdge (setReg off v) := fun _ _ => acts_setReg trivial
  refine acts_bind (acts_setFld (fun _ => trivial)) (fun _ => acts_ite (fun _ => ?_) (fun _ => ?_)) <;>
    exact acts_bind (set _ _) (fun _ => acts_bind (set _ _) (fun _ => acts_bind (set _ _) (fun _ => acts_bind (acts_modRst_edge _) (fun _ => acts_measure _ _))))

theorem acts_optionStep : Acts Act.ofEdge optionStep := by
  have put : ∀ x, Acts Act.ofEdge (optPut x) := fun _ => acts_modRst_edge _
  have fld : ∀ f v, Acts Act.ofEdge (setFld f v) := fun _ _ => acts_setFld (fun _ => trivial)
  refine acts_bind (acts_look _) (fun o => ?_)
  cases o with
  | none => exact acts_pure _
  | some x =>
    dsimp only
    cases x.st with
    | readA => exact acts_bind (acts_look _) (fun _ => put _)
    | checkA => exact acts_bind (acts_look _) (fun _ => acts_bind (fld _ _) (fun _ => put _))
    | readB => exact acts_bind (acts_look _) (fun _ => put _)
    | checkB => exact acts_bind (acts_look _) (fun _ => acts_bind (fld _ _) (fun _ => put _))
    | select => exact put _
    | commit => exact acts_bind (acts_optionCommit _) (fun _ => acts_bind (acts_modRst_edge _) (fun _ => fld _ _))

theorem acts_bump_edge (lo n : Nat) : Acts Act.ofEdge (bump lo n) := acts_bump (fun _ => trivial) (fun _ => trivial)
theorem acts_modPort_edge (n : Nat) (f : Port → Port) : Acts Act.ofEdge (modPort n f) := acts_act trivial

theorem acts_waitEdge : Acts Act.ofEdge waitEdge :=
  acts_bind (acts_look _) (fun _ => acts_bind (acts_look _) (fun _ => acts_bind (acts_look _) (fun _ => acts_bind (acts_look _) (fun _ =>
    acts_bind (acts_bump_edge _ _) (fun _ => acts_bind (acts_bump_edge _ _) (fun _ => acts_bind (acts_bump_edge _ _) (fun _ => acts_bump_edge _ _)))))))

theorem acts_portEdge (n : Nat) : Acts Act.ofEdge (portEdge n) :=
  acts_bind (acts_getFld _) (fun _ => acts_bind (acts_look _) (fun _ => acts_bind (acts_bump_edge _ _) (fun _ => acts_bind (acts_bump_edge _ _) (fun _ =>
    acts_bind (acts_look _) (fun _ => acts_bind (acts_getFld _) (fun _ => acts_bind (acts_getFld _) (fun _ => acts_bind (acts_getFld _) (fun _ =>
      acts_when (fun _ => acts_modPort_edge _ _)))))))))

theorem acts_cycleEdge : Acts Act.ofEdge cycleEdge := by
  have tile : ∀ n ev amount pc slate priv, Acts Act.ofEdge (pmuTile n ev amount pc slate priv) := fun _ _ _ _ _ _ => acts_pmuTile (fun _ _ _ _ _ => trivial)
  refine acts_bind (acts_look _) (fun on => acts_bind (acts_forIn _ _ (fun n _ _ => ?_)) (fun _ => ?_))
  · exact acts_bind (acts_look _) (fun _ => acts_bind (acts_getFld _) (fun _ => acts_bind (acts_getFld _) (fun _ => acts_bind (acts_look _) (fun _ =>
      acts_bind (acts_look _) (fun _ => acts_bind (tile _ _ _ _ _ _) (fun _ => acts_when_then (fun _ => tile _ _ _ _ _ _) (fun _ =>
        acts_when_then (fun _ => tile _ _ _ _ _ _) (fun _ => acts_pure _))))))))
  · exact acts_bind (acts_look _) (fun _ => acts_bind (acts_look _) (fun _ =>
      acts_when_then (fun _ => acts_pmuHub onHubCounters_ofEdge) (fun _ => acts_when (fun _ => acts_pmuUpd onHubCounters_ofEdge))))

/-- The microsecond taken off the count, and the groups whose rise is over. -/
theorem acts_microEnd (left : List (Nat × Nat × Nat)) : Acts Act.ofEdge (act (.pwr (fun p => { p with usNs := p.usNs - 1000, levels := left }))) :=
  acts_act (fun _ => rfl)

theorem acts_microEdge : Acts Act.ofEdge microEdge := by
  have bump := acts_bump_edge
  have tail : Acts Act.ofEdge (do
      waitEdge
      cycleEdge
      for n in List.range 9 do portEdge n
      let left ← look (fun s => s.pwr.levels.filter s.rising)
      act (.pwr (fun p => { p with usNs := p.usNs - 1000, levels := left }))) :=
    acts_bind acts_waitEdge (fun _ => acts_bind acts_cycleEdge (fun _ => acts_bind (acts_for _ (fun n _ => acts_portEdge n)) (fun _ =>
      acts_bind (acts_look _) (fun _ => acts_microEnd _))))
  exact acts_bind (acts_getFld _) (fun _ => acts_bind (acts_getFld _) (fun _ => acts_bind (acts_look _) (fun _ => acts_bind (acts_look _) (fun _ =>
    acts_bind (bump _ _) (fun _ => acts_bind (bump _ _) (fun _ => acts_bind (bump _ _) (fun _ =>
      acts_ite (fun _ => acts_bind (acts_freeValue trivial) (fun _ => acts_bind (bump _ _) (fun _ => tail))) (fun _ => tail))))))))

theorem acts_stageEdge : Acts Act.ofEdge stageEdge :=
  acts_bind (acts_look _) (fun _ => acts_when (fun _ => acts_bind (acts_for _ (fun _ _ => acts_modPort_edge _ _)) (fun _ => acts_pure _)))

theorem acts_installKey_edge (i : Nat) : Acts Act.ofEdge (installKey i) :=
  acts_bind (acts_look _) (fun _ => acts_bind (acts_look _) (fun _ => acts_ite (fun _ => acts_setBit (fun _ => trivial))
    (fun _ => acts_bind (acts_act trivial) (fun _ => acts_bind (acts_getFld _) (fun _ => acts_setReg trivial)))))

theorem acts_reinstallKeys : Acts Act.ofEdge reinstallKeys := by
  refine acts_bind (acts_look _) (fun _ => acts_bind (acts_look _) (fun _ => acts_when (fun _ => acts_bind (acts_act trivial) (fun _ =>
    acts_bind (acts_look _) (fun _ => acts_bind (acts_forIn _ _ (fun r _ _ => ?_)) (fun _ => acts_pure _))))))
  refine acts_bind (acts_look _) (fun _ => acts_ite (fun _ => ?_) (fun _ => acts_pure _))
  exact acts_bind (acts_for _ (fun _ _ => acts_setReg trivial)) (fun _ => acts_bind (acts_setFld (fun _ => trivial)) (fun _ =>
    acts_bind (acts_installKey_edge _) (fun _ => acts_pure _)))

theorem Act.ofEdge.keeps {a : Act} (h : a.ofEdge) (s : State) : (a.apply s).time = s.time ∧ (a.apply s).pwr.frac = s.pwr.frac ∧ (a.apply s).mem = s.mem ∧
    (a.apply s).undef = s.undef ∧ (a.apply s).tiles = s.tiles ∧ (a.apply s).out = s.out ∧ (a.apply s).events = s.events := by
  cases a with
  | pwr f => exact ⟨rfl, h s.pwr, rfl, rfl, rfl, rfl, rfl⟩
  | reg _ _ | free | port _ _ | rst _ | nrt _ | key _ _ => simp
  | _ => exact h.elim

/-- The parts that an edge leaves alone besides the time counter. -/
theorem Ran.edge_keeps {s t : State} (r : Ran Act.ofEdge s t) :
    t.time = s.time ∧ t.pwr.frac = s.pwr.frac ∧ t.mem = s.mem ∧ t.undef = s.undef ∧ t.tiles = s.tiles ∧ t.out = s.out ∧ t.events = s.events := by
  induction r with
  | refl s => exact ⟨rfl, rfl, rfl, rfl, rfl, rfl, rfl⟩
  | step ha _ ih =>
    obtain ⟨h1, h2, h3, h4, h5, h6, h7⟩ := ha.keeps _
    obtain ⟨k1, k2, k3, k4, k5, k6, k7⟩ := ih
    exact ⟨k1.trans h1, k2.trans h2, k3.trans h3, k4.trans h4, k5.trans h5, k6.trans h6, k7.trans h7⟩

/-- The parts of 10^9 of a nanosecond that are due at an edge. -/
def State.edgeTotal (s : State) : Nat :=
  s.pwr.frac + (if s.pwr.neg = 0 then (40 * (1000000000 + s.trim)).toNat else (40 * (1000000000 + s.trim)).toNat / 2)

theorem post_timeEdge (s : State) : Post timeEdge s (fun _ t => t.time = (s.time + s.edgeTotal / 1000000000) % 2 ^ 64 ∧ t.pwr.frac = s.edgeTotal % 1000000000 ∧
    t.mem = s.mem ∧ t.undef = s.undef ∧ t.tiles = s.tiles ∧ t.out = s.out ∧ t.events = s.events) := by
  refine post_bind (post_look (post_bind (post_look (post_bind (post_look (post_bind (post_act (post_act ?_))))))))
  simp only [apply_pwr_time, apply_time_time, apply_pwr_pwr, State.edgeTotal, apply_pwr_mem, apply_time_mem, apply_pwr_undef, apply_time_undef, apply_pwr_tiles,
    apply_time_tiles, apply_pwr_out, apply_time_out, apply_pwr_events, apply_time_events, and_self]

/-- Untrimmed and unstepped, an edge is the 40 ns of a reference period, and the fraction stands. -/
theorem edgeTotal_untrimmed {s : State} (htrim : s.trim = 0) (hneg : s.pwr.neg = 0) (hfrac : s.pwr.frac < 1000000000) :
    s.edgeTotal / 1000000000 = 40 ∧ s.edgeTotal % 1000000000 = s.pwr.frac := by
  rw [State.edgeTotal, htrim, if_pos hneg, Int.add_zero]
  generalize s.pwr.frac = x at hfrac
  have hfull : (40 * (1000000000 : Int)).toNat = 40 * 1000000000 := rfl
  omega

/-- Settles O2: an unpowered edge looks at the power alone; a powered one moves the time counter, and what follows changes none of the parts named. -/
theorem emptyQueueTicks : Obligations.EmptyQueueTicks := by
  intro s hs
  have hstep : step s = M.next tick s := by rw [step, hs]
  rw [hstep]
  constructor
  · intro hoff
    exact Does.next (does_bind (does_look _ s) (does_if_neg (by rw [hoff]; simp) (does_pure _ _)))
  · intro hon htrim hneg hfrac
    have rest : Acts Act.ofEdge (do
        optionStep
        pmuHub 0x01 48 none none none none
        pmuUpd 0x01 48
        let us ← look (·.pwr.usNs)
        if 1000 ≤ us then microEdge
        stageEdge
        reinstallKeys) :=
      acts_bind acts_optionStep (fun _ => acts_bind (acts_pmuHub onHubCounters_ofEdge) (fun _ => acts_bind (acts_pmuUpd onHubCounters_ofEdge) (fun _ =>
        acts_bind (acts_look _) (fun _ => acts_when_then (fun _ => acts_microEdge) (fun _ => acts_bind acts_stageEdge (fun _ => acts_reinstallKeys))))))
    obtain ⟨_, u, hu, htime, hfr, hmem, hundef, htiles, hout, hev⟩ := post_timeEdge s
    obtain ⟨hns, hrest⟩ := edgeTotal_untrimmed htrim hneg hfrac
    rw [hns] at htime
    rw [hrest] at hfr
    obtain ⟨_, t, ht, hran⟩ := rest u
    obtain ⟨ktime, kfr, kmem, kundef, ktiles, kout, kev⟩ := hran.edge_keeps
    refine ⟨t, Does.next (does_bind (does_look _ s) (does_if_pos hon (does_bind hu ht))), ktime.trans htime, kfr.trans hfr, kmem.trans hmem, kundef.trans hundef,
      ktiles.trans htiles, kout.trans hout, kev.trans hev⟩

end Sys2Proof.Machine
end

section
/-! Writes of registers by the rules of their fields (R8 to R14). -/

namespace Sys2Proof.Machine

open Sys2Proof

/-! Where a write of a register leads. -/

theorem arrIdx_eq_some {off base stride n k : Nat} (hs : 0 < stride) : arrIdx off base stride n = some k ↔ off = base + stride * k ∧ k < n := by
  rw [arrIdx]
  constructor
  · intro h
    split at h
    · rename_i hc
      obtain ⟨hb, hm, hd⟩ := hc
      rw [← Option.some.inj h]
      refine ⟨?_, hd⟩
      have := Nat.div_add_mod (off - base) stride
      omega
    · cases h
  · rintro ⟨rfl, hk⟩
    rw [if_pos ⟨by omega, by simp, by simpa [hs] using hk⟩]
    simp [hs]

theorem arrIdx_eq_none {off base stride n : Nat} (hs : 0 < stride) (h : ∀ k < n, off ≠ base + stride * k) : arrIdx off base stride n = none := by
  cases hk : arrIdx off base stride n with
  | none => rfl
  | some k =>
    obtain ⟨ho, hlt⟩ := (arrIdx_eq_some hs).mp hk
    exact absurd ho (h k hlt)

/-- What it is for a register to have no effect of its own: it is none of those listed, nor of the arrays. -/
theorem ownEffect_eq_false {off : Nat} : ownEffect off = false ↔
    off ∉ [Reg.IDENT_SURVEY, Reg.RSTC_CTRL, Reg.RSTC_BLOCK, Reg.RSTC_STAGE_WDOG, Reg.PWRM_CTRL, Reg.PWRM_FRAC, Reg.PWRM_CAP, Reg.CLKG_STEP, Reg.CLKG_MATCH,
      Reg.NRT_CTRL, Reg.NRT_FLOW_SEL, Reg.KEYT_CMD, Reg.REEL_CTRL, Reg.COLL_CTRL, Reg.UPDT_CTRL, Reg.UPDT_GROUP_CTL, Reg.PMON_BW_CTRL, Reg.RAS_SWAP] ∧
    ¬(0xC00000 ≤ off ∧ off < 0xD00000) ∧
    (∀ n < 9, (off ≠ Reg.MAC_CTRL n ∧ off ≠ Reg.DLY_CTRL n ∧ off ≠ Reg.FN_CTRL n ∧ off ≠ Reg.EVR_HEAD n) ∧
      ∀ q < 4, off ≠ Reg.SQ_DB n q ∧ off ≠ Reg.CQ_DB n q) ∧
    (∀ l < 6, off ≠ Reg.CRAXIS_LINK_CFG l) ∧
    (∀ n < 64, off ≠ Reg.PMON_HUB_FILT n) ∧
    (0x10000000 ≤ off → (off % 0x10000 ≠ Reg.TILE_SEQ_CTRL 0 % 0x10000 ∧ off % 0x10000 ≠ Reg.TILE_SMP_CTRL 0 % 0x10000) ∧
      ∀ i < 8, off % 0x10000 ≠ Reg.TILE_SEQ_EC 0 i % 0x10000) := by
  simp only [ownEffect, Bool.or_eq_false_iff, Bool.and_eq_false_imp, decide_eq_true_eq, decide_eq_false_iff_not, List.any_eq_false, List.mem_range, Bool.or_eq_true,
    List.any_eq_true, List.contains_eq_mem, not_or, not_exists, not_and, and_assoc]

theorem tileStore_of_plain {off : Nat} (h : ownEffect off = false) (hoff : 0x10000000 ≤ off) (m v : Nat) :
    tileStore m ((off - 0x10000000) / 0x10000) off v = regWrite m off v := by
  obtain ⟨-, -, -, -, -, htile⟩ := ownEffect_eq_false.mp h
  obtain ⟨⟨hseq, hsmp⟩, hec⟩ := htile hoff
  simp only [Reg.TILE_SEQ_CTRL, Reg.TILE_SMP_CTRL, Reg.TILE_SEQ_EC] at hseq hsmp hec
  have hnone : arrIdx off (Reg.TILE_SEQ_EC ((off - 0x10000000) / 0x10000) 0) 4 8 = none := by
    refine arrIdx_eq_none (by omega) (fun k hk => ?_)
    have := hec k hk
    rw [Reg.TILE_SEQ_EC]
    omega
  unfold tileStore
  rw [if_neg (by rw [Reg.TILE_SEQ_CTRL]; omega), if_neg (by rw [Reg.TILE_SMP_CTRL]; omega), hnone]

theorem fnStore_of_plain {off : Nat} (h : ownEffect off = false) (hlo : 0x101000 ≤ off) (hhi : off < 0x10A000) (m v : Nat) :
    fnStore m ((off - 0x101000) / 0x1000) (off % 0x1000) off v = regWrite m off v := by
  obtain ⟨-, -, hfn, -, -, -⟩ := ownEffect_eq_false.mp h
  obtain ⟨⟨-, -, hctrl, hhead⟩, hring⟩ := hfn ((off - 0x101000) / 0x1000) (by omega)
  simp only [Reg.FN_CTRL, Reg.EVR_HEAD, Reg.SQ_DB, Reg.CQ_DB] at hctrl hhead hring
  have hsq : arrIdx (off % 0x1000) 0x94 32 4 = none := arrIdx_eq_none (by omega) (fun k hk => by have := (hring k hk).1; omega)
  have hcq : arrIdx (off % 0x1000) 0x98 32 4 = none := arrIdx_eq_none (by omega) (fun k hk => by have := (hring k hk).2; omega)
  unfold fnStore
  rw [if_neg (by omega), if_neg (by omega), hsq, hcq]

theorem engineStore_of_plain {off : Nat} (h : ownEffect off = false) (m v : Nat) : engineStore m off v = regWrite m off v := by
  obtain ⟨hone, htele, hfn, hcfg, hfilt, -⟩ := ownEffect_eq_false.mp h
  simp only [List.mem_cons, List.not_mem_nil, or_false, not_or] at hone
  have hmac : arrIdx off (Reg.MAC_CTRL 0) 0x10000 9 = none := arrIdx_eq_none (by omega) (fun k hk => by
    have := (hfn k hk).1.1
    unfold Reg.MAC_CTRL at this ⊢
    rw [Nat.mul_comm k] at this
    simpa using this)
  have hdly : arrIdx off (Reg.DLY_CTRL 0) 32 9 = none := arrIdx_eq_none (by omega) (fun k hk => by
    have := (hfn k hk).1.2.1
    rw [Reg.DLY_CTRL] at this ⊢
    omega)
  have hlink : arrIdx off (Reg.CRAXIS_LINK_CFG 0) 4 6 = none := arrIdx_eq_none (by omega) (fun k hk => by
    have := hcfg k hk
    rw [Reg.CRAXIS_LINK_CFG] at this ⊢
    omega)
  have hhub : arrIdx off (Reg.PMON_HUB_FILT 0) 16 64 = none := arrIdx_eq_none (by omega) (fun k hk => by
    have := hfilt k hk
    rw [Reg.PMON_HUB_FILT] at this ⊢
    omega)
  unfold engineStore
  simp only [hone, htele, if_false, hmac, hlink, hhub, hdly]

theorem coreStore_of_plain {off : Nat} (h : ownEffect off = false) (m v : Nat) : coreStore m off v = regWrite m off v := by
  obtain ⟨hone, -⟩ := ownEffect_eq_false.mp h
  simp only [List.mem_cons, List.not_mem_nil, or_false, not_or] at hone
  unfold coreStore
  simp only [hone, if_false]

/-- A write of a register without an effect of its own is that of its fields. -/
theorem regStore_of_plain {off : Nat} (h : ownEffect off = false) (m v : Nat) : regStore m off v = regWrite m off v := by
  unfold regStore
  split
  · exact tileStore_of_plain h ‹_› m v
  · split
    · exact coreStore_of_plain h m v
    · split
      · exact fnStore_of_plain h (by omega) ‹_› m v
      · exact engineStore_of_plain h m v

/-- A whole aligned word written at a place that is a register. -/
theorem exec_registerWrite {s : State} {m off : Nat} (v : Nat) (hal : off % 4 = 0) (hp : s.place m off true = .reg off) :
    exec (.registerWrite m off v) s = M.next (regStore m off v) s := by
  show M.next (if off % 4 = 0 then csrWrite m off v else pure ()) s = _
  rw [if_pos hal]
  show Host.Outcome.next (Prog.run ((match s.place m off true with
    | .reg o => regStore m o v
    | .table f w => msixWrite f w v
    | .recovery o => recoveryStore o v
    | .pendingBits _ _ | .silent => pure ()
    | .none => raise Ev.unmappedAccess (masterSrc m) off 0) fun _ => .done) s) = _
  rw [hp]
  rfl

theorem regWrite_plain {off : Nat} {h : RegHit} (hf : findReg off = some h) (hk : h.spec.kind = .plain) (m v : Nat) :
    regWrite m off v = byMaster m off (commitReg m h off v) := by
  unfold regWrite
  simp only [hf, hk]

theorem regWrite_lo {off : Nat} {h : RegHit} (hf : findReg off = some h) (hk : h.spec.kind = .lo) (m v : Nat) :
    regWrite m off v = byMaster m off (act (.hold (masterKey m off) (some (BitVec.ofNat 32 v)))) := by
  unfold regWrite
  simp only [hf, hk]

/-- A write that keeper firmware is not barred from. -/
theorem byMaster_of_mayWrite {m off : Nat} (h : mayWrite m off = true) (w : M Unit) : byMaster m off w = w := by
  rw [byMaster, if_neg]
  rintro ⟨rfl, hk⟩
  rw [mayWrite, hk] at h
  simp at h

theorem byMaster_of_barred {m off : Nat} (h : mayWrite m off = false) (w : M Unit) : byMaster m off w = raise Ev.csrPrivilege (masterSrc m) off 0 := by
  rw [byMaster, if_pos]
  simpa [mayWrite] using h

/-- A write of a plain register without an effect of its own commits its word, or is barred. -/
theorem exec_registerWrite_plain {s : State} {m off : Nat} (v : Nat) {h : RegHit} (hf : findReg off = some h) (hk : h.spec.kind = .plain) (ho : ownEffect off = false)
    (hp : s.place m off true = .reg off) : exec (.registerWrite m off v) s = M.next (byMaster m off (commitReg m h off v)) s := by
  rw [exec_registerWrite v (findReg_aligned hf) hp, regStore_of_plain ho, regWrite_plain hf hk]

/-! What the rules of the fields make of a word (R8, R11, R13). -/

theorem RegSpec.write_eq (r : RegSpec) (m : Nat) (run : Bool) (old new : Nat) : r.write m run old new =
    ⟨pack (fun f => (f.write m run (f.part old) (f.part new)).value) r.fields, r.fields.any (fun f => (f.write m run (f.part old) (f.part new)).privilege),
      r.fields.any (fun f => (f.write m run (f.part old) (f.part new)).whileRunning)⟩ := by
  have hgen : ∀ (l : List FieldSpec) (a : FieldWrite), l.foldl (fun a f =>
      ⟨a.value + (f.write m run (f.part old) (f.part new)).value * 2 ^ f.lo, a.privilege || (f.write m run (f.part old) (f.part new)).privilege,
        a.whileRunning || (f.write m run (f.part old) (f.part new)).whileRunning⟩) a =
      ⟨a.value + pack (fun f => (f.write m run (f.part old) (f.part new)).value) l, a.privilege || l.any (fun f => (f.write m run (f.part old) (f.part new)).privilege),
        a.whileRunning || l.any (fun f => (f.write m run (f.part old) (f.part new)).whileRunning)⟩ := by
    intro l
    induction l with
    | nil => intro a; simp [pack]
    | cons f t ih => intro a; rw [List.foldl_cons, ih]; simp [pack_cons, Nat.add_assoc, Bool.or_assoc]
  exact (hgen r.fields ⟨0, false, false⟩).trans (by simp)

theorem RegSpec.applyShadow_eq (r : RegSpec) (old shadow : Nat) :
    r.applyShadow old shadow = pack (fun f => if f.ty = .rws then f.part shadow else f.part old) r.fields := by
  have hgen : ∀ (l : List FieldSpec) (a : Nat), l.foldl (fun a f => a + (if f.ty = .rws then f.part shadow else f.part old) * 2 ^ f.lo) a =
      a + pack (fun f => if f.ty = .rws then f.part shadow else f.part old) l := by
    intro l
    induction l with
    | nil => intro a; simp [pack]
    | cons f t ih => intro a; rw [List.foldl_cons, ih]; simp [pack_cons, Nat.add_assoc]
  exact (hgen r.fields 0).trans (Nat.zero_add _)

/-- What a field becomes fits it. -/
theorem FieldSpec.write_lt {f : FieldSpec} (hw : 0 < f.width) (m : Nat) (run : Bool) (old new : Nat) :
    (f.write m run (f.part old) (f.part new)).value < 2 ^ f.width := by
  have hold := f.part_lt hw old
  have hnew := f.part_lt hw new
  unfold FieldSpec.write
  cases f.ty with
  | ro | rws => exact hold
  | wo => exact Nat.two_pow_pos _
  | w1c => exact (Nat.sub_le _ _).trans_lt hold
  | w1a => dsimp only; split; exact Nat.two_pow_pos _; exact hold
  | rw => dsimp only; split <;> assumption
  | rwl => dsimp only; split; exact hold; split <;> assumption

theorem FieldSpec.part_ofNat {f : FieldSpec} (hw : 0 < f.width) (h32 : f.lo + f.width ≤ 32) (x : Nat) : f.part (BitVec.ofNat 32 x).toNat = f.part x := by
  apply Nat.eq_of_testBit_eq
  intro i
  rw [FieldSpec.testBit_part hw, FieldSpec.testBit_part hw, BitVec.toNat_ofNat, Nat.testBit_mod_two_pow]
  by_cases hi : i < f.width
  · simp [hi, show f.lo + i < 32 by omega]
  · simp [hi]

end Sys2Proof.Machine
end

section
/-! Events as they are raised, and registers by what reads and writes them. -/

namespace Sys2Proof.Machine

open Sys2Proof

/-! Registers after a write. -/

theorem State.Inv.reg_apply_reg {s : State} (h : s.Inv) (off : Nat) (v : W32) (o : Nat) :
    ((Act.reg off v).apply s).reg o = if o = off then v &&& BitVec.ofNat 32 (implMask off) else s.reg o :=
  Store.get_set regReset off o _ h.regs

theorem State.Inv.reg_apply_reg_same {s : State} (h : s.Inv) (off : Nat) (v : W32) :
    ((Act.reg off v).apply s).reg off = v &&& BitVec.ofNat 32 (implMask off) := by rw [h.reg_apply_reg, if_pos rfl]

theorem State.Inv.reg_apply_reg_other {s : State} (h : s.Inv) {off o : Nat} (v : W32) (ho : o ≠ off) : ((Act.reg off v).apply s).reg o = s.reg o := by
  rw [h.reg_apply_reg, if_neg ho]

/-- A word written is what the register then holds, where it has no reserved bits. -/
theorem State.Inv.reg_apply_reg_implemented {s : State} (h : s.Inv) {off : Nat} {v : W32} (hv : Implemented off v) : ((Act.reg off v).apply s).reg off = v := by
  rw [h.reg_apply_reg_same, hv]

/-- A register that counts neither events lost nor occurrences. -/
def quiet (o : Nat) : Bool := !pmonCounter o && decide (o ≠ Reg.RAS_COUNT_LO 8) && decide (o ≠ Reg.RAS_COUNT_LO 8 + 4)

theorem quiet_iff {o : Nat} : quiet o = true ↔ pmonCounter o = false ∧ o ≠ Reg.RAS_COUNT_LO 8 ∧ o ≠ Reg.RAS_COUNT_LO 8 + 4 := by
  simp [quiet, and_assoc]

/-- An event leaves every register but the count of lost records. -/
theorem addEvent_reg {s : State} (h : s.Inv) (e : Event) {o : Nat} (ho : quiet o = true) : (addEvent s e).reg o = s.reg o := by
  obtain ⟨-, hlo, hhi⟩ := quiet_iff.mp ho
  unfold addEvent
  dsimp only
  split
  · rfl
  · exact (Store.get_set_other _ _ (Store.wf_set _ _ _ h.regs) hhi).trans (Store.get_set_other _ _ h.regs hlo)

/-! Records that join the waiting ones. -/

/-- From one state to another these records have joined the event buffer. -/
def Adds (s t : State) (l : List Event) : Prop := t.events = s.events ++ l

theorem Adds.of_eq {s t : State} (h : t.events = s.events) : Adds s t [] := by rw [Adds, h, List.append_nil]

theorem Adds.trans {s t u : State} {l k : List Event} (h : Adds s t l) (g : Adds t u k) : Adds s u (l ++ k) := by
  rw [Adds, g, h, List.append_assoc]

theorem Adds.drop {s t : State} {l : List Event} (h : Adds s t l) : t.events.drop s.events.length = l := by rw [h, List.drop_left]

theorem Adds.length {s t : State} {l : List Event} (h : Adds s t l) : t.events.length = s.events.length + l.length := by rw [h, List.length_append]

/-- The record of an event as it is told of. -/
def Event.tells (x : Event) (e : Ev) (src : Nat × Nat) (detail : Nat) : Prop := x.code = e.code ∧ (x.kind, x.index) = src ∧ x.detail = detail % 2 ^ 80

theorem Adds.told {s t : State} {l : List Event} (h : Adds s t l) {e : Ev} {src : Nat × Nat} {detail : Nat}
    (hx : s.events.length + 16 ≤ 4096 → ∃ x ∈ l, x.tells e src detail) : s.Told t e src detail := fun hroom => by
  rw [h.drop]
  exact hx hroom

/-- The changes of an event raised: its record, and the hub's counters. -/
def Act.ofRaise : Act → Prop
  | .event _ => True
  | .reg off _ => pmonCounter off = true
  | _ => False

/-- The changes of the hub's counters alone. -/
def Act.ofCount : Act → Prop
  | .reg off _ => pmonCounter off = true
  | _ => False

theorem onHubCounters_ofCount : OnHubCounters Act.ofCount := fun _ _ h => h

theorem Act.ofCount.keeps_events {a : Act} (h : a.ofCount) (s : State) : (a.apply s).events = s.events := by
  cases a with
  | reg _ _ => rfl
  | _ => exact h.elim

/-- Raising an event: its record is the one that joins, where there is room. -/
theorem post_raiseEvent (s : State) (e : Event) : Post (raiseEvent e) s (fun _ t => Ran Act.ofRaise s t ∧ ∃ l, Adds s t l ∧ l.length ≤ 1 ∧
    (s.events.length < 4096 → l = [{ e with seq := s.evSeq % 256, time := s.time }]) ∧ ∀ x ∈ l, x.code = e.code) := by
  refine post_bind (post_act ?_)
  refine (acts_pmuHub onHubCounters_ofCount _).mono (fun _ t r => ⟨.step (a := .event e) trivial (r.mono ?_), ?_⟩)
  · intro a ha
    cases a with
    | reg _ _ => exact ha
    | _ => exact ha.elim
  · have hev : t.events = (addEvent s e).events := r.keeps (f := State.events) (fun _ s ha => ha.keeps_events s)
    by_cases hroom : s.events.length < 4096
    · refine ⟨[{ e with seq := s.evSeq % 256, time := s.time }], hev.trans (addEvent_events s e hroom), Nat.le_refl _, fun _ => rfl, ?_⟩
      intro x hx
      rw [List.mem_singleton.mp hx]
    · refine ⟨[], Adds.of_eq (hev.trans ?_), Nat.zero_le _, fun h => absurd h hroom, fun x hx => by cases hx⟩
      unfold addEvent
      dsimp only
      rw [if_neg hroom]

theorem post_raise (s : State) (e : Ev) (src : Nat × Nat) (detail slate : Nat) : Post (raise e src detail slate) s (fun _ t => Ran Act.ofRaise s t ∧
    ∃ l, Adds s t l ∧ l.length ≤ 1 ∧ (s.events.length < 4096 → ∃ x ∈ l, x.tells e src detail) ∧ ∀ x ∈ l, x.code = e.code) := by
  refine (post_raiseEvent s (evOf e src detail slate)).mono (fun _ t ⟨r, l, hadds, hlen, hone, hcode⟩ => ⟨r, l, hadds, hlen, fun hroom => ?_, hcode⟩)
  rw [hone hroom]
  exact ⟨_, List.mem_singleton_self _, rfl, rfl, rfl⟩

/-- What an event raised leaves: every part but the records, and every quiet register. -/
theorem Act.ofRaise.keeps_reg {a : Act} (h : a.ofRaise) {s : State} (hs : s.Inv) {o : Nat} (ho : quiet o = true) : (a.apply s).reg o = s.reg o := by
  cases a with
  | event e => exact addEvent_reg hs e ho
  | reg off v =>
    refine hs.reg_apply_reg_other v (fun heq => ?_)
    obtain ⟨hp, -⟩ := quiet_iff.mp ho
    rw [heq, (h : pmonCounter off = true)] at hp
    cases hp
  | _ => exact h.elim

theorem Ran.raise_reg {s t : State} (r : Ran Act.ofRaise s t) (hs : s.Inv) {o : Nat} (ho : quiet o = true) : t.reg o = s.reg o := by
  induction r with
  | refl s => rfl
  | step ha _ ih => exact (ih (Act.apply_inv _ _ hs)).trans (ha.keeps_reg hs ho)

end Sys2Proof.Machine
end

section
/-! The commit of a register's word (R8, R11 to R13): what each field becomes, what is told, and what it leaves. -/

namespace Sys2Proof.Machine

open Sys2Proof

/-- A conditional piece and what follows it. -/
theorem does_when_then {β : Type} {c : Prop} [Decidable c] {m : M Unit} {r : Unit → M β} {s t u : State} {b : β}
    (h : Does (if c then m else pure ()) s () t) (g : Does (r ()) t b u) : Does (if c then m >>= r else r ()) s b u := by
  by_cases hc : c
  · rw [if_pos hc] at h ⊢
    exact does_bind h g
  · rw [if_neg hc] at h ⊢
    rwa [show t = s from (h (fun _ => .done)).symm] at g

theorem does_when_not {c : Prop} [Decidable c] {m : M Unit} (hc : ¬c) (s : State) : Does (if c then m else pure ()) s () s := by
  rw [if_neg hc]
  exact does_pure _ _

theorem post_when_then {β : Type} {c : Prop} [Decidable c] {m : M Unit} {r : Unit → M β} {s : State} {Q : β → State → Prop}
    (h : Post (if c then m else pure ()) s (fun _ t => Post (r ()) t Q)) : Post (if c then m >>= r else r ()) s Q := by
  obtain ⟨_, t, hd, b, u, he, hq⟩ := h
  exact ⟨b, u, does_when_then hd he, hq⟩

/-- An event raised on a condition. -/
theorem post_raise_when (c : Bool) (s : State) (e : Ev) (src : Nat × Nat) (detail slate : Nat) : Post (if c = true then raise e src detail slate else pure ()) s (fun _ t =>
    Ran Act.ofRaise s t ∧ ∃ l, Adds s t l ∧ l.length ≤ 1 ∧ (c = true → s.events.length < 4096 → ∃ x ∈ l, x.tells e src detail) ∧
      (∀ x ∈ l, x.code = e.code) ∧ (c = false → l = [])) := by
  cases c with
  | true => exact (post_raise s e src detail slate).mono (fun _ t ⟨r, l, hadds, hlen, htold, hcode⟩ => ⟨r, l, hadds, hlen, fun _ => htold, hcode, by simp⟩)
  | false => exact post_pure ⟨.refl s, [], Adds.of_eq rfl, by simp, by simp, by simp, fun _ => rfl⟩

/-- The changes of a commit at an offset. -/
def Act.ofCommit (off : Nat) : Act → Prop
  | .event _ => True
  | .reg o _ => pmonCounter o = true ∨ o = off
  | .shadow o _ => o = off
  | _ => False

theorem Act.ofRaise.ofCommit {off : Nat} {a : Act} (h : a.ofRaise) : a.ofCommit off := by
  cases a with
  | event _ => trivial
  | reg _ _ => exact .inl h
  | _ => exact h.elim

theorem Act.ofCommit.keeps_reg {off : Nat} {a : Act} (h : a.ofCommit off) {s : State} (hs : s.Inv) {o : Nat} (ho : quiet o = true) (hne : o ≠ off) :
    (a.apply s).reg o = s.reg o := by
  cases a with
  | reg k v =>
    rcases h with hp | hk
    · exact Act.ofRaise.keeps_reg (a := .reg k v) hp hs ho
    · exact hs.reg_apply_reg_other v (fun heq => hne (heq.trans hk))
  | event e => exact addEvent_reg hs e ho
  | shadow _ _ => rfl
  | _ => exact h.elim

theorem Ran.commit_reg {off : Nat} {s t : State} (r : Ran (Act.ofCommit off) s t) (hs : s.Inv) {o : Nat} (ho : quiet o = true) (hne : o ≠ off) : t.reg o = s.reg o := by
  induction r with
  | refl s => rfl
  | step ha _ ih => exact (ih (Act.apply_inv _ _ hs)).trans (ha.keeps_reg hs ho hne)

theorem Act.ofRaise.changes {a : Act} (h : a.ofRaise) : a.kind.changes ⊆ [.registers, .events] := by
  cases a with
  | event _ => simp [Act.kind, ActKind.changes]
  | reg _ _ => simp [Act.kind, ActKind.changes]
  | _ => exact h.elim

/-- Raising an event leaves every part but the registers and the records. -/
theorem Ran.raise_stands {s t : State} (r : Ran Act.ofRaise s t) (p : StatePart) (hp : p ∉ [StatePart.registers, .events]) : p.stands s t :=
  r.stands p (fun _ ha hmem => hp (ha.changes hmem))

theorem Act.ofCommit.changes {off : Nat} {a : Act} (h : a.ofCommit off) : a.kind.changes ⊆ [.registers, .shadows, .events] := by
  cases a with
  | event _ => simp [Act.kind, ActKind.changes]
  | reg _ _ => simp [Act.kind, ActKind.changes]
  | shadow _ _ => simp [Act.kind, ActKind.changes]
  | _ => exact h.elim

theorem Ran.commit_stands {off : Nat} {s t : State} (r : Ran (Act.ofCommit off) s t) (p : StatePart) (hp : p ∉ [StatePart.registers, .shadows, .events]) : p.stands s t :=
  r.stands p (fun _ ha hmem => hp (ha.changes hmem))

/-- Whether a block is idle turns on its tile or the job. -/
theorem blockIdle_congr {s t : State} (htiles : t.tiles = s.tiles) (hjob : t.job = s.job) (off : Nat) : t.blockIdle off = s.blockIdle off := by
  rw [State.blockIdle, State.blockIdle, htiles, hjob]

/-- What a field of a register becomes when a word is committed. -/
def FieldSpec.committed (f : FieldSpec) (m : Nat) (h : RegHit) (off v : Nat) (s : State) : FieldWrite :=
  f.write m (s.running h) (f.part (s.reg off).toNat) (f.part v)

/-- What the commit of a word leaves: the register's fields by their rules, its shadow while the block works, and the refusals told. -/
structure Committed (m : Nat) (h : RegHit) (off v : Nat) (s t : State) : Prop where
  ran : Ran (Act.ofCommit off) s t
  word : quiet off = true → ∀ f ∈ h.spec.fields, f.part (t.reg off).toNat =
    if f.ty = .rws ∧ s.blockIdle off = true then f.part v else (f.committed m h off v s).value
  shadow : h.spec.hasRws = true → s.blockIdle off = false → Store.get (fun _ => none) t.shadows off = some (BitVec.ofNat 32 v)
  records : ∃ l, Adds s t l ∧ l.length ≤ 2 ∧
    (s.events.length + 2 ≤ 4096 → ∀ f ∈ h.spec.fields,
      ((f.committed m h off v s).privilege = true → ∃ x ∈ l, x.tells Ev.csrPrivilege (masterSrc m) off) ∧
      ((f.committed m h off v s).whileRunning = true → ∃ x ∈ l, x.tells Ev.configWhileRunning (masterSrc m) (off + v % 2 ^ 32 * 2 ^ 32))) ∧
    ((∀ f ∈ h.spec.fields, (f.committed m h off v s).privilege = false) → ∀ x ∈ l, x.code ≠ Ev.csrPrivilege.code)

/-- A field that is not of type RWS keeps its value in its register, and one that is takes its part of the shadow (R12). -/
theorem part_applyShadow {off : Nat} {h : RegHit} (hf : findReg off = some h) (old shadow : Nat) {f : FieldSpec} (hmem : f ∈ h.spec.fields) :
    f.part (BitVec.ofNat 32 (h.spec.applyShadow old shadow)).toNat = if f.ty = .rws then f.part shadow else f.part old := by
  have hfields := findReg_fields hf
  obtain ⟨-, h32, hw, -⟩ := fieldsFrom_mem hfields hmem
  rw [FieldSpec.part_ofNat hw h32, RegSpec.applyShadow_eq, FieldSpec.part_pack hfields _ hmem]
  intro g hg
  obtain ⟨-, -, hgw, -⟩ := fieldsFrom_mem hfields hg
  split <;> exact FieldSpec.part_lt hgw _

theorem implemented_applyShadow {off : Nat} {h : RegHit} (hf : findReg off = some h) (old shadow : Nat) :
    Implemented off (BitVec.ofNat 32 (h.spec.applyShadow old shadow)) := by
  rw [RegSpec.applyShadow_eq]
  refine implemented_pack hf (fun g hg => ?_)
  obtain ⟨-, -, hgw, -⟩ := fieldsFrom_mem (findReg_fields hf) hg
  split <;> exact FieldSpec.part_lt hgw _

/-- The word that a write makes of a register's fields. -/
theorem part_write {off : Nat} {h : RegHit} (hf : findReg off = some h) (m : Nat) (run : Bool) (old new : Nat) {f : FieldSpec} (hmem : f ∈ h.spec.fields) :
    f.part (BitVec.ofNat 32 (h.spec.write m run old new).value).toNat = (f.write m run (f.part old) (f.part new)).value := by
  have hfields := findReg_fields hf
  obtain ⟨-, h32, hw, -⟩ := fieldsFrom_mem hfields hmem
  rw [FieldSpec.part_ofNat hw h32, RegSpec.write_eq, FieldSpec.part_pack hfields _ hmem]
  exact fun g hg => FieldSpec.write_lt (fieldsFrom_mem hfields hg).2.2.1 _ _ _ _

theorem implemented_write {off : Nat} {h : RegHit} (hf : findReg off = some h) (m : Nat) (run : Bool) (old new : Nat) :
    Implemented off (BitVec.ofNat 32 (h.spec.write m run old new).value) := by
  rw [RegSpec.write_eq]
  exact implemented_pack hf (fun g hg => FieldSpec.write_lt (fieldsFrom_mem (findReg_fields hf) hg).2.2.1 _ _ _ _)

/-- An RWS field keeps its value in a plain write. -/
theorem FieldSpec.write_rws {f : FieldSpec} (h : f.ty = .rws) (m : Nat) (run : Bool) (old new : Nat) : (f.write m run old new).value = old := by
  rw [FieldSpec.write, h]

/-- What follows the field rules in a commit: the RWS fields take their parts of the word at once, or their shadow waits (R12). -/
def commitRws (h : RegHit) (off v : Nat) : M Unit := do
  if h.spec.hasRws then
    let idle ← look (·.blockIdle off)
    if idle then
      let now ← getReg off
      setReg off (BitVec.ofNat 32 (h.spec.applyShadow now.toNat v))
      act (.shadow off none)
    else act (.shadow off (some (BitVec.ofNat 32 v)))

/-- The shadowed fields of an idle block's register are written at once. -/
theorem commitRws_idle {s : State} {h : RegHit} {off : Nat} (hr : h.spec.hasRws = true) (hidle : s.blockIdle off = true) (v : Nat) : Does (commitRws h off v) s ()
    ((Act.shadow off none).apply ((Act.reg off (BitVec.ofNat 32 (h.spec.applyShadow (s.reg off).toNat v))).apply s)) := by
  rw [commitRws, if_pos hr]
  refine does_bind (does_look _ _) ?_
  rw [if_pos hidle]
  exact does_bind (does_look _ _) (does_bind (does_act _ _) (does_act _ _))

/-- While the block works, the word waits as the register's shadow. -/
theorem commitRws_busy {s : State} {h : RegHit} {off : Nat} (hr : h.spec.hasRws = true) (hbusy : ¬s.blockIdle off = true) (v : Nat) :
    Does (commitRws h off v) s () ((Act.shadow off (some (BitVec.ofNat 32 v))).apply s) := by
  rw [commitRws, if_pos hr]
  refine does_bind (does_look _ _) ?_
  rw [if_neg hbusy]
  exact does_act _ _

theorem commitRws_none {s : State} {h : RegHit} {off : Nat} (hr : ¬h.spec.hasRws = true) (v : Nat) : Does (commitRws h off v) s () s := by
  rw [commitRws, if_neg hr]
  exact does_pure _ _

theorem post_commitRws {s : State} (hs : s.Inv) {off : Nat} {h : RegHit} (hf : findReg off = some h) (v : Nat) :
    Post (commitRws h off v) s (fun _ t => Ran (Act.ofCommit off) s t ∧ t.events = s.events ∧
        (∀ f ∈ h.spec.fields, f.part (t.reg off).toNat = if f.ty = .rws ∧ s.blockIdle off = true then f.part v else f.part (s.reg off).toNat) ∧
        (h.spec.hasRws = true → s.blockIdle off = false → Store.get (fun _ => none) t.shadows off = some (BitVec.ofNat 32 v))) := by
  by_cases hrws : h.spec.hasRws = true
  · by_cases hidle : s.blockIdle off = true
    · refine (commitRws_idle hrws hidle v).post
        ⟨.step (a := .reg off _) (.inr rfl) (.one (a := .shadow off none) rfl), rfl, fun f hmem => ?_, fun _ hbusy => absurd hidle (by simp [hbusy])⟩
      show f.part (((Act.reg off _).apply s).reg off).toNat = _
      rw [hs.reg_apply_reg_implemented (implemented_applyShadow hf _ _), part_applyShadow hf _ _ hmem]
      simp [hidle]
    · refine (commitRws_busy hrws hidle v).post ⟨.one (a := .shadow off _) rfl, rfl, fun f _ => ?_, fun _ _ => Store.get_set_same _ _ _ hs.shadows⟩
      rw [if_neg (fun hc => hidle hc.2)]
      rfl
  · refine (commitRws_none hrws v).post ⟨.refl s, rfl, fun f hmem => ?_, fun hc => absurd hc hrws⟩
    rw [if_neg]
    rintro ⟨hty, -⟩
    exact hrws (List.any_eq_true.mpr ⟨f, hmem, decide_eq_true hty⟩)

theorem post_commitReg {s : State} (hs : s.Inv) {off : Nat} {h : RegHit} (hf : findReg off = some h) (m v : Nat) :
    Post (commitReg m h off v) s (fun _ t => Committed m h off v s t) := by
  refine post_bind (post_look (post_bind (post_look (post_bind (post_act ?_)))))
  have hs1 := (Act.reg off (BitVec.ofNat 32 (h.spec.write m (s.running h) (s.reg off).toNat v).value)).apply_inv s hs
  refine post_when_then ((post_raise_when _ _ _ _ _ _).mono ?_)
  rintro _ t2 ⟨r2, l2, hadds2, hlen2, htold2, hcode2, hnone2⟩
  refine post_when_then ((post_raise_when _ _ _ _ _ _).mono ?_)
  rintro _ t3 ⟨r3, l3, hadds3, hlen3, htold3, hcode3, hnone3⟩
  have hs3 := r3.inv (r2.inv hs1)
  refine (post_commitRws hs3 hf v).mono ?_
  rintro _ t ⟨r4, hev4, hword4, hshadow4⟩
  have r23 := r2.trans r3
  have r1 : Ran (Act.ofCommit off) s _ := .one (a := .reg off (BitVec.ofNat 32 (h.spec.write m (s.running h) (s.reg off).toNat v).value)) (.inr rfl)
  have hidle : t3.blockIdle off = s.blockIdle off :=
    blockIdle_congr (r23.raise_stands .tiles (by decide)) (r23.raise_stands .job (by decide)) off
  have hpriv := congrArg FieldWrite.privilege (h.spec.write_eq m (s.running h) (s.reg off).toNat v)
  have hwhile := congrArg FieldWrite.whileRunning (h.spec.write_eq m (s.running h) (s.reg off).toNat v)
  refine ⟨r1.trans ((r23.mono (fun _ ha => ha.ofCommit)).trans r4), fun hq f hmem => ?_, fun hr hb => hshadow4 hr (hidle.trans hb), l2 ++ l3, ?_, ?_, ?_, ?_⟩
  · rw [hword4 f hmem, hidle, r23.raise_reg hs1 hq, hs.reg_apply_reg_implemented (implemented_write hf _ _ _ _), part_write hf _ _ _ _ hmem]
    rfl
  · exact hev4.trans (hadds2.trans hadds3)
  · rw [List.length_append]
    omega
  · intro hroom f hmem
    have hroom2 := hadds2.length
    constructor
    · intro hp
      obtain ⟨x, hx, ht⟩ := htold2 (hpriv.trans (List.any_eq_true.mpr ⟨f, hmem, hp⟩)) (show s.events.length < 4096 by omega)
      exact ⟨x, List.mem_append_left _ hx, ht⟩
    · intro hw
      obtain ⟨x, hx, ht⟩ := htold3 (hwhile.trans (List.any_eq_true.mpr ⟨f, hmem, hw⟩)) (by
        rw [hroom2]
        show s.events.length + l2.length < 4096
        omega)
      exact ⟨x, List.mem_append_right _ hx, ht⟩
  · intro hnone x hx
    rw [hnone2 (hpriv.trans (List.any_eq_false.mpr (fun f hmem => Bool.eq_false_iff.mp (hnone f hmem))))] at hx
    rw [hcode3 x hx]
    decide

end Sys2Proof.Machine
end

section
/-! Plain writes as they are claimed: reserved bits, words, fields (R8, R9, R11, R13). -/

namespace Sys2Proof.Machine

open Sys2Proof

/-! What does not see the records that wait. -/

/-- The state with other records waiting. -/
def State.withEvents (s : State) (l : List Event) : State := { s with events := l }

/-- The piece does the same whatever records wait, and leaves them. -/
def Blind {α : Type} (m : M α) : Prop := ∀ s, ∃ a t, Does m s a t ∧ ∀ l, Does m (s.withEvents l) a (t.withEvents l)

section
variable {α β : Type}

theorem blind_pure (a : α) : Blind (pure a) := fun s => ⟨a, s, does_pure a s, fun _ => does_pure a _⟩
theorem blind_look {f : State → α} (h : ∀ s l, f (State.withEvents s l) = f s) : Blind (look f) := fun s =>
  ⟨f s, s, does_look f s, fun l => by simpa [h] using does_look f (s.withEvents l)⟩
theorem blind_setReg (off : Nat) (v : W32) : Blind (setReg off v) := fun s => ⟨(), _, does_setReg off v s, fun _ => does_setReg off v _⟩
theorem blind_bind {m : M α} {f : α → M β} (h : Blind m) (g : ∀ a, Blind (f a)) : Blind (m >>= f) := fun s => by
  obtain ⟨a, t, ht, ht'⟩ := h s
  obtain ⟨b, u, hu, hu'⟩ := g a t
  exact ⟨b, u, does_bind ht hu, fun l => does_bind (ht' l) (hu' l)⟩
theorem blind_ite {c : Prop} [Decidable c] {m n : M α} (h : Blind m) (g : Blind n) : Blind (if c then m else n) := by split <;> assumption
theorem blind_forIn {γ : Type} (l : List γ) (b : β) {f : γ → β → M (ForInStep β)} (h : ∀ x b, Blind (f x b)) : Blind (forIn l b f) := by
  induction l generalizing b with
  | nil => exact blind_pure b
  | cons x t ih =>
    rw [List.forIn_cons]
    refine blind_bind (h x b) (fun r => ?_)
    cases r with
    | done b => exact blind_pure b
    | yield b => exact ih b

end

theorem blind_pmuAdd (sel n : Nat) : Blind (pmuAdd sel n) :=
  blind_bind (blind_look (fun _ _ => rfl)) (fun _ => blind_bind (blind_setReg _ _) (fun _ => blind_bind (blind_setReg _ _) (fun _ =>
    blind_ite (blind_bind (blind_look (fun _ _ => rfl)) (fun _ => blind_setReg _ _)) (blind_pure _))))

theorem blind_pmuHub (ev amount : Nat) (priv master addr cls : Option Nat) : Blind (pmuHub ev amount priv master addr cls) :=
  blind_bind (blind_look (fun _ _ => rfl)) (fun _ => blind_ite (blind_pure _) (blind_bind (blind_look (fun _ _ => rfl)) (fun _ =>
    blind_bind (blind_forIn _ _ (fun _ _ => blind_bind (blind_pmuAdd _ _) (fun _ => blind_pure _))) (fun _ => blind_pure _))))

/-- Two records of one event differ in what they say alone: the states they leave differ in the records alone. -/
theorem addEvent_withEvents (s : State) (e : Ev) (src : Nat × Nat) (d d' slate : Nat) :
    addEvent s (evOf e src d' slate) = (addEvent s (evOf e src d slate)).withEvents (addEvent s (evOf e src d' slate)).events := by
  unfold addEvent
  dsimp only
  split <;> rfl

/-- The detail of an event raised changes nothing but the record. -/
theorem raise_detail (s : State) (e : Ev) (src : Nat × Nat) (d d' slate : Nat) :
    ∃ t l, Does (raise e src d slate) s () t ∧ Does (raise e src d' slate) s () (t.withEvents l) := by
  obtain ⟨_, t, ht, ht'⟩ := blind_pmuHub 0x15 1 none none none (some e.sev) ((Act.event (evOf e src d slate)).apply s)
  refine ⟨t, (addEvent s (evOf e src d' slate)).events, does_bind (b := ()) (does_act _ s) ht, does_bind (b := ()) (does_act _ s) ?_⟩
  show Does _ (addEvent s (evOf e src d' slate)) _ _
  rw [addEvent_withEvents s e src d d' slate]
  exact ht' _

/-! Reserved bits take no write (R9). -/

/-- A field's part of a word does not see reserved bits. -/
theorem part_implemented {off : Nat} {h : RegHit} (hf : findReg off = some h) {f : FieldSpec} (hmem : f ∈ h.spec.fields) (v : Nat) : f.part (v &&& implMask off) = f.part v := by
  have hw := (fieldsFrom_mem (findReg_fields hf) hmem).2.2.1
  apply Nat.eq_of_testBit_eq
  intro i
  rw [FieldSpec.testBit_part hw, FieldSpec.testBit_part hw, Nat.testBit_and]
  by_cases hi : i < f.width
  · rw [show (implMask off).testBit (f.lo + i) = true by
      rw [testBit_implMask hf, List.any_eq_true]
      exact ⟨f, hmem, by simp [hi]⟩, Bool.and_true]
  · simp [hi]

theorem any_congr_mem {α : Type} {l : List α} {p q : α → Bool} (h : ∀ a ∈ l, p a = q a) : l.any p = l.any q := by
  rw [Bool.eq_iff_iff, List.any_eq_true, List.any_eq_true]
  exact exists_congr (fun a => and_congr_right (fun ha => by rw [h a ha]))

theorem pack_congr {l : List FieldSpec} {p q : FieldSpec → Nat} (h : ∀ f ∈ l, p f = q f) : pack p l = pack q l :=
  congrArg List.sum (List.map_congr_left (fun f hf => congrArg (· * 2 ^ f.lo) (h f hf)))

theorem write_implemented {off : Nat} {h : RegHit} (hf : findReg off = some h) (m : Nat) (run : Bool) (old v : Nat) :
    h.spec.write m run old (v &&& implMask off) = h.spec.write m run old v := by
  have hval : ∀ f ∈ h.spec.fields, f.write m run (f.part old) (f.part (v &&& implMask off)) = f.write m run (f.part old) (f.part v) := fun f hmem => by
    rw [part_implemented hf hmem]
  rw [RegSpec.write_eq, RegSpec.write_eq, pack_congr (fun f hmem => congrArg FieldWrite.value (hval f hmem)),
    any_congr_mem (fun f hmem => congrArg FieldWrite.privilege (hval f hmem)), any_congr_mem (fun f hmem => congrArg FieldWrite.whileRunning (hval f hmem))]

theorem applyShadow_implemented {off : Nat} {h : RegHit} (hf : findReg off = some h) (old v : Nat) :
    h.spec.applyShadow old (v &&& implMask off) = h.spec.applyShadow old v := by
  rw [RegSpec.applyShadow_eq, RegSpec.applyShadow_eq]
  exact pack_congr (fun f hmem => by rw [part_implemented hf hmem])

/-- What a write puts into reserved bits does not reach the registers by way of the shadowed fields either. -/
theorem commitRws_implemented (s : State) (l : List Event) {off : Nat} {h : RegHit} (hf : findReg off = some h) (v : Nat) :
    ∃ t u, Does (commitRws h off v) s () t ∧ Does (commitRws h off (v &&& implMask off)) (s.withEvents l) () u ∧ t.regs = u.regs := by
  by_cases hr : h.spec.hasRws = true
  · by_cases hidle : s.blockIdle off = true
    · refine ⟨_, _, commitRws_idle hr hidle v, commitRws_idle hr (s := s.withEvents l) hidle _, ?_⟩
      rw [applyShadow_implemented hf]
      rfl
    · exact ⟨_, _, commitRws_busy hr hidle v, commitRws_busy hr (s := s.withEvents l) hidle _, rfl⟩
  · exact ⟨_, _, commitRws_none hr v, commitRws_none hr _, rfl⟩

theorem commitReg_implemented (s : State) {off : Nat} {h : RegHit} (hf : findReg off = some h) (m v : Nat) :
    ∃ t u, Does (commitReg m h off v) s () t ∧ Does (commitReg m h off (v &&& implMask off)) s () u ∧ t.regs = u.regs := by
  unfold commitReg
  set w := h.spec.write m (s.running h) (s.reg off).toNat v with hw
  obtain ⟨_, s2, h2, -⟩ := post_raise_when w.privilege ((Act.reg off (BitVec.ofNat 32 w.value)).apply s) Ev.csrPrivilege (masterSrc m) off 0
  have h3 : ∃ s3 l, Does (if w.whileRunning = true then raise Ev.configWhileRunning (masterSrc m) (off + v % 2 ^ 32 * 2 ^ 32) 0 else pure ()) s2 () s3 ∧
      Does (if w.whileRunning = true then raise Ev.configWhileRunning (masterSrc m) (off + (v &&& implMask off) % 2 ^ 32 * 2 ^ 32) 0 else pure ()) s2 () (s3.withEvents l) := by
    split
    · exact raise_detail s2 _ _ _ _ _
    · exact ⟨s2, s2.events, does_pure _ _, does_pure _ _⟩
  obtain ⟨s3, l, h3, h3'⟩ := h3
  obtain ⟨t, u, ht, hu, htu⟩ := commitRws_implemented s3 l hf v
  refine ⟨t, u, does_bind (does_look _ _) (does_bind (does_look _ _) (does_bind (does_act _ _) (does_when_then h2 (does_when_then h3 ht)))),
    does_bind (does_look _ _) (does_bind (does_look _ _) ?_), htu⟩
  rw [write_implemented hf]
  exact does_bind (does_act _ _) (does_when_then h2 (does_when_then h3' hu))

/-- Settles O7: a word's reserved bits are outside its implemented ones, and a field's rule sees only the bits of its own part; of all that a write does, only the detail of a record
tells two words apart that differ in reserved bits. -/
theorem reservedBitsReadZero : Obligations.ReservedBitsReadZero := by
  intro s hs m off v
  refine ⟨?_, fun h hf hk ho hp => ?_⟩
  · rw [← State.reg_implemented hs.reserved off, BitVec.and_assoc, BitVec.and_not_self]
    exact BitVec.and_zero
  · show ∃ t, _ ∧ ∃ u, _ ∧ _
    rw [exec_registerWrite_plain v hf hk ho hp, exec_registerWrite_plain _ hf hk ho hp]
    cases hm : mayWrite m off with
    | true =>
      rw [byMaster_of_mayWrite hm, byMaster_of_mayWrite hm]
      obtain ⟨t, u, ht, hu, htu⟩ := commitReg_implemented s hf m v
      exact ⟨t, ht.next, u, hu.next, fun o => by rw [State.reg, State.reg, htu]⟩
    | false =>
      rw [byMaster_of_barred hm, byMaster_of_barred hm]
      obtain ⟨_, t, ht, -⟩ := post_raise s Ev.csrPrivilege (masterSrc m) off 0
      exact ⟨t, ht.next, t, ht.next, fun o => rfl⟩

end Sys2Proof.Machine
end

section
/-! Plain writes: the word that changes, and each field by its type (R8, R11, R13). -/

namespace Sys2Proof.Machine

open Sys2Proof

/-- A commit that refuses no field and shadows none stores the word alone. -/
theorem commitReg_of_accepted {s : State} {m off v : Nat} {h : RegHit} (hr : h.spec.hasRws = false)
    (hp : (h.spec.write m (s.running h) (s.reg off).toNat v).privilege = false) (hw : (h.spec.write m (s.running h) (s.reg off).toNat v).whileRunning = false) :
    Does (commitReg m h off v) s () ((Act.reg off (BitVec.ofNat 32 (h.spec.write m (s.running h) (s.reg off).toNat v).value)).apply s) := by
  exact does_bind (does_look _ _) (does_bind (does_look _ _) (does_bind (b := ()) (does_act _ _) (does_when_then (does_when_not (by simp [hp]) _)
    (does_when_then (does_when_not (by simp [hw]) _) (commitRws_none (by simp [hr]) v)))))

/-- Settles O8: with no field refused or shadowed, the commit of the word is one store. -/
theorem plainWriteChangesItsWord : Obligations.PlainWriteChangesItsWord := by
  intro s m off v h hf hk hr ho hp hm hpriv hrun
  rw [exec_registerWrite_plain v hf hk ho hp, byMaster_of_mayWrite hm]
  exact (commitReg_of_accepted hr hpriv hrun).next

/-- The halves of the count of lost events are no plain registers. -/
theorem kind_of_lostCount : ((findReg (Reg.RAS_COUNT_LO 8)).map (fun h => h.spec.kind)) = some .lo ∧ ((findReg (Reg.RAS_COUNT_LO 8 + 4)).map (fun h => h.spec.kind)) = some .hi := by
  decide +kernel

/-- A plain register that does not count is quiet. -/
theorem quiet_of_plain {off : Nat} {h : RegHit} (hf : findReg off = some h) (hk : h.spec.kind = .plain) (hp : pmonCounter off = false) : quiet off = true := by
  obtain ⟨hlo, hhi⟩ := kind_of_lostCount
  refine quiet_iff.mpr ⟨hp, ?_, ?_⟩
  · rintro rfl
    simp [hf, hk] at hlo
  · rintro rfl
    simp [hf, hk] at hhi

/-- What a commit makes of each field of its register. -/
theorem Committed.takes {m off v : Nat} {h : RegHit} {s t : State} (hc : Committed m h off v s t) (hm : mayWrite m off = true) (hq : quiet off = true)
    {f : FieldSpec} (hf : f ∈ h.spec.fields) : f.takes h m off v s t := by
  have hword := hc.word hq f hf
  obtain ⟨l, hadds, -, htold, -⟩ := hc.records
  have hrws : f.ty = .rws → h.spec.hasRws = true := fun hty => List.any_eq_true.mpr ⟨f, hf, decide_eq_true hty⟩
  unfold FieldSpec.takes
  dsimp only
  rw [if_neg (by simp [hm])]
  have hval : f.ty ≠ .rws → f.part (t.reg off).toNat = (f.committed m h off v s).value := fun hty => hword.trans (if_neg (fun hc => hty hc.1))
  refine ⟨fun hty => ?_, fun hty => ?_, fun hty => ?_, fun hty hidle => ?_, fun hty hbusy => ⟨?_, hc.shadow (hrws hty) hbusy⟩, fun hty hfree => ?_, fun hty hheld => ⟨?_, fun hne => ?_⟩,
    fun hty hk hfree => ?_⟩
  · rw [hval (by simp [hty]), FieldSpec.committed, FieldSpec.write, hty]
  · rw [hval (by simp [hty]), FieldSpec.committed, FieldSpec.write, hty]
  · rw [hval (by simp [hty]), FieldSpec.committed, FieldSpec.write, hty]
  · rw [hword, if_pos ⟨hty, hidle⟩]
  · rw [hword, if_neg (by simp [hbusy]), FieldSpec.committed, FieldSpec.write_rws hty]
  · rw [hval (by simp [hty]), FieldSpec.committed, FieldSpec.write, hty]
    simp [hfree]
  · rw [hval (by simp [hty]), FieldSpec.committed, FieldSpec.write, hty]
    simp [hheld]
  · refine hadds.told (fun hroom => (htold (by omega) f hf).2 ?_)
    rw [FieldSpec.committed, FieldSpec.write, hty]
    simp [hheld, Ne.symm hne]
  · rw [hval (by simp [hty]), FieldSpec.committed, FieldSpec.write, hty]
    simp [hk, hfree]

/-- Settles O9: the commit takes each field by its type, and a write that keeper firmware may not make raises its event alone. -/
theorem fieldsTakeWritesByType : Obligations.FieldsTakeWritesByType := by
  intro s hs m off v h f hf hk ho hp hmem hcount
  have hq := quiet_of_plain hf hk hcount
  rw [Completes, exec_registerWrite_plain v hf hk ho hp]
  cases hm : mayWrite m off with
  | true =>
    rw [byMaster_of_mayWrite hm]
    obtain ⟨_, t, ht, hc⟩ := post_commitReg hs hf m v
    exact ⟨t, ht.next, hc.takes hm hq hmem⟩
  | false =>
    rw [byMaster_of_barred hm]
    obtain ⟨_, t, ht, r, l, hadds, -, htold, -⟩ := post_raise s Ev.csrPrivilege (masterSrc m) off 0
    refine ⟨t, ht.next, ?_⟩
    unfold FieldSpec.takes
    dsimp only
    rw [if_pos hm, r.raise_reg hs hq]
    exact ⟨rfl, hadds.told (fun hroom => htold (by omega))⟩

end Sys2Proof.Machine
end

section
/-! Accesses that are refused, reads, and the operation boundary of a block (R4, R10, R12, R14). -/

namespace Sys2Proof.Machine

open Sys2Proof

/-! Accesses that are refused and told of. -/

/-- From `s` an event has been told of, and nothing but records and counts has changed: given data aside. -/
structure Refused (s t : State) (e : Ev) (src : Nat × Nat) (detail : Nat) : Prop where
  told : s.Told t e src detail
  latches : t.latches = s.latches
  mem : t.mem = s.mem
  undef : t.undef = s.undef
  quiet : s.Inv → ∀ o, pmonCounter o = false → o ≠ Reg.RAS_COUNT_LO 8 → o ≠ Reg.RAS_COUNT_HI 8 → t.reg o = s.reg o

theorem raise_refused {s t : State} (r : Ran Act.ofRaise s t) {l : List Event} (hadds : Adds s t l) {e : Ev} {src : Nat × Nat} {detail : Nat}
    (htold : s.events.length < 4096 → ∃ x ∈ l, x.tells e src detail) : Refused s t e src detail where
  told := hadds.told (fun hroom => htold (by omega))
  latches := r.raise_stands .latches (by decide)
  mem := (r.raise_stands .memory (by decide)).1
  undef := (r.raise_stands .memory (by decide)).2.1
  quiet hs _ hp hlo hhi := r.raise_reg hs (quiet_iff.mpr ⟨hp, hlo, hhi⟩)

/-- A write refused with an event. -/
theorem post_raise_write (s : State) (e : Ev) (src : Nat × Nat) (detail slate : Nat) :
    Post (raise e src detail slate) s (fun _ t => t.out = s.out ∧ Refused s t e src detail) :=
  (post_raise s e src detail slate).mono (fun _ _ ⟨r, _, hadds, _, htold, _⟩ => ⟨r.raise_stands .outputs (by decide), raise_refused r hadds htold⟩)

/-- A read refused with an event: it gives 0. -/
theorem post_raise_read (s : State) (e : Ev) (src : Nat × Nat) (detail slate m a : Nat) :
    Post (raise e src detail slate >>= fun _ => act (.out (.readData m a 0))) s (fun _ t => Out.readData m a 0 ∈ t.out ∧ Refused s t e src detail) := by
  refine post_bind ((post_raise s e src detail slate).mono (fun _ t ⟨r, _, hadds, _, htold, _⟩ => post_act ⟨List.mem_cons_self, ?_⟩))
  obtain ⟨h1, h2, h3, h4, h5⟩ := raise_refused r hadds htold
  exact ⟨h1, h2, h3, h4, h5⟩

theorem exec_csrBadAccess_read {m a n : Nat} (h : 4 < a % 4 + n) (s : State) : exec (.csrBadAccess m a n false) s =
    M.next (raise Ev.csrAccess (masterSrc m) (a % 2 ^ 32 + n % 2 ^ 8 * 2 ^ 32) 0 >>= fun _ => act (.out (.readData m a 0))) s := by
  show execCsrBadAccess m a n false s = _
  unfold execCsrBadAccess
  simp [h]

theorem exec_csrBadAccess_write {m a n : Nat} (h : n ≠ 4 ∨ a % 4 ≠ 0) (s : State) : exec (.csrBadAccess m a n true) s =
    M.next (raise Ev.csrAccess (masterSrc m) (a % 2 ^ 32 + n % 2 ^ 8 * 2 ^ 32 + 2 ^ 40) 0) s := by
  have hbad : (decide (n ≠ 4) || decide (a % 4 ≠ 0)) = true := by simpa using h
  show execCsrBadAccess m a n true s = _
  unfold execCsrBadAccess
  simp only [if_true, hbad]
  rfl

theorem exec_unmappedAccess_read {s : State} {m a : Nat} (h : s.mapped m a false = false) : exec (.unmappedAccess m a false) s =
    M.next (raise Ev.unmappedAccess (masterSrc m) a 0 >>= fun _ => act (.out (.readData m a 0))) s := by
  show M.next (if (!s.mapped m a false) = true then _ else _) s = _
  rw [h]
  rfl

theorem exec_unmappedAccess_write {s : State} {m a : Nat} (h : s.mapped m a true = false) : exec (.unmappedAccess m a true) s =
    M.next (raise Ev.unmappedAccess (masterSrc m) a 0) s := by
  show M.next (if (!s.mapped m a true) = true then _ else _) s = _
  rw [h]
  rfl

/-- Settles O12: each refused access raises its event, and a read gives 0 after it. -/
theorem badAccessesAreRefused : Obligations.BadAccessesAreRefused := by
  intro s m a n
  refine ⟨fun h => ?_, fun h => ?_, fun h => ?_, fun h => ?_⟩
  · refine Post.completes ((post_raise_read s _ _ _ _ m a).mono ?_) (exec_csrBadAccess_read h s)
    exact fun _ t ⟨hout, hr⟩ => ⟨hout, hr.told, hr.latches, hr.mem, hr.undef, hr.quiet⟩
  · refine Post.completes ((post_raise_write s _ _ _ _).mono ?_) (exec_csrBadAccess_write h s)
    exact fun _ t ⟨hout, hr⟩ => ⟨hout, hr.told, hr.latches, hr.mem, hr.undef, hr.quiet⟩
  · refine Post.completes ((post_raise_read s _ _ _ _ m a).mono ?_) (exec_unmappedAccess_read h)
    exact fun _ t ⟨hout, hr⟩ => ⟨hout, hr.told, hr.mem, hr.undef, hr.quiet⟩
  · refine Post.completes ((post_raise_write s _ _ _ _).mono ?_) (exec_unmappedAccess_write h)
    exact fun _ t ⟨hout, hr⟩ => ⟨hout, hr.told, hr.mem, hr.undef, hr.quiet⟩

/-! Reads (R14). -/

/-- A read of a whole aligned word at a place that is a register. -/
theorem exec_loReadLatch {s t : State} {m off v : Nat} (hal : off % 4 = 0) (hp : s.place m off false = .reg off) (h : Does (regLoad m off) s v t) :
    exec (.loReadLatch m off) s = .next ((Act.out (.readData m off v)).apply t) := by
  have hread : Does (csrRead m off) s v t := by
    refine does_bind (does_look _ _) ?_
    rw [hp]
    exact h
  have hmeaning : Does (csrRead m off >>= fun v => act (.out (.readData m off v))) s () ((Act.out (.readData m off v)).apply t) := does_bind hread (does_act _ _)
  show M.next (if off % 4 = 0 then csrRead m off >>= fun v => act (.out (.readData m off v)) else pure ()) s = _
  rw [if_pos hal]
  exact hmeaning.next

theorem regLoad_plain {s : State} {m off : Nat} {h : RegHit} (hf : findReg off = some h) (hk : h.spec.kind = .plain) : Does (regLoad m off) s (s.regView off) s := by
  refine does_bind (does_look _ _) ?_
  simp only [hf, hk]
  exact does_pure _ _

theorem regLoad_lo {s : State} {m off : Nat} {h : RegHit} (hf : findReg off = some h) (hk : h.spec.kind = .lo) :
    Does (regLoad m off) s (s.regView off) ((Act.latch (masterKey m (off + 4)) (some (BitVec.ofNat 32 (s.regView (off + 4))))).apply s) := by
  refine does_bind (does_look _ _) ?_
  simp only [hf, hk]
  exact does_bind (does_look _ _) (does_bind (does_act _ _) (does_pure _ _))

theorem regLoad_hi {s : State} {m off : Nat} {h : RegHit} (hf : findReg off = some h) (hk : h.spec.kind = .hi) :
    Does (regLoad m off) s (((Store.get (fun _ => none) s.latches (masterKey m off)).map (fun w => w.toNat)).getD (s.regView off)) s := by
  refine does_bind (does_look _ _) ?_
  simp only [hf, hk]
  exact does_bind (does_look _ _) (does_pure _ _)

/-- Settles O11, by the kind of the register read. -/
theorem loReadLatchesHi : Obligations.LoReadLatchesHi := by
  intro s m off h hal hf hp
  refine ⟨fun hk => ?_, fun hk => ?_, fun hk w hw => ?_, fun hk hw => ?_⟩
  · exact exec_loReadLatch hal hp (regLoad_plain hf hk)
  · exact exec_loReadLatch hal hp (regLoad_lo hf hk)
  · rw [exec_loReadLatch hal hp (regLoad_hi hf hk), hw]
    rfl
  · rw [exec_loReadLatch hal hp (regLoad_hi hf hk), hw]
    rfl

end Sys2Proof.Machine
end

section
/-! The operation boundary of a block: its shadows take effect (R12). -/

namespace Sys2Proof.Machine

open Sys2Proof

theorem Store.ne_of_above {α : Type} {k : Nat} {l : Store α} (h : Store.above k l = true) {e : Nat × α} (he : e ∈ l) : k < e.1 := by
  induction l with
  | nil => cases he
  | cons a t ih =>
    simp only [Store.above, Bool.and_eq_true, decide_eq_true_eq] at h
    rcases List.mem_cons.mp he with rfl | ht
    · exact h.1
    · exact ih h.2 ht

/-- A listed entry is what its key reads as. -/
theorem Store.get_of_mem {α : Type} [DecidableEq α] {d : Nat → α} {l : Store α} (h : Store.wf d l = true) {k : Nat} {v : α} (hm : (k, v) ∈ l) :
    Store.get d l k = v ∧ v ≠ d k := by
  induction l with
  | nil => cases hm
  | cons a t ih =>
    obtain ⟨j, w⟩ := a
    obtain ⟨hne, habove, ht⟩ := Store.wf_cons.mp h
    rcases List.mem_cons.mp hm with heq | hmem
    · obtain ⟨rfl, rfl⟩ := Prod.mk.inj heq
      exact ⟨by simp [Store.get], hne⟩
    · have hlt := Store.ne_of_above habove hmem
      dsimp only at hlt
      refine ⟨?_, (ih ht hmem).2⟩
      rw [Store.get, if_neg (by omega), if_neg (by omega)]
      exact (ih ht hmem).1

/-- A loop whose every turn goes on. -/
theorem does_forIn_yield {α : Type} (l : List α) (f : α → PUnit → M (ForInStep PUnit)) (g : State → α → State)
    (h : ∀ x ∈ l, ∀ s, Does (f x PUnit.unit) s (.yield PUnit.unit) (g s x)) (s : State) : Does (forIn l PUnit.unit f) s PUnit.unit (l.foldl g s) := by
  induction l generalizing s with
  | nil => exact does_pure _ s
  | cons x t ih =>
    rw [List.forIn_cons]
    exact does_bind (h x List.mem_cons_self s) (ih (fun y hy => h y (List.mem_cons_of_mem _ hy)) _)

/-- The state in which a listed shadow has taken effect. -/
def State.applied (s : State) (e : Nat × Option W32) : State :=
  match e.2, findReg e.1 with
  | some v, some h => (Act.shadow e.1 none).apply ((Act.reg e.1 (BitVec.ofNat 32 (h.spec.applyShadow (s.reg e.1).toNat v.toNat))).apply s)
  | _, _ => s

theorem applied_some {s : State} {o : Nat} {h : RegHit} (hf : findReg o = some h) (v : W32) : s.applied (o, some v) =
    (Act.shadow o none).apply ((Act.reg o (BitVec.ofNat 32 (h.spec.applyShadow (s.reg o).toNat v.toNat))).apply s) := by
  simp only [State.applied, hf]

theorem applied_unlisted {s : State} {o : Nat} (hf : findReg o = none) (v : Option W32) : s.applied (o, v) = s := by
  cases v <;> simp only [State.applied, hf]

theorem does_applyShadows (s : State) (lo hi : Nat) :
    Does (applyShadows lo hi) s () ((s.shadows.filter (fun e => decide (lo ≤ e.1) && decide (e.1 < hi))).foldl State.applied s) := by
  refine does_bind (does_look _ _) (does_bind (does_forIn_yield _ _ State.applied ?_ s) (does_pure _ _))
  rintro ⟨o, v⟩ - s
  cases v with
  | none => exact does_pure _ _
  | some v =>
    cases hf : findReg o with
    | none =>
      rw [applied_unlisted hf]
      exact does_pure _ _
    | some h =>
      rw [applied_some hf]
      exact does_bind (does_look _ _) (does_bind (does_act _ _) (does_bind (does_act _ _) (does_pure _ _)))

/-- The changes by which shadows take effect. -/
def Act.ofShadow : Act → Prop
  | .reg _ _ => True
  | .shadow _ _ => True
  | _ => False

theorem Act.ofShadow.changes {a : Act} (h : a.ofShadow) : a.kind.changes ⊆ [.registers, .shadows] := by
  cases a with
  | reg _ _ => simp [Act.kind, ActKind.changes]
  | shadow _ _ => simp [Act.kind, ActKind.changes]
  | _ => exact h.elim

theorem applied_ran (s : State) (e : Nat × Option W32) : Ran Act.ofShadow s (s.applied e) := by
  obtain ⟨o, v⟩ := e
  cases v with
  | none => exact .refl s
  | some v =>
    cases hf : findReg o with
    | none =>
      rw [applied_unlisted hf]
      exact .refl s
    | some h =>
      rw [applied_some hf]
      exact .step (a := .reg o _) trivial (.one (a := .shadow o none) trivial)

theorem foldl_applied_ran (l : List (Nat × Option W32)) (s : State) : Ran Act.ofShadow s (l.foldl State.applied s) := by
  induction l generalizing s with
  | nil => exact .refl s
  | cons e t ih => exact (applied_ran s e).trans (ih _)

/-- A shadow that takes effect leaves the other registers and shadows. -/
theorem applied_other {s : State} (hs : s.Inv) {e : Nat × Option W32} {o : Nat} (ho : o ≠ e.1) :
    (s.applied e).reg o = s.reg o ∧ Store.get (fun _ => none) (s.applied e).shadows o = Store.get (fun _ => none) s.shadows o := by
  obtain ⟨k, v⟩ := e
  cases v with
  | none => exact ⟨rfl, rfl⟩
  | some v =>
    cases hf : findReg k with
    | none => rw [applied_unlisted hf]; exact ⟨rfl, rfl⟩
    | some h =>
      rw [applied_some hf]
      exact ⟨hs.reg_apply_reg_other _ ho, Store.get_set_other _ _ hs.shadows ho⟩

theorem applied_same {s : State} (hs : s.Inv) {o : Nat} {h : RegHit} (hf : findReg o = some h) (v : W32) :
    (s.applied (o, some v)).reg o = BitVec.ofNat 32 (h.spec.applyShadow (s.reg o).toNat v.toNat) &&& BitVec.ofNat 32 (implMask o) ∧
    Store.get (fun _ => none) (s.applied (o, some v)).shadows o = none := by
  rw [applied_some hf]
  exact ⟨hs.reg_apply_reg_same _ _, Store.get_set_same _ _ _ hs.shadows⟩

theorem foldl_applied_other {l : List (Nat × Option W32)} {o : Nat} (ho : ∀ e ∈ l, o ≠ e.1) {s : State} (hs : s.Inv) :
    (l.foldl State.applied s).reg o = s.reg o ∧ Store.get (fun _ => none) (l.foldl State.applied s).shadows o = Store.get (fun _ => none) s.shadows o := by
  induction l generalizing s with
  | nil => exact ⟨rfl, rfl⟩
  | cons e t ih =>
    obtain ⟨hreg, hshadow⟩ := applied_other hs (ho e List.mem_cons_self)
    obtain ⟨hreg', hshadow'⟩ := ih (fun x hx => ho x (List.mem_cons_of_mem _ hx)) ((applied_ran s e).inv hs)
    exact ⟨hreg'.trans hreg, hshadow'.trans hshadow⟩

/-- Of shadows with distinct offsets, each takes effect on its register as it was before them all. -/
theorem foldl_applied_same {l : Store (Option W32)} (hl : Store.wf (fun _ => none) l = true) {o : Nat} {v : W32} (hm : (o, some v) ∈ l) {h : RegHit} (hf : findReg o = some h)
    {s : State} (hs : s.Inv) :
    (l.foldl State.applied s).reg o = BitVec.ofNat 32 (h.spec.applyShadow (s.reg o).toNat v.toNat) &&& BitVec.ofNat 32 (implMask o) ∧
    Store.get (fun _ => none) (l.foldl State.applied s).shadows o = none := by
  induction l generalizing s with
  | nil => cases hm
  | cons e t ih =>
    obtain ⟨-, habove, ht⟩ := Store.wf_cons.mp hl
    have hs' := (applied_ran s e).inv hs
    rcases List.mem_cons.mp hm with rfl | hmem
    · obtain ⟨hreg, hshadow⟩ := applied_same hs hf v
      obtain ⟨hreg', hshadow'⟩ := foldl_applied_other (fun x hx => Nat.ne_of_lt (Store.ne_of_above habove hx)) hs'
      exact ⟨hreg'.trans hreg, hshadow'.trans hshadow⟩
    · obtain ⟨hreg, -⟩ := applied_other hs (Nat.ne_of_gt (Store.ne_of_above habove hmem))
      rw [← hreg]
      exact ih ht hmem hs'

/-- Settles O13: the pending shadows have distinct offsets, so that each takes effect on its own register alone. -/
theorem shadowsApplyTogether : Obligations.ShadowsApplyTogether := by
  intro s hs b hpower htele
  set l := s.shadows.filter (fun e => decide (b ≤ e.1) && decide (e.1 < blockEnd b)) with hl
  have hwf : Store.wf (fun _ => none) l = true := Store.wf_filter _ hs.shadows
  have hexec : exec (.rwsShadowApply b) s = .next (l.foldl State.applied s) := by
    show execRwsShadowApply b s = _
    unfold execRwsShadowApply
    exact (does_bind (does_applyShadows s b (blockEnd b)) (does_when_then (does_when_not hpower _) (does_when_not htele _))).next
  have r := foldl_applied_ran l s
  have hstands := fun p (hp : p ∉ [StatePart.registers, .shadows]) => r.stands p (fun _ ha hmem => hp (ha.changes hmem))
  refine ⟨_, hexec, fun o w h hlo hhi hget hf => ?_, fun o ho => ?_, (hstands .memory (by decide)).1, (hstands .memory (by decide)).2.1, hstands .tiles (by decide),
    (hstands .events (by decide)).1⟩
  · have hm : (o, some w) ∈ l := by
      have := (Store.get_or_mem (fun _ => none) s.shadows o).resolve_left (by simp [hget])
      rw [hget] at this
      exact List.mem_filter.mpr ⟨this, by simp [hlo, hhi]⟩
    exact (foldl_applied_same hwf hm hf hs).symm
  · refine (foldl_applied_other (fun e he => ?_) hs).1
    rintro rfl
    obtain ⟨hmem, hin⟩ := List.mem_filter.mp he
    obtain ⟨hget, hne⟩ := Store.get_of_mem hs.shadows (k := e.1) (v := e.2) hmem
    rw [Bool.and_eq_true, decide_eq_true_eq, decide_eq_true_eq] at hin
    rcases ho with h | h | h
    · omega
    · omega
    · exact hne (hget.symm.trans h)

end Sys2Proof.Machine
end

section
/-! Writes of registers that keeper firmware alone may set (R11). -/

namespace Sys2Proof.Machine

open Sys2Proof

/-- The hub's counters and the count of lost events hold no field that keeper firmware alone may write. -/
theorem counters_hold_no_rwl : ((List.range 320).all (fun i => (findReg (0xA00100 + 4 * i)).all (fun g => g.spec.fields.all (fun f => decide (f.ty ≠ .rwl)))) &&
    (List.range 2).all (fun i => (findReg (Reg.RAS_COUNT_LO 8 + 4 * i)).all (fun g => g.spec.fields.all (fun f => decide (f.ty ≠ .rwl))))) = true := by decide +kernel

/-- A register with a field that keeper firmware alone may write counts nothing. -/
theorem quiet_of_rwl {o : Nat} {g : RegHit} (hg : findReg o = some g) {f : FieldSpec} (hf : f ∈ g.spec.fields) (hty : f.ty = .rwl) : quiet o = true := by
  obtain ⟨hcounters, hlost⟩ := (Bool.and_eq_true _ _).mp counters_hold_no_rwl
  have hne : (findReg o).all (fun g => g.spec.fields.all (fun f => decide (f.ty ≠ .rwl))) ≠ true := by
    rw [hg]
    exact fun hall => of_decide_eq_true (List.all_eq_true.mp hall f hf) hty
  refine quiet_iff.mpr ⟨Bool.eq_false_iff.mpr (fun hp => hne ?_), fun ho => hne ?_, fun ho => hne ?_⟩
  · have hal := findReg_aligned hg
    obtain ⟨hlo, hhi⟩ := pmonCounter_iff.mp hp
    have := List.all_eq_true.mp hcounters ((o - 0xA00100) / 4) (List.mem_range.mpr (by omega))
    rwa [show 0xA00100 + 4 * ((o - 0xA00100) / 4) = o by omega] at this
  · exact ho ▸ List.all_eq_true.mp hlost 0 (by decide)
  · exact ho ▸ List.all_eq_true.mp hlost 1 (by decide)

/-- Another master's write of such a field is refused, and is a privilege refusal when it would change it. -/
theorem FieldSpec.write_rwl {f : FieldSpec} (hty : f.ty = .rwl) {m : Nat} (hm : m ≠ mKeeper) (run : Bool) (old new : Nat) :
    f.write m run old new = ⟨old, decide (old ≠ new), false⟩ := by
  rw [FieldSpec.write, hty]
  simp [hm]

theorem FieldSpec.write_privilege {f : FieldSpec} (hty : f.ty ≠ .rwl) (m : Nat) (run : Bool) (old new : Nat) : (f.write m run old new).privilege = false := by
  unfold FieldSpec.write
  cases hf : f.ty with
  | rwl => exact absurd hf hty
  | rw => dsimp only; split <;> rfl
  | _ => rfl

/-- No field that keeper firmware alone may write has changed. -/
def RwlStands (s t : State) : Prop :=
  ∀ (o : Nat) (g : RegHit), findReg o = some g → ∀ f ∈ g.spec.fields, f.ty = .rwl → f.part (t.reg o).toNat = f.part (s.reg o).toNat

theorem RwlStands.refl (s : State) : RwlStands s s := fun _ _ _ _ _ _ => rfl

theorem RwlStands.trans {s t u : State} (h : RwlStands s t) (g : RwlStands t u) : RwlStands s u :=
  fun o r ho f hf hty => (g o r ho f hf hty).trans (h o r ho f hf hty)

/-- What another master than keeper firmware commits leaves every such field. -/
theorem Committed.rwlStands {m off v : Nat} {h : RegHit} {s t : State} (hc : Committed m h off v s t) (hs : s.Inv) (hf : findReg off = some h) (hm : m ≠ mKeeper) :
    RwlStands s t := by
  intro o g hg f hmem hty
  have hq := quiet_of_rwl hg hmem hty
  by_cases ho : o = off
  · subst ho
    obtain rfl : g = h := Option.some.inj (hg.symm.trans hf)
    rw [hc.word hq f hmem, if_neg (by simp [hty]), FieldSpec.committed, FieldSpec.write_rwl hty hm]
  · rw [hc.ran.commit_reg hs hq ho]

/-- A commit tells of a field that it refuses to another master than keeper firmware. -/
theorem Committed.tells_privilege {m off v : Nat} {h : RegHit} {s t : State} (hc : Committed m h off v s t) (hm : m ≠ mKeeper) {f : FieldSpec} (hf : f ∈ h.spec.fields)
    (hty : f.ty = .rwl) (hne : f.part v ≠ f.part (s.reg off).toNat) :
    ∃ l, Adds s t l ∧ l.length ≤ 2 ∧ (s.events.length + 2 ≤ 4096 → ∃ x ∈ l, x.tells Ev.csrPrivilege (masterSrc m) off) := by
  obtain ⟨l, hadds, hlen, htold, -⟩ := hc.records
  refine ⟨l, hadds, hlen, fun hroom => (htold hroom f hf).1 ?_⟩
  rw [FieldSpec.committed, FieldSpec.write_rwl hty hm]
  exact decide_eq_true (Ne.symm hne)

/-- A commit that asks no such field to change tells of no refused privilege. -/
theorem Committed.silent {m off v : Nat} {h : RegHit} {s t : State} (hc : Committed m h off v s t) (hm : m ≠ mKeeper)
    (hsame : ∀ f ∈ h.spec.fields, f.ty = .rwl → f.part v = f.part (s.reg off).toNat) : ∀ x ∈ t.events.drop s.events.length, x.code ≠ Ev.csrPrivilege.code := by
  obtain ⟨l, hadds, -, -, hsilent⟩ := hc.records
  rw [hadds.drop]
  refine hsilent (fun f hf => ?_)
  by_cases hty : f.ty = .rwl
  · rw [FieldSpec.committed, FieldSpec.write_rwl hty hm]
    exact decide_eq_false (fun hne => hne (hsame f hf hty).symm)
  · exact FieldSpec.write_privilege hty _ _ _ _

/-! The three kinds of registers with such a field whose writes have an effect of their own: it is keeper firmware's alone. -/

theorem byMaster_of_other {m : Nat} (hm : m ≠ mKeeper) (off : Nat) (w : M Unit) : byMaster m off w = w := byMaster_of_mayWrite (by simp [mayWrite, hm]) w

theorem regStore_rstcBlock (m v : Nat) : regStore m Reg.RSTC_BLOCK v = rstcBlockWrite m v := rfl

theorem regStore_keytCmd (m v : Nat) : regStore m Reg.KEYT_CMD v = keytCmdWrite m v := rfl

theorem regStore_linkCfg (m v : Nat) {l : Nat} (hl : l < 6) : regStore m (Reg.CRAXIS_LINK_CFG l) v = linkCfgWrite m l v := by
  match l, hl with
  | 0, _ | 1, _ | 2, _ | 3, _ | 4, _ | 5, _ => rfl

theorem rwlWithEffect_iff {off : Nat} : rwlWithEffect off = true ↔ off = Reg.RSTC_BLOCK ∨ off = Reg.KEYT_CMD ∨ ∃ l < 6, off = Reg.CRAXIS_LINK_CFG l := by
  simp [rwlWithEffect, or_assoc]

/-- They are plain; and keeper firmware alone may write any field of the register that resets blocks. -/
theorem effects_plain : ((Reg.RSTC_BLOCK :: Reg.KEYT_CMD :: (List.range 6).map Reg.CRAXIS_LINK_CFG).all (fun o => (findReg o).all (fun g => decide (g.spec.kind = .plain))) &&
    (findReg Reg.RSTC_BLOCK).all (fun g => g.spec.fields.all (fun f => decide (f.ty = .rwl)))) = true := by decide +kernel

theorem plain_of_rwlWithEffect {off : Nat} (ho : rwlWithEffect off = true) {h : RegHit} (hf : findReg off = some h) : h.spec.kind = .plain := by
  have hall := List.all_eq_true.mp ((Bool.and_eq_true _ _).mp effects_plain).1 off (by
    rcases rwlWithEffect_iff.mp ho with h | h | ⟨l, hl, h⟩
    · simp [h]
    · simp [h]
    · simp only [List.mem_cons, List.mem_map, List.mem_range]
      exact .inr (.inr ⟨l, hl, h.symm⟩))
  rw [hf] at hall
  exact of_decide_eq_true hall

/-- A register's word is known from its fields. -/
theorem eq_of_parts {off : Nat} {h : RegHit} (hf : findReg off = some h) {w w' : W32} (hw : Implemented off w) (hw' : Implemented off w')
    (hparts : ∀ f ∈ h.spec.fields, f.part w.toNat = f.part w'.toNat) : w = w' := by
  have hle : ∀ (w w' : W32), Implemented off w → (∀ f ∈ h.spec.fields, f.part w.toNat = f.part w'.toNat) → ∀ i < 32, w.getLsbD i = true → w'.getLsbD i = true := by
    intro w w' hw hparts i hi hb
    have hmask := implemented_iff.mp hw i hi hb
    rw [testBit_implMask hf, List.any_eq_true] at hmask
    obtain ⟨f, hmem, hin⟩ := hmask
    rw [Bool.and_eq_true, decide_eq_true_eq, decide_eq_true_eq] at hin
    have hwidth := (fieldsFrom_mem (findReg_fields hf) hmem).2.2.1
    have hbit := congrArg (fun x => Nat.testBit x (i - f.lo)) (hparts f hmem)
    simp only [FieldSpec.testBit_part hwidth, show i - f.lo < f.width by omega, show f.lo + (i - f.lo) = i by omega, decide_true, Bool.true_and] at hbit
    exact hbit.symm.trans hb
  refine BitVec.eq_of_getLsbD_eq (fun i hi => Bool.eq_iff_iff.mpr ⟨hle w w' hw hparts i hi, hle w' w hw' (fun f hmem => (hparts f hmem).symm) i hi⟩)

/-- Storing the word that a register holds changes nothing of what has been committed. -/
theorem Committed.rewrite {m off v : Nat} {h : RegHit} {s t : State} (hc : Committed m h off v s t) (ht : t.Inv) {w : W32} (hw : w = t.reg off) :
    Committed m h off v s ((Act.reg off w).apply t) where
  ran := hc.ran.trans (.one (a := .reg off w) (.inr rfl))
  word hq f hmem := by
    rw [ht.reg_apply_reg_implemented (hw ▸ State.reg_implemented ht.reserved off), hw]
    exact hc.word hq f hmem
  shadow := hc.shadow
  records := hc.records

/-- Another master than keeper firmware asks for no block's reset. -/
theorem post_rstcBlockWrite {s : State} (hs : s.Inv) {h : RegHit} (hf : findReg Reg.RSTC_BLOCK = some h) {m : Nat} (hm : m ≠ mKeeper) (v : Nat) :
    Post (rstcBlockWrite m v) s (fun _ t => Committed m h Reg.RSTC_BLOCK v s t) := by
  refine post_bind (post_look (post_bind ?_))
  rw [regWrite_plain hf (plain_of_rwlWithEffect (by decide) hf), byMaster_of_other hm]
  refine (post_commitReg hs hf m v).mono (fun _ t hc => post_bind (post_look (post_bind (post_act (post_bind (post_look ?_))))))
  have ht := hc.ran.inv hs
  have hsame : t.reg Reg.RSTC_BLOCK = s.reg Reg.RSTC_BLOCK := by
    refine eq_of_parts hf (State.reg_implemented ht.reserved _) (State.reg_implemented hs.reserved _) (fun f hmem => ?_)
    have hall := ((Bool.and_eq_true _ _).mp effects_plain).2
    rw [hf] at hall
    exact hc.rwlStands hs hf hm _ h hf f hmem (of_decide_eq_true (List.all_eq_true.mp hall f hmem))
  have hor : s.reg Reg.RSTC_BLOCK ||| t.reg Reg.RSTC_BLOCK = t.reg Reg.RSTC_BLOCK := by rw [hsame, BitVec.or_self]
  have hc2 := hc.rewrite ht hor
  have ht2 := hc2.ran.inv hs
  refine post_ite (fun _ => ?_) (fun _ => ?_)
  · refine post_act (hc2.rewrite ht2 ?_)
    rw [ht.reg_apply_reg_implemented (by rw [hor]; exact State.reg_implemented ht.reserved _), hor, hsame]
  · refine (does_forIn_yield _ _ (fun s _ => s) ?_ _).post ?_
    · intro i _ s
      rw [if_neg (by simp [hsame])]
      exact does_pure _ _
    · exact hc2

theorem post_keytCmdWrite {s : State} (hs : s.Inv) {h : RegHit} (hf : findReg Reg.KEYT_CMD = some h) {m : Nat} (hm : m ≠ mKeeper) (v : Nat) :
    Post (keytCmdWrite m v) s (fun _ t => Committed m h Reg.KEYT_CMD v s t) := by
  refine post_bind ?_
  rw [regWrite_plain hf (plain_of_rwlWithEffect (by decide) hf), byMaster_of_other hm]
  refine (post_commitReg hs hf m v).mono (fun _ t hc => ?_)
  rw [if_neg hm]
  exact post_pure hc

theorem post_linkCfgWrite {s : State} (hs : s.Inv) {l : Nat} (hl : l < 6) {h : RegHit} (hf : findReg (Reg.CRAXIS_LINK_CFG l) = some h) {m : Nat} (hm : m ≠ mKeeper) (v : Nat) :
    Post (linkCfgWrite m l v) s (fun _ t => Committed m h (Reg.CRAXIS_LINK_CFG l) v s t) := by
  refine post_bind ?_
  rw [regWrite_plain hf (plain_of_rwlWithEffect (rwlWithEffect_iff.mpr (.inr (.inr ⟨l, hl, rfl⟩))) hf), byMaster_of_other hm]
  refine (post_commitReg hs hf m v).mono (fun _ t hc => ?_)
  rw [if_neg (fun hk => hm hk.2)]
  exact post_pure hc

/-- Another master's write of a plain register with such a field is the commit of its word. -/
theorem post_regStore_other {s : State} (hs : s.Inv) {off : Nat} {h : RegHit} (hf : findReg off = some h) (hk : h.spec.kind = .plain)
    (ho : ownEffect off = false ∨ rwlWithEffect off = true) {m : Nat} (hm : m ≠ mKeeper) (v : Nat) : Post (regStore m off v) s (fun _ t => Committed m h off v s t) := by
  rcases ho with ho | ho
  · rw [regStore_of_plain ho, regWrite_plain hf hk, byMaster_of_other hm]
    exact post_commitReg hs hf m v
  · obtain rfl | rfl | ⟨l, hl, rfl⟩ := rwlWithEffect_iff.mp ho
    · rw [regStore_rstcBlock]
      exact post_rstcBlockWrite hs hf hm v
    · rw [regStore_keytCmd]
      exact post_keytCmdWrite hs hf hm v
    · rw [regStore_linkCfg m v hl]
      exact post_linkCfgWrite hs hl hf hm v

/-! The halves of a quantity of 64 bits (R14). -/

/-- What is told, once the halves are committed, of the fields refused to another master than keeper firmware. -/
def TellsRefused (h : RegHit) (m off v : Nat) (s t : State) : Prop :=
  ∀ f ∈ h.spec.fields, f.ty = .rwl → f.part v ≠ f.part (s.reg off).toNat → s.Told t Ev.csrPrivilege (masterSrc m) off

/-- Of a commit that follows what leaves such fields: it tells of those it refuses, as they were before both. -/
theorem Committed.tells_after {m off v : Nat} {h : RegHit} {s s1 t : State} (hc : Committed m h off v s1 t) (hf : findReg off = some h) (hm : m ≠ mKeeper)
    {l : List Event} (hadds : Adds s s1 l) (hlen : l.length ≤ 2) (hstands : RwlStands s s1) : TellsRefused h m off v s t := by
  intro f hmem hty hne
  obtain ⟨k, hadds', -, htold⟩ := hc.tells_privilege hm hmem hty (by rw [hstands off h hf f hmem hty]; exact hne)
  refine (hadds.trans hadds').told (fun hroom => ?_)
  obtain ⟨x, hx, htells⟩ := htold (by rw [hadds.length]; omega)
  exact ⟨x, List.mem_append_right _ hx, htells⟩

/-- Records told of stay told of. -/
theorem TellsRefused.later {h : RegHit} {m off v : Nat} {s t u : State} (ht : TellsRefused h m off v s t) {l k : List Event} (hadds : Adds s t l) (hadds' : Adds t u k) :
    TellsRefused h m off v s u := by
  intro f hmem hty hne hroom
  obtain ⟨x, hx, htells⟩ := ht f hmem hty hne hroom
  rw [hadds.drop] at hx
  rw [(hadds.trans hadds').drop]
  exact ⟨x, List.mem_append_left _ hx, htells⟩

/-- The end of a write of HI: its master's holding register is empty, and the word is committed. -/
theorem post_commitHi {s s1 : State} (hs1 : s1.Inv) {off : Nat} {h : RegHit} (hf : findReg off = some h) {m : Nat} (hm : m ≠ mKeeper) (v key : Nat) {l : List Event}
    (hadds : Adds s s1 l) (hlen : l.length ≤ 2) (hstands : RwlStands s s1) :
    Post (act (.hold key none) >>= fun _ => commitReg m h off v) s1 (fun _ t => RwlStands s t ∧ TellsRefused h m off v s t ∧ ∃ k, Adds s1 t k) := by
  refine post_bind (post_act ((post_commitReg ((Act.hold key none).apply_inv s1 hs1) hf m v).mono (fun _ t hc => ?_)))
  have hstands1 : RwlStands s ((Act.hold key none).apply s1) := hstands
  obtain ⟨k, hadds', -⟩ := hc.records
  exact ⟨hstands1.trans (hc.rwlStands ((Act.hold key none).apply_inv s1 hs1) hf hm), hc.tells_after hf hm hadds hlen hstands1, k, hadds'⟩

/-- A write of HI by another master commits the held LO, if there is one, and the word. -/
theorem post_regWrite_hi {s : State} (hs : s.Inv) {off : Nat} {h : RegHit} (hf : findReg off = some h) (hk : h.spec.kind = .hi) {m : Nat} (hm : m ≠ mKeeper) (v : Nat) :
    Post (regWrite m off v) s (fun _ t => RwlStands s t ∧ TellsRefused h m off v s t ∧
      ∀ (w : W32) (l : RegHit), Store.get (fun _ => none) s.holds (masterKey m (off - 4)) = some w → findReg (off - 4) = some l → TellsRefused l m (off - 4) w.toNat s t) := by
  unfold regWrite
  simp only [hf, hk]
  rw [byMaster_of_other hm]
  refine post_bind (post_look ?_)
  cases hheld : Store.get (fun _ => none) s.holds (masterKey m (off - 4)) with
  | none =>
    refine (post_commitHi hs hf hm v _ (Adds.of_eq rfl) (by simp) (.refl s)).mono (fun _ t ⟨hstands, htells, _⟩ => ⟨hstands, htells, fun _ _ hw => (nomatch hw)⟩)
  | some w =>
    cases hl : findReg (off - 4) with
    | none =>
      refine (post_commitHi hs hf hm v _ (Adds.of_eq rfl) (by simp) (.refl s)).mono (fun _ t ⟨hstands, htells, _⟩ => ⟨hstands, htells, fun _ _ _ hl => (nomatch hl)⟩)
    | some l =>
      refine post_bind ((post_commitReg hs hl m w.toNat).mono (fun _ t1 hc => ?_))
      obtain ⟨k, hadds, hlen, -⟩ := hc.records
      refine (post_commitHi (hc.ran.inv hs) hf hm v _ hadds hlen (hc.rwlStands hs hl hm)).mono (fun _ t ⟨hstands, htells, k', hadds'⟩ => ⟨hstands, htells, ?_⟩)
      intro w' l' hw' hl'
      obtain rfl := Option.some.inj hw'
      obtain rfl := Option.some.inj hl'
      exact (hc.tells_after hl hm (Adds.of_eq rfl) (by simp) (.refl s)).later hadds hadds'

/-- Settles O10, by the kind of the register: a plain one is committed, LO is held, HI commits the halves; and a commit by another master refuses every such field. -/
theorem keeperAloneWritesRwl : Obligations.KeeperAloneWritesRwl := by
  intro s hs m off v h hf hrwl ho hp hm
  have hexec := exec_registerWrite v (findReg_aligned hf) hp
  have hq : quiet off = true := by
    obtain ⟨f, hmem, hty⟩ := List.any_eq_true.mp hrwl
    exact quiet_of_rwl hf hmem (of_decide_eq_true hty)
  have hown : h.spec.kind ≠ .plain → regStore m off v = regWrite m off v := fun hk => by
    rcases ho with ho | ho
    · exact regStore_of_plain ho m v
    · exact absurd (plain_of_rwlWithEffect ho hf) hk
  cases hk : h.spec.kind with
  | plain =>
    refine ((post_regStore_other hs hf hk ho hm v).mono (fun _ t hc => ?_)).completes hexec
    refine ⟨hc.rwlStands hs hf hm, fun _ => hc.tells_after hf hm (Adds.of_eq rfl) (by simp) (.refl s), fun hk => (nomatch hk), fun hk => (nomatch hk), fun _ => hc.silent hm, fun _ f hmem _ => hc.takes (by simp [mayWrite, hm]) hq hmem⟩
  | lo =>
    rw [hown (by simp [hk]), regWrite_lo hf hk, byMaster_of_other hm] at hexec
    exact (post_act ⟨RwlStands.refl s, fun hk => absurd rfl hk, fun hk => (nomatch hk), fun _ => rfl, fun hk => (nomatch hk), fun hk => (nomatch hk)⟩ : Post (act _) s _).completes hexec
  | hi =>
    rw [hown (by simp [hk])] at hexec
    refine ((post_regWrite_hi hs hf hk hm v).mono (fun _ t ⟨hstands, htells, hlo⟩ => ?_)).completes hexec
    exact ⟨hstands, fun _ => htells, fun _ => hlo, fun hk => (nomatch hk), fun hk => (nomatch hk), fun hk => (nomatch hk)⟩

end Sys2Proof.Machine
end

section
/-! SUPPORT. Fields of registers as they are set and read, and the registers of a tile's sequencer. -/

namespace Sys2Proof.Machine

open Sys2Proof

theorem testBit_bitsOf {lo width : Nat} (hw : 0 < width) (x i : Nat) : (bitsOf x (lo + width - 1) lo).testBit i = (decide (i < width) && x.testBit (lo + i)) := by
  rw [bitsOf, show lo + width - 1 + 1 - lo = width by omega, Nat.testBit_mod_two_pow, Nat.testBit_div_two_pow, Nat.add_comm lo i]

/-- A word after a field of it is put: the field's bits are the value's, the others stand. -/
theorem testBit_put {f : Fld} (hw : 0 < f.width) (h32 : f.lo + f.width ≤ 32) (w : W32) (v i : Nat) : (f.put w v).toNat.testBit i =
    if f.lo ≤ i ∧ i < f.lo + f.width then v.testBit (i - f.lo) else w.toNat.testBit i := by
  obtain ⟨q, hq⟩ : ∃ q, w.toNat / 2 ^ f.lo / 2 ^ f.width = q := ⟨_, rfl⟩
  obtain ⟨r, hr⟩ : ∃ r, w.toNat % 2 ^ f.lo = r := ⟨_, rfl⟩
  have hrlt : r < 2 ^ f.lo := hr ▸ Nat.mod_lt _ (Nat.two_pow_pos _)
  have hsplit : w.toNat = 2 ^ f.lo * (2 ^ f.width * q + bitsOf w.toNat (f.lo + f.width - 1) f.lo) + r := by
    rw [bitsOf, show f.lo + f.width - 1 + 1 - f.lo = f.width by omega, ← hq, ← hr, Nat.div_add_mod, Nat.div_add_mod]
  have hput : (f.put w v).toNat = (2 ^ f.lo * (2 ^ f.width * q + v % 2 ^ f.width) + r) % 2 ^ 32 := by
    rw [Fld.put, BitVec.toNat_ofNat]
    congr 1
    generalize bitsOf w.toNat (f.lo + f.width - 1) f.lo = m at hsplit ⊢
    rw [hsplit, Nat.mul_add, Nat.mul_add, Nat.mul_comm m, Nat.mul_comm (v % 2 ^ f.width)]
    omega
  have hfield : f.lo ≤ i ∧ i < f.lo + f.width → i < 32 := by omega
  rw [hput, Nat.testBit_mod_two_pow, Nat.testBit_two_pow_mul_add _ hrlt]
  by_cases hlo : i < f.lo
  · rw [if_pos hlo, if_neg (by omega)]
    conv_rhs => rw [hsplit, Nat.testBit_two_pow_mul_add _ hrlt, if_pos hlo]
    simp [show i < 32 by omega]
  · rw [if_neg hlo, Nat.testBit_two_pow_mul_add _ (Nat.mod_lt _ (Nat.two_pow_pos _))]
    by_cases hin : i < f.lo + f.width
    · rw [if_pos (by omega), if_pos ⟨by omega, hin⟩, Nat.testBit_mod_two_pow]
      simp [show i < 32 by omega, show i - f.lo < f.width by omega]
    · rw [if_neg (by omega), if_neg (by omega)]
      have hm : bitsOf w.toNat (f.lo + f.width - 1) f.lo < 2 ^ f.width := by
        rw [bitsOf, show f.lo + f.width - 1 + 1 - f.lo = f.width by omega]
        exact Nat.mod_lt _ (Nat.two_pow_pos _)
      have hbit : w.toNat.testBit i = q.testBit (i - f.lo - f.width) := by
        rw [hsplit, Nat.testBit_two_pow_mul_add _ hrlt, if_neg hlo, Nat.testBit_two_pow_mul_add _ hm, if_neg (by omega)]
      rw [hbit]
      by_cases h : i < 32
      · simp [h]
      · rw [← hbit, Nat.testBit_lt_two_pow (Nat.lt_of_lt_of_le w.isLt (Nat.pow_le_pow_right (by omega) (by omega)))]
        simp [h]

/-- The register of a field implements all its bits. -/
def Fld.covered (f : Fld) : Bool :=
  decide (0 < f.width) && decide (f.lo + f.width ≤ 32) && (List.range f.width).all (fun i => (implMask f.off).testBit (f.lo + i))

theorem Fld.covered_iff {f : Fld} : f.covered = true ↔ 0 < f.width ∧ f.lo + f.width ≤ 32 ∧ ∀ i < f.width, (implMask f.off).testBit (f.lo + i) = true := by
  simp [Fld.covered, and_assoc]

/-- Two fields of one register with no bit in common. -/
def Fld.apart (f g : Fld) : Prop := f.lo + f.width ≤ g.lo ∨ g.lo + g.width ≤ f.lo

/-- A field set reads as the value that it holds. -/
theorem State.Inv.fld_setFld {s : State} (h : s.Inv) {f : Fld} (hf : f.covered = true) (v : Nat) :
    ((Act.reg f.off (f.put (s.reg f.off) v)).apply s).fld f = v % 2 ^ f.width := by
  obtain ⟨hw, h32, hmask⟩ := Fld.covered_iff.mp hf
  rw [State.fld, h.reg_apply_reg_same]
  apply Nat.eq_of_testBit_eq
  intro i
  rw [testBit_bitsOf hw, Nat.testBit_mod_two_pow, BitVec.toNat_and, Nat.testBit_and, testBit_put hw h32, BitVec.toNat_ofNat, Nat.testBit_mod_two_pow]
  by_cases hi : i < f.width
  · rw [if_pos (by omega), hmask i hi]
    simp [hi, show f.lo + i < 32 by omega]
  · simp [hi]

/-- A field set leaves the others of its register. -/
theorem State.Inv.fld_setFld_apart {s : State} (h : s.Inv) {f g : Fld} (hf : 0 < f.width) (hf32 : f.lo + f.width ≤ 32) (hg : 0 < g.width) (hoff : g.off = f.off)
    (hapart : f.apart g) (v : Nat) : ((Act.reg f.off (f.put (s.reg f.off) v)).apply s).fld g = s.fld g := by
  rw [State.fld, State.fld, hoff, h.reg_apply_reg_same]
  apply Nat.eq_of_testBit_eq
  intro i
  rw [testBit_bitsOf hg, testBit_bitsOf hg, BitVec.toNat_and, Nat.testBit_and, testBit_put hf hf32]
  by_cases hi : i < g.width
  · rw [if_neg (by rcases hapart with h | h <;> omega)]
    have himpl := congrArg (fun w : W32 => w.toNat.testBit (g.lo + i)) (State.reg_implemented h.reserved f.off)
    simp only [BitVec.toNat_and, Nat.testBit_and] at himpl
    rw [himpl]
  · simp [hi]

/-- A field of another register stands. -/
theorem State.Inv.fld_apply_reg_other {s : State} (h : s.Inv) {off : Nat} {g : Fld} (hoff : g.off ≠ off) (v : W32) : ((Act.reg off v).apply s).fld g = s.fld g := by
  rw [State.fld, State.fld, h.reg_apply_reg_other v hoff]

theorem State.fld_congr {s t : State} {f : Fld} (h : t.reg f.off = s.reg f.off) : t.fld f = s.fld f := by rw [State.fld, State.fld, h]

theorem State.reg64_congr {s t : State} {lo : Nat} (h : t.reg lo = s.reg lo) (g : t.reg (lo + 4) = s.reg (lo + 4)) : t.reg64 lo = s.reg64 lo := by
  rw [State.reg64, State.reg64, h, g]

/-! A 64-bit counter. -/

/-- The two registers of a saturating counter: 48 bits are implemented. -/
def counterAt (lo : Nat) : Bool := decide (implMask lo = 2 ^ 32 - 1) && decide (implMask (lo + 4) = 2 ^ 16 - 1)

theorem counterAt_iff {lo : Nat} : counterAt lo = true ↔ implMask lo = 2 ^ 32 - 1 ∧ implMask (lo + 4) = 2 ^ 16 - 1 := by simp [counterAt]

/-- Counting: the value saturates at 48 bits; the two registers alone change. -/
theorem post_bump {s : State} (hs : s.Inv) {lo : Nat} (hlo : counterAt lo = true) {n : Nat} (hn : n ≠ 0) :
    Post (bump lo n) s (fun _ t => t = (Act.reg (lo + 4) (BitVec.ofNat 32 (min (s.reg64 lo + n) (2 ^ 48 - 1) / 2 ^ 32))).apply ((Act.reg lo (BitVec.ofNat 32 (min (s.reg64 lo + n) (2 ^ 48 - 1)))).apply s) ∧
      t.reg64 lo = min (s.reg64 lo + n) (2 ^ 48 - 1)) := by
  obtain ⟨hm, hm'⟩ := counterAt_iff.mp hlo
  unfold bump
  rw [if_neg hn]
  refine post_bind (post_look (post_bind (post_act (post_act ⟨rfl, ?_⟩))))
  generalize hw : min (s.reg64 lo + n) (2 ^ 48 - 1) = w
  have hlt : w < 2 ^ 48 := by omega
  have hs1 := (Act.reg lo (BitVec.ofNat 32 w)).apply_inv s hs
  rw [State.reg64, hs1.reg_apply_reg_same, hs1.reg_apply_reg_other _ (by omega), hs.reg_apply_reg_same, hm, hm']
  simp only [BitVec.toNat_and, BitVec.toNat_ofNat]
  rw [show (2 ^ 32 - 1) % 2 ^ 32 = 2 ^ 32 - 1 by norm_num, show (2 ^ 16 - 1) % 2 ^ 32 = 2 ^ 16 - 1 by norm_num, Nat.and_two_pow_sub_one_eq_mod, Nat.and_two_pow_sub_one_eq_mod]
  omega

end Sys2Proof.Machine
end

section
/-! SUPPORT. The bookkeeping of a tile as it issues and waits: its performance counters, its samples and its room tone, apart from what its program sees. -/

namespace Sys2Proof.Machine

open Sys2Proof

/-- The registers of a tile's performance counters and samples. -/
def bookReg (n o : Nat) : Bool := decide (0x10000000 + n * 0x10000 + 0x600 ≤ o) && decide (o < 0x10000000 + n * 0x10000 + 0x720)

theorem bookReg_iff {n o : Nat} : bookReg n o = true ↔ 0x10000000 + n * 0x10000 + 0x600 ≤ o ∧ o < 0x10000000 + n * 0x10000 + 0x720 := by simp [bookReg]

theorem bookReg_eq_false {n o : Nat} : bookReg n o = false ↔ o < 0x10000000 + n * 0x10000 + 0x600 ∨ 0x10000000 + n * 0x10000 + 0x720 ≤ o := by
  rw [← Bool.not_eq_true, bookReg_iff]
  omega

/-- A tile apart from its samples and its room tone. -/
def Tile.core (t : Tile) : Tile := { t with samples := [], sampled := [], sampleCount := 0, tone := none }

/-- The changes of a tile's bookkeeping. -/
def Act.book (n : Nat) : Act → Prop
  | .reg o _ => bookReg n o = true
  | .tile k f => k = n ∧ ∀ t, (f t).core = t.core
  | .free => True
  | .pwr _ => True
  | _ => False

theorem Act.book_pmu {n i k : Nat} (hi : i < 16) (hk : k < 4) (w : W32) : (Act.reg (Reg.TILE_PMU_SEL n 0 + 16 * i + 4 * k) w).book n := by
  rw [Act.book, bookReg_iff, Reg.TILE_PMU_SEL]
  omega

theorem acts_pmuTile_book (n ev amount : Nat) (pc : Option Nat) (slate : Nat) (priv : Bool) : Acts (Act.book n) (pmuTile n ev amount pc slate priv) :=
  acts_pmuTile (fun _ hi _ hk w => Act.book_pmu hi hk w)

theorem acts_modTile {P : Act → Prop} {n : Nat} {f : Tile → Tile} (h : P (.tile n f)) : Acts P (modTile n f) := acts_act h
theorem acts_getTile {P : Act → Prop} (n : Nat) : Acts P (getTile n) := acts_look _

theorem acts_modTile_book {n : Nat} {f : Tile → Tile} (h : ∀ t, (f t).core = t.core) : Acts (Act.book n) (modTile n f) := acts_modTile ⟨rfl, h⟩

theorem acts_sampleFinish (n : Nat) (x : SampleRec) (aborted : Bool) (latency : Nat) : Acts (Act.book n) (sampleFinish n x aborted latency) :=
  acts_bind (acts_look _) (fun _ => acts_bind (acts_modTile_book (fun _ => rfl)) (fun _ => acts_pmuTile_book _ _ _ _ _ _))

theorem acts_bump_skipped (n k : Nat) : Acts (Act.book n) (bump (Reg.TILE_SMP_SKIPPED_LO n) k) := by
  refine acts_bump (fun w => ?_) (fun w => ?_)
  · rw [Act.book, bookReg_iff, Reg.TILE_SMP_SKIPPED_LO]
    omega
  · rw [Act.book, bookReg_iff, Reg.TILE_SMP_SKIPPED_LO]
    omega

theorem acts_sampleSelect (n w pc slate : Nat) : Acts (Act.book n) (sampleSelect n w pc slate) := by
  refine acts_bind (acts_getFld _) (fun _ => acts_bind (acts_getFld _) (fun _ => acts_when (fun _ => acts_bind (acts_getTile _) (fun _ => acts_bind (acts_getFld _) (fun _ => ?_)))))
  refine acts_ite (fun _ => acts_modTile_book (fun _ => rfl)) (fun _ => acts_bind (acts_modTile_book (fun _ => rfl)) (fun _ => ?_))
  refine acts_ite (fun _ => acts_sampleFinish _ _ _ _) (fun _ => acts_ite (fun _ => acts_bump_skipped _ _) (fun _ => acts_modTile_book (fun _ => rfl)))

theorem acts_toneStart (n : Nat) : Acts (Act.book n) (toneStart n) :=
  acts_bind (acts_getTile _) (fun _ => acts_when (fun _ => acts_bind (acts_freeValue trivial) (fun _ => acts_bind (acts_look _) (fun _ => acts_modTile_book (fun _ => rfl)))))

theorem acts_toneEnd (n : Nat) : Acts (Act.book n) (toneEnd n) :=
  acts_bind (acts_getTile _) (fun _ => acts_when (fun _ => acts_bind (acts_look _) (fun _ => acts_bind (acts_look _) (fun _ =>
    acts_bind (acts_bind (acts_look _) (fun _ => acts_act trivial)) (fun _ => acts_modTile_book (fun _ => rfl))))))

/-! What the bookkeeping of a tile leaves. -/

theorem State.tile_apply_tile {s : State} (h : s.Inv) (n k : Nat) (f : Tile → Tile) : ((Act.tile n f).apply s).tile k = if k = n then f (s.tile n) else s.tile k :=
  Store.get_set (fun _ => Tile.empty) n k _ h.tiles

theorem State.Inv.tile_apply_same {s : State} (h : s.Inv) (n : Nat) (f : Tile → Tile) : ((Act.tile n f).apply s).tile n = f (s.tile n) := by
  rw [State.tile_apply_tile h, if_pos rfl]

theorem State.Inv.tile_apply_other {s : State} (h : s.Inv) {n k : Nat} (hk : k ≠ n) (f : Tile → Tile) : ((Act.tile n f).apply s).tile k = s.tile k := by
  rw [State.tile_apply_tile h, if_neg hk]

/-- From s to t the bookkeeping of tile n has changed, and nothing else that its program or another part sees. -/
structure Booked (n : Nat) (s t : State) : Prop where
  inv : t.Inv
  reg : ∀ o, bookReg n o = false → t.reg o = s.reg o
  core : (t.tile n).core = (s.tile n).core
  others : ∀ k, k ≠ n → t.tile k = s.tile k
  rest : ∀ p, p ∉ [StatePart.registers, .tiles, .pwr] → p.stands s t

theorem Act.book.changes {n : Nat} {a : Act} (h : a.book n) : a.kind.changes ⊆ [.registers, .tiles, .pwr] := by
  cases a with
  | reg _ _ | tile _ _ | free | pwr _ => simp [Act.kind, ActKind.changes]
  | _ => exact h.elim

theorem Booked.refl {n : Nat} {s : State} (hs : s.Inv) : Booked n s s := ⟨hs, fun _ _ => rfl, rfl, fun _ _ => rfl, fun p _ => p.stands_refl s⟩

theorem Booked.trans {n : Nat} {s t u : State} (h : Booked n s t) (g : Booked n t u) : Booked n s u :=
  ⟨g.inv, fun o ho => (g.reg o ho).trans (h.reg o ho), g.core.trans h.core, fun k hk => (g.others k hk).trans (h.others k hk),
    fun p hp => StatePart.stands_trans (h.rest p hp) (g.rest p hp)⟩

theorem Act.book.booked {n : Nat} {a : Act} (h : a.book n) {s : State} (hs : s.Inv) : Booked n s (a.apply s) := by
  have hrest := fun p (hp : p ∉ [StatePart.registers, .tiles, .pwr]) => Act.apply_stands (a := a) (fun hmem => hp (h.changes hmem)) s
  have hinv := a.apply_inv s hs
  cases a with
  | reg o v =>
    refine ⟨hinv, fun k hk => hs.reg_apply_reg_other v ?_, rfl, fun _ _ => rfl, hrest⟩
    rintro rfl
    simp [show bookReg n k = true from h] at hk
  | tile k f =>
    obtain ⟨rfl, hf⟩ := h
    exact ⟨hinv, fun _ _ => rfl, by rw [hs.tile_apply_same, hf], fun j hj => hs.tile_apply_other hj f, hrest⟩
  | free => exact ⟨hinv, fun _ _ => rfl, rfl, fun _ _ => rfl, hrest⟩
  | pwr f => exact ⟨hinv, fun _ _ => rfl, rfl, fun _ _ => rfl, hrest⟩
  | _ => exact h.elim

theorem Ran.booked {n : Nat} {s t : State} (r : Ran (Act.book n) s t) (hs : s.Inv) : Booked n s t := by
  induction r with
  | refl s => exact .refl hs
  | step ha _ ih => exact (ha.booked hs).trans (ih (ha.booked hs).inv)

theorem Acts.booked {α : Type} {n : Nat} {m : M α} (h : Acts (Act.book n) m) {s : State} (hs : s.Inv) : Post m s (fun _ t => Booked n s t) := (h s).mono (fun _ _ r => r.booked hs)

end Sys2Proof.Machine
end

section
/-! SUPPORT. How a micro-op issues, waits and goes on (R231, R237, R266). -/

namespace Sys2Proof.Machine

open Sys2Proof

/-! The registers of a tile are those of every tile. -/

theorem RegSpec.lt_of_hits {r : RegSpec} {d : Nat} (h : r.hits d = true) : d < r.off + max 1 (r.n1 * r.s1) := by
  simp only [RegSpec.hits, Bool.and_eq_true, decide_eq_true_eq] at h
  obtain ⟨hle, h⟩ := h
  split at h
  · have := of_decide_eq_true h
    omega
  · rename_i hs
    rw [Bool.and_eq_true, decide_eq_true_eq] at h
    have := (Nat.div_lt_iff_lt_mul (Nat.pos_of_ne_zero hs)).mp h.1
    omega

/-- The block of the tiles, and the others. -/
def tileSpecs : BlockSpec := ⟨0x10000000, 0x10000, 180, regsTile1 ++ regsTile2 ++ regsTile3 ++ regsTile4⟩
def lowBlocks : List BlockSpec := blocks.take 18

theorem blocks_eq : blocks = lowBlocks ++ [tileSpecs] := rfl

theorem lowBlocks_low : lowBlocks.all (fun b => b.regs.all (fun r => decide (b.base + b.count * b.stride + r.off + max 1 (r.n1 * r.s1) ≤ 0x10000000))) = true := by decide +kernel

/-- The places of an array of blocks hold the same registers. -/
theorem BlockSpec.find_place {b : BlockSpec} (hs : b.stride ≠ 0) {n o : Nat} (hn : n < b.count) (ho : o < b.stride) :
    (b.find (b.base + n * b.stride + o)).map (·.spec) = b.regs.find? (fun r => r.hits o) := by
  have hk : (b.base + n * b.stride + o - b.base) / b.stride = n := by
    rw [Nat.add_assoc, Nat.add_sub_cancel_left, Nat.mul_comm, Nat.mul_add_div (Nat.pos_of_ne_zero hs), Nat.div_eq_of_lt ho, Nat.add_zero]
  have hrel : b.base + n * b.stride + o - b.base - n * b.stride = o := by rw [Nat.add_assoc, Nat.add_sub_cancel_left, Nat.add_sub_cancel_left]
  rw [BlockSpec.find, if_neg (by rw [Nat.add_assoc]; exact Nat.not_lt.mpr (Nat.le_add_right _ _))]
  simp only [if_neg hs, hk, if_neg (Nat.not_le.mpr hn), hrel]
  cases List.find? (fun r => r.hits o) b.regs <;> rfl

/-- A register found lies in its block's places. -/
theorem BlockSpec.find_lt {b : BlockSpec} {a : Nat} {h : RegHit} (hf : b.find a = some h) : ∃ r ∈ b.regs, a < b.base + b.count * b.stride + r.off + max 1 (r.n1 * r.s1) := by
  obtain ⟨k, hk⟩ : ∃ k, (if b.stride = 0 then 0 else (a - b.base) / b.stride) = k := ⟨_, rfl⟩
  simp only [BlockSpec.find, hk] at hf
  split at hf
  · cases hf
  · split at hf
    · cases hf
    · rename_i hcount
      split at hf
      · cases hf
      · rename_i r hr
        have hlt := RegSpec.lt_of_hits (List.find?_some (p := fun x : RegSpec => x.hits (a - b.base - k * b.stride)) hr)
        have hmul := Nat.mul_le_mul_right b.stride (Nat.le_of_lt (Nat.lt_of_not_le hcount))
        exact ⟨r, List.mem_of_find?_eq_some hr, by omega⟩

/-- No register of another block lies among those of the tiles. -/
theorem find_low {b : BlockSpec} (hb : b ∈ lowBlocks) {a : Nat} (ha : 0x10000000 ≤ a) : b.find a = none := by
  by_contra hne
  obtain ⟨h, hf⟩ := Option.ne_none_iff_exists'.mp hne
  obtain ⟨r, hr, hlt⟩ := BlockSpec.find_lt hf
  have hle := of_decide_eq_true (List.all_eq_true.mp (List.all_eq_true.mp lowBlocks_low b hb) r hr)
  exact absurd (Nat.lt_of_lt_of_le hlt hle) (Nat.not_lt.mpr ha)

theorem findReg_tile {n o : Nat} (hn : n < 180) (ho : o < 0x10000) (hal : o % 4 = 0) :
    (findReg (0x10000000 + n * 0x10000 + o)).map (·.spec) = tileSpecs.regs.find? (fun r => r.hits o) := by
  have hlow : List.findSome? (fun b => b.find (0x10000000 + n * 0x10000 + o)) lowBlocks = none :=
    List.findSome?_eq_none_iff.mpr (fun b hb => find_low hb (by rw [Nat.add_assoc]; exact Nat.le_add_right _ _))
  rw [findReg_eq (by simp [Nat.add_mod, Nat.mul_mod, hal]), blocks_eq, List.findSome?_append, hlow, Option.none_or, List.findSome?_singleton]
  exact BlockSpec.find_place (b := tileSpecs) (by decide) hn ho

/-- The implemented bits of a tile's register are those of tile 0's. -/
theorem implMask_tile {n o : Nat} (hn : n < 180) (ho : o < 0x10000) (hal : o % 4 = 0) : implMask (0x10000000 + n * 0x10000 + o) = implMask (0x10000000 + o) := by
  have hmask : ∀ a, implMask a = (((findReg a).map (·.spec)).map (fun r => r.fields.foldl (fun m f => m ||| f.mask) 0)).getD 0 := by
    intro a
    rw [implMask]
    cases findReg a <;> rfl
  have hzero := findReg_tile (n := 0) (by omega) ho hal
  rw [Nat.zero_mul, Nat.add_zero] at hzero
  rw [hmask, hmask, findReg_tile hn ho hal, hzero]

/-! Registers of the sequencer. -/

theorem implMask_seqStatus {n : Nat} (hn : n < 180) : implMask (Reg.TILE_SEQ_STATUS n) = 0x7F :=
  (implMask_tile hn (o := 0x104) (by omega) rfl).trans (by decide +kernel)
theorem implMask_seqPc {n : Nat} (hn : n < 180) : implMask (Reg.TILE_SEQ_PC n) = 0x1FFF1FFF := (implMask_tile hn (o := 0x108) (by omega) rfl).trans (by decide +kernel)
theorem implMask_seqCtrl {n : Nat} (hn : n < 180) : implMask (Reg.TILE_SEQ_CTRL n) = 0xFF01 := (implMask_tile hn (o := 0x100) (by omega) rfl).trans (by decide +kernel)

/-- The fields of a tile's sequencer. -/
def seqFlds (n : Nat) : List Fld :=
  [Fl.TILE_SEQ_STATUS_STATE n, Fl.TILE_SEQ_STATUS_TAKE_OPEN n, Fl.TILE_SEQ_STATUS_FAULT n, Fl.TILE_SEQ_STATUS_TAKE_FAILED n, Fl.TILE_SEQ_STATUS_SATURATED n, Fl.TILE_SEQ_PC_PC n,
    Fl.TILE_SEQ_PC_FAULT_PC n, Fl.TILE_SEQ_CTRL_RUN n]

/-- The whole registers of a tile's sequencer. -/
def seqWords (n : Nat) : List Nat := [Reg.TILE_SEQ_SLATE_LO n, Reg.TILE_SEQ_SLATE_LO n + 4] ++ (List.range 8).map (Reg.TILE_SEQ_EC n)

theorem seqWords_zero : (seqWords 0).all (fun o => decide (implMask o = 2 ^ 32 - 1)) = true := by decide +kernel

section
variable {n : Nat} (hn : n < 180)
include hn

theorem seqFlds_covered {f : Fld} (hf : f ∈ seqFlds n) : f.covered = true := by
  have hcov : ∀ (o m lo width : Nat), implMask o = m →
      (decide (0 < width) && decide (lo + width ≤ 32) && (List.range width).all (fun i => m.testBit (lo + i))) = true → (⟨o, lo, width⟩ : Fld).covered = true := by
    rintro o m lo width rfl h
    exact h
  simp only [seqFlds, List.mem_cons, List.not_mem_nil, or_false] at hf
  rcases hf with rfl | rfl | rfl | rfl | rfl | rfl | rfl | rfl
  · exact hcov _ _ _ _ (implMask_seqStatus hn) (by decide)
  · exact hcov _ _ _ _ (implMask_seqStatus hn) (by decide)
  · exact hcov _ _ _ _ (implMask_seqStatus hn) (by decide)
  · exact hcov _ _ _ _ (implMask_seqStatus hn) (by decide)
  · exact hcov _ _ _ _ (implMask_seqStatus hn) (by decide)
  · exact hcov _ _ _ _ (implMask_seqPc hn) (by decide)
  · exact hcov _ _ _ _ (implMask_seqPc hn) (by decide)
  · exact hcov _ _ _ _ (implMask_seqCtrl hn) (by decide)

theorem issue_counterAt : counterAt (Reg.TILE_SEQ_ISSUE_LO n) = true :=
  counterAt_iff.mpr ⟨(implMask_tile hn (o := 0x140) (by omega) rfl).trans (by decide +kernel), (implMask_tile hn (o := 0x144) (by omega) rfl).trans (by decide +kernel)⟩

theorem wait_counterAt : counterAt (Reg.TILE_SEQ_WAIT_LO n) = true :=
  counterAt_iff.mpr ⟨(implMask_tile hn (o := 0x148) (by omega) rfl).trans (by decide +kernel), (implMask_tile hn (o := 0x14C) (by omega) rfl).trans (by decide +kernel)⟩

theorem seqWords_implemented {o : Nat} (ho : o ∈ seqWords n) (w : W32) : Implemented o w := by
  obtain ⟨d, hd, hal, hzero, rfl⟩ : ∃ d < 0x10000, d % 4 = 0 ∧ 0x10000000 + d ∈ seqWords 0 ∧ o = 0x10000000 + n * 0x10000 + d := by
    refine ⟨o - (0x10000000 + n * 0x10000), ?_⟩
    simp only [seqWords, Reg.TILE_SEQ_SLATE_LO, Reg.TILE_SEQ_EC, List.cons_append, List.nil_append, List.mem_cons, List.mem_map, List.mem_range] at ho ⊢
    rcases ho with rfl | rfl | ⟨i, hi, rfl⟩
    · refine ⟨by omega, by omega, .inl (by omega), by omega⟩
    · refine ⟨by omega, by omega, .inr (.inl (by omega)), by omega⟩
    · refine ⟨by omega, by omega, .inr (.inr ⟨i, hi, by omega⟩), by omega⟩
  rw [Implemented, implMask_tile hn hd hal, of_decide_eq_true (List.all_eq_true.mp seqWords_zero _ hzero)]
  exact BitVec.and_allOnes

theorem state_covered : (Fl.TILE_SEQ_STATUS_STATE n).covered = true := seqFlds_covered hn (by simp [seqFlds])
theorem pc_covered : (Fl.TILE_SEQ_PC_PC n).covered = true := seqFlds_covered hn (by simp [seqFlds])

end

/-! What a piece of a meaning changes of a tile. -/

/-- The function on tiles does not read the bookkeeping. -/
def Plain (f : Tile → Tile) : Prop := ∀ x y : Tile, x.core = y.core → (f x).core = (f y).core

theorem plain_of_core {f : Tile → Tile} (h : ∀ t, (f t).core = (f t.core).core) : Plain f := fun x y hxy => by rw [h x, h y, hxy]

theorem plain_id : Plain id := fun _ _ h => h

theorem Plain.comp {f g : Tile → Tile} (hg : Plain g) (hf : Plain f) : Plain (g ∘ f) := fun x y h => hg _ _ (hf x y h)

/-- From s to t the registers W of the module may have changed, tile n by f, and its bookkeeping: nothing else. -/
structure Moved (n : Nat) (W : List Nat) (f : Tile → Tile) (s t : State) : Prop where
  inv : t.Inv
  reg : ∀ o, o ∉ W → bookReg n o = false → t.reg o = s.reg o
  core : (t.tile n).core = (f (s.tile n)).core
  others : ∀ k, k ≠ n → t.tile k = s.tile k
  rest : ∀ p, p ∉ [StatePart.registers, .tiles, .pwr] → p.stands s t

theorem Booked.moved {n : Nat} {s t : State} (h : Booked n s t) : Moved n [] id s t := ⟨h.inv, fun o _ ho => h.reg o ho, h.core, h.others, h.rest⟩

section
variable {n : Nat} {W V : List Nat} {f g : Tile → Tile} {s t u : State}

theorem Moved.trans (h : Moved n W f s t) (k : Moved n V g t u) (hg : Plain g) : Moved n (W ++ V) (g ∘ f) s u where
  inv := k.inv
  reg o ho hb := by
    rw [List.mem_append, not_or] at ho
    exact (k.reg o ho.2 hb).trans (h.reg o ho.1 hb)
  core := k.core.trans (hg _ _ h.core)
  others j hj := (k.others j hj).trans (h.others j hj)
  rest p hp := StatePart.stands_trans (h.rest p hp) (k.rest p hp)

theorem Moved.mono (h : Moved n W f s t) (hW : W ⊆ V) : Moved n V f s t := ⟨h.inv, fun o ho hb => h.reg o (fun hm => ho (hW hm)) hb, h.core, h.others, h.rest⟩

theorem Moved.congr (h : Moved n W f s t) (hfg : ∀ x, (f x).core = (g x).core) : Moved n W g s t := ⟨h.inv, h.reg, h.core.trans (hfg _), h.others, h.rest⟩

theorem Moved.refl (hs : s.Inv) : Moved n [] id s s := (Booked.refl hs).moved

theorem moved_reg (hs : s.Inv) (o : Nat) (v : W32) : Moved n [o] id s ((Act.reg o v).apply s) where
  inv := Act.apply_inv _ s hs
  reg k hk _ := hs.reg_apply_reg_other v (by simpa using hk)
  core := rfl
  others _ _ := rfl
  rest p hp := Act.apply_stands (fun hmem => hp (by simp [Act.kind, ActKind.changes] at hmem; simp [hmem])) s

theorem moved_tile (hs : s.Inv) (f : Tile → Tile) : Moved n [] f s ((Act.tile n f).apply s) where
  inv := Act.apply_inv _ s hs
  reg _ _ _ := rfl
  core := by rw [hs.tile_apply_same]
  others k hk := hs.tile_apply_other hk f
  rest p hp := Act.apply_stands (fun hmem => hp (by simp [Act.kind, ActKind.changes] at hmem; simp [hmem])) s

theorem Moved.mem (h : Moved n W f s t) : t.mem = s.mem := (h.rest .memory (by decide)).1

end

end Sys2Proof.Machine
end

section
/-! SUPPORT. A micro-op that waits, one that issues, and the command of one at a program counter (R231, R237). -/

namespace Sys2Proof.Machine

open Sys2Proof

/-! The pieces. -/

section
variable {n : Nat} {s : State}

theorem post_getFld {f : Fld} {Q : Nat → State → Prop} (h : Q (s.fld f) s) : Post (getFld f) s Q := post_look h
theorem post_getReg {o : Nat} {Q : W32 → State → Prop} (h : Q (s.reg o) s) : Post (getReg o) s Q := post_look h
theorem post_getTile {Q : Tile → State → Prop} (h : Q (s.tile n) s) : Post (getTile n) s Q := post_look h

/-- A field of a register set. -/
theorem post_setFld_moved (n : Nat) (hs : s.Inv) {f : Fld} (hf : f.covered = true) (v : Nat) : Post (setFld f v) s (fun _ t => Moved n [f.off] id s t ∧ t.fld f = v % 2 ^ f.width) :=
  (does_setFld f v s).post ⟨moved_reg hs _ _, hs.fld_setFld hf v⟩

theorem post_modTile_moved (n : Nat) (hs : s.Inv) (f : Tile → Tile) : Post (modTile n f) s (fun _ t => Moved n [] f s t) := post_act (moved_tile hs f)

theorem post_bump_moved (n : Nat) (hs : s.Inv) {lo : Nat} (hlo : counterAt lo = true) : Post (bump lo 1) s (fun _ t => Moved n [lo, lo + 4] id s t ∧ counted s t lo) := by
  refine (post_bump hs hlo Nat.one_ne_zero).mono ?_
  rintro _ t ⟨rfl, hcount⟩
  exact ⟨(moved_reg hs _ _).trans (moved_reg (Act.apply_inv _ _ hs) _ _) plain_id, hcount⟩

end

/-- A piece that keeps to a tile's bookkeeping, and what follows it. -/
theorem post_booked {α β : Type} {n : Nat} {m : M α} {f : α → M β} {s : State} (hs : s.Inv) (hm : Acts (Act.book n) m) {Q : β → State → Prop}
    (h : ∀ a t, Moved n [] id s t → Post (f a) t Q) : Post (m >>= f) s Q := post_bind ((hm.booked hs).mono (fun a t hb => h a t hb.moved))

/-! Waiting. -/

/-- The registers in which a tile counts its waiting. -/
def waitRegs (n : Nat) : List Nat := [Reg.TILE_SEQ_STATUS n, Reg.TILE_SEQ_WAIT_LO n, Reg.TILE_SEQ_WAIT_LO n + 4]

/-- The micro-op has waited, and the tile has then changed by f. -/
structure WaitedThen (n : Nat) (f : Tile → Tile) (s t : State) : Prop where
  moved : Moved n (waitRegs n) (fun x => f { x with waited := x.waited + 1 }) s t
  state : t.fld (Fl.TILE_SEQ_STATUS_STATE n) = seqWaiting
  count : counted s t (Reg.TILE_SEQ_WAIT_LO n)

theorem bookReg_seq {n o : Nat} (ho : o < 0x10000000 + n * 0x10000 + 0x600) : bookReg n o = false := bookReg_eq_false.mpr (.inl ho)

theorem counted_after {s t u : State} {lo : Nat} (h : counted s t lo) {n : Nat} {W : List Nat} {f : Tile → Tile} (g : Moved n W f t u) (hlo : lo ∉ W) (hhi : lo + 4 ∉ W)
    (hb : bookReg n lo = false) (hb' : bookReg n (lo + 4) = false) : counted s u lo := (State.reg64_congr (g.reg lo hlo hb) (g.reg _ hhi hb')).trans h

theorem post_uopWait {n : Nat} (hn : n < 180) {s : State} (hs : s.Inv) : Post (uopWait n) s (fun _ t => WaitedThen n id s t) := by
  refine post_bind (post_look (post_bind (post_look (post_bind ((post_bump_moved n hs (wait_counterAt hn)).mono ?_)))))
  rintro _ t1 ⟨h1, hcount⟩
  refine post_booked h1.inv (acts_pmuTile_book _ _ _ _ _ _) (fun _ t2 h2 => post_bind ((post_modTile_moved n h2.inv _).mono (fun _ t3 h3 => ?_)))
  refine (post_setFld_moved n h3.inv (state_covered hn) _).mono ?_
  rintro _ t ⟨h4, hstate⟩
  have hplain : Plain (fun x : Tile => { x with waited := x.waited + 1 }) := plain_of_core (fun _ => rfl)
  have hall := ((h1.trans h2 plain_id).trans h3 hplain).trans h4 plain_id
  refine ⟨(hall.mono ?_).congr (fun _ => rfl), hstate, ?_⟩
  · simp [waitRegs, Fl.TILE_SEQ_STATUS_STATE]
  · refine counted_after hcount ((h2.trans h3 hplain).trans h4 plain_id) ?_ ?_ (bookReg_seq ?_) (bookReg_seq ?_) <;>
      simp [Fl.TILE_SEQ_STATUS_STATE, Reg.TILE_SEQ_STATUS, Reg.TILE_SEQ_WAIT_LO]

/-! Issuing. -/

/-- What an issue does to a tile. -/
def Tile.issue (x : Tile) : Tile := { x with issued := x.issued + 1, waited := 0, wait := .none, cueReached := false }

/-- The registers in which a tile counts its issues. -/
def issueRegs (n : Nat) : List Nat := [Reg.TILE_SEQ_STATUS n, Reg.TILE_SEQ_ISSUE_LO n, Reg.TILE_SEQ_ISSUE_LO n + 4]

theorem post_countIssue {n : Nat} (hn : n < 180) {s : State} (hs : s.Inv) : Post (countIssue n) s (fun _ t =>
    Moved n (issueRegs n) Tile.issue s t ∧ t.fld (Fl.TILE_SEQ_STATUS_STATE n) = seqIssuing ∧ counted s t (Reg.TILE_SEQ_ISSUE_LO n)) := by
  refine post_bind (post_look (post_bind (post_look (post_bind (post_look (post_bind ((post_bump_moved n hs (issue_counterAt hn)).mono ?_)))))))
  rintro _ t1 ⟨h1, hcount⟩
  refine post_booked h1.inv (acts_pmuTile_book _ _ _ _ _ _) (fun _ t2 h2 => post_bind ((post_setFld_moved n h2.inv (state_covered hn) _).mono ?_))
  rintro _ t3 ⟨h3, hstate⟩
  refine post_booked h3.inv (acts_sampleSelect _ _ _ _) (fun _ t4 h4 => post_booked h4.inv (acts_toneEnd _) (fun _ t5 h5 => ?_))
  refine (post_modTile_moved n h5.inv _).mono (fun _ t h6 => ?_)
  have hplain : Plain Tile.issue := plain_of_core (fun _ => rfl)
  have hend := (h4.trans h5 plain_id).trans h6 hplain
  have hrest := (h2.trans h3 plain_id).trans hend (hplain.comp plain_id)
  refine ⟨((h1.trans hrest ((hplain.comp plain_id).comp plain_id)).mono ?_).congr (fun _ => rfl), ?_, ?_⟩
  · simp [issueRegs, Fl.TILE_SEQ_STATUS_STATE]
  · rw [State.fld_congr (hend.reg _ (by simp) (bookReg_seq (by simp [Fl.TILE_SEQ_STATUS_STATE, Reg.TILE_SEQ_STATUS])))]
    exact hstate
  · refine counted_after hcount hrest ?_ ?_ (bookReg_seq ?_) (bookReg_seq ?_) <;> simp [Fl.TILE_SEQ_STATUS_STATE, Reg.TILE_SEQ_STATUS, Reg.TILE_SEQ_ISSUE_LO]

theorem stepPc_core (t : Tile) (pc : Nat) : (t.stepPc pc).1.core = (t.core.stepPc pc).1.core ∧ (t.stepPc pc).2 = (t.core.stepPc pc).2 := by
  unfold Tile.stepPc Tile.core
  dsimp only
  split
  · exact ⟨rfl, rfl⟩
  · split
    · split
      · exact ⟨rfl, rfl⟩
      · unfold Tile.setIx Tile.ixOf
        dsimp only
        split <;> exact ⟨rfl, rfl⟩
    · exact ⟨rfl, rfl⟩

/-- The registers that an issue which goes on changes. -/
def doneRegs (n : Nat) : List Nat := [Reg.TILE_SEQ_STATUS n, Reg.TILE_SEQ_ISSUE_LO n, Reg.TILE_SEQ_ISSUE_LO n + 4, Reg.TILE_SEQ_PC n]

/-- The micro-op has issued and execution goes on after it. -/
structure Done (n : Nat) (s t : State) : Prop where
  moved : Moved n (doneRegs n) (fun x => (x.issue.stepPc (s.pc n)).1) s t
  state : t.fld (Fl.TILE_SEQ_STATUS_STATE n) = seqIssuing
  count : counted s t (Reg.TILE_SEQ_ISSUE_LO n)
  pc : t.pc n = ((s.tile n).stepPc (s.pc n)).2 % 8192

theorem stepPc_issue (x : Tile) (pc : Nat) : (x.issue.stepPc pc).2 = (x.stepPc pc).2 ∧ (x.issue.stepPc pc).1 = (x.stepPc pc).1.issue := by
  unfold Tile.stepPc Tile.issue
  dsimp only
  split
  · exact ⟨rfl, rfl⟩
  · split
    · split
      · exact ⟨rfl, rfl⟩
      · unfold Tile.setIx Tile.ixOf
        dsimp only
        split <;> exact ⟨rfl, rfl⟩
    · exact ⟨rfl, rfl⟩

theorem plain_stepPc (pc : Nat) : Plain (fun x => (x.stepPc pc).1) := plain_of_core (fun t => (stepPc_core t pc).1)

/-- A tile set to what a function makes of it. -/
theorem act_tile_const {s : State} {n : Nat} (f : Tile → Tile) : (Act.tile n (fun _ => f (s.tile n))).apply s = (Act.tile n f).apply s := rfl

theorem post_uopDone {n : Nat} (hn : n < 180) {s : State} (hs : s.Inv) : Post (uopDone n) s (fun _ t => Done n s t) := by
  refine post_bind (post_look (post_bind ((post_countIssue hn hs).mono ?_)))
  rintro _ t1 ⟨h1, hstate, hcount⟩
  refine post_bind (post_getTile (post_bind (post_act ?_)))
  rw [act_tile_const (fun x => (x.stepPc (s.pc n)).1)]
  have h2 := moved_tile (n := n) h1.inv (fun x => (x.stepPc (s.pc n)).1)
  refine (post_setFld_moved n h2.inv (pc_covered hn) _).mono ?_
  rintro _ t ⟨h3, hpc⟩
  have hend := h2.trans h3 plain_id
  refine ⟨((h1.trans hend (plain_id.comp (plain_stepPc _))).mono ?_).congr (fun _ => rfl), ?_, ?_, ?_⟩
  · simp [doneRegs, issueRegs, Fl.TILE_SEQ_PC_PC]
  · rw [State.fld_congr (hend.reg _ (by simp [Fl.TILE_SEQ_STATUS_STATE, Fl.TILE_SEQ_PC_PC, Reg.TILE_SEQ_STATUS, Reg.TILE_SEQ_PC])
      (bookReg_seq (by simp [Fl.TILE_SEQ_STATUS_STATE, Reg.TILE_SEQ_STATUS])))]
    exact hstate
  · refine counted_after hcount hend ?_ ?_ (bookReg_seq ?_) (bookReg_seq ?_) <;> simp [Fl.TILE_SEQ_PC_PC, Reg.TILE_SEQ_PC, Reg.TILE_SEQ_ISSUE_LO]
  · have hsame : ((t1.tile n).stepPc (s.pc n)).2 = ((s.tile n).stepPc (s.pc n)).2 := by
      rw [(stepPc_core (t1.tile n) _).2, h1.core, ← (stepPc_core _ _).2, (stepPc_issue _ _).1]
    rw [State.pc, hpc, hsame]
    exact Nat.mod_mod _ _

end Sys2Proof.Machine
end

section
/-! SUPPORT. What the stopping of a job leaves (R464, R587), and a program fault (R240). -/

namespace Sys2Proof.Machine

open Sys2Proof

/-! A relation of the state before a piece of a meaning to the state after it. -/

/-- From every sound state the piece leaves a sound one to which the relation holds. -/
def Holds {α : Type} (I : State → State → Prop) (m : M α) : Prop := ∀ s, s.Inv → Post m s (fun _ t => t.Inv ∧ I s t)

/-- The relation composes. -/
structure Composes (I : State → State → Prop) : Prop where
  refl : ∀ s, I s s
  trans : ∀ {s t u}, I s t → I t u → I s u

section
variable {α β : Type} {I : State → State → Prop}

theorem holds_pure (o : Composes I) (a : α) : Holds I (pure a) := fun s hs => post_pure ⟨hs, o.refl s⟩
theorem holds_look (o : Composes I) (f : State → α) : Holds I (look f) := fun s hs => post_look ⟨hs, o.refl s⟩
theorem holds_bind (o : Composes I) {m : M α} {f : α → M β} (h : Holds I m) (g : ∀ a, Holds I (f a)) : Holds I (m >>= f) := fun s hs =>
  post_bind ((h s hs).mono (fun a t ⟨ht, r⟩ => (g a t ht).mono (fun _ _ ⟨hu, q⟩ => ⟨hu, o.trans r q⟩)))
theorem holds_ite {c : Prop} [Decidable c] {m n : M α} (h : c → Holds I m) (g : ¬c → Holds I n) : Holds I (if c then m else n) := by
  split
  · exact h ‹_›
  · exact g ‹_›
theorem holds_when (o : Composes I) {c : Prop} [Decidable c] {m : M Unit} (h : c → Holds I m) : Holds I (if c then m else pure ()) := holds_ite h (fun _ => holds_pure o ())
theorem holds_when_then (o : Composes I) {c : Prop} [Decidable c] {m : M Unit} {r : Unit → M β} (h : c → Holds I m) (g : ∀ a, Holds I (r a)) :
    Holds I (if c then m >>= r else r ()) := holds_ite (fun hc => holds_bind o (h hc) g) (fun _ => g ())
theorem holds_forIn (o : Composes I) {γ : Type} (l : List γ) (b : β) {f : γ → β → M (ForInStep β)} (h : ∀ x ∈ l, ∀ b, Holds I (f x b)) : Holds I (forIn l b f) := by
  induction l generalizing b with
  | nil => exact holds_pure o b
  | cons x t ih =>
    rw [List.forIn_cons]
    refine holds_bind o (h x List.mem_cons_self b) (fun r => ?_)
    cases r with
    | done b => exact holds_pure o b
    | yield b => exact ih b (fun y hy => h y (List.mem_cons_of_mem _ hy))
theorem holds_for (o : Composes I) {γ : Type} (l : List γ) {body : γ → M Unit} (h : ∀ x ∈ l, Holds I (body x)) :
    Holds I (forIn l PUnit.unit (fun x _ => do body x; pure (ForInStep.yield PUnit.unit))) :=
  holds_forIn o l _ (fun x hx _ => holds_bind o (h x hx) (fun _ => holds_pure o _))

theorem Ran.holds {P : Act → Prop} (o : Composes I) (h : ∀ a s, P a → s.Inv → I s (a.apply s)) {s t : State} (r : Ran P s t) (hs : s.Inv) : I s t := by
  induction r with
  | refl s => exact o.refl s
  | step ha _ ih => exact o.trans (h _ _ ha hs) (ih (Act.apply_inv _ _ hs))

theorem Acts.holds {P : Act → Prop} (o : Composes I) (h : ∀ a s, P a → s.Inv → I s (a.apply s)) {m : M α} (hm : Acts P m) : Holds I m := fun s hs =>
  (hm s).mono (fun _ _ r => ⟨r.inv hs, r.holds o h hs⟩)

end

/-! The changes on the hub's side: none of the tiles' registers, none of the collective engine's. -/

def hubReg (o : Nat) : Bool := decide (o < 0x800000) || (decide (0x900000 ≤ o) && decide (o < 0x10000000))

theorem hubReg_iff {o : Nat} : hubReg o = true ↔ o < 0x800000 ∨ 0x900000 ≤ o ∧ o < 0x10000000 := by simp [hubReg]

theorem quiet_of_not_hubReg {o : Nat} (h : hubReg o = false) : quiet o = true := by
  have hn : ¬(o < 0x800000 ∨ 0x900000 ≤ o ∧ o < 0x10000000) := fun hc => by simp [hubReg_iff.mpr hc] at h
  refine quiet_iff.mpr ⟨Bool.eq_false_iff.mpr (fun hp => ?_), ?_, ?_⟩
  · have := pmonCounter_iff.mp hp
    omega
  · rw [Reg.RAS_COUNT_LO]
    omega
  · rw [Reg.RAS_COUNT_LO]
    omega

/-- The changes of the power, clock and telemetry blocks and of what is told of. -/
def Act.onHub : Act → Prop
  | .reg o _ => hubReg o = true
  | .shadow _ _ | .event _ | .pwr _ | .clk _ _ | .free => True
  | _ => False

theorem onHubCounters_onHub : OnHubCounters Act.onHub := fun o _ h => by
  have := pmonCounter_iff.mp h
  exact hubReg_iff.mpr (.inr (by omega))

theorem acts_setFld_onHub {f : Fld} (h : hubReg f.off = true) (v : Nat) : Acts Act.onHub (setFld f v) := acts_setFld (fun _ => h)

theorem acts_raise_onHub (e : Ev) (src : Nat × Nat) (detail slate : Nat) : Acts Act.onHub (raise e src detail slate) := acts_raise onHubCounters_onHub (fun _ => trivial)
theorem acts_raiseStop_onHub (e : Ev) (src : Nat × Nat) (detail slate : Nat) : Acts Act.onHub (raiseStop e src detail slate) := acts_raiseStop onHubCounters_onHub (fun _ => trivial)

theorem hubReg_clkgGroup {g : Nat} (hg : g < 12) : hubReg (Reg.CLKG_GROUP g) = true := by
  rw [hubReg_iff, Reg.CLKG_GROUP]
  omega

theorem acts_mhzSync {g : Nat} (hg : g < 12) : Acts Act.onHub (mhzSync g) :=
  acts_bind (acts_look _) (fun _ => acts_bind (acts_look _) (fun _ => acts_bind (acts_getFld _) (fun _ => acts_bind (acts_getFld _) (fun _ =>
    acts_setFld_onHub (hubReg_clkgGroup hg) _))))

theorem acts_pointTo {g : Nat} (hg : g < 12) (p : Nat) : Acts Act.onHub (pointTo g p) := acts_bind (acts_act trivial) (fun _ => acts_mhzSync hg)

theorem acts_matchForced (p : Nat) : Acts Act.onHub (matchForced p) :=
  acts_bind (acts_look _) (fun _ => acts_bind (acts_look _) (fun _ => acts_bind (acts_look _) (fun _ => acts_when (fun _ =>
    acts_bind (acts_setFld_onHub (by decide) _) (fun _ => acts_when (fun _ => acts_bind (acts_act trivial) (fun _ => acts_raise_onHub _ _ _ _)))))))

theorem acts_matchSync : Acts Act.onHub matchSync := by
  refine acts_bind (acts_look _) (fun mp => ?_)
  cases mp with
  | none => exact acts_pure _
  | some mp =>
    refine acts_bind (acts_forIn _ _ (fun g hg _ => ?_)) (fun _ => acts_pure _)
    have hg := List.mem_range.mp hg
    refine acts_bind (acts_getFld _) (fun _ => acts_bind (acts_look _) (fun _ => acts_bind (acts_look _) (fun _ => acts_bind (acts_look _) (fun _ => ?_))))
    refine acts_ite (fun _ => acts_ite (fun _ => acts_bind (acts_pointTo hg _) (fun _ => acts_pure _)) (fun _ => ?_)) (fun _ => acts_pure _)
    exact acts_ite (fun _ => acts_bind (acts_matchForced _) (fun _ => acts_pure _)) (fun _ =>
      acts_ite (fun _ => acts_bind (acts_pointTo hg _) (fun _ => acts_pure _)) (fun _ => acts_pure _))

theorem acts_powerSync : Acts Act.onHub powerSync :=
  acts_bind (acts_bind (acts_look _) (fun _ => acts_setFld_onHub (by decide) _)) (fun _ => acts_bind (acts_bind (acts_look _) (fun _ => acts_act trivial)) (fun _ => acts_matchSync))

theorem acts_fmthSync : Acts Act.onHub fmthSync := acts_bind (acts_look _) (fun _ => acts_setFld_onHub (by decide) _)

/-- Shadows of blocks on the hub's side. -/
theorem acts_applyShadows {lo hi : Nat} (h : ∀ o, lo ≤ o → o < hi → hubReg o = true) : Acts Act.onHub (applyShadows lo hi) := fun s => by
  refine (does_applyShadows s lo hi).post ?_
  have hmem : ∀ e ∈ s.shadows.filter (fun e => decide (lo ≤ e.1) && decide (e.1 < hi)), hubReg e.1 = true := fun e he => by
    have hin := (List.mem_filter.mp he).2
    rw [Bool.and_eq_true, decide_eq_true_eq, decide_eq_true_eq] at hin
    exact h _ hin.1 hin.2
  clear h
  generalize s.shadows.filter (fun e => decide (lo ≤ e.1) && decide (e.1 < hi)) = l at hmem
  induction l generalizing s with
  | nil => exact .refl s
  | cons e t ih =>
    refine Ran.trans ?_ (ih (s.applied e) (fun x hx => hmem x (List.mem_cons_of_mem _ hx)))
    obtain ⟨o, v⟩ := e
    have ho := hmem (o, v) List.mem_cons_self
    cases v with
    | none => exact .refl s
    | some v =>
      cases hf : findReg o with
      | none =>
        rw [applied_unlisted hf]
        exact .refl s
      | some h =>
        rw [applied_some hf]
        exact .step (a := .reg o _) ho (.one (a := .shadow o none) trivial)

end Sys2Proof.Machine
end

section
/-! SUPPORT. The stopping of a job, and a program fault (R240, R464, R587). -/

namespace Sys2Proof.Machine

open Sys2Proof

/-- The collective engine apart from its buckets; a job apart from whether it runs. -/
def Coll.bare (c : Coll) : Coll := { c with runs := [], chunks := [], later := [], gradHeld := [] }
def Job.bare (j : Job) : Job := { j with running := false, started := false, stopped := false }

/-- The place of a register in its tile's page is one that the stopping of a tile writes: TILE_SEQ_CTRL, TILE_SEQ_STATUS, TILE_DSP_STATUS. -/
def stopReg (o : Nat) : Bool := hubReg o || decide (o = Reg.COLL_CTRL) || (decide (0x10000000 ≤ o) && (decide (o % 0x10000 = 0x100) || decide (o % 0x10000 = 0x104) || decide (o % 0x10000 = 0x504)))

theorem stopReg_eq_false {o : Nat} : stopReg o = false ↔ hubReg o = false ∧ o ≠ Reg.COLL_CTRL ∧ (0x10000000 ≤ o → o % 0x10000 ≠ 0x100 ∧ o % 0x10000 ≠ 0x104 ∧ o % 0x10000 ≠ 0x504) := by
  simp [stopReg, and_assoc]

theorem hubReg_tile {o : Nat} (ho : 0x10000000 ≤ o) : hubReg o = false := by
  rw [← Bool.not_eq_true, hubReg_iff]
  omega

/-- What the stopping of a job leaves of a state. -/
structure Stops (s t : State) : Prop where
  reg : ∀ o, stopReg o = false → t.reg o = s.reg o
  fault : ∀ n, s.fld (Fl.TILE_SEQ_STATUS_STATE n) = seqFault → t.reg (Reg.TILE_SEQ_STATUS n) = s.reg (Reg.TILE_SEQ_STATUS n)
  run : ∀ n, s.fld (Fl.TILE_SEQ_CTRL_RUN n) = 0 → t.fld (Fl.TILE_SEQ_CTRL_RUN n) = 0
  take : ∀ n, (t.tile n).take = (s.tile n).take
  failed : ∀ n, (s.tile n).failed = none → (t.tile n).failed = none
  objects : t.reel.objects = s.reel.objects
  keeps : s.reel.xfers = [] → t.reel.xfers = [] ∧ t.mem = s.mem ∧ t.undef = s.undef
  events : ∃ l, Adds s t l
  coll : t.coll.bare = s.coll.bare
  queue : s.upd.queue = [] → t.upd.queue = []
  groups : t.upd.groups = s.upd.groups
  job : t.job.map Job.bare = s.job.map Job.bare
  idle : (∀ k, s.job = some k → k.running = false) → ∀ k, t.job = some k → k.running = false
  rest : ∀ p, p ∉ [StatePart.registers, .shadows, .memory, .events, .tiles, .reel, .job, .upd, .coll, .hub, .pwr] → p.stands s t

theorem stops_refl (s : State) : Stops s s :=
  ⟨fun _ _ => rfl, fun _ _ => rfl, fun _ h => h, fun _ => rfl, fun _ h => h, rfl, fun h => ⟨h, rfl, rfl⟩, ⟨[], Adds.of_eq rfl⟩, rfl, fun h => h, rfl, rfl, fun h => h, fun p _ => p.stands_refl s⟩

theorem Stops.trans {s t u : State} (h : Stops s t) (g : Stops t u) : Stops s u where
  reg o ho := (g.reg o ho).trans (h.reg o ho)
  fault n hn := by
    have hst := h.fault n hn
    exact (g.fault n ((State.fld_congr hst).trans hn)).trans hst
  run n hn := g.run n (h.run n hn)
  take n := (g.take n).trans (h.take n)
  failed n hn := g.failed n (h.failed n hn)
  objects := g.objects.trans h.objects
  keeps hx := by
    obtain ⟨hx1, hm1, hu1⟩ := h.keeps hx
    obtain ⟨hx2, hm2, hu2⟩ := g.keeps hx1
    exact ⟨hx2, hm2.trans hm1, hu2.trans hu1⟩
  events := by
    obtain ⟨l, hl⟩ := h.events
    obtain ⟨k, hk⟩ := g.events
    exact ⟨l ++ k, hl.trans hk⟩
  coll := g.coll.trans h.coll
  queue hq := g.queue (h.queue hq)
  groups := g.groups.trans h.groups
  job := g.job.trans h.job
  idle hj := g.idle (h.idle hj)
  rest p hp := StatePart.stands_trans (h.rest p hp) (g.rest p hp)

theorem composes_stops : Composes Stops := ⟨stops_refl, Stops.trans⟩

/-- Of a job that stops, the changes that leave all that is claimed whatever the state. -/
def Act.ofStop : Act → Prop
  | .reg o w => hubReg o = true ∨ o = Reg.COLL_CTRL ∨ 0x10000000 ≤ o ∧ (o % 0x10000 = 0x504 ∨ o % 0x10000 = 0x100 ∧ w.toNat.testBit 0 = false)
  | .tile _ f => ∀ t, (f t).take = t.take ∧ (t.failed = none → (f t).failed = none)
  | .shadow _ _ | .event _ | .pwr _ | .clk _ _ | .free | .hub _ => True
  | .reel f => ∀ r, (f r).objects = r.objects ∧ (r.xfers = [] → (f r).xfers = [])
  | .upd f => ∀ u, (f u).groups = u.groups ∧ (u.queue = [] → (f u).queue = [])
  | .coll f => ∀ c, (f c).bare = c.bare
  | .job f => ∀ j, (f j).map Job.bare = j.map Job.bare ∧ ((∀ k, j = some k → k.running = false) → ∀ k, f j = some k → k.running = false)
  | _ => False

theorem Act.ofStop.changes {a : Act} (h : a.ofStop) : a.kind.changes ⊆ [.registers, .shadows, .events, .tiles, .reel, .job, .upd, .coll, .hub, .pwr] := by
  cases a with
  | reg _ _ | tile _ _ | shadow _ _ | event _ | pwr _ | clk _ _ | free | hub _ | reel _ | upd _ | coll _ | job _ => simp [Act.kind, ActKind.changes]
  | _ => exact h.elim

theorem Act.onHub.ofStop {a : Act} (h : a.onHub) : a.ofStop := by
  cases a with
  | reg _ _ => exact .inl h
  | shadow _ _ | event _ | pwr _ | clk _ _ | free => trivial
  | _ => exact h.elim

theorem run_off (n : Nat) : (Fl.TILE_SEQ_CTRL_RUN n).off = 0x10000000 + n * 0x10000 + 0x100 := rfl

/-- A register write of a stop leaves the states of the tiles' sequencers, and sets none running. -/
theorem Act.ofStop.reg_facts {o : Nat} {w : W32} (h : (Act.reg o w).ofStop) {s : State} (hs : s.Inv) :
    (∀ k, stopReg k = false → ((Act.reg o w).apply s).reg k = s.reg k) ∧ (∀ n, ((Act.reg o w).apply s).reg (Reg.TILE_SEQ_STATUS n) = s.reg (Reg.TILE_SEQ_STATUS n)) ∧
    ∀ n, s.fld (Fl.TILE_SEQ_CTRL_RUN n) = 0 → ((Act.reg o w).apply s).fld (Fl.TILE_SEQ_CTRL_RUN n) = 0 := by
  refine ⟨fun k hk => hs.reg_apply_reg_other w ?_, fun n => hs.reg_apply_reg_other w ?_, fun n hn => ?_⟩
  · rintro rfl
    obtain ⟨hhub, hcoll, htile⟩ := stopReg_eq_false.mp hk
    rcases h with h | h | ⟨hlo, h⟩
    · simp [hhub] at h
    · exact hcoll h
    · obtain ⟨h1, h2, h3⟩ := htile hlo
      rcases h with h | ⟨h, -⟩
      · exact h3 h
      · exact h1 h
  · rintro rfl
    rw [Act.ofStop, Reg.TILE_SEQ_STATUS, hubReg_tile (by omega), Reg.COLL_CTRL] at h
    simp at h
    omega
  · by_cases ho : (Fl.TILE_SEQ_CTRL_RUN n).off = o
    · have hbit : w.toNat.testBit 0 = false := by
        rw [← ho, run_off, Act.ofStop, hubReg_tile (by omega), Reg.COLL_CTRL] at h
        rcases h with h | h | ⟨-, h | ⟨-, h⟩⟩
        · cases h
        · omega
        · omega
        · exact h
      rw [State.fld, ho, hs.reg_apply_reg_same]
      apply Nat.eq_of_testBit_eq
      intro i
      rw [testBit_bitsOf (width := (Fl.TILE_SEQ_CTRL_RUN n).width) Nat.one_pos, Nat.zero_testBit, BitVec.toNat_and, Nat.testBit_and]
      by_cases hi : i = 0
      · subst hi
        simp [Fl.TILE_SEQ_CTRL_RUN, hbit]
      · simp [Fl.TILE_SEQ_CTRL_RUN, hi]
    · rw [hs.fld_apply_reg_other ho, hn]

theorem addEvent_adds (s : State) (e : Event) : ∃ l, Adds s (addEvent s e) l := by
  by_cases hroom : s.events.length < 4096
  · exact ⟨_, addEvent_events s e hroom⟩
  · refine ⟨[], Adds.of_eq ?_⟩
    unfold addEvent
    dsimp only
    rw [if_neg hroom]

theorem Act.ofStop.stops {a : Act} {s : State} (h : a.ofStop) (hs : s.Inv) : Stops s (a.apply s) := by
  have hrest := fun p (hp : p ∉ [StatePart.registers, .shadows, .memory, .events, .tiles, .reel, .job, .upd, .coll, .hub, .pwr]) =>
    Act.apply_stands (a := a) (p := p) (fun hmem => hp (by have := h.changes hmem; revert this; cases p <;> simp)) s
  have base := stops_refl s
  cases a with
  | reg o w =>
    obtain ⟨hreg, hst, hrun⟩ := Act.ofStop.reg_facts h hs
    exact { base with reg := hreg, fault := fun n _ => hst n, run := hrun, rest := hrest, coll := rfl }
  | tile n f =>
    refine { base with take := fun k => ?_, failed := fun k hk => ?_, rest := hrest }
    · rw [State.tile_apply_tile hs]
      split
      · rename_i hk
        rw [hk, (h _).1]
      · rfl
    · rw [State.tile_apply_tile hs]
      split
      · rename_i heq
        rw [heq] at hk
        exact (h _).2 hk
      · exact hk
  | event e =>
    exact { base with
      reg := fun o ho => addEvent_reg hs e (quiet_of_not_hubReg (stopReg_eq_false.mp ho).1)
      fault := fun n _ => addEvent_reg hs e (quiet_of_not_hubReg (hubReg_tile (by rw [Reg.TILE_SEQ_STATUS]; omega)))
      run := fun n hn => by
        rw [← hn]
        exact State.fld_congr (addEvent_reg hs e (quiet_of_not_hubReg (hubReg_tile (by rw [run_off]; omega))))
      events := addEvent_adds s e
      take := fun n => by simp [apply_event, State.tile]
      failed := fun n hn => by simpa [apply_event, State.tile] using hn
      objects := by simp [apply_event]
      keeps := fun hx => by simpa [apply_event] using hx
      coll := by simp [apply_event]
      queue := fun hq => by simpa [apply_event] using hq
      groups := by simp [apply_event]
      job := by simp [apply_event]
      idle := fun hj => by simpa [apply_event] using hj
      rest := hrest }
  | shadow _ _ => exact { base with rest := hrest }
  | pwr _ => exact { base with rest := hrest }
  | clk _ _ => exact { base with rest := hrest }
  | free => exact { base with rest := hrest }
  | hub _ => exact { base with rest := hrest }
  | reel f => exact { base with rest := hrest, objects := (h _).1, keeps := fun hx => ⟨(h _).2 hx, rfl, rfl⟩ }
  | upd f => exact { base with rest := hrest, groups := (h _).1, queue := (h _).2 }
  | coll f => exact { base with rest := hrest, coll := h _ }
  | job f => exact { base with rest := hrest, job := (h _).1, idle := (h _).2 }
  | _ => exact h.elim

/-! The pieces of a stop. -/

theorem acts_setFld_stop {f : Fld} (h : hubReg f.off = true) (v : Nat) : Acts Act.ofStop (setFld f v) := acts_setFld (fun _ => .inl h)

theorem acts_swapSync : Acts Act.onHub swapSync :=
  acts_bind (acts_look _) (fun _ => acts_bind (acts_setFld_onHub (by decide) _) (fun _ => acts_setFld_onHub (by decide) _))

theorem acts_swapLeave (n : Nat) : Acts Act.ofStop (swapLeave n) :=
  acts_bind (acts_look _) (fun _ => acts_when (fun _ => acts_bind (acts_act trivial) (fun _ => acts_swapSync.mono (fun _ h => h.ofStop))))

theorem acts_toneStart_stop (n : Nat) : Acts Act.ofStop (toneStart n) :=
  acts_bind (acts_getTile _) (fun _ => acts_when (fun _ => acts_bind (acts_freeValue trivial) (fun _ => acts_bind (acts_look _) (fun _ => acts_modTile (fun _ => ⟨rfl, fun h => h⟩)))))

theorem holds_stop {α : Type} {m : M α} (h : Acts Act.ofStop m) : Holds Stops m := h.holds composes_stops (fun _ _ ha hs => ha.stops hs)

theorem acts_clearRun (n : Nat) : Acts Act.ofStop (setFld (Fl.TILE_SEQ_CTRL_RUN n) 0) := fun s => by
  refine (does_setFld _ _ s).post (.one (a := .reg _ _) (.inr (.inr ⟨?_, .inr ⟨?_, ?_⟩⟩)))
  · rw [run_off]
    omega
  · rw [run_off]
    omega
  · rw [testBit_put (show 0 < (Fl.TILE_SEQ_CTRL_RUN n).width from Nat.one_pos) (show 0 + 1 ≤ 32 by decide),
      if_pos ⟨Nat.zero_le _, Nat.one_pos⟩, Nat.zero_testBit]

theorem acts_clearBusy (n : Nat) : Acts Act.ofStop (setFld (Fl.TILE_DSP_STATUS_BUSY n) 0) := by
  refine acts_setFld (fun _ => .inr (.inr ?_))
  rw [show (Fl.TILE_DSP_STATUS_BUSY n).off = 0x10000000 + n * 0x10000 + 0x504 from rfl]
  omega

/-- A tile's sequencer that is not at fault is set idle. -/
theorem holds_setIdle (n : Nat) : Holds Stops (getFld (Fl.TILE_SEQ_STATUS_STATE n) >>= fun st => if st ≠ seqFault then setFld (Fl.TILE_SEQ_STATUS_STATE n) seqIdle else pure ()) := fun s hs => by
  refine post_bind (post_getFld ?_)
  by_cases hst : s.fld (Fl.TILE_SEQ_STATUS_STATE n) = seqFault
  · rw [if_neg (by simp [hst])]
    exact post_pure ⟨hs, stops_refl s⟩
  · rw [if_pos hst]
    refine (does_setFld _ _ s).post ⟨Act.apply_inv _ s hs, ?_⟩
    have hoff : (Fl.TILE_SEQ_STATUS_STATE n).off = 0x10000000 + n * 0x10000 + 0x104 := rfl
    refine { stops_refl s with
      reg := fun o ho => hs.reg_apply_reg_other _ ?_
      fault := fun k hk => hs.reg_apply_reg_other _ ?_
      run := fun k hk => by rw [hs.fld_apply_reg_other (by rw [run_off, hoff]; omega), hk]
      rest := fun p hp => Act.apply_stands (fun hmem => hp (by simp [Act.kind, ActKind.changes] at hmem; simp [hmem])) s
      coll := rfl }
    · rintro rfl
      obtain ⟨-, -, htile⟩ := stopReg_eq_false.mp ho
      rw [hoff] at htile
      omega
    · intro heq
      rw [hoff, Reg.TILE_SEQ_STATUS] at heq
      obtain rfl : k = n := by omega
      exact hst hk

theorem holds_tileStop (n : Nat) : Holds Stops (tileStop n) := by
  refine holds_bind composes_stops (holds_stop (acts_getFld _)) (fun was => holds_bind composes_stops (holds_stop (acts_clearRun n)) (fun _ =>
    holds_bind composes_stops (holds_stop (acts_clearBusy n)) (fun _ => holds_bind composes_stops (holds_stop (acts_modTile (fun _ => ⟨rfl, fun _ => rfl⟩))) (fun _ =>
      holds_bind composes_stops (holds_stop (acts_swapLeave n)) (fun _ => ?_)))))
  exact holds_when_then composes_stops (fun _ => holds_stop (acts_toneStart_stop n)) (fun _ => holds_setIdle n)

theorem acts_updDrop : Acts Act.ofStop updDrop :=
  acts_bind (acts_act (fun _ => ⟨rfl, fun _ => rfl⟩)) (fun _ => acts_bind (acts_setFld_stop (by decide) _) (fun _ => acts_bind (acts_look _) (fun _ =>
    acts_when (fun _ => acts_setFld_stop (by decide) _))))

theorem acts_updStop : Acts Act.ofStop updStop := acts_bind (acts_setFld_stop (by decide) _) (fun _ => acts_updDrop)

theorem acts_collStop : Acts Act.ofStop collStop := acts_bind (acts_setFld (fun _ => .inr (.inl rfl))) (fun _ => acts_act (fun _ => rfl))

/-- What leaves all but memory, where transfers are in work. -/
theorem stops_of_memory {s t : State} (h : ∀ p, p ≠ StatePart.memory → p.stands s t) (hx : s.reel.xfers ≠ []) : Stops s t := by
  have hregs : t.regs = s.regs := h .registers (by decide)
  have htiles : t.tiles = s.tiles := h .tiles (by decide)
  have hreel : t.reel = s.reel := h .reel (by decide)
  have hupd : t.upd = s.upd := h .upd (by decide)
  have hcoll : t.coll = s.coll := h .coll (by decide)
  have hjob : t.job = s.job := h .job (by decide)
  have hreg : ∀ o, t.reg o = s.reg o := fun o => by rw [State.reg, State.reg, hregs]
  have htile : ∀ n, t.tile n = s.tile n := fun n => by rw [State.tile, State.tile, htiles]
  exact ⟨fun o _ => hreg o, fun n _ => hreg _, fun n hn => (State.fld_congr (hreg _)).trans hn, fun n => by rw [htile], fun n hn => by rw [htile, hn], by rw [hreel],
    fun hnil => absurd hnil hx, ⟨[], Adds.of_eq (h .events (by decide)).1⟩, by rw [hcoll], fun hq => by rw [hupd, hq], by rw [hupd], by rw [hjob], fun hj => by rwa [hjob],
    fun p hp => h p (fun heq => hp (by simp [heq]))⟩

/-- The changes of undefined memory alone. -/
def Act.ofUndef : Act → Prop
  | .undef _ _ => True
  | _ => False

theorem acts_undefDev (a n : Nat) : Acts Act.ofUndef (undefDev a n) :=
  acts_ite (fun _ => acts_pure _) (fun _ => acts_bind (acts_look _) (fun _ => acts_bind (acts_for _ (fun _ _ => acts_act trivial)) (fun _ => acts_pure _)))

theorem acts_abandonXfer (x : Xfer) : Acts Act.ofUndef (abandonXfer x) :=
  acts_when (fun _ => acts_bind (acts_look _) (fun _ => acts_bind (acts_look _) (fun _ => acts_undefDev _ _)))

theorem Act.ofUndef.changes {a : Act} (h : a.ofUndef) : a.kind.changes ⊆ [.memory] := by
  cases a with
  | undef _ _ => simp [Act.kind, ActKind.changes]
  | _ => exact h.elim

theorem Ran.undef_stands {s t : State} (r : Ran Act.ofUndef s t) (p : StatePart) (hp : p ≠ .memory) : p.stands s t :=
  r.stands p (fun _ ha hmem => hp (by simpa using ha.changes hmem))

/-- The Reel's transfers are abandoned: where there are none, memory stands. -/
theorem holds_reelStop : Holds Stops reelStop := by
  have hrest : Holds Stops (do
      act (.reel (fun r => { r with ready := false, copying := false, xfers := [], takeRecord := [] }))
      setFld Fl.REEL_CTRL_RUN 0
      setFld Fl.REEL_STATUS_BUSY 0
      setFld Fl.REEL_STATUS_INFLIGHT 0) :=
    holds_stop (acts_bind (acts_act (fun _ => ⟨rfl, fun _ => rfl⟩)) (fun _ => acts_bind (acts_setFld_stop (by decide) _) (fun _ =>
      acts_bind (acts_setFld_stop (by decide) _) (fun _ => acts_setFld_stop (by decide) _))))
  refine fun s hs => post_bind (post_look (post_bind ?_))
  by_cases hx : s.reel.xfers = []
  · rw [hx]
    exact post_pure (hrest s hs)
  · refine (acts_for s.reel.xfers (fun x _ => acts_abandonXfer x) s).mono (fun _ t r => (hrest t (r.inv hs)).mono (fun _ u ⟨hu, h⟩ => ⟨hu, ?_⟩))
    exact Stops.trans (stops_of_memory (fun p hp => r.undef_stands p hp) hx) h

/-- A job stops: it no longer runs. -/
theorem post_stopJob (code : Nat) {s : State} (hs : s.Inv) : Post (stopJob code) s (fun _ t => t.Inv ∧ Stops s t ∧ ∀ k, t.job = some k → k.running = false) := by
  have hrest : Holds Stops (do
      for n in List.range 180 do
        let run ← getFld (Fl.TILE_SEQ_CTRL_RUN n)
        if run ≠ 0 then tileStop n
      reelStop
      updStop
      collStop
      applyShadows 0x30000 0x40000
      applyShadows 0xC00000 0xD00000
      powerSync
      fmthSync
      raise Ev.jobStopped srcHub code 0) := by
    have o := composes_stops
    have hub : ∀ {α : Type} {m : M α}, Acts Act.onHub m → Holds Stops m := fun h => holds_stop (h.mono (fun _ ha => ha.ofStop))
    refine holds_bind o (holds_forIn o _ _ (fun n _ _ => holds_bind o (holds_stop (acts_getFld _)) (fun run => ?_))) (fun _ => ?_)
    · exact holds_ite (fun _ => holds_bind o (holds_tileStop n) (fun _ => holds_pure o _)) (fun _ => holds_pure o _)
    · refine holds_bind o holds_reelStop (fun _ => holds_bind o (holds_stop acts_updStop) (fun _ => holds_bind o (holds_stop acts_collStop) (fun _ =>
        holds_bind o (hub (acts_applyShadows ?_)) (fun _ => holds_bind o (hub (acts_applyShadows ?_)) (fun _ => holds_bind o (hub acts_powerSync) (fun _ =>
          holds_bind o (hub acts_fmthSync) (fun _ => hub (acts_raise_onHub _ _ _ _))))))))
      · exact fun o h1 h2 => hubReg_iff.mpr (.inl (by omega))
      · exact fun o h1 h2 => hubReg_iff.mpr (.inr (by omega))
  refine post_bind (post_look ?_)
  cases hj : s.runJob with
  | none =>
    rw [if_neg (by simp)]
    refine post_pure ⟨hs, stops_refl s, fun k hk => ?_⟩
    by_contra hrun
    rw [State.runJob, hk] at hj
    simp [hrun] at hj
  | some j =>
    rw [if_pos (by simp)]
    refine post_bind (post_act ?_)
    have hmap : ∀ (j : Option Job) (k : Job), Option.map (fun j : Job => { j with running := false, started := false, stopped := j.started }) j = some k → k.running = false := by
      intro j k hk
      obtain ⟨i, -, rfl⟩ := Option.map_eq_some_iff.mp hk
      rfl
    have hstop : (Act.job (Option.map (fun j => { j with running := false, started := false, stopped := j.started }))).ofStop :=
      fun j => ⟨by cases j <;> rfl, fun _ k hk => hmap j k hk⟩
    refine (hrest _ (Act.apply_inv _ s hs)).mono (fun _ t ⟨ht, h⟩ => ⟨ht, (hstop.stops hs).trans h, h.idle (fun k hk => hmap s.job k hk)⟩)

end Sys2Proof.Machine
end

section
/-! SUPPORT. Program faults (R240), and the attempt to issue the micro-op at a program counter. -/

namespace Sys2Proof.Machine

open Sys2Proof

theorem post_raiseStop (s : State) (e : Ev) (src : Nat × Nat) (detail slate : Nat) : Post (raiseStop e src detail slate) s (fun _ t => Ran Act.ofRaise s t ∧
    ∃ l, Adds s t l ∧ (s.events.length < 4096 → ∃ x ∈ l, x.tells e src detail)) := by
  refine (post_raiseEvent s { evOf e src detail slate with sev := max e.sev 3 }).mono (fun _ t ⟨r, l, hadds, _, hone, _⟩ => ⟨r, l, hadds, fun hroom => ?_⟩)
  rw [hone hroom]
  exact ⟨_, List.mem_singleton_self _, rfl, rfl, rfl⟩

/-- What has been told of stays told of while records join. -/
theorem State.Told.later {s t u : State} {l k : List Event} (h : s.Told t e src detail) (hadds : Adds s t l) (hk : Adds t u k) : s.Told u e src detail := fun hroom => by
  obtain ⟨x, hx, htells⟩ := h hroom
  rw [hadds.drop] at hx
  rw [(hadds.trans hk).drop]
  exact ⟨x, List.mem_append_left _ hx, htells⟩

/-- A stop is told of at its start, and what the stop leaves follows. -/
theorem post_raiseStop_stopJob (s : State) (hs : s.Inv) (e : Ev) (src : Nat × Nat) (detail slate code : Nat) : Post (raiseStop e src detail slate >>= fun _ => stopJob code) s (fun _ t =>
    t.Inv ∧ s.Told t e src detail ∧ Stops s t ∧ ∀ k, t.job = some k → k.running = false) := by
  refine post_bind ((post_raiseStop s e src detail slate).mono (fun _ t ⟨r, l, hadds, htold⟩ => (post_stopJob code (r.inv hs)).mono (fun _ u ⟨hu, hstop, hidle⟩ => ?_)))
  obtain ⟨k, hk⟩ := hstop.events
  have hon : Ran Act.ofStop s t := r.mono (fun a ha => by
    cases a with
    | event _ => trivial
    | reg o _ =>
      have := pmonCounter_iff.mp (show pmonCounter o = true from ha)
      exact .inl (hubReg_iff.mpr (.inr (by omega)))
    | _ => exact ha.elim)
  refine ⟨hu, ?_, (hon.holds composes_stops (fun _ _ ha hs => ha.stops hs) hs).trans hstop, hidle⟩
  exact State.Told.later (hadds.told (fun hroom => htold (by omega))) hadds hk

theorem not_stopReg_tile {n d : Nat} (hd : d < 0x10000) (h1 : d ≠ 0x100) (h2 : d ≠ 0x104) (h3 : d ≠ 0x504) : stopReg (0x10000000 + n * 0x10000 + d) = false := by
  refine stopReg_eq_false.mpr ⟨hubReg_tile (by omega), ?_, fun _ => ?_⟩
  · rw [Reg.COLL_CTRL]
    omega
  · omega

section
variable {n : Nat} (hn : n < 180) {s : State} (hs : s.Inv)
include hn hs

/-- The marks of a fault: the state, the FAULT bit, the faulting address. -/
theorem post_faultMarks : Post (setFld (Fl.TILE_SEQ_STATUS_STATE n) seqFault >>= fun _ => setBit (Fl.TILE_SEQ_STATUS_FAULT n) >>= fun _ => setFld (Fl.TILE_SEQ_PC_FAULT_PC n) (s.pc n)) s
    (fun _ t => Moved n [Reg.TILE_SEQ_STATUS n, Reg.TILE_SEQ_PC n] id s t ∧ t.fld (Fl.TILE_SEQ_STATUS_STATE n) = seqFault ∧ t.fld (Fl.TILE_SEQ_STATUS_FAULT n) = 1 ∧
      t.fld (Fl.TILE_SEQ_PC_FAULT_PC n) = s.pc n) := by
  refine post_bind ((post_setFld_moved n hs (state_covered hn) _).mono ?_)
  rintro _ t1 ⟨h1, hstate⟩
  have hfault := seqFlds_covered hn (f := Fl.TILE_SEQ_STATUS_FAULT n) (by simp [seqFlds])
  refine post_bind ((does_setFld _ _ t1).post ?_)
  have h2 := moved_reg (n := n) h1.inv (Fl.TILE_SEQ_STATUS_FAULT n).off ((Fl.TILE_SEQ_STATUS_FAULT n).put (t1.reg (Fl.TILE_SEQ_STATUS_FAULT n).off) 1)
  have hstate2 := h1.inv.fld_setFld_apart (f := Fl.TILE_SEQ_STATUS_FAULT n) (g := Fl.TILE_SEQ_STATUS_STATE n) Nat.one_pos (show 4 + 1 ≤ 32 by decide) (show 0 < 3 by decide) rfl
    (.inr (show 0 + 3 ≤ 4 by decide)) 1
  have hfault2 := h1.inv.fld_setFld hfault 1
  refine (post_setFld_moved n h2.inv (seqFlds_covered hn (f := Fl.TILE_SEQ_PC_FAULT_PC n) (by simp [seqFlds])) _).mono ?_
  rintro _ t ⟨h3, hpc⟩
  have hstands : t.reg (Reg.TILE_SEQ_STATUS n) = _ := h3.reg _ (by simp [Fl.TILE_SEQ_PC_FAULT_PC, Reg.TILE_SEQ_STATUS, Reg.TILE_SEQ_PC]) (bookReg_seq (by rw [Reg.TILE_SEQ_STATUS]; omega))
  refine ⟨((h1.trans h2 plain_id).trans h3 plain_id).mono ?_, ?_, ?_, ?_⟩
  · simp [Fl.TILE_SEQ_STATUS_STATE, Fl.TILE_SEQ_STATUS_FAULT, Fl.TILE_SEQ_PC_FAULT_PC]
  · rw [State.fld_congr (f := Fl.TILE_SEQ_STATUS_STATE n) hstands, hstate2, hstate]
    rfl
  · rw [State.fld_congr (f := Fl.TILE_SEQ_STATUS_FAULT n) hstands, hfault2]
    rfl
  · rw [hpc]
    exact Nat.mod_eq_of_lt (s.fld_lt (f := Fl.TILE_SEQ_PC_PC n) (show 0 < 13 by decide))

/-- A program fault is told of, marks the tile, and stops the job. -/
theorem post_programFault : Post (programFault n) s (fun _ t => hasFaulted s t n) := by
  refine post_bind (post_look (post_bind (post_look ?_)))
  have hmarks := post_faultMarks hn hs
  obtain ⟨_, t1, hd, h1, hstate, hfault, hpc⟩ := hmarks
  obtain ⟨_, t, hd2, -, htold, hstop, -⟩ := post_raiseStop_stopJob t1 h1.inv Ev.seqFault (srcTile n) 0 (s.slate n) Ev.seqFault.code
  have hst := hstop.fault n hstate
  refine ⟨(), t, ?_, ?_, ?_, ?_, fun hx => ?_, ?_⟩
  · exact fun k => (hd _).trans (hd2 k)
  · exact (State.fld_congr hst).trans hstate
  · exact (State.fld_congr (f := Fl.TILE_SEQ_STATUS_FAULT n) hst).trans hfault
  · exact (State.fld_congr (f := Fl.TILE_SEQ_PC_FAULT_PC n) (hstop.reg (Reg.TILE_SEQ_PC n) (not_stopReg_tile (by decide) (by decide) (by decide) (by decide)))).trans hpc
  · obtain ⟨hmem1, hundef1, -⟩ := h1.rest .memory (by decide)
    have hreel1 : t1.reel = s.reel := h1.rest .reel (by decide)
    obtain ⟨-, hmem, hundef⟩ := hstop.keeps (by rw [hreel1, hx])
    exact ⟨hmem.trans hmem1, hundef.trans hundef1⟩
  · have hev : t1.events = s.events := (h1.rest .events (by decide)).1
    intro hroom
    rw [← hev] at hroom ⊢
    exact htold hroom

end

/-- The micro-op named is the one at the program counter: its meaning follows. -/
theorem post_withUop {n cls op w : Nat} {s : State} (h : atUop s n cls op w) {k : Nat → M Unit} {Q : Unit → State → Prop} (hk : Post (k w) s Q) : Post (withUop n cls op k) s Q := by
  obtain ⟨hissues, hw, hlegal, hcls, hop⟩ := h
  refine post_bind (post_look ?_)
  rw [if_neg (by simp [hissues])]
  refine post_bind (post_look ?_)
  rw [hw, if_neg (by simp [hlegal]), if_pos ⟨hcls, hop⟩]
  exact hk

end Sys2Proof.Machine
end

section
/-! SUPPORT. What a micro-op that has issued or waited has done (R231, R237), and the Slate as it is set (R15, R264). -/

namespace Sys2Proof.Machine

open Sys2Proof

/-- The step of the program counter changes a tile's loops and index registers alone. -/
theorem stepPc_fst (x : Tile) (pc : Nat) : (x.stepPc pc).1 = { x with loops := (x.stepPc pc).1.loops, ix := (x.stepPc pc).1.ix } := by
  unfold Tile.stepPc
  split
  · rfl
  · split
    · split
      · rfl
      · unfold Tile.setIx
        split <;> rfl
    · rfl

section
variable {n : Nat} {s t u : State}

/-- What an issue does to a tile, its bookkeeping apart. -/
theorem Done.core (h : Done n s t) : (t.tile n).core =
    ({ s.tile n with issued := (s.tile n).issued + 1, waited := 0, wait := .none, cueReached := false,
                     loops := ((s.tile n).stepPc (s.pc n)).1.loops, ix := ((s.tile n).stepPc (s.pc n)).1.ix } : Tile).core := by
  rw [h.moved.core, (stepPc_issue _ _).2, stepPc_fst]
  rfl

theorem wentOn_of_done (h : Done n s t) : wentOn s t n (s.tile n) :=
  ⟨h.pc, (congrArg Tile.loops h.core :), (congrArg Tile.ix h.core :), h.state, (congrArg Tile.wait h.core :), (congrArg Tile.issued h.core :), h.count, h.moved.mem, h.moved.others⟩

/-- The registers below the tiles' stand. -/
theorem Moved.low {W : List Nat} {f : Tile → Tile} (h : Moved n W f s t) (hW : ∀ o ∈ W, 0x10000000 ≤ o) {o : Nat} (ho : o < 0x10000000) : t.reg o = s.reg o :=
  h.reg o (fun hm => absurd (hW o hm) (Nat.not_le.mpr ho)) (bookReg_seq (by omega))

theorem doneRegs_tile {o : Nat} (ho : o ∈ doneRegs n) : 0x10000000 ≤ o := by
  simp only [doneRegs, List.mem_cons, List.not_mem_nil, or_false, Reg.TILE_SEQ_STATUS, Reg.TILE_SEQ_ISSUE_LO, Reg.TILE_SEQ_PC] at ho
  omega

theorem waitRegs_tile {o : Nat} (ho : o ∈ waitRegs n) : 0x10000000 ≤ o := by
  simp only [waitRegs, List.mem_cons, List.not_mem_nil, or_false, Reg.TILE_SEQ_STATUS, Reg.TILE_SEQ_WAIT_LO] at ho
  omega

theorem Moved.fld {W : List Nat} {f : Tile → Tile} (h : Moved n W f s t) {g : Fld} (hW : g.off ∉ W) (hb : g.off < 0x10000000 + n * 0x10000 + 0x600) : t.fld g = s.fld g :=
  State.fld_congr (h.reg _ hW (bookReg_seq hb))

theorem Moved.state {W : List Nat} {f : Tile → Tile} (h : Moved n W f s t) (hW : Reg.TILE_SEQ_STATUS n ∉ W) : t.fld (Fl.TILE_SEQ_STATUS_STATE n) = s.fld (Fl.TILE_SEQ_STATUS_STATE n) :=
  h.fld hW (by simp [Fl.TILE_SEQ_STATUS_STATE, Reg.TILE_SEQ_STATUS])

theorem Moved.pc {W : List Nat} {f : Tile → Tile} (h : Moved n W f s t) (hW : Reg.TILE_SEQ_PC n ∉ W) : t.pc n = s.pc n := h.fld hW (by simp [Fl.TILE_SEQ_PC_PC, Reg.TILE_SEQ_PC])

theorem Moved.slate {W : List Nat} {f : Tile → Tile} (h : Moved n W f s t) (hW : Reg.TILE_SEQ_SLATE_LO n ∉ W) (hW' : Reg.TILE_SEQ_SLATE_LO n + 4 ∉ W) : t.slate n = s.slate n :=
  State.reg64_congr (h.reg _ hW (bookReg_seq (by simp [Reg.TILE_SEQ_SLATE_LO]))) (h.reg _ hW' (bookReg_seq (by simp [Reg.TILE_SEQ_SLATE_LO])))

/-- Changes that touch neither the program's place nor its loops leave it gone on. -/
theorem wentOn_later {x : Tile} (h : wentOn s t n x) {W : List Nat} {f : Tile → Tile} (g : Moved n W f t u) (hW : ∀ o ∈ [Reg.TILE_SEQ_PC n, Reg.TILE_SEQ_ISSUE_LO n, Reg.TILE_SEQ_ISSUE_LO n + 4], o ∉ W)
    (hst : u.fld (Fl.TILE_SEQ_STATUS_STATE n) = t.fld (Fl.TILE_SEQ_STATUS_STATE n))
    (hf : ∀ x, (f x).loops = x.loops ∧ (f x).ix = x.ix ∧ (f x).wait = x.wait ∧ (f x).issued = x.issued) : wentOn s u n x := by
  obtain ⟨hpc, hloops, hix, hstate, hwait, hissued, hcount, hmem, hothers⟩ := h
  obtain ⟨floops, fix_, fwait, fissued⟩ := hf (t.tile n)
  exact ⟨(g.pc (hW _ (by simp))).trans hpc, (congrArg Tile.loops g.core).trans (floops.trans hloops), (congrArg Tile.ix g.core).trans (fix_.trans hix), hst.trans hstate,
    (congrArg Tile.wait g.core).trans (fwait.trans hwait), (congrArg Tile.issued g.core).trans (fissued.trans hissued),
    counted_after hcount g (hW _ (by simp)) (hW _ (by simp)) (bookReg_seq (by simp [Reg.TILE_SEQ_ISSUE_LO])) (bookReg_seq (by simp [Reg.TILE_SEQ_ISSUE_LO])),
    g.mem.trans hmem, fun k hk => (g.others k hk).trans (hothers k hk)⟩

theorem WaitedThen.hasWaited {f : Tile → Tile} (h : WaitedThen n f s t) (hf : ∀ x, (f x).waited = x.waited) : hasWaited s t n := by
  refine ⟨State.fld_congr (h.moved.reg _ ?_ (bookReg_seq ?_)), h.state, (congrArg Tile.waited h.moved.core).trans (hf _), h.count, h.moved.mem, h.moved.others⟩
  · simp [waitRegs, Fl.TILE_SEQ_PC_PC, Reg.TILE_SEQ_PC, Reg.TILE_SEQ_STATUS, Reg.TILE_SEQ_WAIT_LO]
  · simp [Fl.TILE_SEQ_PC_PC, Reg.TILE_SEQ_PC]

end

section
variable {n : Nat} (hn : n < 180) {s : State} (hs : s.Inv)
include hn hs

/-- A mark of a tile's sequencer set leaves its state. -/
theorem post_setMark {f : Fld} (hf : f ∈ [Fl.TILE_SEQ_STATUS_TAKE_OPEN n, Fl.TILE_SEQ_STATUS_TAKE_FAILED n, Fl.TILE_SEQ_STATUS_SATURATED n]) (v : Nat) :
    Post (setFld f v) s (fun _ t => Moved n [Reg.TILE_SEQ_STATUS n] id s t ∧ t.fld f = v % 2 ∧ t.fld (Fl.TILE_SEQ_STATUS_STATE n) = s.fld (Fl.TILE_SEQ_STATUS_STATE n)) := by
  have hmem : f ∈ seqFlds n := by
    simp only [List.mem_cons, List.not_mem_nil, or_false] at hf
    rcases hf with rfl | rfl | rfl <;> simp [seqFlds]
  obtain ⟨hoff, hlo, h32, hw⟩ : f.off = Reg.TILE_SEQ_STATUS n ∧ 3 ≤ f.lo ∧ f.lo + f.width ≤ 32 ∧ f.width = 1 := by
    simp only [List.mem_cons, List.not_mem_nil, or_false] at hf
    rcases hf with rfl | rfl | rfl
    · exact ⟨rfl, show 3 ≤ 3 by decide, show 3 + 1 ≤ 32 by decide, rfl⟩
    · exact ⟨rfl, show 3 ≤ 5 by decide, show 5 + 1 ≤ 32 by decide, rfl⟩
    · exact ⟨rfl, show 3 ≤ 6 by decide, show 6 + 1 ≤ 32 by decide, rfl⟩
  refine (does_setFld f v s).post ⟨hoff ▸ moved_reg hs _ _, ?_, ?_⟩
  · rw [hs.fld_setFld (seqFlds_covered hn hmem), hw, Nat.pow_one]
  · exact hs.fld_setFld_apart (by omega) h32 (show 0 < 3 by decide) hoff.symm (.inr (show 0 + 3 ≤ f.lo by omega)) v

end

/-! The Slate. -/

theorem mkSlate_lt (step mb take phase stage : Nat) : mkSlate step mb take phase stage < 2 ^ 64 := by
  unfold mkSlate
  omega

theorem post_setSlate {n : Nat} (hn : n < 180) {s : State} (hs : s.Inv) {x : Nat} (hx : x < 2 ^ 64) :
    Post (setSlate n x) s (fun _ t => Moved n [Reg.TILE_SEQ_SLATE_LO n, Reg.TILE_SEQ_SLATE_LO n + 4] id s t ∧ t.slate n = x) := by
  have h1 := moved_reg (n := n) hs (Reg.TILE_SEQ_SLATE_LO n) (BitVec.ofNat 32 x)
  have h2 := moved_reg (n := n) h1.inv (Reg.TILE_SEQ_SLATE_LO n + 4) (BitVec.ofNat 32 (x / 2 ^ 32))
  refine post_bind (post_act (post_act ⟨h1.trans h2 plain_id, ?_⟩))
  rw [State.slate, State.reg64, h1.inv.reg_apply_reg_implemented (seqWords_implemented hn (by simp [seqWords]) _), h1.inv.reg_apply_reg_other _ (by omega),
    hs.reg_apply_reg_implemented (seqWords_implemented hn (by simp [seqWords]) _), BitVec.toNat_ofNat, BitVec.toNat_ofNat]
  omega

end Sys2Proof.Machine
end

section
/-! Takes open and close (R246, R252, R296). -/

namespace Sys2Proof.Machine

open Sys2Proof

/-- A function on the Reel's record leaves the tiles, their registers and memory. -/
theorem post_act_reel {s : State} (hs : s.Inv) (f : Reel → Reel) {Q : Unit → State → Prop} (h : ∀ t : State, t.Inv → t.regs = s.regs → t.tiles = s.tiles → t.mem = s.mem → Q () t) :
    Post (act (.reel f)) s Q := post_act (h _ (Act.apply_inv _ s hs) rfl rfl rfl)

theorem wentOn_congr {s t u : State} {n : Nat} {x : Tile} (h : wentOn s t n x) (hregs : u.regs = t.regs) (htiles : u.tiles = t.tiles) (hmem : u.mem = t.mem) : wentOn s u n x := by
  have hreg : ∀ o, u.reg o = t.reg o := fun o => by rw [State.reg, State.reg, hregs]
  have htile : ∀ k, u.tile k = t.tile k := fun k => by rw [State.tile, State.tile, htiles]
  have hfld : ∀ f, u.fld f = t.fld f := fun f => State.fld_congr (hreg _)
  unfold wentOn counted State.pc State.reg64 at h ⊢
  simp only [hfld, htile, hmem, hreg]
  exact h

section
variable {n : Nat} (hn : n < 180) {s : State} (hs : s.Inv)
include hn hs

theorem takeBegin_open {w : Nat} (hat : atUop s n 10 1 w) (htake : (s.tile n).take.isSome = true) : Completes (.takeBegin n) s (hasFaulted s · n) := by
  refine Post.completes ?_ (m := withUop n 10 1 _) rfl
  refine post_withUop hat (post_bind (post_getTile ?_))
  rw [if_pos htake]
  exact post_programFault hn hs

theorem takeBegin_opens {w : Nat} (hat : atUop s n 10 1 w) (htake : (s.tile n).take = none) : Completes (.takeBegin n) s (fun t => wentOn s t n (s.tile n) ∧
    t.fld (Fl.TILE_SEQ_STATUS_TAKE_OPEN n) = 1 ∧
    t.slate n = mkSlate (slateStep (s.slate n)) (slateMb (s.slate n)) 0 (slatePhase (s.slate n)) (slateStage (s.slate n)) ∧
    (t.tile n).take = some ⟨t.pc n, (t.tile n).ix, (t.tile n).loops, (List.range 8).map (fun c => s.ec n (8 + c)), t.slate n, List.replicate 8 0, (s.tile n).arrivals⟩ ∧
    (t.tile n).failed = none) := by
  refine Post.completes ?_ (m := withUop n 10 1 _) rfl
  refine post_withUop hat (post_bind (post_getTile ?_))
  rw [if_neg (by simp [htake])]
  refine post_bind (post_look (post_bind ((post_uopDone hn hs).mono (fun _ t1 hdone => post_bind (post_look (post_bind (post_look (post_bind ?_))))))))
  obtain ⟨y, hy⟩ : ∃ y, mkSlate (slateStep (s.slate n)) (slateMb (s.slate n)) 0 (slatePhase (s.slate n)) (slateStage (s.slate n)) = y := ⟨_, rfl⟩
  obtain ⟨ec, hec⟩ : ∃ l, (List.range 8).map (fun c => t1.ec n (8 + c)) = l := ⟨_, rfl⟩
  have hec' : (List.range 8).map (fun c => s.ec n (8 + c)) = ec := by
    rw [← hec]
    refine List.map_congr_left (fun c hc => ?_)
    have hc := List.mem_range.mp hc
    rw [State.ec, State.ec, hdone.moved.reg (Reg.TILE_SEQ_EC n ((8 + c) / 2)) ?_ (bookReg_seq (by rw [Reg.TILE_SEQ_EC]; omega))]
    simp only [doneRegs, List.mem_cons, List.not_mem_nil, or_false, Reg.TILE_SEQ_EC, Reg.TILE_SEQ_STATUS, Reg.TILE_SEQ_ISSUE_LO, Reg.TILE_SEQ_PC]
    omega
  rw [hy, hec]
  refine (post_setSlate hn hdone.moved.inv (hy ▸ mkSlate_lt _ _ _ _ _)).mono ?_
  rintro _ t2 ⟨h2, hslate⟩
  refine post_bind ((post_modTile_moved n h2.inv _).mono (fun _ t3 h3 => post_bind ((post_setMark hn h3.inv (by simp) _).mono ?_)))
  rintro _ t4 ⟨h4, hopen, hstate⟩
  refine post_act_reel h4.inv _ (fun t _ hregs htiles hmem => ?_)
  have hreg : ∀ o, t.reg o = t4.reg o := fun o => by rw [State.reg, State.reg, hregs]
  have htile : t.tile n = t4.tile n := by rw [State.tile, State.tile, htiles]
  have hsl : t.slate n = y := ((State.reg64_congr (hreg _) (hreg _)).trans ((h3.trans h4 plain_id).slate (by simp [Reg.TILE_SEQ_SLATE_LO, Reg.TILE_SEQ_STATUS])
    (by simp [Reg.TILE_SEQ_SLATE_LO, Reg.TILE_SEQ_STATUS]))).trans hslate
  have hplain : Plain (fun x : Tile => { x with take := some ⟨t1.pc n, x.ix, x.loops, ec, y, List.replicate 8 0, x.arrivals⟩, failed := none }) := plain_of_core (fun _ => rfl)
  have hall := (h2.trans h3 hplain).trans h4 plain_id
  have hpc : t.pc n = t1.pc n := (State.fld_congr (hreg _)).trans (hall.pc (by simp [Reg.TILE_SEQ_SLATE_LO, Reg.TILE_SEQ_STATUS, Reg.TILE_SEQ_PC]))
  have hwent := wentOn_later (wentOn_of_done hdone) hall (by simp [Reg.TILE_SEQ_SLATE_LO, Reg.TILE_SEQ_STATUS, Reg.TILE_SEQ_PC, Reg.TILE_SEQ_ISSUE_LO])
    (hstate.trans ((h2.trans h3 hplain).state (by simp [Reg.TILE_SEQ_SLATE_LO, Reg.TILE_SEQ_STATUS]))) (fun _ => ⟨rfl, rfl, rfl, rfl⟩)
  have hcore := hall.core
  have harr : (t1.tile n).arrivals = (s.tile n).arrivals := (congrArg Tile.arrivals hdone.core :)
  refine ⟨wentOn_congr hwent hregs htiles hmem, (State.fld_congr (hreg _)).trans hopen, hsl, ?_, ?_⟩
  · rw [htile, hpc, hsl, hec', ← harr, show (t4.tile n).ix = (t1.tile n).ix from (congrArg Tile.ix hcore :), show (t4.tile n).loops = (t1.tile n).loops from (congrArg Tile.loops hcore :)]
    exact (congrArg Tile.take hcore :)
  · rw [htile]
    exact (congrArg Tile.failed hcore :)

theorem takeEnd_closed {w : Nat} (hat : atUop s n 10 2 w) (htake : (s.tile n).take = none) : Completes (.takeEnd n) s (hasFaulted s · n) := by
  refine Post.completes ?_ (m := withUop n 10 2 _) rfl
  refine post_withUop hat (post_bind (post_getTile ?_))
  rw [if_pos (by simp [htake])]
  exact post_programFault hn hs

theorem takeEnd_waits {w : Nat} (hat : atUop s n 10 2 w) (htake : (s.tile n).take.isSome = true)
    (hwork : ((s.tile n).fenced 15 && (s.tile n).sendQ.isEmpty && (s.tile n).failed.isNone) = false) : Completes (.takeEnd n) s (hasWaited s · n) := by
  refine Post.completes ?_ (m := withUop n 10 2 _) rfl
  refine post_withUop hat (post_bind (post_getTile ?_))
  rw [if_neg (by simpa [Option.isSome_iff_ne_none] using htake), hwork, if_neg (by decide)]
  exact (post_uopWait hn hs).mono (fun _ t h => h.hasWaited (fun _ => rfl))

omit hn in
/-- With no format health kept, the counts that a tile holds are dropped. -/
theorem post_commitHealth_off (hoff : s.fld Fl.TELE_FMTH_CTRL_ENABLE = 0) : Post (commitHealth n) s (fun _ t => Moved n [] (fun x => { x with health := [] }) s t) := by
  refine post_bind (post_getTile (post_bind ?_))
  have hloop : ∀ l : List (Nat × Nat × Health), Post (forIn l PUnit.unit (fun e _ => do fmthCommit (e.1 / 4096) e.2.1 e.2.2; pure (ForInStep.yield PUnit.unit))) s (fun _ t => t = s) := by
    intro l
    induction l with
    | nil => exact post_pure rfl
    | cons e l ih =>
      rw [List.forIn_cons]
      have hnone : Post (fmthCommit (e.1 / 4096) e.2.1 e.2.2) s (fun _ t => t = s) := by
        refine post_bind (post_getFld ?_)
        rw [if_pos hoff]
        exact post_pure rfl
      refine post_bind (post_bind (hnone.mono ?_))
      rintro _ _ rfl
      exact post_pure ih
  refine (hloop _).mono ?_
  rintro _ _ rfl
  exact post_modTile_moved n hs _

theorem takeEnd_closes {w : Nat} (hat : atUop s n 10 2 w) (htake : (s.tile n).take.isSome = true)
    (hwork : ((s.tile n).fenced 15 && (s.tile n).sendQ.isEmpty && (s.tile n).failed.isNone) = true) (hoff : s.fld Fl.TELE_FMTH_CTRL_ENABLE = 0) :
    Completes (.takeEnd n) s (fun t => wentOn s t n (s.tile n) ∧ (t.tile n).take = none ∧ (t.tile n).rejects = [] ∧ (t.tile n).health = [] ∧
      t.fld (Fl.TILE_SEQ_STATUS_TAKE_OPEN n) = 0) := by
  refine Post.completes ?_ (m := withUop n 10 2 _) rfl
  refine post_withUop hat (post_bind (post_getTile ?_))
  rw [if_neg (by simpa [Option.isSome_iff_ne_none] using htake), if_pos hwork]
  refine post_bind ((post_uopDone hn hs).mono (fun _ t1 hdone => post_bind ((post_modTile_moved n hdone.moved.inv _).mono (fun _ t2 h2 =>
    post_bind ((post_setMark hn h2.inv (by simp) _).mono ?_)))))
  rintro _ t3 ⟨h3, hopen, hstate⟩
  have hmid := h2.trans h3 plain_id
  have hwent := wentOn_later (wentOn_of_done hdone) hmid (by simp [Reg.TILE_SEQ_STATUS, Reg.TILE_SEQ_PC, Reg.TILE_SEQ_ISSUE_LO]) (hstate.trans (h2.state (by simp))) (fun _ => ⟨rfl, rfl, rfl, rfl⟩)
  refine post_bind (post_act_reel h3.inv _ (fun t4 ht4 hregs htiles hmem => ?_))
  have hreg : ∀ o, t4.reg o = t3.reg o := fun o => by rw [State.reg, State.reg, hregs]
  have htile : t4.tile n = t3.tile n := by rw [State.tile, State.tile, htiles]
  have hlow : Fl.TELE_FMTH_CTRL_ENABLE.off < 0x10000000 := by decide
  have hoff4 : t4.fld Fl.TELE_FMTH_CTRL_ENABLE = 0 := (State.fld_congr (hreg _)).trans
    ((State.fld_congr ((hmid.low (by simp [Reg.TILE_SEQ_STATUS]; omega) hlow).trans (hdone.moved.low (fun _ => doneRegs_tile) hlow))).trans hoff)
  refine (post_commitHealth_off ht4 hoff4).mono (fun _ t h5 => ?_)
  have hcore : ((t.tile n).core = _) := h5.core
  rw [htile] at hcore
  refine ⟨wentOn_later (wentOn_congr hwent hregs htiles hmem) h5 (by simp) (h5.state (by simp)) (fun _ => ⟨rfl, rfl, rfl, rfl⟩),
    (congrArg Tile.take hcore).trans (congrArg Tile.take hmid.core :), (congrArg Tile.rejects hcore).trans (congrArg Tile.rejects hmid.core :), (congrArg Tile.health hcore :), ?_⟩
  rw [h5.fld (g := Fl.TILE_SEQ_STATUS_TAKE_OPEN n) (by simp) (by simp [Fl.TILE_SEQ_STATUS_TAKE_OPEN, Reg.TILE_SEQ_STATUS]), State.fld_congr (hreg _), hopen]

end

end Sys2Proof.Machine
end

section
/-! Takes that fail (R251, R254), and the Take that is the last (R18). -/

namespace Sys2Proof.Machine

open Sys2Proof

/-- What an event raised leaves of the state. -/
structure Raised (s t : State) : Prop where
  inv : t.Inv
  reg : ∀ o, quiet o = true → t.reg o = s.reg o
  rest : ∀ p, p ∉ [StatePart.registers, .events] → p.stands s t
  adds : ∃ l, Adds s t l

theorem post_raise_raised {s : State} (hs : s.Inv) (e : Ev) (src : Nat × Nat) (detail slate : Nat) : Post (raise e src detail slate) s (fun _ t => Raised s t ∧ s.Told t e src detail) :=
  (post_raise s e src detail slate).mono (fun _ _ ⟨r, l, hadds, _, htells, _⟩ =>
    ⟨⟨r.inv hs, fun _ ho => r.raise_reg hs ho, fun p hp => r.raise_stands p hp, l, hadds⟩, hadds.told (fun hroom => htells (by omega))⟩)

theorem Raised.tile {s t : State} (h : Raised s t) (k : Nat) : t.tile k = s.tile k := by
  have htiles : t.tiles = s.tiles := h.rest .tiles (by decide)
  rw [State.tile, State.tile, htiles]

theorem Raised.reg_tile {s t : State} (h : Raised s t) {o : Nat} (ho : 0x10000000 ≤ o) : t.reg o = s.reg o := h.reg o (quiet_of_not_hubReg (hubReg_tile ho))

section
variable {n : Nat} (hn : n < 180) {s : State} (hs : s.Inv)
include hn hs

theorem post_failTake_swapless (pc line : Nat) (hfailed : (s.tile n).failed = none) : Post (failTake n pc line false false) s (fun _ t =>
    (t.tile n).failed = some ⟨s.takeSlate n, false⟩ ∧ t.fld (Fl.TILE_SEQ_STATUS_TAKE_FAILED n) = 1 ∧ t.mem = s.mem ∧ t.undef = s.undef ∧ ∃ l, Adds s t l) := by
  unfold failTake
  rw [if_neg (by decide)]
  refine post_bind (post_getTile ?_)
  rw [if_pos (by simp [hfailed])]
  refine post_bind (post_look (post_bind ((post_modTile_moved n hs _).mono (fun _ t1 h1 => post_bind ((post_setMark hn h1.inv (by simp) _).mono ?_)))))
  rintro _ t2 ⟨h2, hmark, -⟩
  refine post_bind ((post_raise_raised h2.inv _ _ _ _).mono (fun _ t3 ⟨h3, _⟩ => ((acts_pmuTile_book _ _ _ _ _ _).booked h3.inv).mono (fun _ t h4 => ?_)))
  have h12 := h1.trans h2 plain_id
  have hm := h12.rest .memory (by decide)
  have hm3 := h3.rest .memory (by decide)
  have hm4 := h4.rest .memory (by decide)
  have hoff : (Fl.TILE_SEQ_STATUS_TAKE_FAILED n).off = 0x10000000 + n * 0x10000 + 0x104 := rfl
  refine ⟨?_, ?_, hm4.1.trans (hm3.1.trans hm.1), hm4.2.1.trans (hm3.2.1.trans hm.2.1), ?_⟩
  · have h4c := h4.core
    rw [h3.tile] at h4c
    exact (congrArg Tile.failed h4c).trans (congrArg Tile.failed h12.core :)
  · rw [State.fld_congr (h4.reg _ (bookReg_seq (by omega))), State.fld_congr (h3.reg_tile (by omega)), hmark]
  · obtain ⟨l, hl⟩ := h3.adds
    have hev : t2.events = s.events := (h12.rest .events (by decide)).1
    have hev4 : t.events = t3.events := (h4.rest .events (by decide)).1
    exact ⟨l, by rw [Adds, hev4, hl, hev]⟩

/-- A wait at a Clapper beyond the limit. -/
theorem clapperTimeout_fails (hwait : (s.tile n).wait ≠ .none) : Completes (.clapperTimeout n) s (fun t => s.Keeps t ∧ s.Told t Ev.clapperTimeout (srcTile n) 0 ∧
    (∀ r, (s.tile n).take = some r → (s.tile n).failed = none →
      (∃ f, (t.tile n).failed = some f ∧ f.slate = mkSlate (slateStep r.slate) (slateMb r.slate) (slateTake (s.slate n)) (slatePhase r.slate) (slateStage r.slate)) ∧
      t.fld (Fl.TILE_SEQ_STATUS_TAKE_FAILED n) = 1)) := by
  refine Post.completes (m := getTile n >>= _) (post_bind (post_getTile ?_)) rfl
  rw [if_pos hwait]
  refine post_bind (post_look (post_bind (post_look (post_bind (post_getTile (post_bind (post_look ?_)))))))
  cases htake : (s.tile n).take with
  | none =>
    rw [Option.isNone_none, if_pos rfl]
    refine (post_raiseStop_stopJob s hs _ _ _ _ _).mono (fun _ t ⟨_, htold, hstop, _⟩ => ⟨fun hx => ?_, htold, fun r hr => by cases hr⟩)
    obtain ⟨-, hmem, hundef⟩ := hstop.keeps hx
    exact ⟨hmem, hundef⟩
  | some r =>
    rw [if_neg (by simp), if_neg (by simp)]
    refine post_bind ((post_raise_raised hs _ _ _ _).mono (fun _ t1 ⟨h1, htold⟩ => ?_))
    have hm1 := h1.rest .memory (by decide)
    obtain ⟨l, hl⟩ := h1.adds
    cases hfailed : (s.tile n).failed with
    | some f =>
      unfold failTake
      rw [if_neg (by decide)]
      refine post_bind (post_getTile ?_)
      rw [if_neg (by rw [h1.tile, hfailed]; simp)]
      exact post_pure ⟨fun _ => ⟨hm1.1, hm1.2.1⟩, htold, fun r _ hf => by cases hf⟩
    | none =>
      refine (post_failTake_swapless hn h1.inv _ _ (by rw [h1.tile, hfailed])).mono ?_
      rintro _ t ⟨hfail, hmark, hmem, hundef, k, hk⟩
      refine ⟨fun _ => ⟨hmem.trans hm1.1, hundef.trans hm1.2.1⟩, htold.later hl hk, fun r' hr' _ => ⟨⟨_, hfail, ?_⟩, hmark⟩⟩
      obtain rfl : r = r' := Option.some.inj hr'
      have hslate : t1.slate n = s.slate n := State.reg64_congr (h1.reg_tile (by rw [Reg.TILE_SEQ_SLATE_LO]; omega)) (h1.reg_tile (by rw [Reg.TILE_SEQ_SLATE_LO]; omega))
      rw [State.takeSlate, State.takeNo, h1.tile, htake, hslate]

omit hn in
/-- A failure of Take 15 stops the job. -/
theorem takeAbort_last {f : TakeFail} (hfailed : (s.tile n).failed = some f) (hst : s.fld (Fl.TILE_SEQ_STATUS_STATE n) ≠ seqAborting) (hlast : slateTake f.slate = 15) :
    Completes (.takeAbort n) s (fun t => (t.tile n).failed = none ∧ s.Keeps t ∧ s.Told t Ev.takeLimit (srcTile n) 0) := by
  refine Post.completes (m := getTile n >>= _) (post_bind (post_getTile ?_)) rfl
  rw [hfailed]
  refine post_bind (post_getFld ?_)
  rw [if_neg hst, if_pos hlast]
  refine post_bind (post_act ?_)
  have hs1 := Act.apply_inv (.tile n (fun t : Tile => { t with failed := none })) s hs
  refine (post_raiseStop_stopJob _ hs1 _ _ _ _ _).mono (fun _ t ⟨_, htold, hstop, _⟩ => ⟨hstop.failed n ?_, fun hx => ?_, htold⟩)
  · rw [hs.tile_apply_same]
  · obtain ⟨-, hmem, hundef⟩ := hstop.keeps hx
    exact ⟨hmem, hundef⟩

end

end Sys2Proof.Machine
end

section
/-! SUPPORT. What the changes for one tile leave of the others. -/

namespace Sys2Proof.Machine

open Sys2Proof

/-- The registers of a tile. -/
def tilePage (p o : Nat) : Bool := decide (0x10000000 + p * 0x10000 ≤ o) && decide (o < 0x10000000 + p * 0x10000 + 0x10000)

theorem tilePage_iff {p o : Nat} : tilePage p o = true ↔ 0x10000000 + p * 0x10000 ≤ o ∧ o < 0x10000000 + p * 0x10000 + 0x10000 := by simp [tilePage]

theorem tilePage_place {p d : Nat} (hd : d < 0x10000) : tilePage p (0x10000000 + p * 0x10000 + d) = true := tilePage_iff.mpr (by omega)

theorem tilePage_other {p n o : Nat} (hp : p ≠ n) (ho : tilePage n o = true) : tilePage p o = false := by
  rw [tilePage_iff] at ho
  rw [← Bool.not_eq_true, tilePage_iff]
  omega

theorem reg_apply_of_leaves {a : Act} (h : StatePart.registers ∉ a.kind.changes) (s : State) (o : Nat) : (a.apply s).reg o = s.reg o := by
  have hregs : (a.apply s).regs = s.regs := Act.apply_stands h s
  rw [State.reg, State.reg, hregs]

theorem tile_apply_of_leaves {a : Act} (h : StatePart.tiles ∉ a.kind.changes) (s : State) (k : Nat) : (a.apply s).tile k = s.tile k := by
  have htiles : (a.apply s).tiles = s.tiles := Act.apply_stands h s
  rw [State.tile, State.tile, htiles]

/-- A change for tile p: of its registers, those on the hub's side, its contents, and the parts named. -/
def Act.forTile (p : Nat) (parts : List StatePart) (a : Act) : Prop :=
  (∀ q ∈ a.kind.changes, q ∈ parts) ∧
  match a with
  | .reg o _ => tilePage p o = true ∨ hubReg o = true
  | .tile k _ => k = p
  | .reset _ => False
  | _ => True

/-- From s to t tile p's registers and contents may have changed, registers on the hub's side, and the parts named. -/
structure ForTile (p : Nat) (parts : List StatePart) (s t : State) : Prop where
  reg : ∀ o, tilePage p o = false → hubReg o = false → t.reg o = s.reg o
  others : ∀ k, k ≠ p → t.tile k = s.tile k
  rest : ∀ q, q ∉ parts → q.stands s t

theorem composes_forTile (p : Nat) (parts : List StatePart) : Composes (ForTile p parts) where
  refl s := ⟨fun _ _ _ => rfl, fun _ _ => rfl, fun q _ => q.stands_refl s⟩
  trans h g := ⟨fun o ho hh => (g.reg o ho hh).trans (h.reg o ho hh), fun k hk => (g.others k hk).trans (h.others k hk), fun q hq => StatePart.stands_trans (h.rest q hq) (g.rest q hq)⟩

theorem Act.forTile.holds {p : Nat} {parts : List StatePart} {a : Act} {s : State} (h : a.forTile p parts) (hs : s.Inv) : ForTile p parts s (a.apply s) := by
  obtain ⟨hparts, hpage⟩ := h
  have hrest : ∀ q, q ∉ parts → q.stands s (a.apply s) := fun q hq => Act.apply_stands (fun hm => hq (hparts q hm)) s
  cases a with
  | reg o v =>
    refine ⟨fun k hk hh => hs.reg_apply_reg_other v ?_, fun _ _ => rfl, hrest⟩
    rintro rfl
    rcases hpage with h | h
    · simp [h] at hk
    · simp [h] at hh
  | tile k f =>
    refine ⟨fun _ _ _ => rfl, fun j hj => hs.tile_apply_other ?_ f, hrest⟩
    rw [show k = p from hpage]
    exact hj
  | event e =>
    exact ⟨fun o _ hh => addEvent_reg hs e (quiet_of_not_hubReg hh), fun k _ => tile_apply_of_leaves (by simp [Act.kind, ActKind.changes]) s k, hrest⟩
  | dropEvents k => exact ⟨fun _ _ _ => rfl, fun _ _ => rfl, hrest⟩
  | reset _ => exact hpage.elim
  | _ => exact ⟨fun o _ _ => reg_apply_of_leaves (by simp [Act.kind, ActKind.changes]) s o, fun k _ => tile_apply_of_leaves (by simp [Act.kind, ActKind.changes]) s k, hrest⟩

/-- The parts that the issue of a micro-op changes. -/
def issueParts : List StatePart := [.registers, .tiles, .pwr]

theorem Act.book.forTile {n : Nat} {a : Act} (h : a.book n) {parts : List StatePart} (hparts : issueParts ⊆ parts) : a.forTile n parts := by
  refine ⟨fun q hq => hparts (h.changes hq), ?_⟩
  cases a with
  | reg o _ =>
    have := bookReg_iff.mp h
    exact .inl (tilePage_iff.mpr (by omega))
  | tile _ _ => exact h.1
  | reset _ => exact h.elim
  | _ => trivial

theorem Act.forTile_reg {p o : Nat} (ho : tilePage p o = true) (w : W32) {parts : List StatePart} (hparts : StatePart.registers ∈ parts) : (Act.reg o w).forTile p parts :=
  ⟨by simpa [Act.kind, ActKind.changes] using hparts, .inl ho⟩

theorem Act.forTile_tile (p : Nat) (f : Tile → Tile) {parts : List StatePart} (hparts : StatePart.tiles ∈ parts) : (Act.tile p f).forTile p parts :=
  ⟨by simpa [Act.kind, ActKind.changes] using hparts, rfl⟩

theorem acts_setFld_forTile {p : Nat} {f : Fld} (hf : tilePage p f.off = true) (v : Nat) {parts : List StatePart} (hparts : StatePart.registers ∈ parts) : Acts (Act.forTile p parts) (setFld f v) :=
  acts_setFld (fun w => Act.forTile_reg hf w hparts)

theorem acts_modTile_forTile (p : Nat) (f : Tile → Tile) {parts : List StatePart} (hparts : StatePart.tiles ∈ parts) : Acts (Act.forTile p parts) (modTile p f) :=
  acts_modTile (Act.forTile_tile p f hparts)

theorem acts_book_forTile {α : Type} {n : Nat} {m : M α} (h : Acts (Act.book n) m) {parts : List StatePart} (hparts : issueParts ⊆ parts) : Acts (Act.forTile n parts) m :=
  h.mono (fun _ ha => ha.forTile hparts)

/-! The arrivals of the tiles at their Clappers. -/

/-- No tile's arrivals have changed. -/
def SameArrivals (s t : State) : Prop := ∀ k, (t.tile k).arrivals = (s.tile k).arrivals

theorem composes_sameArrivals : Composes SameArrivals := ⟨fun _ _ => rfl, fun h g k => (g k).trans (h k)⟩

/-- A change that leaves every tile's arrivals. -/
def Act.keepsArrivals : Act → Prop
  | .tile _ f => ∀ x, (f x).arrivals = x.arrivals
  | .reset _ => False
  | _ => True

theorem Act.keepsArrivals.holds {a : Act} {s : State} (h : a.keepsArrivals) (hs : s.Inv) : SameArrivals s (a.apply s) := fun k => by
  cases a with
  | tile n f =>
    rw [State.tile_apply_tile hs]
    split
    · rename_i hk
      rw [hk]
      exact h _
    · rfl
  | reset _ => exact h.elim
  | _ => rw [tile_apply_of_leaves (by simp [Act.kind, ActKind.changes])]

theorem Composes.and {I J : State → State → Prop} (h : Composes I) (g : Composes J) : Composes (fun s t => I s t ∧ J s t) :=
  ⟨fun s => ⟨h.refl s, g.refl s⟩, fun ⟨h1, h2⟩ ⟨g1, g2⟩ => ⟨h.trans h1 g1, g.trans h2 g2⟩⟩

/-- What an issue on tile p may do: change the tile, no arrivals. -/
def Issued (p : Nat) (s t : State) : Prop := ForTile p issueParts s t ∧ SameArrivals s t
def Act.ofIssue (p : Nat) (a : Act) : Prop := a.forTile p issueParts ∧ a.keepsArrivals

theorem composes_issued (p : Nat) : Composes (Issued p) := (composes_forTile p issueParts).and composes_sameArrivals

theorem holds_issued {α : Type} {p : Nat} {m : M α} (h : Acts (Act.ofIssue p) m) : Holds (Issued p) m := h.holds (composes_issued p) (fun _ _ ha hs => ⟨ha.1.holds hs, ha.2.holds hs⟩)

theorem Act.book.ofIssue {n : Nat} {a : Act} (h : a.book n) : a.ofIssue n := by
  refine ⟨h.forTile (fun _ h => h), ?_⟩
  cases a with
  | tile _ f =>
    obtain ⟨-, hf⟩ := h
    exact fun x => (congrArg Tile.arrivals (hf x) :)
  | reset _ => exact h.elim
  | _ => trivial

theorem Act.ofIssue_reg {p o d : Nat} (ho : o = 0x10000000 + p * 0x10000 + d) (hd : d < 0x10000) (w : W32) : (Act.reg o w).ofIssue p := by
  subst ho
  exact ⟨Act.forTile_reg (tilePage_place hd) w (by decide), trivial⟩

theorem Act.ofIssue_tile {p : Nat} {f : Tile → Tile} (hf : ∀ x, (f x).arrivals = x.arrivals) : (Act.tile p f).ofIssue p := ⟨Act.forTile_tile p f (by decide), hf⟩

theorem acts_countIssue (p : Nat) : Acts (Act.ofIssue p) (countIssue p) := by
  have book : ∀ {m : M Unit}, Acts (Act.book p) m → Acts (Act.ofIssue p) m := fun h => h.mono (fun _ ha => ha.ofIssue)
  refine acts_bind (acts_look _) (fun _ => acts_bind (acts_look _) (fun _ => acts_bind (acts_look _) (fun _ => acts_bind (acts_bump ?_ ?_) (fun _ =>
    acts_bind (book (acts_pmuTile_book _ _ _ _ _ _)) (fun _ => acts_bind (acts_setFld ?_) (fun _ => acts_bind (book (acts_sampleSelect _ _ _ _)) (fun _ =>
      acts_bind (book (acts_toneEnd _)) (fun _ => acts_modTile (Act.ofIssue_tile (fun _ => rfl))))))))))
  · exact fun w => Act.ofIssue_reg (d := 0x140) rfl (by decide) w
  · exact fun w => Act.ofIssue_reg (d := 0x144) rfl (by decide) w
  · exact fun w => Act.ofIssue_reg (d := 0x104) rfl (by decide) w

theorem stepPc_arrivals (x : Tile) (pc : Nat) : (x.stepPc pc).1.arrivals = x.arrivals := by rw [stepPc_fst]

/-- The issue of a micro-op changes its tile, and no arrivals. -/
theorem holds_uopDone (p : Nat) : Holds (Issued p) (uopDone p) := by
  have o := composes_issued p
  refine holds_bind o (holds_look o _) (fun pc => holds_bind o (holds_issued (acts_countIssue p)) (fun _ s hs => post_bind (post_getTile ?_)))
  refine post_bind (post_act ?_)
  rw [act_tile_const (fun x => (x.stepPc pc).1)]
  have hfld : Holds (Issued p) (setFld (Fl.TILE_SEQ_PC_PC p) (((s.tile p).stepPc pc).2 % 8192)) := holds_issued (acts_setFld (fun w => Act.ofIssue_reg (d := 0x108) rfl (by decide) w))
  have hmod : (Act.tile p (fun x => (x.stepPc pc).1)).ofIssue p := Act.ofIssue_tile (fun x => stepPc_arrivals x pc)
  exact (hfld _ (Act.apply_inv _ s hs)).mono (fun _ _ ⟨ht, h⟩ => ⟨ht, o.trans ⟨hmod.1.holds hs, hmod.2.holds hs⟩ h⟩)

end Sys2Proof.Machine
end

section
/-! The Clappers of the die (R247, R248). -/

namespace Sys2Proof.Machine

open Sys2Proof

/-- A loop without early exit keeps what is claimed of the elements it has been through. -/
theorem post_forIn_split {γ : Type} {l : List γ} {f : γ → PUnit → M (ForInStep PUnit)} (J : List γ → State → Prop)
    (hstep : ∀ pre x rest, l = pre ++ x :: rest → ∀ t, J pre t → Post (f x PUnit.unit) t (fun r u => r = .yield PUnit.unit ∧ J (pre ++ [x]) u)) {s : State} (h : J [] s) :
    Post (forIn l PUnit.unit f) s (fun _ t => J l t) := by
  suffices hall : ∀ (rest pre : List γ) (s : State), l = pre ++ rest → J pre s → Post (forIn rest PUnit.unit f) s (fun _ t => J l t) from hall l [] s rfl h
  intro rest
  induction rest with
  | nil =>
    intro pre s hl h
    rw [hl, List.append_nil]
    exact post_pure h
  | cons x rest ih =>
    intro pre s hl h
    rw [List.forIn_cons]
    refine post_bind ((hstep pre x rest hl s h).mono ?_)
    rintro _ t ⟨rfl, ht⟩
    exact ih _ t (by rw [hl, List.append_assoc, List.singleton_append]) ht

theorem post_for_split {γ : Type} {l : List γ} {body : γ → M Unit} (J : List γ → State → Prop)
    (hstep : ∀ pre x rest, l = pre ++ x :: rest → ∀ t, J pre t → Post (body x) t (fun _ u => J (pre ++ [x]) u)) {s : State} (h : J [] s) :
    Post (forIn l PUnit.unit (fun x _ => do body x; pure (ForInStep.yield PUnit.unit))) s (fun _ t => J l t) :=
  post_forIn_split J (fun pre x rest hl t ht => post_bind (m := body x) ((hstep pre x rest hl t ht).mono (fun _ _ hu => post_pure ⟨rfl, hu⟩))) h

theorem post_for {γ : Type} {l : List γ} {body : γ → M Unit} (J : List γ → State → Prop) (hstep : ∀ pre x, x ∈ l → ∀ t, J pre t → Post (body x) t (fun _ u => J (pre ++ [x]) u))
    {s : State} (h : J [] s) : Post (forIn l PUnit.unit (fun x _ => do body x; pure (ForInStep.yield PUnit.unit))) s (fun _ t => J l t) :=
  post_for_split J (fun pre x _ hl => hstep pre x (by simp [hl])) h

/-- The address after a micro-op depends on a tile's loops alone. -/
theorem stepPc_snd_congr {x y : Tile} (h : x.loops = y.loops) (pc : Nat) : (x.stepPc pc).2 = (y.stepPc pc).2 := by
  unfold Tile.stepPc
  rw [h]
  cases y.loops with
  | nil => rfl
  | cons l rest =>
    dsimp only
    split
    · split <;> rfl
    · rfl

theorem Moved.forTile {n : Nat} {W : List Nat} {f : Tile → Tile} {s t : State} (h : Moved n W f s t) (hW : ∀ o ∈ W, tilePage n o = true) : ForTile n issueParts s t := by
  refine ⟨fun o ho _ => h.reg o (fun hm => by simp [hW o hm] at ho) ?_, h.others, h.rest⟩
  rw [← Bool.not_eq_true, bookReg_iff]
  rw [← Bool.not_eq_true, tilePage_iff] at ho
  omega

theorem doneRegs_page {n o : Nat} (ho : o ∈ doneRegs n) : tilePage n o = true := by
  simp only [doneRegs, List.mem_cons, List.not_mem_nil, or_false, Reg.TILE_SEQ_STATUS, Reg.TILE_SEQ_ISSUE_LO, Reg.TILE_SEQ_PC] at ho
  rw [tilePage_iff]
  omega

/-! A tile that waits at a Clapper. -/

section
variable {n : Nat} {s t u : State}

theorem WaitedThen.later {f g : Tile → Tile} (h : WaitedThen n f s t) (k : Moved n [] g t u) (hg : Plain g) : WaitedThen n (g ∘ f) s u where
  moved := ((h.moved.trans k hg).mono (by simp)).congr (fun _ => rfl)
  state := (k.state (by simp)).trans h.state
  count := counted_after h.count k (by simp) (by simp) (bookReg_seq (by simp [Reg.TILE_SEQ_WAIT_LO])) (bookReg_seq (by simp [Reg.TILE_SEQ_WAIT_LO]))

theorem post_clapWaitAt (hn : n < 180) (hs : s.Inv) (w : SeqWait) (tone : Bool) : Post (clapWaitAt n w tone) s (fun _ t => WaitedThen n (fun x => { x with wait := w }) s t) := by
  refine post_bind ((post_uopWait hn hs).mono (fun _ t1 h1 => post_bind (post_look (post_bind (post_look ?_)))))
  refine post_bind (((acts_pmuTile_book _ _ _ _ _ _).booked h1.moved.inv).mono (fun _ t2 h2 => post_bind (post_getTile ?_)))
  have hw2 := h1.later h2.moved plain_id
  have hend : ∀ t3, Moved n [] id t2 t3 → Post (modTile n (fun t => { t with wait := w })) t3 (fun _ t => WaitedThen n (fun x => { x with wait := w }) s t) := fun t3 h3 =>
    (post_modTile_moved n h3.inv _).mono (fun _ t h4 => (hw2.later h3 plain_id).later h4 (plain_of_core (fun _ => rfl)))
  refine post_ite (fun _ => post_bind (((acts_toneStart n).booked h2.inv).mono (fun _ t3 h3 => hend t3 h3.moved))) (fun _ => hend t2 (.refl h2.inv))

end

/-! The release of a channel on a tile. -/

/-- A channel's release on tile p: its arrival is used up. -/
structure Released (p c : Nat) (s t : State) : Prop where
  inv : t.Inv
  forTile : ForTile p issueParts s t
  arrivals : ∀ k, (t.tile k).arrivals = if k = p then (s.tile p).arrivals.filter (fun d => decide (d ≠ c)) else (s.tile k).arrivals

theorem released_modTile {s : State} (hs : s.Inv) (p c : Nat) : Released p c s ((Act.tile p (fun t => { t with arrivals := t.arrivals.filter (fun d => decide (d ≠ c)) })).apply s) := by
  refine ⟨Act.apply_inv _ s hs, (moved_tile hs _).forTile (by simp), fun k => ?_⟩
  rw [State.tile_apply_tile hs]
  split <;> rfl

theorem Released.issued {p c : Nat} {s t u : State} (h : Released p c s t) (hu : u.Inv) (g : Issued p t u) : Released p c s u :=
  ⟨hu, (composes_forTile p issueParts).trans h.forTile g.1, fun k => (g.2 k).trans (h.arrivals k)⟩

theorem Released.not_arrived {p c : Nat} {s t : State} (h : Released p c s t) : c ∉ (t.tile p).arrivals := by
  rw [h.arrivals, if_pos rfl]
  simp

theorem Released.still_not {p c k : Nat} {s t : State} (h : Released p c s t) (hk : c ∉ (s.tile k).arrivals) : c ∉ (t.tile k).arrivals := by
  rw [h.arrivals]
  split
  · simp
  · exact hk

theorem post_clapReleaseTile {s : State} (hs : s.Inv) (p c : Nat) : Post (clapReleaseTile p c) s (fun _ t => Released p c s t) := by
  refine post_bind (post_getTile (post_bind (post_act ?_)))
  have h1 := released_modTile hs p c
  have htone : Acts (Act.ofIssue p) (toneEnd p >>= fun _ => modTile p (fun t => { t with wait := .none })) :=
    acts_bind ((acts_toneEnd p).mono (fun _ ha => ha.ofIssue)) (fun _ => acts_modTile (Act.ofIssue_tile (fun _ => rfl)))
  refine post_ite (fun _ => (holds_uopDone p _ h1.inv).mono (fun _ _ ⟨hu, g⟩ => h1.issued hu g)) (fun _ => post_ite (fun _ => ?_) (fun _ => post_pure h1))
  exact (holds_issued htone _ h1.inv).mono (fun _ _ ⟨hu, g⟩ => h1.issued hu g)

section
variable {n c : Nat} {s : State} (hs : s.Inv)
include hs

/-- A tile that waits at the channel goes on. -/
theorem post_release_waiting (hn : n < 180) (hwait : (s.tile n).wait = .clap c) : Post (clapReleaseTile n c) s (fun _ t => Released n c s t ∧ (t.tile n).wait = .none ∧
    t.pc n = ((s.tile n).stepPc (s.pc n)).2 % 8192 ∧ counted s t (Reg.TILE_SEQ_ISSUE_LO n)) := by
  refine post_bind (post_getTile (post_bind (post_act ?_)))
  have h1 := released_modTile hs n c
  rw [if_pos (.inl hwait)]
  refine (post_uopDone hn h1.inv).mono (fun _ t h2 => ⟨h1.issued h2.moved.inv ⟨h2.moved.forTile (fun _ => doneRegs_page), fun k => ?_⟩, (congrArg Tile.wait h2.core :), ?_, h2.count⟩)
  · by_cases hk : k = n
    · rw [hk]
      exact (congrArg Tile.arrivals h2.core :)
    · rw [h2.moved.others k hk]
  · refine h2.pc.trans (congrArg (· % 8192) (stepPc_snd_congr ?_ _))
    rw [hs.tile_apply_same]

/-- A tile that does not wait stays where it is. -/
theorem post_release_free (hwait : (s.tile n).wait = .none) : Post (clapReleaseTile n c) s (fun _ t => Released n c s t ∧ (t.tile n).wait = .none ∧ ∀ o, t.reg o = s.reg o) := by
  refine post_bind (post_getTile (post_bind (post_act ?_)))
  rw [if_neg (by simp [hwait]), if_neg (by simp [hwait])]
  refine post_pure ⟨released_modTile hs n c, ?_, fun _ => rfl⟩
  rw [hs.tile_apply_same]
  exact hwait

end

/-! The last arrival. -/

/-- Of the participants in a list the channel's release is done; tile n stands before its own, and after it is at a place with its issues counted. -/
structure Releasing (n c pc issues : Nat) (s : State) (done : List Nat) (t : State) : Prop where
  inv : t.Inv
  mem : t.mem = s.mem
  arrivals : ∀ p ∈ done, c ∉ (t.tile p).arrivals
  before : n ∉ done → (∀ o, tilePage n o = true → t.reg o = s.reg o) ∧ t.tile n = s.tile n
  after : n ∈ done → (t.tile n).wait = .none ∧ t.pc n = pc ∧ t.reg64 (Reg.TILE_SEQ_ISSUE_LO n) = issues

theorem seqPage (n : Nat) : tilePage n (Reg.TILE_SEQ_PC n) = true ∧ tilePage n (Reg.TILE_SEQ_ISSUE_LO n) = true ∧ tilePage n (Reg.TILE_SEQ_ISSUE_LO n + 4) = true :=
  ⟨tilePage_place (by decide), tilePage_place (by decide), tilePage_place (d := 0x144) (by decide)⟩

section
variable {n c pc issues : Nat} {s : State} {done : List Nat} {t : State}

theorem Releasing.other (h : Releasing n c pc issues s done t) {p : Nat} (hp : p ≠ n) {u : State} (r : Released p c t u) : Releasing n c pc issues s (done ++ [p]) u := by
  have hmem : n ∈ done ++ [p] ↔ n ∈ done := by simp [Ne.symm hp]
  have hreg : ∀ o, tilePage n o = true → u.reg o = t.reg o := fun o ho => r.forTile.reg o (tilePage_other hp ho) (hubReg_tile (by rw [tilePage_iff] at ho; omega))
  have htile := r.forTile.others n (Ne.symm hp)
  refine ⟨r.inv, (r.forTile.rest .memory (by decide)).1.trans h.mem, fun k hk => ?_, fun hn => ?_, fun hn => ?_⟩
  · rcases List.mem_append.mp hk with hk | hk
    · exact r.still_not (h.arrivals k hk)
    · rw [List.mem_singleton.mp hk]
      exact r.not_arrived
  · obtain ⟨hr, ht⟩ := h.before (fun hm => hn (hmem.mpr hm))
    exact ⟨fun o ho => (hreg o ho).trans (hr o ho), htile.trans ht⟩
  · obtain ⟨hwait, hpc, hissues⟩ := h.after (hmem.mp hn)
    obtain ⟨p1, p2, p3⟩ := seqPage n
    exact ⟨by rw [htile, hwait], (State.fld_congr (hreg _ p1)).trans hpc, (State.reg64_congr (hreg _ p2) (hreg _ p3)).trans hissues⟩

theorem Releasing.own (h : Releasing n c pc issues s done t) {u : State} (r : Released n c t u) (hu : (u.tile n).wait = .none ∧ u.pc n = pc ∧ u.reg64 (Reg.TILE_SEQ_ISSUE_LO n) = issues) :
    Releasing n c pc issues s (done ++ [n]) u := by
  refine ⟨r.inv, (r.forTile.rest .memory (by decide)).1.trans h.mem, fun k hk => ?_, fun hn => absurd (by simp) hn, fun _ => hu⟩
  rcases List.mem_append.mp hk with hk | hk
  · exact r.still_not (h.arrivals k hk)
  · rw [List.mem_singleton.mp hk]
    exact r.not_arrived

end

/-- The channel's release, tile by tile, once tile n's own is known. -/
theorem post_releases {n c pc issues : Nat} {s : State} (hs : s.Inv) (ps : List Nat)
    (hown : ∀ t : State, t.Inv → (∀ o, tilePage n o = true → t.reg o = s.reg o) → t.tile n = s.tile n → Post (clapReleaseTile n c) t (fun _ u => Released n c t u ∧
      (u.tile n).wait = .none ∧ u.pc n = pc ∧ u.reg64 (Reg.TILE_SEQ_ISSUE_LO n) = issues)) :
    Post (forIn ps PUnit.unit (fun p _ => do clapReleaseTile p c; pure (ForInStep.yield PUnit.unit))) s (fun _ t => Releasing n c pc issues s ps t) := by
  refine post_for (Releasing n c pc issues s) (fun done p _ t h => ?_) ⟨hs, rfl, fun _ => (nomatch ·), fun _ => ⟨fun _ _ => rfl, rfl⟩, (nomatch ·)⟩
  by_cases hp : p = n
  · subst hp
    by_cases hdone : p ∈ done
    · obtain ⟨hwait, hpc, hissues⟩ := h.after hdone
      refine (post_release_free h.inv hwait).mono (fun _ u ⟨r, hw, hreg⟩ => h.own r ⟨hw, (State.fld_congr (hreg _)).trans hpc, (State.reg64_congr (hreg _) (hreg _)).trans hissues⟩)
    · obtain ⟨hreg, htile⟩ := h.before hdone
      exact (hown t h.inv hreg htile).mono (fun _ u ⟨r, hu⟩ => h.own r hu)
  · exact (post_clapReleaseTile h.inv p c).mono (fun _ u r => h.other hp r)

end Sys2Proof.Machine
end

section
/-! CLAP, ARRIVE and CLAP_WAIT (R247, R248). -/

namespace Sys2Proof.Machine

open Sys2Proof

section
variable {n c : Nat} {s : State} (hs : s.Inv)
include hs

/-- Has every participant but tile n arrived? -/
def OthersArrived (s : State) (n c : Nat) : Prop := ∀ p ∈ s.onDie c, p ≠ n → (s.tile p).arrivals.contains c = true

omit hs in
theorem othersArrived_congr {t : State} (hjob : t.job = s.job) (hothers : ∀ k, k ≠ n → t.tile k = s.tile k) : OthersArrived t n c ↔ OthersArrived s n c := by
  have hdie : t.onDie c = s.onDie c := by rw [State.onDie, State.onDie, hjob]
  unfold OthersArrived
  rw [hdie]
  exact forall₂_congr (fun p _ => imp_congr_right (fun hp => by rw [hothers p hp]))

/-- The state once tile n's own arrival is noted. -/
def State.arrive (s : State) (n c : Nat) : State := (Act.tile n (fun x => { x with arrivals := x.arrivals ++ [c] })).apply s

omit hs in
theorem post_modTile_arrive {Q : Unit → State → Prop} (h : Q () (s.arrive n c)) : Post (modTile n (fun t => { t with arrivals := t.arrivals ++ [c] })) s Q := post_act h

theorem arrive_all : ((s.arrive n c).onDie c).all (fun p => ((s.arrive n c).tile p).arrivals.contains c) = true ↔ OthersArrived s n c := by
  rw [List.all_eq_true]
  refine forall₂_congr (fun p _ => ?_)
  rw [State.arrive, State.tile_apply_tile hs]
  by_cases hp : p = n
  · simp [hp]
  · simp [hp]

/-- An arrival that is not the last. -/
theorem post_clapArrive_waits (hnot : ¬OthersArrived s n c) : Post (clapArriveTile n c) s (fun _ t => Moved n [] (fun x => { x with arrivals := x.arrivals ++ [c] }) s t) := by
  refine post_bind (post_modTile_arrive (post_bind (post_look (post_bind (post_look ?_)))))
  rw [if_neg (fun h => hnot ((arrive_all hs).mp h))]
  exact post_pure (moved_tile hs _)

/-- The last arrival releases the channel. -/
theorem post_clapArrive_last (hlast : OthersArrived s n c) {pc issues : Nat}
    (hown : ∀ t : State, t.Inv → (∀ o, tilePage n o = true → t.reg o = s.reg o) → t.tile n = (s.arrive n c).tile n → Post (clapReleaseTile n c) t (fun _ u => Released n c t u ∧
      (u.tile n).wait = .none ∧ u.pc n = pc ∧ u.reg64 (Reg.TILE_SEQ_ISSUE_LO n) = issues)) :
    Post (clapArriveTile n c) s (fun _ t => Releasing n c pc issues (s.arrive n c) (s.onDie c) t) := by
  refine post_bind (post_modTile_arrive (post_bind (post_look (post_bind (post_look ?_)))))
  rw [if_pos ((arrive_all hs).mpr hlast)]
  exact post_bind ((post_releases (Act.apply_inv _ s hs) _ hown).mono (fun _ _ h => post_pure h))

end

section
variable {n : Nat} (hn : n < 180) {s : State} (hs : s.Inv) {w c : Nat} (hc : c = bitsOf w 3 0)
include hn hs hc

/-- A channel without this tile. -/
theorem clapper_foreign (hout : (s.onDie c).contains n = false) : ∀ i ∈ [((.clap : Nat → Instr), 2), (.arrive, 3), (.clapWait, 4)], atUop s n 6 i.2 w →
    Completes (i.1 n) s (hasFaulted s · n) := by
  subst hc
  have hfault : ∀ {m : M Unit}, Post (if (!(s.onDie (bitsOf w 3 0)).contains n) = true then programFault n else m) s (fun _ t => hasFaulted s t n) := fun {m} => by
    rw [if_pos (by rw [hout]; rfl)]
    exact post_programFault hn hs
  intro i hi
  simp only [List.mem_cons, List.not_mem_nil, or_false] at hi
  rcases hi with rfl | rfl | rfl
  · exact fun hat => Post.completes (m := withUop n 6 2 _) (post_withUop hat (post_bind (m := look _) (post_look (post_bind (post_getTile hfault))))) rfl
  · exact fun hat => Post.completes (m := withUop n 6 3 _) (post_withUop hat (post_bind (m := look _) (post_look (post_bind (post_getTile hfault))))) rfl
  · exact fun hat => Post.completes (m := withUop n 6 4 _) (post_withUop hat (post_bind (m := look _) (post_look (post_bind (post_getTile hfault))))) rfl

variable (hin : (s.onDie c).contains n = true)
include hin

section
variable (hfree : (s.tile n).arrivals.contains c = false) (hwait : (s.tile n).wait = .none)
include hfree hwait

omit hn hs in
/-- CLAP arrives and waits. -/
theorem clap_meaning {Q : State → Prop} (h : Post (clapWaitAt n (.clap c) true >>= fun _ => clapArriveTile n c) s (fun _ t => Q t)) (hat : atUop s n 6 2 w) :
    Completes (.clap n) s Q := by
  subst hc
  refine Post.completes (m := withUop n 6 2 _) (post_withUop hat (post_bind (m := look _) (post_look (post_bind (post_getTile ?_))))) rfl
  rw [if_neg (by rw [hin]; decide), if_neg (by rw [hwait]; simp), if_neg (by rw [hfree]; decide)]
  exact h

theorem clap_waits (hat : atUop s n 6 2 w) (hnot : ¬OthersArrived s n c) : Completes (.clap n) s (fun t => hasWaited s t n ∧ (t.tile n).wait = .clap c ∧
    (t.tile n).arrivals = (s.tile n).arrivals ++ [c]) := by
  refine clap_meaning hc hin hfree hwait (post_bind ((post_clapWaitAt hn hs _ _).mono (fun _ t1 h1 => ?_))) hat
  have hnot1 : ¬OthersArrived t1 n c := fun h => hnot ((othersArrived_congr (h1.moved.rest .job (by decide)) h1.moved.others).mp h)
  refine (post_clapArrive_waits h1.moved.inv hnot1).mono (fun _ t h2 => ?_)
  have h := h1.later h2 (plain_of_core (fun _ => rfl))
  exact ⟨h.hasWaited (fun _ => rfl), (congrArg Tile.wait h.moved.core :), (congrArg Tile.arrivals h.moved.core :)⟩

theorem clap_releases (hat : atUop s n 6 2 w) (hlast : OthersArrived s n c) : Completes (.clap n) s (fun t => (∀ p ∈ s.onDie c, c ∉ (t.tile p).arrivals) ∧ (t.tile n).wait = .none ∧
    t.pc n = ((s.tile n).stepPc (s.pc n)).2 % 8192 ∧ t.mem = s.mem ∧ counted s t (Reg.TILE_SEQ_ISSUE_LO n)) := by
  refine clap_meaning hc hin hfree hwait (post_bind ((post_clapWaitAt hn hs _ _).mono (fun _ t1 h1 => ?_))) hat
  have hjob : t1.job = s.job := h1.moved.rest .job (by decide)
  have hlast1 : OthersArrived t1 n c := (othersArrived_congr hjob h1.moved.others).mpr hlast
  have hdie : t1.onDie c = s.onDie c := by rw [State.onDie, State.onDie, hjob]
  have hissue : t1.reg64 (Reg.TILE_SEQ_ISSUE_LO n) = s.reg64 (Reg.TILE_SEQ_ISSUE_LO n) :=
    State.reg64_congr (h1.moved.reg _ (by simp [waitRegs, Reg.TILE_SEQ_ISSUE_LO, Reg.TILE_SEQ_STATUS, Reg.TILE_SEQ_WAIT_LO]) (bookReg_seq (by simp [Reg.TILE_SEQ_ISSUE_LO])))
      (h1.moved.reg _ (by simp [waitRegs, Reg.TILE_SEQ_ISSUE_LO, Reg.TILE_SEQ_STATUS, Reg.TILE_SEQ_WAIT_LO]) (bookReg_seq (by simp [Reg.TILE_SEQ_ISSUE_LO])))
  obtain ⟨hpc1, -⟩ := h1.hasWaited (fun _ => rfl)
  have h2 := moved_tile (n := n) h1.moved.inv (fun x => { x with arrivals := x.arrivals ++ [c] })
  have hcore : ((t1.arrive n c).tile n).core = _ := h2.core
  refine (post_clapArrive_last h1.moved.inv hlast1 (pc := ((s.tile n).stepPc (s.pc n)).2 % 8192) (issues := min (s.reg64 (Reg.TILE_SEQ_ISSUE_LO n) + 1) (2 ^ 48 - 1)) ?_).mono ?_
  · intro t ht hreg htile
    obtain ⟨p1, p2, p3⟩ := seqPage n
    have hpc : t.pc n = s.pc n := (State.fld_congr (hreg _ p1)).trans hpc1
    refine (post_release_waiting ht hn ?_).mono (fun _ u ⟨r, hw, hupc, hcount⟩ => ⟨r, hw, ?_, ?_⟩)
    · rw [htile]
      exact (congrArg Tile.wait hcore).trans (congrArg Tile.wait h1.moved.core :)
    · rw [hupc, hpc, stepPc_snd_congr (y := s.tile n)]
      rw [htile]
      exact (congrArg Tile.loops hcore).trans (congrArg Tile.loops h1.moved.core :)
    · rw [show u.reg64 _ = _ from hcount, State.reg64_congr (hreg _ p2) (hreg _ p3), hissue]
  · intro _ t h
    rw [hdie] at h
    obtain ⟨hw, hpc, hissues⟩ := h.after (List.contains_iff_mem.mp hin)
    exact ⟨h.arrivals, hw, hpc, h.mem.trans h1.moved.mem, hissues⟩

omit hn hs hwait in
/-- ARRIVE arrives and goes on. -/
theorem arrive_meaning {Q : State → Prop} (h : Post (uopDone n >>= fun _ => clapArriveTile n c) s (fun _ t => Q t)) (hat : atUop s n 6 3 w) : Completes (.arrive n) s Q := by
  subst hc
  refine Post.completes (m := withUop n 6 3 _) (post_withUop hat (post_bind (m := look _) (post_look (post_bind (post_getTile ?_))))) rfl
  rw [if_neg (by rw [hin]; decide), if_neg (by rw [hfree]; decide)]
  exact h

omit hwait in
theorem arrive_goes (hat : atUop s n 6 3 w) (hnot : ¬OthersArrived s n c) : Completes (.arrive n) s (fun t => wentOn s t n (s.tile n) ∧
    (t.tile n).arrivals = (s.tile n).arrivals ++ [c]) := by
  refine arrive_meaning hc hin hfree (post_bind ((post_uopDone hn hs).mono (fun _ t1 h1 => ?_))) hat
  have hnot1 : ¬OthersArrived t1 n c := fun h => hnot ((othersArrived_congr (h1.moved.rest .job (by decide)) h1.moved.others).mp h)
  refine (post_clapArrive_waits h1.moved.inv hnot1).mono (fun _ t h2 => ?_)
  exact ⟨wentOn_later (wentOn_of_done h1) h2 (by simp) (h2.state (by simp)) (fun _ => ⟨rfl, rfl, rfl, rfl⟩),
    (congrArg Tile.arrivals h2.core).trans (congrArg (· ++ [c]) (congrArg Tile.arrivals h1.core) :)⟩

omit hwait in
theorem arrive_releases (hat : atUop s n 6 3 w) (hlast : OthersArrived s n c) : Completes (.arrive n) s (fun t => (∀ p ∈ s.onDie c, c ∉ (t.tile p).arrivals) ∧
    t.pc n = ((s.tile n).stepPc (s.pc n)).2 % 8192 ∧ t.mem = s.mem ∧ counted s t (Reg.TILE_SEQ_ISSUE_LO n)) := by
  refine arrive_meaning hc hin hfree (post_bind ((post_uopDone hn hs).mono (fun _ t1 h1 => ?_))) hat
  have hjob : t1.job = s.job := h1.moved.rest .job (by decide)
  have hlast1 : OthersArrived t1 n c := (othersArrived_congr hjob h1.moved.others).mpr hlast
  have hdie : t1.onDie c = s.onDie c := by rw [State.onDie, State.onDie, hjob]
  have h2 := moved_tile (n := n) h1.moved.inv (fun x => { x with arrivals := x.arrivals ++ [c] })
  have hcore : ((t1.arrive n c).tile n).core = _ := h2.core
  refine (post_clapArrive_last h1.moved.inv hlast1 (pc := t1.pc n) (issues := t1.reg64 (Reg.TILE_SEQ_ISSUE_LO n)) ?_).mono ?_
  · intro t ht hreg htile
    obtain ⟨p1, p2, p3⟩ := seqPage n
    refine (post_release_free ht ?_).mono (fun _ u ⟨r, hw, hsame⟩ =>
      ⟨r, hw, State.fld_congr ((hsame _).trans (hreg _ p1)), State.reg64_congr ((hsame _).trans (hreg _ p2)) ((hsame _).trans (hreg _ p3))⟩)
    rw [htile]
    exact (congrArg Tile.wait hcore).trans (congrArg Tile.wait h1.core :)
  · intro _ t h
    rw [hdie] at h
    obtain ⟨-, hpc, hissues⟩ := h.after (List.contains_iff_mem.mp hin)
    exact ⟨h.arrivals, hpc.trans h1.pc, h.mem.trans h1.moved.mem, hissues.trans h1.count⟩

omit hwait in
theorem clapWait_goes (hat : atUop s n 6 4 w) : Completes (.clapWait n) s (wentOn s · n (s.tile n)) := by
  subst hc
  refine Post.completes (m := withUop n 6 4 _) (post_withUop hat (post_bind (m := look _) (post_look (post_bind (post_getTile ?_))))) rfl
  rw [if_neg (by rw [hin]; decide), if_neg (by rw [hfree]; decide)]
  exact (post_uopDone hn hs).mono (fun _ _ h => wentOn_of_done h)

end

variable (harrived : (s.tile n).arrivals.contains c = true)
include harrived

theorem arrive_holds (hat : atUop s n 6 3 w) : Completes (.arrive n) s (fun t => hasWaited s t n ∧ (t.tile n).wait = .toArrive c ∧ (t.tile n).arrivals = (s.tile n).arrivals) := by
  subst hc
  refine Post.completes (m := withUop n 6 3 _) (post_withUop hat (post_bind (m := look _) (post_look (post_bind (post_getTile ?_))))) rfl
  rw [if_neg (by rw [hin]; decide), if_pos harrived]
  exact (post_clapWaitAt hn hs _ _).mono (fun _ t h => ⟨h.hasWaited (fun _ => rfl), (congrArg Tile.wait h.moved.core :), (congrArg Tile.arrivals h.moved.core :)⟩)

theorem clapWait_holds (hat : atUop s n 6 4 w) : Completes (.clapWait n) s (fun t => hasWaited s t n ∧ (t.tile n).wait = .clapWait c ∧ (t.tile n).arrivals = (s.tile n).arrivals) := by
  subst hc
  refine Post.completes (m := withUop n 6 4 _) (post_withUop hat (post_bind (m := look _) (post_look (post_bind (post_getTile ?_))))) rfl
  rw [if_neg (by rw [hin]; decide), if_pos harrived]
  exact (post_clapWaitAt hn hs _ _).mono (fun _ t h => ⟨h.hasWaited (fun _ => rfl), (congrArg Tile.wait h.moved.core :), (congrArg Tile.arrivals h.moved.core :)⟩)

end

end Sys2Proof.Machine
end

section
/-! SUPPORT. Messages between the modules as they are sent (R343). -/

namespace Sys2Proof.Machine

open Sys2Proof

/-- The collective engine apart from the numbers of its messages. -/
def Coll.unnumbered (c : Coll) : Coll := { c with seq := [] }

/-- The registers in which sending counts. -/
def msgReg (o : Nat) : Bool := decide (o = Reg.NRT_STATUS) || decide (o = Reg.NRT_COUNT_LO 13) || decide (o = Reg.NRT_COUNT_LO 13 + 4)

theorem msgReg_eq_false {o : Nat} : msgReg o = false ↔ o ≠ Reg.NRT_STATUS ∧ o ≠ Reg.NRT_COUNT_LO 13 ∧ o ≠ Reg.NRT_COUNT_LO 13 + 4 := by simp [msgReg, and_assoc]

theorem msgReg_of_not_hubReg {o : Nat} (h : hubReg o = false) : msgReg o = false := by
  have hn : ¬(o < 0x800000 ∨ 0x900000 ≤ o ∧ o < 0x10000000) := fun hc => by simp [hubReg_iff.mpr hc] at h
  rw [msgReg_eq_false, Reg.NRT_STATUS, Reg.NRT_COUNT_LO]
  omega

/-- From s to t messages to some modules have been queued. -/
structure Posted (dests : List Nat) (s t : State) : Prop where
  inv : t.Inv
  reg : ∀ o, msgReg o = false → t.reg o = s.reg o
  coll : t.coll.unnumbered = s.coll.unnumbered
  state : ∀ f, (t.flow f).state = (s.flow f).state
  tx : ∀ f, (s.flow f).tx ⊆ (t.flow f).tx
  seq : ∀ d, d ∉ dests → seqTo t d = seqTo s d
  rest : ∀ p, p ∉ [StatePart.registers, .coll, .nrt] → p.stands s t

theorem Posted.refl {s : State} (hs : s.Inv) : Posted [] s s := ⟨hs, fun _ _ => rfl, rfl, fun _ => rfl, fun _ => fun _ h => h, fun _ _ => rfl, fun p _ => p.stands_refl s⟩

theorem Posted.trans {l k : List Nat} {s t u : State} (h : Posted l s t) (g : Posted k t u) : Posted (l ++ k) s u where
  inv := g.inv
  reg o ho := (g.reg o ho).trans (h.reg o ho)
  coll := g.coll.trans h.coll
  state f := (g.state f).trans (h.state f)
  tx f := fun _ hx => g.tx f (h.tx f hx)
  seq d hd := by
    rw [List.mem_append, not_or] at hd
    exact (g.seq d hd.2).trans (h.seq d hd.1)
  rest p hp := StatePart.stands_trans (h.rest p hp) (g.rest p hp)

theorem Posted.mono {l k : List Nat} {s t : State} (h : Posted l s t) (hl : l ⊆ k) : Posted k s t := { h with seq := fun d hd => h.seq d (fun hm => hd (hl hm)) }

theorem posted_reg {s : State} (hs : s.Inv) {o : Nat} (ho : msgReg o = true) (v : W32) : Posted [] s ((Act.reg o v).apply s) where
  inv := Act.apply_inv _ s hs
  reg k hk := hs.reg_apply_reg_other v (fun heq => by simp [heq, ho] at hk)
  coll := rfl
  state _ := rfl
  tx _ := fun _ h => h
  seq _ _ := rfl
  rest p hp := Act.apply_stands (fun hmem => hp (by simp [Act.kind, ActKind.changes] at hmem; simp [hmem])) s

theorem flow_apply_flow {s : State} (hs : s.Inv) (f g : Nat) (u : Flow → Flow) : ((Act.flow f u).apply s).flow g = if g = f then u (s.flow f) else s.flow g :=
  Store.get_set (fun _ => Flow.free) f g _ hs.flows

theorem posted_flow {s : State} (hs : s.Inv) (f : Nat) {u : Flow → Flow} (hstate : ∀ x, (u x).state = x.state) (htx : ∀ x, x.tx ⊆ (u x).tx) : Posted [] s ((Act.flow f u).apply s) where
  inv := Act.apply_inv _ s hs
  reg _ _ := rfl
  coll := rfl
  state g := by
    rw [flow_apply_flow hs]
    split
    · rename_i hg
      rw [hg, hstate]
    · rfl
  tx g := by
    rw [flow_apply_flow hs]
    split
    · rename_i hg
      rw [hg]
      exact htx _
    · exact fun _ h => h
  seq _ _ := rfl
  rest p hp := Act.apply_stands (fun hmem => hp (by simp [Act.kind, ActKind.changes] at hmem; simp [hmem])) s

/-- The next number of a destination is used. -/
theorem posted_nextSeq {s : State} (hs : s.Inv) (d n : Nat) : Posted [d] s ((Act.coll (fun c => { c with seq := (d, n) :: c.seq.filter (fun e => decide (e.1 ≠ d)) })).apply s) where
  inv := Act.apply_inv _ s hs
  reg _ _ := rfl
  coll := rfl
  state _ := rfl
  tx _ := fun _ h => h
  seq k hk := by
    have hne : d ≠ k := fun h => hk (by simp [h])
    have hfind : ((s.coll.seq.filter (fun e => decide (e.1 ≠ d))).find? (fun e => decide (e.1 = k))) = s.coll.seq.find? (fun e => decide (e.1 = k)) := by
      rw [List.find?_filter]
      congr 1
      funext e
      by_cases he : e.1 = k
      · simp [he, Ne.symm hne]
      · simp [he]
    show ((((d, n) :: s.coll.seq.filter (fun e => decide (e.1 ≠ d))).find? (fun e => decide (e.1 = k))).map (·.2)).getD 0 = _
    rw [List.find?_cons_of_neg (by simpa using hne), hfind]
    rfl
  rest p hp := Act.apply_stands (fun hmem => hp (by simp [Act.kind, ActKind.changes] at hmem; simp [hmem])) s

theorem post_setFld_posted {s : State} (hs : s.Inv) {f : Fld} (hf : msgReg f.off = true) (v : Nat) : Post (setFld f v) s (fun _ t => Posted [] s t) :=
  (does_setFld f v s).post (posted_reg hs hf _)

theorem post_bump_posted {s : State} (hs : s.Inv) : Post (bump (Reg.NRT_COUNT_LO 13) 1) s (fun _ t => Posted [] s t) := by
  refine post_bind (post_look (post_bind (post_act (post_act ?_))))
  exact (posted_reg hs (by decide) _).trans (posted_reg (Act.apply_inv _ s hs) (by decide) _)

/-- A packet of a message joins those of its flow. -/
theorem post_queued {s t : State} {dest type slate : Nat} {arg : List Byte} {u : Flow → Flow} (h : Posted [dest] s t) (hstate : ∀ x, (u x).state = x.state) (htx : ∀ x, x.tx ⊆ (u x).tx)
    (hmsg : ∃ x ∈ (u (t.flow (4032 + dest))).tx, x.sent = none ∧ x.pkt.op = opMgmt ∧ x.pkt.payload = msgBytes ⟨type, s.fld Fl.COLL_STATUS_EPOCH, s.me, seqTo s dest, slate, arg⟩) :
    Post (setFld Fl.NRT_STATUS_BUSY 1) ((Act.flow (4032 + dest) u).apply t) (fun _ v => Posted [dest] s v ∧ sentMsg s v dest type slate arg) := by
  have h2 := h.trans (posted_flow h.inv (4032 + dest) hstate htx)
  obtain ⟨x, hx, hparts⟩ := hmsg
  refine (post_setFld_posted h2.inv (by decide) _).mono (fun _ v h3 => ⟨(h2.trans h3).mono (by simp), fun _ => ⟨x, h3.tx _ ?_, hparts⟩⟩)
  rw [flow_apply_flow h.inv, if_pos rfl]
  exact hx

/-- A message is queued on its flow, where that is active, with the module's number and the next number of its destination. -/
theorem post_sendMsg {s : State} (hs : s.Inv) (dest type slate : Nat) (arg : List Byte) : Post (sendMsg dest type slate arg) s (fun _ t => Posted [dest] s t ∧ sentMsg s t dest type slate arg) := by
  refine post_bind (post_look ?_)
  by_cases hactive : (s.flow (4032 + dest)).state = 1
  · rw [if_neg (by simp [hactive])]
    refine post_bind (post_bind (post_look (post_bind (post_act (post_pure (post_bind (post_look (post_bind (post_look (post_bind (post_look ?_)))))))))))
    have h1 := posted_nextSeq hs dest ((seqTo s dest + 1) % 2 ^ 32)
    have hactive1 := (h1.state (4032 + dest)).trans hactive
    refine post_ite (fun _ => post_bind (post_act ?_)) (fun hno => absurd hactive1 hno)
    exact post_queued h1 (fun _ => rfl) (fun _ => List.subset_append_left _ _) ⟨_, List.mem_append_right _ (List.mem_singleton_self _), rfl, rfl, rfl⟩
  · rw [if_pos hactive]
    exact (post_bump_posted hs).mono (fun _ t h => ⟨h.mono (by simp), fun hon => absurd hon hactive⟩)

end Sys2Proof.Machine
end

section
/-! The Clappers across modules: a tile's arrival, and its module's (R247, R249, R592). -/

namespace Sys2Proof.Machine

open Sys2Proof

/-! The waking of the ports. -/

/-- The changes of the ports as they wake. -/
def Act.ofWake : Act → Prop
  | .reg o _ => hubReg o = true
  | .port _ _ | .out _ => True
  | .hub f => ∀ h, (f h).swapArmed = h.swapArmed ∧ (f h).swapping = h.swapping
  | _ => False

/-- From s to t registers on the hub's side and the ports may have changed. -/
structure Woken (s t : State) : Prop where
  reg : ∀ o, hubReg o = false → t.reg o = s.reg o
  armed : t.hub.swapArmed = s.hub.swapArmed
  swapping : t.hub.swapping = s.hub.swapping
  rest : ∀ p, p ∉ [StatePart.registers, .ports, .outputs, .hub] → p.stands s t

theorem composes_woken : Composes Woken where
  refl s := ⟨fun _ _ => rfl, rfl, rfl, fun p _ => p.stands_refl s⟩
  trans h g := ⟨fun o ho => (g.reg o ho).trans (h.reg o ho), g.armed.trans h.armed, g.swapping.trans h.swapping, fun p hp => StatePart.stands_trans (h.rest p hp) (g.rest p hp)⟩

theorem Act.ofWake.woken {a : Act} {s : State} (h : a.ofWake) (hs : s.Inv) : Woken s (a.apply s) := by
  have hrest : ∀ p, p ∉ [StatePart.registers, .ports, .outputs, .hub] → p.stands s (a.apply s) := fun p hp => Act.apply_stands (fun hmem => hp (by
    cases a with
    | reg _ _ | port _ _ | out _ | hub _ =>
      simp [Act.kind, ActKind.changes] at hmem
      simp [hmem]
    | _ => exact h.elim)) s
  cases a with
  | reg o v => exact ⟨fun k hk => hs.reg_apply_reg_other v (fun heq => by simp [heq, show hubReg o = true from h] at hk), rfl, rfl, hrest⟩
  | port _ _ | out _ => exact ⟨fun _ _ => rfl, rfl, rfl, hrest⟩
  | hub f =>
    obtain ⟨harmed, hswap⟩ := h s.hub
    exact ⟨fun _ _ => rfl, harmed, hswap, hrest⟩
  | _ => exact h.elim

theorem holds_wake {α : Type} {m : M α} (h : Acts Act.ofWake m) : Holds Woken m := h.holds composes_woken (fun _ _ ha hs => ha.woken hs)

section
variable {n : Nat} (hn : n < 16)
include hn

theorem acts_portSent (frames bytes : Nat) : Acts Act.ofWake (portSent n frames bytes) := by
  refine acts_bind (acts_bump (fun _ => ?_) (fun _ => ?_)) (fun _ => acts_bind (acts_bump (fun _ => ?_) (fun _ => ?_)) (fun _ => acts_bind (acts_act (fun _ => ⟨rfl, rfl⟩)) (fun _ => acts_act trivial)))
  all_goals
    rw [Act.ofWake, Reg.MAC_COUNT_LO, hubReg_iff]
    omega

theorem acts_portOut (len : Nat) (o : Out) : Acts Act.ofWake (portOut n len o) := by
  refine acts_bind (acts_look _) (fun t => acts_bind (acts_portSent hn _ _) (fun _ => acts_bind (acts_act trivial) (fun _ => ?_)))
  cases o with
  | frame _ _ => exact acts_act trivial
  | pdelayResp _ _ _ => exact acts_bind (acts_portSent hn _ _) (fun _ => acts_act trivial)
  | _ => exact acts_pure _

omit hn in
theorem acts_nrtSync : Acts Act.ofWake nrtSync :=
  acts_bind (acts_look _) (fun _ => acts_bind (acts_look _) (fun _ => acts_bind (acts_setFld (fun _ => show hubReg Reg.NRT_STATUS = true by decide)) (fun _ =>
    acts_setFld (fun _ => show hubReg Reg.NRT_STATUS = true by decide))))

theorem acts_portRelease : Acts Act.ofWake (portRelease n) := by
  refine acts_bind (acts_look _) (fun hold => acts_bind (acts_look _) (fun p => acts_when (fun _ => acts_bind (acts_act trivial) (fun _ =>
    acts_bind (acts_for _ (fun x _ => acts_portOut hn _ _)) (fun _ => acts_when (fun _ => acts_nrtSync))))))

end

theorem acts_stayAwake : Acts Act.ofWake stayAwake := by
  refine acts_bind (acts_look _) (fun _ => acts_when (fun _ => acts_bind (acts_forIn _ _ (fun n hn _ => ?_)) (fun _ => acts_pure _)))
  have hn := List.mem_range.mp hn
  refine acts_bind (acts_getFld _) (fun _ => acts_ite (fun _ => ?_) (fun _ => acts_pure _))
  refine acts_bind (acts_setFld (fun _ => ?_)) (fun _ => acts_bind (acts_portRelease (by omega)) (fun _ => acts_pure _))
  show hubReg (Reg.MAC_STATUS n) = true
  rw [Reg.MAC_STATUS, hubReg_iff]
  omega

/-! The module's arrival. -/

/-- What the hub does leaves the tiles, their registers and memory. -/
structure Spares (s t : State) : Prop where
  inv : t.Inv
  reg : ∀ o, hubReg o = false → t.reg o = s.reg o
  tile : ∀ k, t.tile k = s.tile k
  mem : t.mem = s.mem

theorem Spares.trans {s t u : State} (h : Spares s t) (g : Spares t u) : Spares s u :=
  ⟨g.inv, fun o ho => (g.reg o ho).trans (h.reg o ho), fun k => (g.tile k).trans (h.tile k), g.mem.trans h.mem⟩

theorem Spares.refl {s : State} (hs : s.Inv) : Spares s s := ⟨hs, fun _ _ => rfl, fun _ => rfl, rfl⟩

theorem tile_congr {s t : State} (h : StatePart.tiles.stands s t) (k : Nat) : t.tile k = s.tile k := by
  have htiles : t.tiles = s.tiles := h
  rw [State.tile, State.tile, htiles]

theorem Woken.spares {s t : State} (h : Woken s t) (ht : t.Inv) : Spares s t := ⟨ht, h.reg, tile_congr (h.rest .tiles (by decide)), (h.rest .memory (by decide)).1⟩

theorem Posted.spares {l : List Nat} {s t : State} (h : Posted l s t) : Spares s t :=
  ⟨h.inv, fun o ho => h.reg o (msgReg_of_not_hubReg ho), tile_congr (h.rest .tiles (by decide)), (h.rest .memory (by decide)).1⟩

theorem sentMsg_from {s t u : State} {dest type slate : Nat} {arg : List Byte} (h : sentMsg t u dest type slate arg) (hnrt : t.nrt = s.nrt) (hreg : t.reg Reg.COLL_STATUS = s.reg Reg.COLL_STATUS)
    (hjob : t.job = s.job) (hseq : seqTo t dest = seqTo s dest) : sentMsg s u dest type slate arg := by
  have hflow : t.flow (4032 + dest) = s.flow (4032 + dest) := by rw [State.flow, State.flow, hnrt]
  have hme : t.me = s.me := by rw [State.me, State.me, hjob]
  have hepoch : t.fld Fl.COLL_STATUS_EPOCH = s.fld Fl.COLL_STATUS_EPOCH := State.fld_congr hreg
  intro hon
  rw [← hflow] at hon
  obtain ⟨x, hx, hsent, hop, hpay⟩ := h hon
  exact ⟨x, hx, hsent, hop, by rw [hpay, hepoch, hme, hseq]⟩

/-- The generation at which a channel stands. -/
def State.gen (s : State) (c : Nat) : Nat := ((s.coll.gens.find? (fun e => decide (e.1 = c))).map (·.2)).getD 0

section
variable {s : State} (hs : s.Inv) (c : Nat) (hother : s.isManager = false)
include hs hother

theorem post_hubArrive : Post (hubArrive c) s (fun _ t => Spares s t ∧
    ((∀ k ∈ s.crossTiles c, (s.tile k).arrivals.contains (16 + c) = true) → (∀ k ∈ s.crossTiles c, k ∉ s.hub.swapping) → s.coll.arrived.contains (c, s.gen c) = false →
      t.coll.arrived = s.coll.arrived ++ [(c, s.gen c)] ∧ sentMsg s t s.coll.manager 7 0 (leBytes 4 c ++ leBytes 4 (s.gen c))) ∧
    ((∃ k ∈ s.crossTiles c, k ∈ s.hub.swapping) → t = s)) := by
  refine post_bind (post_look (post_bind (post_look (post_bind (post_look (post_bind (post_look (post_bind (post_look ?_)))))))))
  refine post_ite (fun hgo => ?_) (fun hno => ?_)
  · obtain ⟨-, harmed, -⟩ := hgo
    refine post_bind (post_act (post_bind ((acts_pmuHub onHubCounters_ofCount _).mono (fun _ t r => post_bind (post_look (post_bind (post_look ?_)))))))
    have hs1 := Act.apply_inv (.coll (fun x => { x with arrived := x.arrived ++ [(c, s.gen c)] })) s hs
    have hraise := r.mono (Q := Act.ofRaise) (fun a ha => by
      cases a with
      | reg _ _ => exact ha
      | _ => exact ha.elim)
    have hreg : ∀ o, hubReg o = false → t.reg o = s.reg o := fun o ho => hraise.raise_reg hs1 (quiet_of_not_hubReg ho)
    have hstands := fun p hp => hraise.raise_stands p hp
    have hjob : t.job = s.job := hstands .job (by decide)
    have hcoll : t.coll = _ := hstands .coll (by decide)
    have hme : t.me = s.me := by rw [State.me, State.me, hjob]
    have hmgr : t.coll.manager = s.coll.manager := by rw [hcoll]; rfl
    have hne : s.coll.manager ≠ s.me := by simpa [State.isManager] using hother
    rw [if_neg (by rw [hmgr, hme]; exact hne), hmgr]
    have ht := hraise.inv hs1
    refine (post_sendMsg ht _ _ _ _).mono (fun _ u ⟨hpost, hmsg⟩ => ⟨?_, fun _ _ _ => ⟨?_, ?_⟩, fun ⟨k, hk, hswap⟩ => ?_⟩)
    · exact Spares.trans ⟨ht, hreg, tile_congr (s := s) (hstands .tiles (by decide)), (hstands .memory (by decide)).1⟩ hpost.spares
    · have harrived : u.coll.arrived = t.coll.arrived := (congrArg Coll.arrived hpost.coll :)
      rw [harrived, hcoll]
      rfl
    · exact sentMsg_from hmsg (hstands .nrt (by decide)) (hreg _ (by decide)) hjob (by rw [seqTo, hcoll]; rfl)
    · have hfree : ∀ x ∈ s.crossTiles c, x ∉ s.hub.swapping := by simpa using harmed
      exact absurd hswap (hfree k hk)
  · refine post_pure ⟨.refl hs, fun hall hfree hnew => absurd ⟨?_, ?_, ?_⟩ hno, fun _ => rfl⟩
    · exact List.all_eq_true.mpr hall
    · rw [Bool.not_eq_true', List.any_eq_false]
      exact fun k hk => by simpa using hfree k hk
    · rw [Bool.not_eq_true']
      exact hnew

end

/-! CLAPX. -/

theorem swapBusy_covered : Fl.RAS_STATUS_SWAP_BUSY.covered = true := by decide +kernel

/-- The marks of the swaps follow the hub's. -/
theorem post_swapSync {s : State} (hs : s.Inv) (hbusy : s.hub.swapping.isEmpty = false) : Post swapSync s (fun _ t => Woken s t ∧ t.Inv ∧ t.coll = s.coll ∧ t.hub = s.hub ∧
    t.fld Fl.RAS_STATUS_SWAP_BUSY = 1) := by
  have hwake : ∀ (s : State), s.Inv → ∀ w, Woken s ((Act.reg Reg.RAS_STATUS w).apply s) := fun s hs w => Act.ofWake.woken (a := .reg _ w) (show hubReg Reg.RAS_STATUS = true by decide) hs
  refine post_bind (post_look (post_bind ((does_setFld _ _ s).post ?_)))
  have h1 := hwake s hs (Fl.RAS_STATUS_SWAP_ARMED.put (s.reg Reg.RAS_STATUS) (if s.hub.swapArmed.isEmpty then 0 else 1))
  have hs1 := Act.apply_inv (.reg Reg.RAS_STATUS (Fl.RAS_STATUS_SWAP_ARMED.put (s.reg Reg.RAS_STATUS) (if s.hub.swapArmed.isEmpty then 0 else 1))) s hs
  refine (does_setFld _ _ _).post ⟨composes_woken.trans h1 (hwake _ hs1 _), Act.apply_inv _ _ hs1, rfl, rfl, ?_⟩
  rw [hbusy]
  exact hs1.fld_setFld swapBusy_covered 1

section
variable {n : Nat} (hn : n < 180) {s : State} (hs : s.Inv)
include hn hs

/-- A Clapper across modules inside a Take, or one without this tile. -/
theorem clapx_faults {w : Nat} (hat : atUop s n 6 5 w) (hbad : (s.tile n).take.isSome = true ∨ (s.crossTiles (bitsOf w 2 0)).contains n = false) :
    Completes (.clapx n) s (hasFaulted s · n) := by
  refine Post.completes (m := withUop n 6 5 _) (post_withUop hat (post_bind (m := look _) (post_look (post_bind (post_getTile ?_))))) rfl
  rw [if_pos (hbad.imp id (fun h => by rw [h]; rfl))]
  exact post_programFault hn hs

omit hs in
/-- The tile waits, its arrival noted, whatever the hub then does. -/
theorem clapx_waited {c : Nat} {t1 t : State} (h1 : WaitedThen n (fun x => { x with wait := .clapx (16 + c) }) s t1) (h : Spares (t1.arrive n (16 + c)) t) :
    (t.tile n).wait = .clapx (16 + c) ∧ (t.tile n).arrivals = (s.tile n).arrivals ++ [16 + c] ∧ hasWaited s t n := by
  have h2 := h1.later (moved_tile (n := n) h1.moved.inv (fun x => { x with arrivals := x.arrivals ++ [16 + c] })) (plain_of_core (fun _ => rfl))
  obtain ⟨hpc, hst, hwaited, hcount, hmem, hothers⟩ := h2.hasWaited (fun _ => rfl)
  have hreg : ∀ o, 0x10000000 ≤ o → t.reg o = _ := fun o ho => h.reg o (hubReg_tile ho)
  refine ⟨?_, ?_, (State.fld_congr (hreg _ ?_)).trans hpc, (State.fld_congr (hreg _ ?_)).trans hst, ?_, ?_, h.mem.trans hmem, fun k hk => (h.tile k).trans (hothers k hk)⟩
  · rw [h.tile]
    exact (congrArg Tile.wait h2.moved.core :)
  · rw [h.tile]
    exact (congrArg Tile.arrivals h2.moved.core :)
  · simp [Fl.TILE_SEQ_PC_PC, Reg.TILE_SEQ_PC]
    omega
  · simp [Fl.TILE_SEQ_STATUS_STATE, Reg.TILE_SEQ_STATUS]
    omega
  · rw [h.tile]
    exact hwaited
  · refine (State.reg64_congr (hreg _ ?_) (hreg _ ?_)).trans hcount
    · rw [Reg.TILE_SEQ_WAIT_LO]
      omega
    · rw [Reg.TILE_SEQ_WAIT_LO]
      omega

theorem clapx_arrives {w c : Nat} (hc : c = bitsOf w 2 0) (hat : atUop s n 6 5 w) (htake : (s.tile n).take = none) (hin : (s.crossTiles c).contains n = true)
    (hfree : (s.tile n).arrivals.contains (16 + c) = false) (hother : s.isManager = false) : Completes (.clapx n) s (fun t =>
      (t.tile n).wait = .clapx (16 + c) ∧ (t.tile n).arrivals = (s.tile n).arrivals ++ [16 + c] ∧ hasWaited s t n ∧
      ((∀ k ∈ s.crossTiles c, k ≠ n → (s.tile k).arrivals.contains (16 + c) = true) → n ∉ s.hub.swapArmed → (∀ k ∈ s.crossTiles c, k ∉ s.hub.swapping) →
        s.coll.arrived.contains (c, s.gen c) = false →
        t.coll.arrived = s.coll.arrived ++ [(c, s.gen c)] ∧ sentMsg s t s.coll.manager 7 0 (leBytes 4 c ++ leBytes 4 (s.gen c))) ∧
      (n ∈ s.hub.swapArmed → n ∈ t.hub.swapping ∧ t.fld Fl.RAS_STATUS_SWAP_BUSY = 1 ∧ t.coll.arrived = s.coll.arrived)) := by
  subst hc
  refine Post.completes (m := withUop n 6 5 _) (post_withUop hat (post_bind (m := look _) (post_look (post_bind (post_getTile ?_))))) rfl
  rw [if_neg (by rw [htake, hin]; simp), if_neg (by rw [hfree]; decide)]
  generalize bitsOf w 2 0 = c at hin hfree
  refine post_bind ((post_clapWaitAt hn hs _ _).mono (fun _ t1 h1 => post_bind (post_modTile_arrive (post_bind ?_))))
  have hs2 : (t1.arrive n (16 + c)).Inv := Act.apply_inv _ t1 h1.moved.inv
  refine (holds_wake acts_stayAwake _ hs2).mono (fun _ t3 ⟨ht3, h3⟩ => post_bind (post_look ?_))
  have hcoll1 : t1.coll = s.coll := h1.moved.rest .coll (by decide)
  have hhub1 : t1.hub = s.hub := h1.moved.rest .hub (by decide)
  have hjob1 : t1.job = s.job := h1.moved.rest .job (by decide)
  have hnrt1 : t1.nrt = s.nrt := h1.moved.rest .nrt (by decide)
  have hcoll3 : t3.coll = s.coll := (show t3.coll = t1.coll from h3.rest .coll (by decide)).trans hcoll1
  have hjob3 : t3.job = s.job := (show t3.job = t1.job from h3.rest .job (by decide)).trans hjob1
  have hnrt3 : t3.nrt = s.nrt := (show t3.nrt = t1.nrt from h3.rest .nrt (by decide)).trans hnrt1
  have harmed3 : t3.hub.swapArmed = s.hub.swapArmed := h3.armed.trans (congrArg Hub.swapArmed hhub1)
  have hswap3 : t3.hub.swapping = s.hub.swapping := h3.swapping.trans (congrArg Hub.swapping hhub1)
  have hcross : ∀ {t : State}, t.job = s.job → t.crossTiles c = s.crossTiles c := fun h => by rw [State.crossTiles, State.crossTiles, h]
  have hmgr : ∀ {t : State}, t.job = s.job → t.coll = s.coll → t.isManager = false := fun h g => by rw [← hother, State.isManager, State.isManager, State.me, State.me, h, g]
  have hsp3 := h3.spares ht3
  refine post_ite (fun harmed => ?_) (fun hunarmed => ?_)
  · have harmed : n ∈ s.hub.swapArmed := by
      rw [← harmed3]
      simpa using harmed
    refine post_bind (post_act (post_bind ?_))
    have hs4 := Act.apply_inv (.hub (fun h => { h with swapping := h.swapping.filter (fun x => decide (x ≠ n)) ++ [n] })) t3 ht3
    refine (post_swapSync hs4 (show (List.isEmpty (_ ++ [n])) = false by simp)).mono ?_
    rintro _ t5 ⟨hw, ht5, hcoll5, hhub5, hbusy⟩
    have hjob5 : t5.job = s.job := (hw.rest .job (by decide) : t5.job = t3.job).trans hjob3
    have hcoll5 : t5.coll = s.coll := hcoll5.trans hcoll3
    have hswap5 : n ∈ t5.hub.swapping := by
      rw [hhub5]
      exact List.mem_append_right _ (List.mem_singleton_self n)
    have hsp5 : Spares (t1.arrive n (16 + c)) t5 := hsp3.trans (Spares.trans (t := _) ⟨hs4, fun _ _ => rfl, fun _ => rfl, rfl⟩ (hw.spares ht5))
    refine (post_hubArrive ht5 c (hmgr hjob5 hcoll5)).mono (fun _ t ⟨_, _, hstays⟩ => ?_)
    obtain rfl : t = t5 := hstays ⟨n, by rw [hcross hjob5]; exact List.contains_iff_mem.mp hin, hswap5⟩
    obtain ⟨hwt, harr, hwaited⟩ := clapx_waited hn h1 hsp5
    exact ⟨hwt, harr, hwaited, fun _ hnot => absurd harmed hnot, fun _ => ⟨hswap5, hbusy, congrArg Coll.arrived hcoll5⟩⟩
  · have hunarmed : n ∉ s.hub.swapArmed := by
      rw [← harmed3]
      simpa using hunarmed
    refine (post_hubArrive ht3 c (hmgr hjob3 hcoll3)).mono (fun _ t ⟨hsp, hsend, _⟩ => ?_)
    obtain ⟨hwt, harr, hwaited⟩ := clapx_waited hn h1 (hsp3.trans hsp)
    refine ⟨hwt, harr, hwaited, fun hall _ hclear hnew => ?_, fun h => absurd h hunarmed⟩
    have hgen : t3.gen c = s.gen c := by rw [State.gen, State.gen, hcoll3]
    rw [hcross hjob3, hswap3, hcoll3, hgen] at hsend
    have hall3 : ∀ k ∈ s.crossTiles c, (t3.tile k).arrivals.contains (16 + c) = true := fun k hk => by
      rw [hsp3.tile, State.arrive, State.tile_apply_tile h1.moved.inv]
      by_cases hkn : k = n
      · simp [hkn]
      · rw [if_neg hkn, h1.moved.others k hkn]
        exact hall k hk hkn
    obtain ⟨harrived, hmsg⟩ := hsend hall3 hclear hnew
    refine ⟨harrived, sentMsg_from hmsg hnrt3 ?_ hjob3 (by rw [seqTo, hcoll3]; rfl)⟩
    have hoff : Reg.COLL_STATUS < 0x10000000 := by decide
    exact (h3.reg _ (by decide)).trans (h1.moved.low (fun _ => waitRegs_tile) hoff)

end

end Sys2Proof.Machine
end

section
/-! The abort of a failed Take (R255, R296). -/

namespace Sys2Proof.Machine

open Sys2Proof

/-- The parts that the abort of a tile changes. -/
def abortParts : List StatePart := [.registers, .tiles, .pwr, .memory, .reel]

theorem undef_forTile {s t : State} (r : Ran Act.ofUndef s t) (p : Nat) : ForTile p abortParts s t := by
  have hregs : t.regs = s.regs := r.undef_stands .registers (by decide)
  exact ⟨fun o _ _ => by rw [State.reg, State.reg, hregs], fun k _ => tile_congr (r.undef_stands .tiles (by decide)) k, fun q hq => r.undef_stands q (fun h => hq (by simp [abortParts, h]))⟩

theorem acts_undefTile (n off len : Nat) : Acts Act.ofUndef (undefTile n off len) := acts_bind (acts_look _) (fun _ => acts_undefDev _ _)

theorem acts_undefStopped (n : Nat) : Acts Act.ofUndef (undefStopped n) := by
  refine acts_bind (acts_getTile _) (fun t => acts_bind (acts_forIn _ _ (fun r _ _ => acts_bind (acts_for _ (fun sp _ => acts_undefTile _ _ _)) (fun _ => acts_pure _))) (fun _ =>
    acts_bind (acts_forIn _ _ (fun r _ _ => acts_bind (acts_for _ (fun sp _ => acts_undefTile _ _ _)) (fun _ => acts_pure _))) (fun _ => ?_)))
  cases t.moveQ with
  | nil => exact acts_pure _
  | cons m _ =>
    exact acts_when (fun _ => acts_bind (acts_look _) (fun ls => acts_bind (acts_look _) (fun scales => acts_bind (acts_for _ (fun l _ => acts_undefDev _ _)) (fun _ =>
      acts_bind (acts_for _ (fun x _ => acts_undefDev _ _)) (fun _ => acts_pure _)))))

theorem acts_abortSamples (n : Nat) : Acts (Act.book n) (abortSamples n) := by
  have hend : Acts (Act.book n) (modTile n (fun t => { t with samples := [] })) := acts_modTile_book (fun _ => rfl)
  refine acts_bind (acts_getTile _) (fun t => acts_ite (fun _ => acts_bind (acts_bump (fun _ => ?_) (fun _ => ?_)) (fun _ => hend)) (fun _ => acts_bind (acts_for _ (fun x _ =>
    acts_bind (acts_freeValue trivial) (fun _ => acts_sampleFinish _ _ _ _))) (fun _ => hend)))
  all_goals
    rw [Act.book, bookReg_iff, Reg.TILE_SMP_LOST_LO]
    omega

/-- A tile as its abort leaves it. -/
def Tile.aborted (x : Tile) : Tile :=
  { x.stopAll with
    wait := .none, cueReached := false, health := []
    arrivals := (match x.take, x.wait with
      | some r, _ => r.arrivals
      | none, .clap c => x.arrivals.filter (fun k => decide (k ≠ c))
      | none, _ => x.arrivals) }

/-- What the abort of tile n has done. -/
structure Aborted (n : Nat) (s t : State) : Prop where
  inv : t.Inv
  forTile : ForTile n abortParts s t
  xfers : ∀ y ∈ t.reel.xfers, y ∈ s.reel.xfers ∧ y.tile ≠ n
  tile : (t.tile n).core = (s.tile n).aborted.core
  state : n < 180 → s.issues n = true ∨ (s.tile n).take.isSome = true → t.fld (Fl.TILE_SEQ_STATUS_STATE n) = seqAborting

/-- The registers of a tile that its abort writes. -/
def abortRegs (n : Nat) : List Nat := [Reg.TILE_ARR_STATUS n, Reg.TILE_CHN_STATUS n, Reg.TILE_DSP_STATUS n, Reg.TILE_SEQ_STATUS n]

theorem post_setFld_free (n : Nat) {s : State} (hs : s.Inv) (f : Fld) (v : Nat) : Post (setFld f v) s (fun _ t => Moved n [f.off] id s t) := (does_setFld f v s).post (moved_reg hs _ _)

theorem plain_aborted : Plain Tile.aborted := plain_of_core (fun _ => rfl)

/-- The marks of the Reel's transfers alone have changed. -/
structure ReelMarked (s t : State) : Prop where
  inv : t.Inv
  reg : ∀ o, o ≠ Reg.REEL_STATUS → t.reg o = s.reg o
  rest : ∀ p, p ≠ StatePart.registers → p.stands s t

theorem ReelMarked.forTile {s t : State} (h : ReelMarked s t) (n : Nat) {parts : List StatePart} (hparts : StatePart.registers ∈ parts) : ForTile n parts s t :=
  ⟨fun o _ ho => h.reg o (fun heq => by simp [heq, show hubReg Reg.REEL_STATUS = true by decide] at ho), fun k _ => tile_congr (h.rest .tiles (by decide)) k,
    fun q hq => h.rest q (fun heq => hq (heq ▸ hparts))⟩

theorem reelMarked_reg {s : State} (hs : s.Inv) (v : W32) : ReelMarked s ((Act.reg Reg.REEL_STATUS v).apply s) :=
  ⟨Act.apply_inv _ s hs, fun _ ho => hs.reg_apply_reg_other v ho, fun p hp => Act.apply_stands (by simpa [Act.kind, ActKind.changes] using hp) s⟩

theorem post_reelSync {s : State} (hs : s.Inv) : Post reelSync s (fun _ t => ReelMarked s t) := by
  refine post_bind (post_look (post_bind ((does_setFld _ _ s).post ((does_setFld _ _ _).post ?_))))
  have h1 := reelMarked_reg hs (Fl.REEL_STATUS_BUSY.put (s.reg Reg.REEL_STATUS) (if min s.reel.priority.length s.inflightMax = 0 then 0 else 1))
  have h2 := reelMarked_reg h1.inv (Fl.REEL_STATUS_INFLIGHT.put (((Act.reg Reg.REEL_STATUS (Fl.REEL_STATUS_BUSY.put (s.reg Reg.REEL_STATUS)
    (if min s.reel.priority.length s.inflightMax = 0 then 0 else 1))).apply s).reg Reg.REEL_STATUS) (min s.reel.priority.length s.inflightMax))
  exact ⟨h2.inv, fun o ho => (h2.reg o ho).trans (h1.reg o ho), fun p hp => StatePart.stands_trans (h1.rest p hp) (h2.rest p hp)⟩

theorem reel_forTile {s : State} (hs : s.Inv) (f : Reel → Reel) (n : Nat) : ForTile n abortParts s ((Act.reel f).apply s) :=
  Act.forTile.holds ⟨by simp [Act.kind, ActKind.changes, abortParts], trivial⟩ hs

/-- The Reel's part of an abort. -/
theorem post_abandonTile {n : Nat} {s : State} (hs : s.Inv) : Post (abandonTile n) s (fun _ t => t.Inv ∧ ForTile n abortParts s t ∧ (∀ o, 0x10000000 ≤ o → t.reg o = s.reg o) ∧
    t.tiles = s.tiles ∧ ∀ y ∈ t.reel.xfers, y ∈ s.reel.xfers ∧ y.tile ≠ n) := by
  refine post_bind (post_look (post_bind ((acts_for _ (fun x _ => acts_abandonXfer x) s).mono (fun _ t1 r => post_bind (post_act ?_)))))
  have hs1 := r.inv hs
  have hreg1 : t1.regs = s.regs := r.undef_stands .registers (by decide)
  have hreel1 : t1.reel = s.reel := r.undef_stands .reel (by decide)
  have hfilter := reel_forTile hs1 (fun r => { r with xfers := r.xfers.filter (fun x => decide (x.tile ≠ n)) }) n
  refine (post_reelSync (Act.apply_inv _ t1 hs1)).mono (fun _ t h => ⟨h.inv, ?_, fun o ho => ?_, ?_, fun y hy => ?_⟩)
  · have o := composes_forTile n abortParts
    exact o.trans (undef_forTile r n) (o.trans hfilter (h.forTile n (by decide)))
  · refine (h.reg o ?_).trans (congrArg (fun l => Store.get regReset l o) hreg1)
    rw [Reg.REEL_STATUS]
    omega
  · exact (show t.tiles = t1.tiles from h.rest .tiles (by decide)).trans (r.undef_stands .tiles (by decide))
  · rw [show t.reel = _ from h.rest .reel (by decide)] at hy
    have hy : y ∈ t1.reel.xfers.filter (fun x => decide (x.tile ≠ n)) := hy
    rw [List.mem_filter, hreel1] at hy
    exact ⟨hy.1, of_decide_eq_true hy.2⟩

theorem abortRegs_page {n o : Nat} (ho : o ∈ abortRegs n) : tilePage n o = true := by
  simp only [abortRegs, List.mem_cons, List.not_mem_nil, or_false, Reg.TILE_ARR_STATUS, Reg.TILE_CHN_STATUS, Reg.TILE_DSP_STATUS, Reg.TILE_SEQ_STATUS] at ho
  rw [tilePage_iff]
  omega

theorem ForTile.mono {p : Nat} {parts more : List StatePart} {s t : State} (h : ForTile p parts s t) (hsub : parts ⊆ more) : ForTile p more s t :=
  ⟨h.reg, h.others, fun q hq => h.rest q (fun hm => hq (hsub hm))⟩

/-- The end of a tile's abort: its samples, and its transfers. -/
theorem post_abortEnd {n : Nat} {c : Bool} {s t : State} (ht : t.Inv) (hfor : ForTile n abortParts s t) (hreel : t.reel = s.reel) (htile : (t.tile n).core = (s.tile n).aborted.core)
    (hstate : n < 180 → s.issues n = true ∨ (s.tile n).take.isSome = true → t.fld (Fl.TILE_SEQ_STATUS_STATE n) = seqAborting) :
    Post (abortSamples n >>= fun _ => if c = true then reelTakeBegin n >>= fun _ => abandonTile n else abandonTile n) t (fun _ u => Aborted n s u) := by
  refine post_booked ht (acts_abortSamples n) (fun _ t1 h1 => ?_)
  have o := composes_forTile n abortParts
  have hend : ∀ {t2 : State}, t2.Inv → ForTile n abortParts t1 t2 → t2.regs = t1.regs → t2.tiles = t1.tiles → t2.reel.xfers = t1.reel.xfers → Post (abandonTile n) t2 (fun _ u => Aborted n s u) := by
    intro t2 ht2 hfor2 hregs2 htiles2 hxfers2
    refine (post_abandonTile ht2).mono (fun _ u ⟨hu, hforu, hregu, htilesu, hxfersu⟩ => ⟨hu, ?_, fun y hy => ?_, ?_, fun hn hgo => ?_⟩)
    · exact o.trans hfor (o.trans ((h1.forTile (by simp)).mono (by decide)) (o.trans hfor2 hforu))
    · have hreel1 : t1.reel = t.reel := h1.rest .reel (by decide)
      obtain ⟨hin, hne⟩ := hxfersu y hy
      rw [hxfers2, hreel1, hreel] at hin
      exact ⟨hin, hne⟩
    · rw [show u.tile n = t1.tile n by rw [State.tile, State.tile, htilesu, htiles2]]
      exact h1.core.trans htile
    · have hreg : u.reg (Reg.TILE_SEQ_STATUS n) = t1.reg (Reg.TILE_SEQ_STATUS n) := (hregu _ (by rw [Reg.TILE_SEQ_STATUS]; omega)).trans (by rw [State.reg, State.reg, hregs2])
      exact (State.fld_congr (f := Fl.TILE_SEQ_STATUS_STATE n) hreg).trans ((h1.state (by simp)).trans (hstate hn hgo))
  refine post_ite (fun _ => post_bind (post_act (hend (Act.apply_inv _ _ h1.inv) (reel_forTile h1.inv _ n) rfl rfl rfl))) (fun _ => hend h1.inv (o.refl t1) rfl rfl rfl)

theorem post_abortTile {n : Nat} {s : State} (hs : s.Inv) : Post (abortTile n) s (fun _ t => Aborted n s t) := by
  refine post_bind (post_getTile (post_bind ((acts_undefStopped n s).mono (fun _ t0 r => ?_))))
  have hs0 := r.inv hs
  have hregs0 : t0.regs = s.regs := r.undef_stands .registers (by decide)
  have htile0 : t0.tile n = s.tile n := tile_congr (r.undef_stands .tiles (by decide)) n
  have hissues0 : t0.issues n = s.issues n := by rw [State.issues, State.issues, State.fld, State.fld, State.fld, State.fld, State.reg, State.reg, State.reg, State.reg, hregs0]
  have hreel0 : t0.reel = s.reel := r.undef_stands .reel (by decide)
  refine post_booked hs0 (acts_toneStart n) (fun _ t1 h1 => post_bind ((post_modTile_moved n h1.inv Tile.aborted).mono (fun _ t2 h2 => ?_)))
  refine post_bind ((post_setFld_free n h2.inv _ _).mono (fun _ t3 h3 => post_bind ((post_setFld_free n h3.inv _ _).mono (fun _ t4 h4 =>
    post_bind ((post_setFld_free n h4.inv _ _).mono (fun _ t5 h5 => post_bind (post_look ?_)))))))
  have h := ((((h1.trans h2 plain_aborted).trans h3 plain_id).trans h4 plain_id).trans h5 plain_id).congr (g := Tile.aborted) (fun _ => rfl)
  have hW : ∀ o ∈ [(Fl.TILE_ARR_STATUS_BUSY n).off, (Fl.TILE_CHN_STATUS_BUSY n).off, (Fl.TILE_DSP_STATUS_BUSY n).off], o ∈ abortRegs n ∧ o ≠ Reg.TILE_SEQ_STATUS n ∧ o ≠ Reg.TILE_SEQ_CTRL n := by
    simp [abortRegs, Fl.TILE_ARR_STATUS_BUSY, Fl.TILE_CHN_STATUS_BUSY, Fl.TILE_DSP_STATUS_BUSY, Reg.TILE_ARR_STATUS, Reg.TILE_CHN_STATUS, Reg.TILE_DSP_STATUS, Reg.TILE_SEQ_STATUS, Reg.TILE_SEQ_CTRL]
  have hgo : t5.issues n = s.issues n := by
    have hst := h.state (fun hm => (hW _ hm).2.1 rfl)
    have hrun := h.fld (g := Fl.TILE_SEQ_CTRL_RUN n) (fun hm => (hW _ hm).2.2 rfl) (by rw [run_off]; omega)
    rw [← hissues0, State.issues, State.issues, hst, hrun]
  have o := composes_forTile n abortParts
  have hfor5 : ForTile n abortParts s t5 := o.trans (undef_forTile r n) ((h.forTile (fun o ho => abortRegs_page (hW o ho).1)).mono (by decide))
  have hreel5 : t5.reel = s.reel := (show t5.reel = t0.reel from h.rest .reel (by decide)).trans hreel0
  have hcore5 : (t5.tile n).core = (s.tile n).aborted.core := by rw [h.core, htile0]
  rw [hgo]
  refine post_ite (fun _ => post_bind ((does_setFld _ _ t5).post ?_)) (fun hno => post_abortEnd h5.inv hfor5 hreel5 hcore5 (fun _ hgo => absurd hgo hno))
  have h6 := moved_reg (n := n) h5.inv (Fl.TILE_SEQ_STATUS_STATE n).off ((Fl.TILE_SEQ_STATUS_STATE n).put (t5.reg (Fl.TILE_SEQ_STATUS_STATE n).off) seqAborting)
  refine post_abortEnd h6.inv (o.trans hfor5 ((h6.forTile ?_).mono (by decide))) hreel5 (h6.core.trans hcore5) (fun hn _ => h5.inv.fld_setFld (state_covered hn) _)
  intro o ho
  rw [List.mem_singleton.mp ho]
  exact tilePage_place (show 0x104 < 0x10000 by decide)

end Sys2Proof.Machine
end

section
/-! The Take controller: the abort of a group, and its restart (R252, R255, R296). -/

namespace Sys2Proof.Machine

open Sys2Proof

/-- Two claims of what a piece leaves hold of one state. -/
theorem Post.and {m : M Unit} {s : State} {Q R : Unit → State → Prop} (h : Post m s Q) (g : Post m s R) : Post m s (fun _ t => Q () t ∧ R () t) := by
  obtain ⟨_, t, hd, hq⟩ := h
  obtain ⟨_, u, he, hr⟩ := g
  obtain rfl : t = u := (hd (fun _ => .done)).symm.trans (he (fun _ => .done))
  exact ⟨(), t, hd, hq, hr⟩

theorem groupOf_nodup (s : State) (n : Nat) : (s.groupOf n).Nodup := by
  unfold State.groupOf
  split
  · exact List.nodup_singleton n
  · split
    · exact List.nodup_singleton n
    · exact ((List.nodup_zipIdx_map_snd _).sublist (List.filter_sublist.map _)).filter _

/-- An element of a list without repetitions is not among those before it. -/
theorem not_mem_before {γ : Type} {l pre rest : List γ} {x : γ} (h : l.Nodup) (hl : l = pre ++ x :: rest) : x ∉ pre := fun hm => by
  rw [hl] at h
  exact (List.disjoint_of_nodup_append h) hm List.mem_cons_self

/-- The registers and the contents of a tile are the same. -/
def SameTile (k : Nat) (s t : State) : Prop := (∀ o, tilePage k o = true → t.reg o = s.reg o) ∧ t.tile k = s.tile k

theorem SameTile.trans {k : Nat} {s t u : State} (h : SameTile k s t) (g : SameTile k t u) : SameTile k s u := ⟨fun o ho => (g.1 o ho).trans (h.1 o ho), g.2.trans h.2⟩

theorem ForTile.sameTile {p k : Nat} {parts : List StatePart} {s t : State} (h : ForTile p parts s t) (hk : k ≠ p) : SameTile k s t :=
  ⟨fun o ho => h.reg o (tilePage_other (Ne.symm hk) ho) (hubReg_tile (by rw [tilePage_iff] at ho; omega)), h.others k hk⟩

theorem SameTile.state {k : Nat} {s t : State} (h : SameTile k s t) : t.fld (Fl.TILE_SEQ_STATUS_STATE k) = s.fld (Fl.TILE_SEQ_STATUS_STATE k) :=
  State.fld_congr (h.1 _ (tilePage_place (show 0x104 < 0x10000 by decide)))

theorem SameTile.pc {k : Nat} {s t : State} (h : SameTile k s t) : t.pc k = s.pc k := State.fld_congr (h.1 _ (tilePage_place (show 0x108 < 0x10000 by decide)))

theorem SameTile.slate {k : Nat} {s t : State} (h : SameTile k s t) : t.slate k = s.slate k :=
  State.reg64_congr (h.1 _ (tilePage_place (show 0x10C < 0x10000 by decide))) (h.1 _ (tilePage_place (d := 0x110) (by decide)))

theorem SameTile.issues {k : Nat} {s t : State} (h : SameTile k s t) : t.issues k = s.issues k := by
  rw [State.issues, State.issues, h.state, State.fld_congr (f := Fl.TILE_SEQ_CTRL_RUN k) (h.1 _ (tilePage_place (show 0x100 < 0x10000 by decide)))]

theorem ec_congr {s t : State} {n c : Nat} (h : t.reg (Reg.TILE_SEQ_EC n (c / 2)) = s.reg (Reg.TILE_SEQ_EC n (c / 2))) : t.ec n c = s.ec n c := by rw [State.ec, State.ec, h]

theorem SameTile.ec {k c : Nat} {s t : State} (h : SameTile k s t) (hc : c < 16) : t.ec k c = s.ec k c := by
  refine ec_congr (h.1 _ ?_)
  rw [tilePage_iff, Reg.TILE_SEQ_EC]
  omega

/-! The abort of a group. -/

/-- What is claimed of a tile of a group whose Take has been aborted. -/
structure GroupAborted (k : Nat) (s t : State) : Prop where
  tile : (t.tile k).core = (s.tile k).aborted.core
  state : k < 180 → s.issues k = true ∨ (s.tile k).take.isSome = true → t.fld (Fl.TILE_SEQ_STATUS_STATE k) = seqAborting
  xfers : ∀ y ∈ t.reel.xfers, y.tile ≠ k

/-- Of a group's tiles those in a list are aborted, and the others stand. -/
structure Aborting (s : State) (done : List Nat) (t : State) : Prop where
  inv : t.Inv
  aborted : ∀ k ∈ done, GroupAborted k s t
  others : ∀ k, k ∉ done → SameTile k s t

theorem Aborting.next {s t u : State} {done : List Nat} (h : Aborting s done t) {n : Nat} (hn : n ∉ done) (g : Aborted n t u) : Aborting s (done ++ [n]) u where
  inv := g.inv
  aborted k hk := by
    rcases List.mem_append.mp hk with hk | hk
    · have hne : k ≠ n := fun heq => hn (heq ▸ hk)
      obtain ⟨htile, hstate, hxfers⟩ := h.aborted k hk
      have hsame := g.forTile.sameTile hne
      exact ⟨by rw [hsame.2, htile], fun hk hgo => hsame.state.trans (hstate hk hgo), fun y hy => hxfers y (g.xfers y hy).1⟩
    · obtain rfl := List.mem_singleton.mp hk
      have hsame := h.others k hn
      exact ⟨by rw [g.tile, hsame.2], fun hk hgo => g.state hk (by rwa [hsame.issues, hsame.2]), fun y hy => (g.xfers y hy).2⟩
  others k hk := by
    rw [List.mem_append, not_or, List.mem_singleton] at hk
    exact (h.others k hk.1).trans (g.forTile.sameTile hk.2)

/-- The Take controller aborts every tile of the group. -/
theorem takeAbort_aborts {n : Nat} {s : State} (hs : s.Inv) {f : TakeFail} (hfailed : (s.tile n).failed = some f) (hst : s.fld (Fl.TILE_SEQ_STATUS_STATE n) ≠ seqAborting)
    (hnot : slateTake f.slate ≠ 15) : Completes (.takeAbort n) s (fun t => ∀ k ∈ s.groupOf n, k < 180 →
        (s.issues k = true ∨ (s.tile k).take.isSome = true → t.fld (Fl.TILE_SEQ_STATUS_STATE k) = seqAborting) ∧ (t.tile k).arr = [] ∧ (t.tile k).chn = [] ∧ (t.tile k).drain = none ∧
        (t.tile k).arrayQ = [] ∧ (t.tile k).chainQ = [] ∧ (t.tile k).dispQ = [] ∧ (t.tile k).moveQ = [] ∧ (t.tile k).sendQ = [] ∧ (t.tile k).wait = .none ∧ (t.tile k).health = [] ∧
        (∀ r, (s.tile k).take = some r → (t.tile k).arrivals = r.arrivals) ∧
        (∀ c, (s.tile k).take = none → (s.tile k).wait = .clap c → c ∉ (t.tile k).arrivals) ∧
        (∀ y ∈ t.reel.xfers, y.tile ≠ k)) := by
  refine Post.completes (m := getTile n >>= _) (post_bind (post_getTile ?_)) rfl
  rw [hfailed]
  refine post_bind (post_getFld ?_)
  rw [if_neg hst, if_neg hnot]
  refine post_bind (post_look (post_bind ((post_for_split (Aborting s) (fun pre k rest hl t h =>
    (post_abortTile h.inv).mono (fun _ u g => h.next (not_mem_before (groupOf_nodup s n) hl) g)) ⟨hs, fun _ => (nomatch ·), fun _ _ => ⟨fun _ _ => rfl, rfl⟩⟩).mono (fun _ t h => post_pure ?_))))
  intro k hk hk180
  obtain ⟨htile, hstate, hxfers⟩ := h.aborted k hk
  have harr : (t.tile k).arrivals = (s.tile k).aborted.arrivals := (congrArg Tile.arrivals htile :)
  refine ⟨hstate hk180, (congrArg Tile.arr htile :), (congrArg Tile.chn htile :), (congrArg Tile.drain htile :), (congrArg Tile.arrayQ htile :), (congrArg Tile.chainQ htile :),
    (congrArg Tile.dispQ htile :), (congrArg Tile.moveQ htile :), (congrArg Tile.sendQ htile :), (congrArg Tile.wait htile :), (congrArg Tile.health htile :),
    fun r hr => ?_, fun c hnone hwait => ?_, hxfers⟩
  · rw [harr, Tile.aborted]
    simp only [hr]
  · rw [harr, Tile.aborted]
    simp [hnone, hwait]

end Sys2Proof.Machine
end

section
/-! The restart of a failed Take (R233, R252, R255, R296). -/

namespace Sys2Proof.Machine

open Sys2Proof

section
variable {n : Nat} (hn : n < 180) {s : State} (hs : s.Inv)
include hn hs

omit hs in
theorem implemented_ec {c : Nat} (hc : c < 16) (w : W32) : Implemented (Reg.TILE_SEQ_EC n (c / 2)) w :=
  seqWords_implemented hn (by simp only [seqWords, List.mem_append, List.mem_map, List.mem_range]; exact .inr ⟨c / 2, by omega, rfl⟩) w

/-- Of the sixteen event counters the one set has its new value. -/
theorem post_setEc {c : Nat} (hc : c < 16) (v : Nat) : Post (setEc n c v) s (fun _ t => Moved n [Reg.TILE_SEQ_EC n (c / 2)] id s t ∧
    ∀ d < 16, t.ec n d = if d = c then v % 65536 else s.ec n d) := by
  refine post_bind (post_getReg (post_act ⟨moved_reg hs _ _, fun d hd => ?_⟩))
  obtain ⟨w, hw⟩ : ∃ w, (s.reg (Reg.TILE_SEQ_EC n (c / 2))).toNat = w := ⟨_, rfl⟩
  have hlt : w < 2 ^ 32 := hw ▸ (s.reg (Reg.TILE_SEQ_EC n (c / 2))).isLt
  by_cases hsame : d / 2 = c / 2
  · rw [State.ec, State.ec, hsame, hs.reg_apply_reg_implemented (implemented_ec hn hc _), BitVec.toNat_ofNat, hw]
    split <;> split <;> split <;> omega
  · have hoff : Reg.TILE_SEQ_EC n (d / 2) ≠ Reg.TILE_SEQ_EC n (c / 2) := by
      rw [Reg.TILE_SEQ_EC, Reg.TILE_SEQ_EC]
      omega
    rw [ec_congr (hs.reg_apply_reg_other _ hoff), if_neg (fun h => hsame (by rw [h]))]

/-- A count added to an event counter saturates (R233). -/
theorem post_addEc {c : Nat} (hc : c < 16) (k slate : Nat) : Post (addEc n c k slate) s (fun _ t => t.Inv ∧ (t.tile n).core = (s.tile n).core ∧
    ∀ d < 16, t.ec n d = if d = c then min (s.ec n c + k) 65535 else s.ec n d) := by
  refine post_bind (post_look (post_ite (fun hover => post_bind ((post_setEc hn hs hc _).mono ?_)) (fun hfits => (post_setEc hn hs hc _).mono ?_)))
  · rintro _ t1 ⟨h1, hec⟩
    refine post_bind ((post_setMark hn h1.inv (by simp) _).mono (fun _ t2 ⟨h2, _⟩ => (post_raise_raised h2.inv _ _ _ _).mono (fun _ t ⟨h3, _⟩ => ⟨h3.inv, ?_, fun d hd => ?_⟩)))
    · rw [h3.tile]
      exact h2.core.trans h1.core
    · have hreg : t.reg (Reg.TILE_SEQ_EC n (d / 2)) = t1.reg (Reg.TILE_SEQ_EC n (d / 2)) :=
        (h3.reg_tile (by rw [Reg.TILE_SEQ_EC]; omega)).trans (h2.reg _ (by simp [Reg.TILE_SEQ_EC, Reg.TILE_SEQ_STATUS]; omega) (bookReg_seq (by rw [Reg.TILE_SEQ_EC]; omega)))
      rw [ec_congr hreg, hec d hd, Nat.min_eq_right (Nat.le_of_lt hover)]
  · rintro _ t ⟨h1, hec⟩
    refine ⟨h1.inv, h1.core, fun d hd => ?_⟩
    rw [hec d hd, Nat.min_eq_left (Nat.le_of_not_lt hfits), Nat.mod_eq_of_lt (by omega)]

end

/-! The event counters of a Take's record. -/

/-- Of the event counters in a list a record's values are restored, and its RECV totals added back. -/
structure EcRestored (n : Nat) (r : TakeRec) (s : State) (done : List Nat) (t : State) : Prop where
  inv : t.Inv
  tile : (t.tile n).core = (s.tile n).core
  restored : ∀ c ∈ done, t.ec n (8 + c) = r.ec.getD c 0 % 65536 ∧ t.ec n c = min (s.ec n c + r.recv.getD c 0) 65535
  others : ∀ c < 8, c ∉ done → t.ec n c = s.ec n c

theorem post_restoreEc {n : Nat} (hn : n < 180) {s : State} (hs : s.Inv) (r : TakeRec) :
    Post (forIn (List.range 8) PUnit.unit (fun c _ => do (do setEc n (8 + c) (r.ec.getD c 0); addEc n c (r.recv.getD c 0) r.slate); pure (ForInStep.yield PUnit.unit))) s
      (fun _ t => EcRestored n r s (List.range 8) t) := by
  refine post_for_split (EcRestored n r s) (fun pre c rest hl t h => ?_) ⟨hs, rfl, fun _ => (nomatch ·), fun _ _ _ => rfl⟩
  have hnew : c ∉ pre := not_mem_before List.nodup_range hl
  have hbound : ∀ d ∈ pre ++ [c], d < 8 := fun d hd => List.mem_range.mp (by
    rw [hl, ← List.singleton_append, ← List.append_assoc]
    exact List.mem_append_left _ hd)
  have hc : c < 8 := hbound c (by simp)
  refine post_bind ((post_setEc hn h.inv (show 8 + c < 16 by omega) _).mono ?_)
  rintro _ t1 ⟨h1, hec1⟩
  refine (post_addEc hn h1.inv (show c < 16 by omega) _ _).mono ?_
  rintro _ u ⟨hu, htile, hec⟩
  refine ⟨hu, htile.trans (h1.core.trans h.tile), fun d hd => ?_, fun d hd hout => ?_⟩
  · have hd8 := hbound d hd
    rw [hec (8 + d) (by omega), hec1 (8 + d) (by omega), hec d (by omega), hec1 c (by omega), hec1 d (by omega), if_neg (show ¬8 + d = c by omega), if_neg (show ¬c = 8 + c by omega),
      if_neg (show ¬d = 8 + c by omega)]
    rcases List.mem_append.mp hd with hd | hd
    · have hne : d ≠ c := fun heq => hnew (heq ▸ hd)
      rw [if_neg (show ¬8 + d = 8 + c by omega), if_neg hne]
      exact h.restored d hd
    · obtain rfl := List.mem_singleton.mp hd
      rw [if_pos rfl, if_pos rfl, h.others d hc hnew]
      exact ⟨rfl, rfl⟩
  · rw [List.mem_append, not_or, List.mem_singleton] at hout
    rw [hec d (by omega), hec1 d (by omega), if_neg hout.2, if_neg (show ¬d = 8 + c by omega)]
    exact h.others d hd hout.1

end Sys2Proof.Machine
end

section
/-! A tile resumes its Take from the record (R252, R255), and its group with it. -/

namespace Sys2Proof.Machine

open Sys2Proof

/-- The parts that the restart of a tile changes. -/
def restoreParts : List StatePart := [.registers, .tiles, .pwr, .events, .reel]

theorem acts_raise_forTile {p : Nat} (e : Ev) (src : Nat × Nat) (detail slate : Nat) : Acts (Act.forTile p restoreParts) (raise e src detail slate) :=
  acts_raise (fun _ _ h => ⟨by simp [Act.kind, ActKind.changes, restoreParts], .inr (hubReg_iff.mpr (.inr (by have := pmonCounter_iff.mp h; omega)))⟩)
    (fun _ => ⟨by simp [Act.kind, ActKind.changes, restoreParts], trivial⟩)

theorem acts_reel_forTile {p : Nat} (f : Reel → Reel) : Acts (Act.forTile p restoreParts) (act (.reel f)) := acts_act ⟨by simp [Act.kind, ActKind.changes, restoreParts], trivial⟩

theorem acts_reelTakeResume (p : Nat) : Acts (Act.forTile p restoreParts) (reelTakeResume p) := by
  have hset : ∀ {f : Fld} {v : Nat}, f.off = Reg.REEL_STATUS → Acts (Act.forTile p restoreParts) (setFld f v) := fun hf =>
    acts_setFld (fun w => ⟨by simp [Act.kind, ActKind.changes, restoreParts], .inr (by rw [hf]; decide)⟩)
  exact acts_bind (acts_reel_forTile _) (fun _ => acts_bind (acts_look _) (fun _ => acts_bind (hset rfl) (fun _ => hset rfl)))

theorem acts_restoreTake (p take : Nat) : Acts (Act.forTile p restoreParts) (restoreTake p take) := by
  have hr : StatePart.registers ∈ restoreParts := by decide
  have hpage : ∀ {o d : Nat}, o = 0x10000000 + p * 0x10000 + d → d < 0x10000 → tilePage p o = true := by
    rintro _ d rfl hd
    exact tilePage_place hd
  have htone : Acts (Act.forTile p restoreParts) (toneEnd p) := acts_book_forTile (acts_toneEnd p) (by decide)
  have hmod : ∀ f, Acts (Act.forTile p restoreParts) (modTile p f) := fun f => acts_modTile_forTile p f (by decide)
  have hstate : ∀ v, Acts (Act.forTile p restoreParts) (setFld (Fl.TILE_SEQ_STATUS_STATE p) v) := fun v => acts_setFld_forTile (hpage (d := 0x104) rfl (by decide)) v hr
  have hec : ∀ c v, c < 16 → Acts (Act.forTile p restoreParts) (setEc p c v) := fun c v hc =>
    acts_bind (acts_getReg _) (fun _ => acts_setReg (Act.forTile_reg (hpage (d := 0x120 + c / 2 * 4) (by rw [Reg.TILE_SEQ_EC, Nat.add_assoc]) (by omega)) _ hr))
  refine acts_bind (acts_getTile _) (fun t => ?_)
  cases t.take with
  | none => exact acts_bind htone (fun _ => acts_bind (hmod _) (fun _ => acts_bind (hstate _) (fun _ => acts_reelTakeResume p)))
  | some r =>
    refine acts_bind (acts_forIn _ _ (fun c hc _ => ?_)) (fun _ => acts_bind (acts_bind (acts_setReg ?_) (fun _ => acts_setReg ?_)) (fun _ => acts_bind (acts_setFld_forTile ?_ _ hr) (fun _ =>
      acts_bind htone (fun _ => acts_bind (hmod _) (fun _ => acts_bind (hstate _) (fun _ => acts_reelTakeResume p))))))
    · have hc := List.mem_range.mp hc
      refine acts_bind (hec _ _ (by omega)) (fun _ => acts_bind (acts_bind (acts_look _) (fun _ => acts_ite (fun _ => acts_bind (hec _ _ (by omega)) (fun _ =>
        acts_bind (acts_setBit (fun w => Act.forTile_reg (hpage (d := 0x104) rfl (by decide)) w hr)) (fun _ => acts_raise_forTile _ _ _ _))) (fun _ => hec _ _ (by omega)))) (fun _ => acts_pure _))
    · exact Act.forTile_reg (hpage (d := 0x10C) rfl (by decide)) _ hr
    · exact Act.forTile_reg (hpage (d := 0x110) rfl (by decide)) _ hr
    · exact hpage (d := 0x108) rfl (by decide)

/-- What is claimed of a tile that resumes under a Take number. -/
def Restored (n take : Nat) (s t : State) : Prop :=
  ((s.tile n).take = none → t.pc n = s.pc n ∧ t.fld (Fl.TILE_SEQ_STATUS_STATE n) = seqIssuing ∧ (t.tile n).failed = none) ∧ ∀ r, (s.tile n).take = some r →
    t.pc n = r.pc % 8192 ∧ t.fld (Fl.TILE_SEQ_STATUS_STATE n) = seqIssuing ∧ (t.tile n).ix = r.ix ∧ (t.tile n).loops = r.loops ∧ (t.tile n).failed = none ∧ (t.tile n).health = [] ∧
    t.slate n = mkSlate (slateStep r.slate) (slateMb r.slate) take (slatePhase r.slate) (slateStage r.slate) ∧
    ∀ c < 8, t.ec n (8 + c) = r.ec.getD c 0 % 65536 ∧ t.ec n c = min (s.ec n c + r.recv.getD c 0) 65535

theorem Restored.before {n take : Nat} {s t u : State} (h : SameTile n s t) (g : Restored n take t u) : Restored n take s u := by
  unfold Restored at g ⊢
  rw [h.2, h.pc] at g
  refine ⟨g.1, fun r hr => ?_⟩
  obtain ⟨hpc, hst, hix, hloops, hfailed, hhealth, hslate, hec⟩ := g.2 r hr
  exact ⟨hpc, hst, hix, hloops, hfailed, hhealth, hslate, fun c hc => by rw [← h.ec (show c < 16 by omega)]; exact hec c hc⟩

theorem Restored.after {n take : Nat} {s t u : State} (g : Restored n take s t) (h : SameTile n t u) : Restored n take s u := by
  unfold Restored at g ⊢
  rw [h.2, h.pc, h.state, h.slate]
  refine ⟨g.1, fun r hr => ?_⟩
  obtain ⟨hpc, hst, hix, hloops, hfailed, hhealth, hslate, hec⟩ := g.2 r hr
  exact ⟨hpc, hst, hix, hloops, hfailed, hhealth, hslate, fun c hc => by rw [h.ec (show 8 + c < 16 by omega), h.ec (show c < 16 by omega)]; exact hec c hc⟩

/-- The Reel's part of a restart leaves the tiles and their registers. -/
theorem post_reelTakeResume {n : Nat} {s : State} (hs : s.Inv) : Post (reelTakeResume n) s (fun _ t => SameTile n s t) := by
  refine post_bind (post_act ((post_reelSync (Act.apply_inv _ s hs)).mono (fun _ t h => ⟨fun o ho => h.reg o ?_, tile_congr (h.rest .tiles (by decide)) n⟩)))
  rw [tilePage_iff] at ho
  rw [Reg.REEL_STATUS]
  omega

section
variable {n : Nat} (hn : n < 180) {s : State} (hs : s.Inv) (take : Nat)
include hn hs

theorem post_restoreTake_none (hnone : (s.tile n).take = none) : Post (restoreTake n take) s (fun _ t => Restored n take s t) := by
  refine post_bind (post_getTile ?_)
  rw [hnone]
  refine post_booked hs (acts_toneEnd n) (fun _ t1 h1 => post_bind ((post_modTile_moved n h1.inv _).mono (fun _ t2 h2 =>
    post_bind ((post_setFld_moved n h2.inv (state_covered hn) _).mono ?_))))
  rintro _ t3 ⟨h3, hst⟩
  have hplain : Plain (fun x : Tile => { x with failed := none }) := plain_of_core (fun _ => rfl)
  have h := (h1.trans h2 hplain).trans h3 plain_id
  refine (post_reelTakeResume h3.inv).mono (fun _ t h4 => ⟨fun _ => ⟨?_, h4.state.trans hst, ?_⟩, fun r hr => by simp [hnone] at hr⟩)
  · exact h4.pc.trans (h.pc (by simp [Fl.TILE_SEQ_STATUS_STATE, Reg.TILE_SEQ_STATUS, Reg.TILE_SEQ_PC]))
  · rw [h4.2]
    exact (congrArg Tile.failed h.core :)

theorem post_restoreTake_some {r : TakeRec} (hsome : (s.tile n).take = some r) : Post (restoreTake n take) s (fun _ t => Restored n take s t) := by
  refine post_bind (post_getTile ?_)
  rw [hsome]
  refine post_bind ((post_restoreEc hn hs r).mono (fun _ t0 h0 => post_bind ((post_setSlate hn h0.inv (mkSlate_lt _ _ _ _ _)).mono ?_)))
  rintro _ t1 ⟨h1, hslate⟩
  refine post_bind ((post_setFld_moved n h1.inv (pc_covered hn) _).mono ?_)
  rintro _ t2 ⟨h2, hpc⟩
  refine post_booked h2.inv (acts_toneEnd n) (fun _ t3 h3 => post_bind ((post_modTile_moved n h3.inv _).mono (fun _ t4 h4 =>
    post_bind ((post_setFld_moved n h4.inv (state_covered hn) _).mono ?_))))
  rintro _ t5 ⟨h5, hst⟩
  have hplain : Plain (fun x : Tile => { x with ix := r.ix, loops := r.loops, failed := none, health := [], take := some { r with recv := List.replicate 8 0 }, waited := 0 }) :=
    plain_of_core (fun _ => rfl)
  have hend := (h3.trans h4 hplain).trans h5 plain_id
  have hlast := h2.trans hend (plain_id.comp hplain)
  have hall := h1.trans hlast ((plain_id.comp hplain).comp plain_id)
  refine (post_reelTakeResume h5.inv).mono (fun _ t h6 => ⟨fun hnone => by simp [hsome] at hnone, fun r' hr' => ?_⟩)
  obtain rfl : r = r' := Option.some.inj (hsome.symm.trans hr')
  have hec : ∀ c < 16, t5.ec n c = t0.ec n c := fun c hc => ec_congr (hall.reg _ (by
    simp [Fl.TILE_SEQ_STATUS_STATE, Fl.TILE_SEQ_PC_PC, Reg.TILE_SEQ_STATUS, Reg.TILE_SEQ_PC, Reg.TILE_SEQ_EC, Reg.TILE_SEQ_SLATE_LO]
    omega) (bookReg_seq (by rw [Reg.TILE_SEQ_EC]; omega)))
  rw [h6.2]
  refine ⟨?_, h6.state.trans hst, (congrArg Tile.ix hend.core :), (congrArg Tile.loops hend.core :), (congrArg Tile.failed hend.core :), (congrArg Tile.health hend.core :), ?_, fun c hc => ?_⟩
  · exact h6.pc.trans ((hend.pc (by simp [Fl.TILE_SEQ_STATUS_STATE, Reg.TILE_SEQ_STATUS, Reg.TILE_SEQ_PC])).trans hpc)
  · refine h6.slate.trans ((hlast.slate ?_ ?_).trans hslate) <;>
      simp [Fl.TILE_SEQ_STATUS_STATE, Fl.TILE_SEQ_PC_PC, Reg.TILE_SEQ_STATUS, Reg.TILE_SEQ_PC, Reg.TILE_SEQ_SLATE_LO]
  · rw [h6.ec (show 8 + c < 16 by omega), h6.ec (show c < 16 by omega), hec _ (by omega), hec _ (by omega)]
    exact h0.restored c (List.mem_range.mpr hc)

theorem post_restoreTake : Post (restoreTake n take) s (fun _ t => Restored n take s t) := by
  cases htake : (s.tile n).take with
  | none => exact post_restoreTake_none hn hs take htake
  | some r => exact post_restoreTake_some hn hs take htake

end

/-! The group. -/

/-- Of a group's tiles those in a list that were aborted have resumed, and the others stand. -/
structure Resuming (take : Nat) (s : State) (done : List Nat) (t : State) : Prop where
  inv : t.Inv
  mem : t.mem = s.mem
  resumed : ∀ k ∈ done, k < 180 → s.fld (Fl.TILE_SEQ_STATUS_STATE k) = seqAborting → Restored k take s t
  others : ∀ k, k ∉ done → SameTile k s t

theorem Resuming.next {take : Nat} {s t u : State} {done : List Nat} (h : Resuming take s done t) {n : Nat} (hn : n ∉ done) (hu : u.Inv) (g : ForTile n restoreParts t u)
    (hres : n < 180 → t.fld (Fl.TILE_SEQ_STATUS_STATE n) = seqAborting → Restored n take t u) : Resuming take s (done ++ [n]) u where
  inv := hu
  mem := (g.rest .memory (by decide)).1.trans h.mem
  resumed k hk hk180 hst := by
    rcases List.mem_append.mp hk with hk | hk
    · exact (h.resumed k hk hk180 hst).after (g.sameTile (fun heq => hn (heq ▸ hk)))
    · obtain rfl := List.mem_singleton.mp hk
      have hsame := h.others k hn
      exact (hres hk180 (hsame.state.trans hst)).before hsame
  others k hk := by
    rw [List.mem_append, not_or, List.mem_singleton] at hk
    exact (h.others k hk.1).trans (g.sameTile hk.2)

/-- Once no swap is outstanding, the aborted tiles of the group resume under the next Take number. -/
theorem takeReplay_resumes {n : Nat} {s : State} (hs : s.Inv) {f : TakeFail} (hfailed : (s.tile n).failed = some f) (hst : s.fld (Fl.TILE_SEQ_STATUS_STATE n) = seqAborting)
    (hswap : ∀ k ∈ s.groupOf n, ∀ g, (s.tile k).failed = some g → g.swap = false) : Completes (.takeReplayResume n) s (fun t => t.mem = s.mem ∧
      ∀ k ∈ s.groupOf n, k < 180 → s.fld (Fl.TILE_SEQ_STATUS_STATE k) = seqAborting → Restored k (slateTake f.slate + 1) s t) := by
  refine Post.completes (m := getTile n >>= _) (post_bind (post_getTile ?_)) rfl
  rw [hfailed]
  refine post_bind (post_look (post_bind (post_look (post_bind (post_getFld ?_)))))
  have hnone : ((s.groupOf n).any fun k => (s.tile k).failed.any (·.swap)) = false := by
    rw [List.any_eq_false]
    intro k hk
    cases hf : (s.tile k).failed with
    | none => simp
    | some g => simp [hswap k hk g hf]
  rw [hnone, if_pos ⟨hst, rfl⟩]
  refine post_bind ((post_forIn_split (Resuming (slateTake f.slate + 1) s) (fun pre k rest hl t h => ?_)
    ⟨hs, rfl, fun _ => (nomatch ·), fun _ _ => ⟨fun _ _ => rfl, rfl⟩⟩).mono (fun _ t h => post_pure ⟨h.mem, h.resumed⟩))
  have hnew := not_mem_before (groupOf_nodup s n) hl
  refine post_bind (post_getFld (post_ite (fun _ => post_bind ?_) (fun hno => post_pure ⟨rfl, ?_⟩)))
  · have hframe : Post (restoreTake k (slateTake f.slate + 1)) t (fun _ u => u.Inv ∧ ForTile k restoreParts t u) :=
      (acts_restoreTake k _).holds (composes_forTile k restoreParts) (fun _ _ ha hs => ha.holds hs) t h.inv
    by_cases hk : k < 180
    · exact (hframe.and (post_restoreTake hk h.inv _)).mono (fun _ u ⟨⟨hu, hfor⟩, hres⟩ => post_pure ⟨rfl, h.next hnew hu hfor (fun _ _ => hres)⟩)
    · exact hframe.mono (fun _ u ⟨hu, hfor⟩ => post_pure ⟨rfl, h.next hnew hu hfor (fun hlt => absurd hlt hk)⟩)
  · exact h.next hnew h.inv ((composes_forTile k restoreParts).refl t) (fun _ hst => absurd hst hno)

end Sys2Proof.Machine
end

section
/-! The obligation on Takes and Clappers. -/

namespace Sys2Proof.Machine

open Sys2Proof

/-- Settles O60, clause by clause: an attempt to issue either is a fault, waits or goes on; the abort and the restart of a group run tile by tile over a list without repetitions, and each tile's
part leaves the other tiles. -/
theorem takesAndClappers : Obligations.TakesAndClappers := by
  unfold Obligations.TakesAndClappers
  intro s hs n hn
  refine ⟨fun w hat => ⟨takeBegin_open hn hs hat, takeBegin_opens hn hs hat⟩, fun w hat => ⟨takeEnd_closed hn hs hat, takeEnd_waits hn hs hat, takeEnd_closes hn hs hat⟩,
    fun f hfailed hst => ⟨takeAbort_last hs hfailed hst, takeAbort_aborts hs hfailed hst⟩, fun f hfailed hst hswap => takeReplay_resumes hs hfailed hst hswap,
    fun w c hc => ⟨?_, fun hin hfree hwait => ?_, fun hin harrived => ⟨arrive_holds hn hs hc hin harrived, clapWait_holds hn hs hc hin harrived⟩⟩,
    fun w hat => ⟨clapx_faults hn hs hat, fun htake hin hfree hother => clapx_arrives hn hs rfl hat htake hin hfree hother⟩, clapperTimeout_fails hn hs⟩
  · exact fun i hi hat hout => clapper_foreign hn hs hc hout i hi hat
  · exact ⟨clap_waits hn hs hc hin hfree hwait, clap_releases hn hs hc hin hfree hwait, arrive_goes hn hs hc hin hfree, arrive_releases hn hs hc hin hfree, clapWait_goes hn hs hc hin hfree⟩

end Sys2Proof.Machine
end

section
/-! SUPPORT. What the manager's acts and a restore leave of a state (R365 to R371): a relation that is kept by what they do beside their own part. -/

namespace Sys2Proof.Machine

open Sys2Proof

/-- What may change beside what always stands: of the collective engine a view stands, of COLL_STATUS some fields; the weight objects, the groups and the die's queue may or may not change. -/
structure Scope (κ : Type) where
  view : Coll → κ
  flds : List Fld
  status : ∀ f ∈ flds, f.off = Reg.COLL_STATUS
  objects : Bool
  groups : Bool
  queue : Bool

/-- The TILE_SEQ_CTRL registers. -/
def seqCtrl (o : Nat) : Bool := decide (0x10000000 ≤ o) && decide (o % 0x10000 = 0x100)

theorem seqCtrl_iff {o : Nat} : seqCtrl o = true ↔ 0x10000000 ≤ o ∧ o % 0x10000 = 0x100 := by simp [seqCtrl]

theorem seqCtrl_run (n : Nat) : seqCtrl (Fl.TILE_SEQ_CTRL_RUN n).off = true := by
  rw [seqCtrl_iff, run_off]
  omega

theorem ne_status_of_high {o : Nat} (ho : 0x10000000 ≤ o) : o ≠ Reg.COLL_STATUS := by
  have hlow : Reg.COLL_STATUS < 0x10000000 := by decide
  omega

/-- What stands within a scope: no tile is set running, no Take opens, flows keep their states, records only join. -/
structure Within {κ : Type} (w : Scope κ) (s t : State) : Prop where
  status : ∀ f ∈ w.flds, t.fld f = s.fld f
  inexact : s.fld Fl.COLL_STATUS_INEXACT = 1 → t.fld Fl.COLL_STATUS_INEXACT = 1
  run : ∀ n, s.fld (Fl.TILE_SEQ_CTRL_RUN n) = 0 → t.fld (Fl.TILE_SEQ_CTRL_RUN n) = 0
  take : ∀ n, (s.tile n).take = none → (t.tile n).take = none
  kinds : t.reel.objects.map Obj.versioned = s.reel.objects.map Obj.versioned
  objects : w.objects = false → t.reel.objects = s.reel.objects
  groups : w.groups = false → t.upd.groups = s.upd.groups
  queue : w.queue = false → s.upd.queue = [] → t.upd.queue = []
  coll : w.view t.coll = w.view s.coll
  job : t.job.map Job.bare = s.job.map Job.bare
  flow : ∀ f, (t.flow f).state = (s.flow f).state
  events : ∃ l, Adds s t l

/-- A change within a scope. -/
def Act.within {κ : Type} (w : Scope κ) : Act → Prop
  | .reg o v => o ≠ Reg.COLL_STATUS ∧ (seqCtrl o = true → v.toNat.testBit 0 = false)
  | .tile _ f => ∀ t, t.take = none → (f t).take = none
  | .reel f => ∀ r, (f r).objects.map Obj.versioned = r.objects.map Obj.versioned ∧ (w.objects = true ∨ (f r).objects = r.objects)
  | .upd f => ∀ u, (w.groups = true ∨ (f u).groups = u.groups) ∧ (w.queue = true ∨ (u.queue = [] → (f u).queue = []))
  | .coll f => ∀ c, w.view (f c) = w.view c
  | .job f => ∀ j, (f j).map Job.bare = j.map Job.bare
  | .flow _ f => ∀ x, (f x).state = x.state
  | .nrt _ | .sends _ | .key _ _ | .keysClear | .dropEvents _ | .reset _ => False
  | _ => True

theorem composes_within {κ : Type} (w : Scope κ) : Composes (Within w) where
  refl s := ⟨fun _ _ => rfl, fun h => h, fun _ h => h, fun _ h => h, rfl, fun _ => rfl, fun _ => rfl, fun _ h => h, rfl, rfl, fun _ => rfl, ⟨[], Adds.of_eq rfl⟩⟩
  trans h g := by
    obtain ⟨l, hl⟩ := h.events
    obtain ⟨k, hk⟩ := g.events
    exact ⟨fun f hf => (g.status f hf).trans (h.status f hf), fun hx => g.inexact (h.inexact hx), fun n hn => g.run n (h.run n hn), fun n hn => g.take n (h.take n hn),
      g.kinds.trans h.kinds, fun hw => (g.objects hw).trans (h.objects hw), fun hw => (g.groups hw).trans (h.groups hw), fun hw hq => g.queue hw (h.queue hw hq), g.coll.trans h.coll, g.job.trans h.job,
      fun f => (g.flow f).trans (h.flow f), l ++ k, hl.trans hk⟩

/-- A register's bit 0 written 0 clears the RUN that lies there. -/
theorem run_of_bit {s : State} (hs : s.Inv) {n : Nat} {v : W32} (h : v.toNat.testBit 0 = false) : ((Act.reg (Fl.TILE_SEQ_CTRL_RUN n).off v).apply s).fld (Fl.TILE_SEQ_CTRL_RUN n) = 0 := by
  rw [State.fld, hs.reg_apply_reg_same]
  apply Nat.eq_of_testBit_eq
  intro i
  rw [testBit_bitsOf (width := (Fl.TILE_SEQ_CTRL_RUN n).width) Nat.one_pos, Nat.zero_testBit, BitVec.toNat_and, Nat.testBit_and]
  by_cases hi : i = 0
  · subst hi
    simp [Fl.TILE_SEQ_CTRL_RUN, h]
  · simp [Fl.TILE_SEQ_CTRL_RUN, hi]

section
variable {κ : Type} {w : Scope κ}

theorem within_reg {s : State} (hs : s.Inv) {o : Nat} {v : W32} (hstatus : (∀ f ∈ w.flds, ((Act.reg o v).apply s).fld f = s.fld f) ∧
      (s.fld Fl.COLL_STATUS_INEXACT = 1 → ((Act.reg o v).apply s).fld Fl.COLL_STATUS_INEXACT = 1)) (hrun : seqCtrl o = true → v.toNat.testBit 0 = false) :
    Within w s ((Act.reg o v).apply s) := by
  refine { (composes_within w).refl s with status := hstatus.1, inexact := hstatus.2, run := fun n hn => ?_, coll := rfl, job := rfl }
  by_cases ho : (Fl.TILE_SEQ_CTRL_RUN n).off = o
  · subst ho
    exact run_of_bit hs (hrun (seqCtrl_run n))
  · rw [hs.fld_apply_reg_other ho, hn]

/-- What leaves the registers beyond the hub's and the parts looked at stands within every scope. -/
theorem within_of_parts {s t : State} (hreg : ∀ o, hubReg o = false → t.reg o = s.reg o) (h : ∀ p ∈ [StatePart.tiles, .reel, .upd, .coll, .job, .nrt], p.stands s t)
    (hadds : ∃ l, Adds s t l) : Within w s t := by
  have hstatus : ∀ {f : Fld}, f.off = Reg.COLL_STATUS → t.fld f = s.fld f := fun hf => State.fld_congr (hreg _ (by rw [hf]; decide))
  have htiles : t.tiles = s.tiles := h .tiles (by decide)
  have hreel : t.reel = s.reel := h .reel (by decide)
  have hupd : t.upd = s.upd := h .upd (by decide)
  have hcoll : t.coll = s.coll := h .coll (by decide)
  have hjob : t.job = s.job := h .job (by decide)
  have hnrt : t.nrt = s.nrt := h .nrt (by decide)
  exact ⟨fun f hf => hstatus (w.status f hf), fun hx => (hstatus rfl).trans hx, fun n hn => (State.fld_congr (hreg _ (hubReg_tile (by rw [run_off]; omega)))).trans hn,
    fun n hn => by rw [State.tile, htiles, ← State.tile, hn], by rw [hreel], fun _ => by rw [hreel],
    fun _ => by rw [hupd], fun _ hq => by rw [hupd, hq], by rw [hcoll], by rw [hjob], fun f => by rw [State.flow, State.flow, hnrt], hadds⟩

theorem within_event {s : State} (hs : s.Inv) (e : Event) : Within w s ((Act.event e).apply s) :=
  within_of_parts (fun _ ho => addEvent_reg hs e (quiet_of_not_hubReg ho)) (fun p hp => Act.apply_stands (by fin_cases hp <;> simp [Act.kind, ActKind.changes]) s) (addEvent_adds s e)

/-- A change of other parts. -/
theorem within_of_leaves {a : Act} (h : ∀ p ∈ [StatePart.registers, .tiles, .reel, .upd, .coll, .job, .nrt, .events], p ∉ a.kind.changes) (s : State) : Within w s (a.apply s) :=
  within_of_parts (fun o _ => reg_apply_of_leaves (h .registers (by decide)) s o) (fun p hp => Act.apply_stands (h p (by fin_cases hp <;> decide)) s)
    ⟨[], Adds.of_eq (Act.apply_stands (h .events (by decide)) s).1⟩

theorem Act.within.holds {a : Act} {s : State} (h : a.within w) (hs : s.Inv) : Within w s (a.apply s) := by
  have base := (composes_within w).refl s
  cases a with
  | reg o v =>
    obtain ⟨ho, hrun⟩ := h
    exact within_reg hs ⟨fun f hf => hs.fld_apply_reg_other (by rw [w.status f hf]; exact Ne.symm ho) v,
      fun hx => (hs.fld_apply_reg_other (g := Fl.COLL_STATUS_INEXACT) (Ne.symm ho) v).trans hx⟩ hrun
  | tile n f =>
    refine { base with take := fun k hk => ?_, coll := rfl, job := rfl }
    rw [State.tile_apply_tile hs]
    split
    · rename_i heq
      rw [heq] at hk
      exact h _ hk
    · exact hk
  | event e => exact within_event hs e
  | reel f =>
    obtain ⟨hkinds, hobjects⟩ := h s.reel
    exact { base with kinds := hkinds, objects := fun hw => hobjects.resolve_left (by simp [hw]), coll := rfl, job := rfl }
  | upd f =>
    obtain ⟨hg, hq⟩ := h s.upd
    exact { base with groups := fun hw => hg.resolve_left (by simp [hw]), queue := fun hw => hq.resolve_left (by simp [hw]), coll := rfl, job := rfl }
  | coll f => exact { base with coll := h _, job := rfl }
  | job f => exact { base with job := h _, coll := rfl }
  | flow n f =>
    refine { base with flow := fun k => ?_, coll := rfl, job := rfl }
    rw [flow_apply_flow hs]
    split
    · rename_i heq
      rw [heq, h]
    · rfl
  | nrt _ | sends _ | key _ _ | keysClear | dropEvents _ | reset _ => exact h.elim
  | _ => exact within_of_leaves (fun p hp => by fin_cases hp <;> simp [Act.kind, ActKind.changes]) s

theorem holds_within {α : Type} {m : M α} (h : Acts (Act.within w) m) : Holds (Within w) m := h.holds (composes_within w) (fun _ _ ha hs => ha.holds hs)

/-- A field of COLL_STATUS apart from those that stand is set. -/
theorem holds_setStatus {f : Fld} (hf : 0 < f.width) (hf32 : f.lo + f.width ≤ 32) (hoff : f.off = Reg.COLL_STATUS) (hapart : ∀ g ∈ w.flds, 0 < g.width ∧ f.apart g)
    (hx : f.apart Fl.COLL_STATUS_INEXACT) (v : Nat) : Holds (Within w) (setFld f v) := fun s hs =>
  (does_setFld f v s).post ⟨Act.apply_inv _ s hs, within_reg hs ⟨fun g hg => hs.fld_setFld_apart hf hf32 (hapart g hg).1 ((w.status g hg).trans hoff.symm) (hapart g hg).2 v,
    fun hx1 => (hs.fld_setFld_apart hf hf32 Nat.one_pos hoff.symm hx v).trans hx1⟩ (fun hc => by simp [hoff, seqCtrl] at hc; exact absurd hc.1 (by decide))⟩

theorem inexact_covered : Fl.COLL_STATUS_INEXACT.covered = true := by decide +kernel

theorem post_setInexact (hapart : ∀ g ∈ w.flds, 0 < g.width ∧ Fl.COLL_STATUS_INEXACT.apart g) {s : State} (hs : s.Inv) :
    Post (setBit Fl.COLL_STATUS_INEXACT) s (fun _ t => t.Inv ∧ Within w s t ∧ t.fld Fl.COLL_STATUS_INEXACT = 1) := by
  have hset := hs.fld_setFld inexact_covered 1
  refine (does_setFld _ _ s).post ⟨Act.apply_inv _ s hs, within_reg hs ⟨fun g hg => ?_, fun _ => hset⟩ (fun hc => by simp [Fl.COLL_STATUS_INEXACT, seqCtrl] at hc; exact absurd hc.1 (by decide)), hset⟩
  exact hs.fld_setFld_apart Nat.one_pos (show 4 + 1 ≤ 32 by decide) (hapart g hg).1 (w.status g hg) (hapart g hg).2 1

end

/-- A wider scope: less stands. -/
theorem Within.mono {κ μ : Type} {w : Scope κ} {v : Scope μ} {s t : State} (h : Within w s t) (hview : ∀ c d, w.view c = w.view d → v.view c = v.view d) (hflds : v.flds ⊆ w.flds)
    (hobjects : v.objects = false → w.objects = false) (hgroups : v.groups = false → w.groups = false) (hqueue : v.queue = false → w.queue = false) : Within v s t :=
  ⟨fun f hf => h.status f (hflds hf), h.inexact, h.run, h.take, h.kinds, fun hv => h.objects (hobjects hv), fun hv => h.groups (hgroups hv), fun hv => h.queue (hqueue hv), hview _ _ h.coll, h.job,
    h.flow, h.events⟩

/-! The pieces known. -/

section
variable {κ : Type} {w : Scope κ}

theorem Act.onHub.within {a : Act} (h : a.onHub) : a.within w := by
  cases a with
  | reg o _ =>
    refine ⟨fun heq => ?_, fun hc => ?_⟩
    · rw [heq] at h
      exact absurd (show hubReg Reg.COLL_STATUS = true from h) (by decide)
    · have hhub : hubReg o = false := hubReg_tile (seqCtrl_iff.mp hc).1
      rw [show hubReg o = true from h] at hhub
      cases hhub
  | shadow _ _ | event _ | pwr _ | clk _ _ | free => trivial
  | _ => exact h.elim

theorem acts_hub {α : Type} {m : M α} (h : Acts Act.onHub m) : Acts (Act.within w) m := h.mono (fun _ ha => ha.within)

theorem hubReg_within {o : Nat} (h : hubReg o = true) (v : W32) : (Act.reg o v).within w := Act.onHub.within (a := .reg o v) h

theorem Act.ofWake.within {a : Act} (h : a.ofWake) : a.within w := by
  cases a with
  | reg o v => exact hubReg_within h v
  | port _ _ | out _ | hub _ => trivial
  | _ => exact h.elim

theorem Act.ofUndef.within {a : Act} (h : a.ofUndef) : a.within w := by
  cases a with
  | undef _ _ => trivial
  | _ => exact h.elim

theorem Act.book.within {n : Nat} {a : Act} (h : a.book n) : a.within w := by
  cases a with
  | reg o _ =>
    have := bookReg_iff.mp h
    refine ⟨ne_status_of_high (by omega), fun hc => ?_⟩
    have := seqCtrl_iff.mp hc
    omega
  | tile _ f =>
    obtain ⟨-, hf⟩ := h
    exact fun x hx => (show (f x).take = x.take from (congrArg Tile.take (hf x) :)).trans hx
  | clk _ _ | pwr _ | free => trivial
  | _ => exact h.elim

theorem tileReg_within {o n d : Nat} (ho : o = 0x10000000 + n * 0x10000 + d) (hd : d < 0x10000) (hne : d ≠ 0x100) (v : W32) : (Act.reg o v).within w := by
  refine ⟨ne_status_of_high (by omega), fun hc => ?_⟩
  have := seqCtrl_iff.mp hc
  omega

theorem acts_raise_within (e : Ev) (src : Nat × Nat) (detail slate : Nat) : Acts (Act.within w) (raise e src detail slate) := acts_hub (acts_raise_onHub e src detail slate)

theorem Raised.within {s t : State} (h : Raised s t) : Within w s t :=
  within_of_parts (fun _ ho => h.reg _ (quiet_of_not_hubReg ho)) (fun p hp => h.rest p (by fin_cases hp <;> decide)) h.adds

theorem Stops.within {s t : State} (h : Stops s t) (hview : ∀ c d : Coll, c.bare = d.bare → w.view c = w.view d) : Within w s t := by
  have hreg : t.reg Reg.COLL_STATUS = s.reg Reg.COLL_STATUS := h.reg _ (by decide)
  have hstatus : ∀ {f : Fld}, f.off = Reg.COLL_STATUS → t.fld f = s.fld f := fun hf => State.fld_congr (by rw [hf, hreg])
  have hnrt : t.nrt = s.nrt := h.rest .nrt (by decide)
  exact ⟨fun f hf => hstatus (w.status f hf), fun hx => (hstatus rfl).trans hx, h.run, fun n hn => (h.take n).trans hn, by rw [h.objects], fun _ => h.objects, fun _ => h.groups, fun _ => h.queue,
    hview _ _ h.coll, h.job, fun f => by rw [State.flow, State.flow, hnrt], h.events⟩

theorem Posted.within {l : List Nat} {s t : State} (h : Posted l s t) (hview : ∀ c d : Coll, c.unnumbered = d.unnumbered → w.view c = w.view d) : Within w s t := by
  have hq : ∀ o, hubReg o = false → t.reg o = s.reg o := fun o ho => h.reg o (msgReg_of_not_hubReg ho)
  have hstatus : ∀ {f : Fld}, f.off = Reg.COLL_STATUS → t.fld f = s.fld f := fun hf => State.fld_congr (hq _ (by rw [hf]; decide))
  have hupd : t.upd = s.upd := h.rest .upd (by decide)
  have hreel : t.reel = s.reel := h.rest .reel (by decide)
  have hjob : t.job = s.job := h.rest .job (by decide)
  exact ⟨fun f hf => hstatus (w.status f hf), fun hx => (hstatus rfl).trans hx, fun n hn => (State.fld_congr (hq _ (hubReg_tile (by rw [run_off]; omega)))).trans hn,
    fun n hn => by rw [tile_congr (h.rest .tiles (by decide)), hn], by rw [hreel], fun _ => by rw [hreel], fun _ => by rw [hupd], fun _ hq => by rw [hupd, hq], hview _ _ h.coll, by rw [hjob], h.state,
    [], Adds.of_eq (h.rest .events (by decide)).1⟩

end

end Sys2Proof.Machine
end

section
/-! SUPPORT. The manager acts as long as it has cause (R352, R365, R368): what that leaves. -/

namespace Sys2Proof.Machine

open Sys2Proof

section
variable {κ : Type} {w : Scope κ}

/-! Counting and memory. -/

/-- The 64 performance counters of the hub. -/
theorem acts_pmuHubEach (ev : Nat) (priv master cls : Option Nat) (places : List (Nat × Nat)) : Acts Act.onHub (pmuHubEach ev priv master cls places) := by
  refine acts_ite (fun _ => acts_pure _) (fun _ s => post_bind (post_look ?_))
  refine acts_bind (acts_for _ (fun c hc => acts_pmuAdd (fun k hk v => hubReg_iff.mpr (.inr ?_)))) (fun _ => acts_pure _) s
  obtain ⟨i, hi, rfl⟩ := List.mem_map.mp (List.mem_filter.mp hc).1
  have hi := List.mem_range.mp hi
  dsimp only
  rw [Reg.PMON_HUB_SEL]
  omega

theorem acts_trafficOf (write : Bool) (a lines : Nat) (priv master cls : Option Nat) : Acts Act.onHub (trafficOf write a lines priv master cls) :=
  acts_ite (fun _ => acts_pure _) (fun _ => acts_ite (fun _ => acts_bind (acts_pmuHubEach _ _ _ _ _) (fun _ => acts_pmuHubEach _ _ _ _ _)) (fun _ => acts_when (fun _ => acts_pmuHubEach _ _ _ _ _)))

theorem acts_byteTraffic_onHub (write : Bool) (a n : Nat) (priv master cls : Option Nat) : Acts Act.onHub (byteTraffic write a n priv master cls) :=
  acts_ite (fun _ => acts_pure _) (fun _ => acts_trafficOf _ _ _ _ _ _)

theorem acts_byteTraffic (write : Bool) (a n : Nat) (priv master cls : Option Nat) : Acts (Act.within w) (byteTraffic write a n priv master cls) := acts_hub (acts_byteTraffic_onHub _ _ _ _ _ _)

theorem acts_tierWrite (a : Nat) (bs : List Byte) : Acts (Act.within w) (tierWrite a bs) :=
  acts_bind (acts_look _) (fun _ => acts_ite (fun _ => acts_act trivial) (fun _ => acts_bind (acts_for _ (fun _ _ => acts_act trivial)) (fun _ =>
    acts_bind (acts_for _ (fun _ _ => acts_act trivial)) (fun _ => acts_pure _))))

/-! Messages and stops. -/

section
variable (hmsg : ∀ c d : Coll, c.unnumbered = d.unnumbered → w.view c = w.view d)
include hmsg

theorem holds_sendMsg (dest type slate : Nat) (arg : List Byte) : Holds (Within w) (sendMsg dest type slate arg) := fun _ hs =>
  (post_sendMsg hs dest type slate arg).mono (fun _ _ ⟨h, _⟩ => ⟨h.inv, h.within hmsg⟩)

theorem holds_sendAll (type slate : Nat) (arg : List Byte) : Holds (Within w) (sendAll type slate arg) := by
  have o := composes_within w
  exact holds_bind o (holds_look o _) (fun _ => holds_bind o (holds_look o _) (fun _ => holds_bind o (holds_for o _ (fun _ _ => holds_sendMsg hmsg _ _ _ _)) (fun _ => holds_pure o _)))

end

theorem acts_powerStep : Acts Act.onHub powerStep :=
  acts_bind (acts_applyShadows (fun _ _ h => hubReg_iff.mpr (.inl (by omega)))) (fun _ => acts_bind (acts_act trivial) (fun _ => acts_powerSync))

section
variable (hbare : ∀ c d : Coll, c.bare = d.bare → w.view c = w.view d)
include hbare

theorem holds_stopJob (code : Nat) : Holds (Within w) (stopJob code) := fun _ hs => (post_stopJob code hs).mono (fun _ _ ⟨ht, h, _⟩ => ⟨ht, h.within hbare⟩)

theorem holds_stepLimit (src : Nat × Nat) (slate : Nat) : Holds (Within w) (stepLimit src slate) :=
  holds_bind (composes_within w) (holds_within (acts_hub (acts_raiseStop_onHub _ _ _ _))) (fun _ => holds_stopJob hbare _)

end

/-! Releases. -/

theorem acts_countIssue_within (n : Nat) : Acts (Act.within w) (countIssue n) := by
  have book : ∀ {m : M Unit}, Acts (Act.book n) m → Acts (Act.within w) m := fun h => h.mono (fun _ ha => ha.within)
  refine acts_bind (acts_look _) (fun _ => acts_bind (acts_look _) (fun _ => acts_bind (acts_look _) (fun _ => acts_bind (acts_bump ?_ ?_) (fun _ =>
    acts_bind (book (acts_pmuTile_book _ _ _ _ _ _)) (fun _ => acts_bind (acts_setFld ?_) (fun _ => acts_bind (book (acts_sampleSelect _ _ _ _)) (fun _ =>
      acts_bind (book (acts_toneEnd _)) (fun _ => acts_modTile (fun _ h => h)))))))))
  · exact fun v => tileReg_within (d := 0x140) rfl (by decide) (by decide) v
  · exact fun v => tileReg_within (d := 0x144) rfl (by decide) (by decide) v
  · exact fun v => tileReg_within (d := 0x104) rfl (by decide) (by decide) v

theorem holds_uopDone_within (n : Nat) : Holds (Within w) (uopDone n) := by
  have o := composes_within w
  refine holds_bind o (holds_look o _) (fun pc => holds_bind o (holds_within (acts_countIssue_within n)) (fun _ s hs => post_bind (post_getTile (post_bind (post_act ?_)))))
  rw [act_tile_const (fun x => (x.stepPc pc).1)]
  have hmod : (Act.tile n (fun x => (x.stepPc pc).1)).within w := fun x hx => by
    show (x.stepPc pc).1.take = none
    rw [stepPc_fst]
    exact hx
  have hfld : Holds (Within w) (setFld (Fl.TILE_SEQ_PC_PC n) (((s.tile n).stepPc pc).2 % 8192)) :=
    holds_within (acts_setFld (fun v => tileReg_within (d := 0x108) rfl (by decide) (by decide) v))
  exact (hfld _ (Act.apply_inv _ s hs)).mono (fun _ _ ⟨ht, h⟩ => ⟨ht, o.trans (hmod.holds hs) h⟩)

theorem holds_clapReleaseTile (n key : Nat) : Holds (Within w) (clapReleaseTile n key) := by
  have o := composes_within w
  have htone : Acts (Act.within w) (toneEnd n) := (acts_toneEnd n).mono (fun _ ha => ha.within)
  refine holds_bind o (holds_look o _) (fun t => holds_bind o (holds_within (acts_modTile (fun _ h => h))) (fun _ => holds_ite (fun _ => holds_uopDone_within n) (fun _ => holds_when o (fun _ => ?_))))
  exact holds_within (acts_bind htone (fun _ => acts_modTile (fun _ h => h)))

/-- A release reaches the hub. -/
theorem holds_hubRelease (hbare : ∀ c d : Coll, c.bare = d.bare → w.view c = w.view d) (hgens : ∀ (c : Coll) (gens arrived : List (Nat × Nat)), w.view { c with gens := gens, arrived := arrived } = w.view c)
    (c g step : Nat) : Holds (Within w) (hubRelease c g step) := by
  have o := composes_within w
  have hend : Holds (Within w) (do
      let ts ← look (·.crossTiles c)
      for n in ts do clapReleaseTile n (16 + c)
      if c = 7 ∧ step = 2 ^ 32 - 1 then stepLimit (srcUnit mColl) 0) :=
    holds_bind o (holds_look o _) (fun _ => holds_bind o (holds_for o _ (fun n _ => holds_clapReleaseTile n _)) (fun _ => holds_when o (fun _ => holds_stepLimit hbare _ _)))
  refine holds_bind o (holds_look o _) (fun next => holds_when o (fun _ => holds_bind o (holds_within (acts_act (fun c => hgens c _ _))) (fun _ => ?_)))
  refine holds_when_then o (m := setReg Reg.COLL_STEP (BitVec.ofNat 32 step) >>= fun _ => powerStep) (fun _ => ?_) (fun _ => hend)
  exact holds_within (acts_bind (acts_setReg ⟨by decide, fun hc => absurd (seqCtrl_iff.mp hc).1 (by decide)⟩) (fun _ => acts_hub acts_powerStep))

/-! The update die takes a command. -/

theorem acts_updSync : Acts Act.onHub updSync :=
  acts_bind (acts_look _) (fun _ => acts_bind (acts_setFld_onHub (by decide) _) (fun _ => acts_setFld_onHub (by decide) _))

section
variable (hqueue : w.queue = true)
include hqueue

theorem acts_updTakeUp : Acts (Act.within w) updTakeUp := by
  have hsync : Acts (Act.within w) updSync := acts_hub acts_updSync
  refine acts_bind (acts_look _) (fun u => ?_)
  cases u.queue with
  | nil => exact hsync
  | cons c rest =>
    refine acts_ite (fun _ => ?_) (fun _ => hsync)
    refine acts_bind (acts_look _) (fun _ => acts_bind (acts_look _) (fun _ => acts_bind (acts_look _) (fun _ => acts_bind (acts_look _) (fun _ => acts_bind (acts_look _) (fun frozen =>
      acts_bind (acts_act (fun _ => ⟨.inr rfl, .inl hqueue⟩)) (fun _ => acts_bind (acts_look _) (fun _ => ?_)))))))
    cases frozen with
    | nil => exact hsync
    | cons g _ => exact acts_ite (fun _ => acts_bind (acts_hub (acts_setFld_onHub (by decide) _)) (fun _ => acts_bind (acts_raise_within _ _ _ _) (fun _ => hsync))) (fun _ => hsync)

theorem acts_updEnqueue (c : UpdCmd) : Acts (Act.within w) (updEnqueue c) :=
  acts_bind (acts_look _) (fun _ => acts_when (fun _ => acts_bind (acts_look _) (fun _ => acts_ite (fun _ => acts_raise_within _ _ _ _) (fun _ =>
    acts_bind (acts_act (fun _ => ⟨.inr rfl, .inl hqueue⟩)) (fun _ => acts_updTakeUp hqueue)))))

end

theorem acts_fmthHold (step : Nat) (closed : Bool) : Acts (Act.within w) (fmthHold step closed) := acts_act trivial

theorem acts_fmthZero (step : Nat) : Acts (Act.within w) (fmthZero step) :=
  acts_bind (acts_look _) (fun _ => acts_bind (acts_look _) (fun _ => acts_bind (acts_tierWrite _ _) (fun _ => acts_byteTraffic _ _ _ _ _ _)))

theorem acts_fmthAdd (a : Nat) (h : Health) : Acts (Act.within w) (fmthAdd a h) :=
  acts_bind (acts_look _) (fun _ => acts_bind (acts_tierWrite _ _) (fun _ => acts_bind (acts_byteTraffic _ _ _ _ _ _) (fun _ => acts_byteTraffic _ _ _ _ _ _)))

theorem acts_setTele {f : Fld} (hf : hubReg f.off = true) (v : Nat) : Acts (Act.within w) (setFld f v) := acts_hub (acts_setFld_onHub hf v)

theorem acts_fmthCommit (step key : Nat) (h : Health) : Acts (Act.within w) (fmthCommit step key h) := by
  have hlate : Acts (Act.within w) (setBit Fl.TELE_FMTH_STATUS_LATE) := acts_setTele (by decide) _
  have hrange : Acts (Act.within w) (setBit Fl.TELE_FMTH_STATUS_RANGE) := acts_setTele (by decide) _
  refine acts_bind (acts_look _) (fun en => acts_ite (fun _ => acts_pure _) (fun _ => acts_bind (acts_look _) (fun layers => acts_ite (fun _ => hrange) (fun _ =>
    acts_bind (acts_hub acts_fmthSync) (fun _ => acts_bind (acts_look _) (fun ok => acts_when (fun _ => acts_bind (acts_look _) (fun t => acts_bind (acts_look _) (fun a => acts_ite (fun _ => ?_) (fun _ => ?_))))))))))
  · exact acts_bind (acts_fmthZero _) (fun _ => acts_bind (acts_fmthHold _ _) (fun _ => acts_fmthAdd _ _))
  · exact acts_ite (fun _ => acts_fmthAdd _ _) (fun _ => hlate)

theorem acts_fmthClose (step : Nat) : Acts (Act.within w) (fmthClose step) := by
  have hend : Acts (Act.within w) (do
      setFld Fl.TELE_FMTH_CLOSED_STEP step
      applyShadows 0xC00000 0xD00000
      fmthSync) :=
    acts_bind (acts_setTele (by decide) _) (fun _ => acts_bind (acts_hub (acts_applyShadows (fun _ _ _ => hubReg_iff.mpr (.inr (by omega))))) (fun _ => acts_hub acts_fmthSync))
  refine acts_bind (acts_look _) (fun t => acts_bind (acts_look _) (fun a => acts_bind (acts_look _) (fun ok => acts_bind (acts_setTele (by decide) _) (fun _ => ?_))))
  refine acts_ite (fun _ => acts_bind (acts_setTele (by decide) _) (fun _ => hend)) (fun _ => acts_ite (fun _ => ?_) (fun _ => ?_))
  · refine acts_ite (fun _ => acts_bind (acts_look _) (fun evs => acts_bind (acts_for _ (fun e _ => acts_raise_within _ _ _ _)) (fun _ => acts_bind (acts_setTele (by decide) _) (fun _ => ?_)))) (fun _ => ?_)
    all_goals exact acts_bind (acts_fmthHold _ _) (fun _ => hend)
  · exact acts_when_then (fun _ => acts_fmthZero _) (fun _ => acts_bind (acts_fmthHold _ _) (fun _ => hend))

theorem holds_updComplete (hbare : ∀ c d : Coll, c.bare = d.bare → w.view c = w.view d) : Holds (Within w) updComplete := by
  have o := composes_within w
  refine holds_bind o (holds_look o _) (fun u => ?_)
  cases u.run with
  | none => exact holds_pure o _
  | some r =>
    refine holds_ite (fun _ => holds_within (acts_bind (acts_act (fun _ => ⟨.inr rfl, .inr (fun h => h)⟩)) (fun _ => acts_hub acts_updSync))) (fun _ => holds_when o (fun _ => ?_))
    have hend : Holds (Within w) (updSync >>= fun _ => if r.stopCode ≠ 0 then stopJob r.stopCode else pure ()) :=
      holds_bind o (holds_within (acts_hub acts_updSync)) (fun _ => holds_when o (fun _ => holds_stopJob hbare _))
    refine holds_bind o (holds_within (acts_act (fun _ => ⟨.inr rfl, .inr (fun h => h)⟩))) (fun _ => holds_bind o (holds_within (acts_setReg (hubReg_within (by decide) _))) (fun _ =>
      holds_bind o (holds_within (acts_for _ (fun h _ => acts_fmthCommit _ _ _))) (fun _ => holds_when_then o (fun _ => holds_within (acts_fmthClose _)) (fun _ => hend))))

end

/-! The manager's turn. -/

/-- The manager's part in what it runs on its own: who manages, and what is recorded but for the steps opened, the updates sent and the channels released. -/
def Coll.office (c : Coll) : Nat × Mgr := (c.manager, { c.mgr with opened := none, updSent := [], released := [] })

/-- While training is held the die's queue stays empty. -/
def runScope (held : Bool) : Scope (Nat × Mgr) where
  view := Coll.office
  flds := [Fl.COLL_STATUS_EPOCH, Fl.COLL_STATUS_ROLE, Fl.COLL_STATUS_HELD, Fl.COLL_STATUS_INEXACT, Fl.COLL_STATUS_LOST, Fl.COLL_STATUS_FAILOVER, Fl.COLL_STATUS_RESTORED]
  status := by simp [Fl.COLL_STATUS_EPOCH, Fl.COLL_STATUS_ROLE, Fl.COLL_STATUS_HELD, Fl.COLL_STATUS_INEXACT, Fl.COLL_STATUS_LOST, Fl.COLL_STATUS_FAILOVER, Fl.COLL_STATUS_RESTORED]
  objects := false
  groups := false
  queue := !held

/-- What the manager does next, and when. -/
theorem nextChange_cases {s : State} {c : Change} (h : s.nextChange = some c) :
    (s.coll.mgr.held = false ∧ ((∃ t, c = .updSent t) ∨ ∃ g st, c = .stepOpened 7 g st)) ∨ ∃ ch g, ch ≠ 7 ∧ c = .released ch g := by
  unfold State.nextChange at h
  dsimp only at h
  split at h
  · cases h
  · have hm := List.mem_of_find?_eq_some h
    rcases List.mem_append.mp hm with hm | hm
    · split at hm
      · cases hm
      · split at hm
        · cases hm
        · rename_i hheld
          obtain ⟨st, -, rfl⟩ := List.mem_map.mp hm
          exact .inl ⟨by simpa using hheld, .inl ⟨_, rfl⟩⟩
    · obtain ⟨ch, -, hch⟩ := List.mem_filterMap.mp hm
      split at hch
      · cases hch
      · rename_i hno
        split at hch
        · rename_i h7
          obtain ⟨-, heq⟩ := Option.ite_none_right_eq_some.mp hch
          refine .inl ⟨?_, .inr ⟨_, _, (Option.some.inj heq).symm⟩⟩
          by_contra hheld
          simp [hheld, h7] at hno
        · rename_i h7
          exact .inr ⟨ch, _, h7, (Option.some.inj hch).symm⟩

theorem office_unnumbered (c d : Coll) (h : c.unnumbered = d.unnumbered) : c.office = d.office := by
  have hmanager : c.manager = d.manager := (congrArg Coll.manager h :)
  have hmgr : c.mgr = d.mgr := (congrArg Coll.mgr h :)
  rw [Coll.office, Coll.office, hmanager, hmgr]

theorem office_bare (c d : Coll) (h : c.bare = d.bare) : c.office = d.office := by
  have hmanager : c.manager = d.manager := (congrArg Coll.manager h :)
  have hmgr : c.mgr = d.mgr := (congrArg Coll.mgr h :)
  rw [Coll.office, Coll.office, hmanager, hmgr]

section
variable {held : Bool}

theorem holds_released (ch g : Nat) (step : Nat) : Holds (Within (runScope held)) (hubRelease ch g step) := holds_hubRelease office_bare (fun _ _ _ => rfl) ch g step

/-- A change that the manager makes on its own. -/
theorem holds_mgrAct_run {c : Change} (h : (held = false ∧ ((∃ t, c = .updSent t) ∨ ∃ g st, c = .stepOpened 7 g st)) ∨ ∃ ch g, ch ≠ 7 ∧ c = .released ch g) :
    Holds (Within (runScope held)) (mgrAct c) := by
  have o := composes_within (runScope held)
  rcases h with ⟨rfl, ⟨t, rfl⟩ | ⟨g, st, rfl⟩⟩ | ⟨ch, g, -, rfl⟩
  · exact holds_bind o (holds_within (acts_act (fun _ => rfl))) (fun _ => holds_bind o (holds_sendAll office_unnumbered _ _ _) (fun _ =>
      holds_bind o (holds_within (acts_updEnqueue rfl _)) (fun _ => holds_updComplete office_bare)))
  · exact holds_bind o (holds_within (acts_act (fun _ => rfl))) (fun _ => holds_bind o (holds_sendAll office_unnumbered _ _ _) (fun _ => holds_released _ _ _))
  · exact holds_bind o (holds_within (acts_act (fun _ => rfl))) (fun _ => holds_bind o (holds_look o _) (fun ms =>
      holds_bind o (holds_for o _ (fun _ _ => holds_sendMsg office_unnumbered _ _ _ _)) (fun _ => holds_released _ _ _)))

theorem holds_mgrChange_run {c : Change} (h : (held = false ∧ ((∃ t, c = .updSent t) ∨ ∃ g st, c = .stepOpened 7 g st)) ∨ ∃ ch g, ch ≠ 7 ∧ c = .released ch g) :
    Holds (Within (runScope held)) (mgrChange c) := by
  have o := composes_within (runScope held)
  refine holds_bind o (holds_look o _) (fun m => ?_)
  cases m.standby with
  | none => exact holds_mgrAct_run h
  | some d => exact holds_bind o (holds_look o _) (fun n => holds_bind o (holds_within (acts_act (fun _ => rfl))) (fun _ => holds_sendMsg office_unnumbered _ _ _ _))

end

theorem Within.held {b : Bool} {s t : State} (h : Within (runScope b) s t) : t.coll.mgr.held = s.coll.mgr.held := congrArg (fun e : Nat × Mgr => e.2.held) h.coll

theorem post_mgrRun (k : Nat) {s : State} (hs : s.Inv) : Post (mgrRun k) s (fun _ t => t.Inv ∧ Within (runScope s.coll.mgr.held) s t) := by
  induction k generalizing s with
  | zero => exact post_pure ⟨hs, (composes_within _).refl s⟩
  | succ k ih =>
    have o := composes_within (runScope s.coll.mgr.held)
    refine post_bind (post_look (post_bind (post_look ?_)))
    cases hc : s.nextChange with
    | none => exact post_pure ⟨hs, o.refl s⟩
    | some c =>
      refine post_ite (fun _ => post_bind ((holds_mgrChange_run (nextChange_cases hc) s hs).mono (fun _ t ⟨ht, h⟩ => (ih ht).mono (fun _ u ⟨hu, g⟩ => ?_)))) (fun _ => post_pure ⟨hs, o.refl s⟩)
      rw [h.held] at g
      exact ⟨hu, o.trans h g⟩

/-- With nothing arrived and no step opened the manager has nothing to do. -/
theorem nextChange_fresh {s : State} (hopened : s.coll.mgr.opened = none) (harrivals : s.coll.mgr.arrivals = []) : s.nextChange = none := by
  unfold State.nextChange
  dsimp only
  split
  · rfl
  · simp only [hopened, harrivals]
    rw [List.nil_append, List.filterMap_eq_nil_iff.mpr, List.find?_nil]
    intro ch _
    rw [if_pos]
    cases s.chanModules ch with
    | nil => rfl
    | cons x rest => simp

end Sys2Proof.Machine
end

section
/-! SUPPORT. A module's report that its part of a restore is done (R370). -/

namespace Sys2Proof.Machine

open Sys2Proof

theorem restored_covered : Fl.COLL_STATUS_RESTORED.covered = true := by decide +kernel

/-- Who manages, and what is recorded but for the reports of a restore and what the manager runs on its own. -/
def Coll.seat (c : Coll) : Nat × Mgr := (c.manager, { c.mgr with opened := none, updSent := [], released := [], restored := [] })

/-- The end of a restore changes RESTORED alone of the status. -/
def seatScope (held : Bool) : Scope (Nat × Mgr) where
  view := Coll.seat
  flds := [Fl.COLL_STATUS_EPOCH, Fl.COLL_STATUS_ROLE, Fl.COLL_STATUS_HELD, Fl.COLL_STATUS_INEXACT, Fl.COLL_STATUS_LOST, Fl.COLL_STATUS_FAILOVER]
  status f hf := (runScope held).status f (by
    simp only [runScope, List.mem_cons, List.not_mem_nil, or_false] at hf ⊢
    tauto)
  objects := false
  groups := false
  queue := !held

theorem seat_of_office (c d : Coll) (h : c.office = d.office) : c.seat = d.seat :=
  congrArg (fun e : Nat × Mgr => (e.1, { e.2 with restored := [] })) h

theorem Within.seat {held : Bool} {s t : State} (h : Within (runScope held) s t) : Within (seatScope held) s t :=
  h.mono seat_of_office (by simp [seatScope, runScope]) (fun _ => rfl) (fun _ => rfl) (fun hq => hq)

theorem Within.held_seat {b : Bool} {s t : State} (h : Within (seatScope b) s t) : t.coll.mgr.held = s.coll.mgr.held := congrArg (fun e : Nat × Mgr => e.2.held) h.coll

/-- The modules whose report is in, and whether all are. -/
def Mgr.withRestored (m : Mgr) (k : Nat) : List Nat := if m.restored.contains k then m.restored else m.restored ++ [k]
def State.allRestored (s : State) (l : List Nat) : Bool := (List.range s.modules).all (fun m => l.contains m)

/-- A report recorded. -/
structure Reported (k : Nat) (s t : State) : Prop where
  inv : t.Inv
  within : Within (seatScope s.coll.mgr.held) s t
  restored : t.coll.mgr.restored = s.coll.mgr.withRestored k
  status : t.fld Fl.COLL_STATUS_RESTORED = if s.allRestored (s.coll.mgr.withRestored k) then 1 else s.fld Fl.COLL_STATUS_RESTORED

theorem Within.modules {κ : Type} {w : Scope κ} {s t : State} (h : Within w s t) : t.modules = s.modules := by
  have hj := congrArg (fun j : Option Job => (j.map (·.modules)).getD 1) h.job
  simp only [Option.map_map] at hj
  exact hj

theorem Within.me {κ : Type} {w : Scope κ} {s t : State} (h : Within w s t) : t.me = s.me := by
  have hj := congrArg (fun j : Option Job => (j.map (·.module)).getD 0) h.job
  simp only [Option.map_map] at hj
  exact hj

theorem post_mgrAct_restored (k r : Nat) {s : State} (hs : s.Inv) : Post (mgrAct (.restored k r)) s (fun _ t => Reported k s t) := by
  have o := composes_within (seatScope s.coll.mgr.held)
  refine post_bind (post_act (post_bind (post_look ?_)))
  have hs1 := Act.apply_inv (.coll (fun x => { x with mgr := (Change.restored k r).record x.mgr })) s hs
  have h1 : Within (seatScope s.coll.mgr.held) s ((Act.coll (fun x => { x with mgr := (Change.restored k r).record x.mgr })).apply s) := Act.within.holds (fun _ => rfl) hs
  refine post_ite (fun hall => ?_) (fun hno => post_pure ⟨hs1, h1, rfl, ?_⟩)
  · have hall : s.allRestored (s.coll.mgr.withRestored k) = true := hall
    have hset : Holds (Within (seatScope s.coll.mgr.held)) (setFld Fl.COLL_STATUS_RESTORED 1) := holds_setStatus Nat.one_pos (by decide) rfl (by
      simp [seatScope, Fld.apart, Fl.COLL_STATUS_EPOCH, Fl.COLL_STATUS_ROLE, Fl.COLL_STATUS_HELD, Fl.COLL_STATUS_INEXACT, Fl.COLL_STATUS_LOST, Fl.COLL_STATUS_FAILOVER, Fl.COLL_STATUS_RESTORED])
      (by simp [Fld.apart, Fl.COLL_STATUS_RESTORED, Fl.COLL_STATUS_INEXACT]) 1
    refine Post.mono ((hset _ hs1).and ((does_setFld _ _ _).post ⟨rfl, hs1.fld_setFld restored_covered 1⟩ : Post _ _ (fun _ t => t.coll = _ ∧ t.fld Fl.COLL_STATUS_RESTORED = _))) ?_
    rintro _ t ⟨⟨ht, h2⟩, hcoll, hfld⟩
    exact ⟨ht, o.trans h1 h2, by rw [hcoll]; rfl, by rw [hfld, if_pos hall]; rfl⟩
  · exact (if_neg hno).symm

/-- A report to a manager without a standby. -/
theorem post_report_alone {k r : Nat} {s : State} (hs : s.Inv) (hstandby : s.coll.mgr.standby = none) (hnew : s.coll.mgr.restored.contains k = false)
    (hfree : ∀ e ∈ s.coll.journal, e.2 ≠ .restored k r) : Post (mgrReport (.restored k r)) s (fun _ t => Reported k s t) := by
  refine post_bind (post_look (post_bind (post_look ?_)))
  have hwait : (s.coll.journal.any fun e => decide (e.2 = Change.restored k r)) = false := by
    rw [List.any_eq_false]
    exact fun e he => by simpa using hfree e he
  rw [if_pos ⟨by simpa using hnew, by rw [hwait]; rfl⟩]
  refine post_bind (post_bind (post_look ?_))
  rw [hstandby]
  refine (post_mgrAct_restored k r hs).mono (fun _ t h1 => (post_mgrRun 64 h1.inv).mono (fun _ u ⟨hu, h2⟩ => ?_))
  rw [h1.within.held_seat] at h2
  refine ⟨hu, (composes_within _).trans h1.within h2.seat, ?_, ?_⟩
  · exact (congrArg (fun e : Nat × Mgr => e.2.restored) h2.coll).trans h1.restored
  · exact (h2.status _ (by simp [runScope])).trans h1.status

/-- A report, whatever the manager makes of it. -/
theorem post_report (k r : Nat) {s : State} (hs : s.Inv) : Post (mgrReport (.restored k r)) s (fun _ t => t.Inv ∧ Within (seatScope s.coll.mgr.held) s t) := by
  have o := composes_within (seatScope s.coll.mgr.held)
  have hend : ∀ {t : State}, t.Inv → Within (seatScope s.coll.mgr.held) s t → Post (mgrRun 64) t (fun _ u => u.Inv ∧ Within (seatScope s.coll.mgr.held) s u) := fun ht h =>
    (post_mgrRun 64 ht).mono (fun _ u ⟨hu, g⟩ => by
      rw [h.held_seat] at g
      exact ⟨hu, o.trans h g.seat⟩)
  refine post_bind (post_look (post_bind (post_look (post_ite (fun _ => post_bind (post_bind (post_look ?_))) (fun _ => hend hs (o.refl s))))))
  cases s.coll.mgr.standby with
  | none => exact (post_mgrAct_restored k r hs).mono (fun _ t h1 => hend h1.inv h1.within)
  | some d =>
    have hjournal : Holds (Within (seatScope s.coll.mgr.held)) (act (.coll (fun x => { x with
        journal := x.journal ++ [(((s.coll.seq.find? (fun e => decide (e.1 = d))).map (·.2)).getD 0, .restored k r)] })) >>= fun _ => sendMsg d 9 0 ((Change.restored k r).bytes false)) :=
      holds_bind o (holds_within (acts_act (fun _ => rfl))) (fun _ => holds_sendMsg (fun c d h => seat_of_office c d (office_unnumbered c d h)) _ _ _ _)
    exact post_bind (post_look ((hjournal s hs).mono (fun _ t ⟨ht, h⟩ => hend ht h)))

end Sys2Proof.Machine
end

section
/-! SUPPORT. What a restore does on a module (R370, R371). -/

namespace Sys2Proof.Machine

open Sys2Proof

section
variable {κ : Type} {w : Scope κ}

/-! The mirror copies go to their owner. -/

theorem acts_portSend {n : Nat} (hn : n < 16) (pcp len : Nat) (o : Out) : Acts Act.ofWake (portSend n pcp len o) :=
  acts_bind (acts_look _) (fun _ => acts_bind (acts_look _) (fun _ => acts_ite
    (fun _ => acts_bind (acts_act trivial) (fun _ => acts_when (fun _ => acts_setFld (fun _ => show hubReg Reg.NRT_STATUS = true by decide)))) (fun _ => acts_portOut hn _ _)))

theorem acts_mirrorOut (f : Nat → Option Nat → Out) : Acts (Act.within w) (mirrorOut f) :=
  acts_bind (acts_freeValue trivial) (fun _ => acts_bind (acts_freeValue trivial) (fun _ => acts_bind (acts_look _) (fun _ => acts_bind (acts_look _) (fun _ =>
    (acts_portSend (by decide) _ _ _).mono (fun _ ha => ha.within)))))

theorem acts_mirrorBack (v : Nat) : Acts (Act.within w) (mirrorBack v) := by
  refine acts_bind (acts_look _) (fun mirrors => acts_bind (acts_forIn _ _ (fun m _ _ => ?_)) (fun _ => acts_pure _))
  refine acts_ite (fun _ => acts_bind (acts_look _) (fun _ => acts_bind (acts_look _) (fun _ => acts_bind (acts_look _) (fun _ => acts_bind (acts_mirrorOut _) (fun _ => acts_pure _))))) (fun _ => acts_pure _)

/-! Copies are written. -/

theorem acts_nrtEnqueue (f op key offset : Nat) (payload : List Byte) (slate : Nat) (tile : Option Nat) (ord : Nat) : Acts (Act.within w) (nrtEnqueue f op key offset payload slate tile ord) :=
  acts_bind (acts_look _) (fun _ => acts_when (fun _ => acts_bind (acts_act (fun _ => rfl)) (fun _ => acts_hub (acts_setFld_onHub (by decide) _))))

theorem acts_nrtWrite (f key offset : Nat) (bytes : List Byte) (slate : Nat) (notify : Bool) (tile : Option Nat) (ord : Nat) : Acts (Act.within w) (nrtWrite f key offset bytes slate notify tile ord) :=
  acts_bind (acts_look _) (fun _ => acts_bind (acts_for _ (fun _ _ => acts_nrtEnqueue _ _ _ _ _ _ _ _)) (fun _ => acts_pure _))

theorem acts_updTraffic (write : Bool) (a n : Nat) : Acts (Act.within w) (updTraffic write a n) :=
  acts_bind (acts_look _) (fun _ => acts_when (fun _ => acts_byteTraffic _ _ _ _ _ _))

theorem map_modAt {α β : Type} {f : α → β} {g : α → α} (h : ∀ x, f (g x) = f x) (l : List α) (n : Nat) : (modAt l n g).map f = l.map f := by
  induction l generalizing n with
  | nil => cases n <;> rfl
  | cons x t ih =>
    cases n with
    | zero => simp [modAt, h]
    | succ n => simp [modAt, ih]

/-- A place's version set. -/
def Obj.setVer (place v : Nat) (x : Obj) : Obj := if place = 0 then { x with ver0 := v } else { x with ver1 := v }

theorem Obj.setVer_versioned (place v : Nat) (x : Obj) : (x.setVer place v).versioned = x.versioned := by
  unfold Obj.setVer
  split <;> rfl

theorem Obj.setVer_same (place v : Nat) (x : Obj) : (x.setVer place v).verAt place = v := by
  unfold Obj.setVer Obj.verAt
  split <;> rfl

theorem Obj.setVer_other {place other : Nat} (v : Nat) (x : Obj) (h : (place = 0) ↔ (other ≠ 0)) : (x.setVer place v).verAt other = x.verAt other := by
  unfold Obj.setVer Obj.verAt
  by_cases hp : place = 0
  · rw [if_pos hp, if_neg (h.mp hp), if_neg (h.mp hp)]
  · have ho : other = 0 := by
      by_contra hne
      exact hp (h.mpr hne)
    rw [if_neg hp, if_pos ho, if_pos ho]

section
variable (hobjects : w.objects = true) (hshard : ∀ (c : Coll) (l : List (Nat × Nat × Nat)), w.view { c with shardGen := l } = w.view c)
include hobjects hshard

theorem acts_setVer (o place v : Nat) : Acts (Act.within w) (setVer o place v) :=
  acts_bind (acts_look _) (fun _ => acts_bind (acts_act (fun r => ⟨map_modAt (Obj.setVer_versioned place v) r.objects o, .inl hobjects⟩)) (fun _ =>
    acts_when (fun _ => acts_bind (acts_look _) (fun _ => acts_act (fun c => hshard c _)))))

theorem acts_firstWrite (o place : Nat) : Acts (Act.within w) (firstWrite o place) :=
  acts_bind (acts_look _) (fun _ => acts_when (fun _ => acts_bind (acts_setVer hobjects hshard _ _ _) (fun _ => acts_act (fun _ => ⟨rfl, .inr rfl⟩))))

theorem acts_writeCopy (g : Group) (t slate : Nat) (pieces : List (Nat × List Byte)) (last : Bool) : Acts (Act.within w) (writeCopy g t slate pieces last) := by
  refine acts_bind (acts_look _) (fun o => acts_bind (acts_firstWrite hobjects hshard _ _) (fun _ => acts_bind (acts_for _ (fun p _ => acts_bind (acts_tierWrite _ _) (fun _ => acts_updTraffic _ _ _)))
    (fun _ => acts_bind (acts_look _) (fun rs => acts_bind (acts_forIn _ _ (fun r _ _ => acts_bind (acts_for _ (fun p _ => acts_nrtWrite _ _ _ _ _ _ _ _)) (fun _ => acts_pure _))) (fun _ => acts_pure _)))))

theorem acts_rebuild (g : Group) (v : Nat) (p : List W32) : Acts (Act.within w) (rebuild g v p) :=
  acts_bind (acts_look _) (fun _ => acts_bind (acts_look _) (fun _ => acts_writeCopy hobjects hshard _ _ _ _ _))

end

end

end Sys2Proof.Machine
end

section
/-! SUPPORT. A module's part of a restore: its beginning, the copies taken, and what it is done with (R370, R371, R377). -/

namespace Sys2Proof.Machine

open Sys2Proof

/-- The collective engine apart from its buckets and from what a restore keeps. -/
def Coll.work (c : Coll) : Coll :=
  { c with runs := [], chunks := [], later := [], gradHeld := [], restoring := none, copies := [], restartReads := none, ownRestore := none, shardGen := [] }

/-- A module's part of a restore changes INEXACT alone of the status. -/
def workScope (objects groups : Bool) : Scope Coll where
  view := Coll.work
  flds := [Fl.COLL_STATUS_EPOCH, Fl.COLL_STATUS_ROLE, Fl.COLL_STATUS_HELD, Fl.COLL_STATUS_LOST, Fl.COLL_STATUS_FAILOVER, Fl.COLL_STATUS_RESTORED]
  status f hf := (runScope false).status f (by
    simp only [runScope, List.mem_cons, List.not_mem_nil, or_false] at hf ⊢
    tauto)
  objects := objects
  groups := groups
  queue := false

theorem Within.widen {o g o' g' : Bool} {s t : State} (h : Within (workScope o g) s t) (ho : o' = false → o = false) (hg : g' = false → g = false) : Within (workScope o' g') s t :=
  h.mono (fun _ _ h => h) (fun _ h => h) ho hg (fun _ => rfl)

/-- A piece before what two branches share. -/
theorem post_ite_then {α β : Type} {c : Prop} [Decidable c] {m n : M α} {r : α → M β} {s : State} {Q : β → State → Prop}
    (h : Post (if c then m else n) s (fun a t => Post (r a) t Q)) : Post (if c then m >>= r else n >>= r) s Q := by
  split
  · rw [if_pos ‹_›] at h
    exact post_bind h
  · rw [if_neg ‹_›] at h
    exact post_bind h

/-! The beginning. -/

/-- Nothing of the collective engine changes. -/
def stillScope : Scope Coll where
  view := id
  flds := []
  status := by simp
  objects := false
  groups := false
  queue := false

/-- The engine as a restore begins: its sums start anew. -/
def Coll.begun (r : Nat) (c : Coll) : Coll := { c with runs := [], chunks := [], later := [], gradHeld := [], restoring := some r, copies := [] }
def Upd.begun (u : Upd) : Upd := { u with present := [], closed := none, buckets := [], localCommits := [] }

theorem post_restoreBegin (r : Nat) {s : State} (hs : s.Inv) : Post (restoreBegin r) s (fun _ t => t.Inv ∧ Within (workScope false false) s t ∧ t.coll = s.coll.begun r) := by
  have hback : ∀ {κ : Type} {w : Scope κ} (lap : Bool), Acts (Act.within w) (mirrorBack r >>= fun _ => if lap = true ∧ r ≠ 0 then mirrorBack (r - 1) else pure ()) := fun _ =>
    acts_bind (acts_mirrorBack r) (fun _ => acts_when (fun _ => acts_mirrorBack (r - 1)))
  have o := composes_within (workScope false false)
  have h1 : Within (workScope false false) s ((Act.coll (Coll.begun r)).apply s) := Act.within.holds (fun _ => rfl) hs
  have hs1 := Act.apply_inv (.coll (Coll.begun r)) s hs
  have h2 : Within (workScope false false) _ ((Act.upd Upd.begun).apply ((Act.coll (Coll.begun r)).apply s)) := Act.within.holds (fun _ => ⟨.inr rfl, .inr (fun h => h)⟩) hs1
  have hs2 := Act.apply_inv (.upd Upd.begun) _ hs1
  have hreel : (Act.reel (fun x => { x with commits := [] })).within (workScope false false) := fun _ => ⟨rfl, .inr rfl⟩
  have hs3 := Act.apply_inv (.reel (fun x => { x with commits := [] })) _ hs2
  refine post_bind (post_act (post_bind (post_act (post_bind (post_act (post_bind (post_look ?_)))))))
  refine (Post.and (holds_within (w := workScope false false) (hback _) _ hs3) (holds_within (w := stillScope) (hback _) _ hs3)).mono (fun _ t ⟨⟨ht, h4⟩, _, h5⟩ => ⟨ht, ?_, h5.coll⟩)
  exact o.trans h1 (o.trans h2 (o.trans (hreel.holds hs2) h4))

/-! The copies. -/

theorem getElem?_modAt {α : Type} (l : List α) (n : Nat) (f : α → α) (i : Nat) : (modAt l n f)[i]? = if i = n then l[i]?.map f else l[i]? := by
  induction l generalizing n i with
  | nil => cases n <;> simp [modAt]
  | cons x t ih =>
    cases n with
    | zero => cases i <;> simp [modAt]
    | succ n => cases i <;> simp [modAt, ih]

theorem acts_restoreCopies {κ : Type} {w : Scope κ} (hgroups : w.groups = true) (hcopies : ∀ (c : Coll) (l : List RestoreCopy), w.view { c with copies := l } = w.view c)
    (r : Nat) (copies : List RestoreCopy) : Acts (Act.within w) (restoreCopies r copies) := by
  have hwrite : ∀ a rows cols ws, Acts (Act.within w) (tensorWrite a rows cols ws) := fun _ _ _ _ => acts_act trivial
  refine acts_bind (acts_act (fun c => hcopies c _)) (fun _ => acts_bind (acts_forIn _ _ (fun c _ _ => acts_bind (acts_look _) (fun g => acts_bind (hwrite _ _ _ _) (fun _ =>
    acts_bind (hwrite _ _ _ _) (fun _ => acts_when_then (fun _ => hwrite _ _ _ _) (fun _ => acts_bind (acts_act (fun _ => ⟨.inl hgroups, .inr (fun h => h)⟩)) (fun _ => acts_pure _))))))) (fun _ => acts_pure _))

theorem post_tensorWrite (a rows cols : Nat) (ws : List W32) (s : State) : Post (tensorWrite a rows cols ws) s (fun _ t => t.upd = s.upd) :=
  post_act (Act.apply_stands (p := .upd) (by simp [Act.kind, ActKind.changes]) s)

/-- A copy of step r is taken by its group. -/
theorem post_restoreCopies_one {r : Nat} {c : RestoreCopy} {g : Group} (hc : c.step = r) {s : State} (hg : s.upd.groups[c.group]? = some g) :
    Post (restoreCopies r [c]) s (fun _ t => t.upd.groups[c.group]? = some { g with step := r, bp1 := c.bp1, bp2 := c.bp2 }) := by
  refine post_bind (post_act (post_bind ?_))
  rw [List.filter_cons_of_pos (by simpa using hc), List.filter_nil, List.forIn_cons]
  have hgroup : ∀ {t : State}, t.upd.groups = s.upd.groups → Post (do
      modGroup c.group (fun g => { g with step := r, bp1 := c.bp1, bp2 := c.bp2 })
      pure (ForInStep.yield PUnit.unit)) t (fun x t => x = .yield PUnit.unit ∧ t.upd.groups[c.group]? = some { g with step := r, bp1 := c.bp1, bp2 := c.bp2 }) := fun {t} ht => by
    refine post_bind (post_act (post_pure ⟨rfl, ?_⟩))
    show (modAt t.upd.groups c.group _)[c.group]? = _
    rw [getElem?_modAt, if_pos rfl, ht, hg]
    rfl
  refine post_bind (post_bind (post_look (post_bind ((post_tensorWrite _ _ _ _ _).mono (fun _ t1 h1 => post_bind ((post_tensorWrite _ _ _ _ _).mono (fun _ t2 h2 => ?_)))))))
  refine post_when_then (Post.mono (R := fun _ t => t.upd = t2.upd) (post_ite (fun _ => post_tensorWrite _ _ _ _ _) (fun _ => post_pure rfl)) (fun _ t3 h3 => ?_))
  refine (hgroup (t := t3) (congrArg Upd.groups (h3.trans (h2.trans h1)))).mono ?_
  rintro _ t ⟨rfl, ht⟩
  exact post_pure (post_pure ht)

/-! What a module does once its groups stand at the step. -/

/-- Are the copies of version r − 1 re-encoded as well? -/
def State.restoreBoth (s : State) (r : Nat) : Bool := s.overlap && decide (r ≠ 0) && (s.olderCopies r).all (·.2.isSome) && !decide (s.coll.restartReads = some r)

/-- What the module's part has done when it is done. -/
structure PartDone (r : Nat) (s t : State) : Prop where
  inv : t.Inv
  within : Within (workScope true (decide (r = 0))) s t
  objects : ∀ (i : Nat) (o : Obj), s.reel.objects[i]? = some o → o.versioned = true → ∃ o' : Obj, t.reel.objects[i]? = some o' ∧ o'.verAt (r % 2) = r ∧
    (s.restoreBoth r = false → o'.verAt (1 - r % 2) = noVer)
  inexact : s.overlap = true → r ≠ 0 → s.restoreBoth r = false → t.fld Fl.COLL_STATUS_INEXACT = 1

section
variable {w : Scope Coll} (hobjects : w.objects = true) (hshard : ∀ (c : Coll) (l : List (Nat × Nat × Nat)), w.view { c with shardGen := l } = w.view c)
include hobjects hshard

theorem post_setVer (o place v : Nat) {s : State} (hs : s.Inv) : Post (setVer o place v) s (fun _ t => (t.Inv ∧ Within w s t) ∧ t.reel.objects = modAt s.reel.objects o (Obj.setVer place v)) := by
  have hset : Post (setVer o place v) s (fun _ t => t.reel.objects = modAt s.reel.objects o (Obj.setVer place v)) :=
    post_bind (post_look (post_bind (post_act (post_ite (fun _ => post_bind (post_look (post_act rfl))) (fun _ => post_pure rfl)))))
  exact Post.and (holds_within (acts_setVer hobjects hshard o place v) s hs) hset

/-- Both places of an object are set. -/
theorem post_setBoth (o r v : Nat) {s : State} (hs : s.Inv) : Post (setVer o (1 - r % 2) v >>= fun _ => setVer o (r % 2) r) s (fun _ t => t.Inv ∧ Within w s t ∧
    (∀ i, i ≠ o → t.reel.objects[i]? = s.reel.objects[i]?) ∧ ∀ x, s.reel.objects[o]? = some x → ∃ y : Obj, t.reel.objects[o]? = some y ∧ y.verAt (r % 2) = r ∧ y.verAt (1 - r % 2) = v) := by
  refine post_bind ((post_setVer hobjects hshard o (1 - r % 2) v hs).mono (fun _ t1 ⟨⟨ht1, h1⟩, ho1⟩ => (post_setVer hobjects hshard o (r % 2) r ht1).mono (fun _ t ⟨⟨ht, h2⟩, ho2⟩ =>
    ⟨ht, (composes_within w).trans h1 h2, fun i hi => ?_, fun x hx => ?_⟩)))
  · rw [ho2, getElem?_modAt, if_neg hi, ho1, getElem?_modAt, if_neg hi]
  · rw [ho2, getElem?_modAt, if_pos rfl, ho1, getElem?_modAt, if_pos rfl, hx]
    refine ⟨_, rfl, Obj.setVer_same _ _ _, ?_⟩
    rw [Obj.setVer_other _ _ (by omega), Obj.setVer_same]

end

/-- Of the objects in a list the places are set, and the others are of the kinds they were. -/
structure Versioning (w : Scope Coll) (r v : Nat) (s : State) (done : List Nat) (t : State) : Prop where
  inv : t.Inv
  within : Within w s t
  set : ∀ i ∈ done, ∀ o, s.reel.objects[i]? = some o → ∃ o' : Obj, t.reel.objects[i]? = some o' ∧ o'.verAt (r % 2) = r ∧ o'.verAt (1 - r % 2) = v

theorem exists_of_map_eq {α β : Type} {f : α → β} {l k : List α} (h : l.map f = k.map f) {i : Nat} {x : α} (hx : k[i]? = some x) : ∃ y, l[i]? = some y ∧ f y = f x := by
  have hi := congrArg (·[i]?) h
  simp only [List.getElem?_map, hx, Option.map_some] at hi
  exact Option.map_eq_some_iff.mp hi

theorem post_versions {w : Scope Coll} (hobjects : w.objects = true) (hshard : ∀ (c : Coll) (l : List (Nat × Nat × Nat)), w.view { c with shardGen := l } = w.view c)
    (r v : Nat) (l : List Nat) {s : State} (hs : s.Inv) : Post (forIn l PUnit.unit (fun o _ => do
      setVer o (1 - r % 2) v
      setVer o (r % 2) r
      pure (ForInStep.yield PUnit.unit))) s (fun _ t => Versioning w r v s l t) := by
  refine post_for_split (body := fun o => setVer o (1 - r % 2) v >>= fun _ => setVer o (r % 2) r) (Versioning w r v s) (fun pre o rest hl t h => ?_)
    ⟨hs, (composes_within w).refl s, fun _ => (nomatch ·)⟩
  refine (post_setBoth hobjects hshard o r v h.inv).mono (fun _ u ⟨hu, hw, hothers, hown⟩ => ⟨hu, (composes_within w).trans h.within hw, fun i hi x hx => ?_⟩)
  by_cases hio : i = o
  · subst hio
    obtain ⟨y, hy, -⟩ := exists_of_map_eq h.within.kinds hx
    exact hown y hy
  · rw [hothers i hio]
    exact h.set i ((List.mem_append.mp hi).resolve_right (by simpa using hio)) x hx

/-- The indices of the versioned objects. -/
theorem mem_versioned {l : List Obj} {i : Nat} {o : Obj} (h : l[i]? = some o) (hv : o.versioned = true) : i ∈ (l.zipIdx.filter (fun e => e.1.versioned)).map (·.2) :=
  List.mem_map.mpr ⟨(o, i), List.mem_filter.mpr ⟨List.mem_zipIdx_iff_getElem?.mpr h, hv⟩, rfl⟩

/-- A step that reads one version leaves the reproducibility statement, on the manager with an event. -/
theorem post_inexactEnd (own known : Bool) (r : Nat) {s : State} (hs : s.Inv) : Post (if own = true then (do
      setBit Fl.COLL_STATUS_INEXACT
      let mgr ← look (·.isManager)
      if mgr && !known then raise Ev.restoreInexact (srcUnit mColl) 0 (mkSlate r 0 0 0 0)) else pure ()) s
    (fun _ t => t.Inv ∧ Within (workScope false false) s t ∧ (own = true → t.fld Fl.COLL_STATUS_INEXACT = 1)) := by
  have o := composes_within (workScope false false)
  refine post_ite (fun _ => post_bind (Post.mono (post_setInexact (w := workScope false false) ?_ hs) (fun _ t1 ⟨ht1, h1, hx⟩ => post_bind (post_look ?_))))
    (fun hno => post_pure ⟨hs, o.refl s, fun h => absurd h hno⟩)
  · simp [workScope, Fld.apart, Fl.COLL_STATUS_EPOCH, Fl.COLL_STATUS_ROLE, Fl.COLL_STATUS_HELD, Fl.COLL_STATUS_INEXACT, Fl.COLL_STATUS_LOST, Fl.COLL_STATUS_FAILOVER, Fl.COLL_STATUS_RESTORED]
  · refine post_ite (fun _ => (holds_within (w := workScope false false) (acts_raise_within _ _ _ _) _ ht1).mono (fun _ t ⟨ht, h2⟩ => ?_)) (fun _ => post_pure ⟨ht1, h1, fun _ => hx⟩)
    exact ⟨ht, o.trans h1 h2, fun _ => h2.inexact hx⟩

theorem post_restoreHere (r : Nat) {s : State} (hs : s.Inv) : Post (restoreHere r) s (fun _ t => PartDone r s t) := by
  have o := composes_within (workScope true (decide (r = 0)))
  have hshard : ∀ (c : Coll) (l : List (Nat × Nat × Nat)), (workScope true (decide (r = 0))).view { c with shardGen := l } = (workScope true (decide (r = 0))).view c := fun _ _ => rfl
  have hrebuild : ∀ g v p, Acts (Act.within (workScope true (decide (r = 0)))) (rebuild g v p) := acts_rebuild rfl hshard
  refine post_bind (post_look (post_bind (post_look (post_bind (post_look ?_)))))
  have hloop : ∀ l : List (Group × Option RestoreCopy), Holds (Within (workScope true (decide (r = 0)))) (forIn l PUnit.unit (fun g _ => do
      match g.2 with
      | some c => rebuild g.1 (r - 1) c.p
      | none => pure ()
      pure (ForInStep.yield PUnit.unit))) := fun l => holds_within (acts_forIn _ _ (fun g _ _ => by
    obtain ⟨g, c⟩ := g
    cases c with
    | none => exact acts_pure _
    | some c => exact acts_bind (hrebuild _ _ _) (fun _ => acts_pure _)))
  refine post_ite_then (Post.mono (R := fun _ t => t.Inv ∧ Within (workScope true (decide (r = 0))) s t) ?_ (fun _ t1 ⟨ht1, h1⟩ => ?_))
  · refine post_ite (fun hr => post_act ⟨Act.apply_inv _ s hs, Act.within.holds (fun _ => ⟨.inl (by simp [workScope, hr]), .inr (fun h => h)⟩) hs⟩) (fun _ => ?_)
    exact holds_within (acts_forIn _ _ (fun g _ _ => acts_bind (acts_look _) (fun _ => acts_bind (hrebuild _ _ _) (fun _ => acts_pure _)))) s hs
  · refine post_when_then (Post.mono (R := fun _ t => t.Inv ∧ Within (workScope true (decide (r = 0))) s t) ?_ (fun _ t2 ⟨ht2, h2⟩ => ?_))
    · exact post_ite (fun _ => (hloop _ t1 ht1).mono (fun _ t2 ⟨ht2, h2⟩ => ⟨ht2, o.trans h1 h2⟩)) (fun _ => post_pure ⟨ht1, h1⟩)
    · refine post_bind (post_look (post_bind ((post_versions rfl hshard r _ _ ht2).mono (fun _ t3 h3 => post_bind (post_act ?_)))))
      have hact : (Act.coll (fun c => { c with restoring := none, copies := [], restartReads := if (s.overlap && decide (r ≠ 0) && !s.restoreBoth r) = true then some r else none })).within
        (workScope false false) := fun _ => rfl
      have h4 := hact.holds h3.inv
      refine (post_inexactEnd (s.overlap && decide (r ≠ 0) && !s.restoreBoth r) _ r (Act.apply_inv _ t3 h3.inv)).mono (fun _ u ⟨hu, h5, hx⟩ => ⟨hu, ?_, fun i x hx hv => ?_, fun hlap hr hboth => hx ?_⟩)
      · exact o.trans h2 (o.trans h3.within (((composes_within _).trans h4 h5).widen (fun h => by cases h) (fun _ => rfl)))
      · obtain ⟨y, hy, hkind⟩ := exists_of_map_eq h2.kinds hx
        obtain ⟨z, hz, hz1, hz2⟩ := h3.set i (mem_versioned hy (hkind.trans hv)) y hy
        refine ⟨z, ?_, hz1, fun hboth => hz2.trans (if_neg (Bool.eq_false_iff.mp hboth))⟩
        rw [h5.objects rfl]
        exact hz
      · rw [hlap, hboth, decide_eq_true hr]
        rfl

end Sys2Proof.Machine
end

section
/-! SUPPORT. A module's part of a restore as a whole, whoever manages, and the manager's own (R370, R371). -/

namespace Sys2Proof.Machine

open Sys2Proof

/-- A part of a restore, on the manager's module too, leaves who manages, that training is held and which modules are lost. -/
def ownScope (held : Bool) : Scope (Nat × Mgr) where
  view := Coll.seat
  flds := [Fl.COLL_STATUS_EPOCH, Fl.COLL_STATUS_ROLE, Fl.COLL_STATUS_HELD, Fl.COLL_STATUS_LOST, Fl.COLL_STATUS_FAILOVER]
  status f hf := (runScope held).status f (by
    simp only [runScope, List.mem_cons, List.not_mem_nil, or_false] at hf ⊢
    tauto)
  objects := true
  groups := true
  queue := !held

theorem seat_of_work (c d : Coll) (h : c.work = d.work) : c.seat = d.seat := by
  have hmanager : c.manager = d.manager := (congrArg Coll.manager h :)
  have hmgr : c.mgr = d.mgr := (congrArg Coll.mgr h :)
  rw [Coll.seat, Coll.seat, hmanager, hmgr]

theorem Within.own_of_seat {held : Bool} {s t : State} (h : Within (seatScope held) s t) : Within (ownScope held) s t :=
  h.mono (fun _ _ h => h) (by simp [ownScope, seatScope]) (fun h => by cases h) (fun h => by cases h) (fun hq => hq)

theorem Within.own_of_work {held o g : Bool} {s t : State} (h : Within (workScope o g) s t) : Within (ownScope held) s t :=
  h.mono seat_of_work (by simp [ownScope, workScope]) (fun h => by cases h) (fun h => by cases h) (fun _ => rfl)

theorem Within.held_work {o g : Bool} {s t : State} (h : Within (workScope o g) s t) : t.coll.mgr = s.coll.mgr := (congrArg Coll.mgr h.coll :)
theorem Within.manager_work {o g : Bool} {s t : State} (h : Within (workScope o g) s t) : t.coll.manager = s.coll.manager := (congrArg Coll.manager h.coll :)

theorem Within.overlap {κ : Type} {w : Scope κ} {s t : State} (h : Within w s t) : t.overlap = s.overlap := by
  have hj := congrArg (fun j : Option Job => (j.map (·.overlap)).getD false) h.job
  simp only [Option.map_map] at hj
  exact hj

/-- A module's part is due: its groups stand at the step, and no copy of the step before is waited for. -/
theorem restoreDue_of {s : State} {r : Nat} {told : Bool} (h : r = 0 ∨ (s.coll.rejoin = false ∧ ∀ g ∈ s.upd.groups, g.step = r ∧
    (told = true ∨ s.overlap = false ∨ s.coll.twinLost = true ∨ g.obj = 0xFFFF))) : s.restoreDue r told = true := by
  unfold State.restoreDue State.restoreReady
  rcases h with rfl | ⟨hrejoin, hgroups⟩
  · simp
  · have hready : (s.upd.groups.zipIdx.all fun g => decide (g.1.step = r) && (!s.coll.rejoin || s.coll.copies.any (fun c => decide (c.group = g.2 ∧ c.step = r)))) = true := by
      rw [List.all_eq_true]
      intro g hg
      obtain ⟨hstep, -⟩ := hgroups g.1 (List.fst_mem_of_mem_zipIdx hg)
      simp [hstep, hrejoin]
    rw [hready, Bool.or_true, Bool.true_and]
    by_cases htold : told = true
    · simp [htold]
    · by_cases hlap : s.overlap = false
      · simp [hlap]
      · by_cases htwin : s.coll.twinLost = true
        · simp [htwin]
        · have hnone : s.olderCopies r = [] := by
            unfold State.olderCopies
            rw [List.map_eq_nil_iff, List.filter_eq_nil_iff]
            intro g hg
            obtain ⟨-, hobj⟩ := hgroups g.1 (List.fst_mem_of_mem_zipIdx hg)
            simpa [htold, hlap, htwin] using hobj
          simp [hnone]

/-- The report of a part that is done: to the manager itself, or by a message. -/
theorem post_partReport (r : Nat) {s : State} (hs : s.Inv) : Post (do
      let me ← look (·.me)
      let mgr ← look (·.coll.manager)
      if mgr = me then mgrReport (.restored me r) else sendMsg mgr 0xE 0 (leBytes 4 r)) s
    (fun _ t => t.Inv ∧ Within (seatScope s.coll.mgr.held) s t ∧ (s.coll.manager ≠ s.me → sentMsg s t s.coll.manager 0xE 0 (leBytes 4 r))) := by
  refine post_bind (post_look (post_bind (post_look (post_ite (fun hme => ?_) (fun _ => ?_)))))
  · exact (post_report _ r hs).mono (fun _ t ⟨ht, h⟩ => ⟨ht, h, fun hne => absurd hme hne⟩)
  · exact (post_sendMsg hs _ _ _ _).mono (fun _ t ⟨h, hmsg⟩ => ⟨h.inv, h.within (fun c d h => seat_of_office c d (office_unnumbered c d h)), fun _ => hmsg⟩)

/-- A part that is due is done and reported. -/
theorem post_restoreTry_due {r : Nat} {told : Bool} {s : State} (hs : s.Inv) (hr : s.coll.restoring = some r) (hdue : s.restoreDue r told = true) : Post (restoreTry told) s (fun _ t =>
    t.Inv ∧ ∃ u, PartDone r s u ∧ Within (seatScope s.coll.mgr.held) u t ∧ (s.coll.manager ≠ s.me → sentMsg u t s.coll.manager 0xE 0 (leBytes 4 r))) := by
  refine post_bind (post_look ?_)
  rw [hr]
  refine post_bind (post_look ?_)
  rw [if_pos hdue]
  refine post_bind ((post_restoreHere r hs).mono (fun _ u h1 => (post_partReport r h1.inv).mono (fun _ t ⟨ht, h2, hmsg⟩ => ⟨ht, u, h1, ?_, fun hne => ?_⟩)))
  · rwa [h1.within.held_work] at h2
  · rw [h1.within.manager_work, h1.within.me] at hmsg
    exact hmsg hne

theorem post_restoreTry_not {r : Nat} {told : Bool} {s : State} (hr : s.coll.restoring = some r) (hdue : s.restoreDue r told = false) : Post (restoreTry told) s (fun _ t => t = s) := by
  refine post_bind (post_look ?_)
  rw [hr]
  refine post_bind (post_look ?_)
  rw [if_neg (by simp [hdue])]
  exact post_pure rfl

theorem post_restoreTry (told : Bool) {s : State} (hs : s.Inv) : Post (restoreTry told) s (fun _ t => t.Inv ∧ Within (ownScope s.coll.mgr.held) s t) := by
  have o := composes_within (ownScope s.coll.mgr.held)
  cases hr : s.coll.restoring with
  | none =>
    refine post_bind (post_look ?_)
    rw [hr]
    exact post_pure ⟨hs, o.refl s⟩
  | some r =>
    cases hdue : s.restoreDue r told with
    | true => exact (post_restoreTry_due hs hr hdue).mono (fun _ t ⟨ht, u, h1, h2, _⟩ => ⟨ht, o.trans h1.within.own_of_work h2.own_of_seat⟩)
    | false =>
      refine (post_restoreTry_not hr hdue).mono ?_
      rintro _ t rfl
      exact ⟨hs, o.refl t⟩

/-- The manager's own part of a restore. -/
theorem post_mgrOwn {s : State} (hs : s.Inv) : Post mgrOwn s (fun _ t => t.Inv ∧ Within (ownScope s.coll.mgr.held) s t) := by
  have o := composes_within (ownScope s.coll.mgr.held)
  refine post_bind (post_look ?_)
  cases s.coll.ownRestore with
  | none => exact post_pure ⟨hs, o.refl s⟩
  | some r =>
    have hact : (Act.coll (fun c => { c with ownRestore := none })).within (workScope false false) := fun _ => rfl
    have h1 := hact.holds hs
    refine post_bind (post_act (post_bind ((post_restoreBegin r (Act.apply_inv _ s hs)).mono (fun _ t ⟨ht, h2, _⟩ => (post_restoreTry false ht).mono (fun _ u ⟨hu, h3⟩ => ⟨hu, ?_⟩)))))
    have h12 := (composes_within _).trans h1 h2
    rw [h12.held_work] at h3
    exact o.trans h12.own_of_work h3

end Sys2Proof.Machine
end

section
/-! SUPPORT. RESTORE and RESTORED as they reach a module (R370, R371). -/

namespace Sys2Proof.Machine

open Sys2Proof

/-! A message that the module hears. -/

/-- The sender of a message is heard. -/
def Coll.hear (module now : Nat) (c : Coll) : Coll := { c with heard := (module, now) :: c.heard.filter (fun h => decide (h.1 ≠ module)) }
def State.hear (s : State) (m : Msg) : State := (Act.coll (Coll.hear m.module s.time)).apply s

theorem hear_inv {s : State} (hs : s.Inv) (m : Msg) : (s.hear m).Inv := Act.apply_inv _ s hs

theorem msgBadPhase_of_phasesOk {m : Msg} (h : phasesOk m) : msgBadPhase m = false := by
  obtain ⟨h1, h2⟩ := h
  unfold msgBadPhase
  rw [Bool.or_eq_false_iff, Bool.and_eq_false_iff, decide_eq_false_iff_not, decide_eq_false_iff_not, decide_eq_false_iff_not]
  refine ⟨by omega, ?_⟩
  by_cases ht : m.type = 5
  · exact .inr (by have := h2 ht; omega)
  · exact .inl ht

theorem post_withMsg {s : State} {m : Msg} (h : hears s m) {k : M Unit} {Q : Unit → State → Prop} (hk : Post k (s.hear m) Q) : Post (withMsg m k) s Q := by
  obtain ⟨hrun, hepoch, hphase⟩ := h
  refine post_bind (post_getFld ?_)
  rw [if_neg (by simp [msgBadPhase_of_phasesOk hphase]), if_pos hrun]
  refine post_bind (post_getFld ?_)
  rw [if_neg (fun hc => absurd hc.1 (Nat.not_lt.mpr hepoch))]
  exact post_bind (post_look (post_bind (post_act hk)))

theorem post_asManager {s : State} (h : s.isManager = true) {k : M Unit} {Q : Unit → State → Prop} (hk : Post k s Q) : Post (asManager k) s Q := by
  refine post_bind (post_look ?_)
  rw [if_pos h]
  exact hk

/-! The beginning of a restore by a message. -/

theorem epoch_covered : Fl.COLL_STATUS_EPOCH.covered = true := by decide +kernel

/-- The weight objects, the groups, the job and the states of the flows stand. -/
def plainScope (groups : Bool) : Scope Unit where
  view _ := ()
  flds := []
  status := by simp
  objects := false
  groups := groups
  queue := false

/-- A restore that has begun by a message. -/
structure Begun (r e manager : Nat) (s t : State) : Prop where
  inv : t.Inv
  within : Within (plainScope false) s t
  coll : t.coll = Coll.begun r { s.coll with manager := manager, restartReads := none }
  epoch : t.fld Fl.COLL_STATUS_EPOCH = e % 256

theorem Within.plain {κ : Type} {w : Scope κ} {g : Bool} {s t : State} (h : Within w s t) (ho : w.objects = false) (hg : g = false → w.groups = false) (hq : w.queue = false) : Within (plainScope g) s t :=
  h.mono (fun _ _ _ => rfl) (by simp [plainScope]) (fun _ => ho) hg (fun _ => hq)

theorem holds_setEpoch {κ : Type} {w : Scope κ} (hapart : ∀ g ∈ w.flds, 0 < g.width ∧ Fl.COLL_STATUS_EPOCH.apart g) (e : Nat) : Holds (Within w) (setFld Fl.COLL_STATUS_EPOCH e) :=
  holds_setStatus (by decide) (by decide) rfl hapart (by simp [Fld.apart, Fl.COLL_STATUS_EPOCH, Fl.COLL_STATUS_INEXACT]) e

theorem post_setEpoch {κ : Type} {w : Scope κ} (hapart : ∀ g ∈ w.flds, 0 < g.width ∧ Fl.COLL_STATUS_EPOCH.apart g) (e : Nat) {s : State} (hs : s.Inv) :
    Post (setFld Fl.COLL_STATUS_EPOCH e) s (fun _ t => (t.Inv ∧ Within w s t) ∧ t.coll = s.coll ∧ t.fld Fl.COLL_STATUS_EPOCH = e % 256) := by
  have hset : Post (setFld Fl.COLL_STATUS_EPOCH e) s (fun _ t => t.coll = s.coll ∧ t.fld Fl.COLL_STATUS_EPOCH = e % 256) := (does_setFld _ _ s).post ⟨rfl, hs.fld_setFld epoch_covered e⟩
  exact (holds_setEpoch hapart e s hs).and hset

theorem post_begun (r e manager : Nat) {s : State} (hs : s.Inv) : Post (do
      setFld Fl.COLL_STATUS_EPOCH e
      act (.coll (fun c => { c with manager := manager, restartReads := none }))
      restoreBegin r) s (fun _ t => Begun r e manager s t) := by
  refine post_bind ((post_setEpoch (w := plainScope false) (by simp [plainScope]) e hs).mono (fun _ t1 ⟨⟨ht1, h1⟩, hcoll, hepoch⟩ => post_bind (post_act ?_)))
  have hact : (Act.coll (fun c => { c with manager := manager, restartReads := none })).within (plainScope false) := fun _ => rfl
  refine (post_restoreBegin r (Act.apply_inv _ t1 ht1)).mono (fun _ t ⟨ht, h3, hcoll3⟩ => ⟨ht, ?_, ?_, ?_⟩)
  · have o := composes_within (plainScope false)
    exact o.trans h1 (o.trans (hact.holds ht1) (h3.plain rfl (fun _ => rfl) rfl))
  · rw [hcoll3, ← hcoll]
    rfl
  · rw [h3.status _ (by simp [workScope])]
    exact hepoch

/-- A restore in work, or one that begins. -/
theorem post_head (r e manager : Nat) (k : M Unit) {s : State} {Q : Unit → State → Prop} (hold : s.coll.restoring = some r → Post k s Q)
    (hnew : s.coll.restoring ≠ some r → Post (do
      setFld Fl.COLL_STATUS_EPOCH e
      act (.coll (fun c => { c with manager := manager, restartReads := none }))
      restoreBegin r) s (fun _ t => Post k t Q)) :
    Post (do
      let now ← look (·.coll.restoring)
      if now ≠ some r then
        setFld Fl.COLL_STATUS_EPOCH e
        act (.coll (fun c => { c with manager := manager, restartReads := none }))
        restoreBegin r
      k) s Q := by
  refine post_bind (post_look ?_)
  by_cases h : s.coll.restoring = some r
  · rw [if_neg (by simp [h])]
    exact hold h
  · rw [if_pos h]
    exact post_bind (m := (do
      setFld Fl.COLL_STATUS_EPOCH e
      act (.coll (fun c => { c with manager := manager, restartReads := none }))
      restoreBegin r)) (hnew h)

theorem post_restoreCopies_nil (r : Nat) (s : State) : Post (restoreCopies r []) s (fun _ t => t = s) := by
  refine post_bind (post_act (post_bind (post_pure (post_pure ?_))))
  show { s with coll := { s.coll with copies := s.coll.copies ++ [] } } = s
  rw [List.append_nil]

/-! RESTORE. -/

/-- The step whose restore is in work stands, the groups may change. -/
def restoringScope : Scope (Option Nat) where
  view := Coll.restoring
  flds := []
  status := by simp
  objects := false
  groups := true
  queue := false

section
variable {s : State} (hs : s.Inv) {m : Msg} (h : hears s m)
include hs h

/-- A RESTORE whose copies are none and whose groups stand at the step is the module's whole part. -/
theorem restore_done (hepoch : m.epoch < 256) (hnew : s.coll.restoring ≠ some (leAt m.arg 0 4))
    (hgroups : leAt m.arg 0 4 = 0 ∨ (s.coll.rejoin = false ∧ ∀ g ∈ s.upd.groups, g.step = leAt m.arg 0 4)) : Completes (.restore m []) s (fun t =>
      let r := leAt m.arg 0 4
      t.coll.manager = m.module ∧ t.fld Fl.COLL_STATUS_EPOCH = m.epoch ∧
      (s.me ≠ m.module → (s.flow (4032 + m.module)).state = 1 → ∃ x ∈ (t.flow (4032 + m.module)).tx, x.sent = none ∧ x.pkt.op = opMgmt ∧
        x.pkt.payload = msgBytes ⟨0xE, m.epoch, s.me, seqTo s m.module, 0, leBytes 4 r⟩) ∧
      (s.overlap = true → r ≠ 0 → (∃ g ∈ s.upd.groups, g.obj ≠ 0xFFFF) → t.fld Fl.COLL_STATUS_INEXACT = 1) ∧
      ∀ (i : Nat) (o : Obj), s.reel.objects[i]? = some o → o.versioned = true → ∃ o' : Obj, t.reel.objects[i]? = some o' ∧ o'.verAt (r % 2) = r ∧
        (s.overlap = false ∨ r = 0 ∨ (∃ g ∈ s.upd.groups, g.obj ≠ 0xFFFF) → o'.verAt (1 - r % 2) = noVer)) := by
  generalize hr : leAt m.arg 0 4 = r at hnew hgroups
  refine Post.completes (m := onRestore m (some [])) (post_withMsg h ?_) rfl
  rw [hr]
  have hs0 := hear_inv hs m
  refine post_head r m.epoch m.module _ (fun hold => absurd hold hnew) (fun _ => (post_begun r m.epoch m.module hs0).mono (fun _ t h1 => ?_))
  refine post_bind ((post_restoreCopies_nil r t).mono ?_)
  rintro _ t rfl
  have hupd : t.upd.groups = s.upd.groups := h1.within.groups rfl
  have hlap : t.overlap = s.overlap := h1.within.overlap
  have hme : t.me = s.me := h1.within.me
  have hcopies : t.coll.copies = [] := (congrArg Coll.copies h1.coll :)
  have hmgr : t.coll.manager = m.module := (congrArg Coll.manager h1.coll :)
  have hdue : t.restoreDue r true = true := restoreDue_of (hgroups.imp id (fun ⟨hrejoin, hsteps⟩ =>
    ⟨(congrArg Coll.rejoin h1.coll :).trans hrejoin, fun g hg => ⟨hsteps g (hupd ▸ hg), .inl rfl⟩⟩))
  have hboth : s.overlap = false ∨ r = 0 ∨ (∃ g ∈ s.upd.groups, g.obj ≠ 0xFFFF) → t.restoreBoth r = false := fun hcase => by
    unfold State.restoreBoth
    rcases hcase with hlap0 | hr0 | ⟨g, hg, hobj⟩
    · rw [hlap, hlap0]
      rfl
    · simp [hr0]
    · have hnone : (t.olderCopies r).all (·.2.isSome) = false := by
        rw [List.all_eq_false]
        obtain ⟨i, hi⟩ := List.mem_iff_getElem?.mp (hupd.symm ▸ hg)
        refine ⟨(g, none), List.mem_map.mpr ⟨(g, i), List.mem_filter.mpr ⟨List.mem_zipIdx_iff_getElem?.mpr hi, by simpa using hobj⟩, ?_⟩, by simp⟩
        rw [hcopies]
        rfl
      simp [hnone]
  refine (post_restoreTry_due h1.inv (congrArg Coll.restoring h1.coll :) hdue).mono (fun _ u ⟨hu, v, hpart, hend, hmsg⟩ => ⟨?_, ?_, fun hne hactive => ?_, fun hlap1 hr1 hobj => ?_, fun i o hi hv => ?_⟩)
  · exact (congrArg Prod.fst hend.coll).trans (hpart.within.manager_work.trans hmgr)
  · rw [hend.status _ (by simp [seatScope]), hpart.within.status _ (by simp [workScope]), h1.epoch, Nat.mod_eq_of_lt hepoch]
  · rw [hmgr, hme] at hmsg
    have hstate : (v.flow (4032 + m.module)).state = 1 := (hpart.within.flow _).trans ((h1.within.flow _).trans hactive)
    obtain ⟨x, hx, hsent, hop, hpay⟩ := hmsg (Ne.symm hne) hstate
    have hseq : seqTo v m.module = seqTo s m.module := by
      have hv : v.coll.seq = t.coll.seq := (congrArg Coll.seq hpart.within.coll :)
      rw [seqTo, hv, h1.coll]
      rfl
    refine ⟨x, hx, hsent, hop, ?_⟩
    rw [hpay, hpart.within.status _ (by simp [workScope]), h1.epoch, Nat.mod_eq_of_lt hepoch, hpart.within.me, hme, hseq]
  · exact hend.inexact (hpart.inexact (hlap.trans hlap1) hr1 (hboth (.inr (.inr hobj))))
  · have hobjs : t.reel.objects = s.reel.objects := h1.within.objects rfl
    obtain ⟨o', ho', hver, hother⟩ := hpart.objects i o (by rw [hobjs, hi]) hv
    exact ⟨o', by rw [hend.objects rfl, ho'], hver, fun hcase => hother (hboth hcase)⟩

/-- One whose groups do not all stand at the step waits for copies. -/
theorem restore_waits (hne : leAt m.arg 0 4 ≠ 0) (hgroups : ∃ g ∈ s.upd.groups, g.step ≠ leAt m.arg 0 4) : Completes (.restore m []) s (fun t =>
      t.coll.restoring = some (leAt m.arg 0 4) ∧ t.reel.objects = s.reel.objects ∧ t.coll.mgr = s.coll.mgr) := by
  generalize hr : leAt m.arg 0 4 = r at hne hgroups
  refine Post.completes (m := onRestore m (some [])) (post_withMsg h ?_) rfl
  rw [hr]
  have hend : ∀ {t : State}, t.coll.restoring = some r → t.reel.objects = s.reel.objects → t.coll.mgr = s.coll.mgr → t.upd.groups = s.upd.groups →
      Post (restoreCopies r [] >>= fun _ => restoreTry true) t (fun _ u => u.coll.restoring = some r ∧ u.reel.objects = s.reel.objects ∧ u.coll.mgr = s.coll.mgr) := fun {t} h1 h2 h3 h4 => by
    refine post_bind ((post_restoreCopies_nil r t).mono ?_)
    rintro _ u rfl
    refine (post_restoreTry_not h1 ?_).mono ?_
    · obtain ⟨g, hg, hstep⟩ := hgroups
      have hready : u.restoreReady r = false := by
        unfold State.restoreReady
        rw [Bool.or_eq_false_iff, List.all_eq_false]
        obtain ⟨i, hi⟩ := List.mem_iff_getElem?.mp (h4.symm ▸ hg)
        exact ⟨by simpa using hne, (g, i), List.mem_zipIdx_iff_getElem?.mpr hi, by simp [hstep]⟩
      rw [State.restoreDue, hready]
      rfl
    · rintro _ v rfl
      exact ⟨h1, h2, h3⟩
  refine post_head r m.epoch m.module _ (fun hold => hend hold rfl rfl rfl) (fun _ => (post_begun r m.epoch m.module (hear_inv hs m)).mono (fun _ t h1 => ?_))
  exact hend (congrArg Coll.restoring h1.coll :) (h1.within.objects rfl) (congrArg Coll.mgr h1.coll :) (h1.within.groups rfl)

/-- A copy of the step is taken by its group, whatever follows. -/
theorem restore_takes {c : RestoreCopy} {g : Group} (hc : c.step = leAt m.arg 0 4) (hne : leAt m.arg 0 4 ≠ 0) (hg : s.upd.groups[c.group]? = some g) :
    Completes (.restore m [c]) s (fun t => t.upd.groups[c.group]? = some { g with step := leAt m.arg 0 4, bp1 := c.bp1, bp2 := c.bp2 }) := by
  generalize hr : leAt m.arg 0 4 = r at hc hne
  refine Post.completes (m := onRestore m (some [c])) (post_withMsg h ?_) rfl
  rw [hr]
  have hend : ∀ {t : State}, t.Inv → t.coll.restoring = some r → t.upd.groups = s.upd.groups →
      Post (restoreCopies r [c] >>= fun _ => restoreTry true) t (fun _ u => u.upd.groups[c.group]? = some { g with step := r, bp1 := c.bp1, bp2 := c.bp2 }) := fun {t} ht h1 h2 => by
    have hkeep : Holds (Within restoringScope) (restoreCopies r [c]) := holds_within (acts_restoreCopies rfl (fun _ _ => rfl) r [c])
    refine post_bind (((hkeep t ht).and (post_restoreCopies_one (g := g) hc (by rw [h2, hg]))).mono (fun _ u ⟨⟨hu, hwithin⟩, hgroup⟩ => ?_))
    have hrestoring : u.coll.restoring = some r := hwithin.coll.trans h1
    cases hdue : u.restoreDue r true with
    | true =>
      refine (post_restoreTry_due hu hrestoring hdue).mono (fun _ v ⟨_, x, hpart, hrep, _⟩ => ?_)
      rw [hrep.groups rfl, hpart.within.groups (by simp [workScope, hne]), hgroup]
    | false =>
      refine (post_restoreTry_not hrestoring hdue).mono ?_
      rintro _ v rfl
      exact hgroup
  have hs0 := hear_inv hs m
  refine post_head r m.epoch m.module _ (fun hold => hend hs0 hold rfl) (fun _ => (post_begun r m.epoch m.module hs0).mono (fun _ t h1 => ?_))
  exact hend h1.inv (congrArg Coll.restoring h1.coll :) (h1.within.groups rfl)

/-! RESTORED. -/

/-- The manager records a report that is new, and RESTORED follows the last. -/
theorem restored_recorded (hmanager : s.isManager = true) (hstandby : s.coll.mgr.standby = none) (hnew : s.coll.mgr.restored.contains m.module = false)
    (hfree : ∀ e ∈ s.coll.journal, e.2 ≠ .restored m.module (leAt m.arg 0 4)) : Completes (.restored m) s (fun t => t.coll.mgr.restored = s.coll.mgr.restored ++ [m.module] ∧
      ((∀ k < s.modules, k ∈ s.coll.mgr.restored ++ [m.module]) → t.fld Fl.COLL_STATUS_RESTORED = 1)) := by
  refine Post.completes (m := onRestored m) (post_withMsg h (post_asManager (s := s.hear m) hmanager ((post_report_alone (hear_inv hs m) hstandby hnew hfree).mono (fun _ t h1 => ?_)))) rfl
  have hlist : (s.hear m).coll.mgr.withRestored m.module = s.coll.mgr.restored ++ [m.module] := by
    show s.coll.mgr.withRestored m.module = _
    rw [Mgr.withRestored, if_neg (by rw [hnew]; decide)]
  refine ⟨h1.restored.trans hlist, fun hall => ?_⟩
  rw [h1.status, hlist, if_pos]
  exact List.all_eq_true.mpr (fun k hk => List.contains_iff_mem.mpr (hall k (List.mem_range.mp hk)))

end

end Sys2Proof.Machine
end

section
/-! SUPPORT. HOLD on a module (R369). -/

namespace Sys2Proof.Machine

open Sys2Proof

section
variable {κ : Type} {w : Scope κ}

theorem acts_book_within {α : Type} {n : Nat} {m : M α} (h : Acts (Act.book n) m) : Acts (Act.within w) m := h.mono (fun _ ha => ha.within)
theorem acts_undef_within {α : Type} {m : M α} (h : Acts Act.ofUndef m) : Acts (Act.within w) m := h.mono (fun _ ha => ha.within)

theorem acts_setTile {f : Fld} {n d : Nat} (hf : f.off = 0x10000000 + n * 0x10000 + d) (hd : d < 0x10000) (hne : d ≠ 0x100) (v : Nat) : Acts (Act.within w) (setFld f v) :=
  acts_setFld (fun v => tileReg_within hf hd hne v)

theorem acts_reelSync : Acts (Act.within w) reelSync :=
  acts_bind (acts_look _) (fun _ => acts_bind (acts_hub (acts_setFld_onHub (by decide) _)) (fun _ => acts_hub (acts_setFld_onHub (by decide) _)))

theorem acts_abandonTile (n : Nat) : Acts (Act.within w) (abandonTile n) :=
  acts_bind (acts_look _) (fun _ => acts_bind (acts_for _ (fun x _ => acts_undef_within (acts_abandonXfer x))) (fun _ => acts_bind (acts_act (fun _ => ⟨rfl, .inr rfl⟩)) (fun _ => acts_reelSync)))

theorem acts_abortTile (n : Nat) : Acts (Act.within w) (abortTile n) := by
  refine acts_bind (acts_getTile _) (fun t => acts_bind (acts_undef_within (acts_undefStopped n)) (fun _ => acts_bind (acts_book_within (acts_toneStart n)) (fun _ =>
    acts_bind (acts_modTile (fun _ h => h)) (fun _ => acts_bind (acts_setTile (d := 0x200) rfl (by decide) (by decide) _) (fun _ =>
      acts_bind (acts_setTile (d := 0x400) rfl (by decide) (by decide) _) (fun _ => acts_bind (acts_setTile (d := 0x504) rfl (by decide) (by decide) _) (fun _ =>
        acts_bind (acts_look _) (fun go => acts_when_then (fun _ => acts_setTile (d := 0x104) rfl (by decide) (by decide) _) (fun _ =>
          acts_bind (acts_book_within (acts_abortSamples n)) (fun _ => acts_when_then (fun _ => acts_act (fun _ => ⟨rfl, .inr rfl⟩)) (fun _ => acts_abandonTile n)))))))))))

section
variable (hbare : ∀ c d : Coll, c.bare = d.bare → w.view c = w.view d)
include hbare

/-- A tile stopped has RUN clear. -/
theorem post_tileStop (n : Nat) {s : State} (hs : s.Inv) : Post (tileStop n) s (fun _ t => t.Inv ∧ Within w s t ∧ t.fld (Fl.TILE_SEQ_CTRL_RUN n) = 0) := by
  have o := composes_within w
  have hstops : ∀ {α : Type} {m : M α}, Holds Stops m → Holds (Within w) m := fun h s hs => (h s hs).mono (fun _ _ ⟨ht, h⟩ => ⟨ht, h.within hbare⟩)
  have hrest : ∀ was : Nat, Holds (Within w) (do
      setFld (Fl.TILE_DSP_STATUS_BUSY n) 0
      modTile n (fun t => { t.discardQueued with wait := .none, failed := none, cueReached := false, wakeRun := false, health := [] })
      swapLeave n
      if was ≠ 0 then toneStart n
      let st ← getFld (Fl.TILE_SEQ_STATUS_STATE n)
      if st ≠ seqFault then setFld (Fl.TILE_SEQ_STATUS_STATE n) seqIdle) := fun was =>
    holds_bind o (hstops (holds_stop (acts_clearBusy n))) (fun _ => holds_bind o (holds_within (acts_modTile (fun _ h => h))) (fun _ =>
      holds_bind o (hstops (holds_stop (acts_swapLeave n))) (fun _ => holds_when_then o (fun _ => holds_within (acts_book_within (acts_toneStart n))) (fun _ => hstops (holds_setIdle n)))))
  have hbit : ((Fl.TILE_SEQ_CTRL_RUN n).put (s.reg (Fl.TILE_SEQ_CTRL_RUN n).off) 0).toNat.testBit 0 = false := by
    rw [testBit_put (show 0 < (Fl.TILE_SEQ_CTRL_RUN n).width from Nat.one_pos) (show 0 + 1 ≤ 32 by decide), if_pos ⟨Nat.zero_le _, Nat.one_pos⟩, Nat.zero_testBit]
  have hoff := run_of_bit hs (n := n) hbit
  have hact : (Act.reg (Fl.TILE_SEQ_CTRL_RUN n).off ((Fl.TILE_SEQ_CTRL_RUN n).put (s.reg (Fl.TILE_SEQ_CTRL_RUN n).off) 0)).within w :=
    ⟨ne_status_of_high (by rw [run_off]; omega), fun _ => hbit⟩
  refine post_bind (post_getFld (post_bind ((does_setFld _ _ s).post ?_)))
  exact (hrest _ _ (Act.apply_inv _ s hs)).mono (fun _ t ⟨ht, h⟩ => ⟨ht, o.trans (hact.holds hs) h, h.run n hoff⟩)

/-- What a HOLD does to a tile. -/
theorem post_holdTile (n : Nat) {s : State} (hs : s.Inv) : Post (do
      let t ← getTile n
      if t.take.isSome then
        abortTile n
        modTile n (fun t => { t with take := none, failed := none })
        setFld (Fl.TILE_SEQ_STATUS_TAKE_OPEN n) 0
      let run ← getFld (Fl.TILE_SEQ_CTRL_RUN n)
      if run = 1 then
        setFld (Fl.TILE_SEQ_STATUS_STATE n) seqIssuing
        tileStop n
      pure (ForInStep.yield PUnit.unit)) s (fun r t => r = .yield PUnit.unit ∧ t.Inv ∧ Within w s t ∧ (t.tile n).take = none ∧ t.fld (Fl.TILE_SEQ_CTRL_RUN n) = 0) := by
  have o := composes_within w
  refine post_bind (post_getTile ?_)
  refine post_when_then (m := (do
        abortTile n
        modTile n (fun t => { t with take := none, failed := none })
        setFld (Fl.TILE_SEQ_STATUS_TAKE_OPEN n) 0)) (Post.mono (R := fun _ t => t.Inv ∧ Within w s t ∧ (t.tile n).take = none) ?_ (fun _ t1 ⟨ht1, h1, htake⟩ => ?_))
  · refine post_ite (fun _ => post_bind ((holds_within (w := w) (acts_abortTile n) s hs).mono (fun _ t1 ⟨ht1, h1⟩ => post_bind (post_act ?_)))) (fun hno => post_pure ⟨hs, o.refl s, by simpa using hno⟩)
    have hact : (Act.tile n (fun t => { t with take := none, failed := none })).within w := fun _ _ => rfl
    have hs2 := Act.apply_inv (.tile n (fun t => { t with take := none, failed := none })) t1 ht1
    refine (holds_within (w := w) (acts_setTile (n := n) (d := 0x104) rfl (by decide) (by decide) _) _ hs2).mono (fun _ t ⟨ht, h3⟩ => ⟨ht, o.trans h1 (o.trans (hact.holds ht1) h3), h3.take n ?_⟩)
    rw [ht1.tile_apply_same]
  · refine post_bind (post_getFld (post_ite (fun _ => ?_) (fun hno => post_pure ⟨rfl, ht1, h1, htake, ?_⟩)))
    · refine post_bind ((holds_within (w := w) (acts_setTile (n := n) (d := 0x104) rfl (by decide) (by decide) _) _ ht1).mono (fun _ t2 ⟨ht2, h2⟩ =>
        post_bind ((post_tileStop hbare n ht2).mono (fun _ t ⟨ht, h3, hoff⟩ => post_pure ⟨rfl, ht, o.trans h1 (o.trans h2 h3), h3.take n (h2.take n htake), hoff⟩))))
    · have hlt : t1.fld (Fl.TILE_SEQ_CTRL_RUN n) < 2 ^ 1 := t1.fld_lt (f := Fl.TILE_SEQ_CTRL_RUN n) Nat.one_pos
      omega

end

end

/-! The whole of a HOLD. -/

theorem held_covered : Fl.COLL_STATUS_HELD.covered = true := by decide +kernel
theorem lost_covered : Fl.COLL_STATUS_LOST.covered = true := by decide +kernel

/-- The collective engine apart from its buckets and from what a HOLD notes of the twin. -/
def Coll.stilled (c : Coll) : Coll := { c.bare with twinLost := false }

/-- A HOLD changes HELD and LOST alone of the status. -/
def holdScope : Scope Coll where
  view := Coll.stilled
  flds := [Fl.COLL_STATUS_EPOCH, Fl.COLL_STATUS_ROLE, Fl.COLL_STATUS_FAILOVER]
  status f hf := (runScope false).status f (by
    simp only [runScope, List.mem_cons, List.not_mem_nil, or_false] at hf ⊢
    tauto)
  objects := false
  groups := false
  queue := false

theorem stilled_bare (c d : Coll) (h : c.bare = d.bare) : c.stilled = d.stilled := congrArg (fun c : Coll => { c with twinLost := false }) h

/-- The tiles in a list have no Take and do not run. -/
structure Quieted (s : State) (done : List Nat) (t : State) : Prop where
  inv : t.Inv
  within : Within holdScope s t
  off : ∀ n ∈ done, (t.tile n).take = none ∧ t.fld (Fl.TILE_SEQ_CTRL_RUN n) = 0

/-- The module holds, and what else stands. -/
structure Held (s t : State) : Prop where
  inv : t.Inv
  within : Within holdScope s t
  held : isHeld t

theorem acts_mirrorLost {κ : Type} {w : Scope κ} : Acts (Act.within w) mirrorLost :=
  acts_bind (acts_look _) (fun _ => acts_when (fun _ => acts_bind (acts_act (fun _ => ⟨.inr rfl, .inr (fun h => h)⟩)) (fun _ =>
    acts_bind (acts_hub (acts_setFld_onHub (by decide) _)) (fun _ => acts_raise_within _ _ _ _))))

theorem post_updDrop {s : State} (hs : s.Inv) : Post updDrop s (fun _ t => (t.Inv ∧ Within holdScope s t) ∧ t.upd.queue = []) := by
  have hkeep : Post updDrop s (fun _ t => t.Inv ∧ Within holdScope s t) := (holds_stop acts_updDrop s hs).mono (fun _ _ ⟨ht, h⟩ => ⟨ht, h.within stilled_bare⟩)
  have hempty : Post updDrop s (fun _ t => t.upd.queue = []) :=
    post_bind (post_act (post_bind ((does_setFld _ _ _).post (post_bind (post_look (post_ite (fun _ => (does_setFld _ _ _).post rfl) (fun _ => post_pure rfl)))))))
  exact hkeep.and hempty

/-- A module that holds goes on holding. -/
theorem isHeld.keep {κ : Type} {w : Scope κ} {s t : State} (h : isHeld s) (g : Within w s t) (hh : Fl.COLL_STATUS_HELD ∈ w.flds) (hl : Fl.COLL_STATUS_LOST ∈ w.flds) (hq : w.queue = false) : isHeld t := by
  obtain ⟨hheld, hlost, hqueue, hoff⟩ := h
  refine ⟨(g.status _ hh).trans hheld, (g.status _ hl).trans hlost, g.queue hq hqueue, fun n hn => ?_⟩
  obtain ⟨htake, hrun⟩ := hoff n hn
  exact ⟨g.take n htake, g.run n hrun⟩

/-- The marks of a hold. -/
theorem post_holdMarks {s : State} (hs : s.Inv) : Post (setBit Fl.COLL_STATUS_HELD >>= fun _ => setBit Fl.COLL_STATUS_LOST) s (fun _ t =>
    t.Inv ∧ Within holdScope s t ∧ t.fld Fl.COLL_STATUS_HELD = 1 ∧ t.fld Fl.COLL_STATUS_LOST = 1) := by
  have hheld : Holds (Within holdScope) (setBit Fl.COLL_STATUS_HELD) := holds_setStatus (by decide) (by decide) rfl (by
    simp [holdScope, Fld.apart, Fl.COLL_STATUS_EPOCH, Fl.COLL_STATUS_ROLE, Fl.COLL_STATUS_FAILOVER, Fl.COLL_STATUS_HELD]) (by simp [Fld.apart, Fl.COLL_STATUS_HELD, Fl.COLL_STATUS_INEXACT]) 1
  have hlost : Holds (Within holdScope) (setBit Fl.COLL_STATUS_LOST) := holds_setStatus (by decide) (by decide) rfl (by
    simp [holdScope, Fld.apart, Fl.COLL_STATUS_EPOCH, Fl.COLL_STATUS_ROLE, Fl.COLL_STATUS_FAILOVER, Fl.COLL_STATUS_LOST]) (by simp [Fld.apart, Fl.COLL_STATUS_LOST, Fl.COLL_STATUS_INEXACT]) 1
  have hset : Post (setBit Fl.COLL_STATUS_HELD >>= fun _ => setBit Fl.COLL_STATUS_LOST) s (fun _ t => t.fld Fl.COLL_STATUS_HELD = 1 ∧ t.fld Fl.COLL_STATUS_LOST = 1) := by
    refine post_bind ((does_setFld _ _ s).post ((does_setFld _ _ _).post ⟨?_, (Act.apply_inv _ s hs).fld_setFld lost_covered 1⟩))
    exact ((Act.apply_inv _ s hs).fld_setFld_apart (f := Fl.COLL_STATUS_LOST) (g := Fl.COLL_STATUS_HELD) Nat.one_pos (by decide) Nat.one_pos rfl
      (by simp [Fld.apart, Fl.COLL_STATUS_LOST, Fl.COLL_STATUS_HELD]) 1).trans (hs.fld_setFld held_covered 1)
  exact ((holds_bind (composes_within holdScope) hheld (fun _ => hlost) s hs).and hset).mono (fun _ t ⟨⟨ht, h⟩, h1⟩ => ⟨ht, h, h1⟩)

/-- The tiles one after another. -/
theorem Quieted.next {s t u : State} {done : List Nat} (h : Quieted s done t) {n : Nat} (hu : u.Inv) (g : Within holdScope t u) (hoff : (u.tile n).take = none ∧ u.fld (Fl.TILE_SEQ_CTRL_RUN n) = 0) :
    Quieted s (done ++ [n]) u where
  inv := hu
  within := (composes_within holdScope).trans h.within g
  off k hk := by
    rcases List.mem_append.mp hk with hk | hk
    · obtain ⟨htake, hrun⟩ := h.off k hk
      exact ⟨g.take k htake, g.run k hrun⟩
    · rw [List.mem_singleton.mp hk]
      exact hoff

theorem post_quiet {s : State} (hs : s.Inv) : Post (forIn (List.range 180) PUnit.unit (fun n _ => do
      let t ← getTile n
      if t.take.isSome then
        abortTile n
        modTile n (fun t => { t with take := none, failed := none })
        setFld (Fl.TILE_SEQ_STATUS_TAKE_OPEN n) 0
      let run ← getFld (Fl.TILE_SEQ_CTRL_RUN n)
      if run = 1 then
        setFld (Fl.TILE_SEQ_STATUS_STATE n) seqIssuing
        tileStop n
      pure (ForInStep.yield PUnit.unit))) s (fun _ t => Quieted s (List.range 180) t) := by
  refine post_forIn_split (Quieted s) (fun pre n rest hl t h => ?_) ⟨hs, (composes_within _).refl s, fun _ => (nomatch ·)⟩
  exact (post_holdTile stilled_bare n h.inv).mono (fun _ u ⟨hr, hu, g, hoff⟩ => ⟨hr, h.next hu g hoff⟩)

theorem post_holdHere (l : Nat) {s : State} (hs : s.Inv) : Post (holdHere l) s (fun _ t => Held s t) := by
  have o := composes_within holdScope
  unfold holdHere
  refine post_bind ((post_quiet hs).mono (fun _ t1 h1 => post_bind ((post_updDrop h1.inv).mono (fun _ t2 ⟨⟨ht2, h2⟩, hqueue⟩ => ?_))))
  refine post_bind (m := setBit Fl.COLL_STATUS_HELD >>= fun _ => setBit Fl.COLL_STATUS_LOST) ((post_holdMarks ht2).mono (fun _ t3 ⟨ht3, h3, hheld, hlost⟩ => ?_))
  have h13 := o.trans h1.within (o.trans h2 h3)
  have hdone : Held s t3 := ⟨ht3, h13, hheld, hlost, h3.queue rfl hqueue, fun n hn => by
    obtain ⟨htake, hrun⟩ := h1.off n (List.mem_range.mpr hn)
    exact ⟨h3.take n (h2.take n htake), h3.run n (h2.run n hrun)⟩⟩
  refine post_bind (post_look (post_ite (fun _ => post_bind (post_act ?_)) (fun _ => post_pure hdone)))
  have hact : ∀ {κ : Type} {w : Scope κ}, (∀ c : Coll, w.view { c with twinLost := true } = w.view c) → (Act.coll (fun x => { x with twinLost := true })).within w := fun h => h
  have hs4 := Act.apply_inv (.coll (fun x => { x with twinLost := true })) t3 ht3
  refine (Post.and (holds_within (w := holdScope) acts_mirrorLost _ hs4) (holds_within (w := seatScope true) acts_mirrorLost _ hs4)).mono (fun _ t ⟨⟨ht, h5⟩, _, h6⟩ => ?_)
  exact ⟨ht, o.trans h13 (o.trans ((hact (fun _ => rfl)).holds ht3) h5),
    isHeld.keep hdone.held ((composes_within _).trans ((hact (fun _ => rfl)).holds ht3) h6) (by simp [seatScope]) (by simp [seatScope]) rfl⟩

end Sys2Proof.Machine
end

section
/-! SUPPORT. A module lost, and the manager succeeded (R364, R366, R368, R369). -/

namespace Sys2Proof.Machine

open Sys2Proof

/-! A field of COLL_STATUS set. -/

def statusFlds : List Fld :=
  [Fl.COLL_STATUS_EPOCH, Fl.COLL_STATUS_ROLE, Fl.COLL_STATUS_HELD, Fl.COLL_STATUS_INEXACT, Fl.COLL_STATUS_LOST, Fl.COLL_STATUS_FAILOVER, Fl.COLL_STATUS_RESTORED]

theorem statusFlds_covered : statusFlds.all (fun f => f.covered && decide (f.off = Reg.COLL_STATUS)) = true := by decide +kernel

theorem covered_of_status {f : Fld} (hf : f ∈ statusFlds) : f.covered = true ∧ f.off = Reg.COLL_STATUS := by
  have h := List.all_eq_true.mp statusFlds_covered f hf
  rwa [Bool.and_eq_true, decide_eq_true_eq] at h

/-- One field of the status is set, and the others stand. -/
structure StatusSet (f : Fld) (v : Nat) (s t : State) : Prop where
  inv : t.Inv
  set : t.fld f = v % 2 ^ f.width
  others : ∀ g ∈ statusFlds, f.apart g → t.fld g = s.fld g
  reg : ∀ o, o ≠ Reg.COLL_STATUS → t.reg o = s.reg o
  rest : ∀ p, p ≠ StatePart.registers → p.stands s t

theorem post_setStatus {f : Fld} (hf : f ∈ statusFlds) (v : Nat) {s : State} (hs : s.Inv) : Post (setFld f v) s (fun _ t => StatusSet f v s t) := by
  obtain ⟨hcov, hoff⟩ := covered_of_status hf
  obtain ⟨hw, h32, -⟩ := Fld.covered_iff.mp hcov
  refine (does_setFld f v s).post ⟨Act.apply_inv _ s hs, hs.fld_setFld hcov v, fun g hg hapart => ?_, fun o ho => hs.reg_apply_reg_other _ (by rw [hoff]; exact ho), fun p hp => ?_⟩
  · obtain ⟨hcovg, hoffg⟩ := covered_of_status hg
    exact hs.fld_setFld_apart hw h32 (Fld.covered_iff.mp hcovg).1 (hoffg.trans hoff.symm) hapart v
  · exact Act.apply_stands (by simpa [Act.kind, ActKind.changes] using hp) s

theorem StatusSet.within {κ : Type} {w : Scope κ} {f : Fld} {v : Nat} {s t : State} (h : StatusSet f v s t) (hf : ∀ g ∈ w.flds, g ∈ statusFlds ∧ f.apart g) (hx : f.apart Fl.COLL_STATUS_INEXACT) : Within w s t := by
  have hcoll : t.coll = s.coll := h.rest .coll (by decide)
  have hjob : t.job = s.job := h.rest .job (by decide)
  have hreel : t.reel = s.reel := h.rest .reel (by decide)
  have hupd : t.upd = s.upd := h.rest .upd (by decide)
  have hnrt : t.nrt = s.nrt := h.rest .nrt (by decide)
  exact ⟨fun g hg => h.others g (hf g hg).1 (hf g hg).2, fun hx1 => (h.others _ (by simp [statusFlds]) hx).trans hx1,
    fun n hn => (State.fld_congr (h.reg _ (ne_status_of_high (by rw [run_off]; omega)))).trans hn, fun n hn => by rw [tile_congr (h.rest .tiles (by decide)), hn], by rw [hreel], fun _ => by rw [hreel],
    fun _ => by rw [hupd], fun _ hq => by rw [hupd, hq], by rw [hcoll], by rw [hjob], fun f => by rw [State.flow, State.flow, hnrt], [], Adds.of_eq (h.rest .events (by decide)).1⟩

/-! What stands while the manager deals with a loss. -/

/-- Who manages, whether training is held, which modules are lost. -/
def Coll.rule (c : Coll) : Nat × Bool × List Nat := (c.manager, c.mgr.held, c.mgr.lost)

def ruleScope (held : Bool) : Scope (Nat × Bool × List Nat) where
  view := Coll.rule
  flds := (ownScope held).flds
  status := (ownScope held).status
  objects := true
  groups := true
  queue := !held

/-- Who manages, the epoch, the role and whether the manager was succeeded. -/
def dutyScope : Scope Nat where
  view := Coll.manager
  flds := [Fl.COLL_STATUS_EPOCH, Fl.COLL_STATUS_ROLE, Fl.COLL_STATUS_FAILOVER]
  status := holdScope.status
  objects := true
  groups := true
  queue := true

theorem rule_of_seat (c d : Coll) (h : c.seat = d.seat) : c.rule = d.rule := congrArg (fun e : Nat × Mgr => (e.1, e.2.held, e.2.lost)) h

theorem Within.rule_of_own {held : Bool} {s t : State} (h : Within (ownScope held) s t) : Within (ruleScope held) s t :=
  h.mono rule_of_seat (fun _ h => h) (fun h => h) (fun h => h) (fun h => h)

theorem Within.duty_of_rule {held : Bool} {s t : State} (h : Within (ruleScope held) s t) : Within dutyScope s t :=
  h.mono (fun _ _ h => congrArg Prod.fst h) (by simp [ruleScope, ownScope, dutyScope]) (fun h => h) (fun h => h) (fun h => by cases h)

theorem Within.duty_of_hold {s t : State} (h : Within holdScope s t) : Within dutyScope s t :=
  h.mono (fun _ _ h => (congrArg Coll.manager h :)) (fun _ h => h) (fun _ => rfl) (fun _ => rfl) (fun _ => rfl)

theorem rule_unnumbered (c d : Coll) (h : c.unnumbered = d.unnumbered) : c.rule = d.rule := rule_of_seat c d (seat_of_office c d (office_unnumbered c d h))

theorem holds_nameStandby (held : Bool) (d : Nat) : Holds (Within (ruleScope held)) (nameStandby d) := by
  have o := composes_within (ruleScope held)
  exact holds_bind o (holds_within (acts_act (fun _ => rfl))) (fun _ => holds_bind o (holds_look o _) (fun _ => holds_sendAll rule_unnumbered _ _ _))

theorem holds_appointStandby (held : Bool) : Holds (Within (ruleScope held)) appointStandby := by
  have o := composes_within (ruleScope held)
  refine holds_bind o (holds_look o _) (fun d => holds_bind o (holds_within (acts_act (fun _ => rfl))) (fun _ => ?_))
  cases d with
  | none => exact holds_pure o _
  | some d =>
    refine holds_bind o (holds_look o _) (fun parts => holds_when_then o (fun _ => holds_nameStandby held d) (fun _ => holds_bind o (holds_forIn o _ _ (fun c _ _ => ?_)) (fun _ => holds_pure o _)))
    exact holds_bind o (holds_look o _) (fun _ => holds_bind o (holds_within (acts_act (fun _ => rfl))) (fun _ => holds_bind o (holds_sendMsg rule_unnumbered _ _ _ _) (fun _ => holds_pure o _)))

/-! A module lost. -/

/-- A loss dealt with: the module holds the job. -/
structure LossHeld (l : Nat) (s t : State) : Prop where
  inv : t.Inv
  isHeld : isHeld t
  held : t.coll.mgr.held = true
  lost : l ∈ t.coll.mgr.lost
  duty : Within dutyScope s t

theorem LossHeld.later {l : Nat} {s t u : State} (h : LossHeld l s t) (hu : u.Inv) (g : Within (ruleScope true) t u) : LossHeld l s u where
  inv := hu
  isHeld := isHeld.keep h.isHeld g (by simp [ruleScope, ownScope]) (by simp [ruleScope, ownScope]) rfl
  held := (congrArg (fun e : Nat × Bool × List Nat => e.2.1) g.coll).trans h.held
  lost := by
    have hlost : u.coll.mgr.lost = t.coll.mgr.lost := congrArg (fun e : Nat × Bool × List Nat => e.2.2) g.coll
    rw [hlost]
    exact h.lost
  duty := (composes_within _).trans h.duty g.duty_of_rule

/-- The record of a loss. -/
def Mgr.lose (l : Nat) (m : Mgr) : Mgr := { m with lost := if m.lost.contains l then m.lost else m.lost ++ [l] }

theorem mem_lose (l : Nat) (m : Mgr) : l ∈ (m.lose l).lost := by
  unfold Mgr.lose
  dsimp only
  split
  · exact List.contains_iff_mem.mp ‹_›
  · simp

/-- The manager holds the job. -/
theorem post_mgrAct_hold (l : Nat) {s : State} (hs : s.Inv) : Post (mgrAct (.hold l)) s (fun _ t => LossHeld l s t) := by
  have o := composes_within dutyScope
  have hact : (Act.coll (fun x => { x with mgr := (Change.hold l).record x.mgr })).within dutyScope := fun _ => rfl
  have hs1 := Act.apply_inv (.coll (fun x => { x with mgr := (Change.hold l).record x.mgr })) s hs
  refine post_bind (post_act (post_bind ((holds_sendAll (w := ruleScope false) rule_unnumbered _ _ _ _ hs1).mono (fun _ t1 ⟨ht1, h1⟩ => ?_))))
  refine (post_holdHere l ht1).mono (fun _ t ⟨ht, h2, hheld⟩ => ?_)
  have hmgr : t.coll.mgr = t1.coll.mgr := (congrArg Coll.mgr h2.coll :)
  refine ⟨ht, hheld, ?_, ?_, o.trans (hact.holds hs) (o.trans h1.duty_of_rule h2.duty_of_hold)⟩
  · rw [hmgr]
    exact congrArg (fun e : Nat × Bool × List Nat => e.2.1) h1.coll
  · have hlost : t1.coll.mgr.lost = (s.coll.mgr.lose l).lost := congrArg (fun e : Nat × Bool × List Nat => e.2.2) h1.coll
    rw [hmgr, hlost]
    exact mem_lose l _

/-- What the manager does of a loss once it is told of, where no change waits for a standby. -/
theorem post_lossTail (l : Nat) (standby : Bool) {s : State} (hs : s.Inv) (hnone : s.coll.mgr.standby = none) (hjournal : standby = true → s.coll.journal = []) :
    Post (do
      if standby then mgrFlush
      mgrChange (.hold l)
      if standby then appointStandby
      mgrRun 64
      mgrOwn) s (fun _ t => LossHeld l s t) := by
  refine post_when_then (Post.mono (R := fun _ t => t.Inv ∧ Within dutyScope s t ∧ t.coll.mgr.standby = none) ?_ (fun _ t1 ⟨ht1, h1, hnone1⟩ => ?_))
  · refine post_ite (fun hstandby => post_bind (post_look ?_)) (fun _ => post_pure ⟨hs, (composes_within _).refl s, hnone⟩)
    rw [hjournal hstandby]
    have hact : (Act.coll (fun x => { x with journal := [], mgr := { x.mgr with standby := none } })).within dutyScope := fun _ => rfl
    exact post_bind (post_act (post_bind (post_pure (post_pure ⟨Act.apply_inv _ s hs, hact.holds hs, rfl⟩))))
  · refine post_bind (Post.mono (R := fun _ t => LossHeld l t1 t) (post_bind (post_look ?_)) (fun _ t2 h2 => ?_))
    · rw [hnone1]
      exact post_mgrAct_hold l ht1
    · refine post_when_then (Post.mono (R := fun _ t => LossHeld l t1 t) ?_ (fun _ t3 h3 => ?_))
      · exact post_ite (fun _ => (holds_appointStandby true t2 h2.inv).mono (fun _ t3 ⟨ht3, h3⟩ => h2.later ht3 h3)) (fun _ => post_pure h2)
      · refine post_bind ((post_mgrRun 64 h3.inv).mono (fun _ t4 ⟨ht4, h4⟩ => ?_))
        rw [h3.held] at h4
        have h4 := h3.later ht4 h4.seat.own_of_seat.rule_of_own
        refine (post_mgrOwn h4.inv).mono (fun _ t ⟨ht, h5⟩ => ?_)
        rw [h4.held] at h5
        have h5 := h4.later ht h5.rule_of_own
        exact ⟨h5.inv, h5.isHeld, h5.held, h5.lost, (composes_within _).trans h1 h5.duty⟩

/-- A record is told of among the records that have joined. -/
def Records (s t : State) (e : Ev) (src : Nat × Nat) (detail : Nat) : Prop := ∃ l, Adds s t l ∧ (s.events.length < 4096 → ∃ x ∈ l, x.tells e src detail)

theorem Records.later {s t u : State} {e : Ev} {src : Nat × Nat} {detail : Nat} (h : Records s t e src detail) (g : ∃ l, Adds t u l) : Records s u e src detail := by
  obtain ⟨l, hl, htells⟩ := h
  obtain ⟨k, hk⟩ := g
  refine ⟨l ++ k, hl.trans hk, fun hroom => ?_⟩
  obtain ⟨x, hx, hx'⟩ := htells hroom
  exact ⟨x, List.mem_append_left _ hx, hx'⟩

theorem Records.told {s t : State} {e : Ev} {src : Nat × Nat} {detail : Nat} (h : Records s t e src detail) : s.Told t e src detail := by
  obtain ⟨l, hl, htells⟩ := h
  exact hl.told (fun hroom => htells (by omega))

/-- Records that join after a few others are told of as well. -/
theorem Records.told_after {s t u : State} {l : List Event} {e : Ev} {src : Nat × Nat} {detail : Nat} (h : Records t u e src detail) (hl : Adds s t l) (hlen : l.length ≤ 15) : s.Told u e src detail := by
  obtain ⟨k, hk, htells⟩ := h
  refine (hl.trans hk).told (fun hroom => ?_)
  obtain ⟨x, hx, hx'⟩ := htells (by rw [hl.length]; omega)
  exact ⟨x, List.mem_append_right _ hx, hx'⟩

theorem post_raise_records {s : State} (hs : s.Inv) (e : Ev) (src : Nat × Nat) (detail slate : Nat) : Post (raise e src detail slate) s (fun _ t =>
    Raised s t ∧ Records s t e src detail ∧ ∃ l, Adds s t l ∧ l.length ≤ 1) :=
  (post_raise s e src detail slate).mono (fun _ _ ⟨r, l, hadds, hlen, htells, _⟩ =>
    ⟨⟨r.inv hs, fun _ ho => r.raise_reg hs ho, fun p hp => r.raise_stands p hp, l, hadds⟩, ⟨l, hadds, htells⟩, l, hadds, hlen⟩)

/-- A loss, where no change waits for a standby. -/
theorem post_moduleLost (l : Nat) {s : State} (hs : s.Inv) (hnone : s.coll.mgr.standby = none) (hjournal : s.coll.fullTo = some l → s.coll.journal = []) :
    Post (moduleLost l) s (fun _ t => LossHeld l s t ∧ Records s t Ev.moduleLost (srcUnit mColl) l) := by
  refine post_bind (post_look (post_bind ((post_raise_records hs _ _ _ _).mono (fun _ t1 ⟨h1, hrec, _⟩ => post_bind (post_act ?_)))))
  have hcoll : t1.coll = s.coll := h1.rest .coll (by decide)
  have hact : (Act.coll (fun x => { x with mgr := Mgr.lose l x.mgr })).within dutyScope := fun _ => rfl
  have hs2 := Act.apply_inv (.coll (fun x => { x with mgr := Mgr.lose l x.mgr })) t1 h1.inv
  refine (post_lossTail l _ hs2 (by rw [← hnone, ← hcoll]; rfl) (fun hstandby => ?_)).mono (fun _ t h3 => ⟨⟨h3.inv, h3.isHeld, h3.held, h3.lost, ?_⟩, hrec.later ?_⟩)
  · have hfull : s.coll.fullTo = some l := by simpa [hnone] using hstandby
    exact (congrArg Coll.journal hcoll).trans (hjournal hfull)
  · have o := composes_within dutyScope
    exact o.trans h1.within (o.trans (hact.holds h1.inv) h3.duty)
  · exact h3.duty.events

end Sys2Proof.Machine
end

section
/-! HOLD, and a module lost to this one (R364, R366, R369). -/

namespace Sys2Proof.Machine

open Sys2Proof

theorem hold_holds {s : State} (hs : s.Inv) {m : Msg} (h : hears s m) : Completes (.hold m) s isHeld :=
  Post.completes (m := onHold m) (post_withMsg h ((post_holdHere _ (hear_inv hs m)).mono (fun _ _ g => g.held))) rfl

/-- The timeout of a module that is in the job and not lost before. -/
theorem post_lossTimeout {s : State} {l : Nat} (hrun : s.fld Fl.COLL_CTRL_RUN = 1) (hl : l < s.modules) (hme : l ≠ s.me) (hnew : s.coll.mgr.lost.contains l = false) {Q : State → Prop}
    (h1 : s.fld Fl.COLL_STATUS_ROLE = 1 → Post (moduleLost l) s (fun _ t => Q t))
    (h2 : s.fld Fl.COLL_STATUS_ROLE = 2 → l = s.coll.manager → Post failover s (fun _ t => Q t)) (hrole : s.fld Fl.COLL_STATUS_ROLE = 1 ∨ s.fld Fl.COLL_STATUS_ROLE = 2 ∧ l = s.coll.manager) :
    Completes (.moduleLossTimeout l) s Q := by
  refine Post.completes (m := getFld Fl.COLL_CTRL_RUN >>= _) ?_ rfl
  refine post_bind (post_getFld (post_bind (post_getFld (post_bind (post_look (post_bind (post_look (post_bind (post_look (post_bind (post_look ?_)))))))))))
  rw [if_pos ⟨hrun, hl, hme, by rw [hnew]; rfl⟩]
  rcases hrole with hrole | ⟨hrole, hmgr⟩
  · rw [if_pos hrole]
    exact h1 hrole
  · rw [if_neg (by omega), if_pos ⟨hrole, hmgr⟩]
    exact h2 hrole hmgr

theorem loss_holds {s : State} (hs : s.Inv) {l : Nat} (hrun : s.fld Fl.COLL_CTRL_RUN = 1) (hl : l < s.modules) (hme : l ≠ s.me) (hnew : s.coll.mgr.lost.contains l = false)
    (hrole : s.fld Fl.COLL_STATUS_ROLE = 1) (hnone : s.coll.mgr.standby = none) (hfull : s.coll.fullTo ≠ some l) : Completes (.moduleLossTimeout l) s (fun t =>
      isHeld t ∧ t.coll.mgr.held = true ∧ l ∈ t.coll.mgr.lost ∧ s.Told t Ev.moduleLost (srcUnit mColl) l) :=
  post_lossTimeout hrun hl hme hnew (fun _ => (post_moduleLost l hs hnone (fun h => absurd h hfull)).mono (fun _ _ ⟨h, hrec⟩ => ⟨h.isHeld, h.held, h.lost, hrec.told⟩))
    (fun h => by omega) (.inl hrole)

/-! The standby takes over. -/

/-- The standby as it becomes the manager. -/
def Coll.takeOver (me : Nat) (x : Coll) : Coll :=
  { x with
    manager := me, journal := [], standby := none
    mgr := { x.mgr with
      standby := none
      arrivals := x.mgr.arrivals ++ (x.arrived.map (fun e => (me, e.1, e.2))).filter (fun e => !x.mgr.arrivals.contains e) } }

/-- The standby is the manager, under the next epoch. -/
structure Succeeded (s t : State) : Prop where
  inv : t.Inv
  coll : t.coll = s.coll.takeOver s.me
  epoch : t.fld Fl.COLL_STATUS_EPOCH = (s.fld Fl.COLL_STATUS_EPOCH + 1) % 256
  role : t.fld Fl.COLL_STATUS_ROLE = 1
  failover : t.fld Fl.COLL_STATUS_FAILOVER = 1
  events : t.events = s.events

theorem post_succeed {s : State} (hs : s.Inv) : Post (do
      setFld Fl.COLL_STATUS_EPOCH (s.fld Fl.COLL_STATUS_EPOCH + 1)
      act (.coll (Coll.takeOver s.me))
      setFld Fl.COLL_STATUS_ROLE 1
      setBit Fl.COLL_STATUS_FAILOVER) s (fun _ t => Succeeded s t) := by
  refine post_bind ((post_setStatus (by simp [statusFlds]) _ hs).mono (fun _ t1 h1 => post_bind (post_act (post_bind ((post_setStatus (by simp [statusFlds]) _ (Act.apply_inv _ t1 h1.inv)).mono
    (fun _ t2 h2 => (post_setStatus (f := Fl.COLL_STATUS_FAILOVER) (by simp [statusFlds]) _ h2.inv).mono (fun _ t h3 => ?_)))))))
  have hcoll1 : t1.coll = s.coll := h1.rest .coll (by decide)
  have hcoll2 : t2.coll = _ := h2.rest .coll (by decide)
  have hcoll : t.coll = t2.coll := h3.rest .coll (by decide)
  refine ⟨h3.inv, ?_, ?_, ?_, h3.set, ?_⟩
  · rw [hcoll, hcoll2, ← hcoll1]
    rfl
  · rw [h3.others _ (by simp [statusFlds]) (by simp [Fld.apart, Fl.COLL_STATUS_EPOCH, Fl.COLL_STATUS_FAILOVER]),
      h2.others _ (by simp [statusFlds]) (by simp [Fld.apart, Fl.COLL_STATUS_EPOCH, Fl.COLL_STATUS_ROLE])]
    exact h1.set
  · rw [h3.others _ (by simp [statusFlds]) (by simp [Fld.apart, Fl.COLL_STATUS_ROLE, Fl.COLL_STATUS_FAILOVER]), h2.set]
    rfl
  · exact (h3.rest .events (by decide)).1.trans ((h2.rest .events (by decide)).1.trans (h1.rest .events (by decide)).1)

/-- Messages to every other module leave what each one leaves. -/
theorem post_sendAll (type slate : Nat) (arg : List Byte) {s : State} (hs : s.Inv) : Post (sendAll type slate arg) s (fun _ t => ∃ l, Posted l s t) :=
  post_bind (post_look (post_bind (post_look (post_bind ((post_for (fun _ t => ∃ l, Posted l s t) (fun _ d _ _ ⟨l, h⟩ => (post_sendMsg h.inv d type slate arg).mono (fun _ _ ⟨g, _⟩ => ⟨l ++ [d], h.trans g⟩))
    ⟨[], .refl hs⟩).mono (fun _ _ h => post_pure h))))))

theorem duty_unnumbered (c d : Coll) (h : c.unnumbered = d.unnumbered) : c.manager = d.manager := (congrArg Coll.manager h :)

theorem failover_succeeds {s : State} (hs : s.Inv) : Post failover s (fun _ t =>
      isHeld t ∧ t.fld Fl.COLL_STATUS_ROLE = 1 ∧ t.coll.manager = s.me ∧ t.fld Fl.COLL_STATUS_EPOCH = (s.fld Fl.COLL_STATUS_EPOCH + 1) % 256 ∧
      t.fld Fl.COLL_STATUS_FAILOVER = 1 ∧ s.coll.manager ∈ t.coll.mgr.lost ∧ s.Told t Ev.managerFailover (srcUnit mColl) 0 ∧ s.Told t Ev.moduleLost (srcUnit mColl) s.coll.manager) := by
  have o := composes_within dutyScope
  refine post_bind (post_look (post_bind (post_look (post_bind (post_getFld ?_)))))
  refine post_bind (m := (do
      setFld Fl.COLL_STATUS_EPOCH (s.fld Fl.COLL_STATUS_EPOCH + 1)
      act (.coll (Coll.takeOver s.me))
      setFld Fl.COLL_STATUS_ROLE 1
      setBit Fl.COLL_STATUS_FAILOVER)) ((post_succeed hs).mono (fun _ t1 h1 => ?_))
  refine post_bind ((post_sendAll _ _ _ h1.inv).mono (fun _ t2 ⟨l, h2⟩ => post_bind ((post_raise_records h2.inv _ _ _ _).mono (fun _ t3 ⟨h3, hrec, k, hk, hlen⟩ => ?_))))
  have hcoll3 : t3.coll = t2.coll := h3.rest .coll (by decide)
  have hmgr2 : t2.coll.mgr = t1.coll.mgr := (congrArg Coll.mgr h2.coll :)
  have hjournal2 : t2.coll.journal = t1.coll.journal := (congrArg Coll.journal h2.coll :)
  have hnone : t3.coll.mgr.standby = none := by
    rw [hcoll3, hmgr2, h1.coll]
    rfl
  have hempty : t3.coll.journal = [] := by
    rw [hcoll3, hjournal2, h1.coll]
    rfl
  refine post_bind ((post_moduleLost _ h3.inv hnone (fun _ => hempty)).mono (fun _ t4 ⟨h4, hrec4⟩ => (holds_appointStandby true t4 h4.inv).mono (fun _ t ⟨ht, h5⟩ => ?_)))
  have h45 := h4.later ht h5
  have hevents2 : t2.events = s.events := (h2.rest .events (by decide)).1.trans h1.events
  have hduty : Within dutyScope t1 t := o.trans (h2.within duty_unnumbered) (o.trans h3.within h45.duty)
  have hadds : Adds s t3 k := by rw [Adds, hk, hevents2]
  refine ⟨h45.isHeld, ?_, ?_, ?_, ?_, h45.lost, ?_, ?_⟩
  · exact (hduty.status _ (by simp [dutyScope])).trans h1.role
  · exact hduty.coll.trans (congrArg Coll.manager h1.coll)
  · exact (hduty.status _ (by simp [dutyScope])).trans h1.epoch
  · exact (hduty.status _ (by simp [dutyScope])).trans h1.failover
  · exact (hrec.later h45.duty.events).told_after (Adds.of_eq hevents2) (by simp)
  · exact (hrec4.later h5.events).told_after hadds (by omega)

theorem loss_succeeds {s : State} (hs : s.Inv) {l : Nat} (hrun : s.fld Fl.COLL_CTRL_RUN = 1) (hl : l < s.modules) (hme : l ≠ s.me) (hnew : s.coll.mgr.lost.contains l = false)
    (hrole : s.fld Fl.COLL_STATUS_ROLE = 2) (hmgr : l = s.coll.manager) : Completes (.moduleLossTimeout l) s (fun t =>
      isHeld t ∧ t.fld Fl.COLL_STATUS_ROLE = 1 ∧ t.coll.manager = s.me ∧ t.fld Fl.COLL_STATUS_EPOCH = (s.fld Fl.COLL_STATUS_EPOCH + 1) % 256 ∧
      t.fld Fl.COLL_STATUS_FAILOVER = 1 ∧ l ∈ t.coll.mgr.lost ∧ s.Told t Ev.managerFailover (srcUnit mColl) 0 ∧ s.Told t Ev.moduleLost (srcUnit mColl) l) := by
  refine post_lossTimeout hrun hl hme hnew (fun h => by omega) (fun _ _ => ?_) (.inr ⟨hrole, hmgr⟩)
  rw [hmgr]
  exact failover_succeeds hs

end Sys2Proof.Machine
end

section
/-! SUPPORT. The tiles set running, and START_JOB answered (R259, R346, R463). -/

namespace Sys2Proof.Machine

open Sys2Proof

/-- What the start of a tile and the answer to START_JOB leave: the status, the tiles' control registers, the collective engine and the job. -/
structure Launched (s t : State) : Prop where
  status : t.reg Reg.COLL_STATUS = s.reg Reg.COLL_STATUS
  ctrl : ∀ n, t.reg (Reg.TILE_SEQ_CTRL n) = s.reg (Reg.TILE_SEQ_CTRL n)
  coll : t.coll = s.coll
  job : t.job = s.job
  events : ∃ l, Adds s t l

theorem composes_launched : Composes Launched where
  refl s := ⟨rfl, fun _ => rfl, rfl, rfl, [], Adds.of_eq rfl⟩
  trans h g := by
    obtain ⟨l, hl⟩ := h.events
    obtain ⟨k, hk⟩ := g.events
    exact ⟨g.status.trans h.status, fun n => (g.ctrl n).trans (h.ctrl n), g.coll.trans h.coll, g.job.trans h.job, l ++ k, hl.trans hk⟩

def Act.launches : Act → Prop
  | .reg o _ => o ≠ Reg.COLL_STATUS ∧ seqCtrl o = false
  | .coll _ | .job _ | .dropEvents _ | .reset _ => False
  | _ => True

theorem seqCtrl_ctrl (n : Nat) : seqCtrl (Reg.TILE_SEQ_CTRL n) = true := seqCtrl_run n

theorem launched_of_leaves {a : Act} (h : ∀ p ∈ [StatePart.registers, .coll, .job, .events], p ∉ a.kind.changes) (s : State) : Launched s (a.apply s) :=
  ⟨reg_apply_of_leaves (h .registers (by decide)) s _, fun _ => reg_apply_of_leaves (h .registers (by decide)) s _, Act.apply_stands (h .coll (by decide)) s, Act.apply_stands (h .job (by decide)) s,
    [], Adds.of_eq (Act.apply_stands (h .events (by decide)) s).1⟩

theorem Act.launches.holds {a : Act} {s : State} (h : a.launches) (hs : s.Inv) : Launched s (a.apply s) := by
  cases a with
  | reg o v =>
    obtain ⟨ho, hc⟩ := h
    exact ⟨hs.reg_apply_reg_other v (Ne.symm ho), fun n => hs.reg_apply_reg_other v (fun heq => by simp [← heq, seqCtrl_ctrl] at hc), rfl, rfl, [], Adds.of_eq rfl⟩
  | event e =>
    have hq : ∀ o, hubReg o = false → ((Act.event e).apply s).reg o = s.reg o := fun o ho => addEvent_reg hs e (quiet_of_not_hubReg ho)
    exact ⟨hq _ (by decide), fun n => hq _ (hubReg_tile (by rw [Reg.TILE_SEQ_CTRL]; omega)), Act.apply_stands (p := .coll) (by simp [Act.kind, ActKind.changes]) s,
      Act.apply_stands (p := .job) (by simp [Act.kind, ActKind.changes]) s, addEvent_adds s e⟩
  | coll _ | job _ | dropEvents _ | reset _ => exact h.elim
  | _ => exact launched_of_leaves (fun p hp => by fin_cases hp <;> simp [Act.kind, ActKind.changes]) s

theorem holds_launched {α : Type} {m : M α} (h : Acts Act.launches m) : Holds Launched m := h.holds composes_launched (fun _ _ ha hs => ha.holds hs)

theorem hubReg_launches {o : Nat} (h : hubReg o = true) (v : W32) : (Act.reg o v).launches := by
  refine ⟨fun heq => ?_, ?_⟩
  · rw [heq] at h
    exact absurd h (by decide)
  · rw [← Bool.not_eq_true, seqCtrl_iff]
    intro hc
    rw [hubReg_tile hc.1] at h
    cases h

theorem Act.onHub.launches {a : Act} (h : a.onHub) : a.launches := by
  cases a with
  | reg o v => exact hubReg_launches h v
  | shadow _ _ | event _ | pwr _ | clk _ _ | free => trivial
  | _ => exact h.elim

theorem Act.book.launches {n : Nat} {a : Act} (h : a.book n) : a.launches := by
  cases a with
  | reg o _ =>
    have := bookReg_iff.mp h
    refine ⟨ne_status_of_high (by omega), ?_⟩
    rw [← Bool.not_eq_true, seqCtrl_iff]
    omega
  | tile _ _ | clk _ _ | pwr _ | free => trivial
  | _ => exact h.elim

theorem acts_hub_launches {α : Type} {m : M α} (h : Acts Act.onHub m) : Acts Act.launches m := h.mono (fun _ ha => ha.launches)

theorem tileReg_launches {o n d : Nat} (ho : o = 0x10000000 + n * 0x10000 + d) (hd : d < 0x10000) (hne : d ≠ 0x100) (v : W32) : (Act.reg o v).launches := by
  refine ⟨ne_status_of_high (by omega), ?_⟩
  rw [← Bool.not_eq_true, seqCtrl_iff]
  omega

/-! A tile starts. -/

theorem acts_tileStart (n : Nat) : Acts Act.launches (tileStart n) := by
  have hset : ∀ {f : Fld} {d v : Nat}, f.off = 0x10000000 + n * 0x10000 + d → d < 0x10000 → d ≠ 0x100 → Acts Act.launches (setFld f v) := fun hf hd hne => acts_setFld (fun v => tileReg_launches hf hd hne v)
  refine acts_bind ((acts_toneEnd n).mono (fun _ ha => ha.launches)) (fun _ => acts_bind (acts_bind (acts_look _) (fun _ => acts_when (fun _ => acts_bind (acts_act trivial) (fun _ => acts_hub_launches acts_swapSync)))) (fun _ =>
    acts_bind (acts_modTile trivial) (fun _ => acts_bind (acts_act trivial) (fun _ => acts_bind (acts_for _ (fun i hi => acts_setReg (tileReg_launches (d := 0x120 + i * 4) (by rw [Reg.TILE_SEQ_EC, Nat.add_assoc]) ?_ ?_ _))) (fun _ =>
      acts_bind (acts_bind (acts_setReg (tileReg_launches (d := 0x10C) rfl (by decide) (by decide) _)) (fun _ => acts_setReg (tileReg_launches (d := 0x110) rfl (by decide) (by decide) _))) (fun _ =>
        acts_bind (hset (d := 0x108) rfl (by decide) (by decide)) (fun _ => acts_bind (hset (d := 0x104) rfl (by decide) (by decide)) (fun _ => hset (d := 0x104) rfl (by decide) (by decide)))))))))
  all_goals
    have := List.mem_range.mp hi
    omega

theorem acts_clkStart {g : Nat} (hg : g < 16) : Acts Act.onHub (clkStart g) := by
  have hreg : hubReg (Reg.CLKG_GROUP g) = true := by
    rw [hubReg_iff, Reg.CLKG_GROUP]
    omega
  refine acts_bind (acts_look _) (fun _ => acts_when (fun _ => acts_bind (acts_setFld_onHub hreg _) (fun _ => acts_bind ?_ (fun _ => acts_matchSync))))
  exact acts_bind (acts_look _) (fun _ => acts_bind (acts_look _) (fun _ => acts_bind (acts_getFld _) (fun _ => acts_bind (acts_getFld _) (fun _ => acts_setFld_onHub hreg _))))

theorem acts_wakeTile (n : Nat) : Acts Act.launches (wakeTile n) := fun s => by
  refine post_bind (post_look ?_)
  have hp : s.physOf n < 2 ^ 8 := s.fld_lt (f := Fl.RAS_TILEMAP_PHYS n) (show 0 < 8 by decide)
  generalize s.physOf n = p at hp
  refine acts_bind (acts_look _) (fun st => acts_when_then (c := st = TilePower.off) (m := (do
      act (.undef (physBase p) tileBytes)
      let ks ← look (fun s => (s.poison0.filter (fun e => decide (e.1 / 32768 = p))).map (·.1))
      for k in ks do act (.poison0 k false)
      modTile n (fun t => { t with im := [], wakes := t.wakes + 1 }))) (fun _ => ?_) (fun _ => ?_)) s
  · exact acts_bind (acts_act trivial) (fun _ => acts_bind (acts_look _) (fun _ => acts_bind (acts_for _ (fun _ _ => acts_act trivial)) (fun _ => acts_modTile trivial)))
  · exact acts_when (fun _ => acts_bind (acts_act trivial) (fun _ => acts_hub_launches (acts_clkStart (by omega))))

theorem acts_tileRun (n : Nat) : Acts Act.launches (tileRun n) :=
  acts_bind (acts_look _) (fun _ => acts_ite (fun _ => acts_tileStart n) (fun _ => acts_bind (acts_wakeTile n) (fun _ => acts_modTile trivial)))

end Sys2Proof.Machine
end

section
/-! SUPPORT. START_JOB answered, and the job's tiles set running (R259, R346, R364). -/

namespace Sys2Proof.Machine

open Sys2Proof

/-! The completions of START_JOB. -/

theorem acts_tierWrite_launches (a : Nat) (bs : List Byte) : Acts Act.launches (tierWrite a bs) :=
  acts_bind (acts_look _) (fun _ => acts_ite (fun _ => acts_act trivial) (fun _ => acts_bind (acts_for _ (fun _ _ => acts_act trivial)) (fun _ =>
    acts_bind (acts_for _ (fun _ _ => acts_act trivial)) (fun _ => acts_pure _))))

theorem acts_modRing (f q : Nat) (g : HRing → HRing) : Acts Act.launches (modRing f q g) := acts_act trivial

theorem acts_hostPut (f a : Nat) (bs : List Byte) : Acts Act.launches (hostPut f a bs) := acts_bind (acts_act trivial) (fun _ => acts_act trivial)

theorem acts_msixSend (f v : Nat) : Acts Act.launches (msixSend f v) :=
  acts_bind (acts_look _) (fun _ => acts_bind (acts_look _) (fun _ => acts_ite (fun _ => acts_pure _) (fun _ => acts_ite (fun _ => acts_act trivial) (fun _ => acts_act trivial))))

theorem acts_ringSignal (f q : Nat) : Acts Act.launches (ringSignal f q) := acts_bind (acts_getFld _) (fun _ => acts_bind (acts_modRing _ _ _) (fun _ => acts_msixSend _ _))

theorem acts_cqSync {f q : Nat} (hf : f < 9) (hq : q < 4) : Acts Act.launches (cqSync f q) := by
  refine acts_bind (acts_look _) (fun _ => acts_bind (acts_setFld (fun v => hubReg_launches ?_ v)) (fun _ => acts_when (fun _ => acts_modRing _ _ _)))
  refine hubReg_iff.mpr (.inl ?_)
  show 0x101000 + f * 0x1000 + 0x9C + q * 0x20 < 0x800000
  omega

theorem acts_completeNow {f q : Nat} (hf : f < 9) (hq : q < 4) (c : HostCmd) (status : Nat) (result : List Byte) : Acts Act.launches (completeNow f q c status result) := by
  refine acts_bind (acts_look _) (fun r => acts_bind (acts_look _) (fun e => acts_bind (acts_hub_launches (acts_pmuHub onHubCounters_onHub)) (fun _ => acts_bind (acts_modRing _ _ _) (fun _ =>
    acts_ite (fun _ => ?_) (fun _ => ?_)))))
  · exact acts_bind (acts_look _) (fun _ => acts_bind (acts_look _) (fun _ => acts_when (fun _ => acts_bind (acts_tierWrite_launches _ _) (fun _ => acts_hub_launches (acts_byteTraffic_onHub _ _ _ _ _ _)))))
  · exact acts_bind (acts_look _) (fun _ => acts_bind (acts_look _) (fun _ => acts_bind (acts_hostPut _ _ _) (fun _ => acts_bind (acts_modRing _ _ _) (fun _ => acts_bind (acts_cqSync hf hq) (fun _ =>
      acts_bind (acts_getFld _) (fun _ => acts_when (fun _ => acts_ringSignal _ _)))))))

theorem acts_complete {f q : Nat} (hf : f < 9) (hq : q < 4) (status : Nat) (result : List Byte) : Acts Act.launches (complete f q status result) := by
  refine acts_bind (acts_look _) (fun r => acts_bind (acts_look _) (fun _ => ?_))
  cases r.cur with
  | none => exact acts_pure _
  | some c => exact acts_ite (fun _ => acts_pure _) (fun _ => acts_ite (fun _ => acts_modRing _ _ _) (fun _ => acts_completeNow hf hq _ _ _))

theorem startRings_lt {s : State} {x : Nat × Nat} (h : x ∈ s.startRings) : x.1 < 9 ∧ x.2 < 4 := by
  obtain ⟨f, hf, hx⟩ := List.mem_flatMap.mp h
  obtain ⟨q, hq, rfl⟩ := List.mem_map.mp hx
  exact ⟨List.mem_range.mp hf, List.mem_range.mp (List.mem_filter.mp hq).1⟩

theorem acts_startFinish (status : Nat) : Acts Act.launches (startFinish status) := fun s => by
  refine post_bind (post_look ?_)
  exact acts_bind (acts_look _) (fun _ => acts_for _ (fun x hx => acts_complete (startRings_lt hx).1 (startRings_lt hx).2 _ _)) s

/-! A start refused. -/

/-- The job is refused: it does not run, and COLL_CTRL.RUN is clear. -/
structure StartRefused (s t : State) : Prop where
  inv : t.Inv
  run : t.fld Fl.COLL_CTRL_RUN = 0
  idle : ∀ k, t.job = some k → k.running = false
  events : ∃ l, Adds s t l

theorem collRun_covered : Fl.COLL_CTRL_RUN.covered = true := by decide +kernel

theorem post_refuseStart {s : State} (hs : s.Inv) : Post refuseStart s (fun _ t => StartRefused s t) := by
  have o := composes_stops
  refine post_bind ((holds_launched (acts_startFinish 7) s hs).mono (fun _ t1 ⟨ht1, h1⟩ => post_bind ((post_stopJob _ ht1).mono (fun _ t2 ⟨ht2, h2, hidle⟩ => ?_))))
  refine post_bind ((holds_reelStop t2 ht2).mono (fun _ t3 ⟨ht3, h3⟩ => post_bind ((holds_stop acts_updStop t3 ht3).mono (fun _ t4 ⟨ht4, h4⟩ => ?_))))
  have h24 := o.trans h3 h4
  have h14 := o.trans h2 h24
  refine post_bind ((does_setFld _ _ t4).post (post_act ⟨?_, ?_, h24.idle hidle, ?_⟩))
  · exact Act.apply_inv _ _ (Act.apply_inv _ t4 ht4)
  · exact ht4.fld_setFld collRun_covered 0
  · obtain ⟨l, hl⟩ := h1.events
    obtain ⟨k, hk⟩ := h14.events
    exact ⟨l ++ k, hl.trans hk⟩

/-! The tiles set running. -/

/-- The hub's part of a job that starts. -/
def Coll.started (c : Coll) : Coll := { c with gens := [], arrived := [], drainedSent := [], updDoneSent := [], twinLost := false }

/-- The job's tiles have started. -/
structure JobStarted (s t : State) : Prop where
  inv : t.Inv
  held : t.fld Fl.COLL_STATUS_HELD = 0
  status : ∀ f ∈ statusFlds, Fl.COLL_STATUS_HELD.apart f → t.fld f = s.fld f
  coll : t.coll = s.coll.started
  job : ∀ j, s.runJob = some j → t.job = some { j with started := true } ∧ ∀ n < j.tiles, n < 180 → t.fld (Fl.TILE_SEQ_CTRL_RUN n) = 1

theorem run_covered {n : Nat} (hn : n < 180) : (Fl.TILE_SEQ_CTRL_RUN n).covered = true := by
  refine Fld.covered_iff.mpr ⟨Nat.one_pos, show 0 + 1 ≤ 32 by decide, fun i hi => ?_⟩
  have hi : i = 0 := Nat.lt_one_iff.mp hi
  subst hi
  show (implMask (Reg.TILE_SEQ_CTRL n)).testBit 0 = true
  rw [implMask_seqCtrl hn]
  rfl

/-- The tiles of a list run. -/
structure Running (s : State) (done : List Nat) (t : State) : Prop where
  inv : t.Inv
  status : t.reg Reg.COLL_STATUS = s.reg Reg.COLL_STATUS
  coll : t.coll = s.coll
  job : t.job = s.job
  run : ∀ n ∈ done, n < 180 → t.fld (Fl.TILE_SEQ_CTRL_RUN n) = 1

theorem Running.launched {s t u : State} {done : List Nat} (h : Running s done t) (hu : u.Inv) (g : Launched t u) : Running s done u where
  inv := hu
  status := g.status.trans h.status
  coll := g.coll.trans h.coll
  job := g.job.trans h.job
  run n hn h180 := (State.fld_congr (g.ctrl n)).trans (h.run n hn h180)

theorem Running.append {s t : State} {done : List Nat} (h : Running s done t) {n : Nat} (hn : n < 180 → t.fld (Fl.TILE_SEQ_CTRL_RUN n) = 1) : Running s (done ++ [n]) t where
  inv := h.inv
  status := h.status
  coll := h.coll
  job := h.job
  run k hk h180 := by
    rcases List.mem_append.mp hk with hk | hk
    · exact h.run k hk h180
    · rw [List.mem_singleton.mp hk] at h180 ⊢
      exact hn h180

/-- RUN of another tile stands while one is set. -/
theorem Running.set {s t : State} {done : List Nat} (h : Running s done t) {n : Nat} {v : W32} (hset : n < 180 → ((Act.reg (Reg.TILE_SEQ_CTRL n) v).apply t).fld (Fl.TILE_SEQ_CTRL_RUN n) = 1) :
    Running s (done ++ [n]) ((Act.reg (Reg.TILE_SEQ_CTRL n) v).apply t) := by
  refine Running.append (t := (Act.reg (Reg.TILE_SEQ_CTRL n) v).apply t) ⟨Act.apply_inv _ t h.inv, ?_, h.coll, h.job, fun k hk h180 => ?_⟩ hset
  · exact (h.inv.reg_apply_reg_other _ (Ne.symm (ne_status_of_high (by rw [Reg.TILE_SEQ_CTRL]; omega)))).trans h.status
  · by_cases hkn : k = n
    · rw [hkn] at h180 ⊢
      exact hset h180
    · refine (h.inv.fld_apply_reg_other (g := Fl.TILE_SEQ_CTRL_RUN k) ?_ _).trans (h.run k hk h180)
      rw [run_off, Reg.TILE_SEQ_CTRL]
      omega

theorem job_of_runJob {s : State} {j : Job} (h : s.runJob = some j) : s.job = some j := by
  obtain ⟨k, hk, hif⟩ := Option.bind_eq_some_iff.mp h
  rw [hk, (Option.ite_none_right_eq_some.mp hif).2]

theorem post_startTiles (l : List Nat) {s : State} (hs : s.Inv) : Post (forIn l PUnit.unit (fun n _ => do
      let run ← getFld (Fl.TILE_SEQ_CTRL_RUN n)
      if run = 0 then
        setFld (Fl.TILE_SEQ_CTRL_RUN n) 1
        tileRun n
      pure (ForInStep.yield PUnit.unit))) s (fun _ t => Running s l t) := by
  refine post_forIn_split (Running s) (fun pre n rest hl t h => ?_) ⟨hs, rfl, rfl, rfl, fun _ => (nomatch ·)⟩
  refine post_bind (post_getFld (post_ite (fun _ => ?_) (fun hrun => post_pure ⟨rfl, h.append (fun _ => ?_)⟩)))
  · have hset := h.set (n := n) (fun hn => h.inv.fld_setFld (run_covered hn) 1)
    exact post_bind ((does_setFld _ _ t).post (post_bind ((holds_launched (acts_tileRun n) _ hset.inv).mono (fun _ u ⟨hu, g⟩ => post_pure ⟨rfl, hset.launched hu g⟩))))
  · have hlt : t.fld (Fl.TILE_SEQ_CTRL_RUN n) < 2 ^ 1 := t.fld_lt (f := Fl.TILE_SEQ_CTRL_RUN n) Nat.one_pos
    omega

theorem post_joinAckHere {s : State} (hs : s.Inv) : Post joinAckHere s (fun _ t => JobStarted s t) := by
  refine post_bind (post_act (post_bind ((post_setStatus (by simp [statusFlds]) 0 (Act.apply_inv _ s hs)).mono (fun _ t1 h1 => post_bind (post_look ?_)))))
  have hjob1 : t1.job = s.job := h1.rest .job (by decide)
  have hrun1 : t1.runJob = s.runJob := by rw [State.runJob, State.runJob, hjob1]
  have hcoll1 : t1.coll = s.coll.started := h1.rest .coll (by decide)
  rw [hrun1]
  cases hj : s.runJob with
  | none => exact post_pure ⟨h1.inv, h1.set, fun f hf hapart => h1.others f hf hapart, hcoll1, fun j hj' => by rw [hj] at hj'; cases hj'⟩
  | some j =>
    refine post_bind (post_act (post_bind ((post_startTiles _ (Act.apply_inv _ t1 h1.inv)).mono (fun _ t2 h2 => (holds_launched (acts_startFinish 0) t2 h2.inv).mono (fun _ t ⟨ht, h3⟩ => ?_)))))
    have h := h2.launched ht h3
    have hstatus : ∀ f ∈ statusFlds, t.fld f = t1.fld f := fun f hf => State.fld_congr (by rw [(covered_of_status hf).2, h.status]; rfl)
    refine ⟨ht, (hstatus _ (by simp [statusFlds])).trans h1.set, fun f hf hapart => (hstatus f hf).trans (h1.others f hf hapart), h.coll.trans hcoll1, fun k hk => ?_⟩
    obtain rfl : j = k := Option.some.inj (hj.symm.trans hk)
    refine ⟨?_, fun n hn h180 => h.run n (List.mem_range.mpr hn) h180⟩
    rw [h.job]
    show Option.map _ t1.job = _
    rw [hjob1, job_of_runJob hj]
    rfl

end Sys2Proof.Machine
end

section
/-! SUPPORT. Messages that do nothing but be counted, HEARTBEAT and JOIN_TIMEOUT (R16, R346, R364). -/

namespace Sys2Proof.Machine

open Sys2Proof

/-- A meaning that leaves the state is that state. -/
theorem exec_of_post {c : Instr} {m : M Unit} {s u : State} (h : Post m s (fun _ t => t = u)) (hc : exec c s = M.next m s) : exec c s = .next u := by
  obtain ⟨a, t, hd, rfl⟩ := h
  exact hc.trans hd.next

/-- A counter's word counts one more, and nothing but registers changes. -/
structure Counts (lo : Nat) (s t : State) : Prop where
  counted : counted s t lo
  rest : ∀ p, p ≠ StatePart.registers → p.stands s t

theorem post_bump_counts {s : State} (hs : s.Inv) {lo : Nat} (hlo : counterAt lo = true) : Post (bump lo 1) s (fun _ t => Counts lo s t) := by
  refine (post_bump hs hlo Nat.one_ne_zero).mono ?_
  rintro _ t ⟨rfl, hcount⟩
  have hreg : ∀ p, p ≠ StatePart.registers → ∀ o v (u : State), p.stands u ((Act.reg o v).apply u) := fun p hp o v u => Act.apply_stands (by simpa [Act.kind, ActKind.changes] using hp) u
  exact ⟨hcount, fun p hp => p.stands_trans (hreg p hp _ _ _) (hreg p hp _ _ _)⟩

theorem counterAt_macDrop : (List.range 9).all (fun p => counterAt (Reg.MAC_DROP_LO p 9)) = true := by decide +kernel
theorem counterAt_collCount : counterAt (Reg.COLL_COUNT_LO 5) = true := by decide +kernel
theorem counterAt_nrtCount : counterAt (Reg.NRT_COUNT_LO 13) = true := by decide +kernel

/-- Each of the messages is heard before it means anything. -/
theorem exec_msgCommand {c : Msg → Instr} (hc : c ∈ msgCommands) (m : Msg) (s : State) : ∃ k, exec (c m) s = M.next (withMsg m k) s := by
  simp only [msgCommands, List.mem_cons, List.not_mem_nil, or_false] at hc
  rcases hc with rfl | rfl | rfl | rfl | rfl | rfl | rfl | rfl | rfl | rfl | rfl | rfl <;> exact ⟨_, rfl⟩

theorem msgBadPhase_of_not {m : Msg} (hphase : ¬phasesOk m) : msgBadPhase m = true := by
  by_contra h
  rw [Bool.not_eq_true, msgBadPhase, Bool.or_eq_false_iff, Bool.and_eq_false_iff, decide_eq_false_iff_not, decide_eq_false_iff_not, decide_eq_false_iff_not] at h
  obtain ⟨h1, h2⟩ := h
  refine hphase ⟨Nat.not_lt.mp h1, fun ht => Nat.not_lt.mp (h2.resolve_left (not_not_intro ht))⟩

section
variable {s : State} {c : Msg → Instr} (hc : c ∈ msgCommands) {m : Msg}
include hc

/-- Outside a job. -/
theorem message_outside (hrun : s.fld Fl.COLL_CTRL_RUN = 0) (hphase : phasesOk m) : exec (c m) s = .next s := by
  obtain ⟨k, hk⟩ := exec_msgCommand hc m s
  refine exec_of_post (post_bind (post_getFld ?_)) hk
  rw [if_neg (by simp [msgBadPhase_of_phasesOk hphase]), if_neg (by omega)]
  exact post_pure rfl

/-- Of a reserved phase. -/
theorem message_reserved (hs : s.Inv) (hphase : ¬phasesOk m) : Completes (c m) s (fun t => t.coll = s.coll ∧ t.mem = s.mem ∧ t.tiles = s.tiles ∧ t.out = s.out ∧
    ∀ w ws, (s.flow (4032 + m.module)).paths = w :: ws → w.port ≤ 8 → t.reg64 (Reg.MAC_DROP_LO w.port 9) = min (s.reg64 (Reg.MAC_DROP_LO w.port 9) + 1) (2 ^ 48 - 1)) := by
  obtain ⟨k, hk⟩ := exec_msgCommand hc m s
  refine Post.completes (post_bind (post_getFld ?_)) hk
  rw [if_pos (msgBadPhase_of_not hphase)]
  refine post_bind (post_look ?_)
  cases hpaths : (s.flow (4032 + m.module)).paths with
  | nil => exact post_pure ⟨rfl, rfl, rfl, rfl, fun _ _ h => by cases h⟩
  | cons w ws =>
    refine post_ite (fun hport => ?_) (fun hport => post_pure ⟨rfl, rfl, rfl, rfl, fun w' ws' h hle => ?_⟩)
    · have hcounter : counterAt (Reg.MAC_DROP_LO w.port 9) = true := List.all_eq_true.mp counterAt_macDrop _ (List.mem_range.mpr (by omega))
      refine (post_bump_counts hs hcounter).mono (fun _ t h => ⟨h.rest .coll (by decide), (h.rest .memory (by decide)).1, h.rest .tiles (by decide), h.rest .outputs (by decide), fun w' ws' hw _ => ?_⟩)
      obtain ⟨rfl, -⟩ := List.cons.inj hw
      exact h.counted
    · obtain ⟨rfl, -⟩ := List.cons.inj h
      exact absurd hle hport

/-- Of an earlier epoch. -/
theorem message_earlier (hs : s.Inv) (hrun : s.fld Fl.COLL_CTRL_RUN = 1) (hphase : phasesOk m) (hepoch : m.epoch < s.fld Fl.COLL_STATUS_EPOCH) (htype : m.type ≠ 1) :
    Completes (c m) s (fun t => t.reg64 (Reg.COLL_COUNT_LO 5) = min (s.reg64 (Reg.COLL_COUNT_LO 5) + 1) (2 ^ 48 - 1) ∧ t.coll = s.coll ∧ t.mem = s.mem ∧ t.tiles = s.tiles ∧ t.out = s.out) := by
  obtain ⟨k, hk⟩ := exec_msgCommand hc m s
  refine Post.completes (post_bind (post_getFld ?_)) hk
  rw [if_neg (by simp [msgBadPhase_of_phasesOk hphase]), if_pos hrun]
  refine post_bind (post_getFld ?_)
  rw [if_pos ⟨hepoch, htype⟩]
  exact (post_bump_counts hs counterAt_collCount).mono (fun _ t h => ⟨h.counted, h.rest .coll (by decide), (h.rest .memory (by decide)).1, h.rest .tiles (by decide), h.rest .outputs (by decide)⟩)

end

/-! HEARTBEAT. -/

theorem heartbeat_hears {s : State} {m : Msg} (h : hears s m) : exec (.heartbeat m) s = .next (s.hear m) := exec_of_post (m := onHeartbeat m) (post_withMsg h (post_pure rfl)) rfl

/-- A JOIN_ACK that names another number of modules while the tiles run does nothing but refresh its sender. -/
theorem joinAck_ignored {s : State} {m : Msg} (h : hears s m) (hn : leAt m.arg 4 2 ≠ s.modules) (hstarted : s.job.any (·.started) = true) : exec (.joinAck m) s = exec (.heartbeat m) s := by
  rw [heartbeat_hears h]
  refine exec_of_post (m := onJoinAck m) (post_withMsg h (post_bind (post_look (post_bind (post_look ?_))))) rfl
  rw [if_neg (show ¬leAt m.arg 4 2 = (s.hear m).modules from hn), if_neg (show ¬(!(s.hear m).job.any (·.started)) = true by simp [show (s.hear m).job = s.job from rfl, hstarted])]
  exact post_pure rfl

/-! JOIN_TIMEOUT. -/

theorem joinTimeout_told {s : State} (hs : s.Inv) (hmanager : s.isManager = true) (hadmitted : s.coll.mgr.admitted = false) (hjoins : s.coll.mgr.joins ≠ []) (hjob : s.job.isSome = true) :
    Completes .joinTimeout s (fun t => s.Told t Ev.joinTimeout (srcUnit mColl) 0 ∧ t.coll = s.coll ∧ t.mem = s.mem ∧ t.tiles = s.tiles ∧ t.out = s.out) := by
  refine Post.completes (m := asManager _) ?_ rfl
  refine post_asManager hmanager (post_bind (post_look (post_bind (post_look ?_))))
  rw [if_pos (by simp [hadmitted, hjoins, hjob])]
  exact (post_raise_records hs _ _ _ _).mono (fun _ t ⟨h, hrec, _⟩ => ⟨hrec.told, h.rest .coll (by decide), (h.rest .memory (by decide)).1, h.rest .tiles (by decide), h.rest .outputs (by decide)⟩)

/-! HEARTBEAT_SEND. -/

theorem heartbeatSend_idle {s : State} {dest : Nat} (h : s.fld Fl.COLL_CTRL_RUN = 0 ∨ s.fld Fl.NRT_CTRL_RUN = 0 ∨ dest = s.me ∨ (dest ≠ s.coll.manager ∧ s.coll.standby ≠ some dest)) :
    exec (.heartbeatSend dest) s = .next s := by
  refine exec_of_post (m := getFld Fl.COLL_CTRL_RUN >>= _) ?_ rfl
  refine post_bind (post_getFld (post_bind (post_look ?_)))
  refine post_ite (fun ⟨hrun, hto⟩ => ?_) (fun _ => post_pure rfl)
  have hnrt : s.fld Fl.NRT_CTRL_RUN = 0 := by
    simp only [Bool.and_eq_true, Bool.or_eq_true, decide_eq_true_eq] at hto
    obtain ⟨hme, hdest⟩ := hto
    rcases h with h | h | h | ⟨h1, h2⟩
    · omega
    · exact h
    · exact absurd h hme
    · exact absurd hdest (by simp [h1, h2])
  refine post_bind (post_look (post_bind (post_getFld ?_)))
  rw [if_pos hnrt]
  exact post_pure rfl

/-- The HEARTBEAT of a running job. -/
theorem post_heartbeatSend {s : State} {dest : Nat} (hrun : s.fld Fl.COLL_CTRL_RUN = 1) (hme : dest ≠ s.me) (hdest : dest = s.coll.manager ∨ s.coll.standby = some dest)
    {Q : State → Prop} (h : Post (sendHeartbeat dest) s (fun _ t => Q t)) : Completes (.heartbeatSend dest) s Q := by
  refine Post.completes (m := getFld Fl.COLL_CTRL_RUN >>= _) ?_ rfl
  refine post_bind (post_getFld (post_bind (post_look ?_)))
  rw [if_pos ⟨hrun, by simp [hme, hdest]⟩]
  exact h

theorem heartbeatSend_counted {s : State} (hs : s.Inv) {dest : Nat} (hrun : s.fld Fl.COLL_CTRL_RUN = 1) (hnrt : s.fld Fl.NRT_CTRL_RUN = 1) (hme : dest ≠ s.me)
    (hdest : dest = s.coll.manager ∨ s.coll.standby = some dest) (hstate : (s.flow (4032 + dest)).state ≠ 1) : Completes (.heartbeatSend dest) s (fun t => t.out = s.out ∧ t.mem = s.mem ∧
        t.reg64 (Reg.NRT_COUNT_LO 13) = min (s.reg64 (Reg.NRT_COUNT_LO 13) + 1) (2 ^ 48 - 1)) := by
  refine post_heartbeatSend hrun hme hdest (post_bind (post_look (post_bind (post_getFld ?_))))
  rw [if_neg (by omega), if_pos hstate]
  exact (post_bump_counts hs counterAt_nrtCount).mono (fun _ t h => ⟨h.rest .outputs (by decide), (h.rest .memory (by decide)).1, h.counted⟩)

end Sys2Proof.Machine
end

section
/-! SUPPORT. JOIN, JOIN_ACK and RESUME (R346, R371, R376). -/

namespace Sys2Proof.Machine

open Sys2Proof

/-- A manager with nothing to do leaves the state. -/
theorem post_mgrRun_fresh (k : Nat) {s : State} (hopened : s.coll.mgr.opened = none) (harrivals : s.coll.mgr.arrivals = []) : Post (mgrRun k) s (fun _ t => t = s) := by
  cases k with
  | zero => exact post_pure rfl
  | succ k =>
    refine post_bind (post_look (post_bind (post_look ?_)))
    rw [nextChange_fresh hopened harrivals]
    exact post_pure rfl

/-- The job is admitted at a step, and its tiles have started. -/
structure JobAdmitted (r : Nat) (s t : State) : Prop where
  inv : t.Inv
  held : t.fld Fl.COLL_STATUS_HELD = 0
  status : ∀ f ∈ statusFlds, Fl.COLL_STATUS_HELD.apart f → t.fld f = s.fld f
  mgr : t.coll.mgr = (Change.admitted r).record s.coll.mgr
  job : ∀ j, s.runJob = some j → t.job = some { j with started := true } ∧ ∀ n < j.tiles, n < 180 → t.fld (Fl.TILE_SEQ_CTRL_RUN n) = 1

theorem post_mgrAct_admitted (r : Nat) {s : State} (hs : s.Inv) : Post (mgrAct (.admitted r)) s (fun _ t => JobAdmitted r s t) := by
  refine post_bind (post_act (post_bind (post_look (post_bind ((post_sendAll _ _ _ (Act.apply_inv _ s hs)).mono (fun _ t1 ⟨l, h1⟩ => (post_joinAckHere h1.inv).mono (fun _ t h2 => ?_)))))))
  have hjob : t1.job = s.job := h1.rest .job (by decide)
  have hmgr : t1.coll.mgr = (Change.admitted r).record s.coll.mgr := (congrArg Coll.mgr h1.coll :)
  have hreg : t1.reg Reg.COLL_STATUS = s.reg Reg.COLL_STATUS := h1.reg _ (by decide)
  refine ⟨h2.inv, h2.held, fun f hf hapart => (h2.status f hf hapart).trans (State.fld_congr (by rw [(covered_of_status hf).2, hreg])), ?_, fun j hj => h2.job j ?_⟩
  · rw [h2.coll]
    exact hmgr
  · rw [State.runJob, hjob]
    exact hj

/-- The manager admits the job, and has nothing more to do. -/
theorem post_admit (r k : Nat) {s : State} (hs : s.Inv) : Post (mgrAct (.admitted r) >>= fun _ => mgrRun k) s (fun _ t => JobAdmitted r s t) :=
  post_bind ((post_mgrAct_admitted r hs).mono (fun _ t h => (post_mgrRun_fresh k (by rw [h.mgr]; rfl) (by rw [h.mgr]; rfl)).mono (fun _ u hu => by rw [hu]; exact h)))

/-! JOIN. -/

section
variable {s : State} (hs : s.Inv) {m : Msg} (h : hears s m)
include hs h

section
variable (hmanager : s.isManager = true) (hrejoin : (joinOf m).rejoin = false) (hadmitted : s.coll.mgr.admitted = false)
include hmanager hrejoin hadmitted

omit hs in
/-- The first JOIN of a module, whether it fits or not. -/
theorem post_firstJoin {Q : State → Prop} (hk : Post (do
      if !(s.joinFits (joinOf m)) then
        raise Ev.joinMismatch (srcUnit mColl) 0 0
        sendAll 2 0 (leBytes 6 0)
        refuseStart
        act (.coll (fun x => { x with mgr := { x.mgr with joins := [] } }))
      else
        mgrRecord (.joined (joinOf m))
        let all ← look (fun s => decide (s.modules ≤ s.coll.mgr.joins.length))
        if all then
          mgrAct (.admitted 0)
          mgrRun 64) (s.hear m) (fun _ t => Q t)) : Completes (.join m) s Q := by
  refine Post.completes (m := onJoin m) (post_withMsg h (post_asManager (s := s.hear m) hmanager (post_bind (post_look ?_)))) rfl
  rw [if_neg (by simp [hrejoin]), if_neg (show ¬(s.hear m).coll.mgr.admitted = true by simp [show (s.hear m).coll.mgr = s.coll.mgr from rfl, hadmitted])]
  exact post_bind (post_look hk)

/-- A JOIN that does not fit refuses the job. -/
theorem join_refused (hfits : s.joinFits (joinOf m) = false) : Completes (.join m) s (fun t => t.coll.mgr.joins = [] ∧ t.fld Fl.COLL_CTRL_RUN = 0 ∧ (∀ k, t.job = some k → k.running = false) ∧
    s.Told t Ev.joinMismatch (srcUnit mColl) 0) := by
  refine post_firstJoin h hmanager hrejoin hadmitted ?_
  rw [if_pos (by simp [hfits])]
  refine post_bind ((post_raise_records (hear_inv hs m) _ _ _ _).mono (fun _ t1 ⟨h1, hrec, _⟩ => post_bind ((post_sendAll _ _ _ h1.inv).mono (fun _ t2 ⟨l, h2⟩ =>
    post_bind ((post_refuseStart h2.inv).mono (fun _ t3 h3 => post_act ⟨rfl, h3.run, h3.idle, ?_⟩))))))
  have hrec3 := (hrec.later ⟨[], Adds.of_eq (h2.rest .events (by decide)).1⟩).later h3.events
  exact hrec3.told

/-- One that fits is recorded, and the last admits the job. -/
theorem join_recorded (hfits : s.joinFits (joinOf m) = true) : Completes (.join m) s (fun t => t.coll.mgr.joins = s.coll.mgr.joins ++ [joinOf m] ∧
    if s.modules ≤ s.coll.mgr.joins.length + 1 then t.coll.mgr.admitted = true ∧ t.coll.mgr.s0 = 0 else t.coll.mgr.admitted = false ∧ t.mem = s.mem) := by
  refine post_firstJoin h hmanager hrejoin hadmitted ?_
  rw [if_neg (by simp [hfits])]
  refine post_bind (post_act (post_bind (post_look ?_)))
  have hlen : (s.coll.mgr.joins ++ [joinOf m]).length = s.coll.mgr.joins.length + 1 := by simp
  refine post_ite (fun hall => ?_) (fun hall => post_pure ⟨rfl, ?_⟩)
  · have hall : s.modules ≤ s.coll.mgr.joins.length + 1 := hlen ▸ of_decide_eq_true hall
    refine (post_admit 0 64 (Act.apply_inv _ _ (hear_inv hs m))).mono (fun _ t h1 => ⟨by rw [h1.mgr]; rfl, ?_⟩)
    rw [if_pos hall, h1.mgr]
    exact ⟨rfl, rfl⟩
  · have hall : ¬s.modules ≤ s.coll.mgr.joins.length + 1 := fun hc => hall (decide_eq_true (hlen.symm ▸ hc))
    rw [if_neg hall]
    exact ⟨hadmitted, rfl⟩

end

/-! JOIN_ACK. -/

theorem joinAck_refuses (hn : leAt m.arg 4 2 ≠ s.modules) (hstarted : s.job.any (·.started) = false) : Completes (.joinAck m) s (fun t =>
    t.fld Fl.COLL_CTRL_RUN = 0 ∧ (∀ k, t.job = some k → k.running = false) ∧ s.Told t Ev.joinMismatch (srcUnit mColl) 0) := by
  refine Post.completes (m := onJoinAck m) (post_withMsg h (post_bind (post_look (post_bind (post_look ?_))))) rfl
  rw [if_neg (show ¬leAt m.arg 4 2 = (s.hear m).modules from hn), if_pos (show (!(s.hear m).job.any (·.started)) = true by simp [show (s.hear m).job = s.job from rfl, hstarted])]
  refine post_bind ((post_raise_records (hear_inv hs m) _ _ _ _).mono (fun _ t1 ⟨h1, hrec, _⟩ => (post_refuseStart h1.inv).mono (fun _ t h2 => ⟨h2.run, h2.idle, ?_⟩)))
  exact (hrec.later h2.events).told

theorem joinAck_admits (hepoch : m.epoch < 256) (hn : leAt m.arg 4 2 = s.modules) : Completes (.joinAck m) s (fun t =>
        t.fld Fl.COLL_STATUS_EPOCH = m.epoch ∧ t.fld Fl.COLL_STATUS_HELD = 0 ∧ t.coll.manager = m.module ∧ t.coll.gens = [] ∧ t.coll.arrived = [] ∧
        t.coll.mgr.admitted = true ∧ t.coll.mgr.s0 = leAt m.arg 0 4 ∧ t.coll.mgr.lost = [] ∧
        ∀ j, s.runJob = some j → t.job = some { j with started := true } ∧ ∀ n < j.tiles, n < 180 → t.fld (Fl.TILE_SEQ_CTRL_RUN n) = 1) := by
  refine Post.completes (m := onJoinAck m) (post_withMsg h (post_bind (post_look (post_bind (post_look ?_))))) rfl
  rw [if_pos (show leAt m.arg 4 2 = (s.hear m).modules from hn)]
  refine post_bind ((post_setStatus (by simp [statusFlds]) m.epoch (hear_inv hs m)).mono (fun _ t1 h1 => post_bind (post_act (post_bind (post_act
    ((post_joinAckHere (Act.apply_inv _ _ (Act.apply_inv _ t1 h1.inv))).mono (fun _ t h2 => ?_)))))))
  have hjob : t1.job = s.job := h1.rest .job (by decide)
  refine ⟨?_, h2.held, ?_, ?_, ?_, ?_, ?_, ?_, fun j hj => h2.job j ?_⟩
  · have hset : t1.fld Fl.COLL_STATUS_EPOCH = m.epoch % 256 := h1.set
    rw [Nat.mod_eq_of_lt hepoch] at hset
    exact (h2.status _ (by simp [statusFlds]) (by simp [Fld.apart, Fl.COLL_STATUS_HELD, Fl.COLL_STATUS_EPOCH])).trans hset
  · rw [h2.coll]
    rfl
  · rw [h2.coll]
    rfl
  · rw [h2.coll]
    rfl
  · rw [h2.coll]
    rfl
  · rw [h2.coll]
    rfl
  · rw [h2.coll]
    rfl
  · show State.runJob t1 = some j
    rw [State.runJob, hjob]
    exact hj

end

/-! RESUME. -/

theorem collCtrl_plain : (findReg Reg.COLL_CTRL).map (fun h => h.spec.kind) = some .plain := by decide +kernel

/-- A write of COLL_CTRL leaves the collective engine, the job and the status. -/
structure CtrlWritten (s t : State) : Prop where
  inv : t.Inv
  status : t.reg Reg.COLL_STATUS = s.reg Reg.COLL_STATUS
  coll : t.coll = s.coll
  job : t.job = s.job

theorem post_writeCtrl {s : State} (hs : s.Inv) {k : Nat} (hk : k ≠ mKeeper) (v : Nat) : Post (regWrite k Reg.COLL_CTRL v) s (fun _ t => CtrlWritten s t) := by
  obtain ⟨g, hg, hkind⟩ := Option.map_eq_some_iff.mp collCtrl_plain
  rw [regWrite_plain hg hkind, byMaster_of_other hk]
  exact (post_commitReg hs hg k v).mono (fun _ t h => ⟨h.ran.inv hs, h.ran.commit_reg hs (by decide) (by decide), h.ran.commit_stands .coll (by decide), h.ran.commit_stands .job (by decide)⟩)

/-- The job is resumed at a step. -/
structure Resumed (r : Nat) (s t : State) : Prop where
  inv : t.Inv
  restored : t.fld Fl.COLL_STATUS_RESTORED = 0
  held : t.fld Fl.COLL_STATUS_HELD = 0
  mgr : t.coll.mgr = (Change.admitted r).record s.coll.mgr
  run : ∀ j, s.runJob = some j → ∀ n < j.tiles, n < 180 → t.fld (Fl.TILE_SEQ_CTRL_RUN n) = 1

theorem post_collResume {s : State} (hs : s.Inv) {v r : Nat} (hresume : bitOf v 2 = true) (hmanager : s.isManager = true) (hrestored : s.fld Fl.COLL_STATUS_RESTORED = 1)
    (hr : s.coll.mgr.restore = some r) : Post (collResume v) s (fun _ t => Resumed r s t) := by
  refine post_bind (post_look (post_bind (post_look (post_bind (post_getFld ?_)))))
  rw [if_pos ⟨hresume, hmanager, hrestored⟩, hr]
  refine post_bind ((post_setStatus (by simp [statusFlds]) 0 hs).mono (fun _ t1 h1 => (post_admit r 64 h1.inv).mono (fun _ t h2 => ?_)))
  have hcoll : t1.coll = s.coll := h1.rest .coll (by decide)
  have hjob : t1.job = s.job := h1.rest .job (by decide)
  refine ⟨h2.inv, (h2.status _ (by simp [statusFlds]) (by simp [Fld.apart, Fl.COLL_STATUS_HELD, Fl.COLL_STATUS_RESTORED])).trans h1.set, h2.held, by rw [h2.mgr, hcoll], fun j hj => (h2.job j ?_).2⟩
  rw [State.runJob, hjob]
  exact hj

/-- A resumed job stays so where RUN drops. -/
theorem Resumed.stopped {r : Nat} {s t : State} (h : Resumed r s t) : Post collStop t (fun _ u => Resumed r s u) := by
  refine post_bind ((does_setFld _ _ t).post (post_act ⟨Act.apply_inv _ _ (Act.apply_inv _ t h.inv), ?_, ?_, h.mgr, fun j hj n hn h180 => ?_⟩))
  · exact (h.inv.fld_apply_reg_other (g := Fl.COLL_STATUS_RESTORED) (by decide) _).trans h.restored
  · exact (h.inv.fld_apply_reg_other (g := Fl.COLL_STATUS_HELD) (by decide) _).trans h.held
  · refine (h.inv.fld_apply_reg_other (g := Fl.TILE_SEQ_CTRL_RUN n) ?_ _).trans (h.run j hj n hn h180)
    have hlow : Fl.COLL_CTRL_RUN.off < 0x10000000 := by decide
    rw [run_off]
    omega

theorem resume_admits {s : State} (hs : s.Inv) {k v : Nat} (hresume : bitOf v 2 = true) (hrun : s.fld Fl.COLL_CTRL_RUN = 1) (hmanager : s.isManager = true)
    (hrestored : s.fld Fl.COLL_STATUS_RESTORED = 1) (hk : k ≠ mKeeper) {r : Nat} (hr : s.coll.mgr.restore = some r) : Completes (.collResume k v) s (fun t =>
        t.fld Fl.COLL_STATUS_RESTORED = 0 ∧ t.fld Fl.COLL_STATUS_HELD = 0 ∧ t.coll.mgr.admitted = true ∧ t.coll.mgr.held = false ∧ t.coll.mgr.s0 = r ∧
        t.coll.mgr.lost = [] ∧ ∀ j, s.runJob = some j → ∀ n < j.tiles, n < 180 → t.fld (Fl.TILE_SEQ_CTRL_RUN n) = 1) := by
  refine Post.completes (m := collCtrlWrite k v) ?_ rfl
  rw [collCtrlWrite, byMaster_of_other hk]
  refine post_bind (post_getFld (post_bind ((post_writeCtrl hs hk v).mono (fun _ t1 h1 => post_bind (post_getFld ?_)))))
  have hmanager1 : t1.isManager = true := by
    rw [State.isManager, State.me, h1.coll, h1.job]
    exact hmanager
  have hjob1 : t1.runJob = s.runJob := by rw [State.runJob, State.runJob, h1.job]
  refine post_bind ((post_collResume h1.inv hresume hmanager1 ((State.fld_congr h1.status).trans hrestored) (by rw [h1.coll, hr])).mono (fun _ t2 h2 => ?_))
  rw [if_neg (by omega)]
  refine Post.mono (R := fun _ t => Resumed r t1 t) (post_ite (fun _ => h2.stopped) (fun _ => post_pure h2)) (fun _ t h => ?_)
  exact ⟨h.restored, h.held, by rw [h.mgr]; rfl, by rw [h.mgr]; rfl, by rw [h.mgr]; rfl, by rw [h.mgr]; rfl, fun j hj => h.run j (hjob1.trans hj)⟩

end Sys2Proof.Machine
end

section
/-! SUPPORT. MANAGER (R366, R368). -/

namespace Sys2Proof.Machine

open Sys2Proof

theorem leAt_byte_lt (bs : List Byte) (i : Nat) : leAt bs i 1 < 256 := by
  unfold leAt
  rcases bs.drop i with _ | ⟨b, rest⟩
  · simp [leNat]
  · simpa [leNat] using b.isLt

/-- An event raised as it stands. -/
theorem post_raiseEvent_records {s : State} (hs : s.Inv) (e : Ev) (src : Nat × Nat) (detail slate : Nat) (flag : Bool) : Post (raiseEvent { evOf e src detail slate with demotion := flag }) s (fun _ t =>
    Raised s t ∧ Records s t e src detail) :=
  (post_raiseEvent s _).mono (fun _ _ ⟨r, l, hadds, _, hone, _⟩ => ⟨⟨r.inv hs, fun _ ho => r.raise_reg hs ho, fun p hp => r.raise_stands p hp, l, hadds⟩, l, hadds, fun hroom => by
    rw [hone hroom]
    exact ⟨_, List.mem_singleton_self _, rfl, rfl, rfl⟩⟩)

/-- The arrivals of the module's own Clappers told to the manager, one message each. -/
structure ToldArrivals (dest : Nat) (s : State) (done : List (Nat × Nat)) (t : State) : Prop where
  posted : ∃ l, Posted l s t
  told : (s.flow (4032 + dest)).state = 1 → ∀ e ∈ done, ∃ x ∈ (t.flow (4032 + dest)).tx, ∃ n, x.pkt.op = opMgmt ∧
    x.pkt.payload = msgBytes ⟨7, s.fld Fl.COLL_STATUS_EPOCH, s.me, n, 0, leBytes 4 e.1 ++ leBytes 4 e.2⟩

theorem Posted.epoch {l : List Nat} {s t : State} (h : Posted l s t) : t.fld Fl.COLL_STATUS_EPOCH = s.fld Fl.COLL_STATUS_EPOCH := State.fld_congr (h.reg _ (by decide))

theorem Posted.me {l : List Nat} {s t : State} (h : Posted l s t) : t.me = s.me := by
  rw [State.me, State.me, show t.job = s.job from h.rest .job (by decide)]

theorem post_tellArrivals (dest : Nat) (l : List (Nat × Nat)) {s : State} (hs : s.Inv) : Post (forIn l PUnit.unit (fun e _ => do
      sendMsg dest 7 0 (leBytes 4 e.1 ++ leBytes 4 e.2)
      pure (ForInStep.yield PUnit.unit))) s (fun _ t => ToldArrivals dest s l t) := by
  refine post_for (ToldArrivals dest s) (fun pre e _ t h => ?_) ⟨⟨[], .refl hs⟩, fun _ _ => (nomatch ·)⟩
  obtain ⟨k, hk⟩ := h.posted
  refine (post_sendMsg hk.inv dest 7 0 _).mono (fun _ u ⟨g, hsent⟩ => ⟨⟨_, hk.trans g⟩, fun hstate e' he' => ?_⟩)
  rcases List.mem_append.mp he' with he' | he'
  · obtain ⟨x, hx, n, hop, hpay⟩ := h.told hstate e' he'
    exact ⟨x, g.tx _ hx, n, hop, hpay⟩
  · obtain ⟨x, hx, -, hop, hpay⟩ := hsent ((hk.state _).trans hstate)
    rw [List.mem_singleton.mp he']
    exact ⟨x, hx, _, hop, by rw [hpay, hk.epoch, hk.me]⟩

/-- The module has noted who manages and who stands by. -/
structure ManagerNoted (m : Msg) (s t : State) : Prop where
  inv : t.Inv
  epoch : t.fld Fl.COLL_STATUS_EPOCH = leAt m.arg 0 1
  role : t.fld Fl.COLL_STATUS_ROLE = if leAt m.arg 2 2 = s.me then 2 else 0
  coll : t.coll = { s.coll with manager := m.module, fullTo := none, standby := if leAt m.arg 2 2 = 0xFFFF then none else some (leAt m.arg 2 2) }
  rest : ∀ p, p ∉ [StatePart.registers, .coll] → p.stands s t

theorem post_noteManager {s : State} (hs : s.Inv) (m : Msg) : Post (do
      setFld Fl.COLL_STATUS_EPOCH (leAt m.arg 0 1)
      act (.coll (fun x => { x with manager := m.module, fullTo := none, standby := if leAt m.arg 2 2 = 0xFFFF then none else some (leAt m.arg 2 2) }))
      setFld Fl.COLL_STATUS_ROLE (if leAt m.arg 2 2 = s.me then 2 else 0)) s (fun _ t => ManagerNoted m s t) := by
  refine post_bind ((post_setStatus (by simp [statusFlds]) _ hs).mono (fun _ t1 h1 => post_bind (post_act ((post_setStatus (f := Fl.COLL_STATUS_ROLE) (by simp [statusFlds]) _ (Act.apply_inv _ t1 h1.inv)).mono
    (fun _ t h2 => ⟨h2.inv, ?_, ?_, ?_, fun p hp => ?_⟩)))))
  · have hset : t1.fld Fl.COLL_STATUS_EPOCH = leAt m.arg 0 1 % 256 := h1.set
    rw [Nat.mod_eq_of_lt (leAt_byte_lt _ _)] at hset
    exact (h2.others _ (by simp [statusFlds]) (by simp [Fld.apart, Fl.COLL_STATUS_EPOCH, Fl.COLL_STATUS_ROLE])).trans hset
  · rw [h2.set]
    split <;> rfl
  · have hcoll1 : t1.coll = s.coll := h1.rest .coll (by decide)
    have hcoll2 : t.coll = _ := h2.rest .coll (by decide)
    rw [hcoll2, ← hcoll1]
    rfl
  · have hp' : p ≠ .registers ∧ p ≠ .coll := by simpa using hp
    exact p.stands_trans (h1.rest p hp'.1) (p.stands_trans (Act.apply_stands (by simpa [Act.kind, ActKind.changes] using hp'.2) t1) (h2.rest p hp'.1))

/-- The manager that hears of another is no longer it, and tells of that. -/
structure Succumbed (was : Prop) (s t : State) : Prop where
  inv : t.Inv
  status : ∀ f ∈ statusFlds, Fl.COLL_STATUS_FAILOVER.apart f → t.fld f = s.fld f
  rest : ∀ p, p ∉ [StatePart.registers, .events] → p.stands s t
  failover : was → t.fld Fl.COLL_STATUS_FAILOVER = 1 ∧ Records s t Ev.managerFailover (srcUnit mColl) 0

theorem post_succumb (was : Prop) [Decidable was] {s : State} (hs : s.Inv) : Post (if was then (do
      setBit Fl.COLL_STATUS_FAILOVER
      raiseEvent { evOf Ev.managerFailover (srcUnit mColl) 0 0 with demotion := true }) else pure ()) s (fun _ t => Succumbed was s t) := by
  refine post_ite (fun _ => ?_) (fun hno => post_pure ⟨hs, fun _ _ _ => rfl, fun p _ => p.stands_refl s, fun h => absurd h hno⟩)
  refine post_bind ((post_setStatus (f := Fl.COLL_STATUS_FAILOVER) (by simp [statusFlds]) 1 hs).mono (fun _ t1 h1 => (post_raiseEvent_records h1.inv _ _ _ _ true).mono (fun _ t ⟨h2, l, hl, htells⟩ =>
    ⟨h2.inv, fun f hf hapart => ?_, fun p hp => ?_, fun _ => ⟨?_, l, ?_, ?_⟩⟩)))
  · exact (State.fld_congr (h2.reg _ (by rw [(covered_of_status hf).2]; decide))).trans (h1.others f hf hapart)
  · exact p.stands_trans (h1.rest p (by simpa using (not_or.mp (by simpa using hp)).1)) (h2.rest p hp)
  · exact (State.fld_congr (h2.reg _ (by decide))).trans h1.set
  · exact (Adds.of_eq (h1.rest .events (by decide)).1).trans hl
  · rwa [← show t1.events = s.events from (h1.rest .events (by decide)).1]

section
variable {s : State} (hs : s.Inv) {m : Msg} (h : hears s m)
include hs h

theorem manager_noted : Completes (.manager m) s (fun t =>
        let standby := leAt m.arg 2 2
        t.fld Fl.COLL_STATUS_EPOCH = leAt m.arg 0 1 ∧ t.fld Fl.COLL_STATUS_ROLE = (if standby = s.me then 2 else 0) ∧ t.coll.manager = m.module ∧ t.coll.standby = (if standby = 0xFFFF then none else some standby) ∧ t.mem = s.mem ∧
        t.tiles = s.tiles ∧
        (s.isManager = true → m.module ≠ s.me → t.fld Fl.COLL_STATUS_FAILOVER = 1 ∧ s.Told t Ev.managerFailover (srcUnit mColl) 0) ∧
        ((s.flow (4032 + m.module)).state = 1 → ∀ e ∈ s.coll.arrived, ∃ x ∈ (t.flow (4032 + m.module)).tx, ∃ n, x.pkt.op = opMgmt ∧
          x.pkt.payload = msgBytes ⟨7, leAt m.arg 0 1, s.me, n, 0, leBytes 4 e.1 ++ leBytes 4 e.2⟩)) := by
  refine Post.completes (m := onManager m) (post_withMsg h (post_bind (post_look (post_bind (post_look ?_))))) rfl
  refine post_bind (m := (do
      setFld Fl.COLL_STATUS_EPOCH (leAt m.arg 0 1)
      act (.coll (fun x => { x with manager := m.module, fullTo := none, standby := if leAt m.arg 2 2 = 0xFFFF then none else some (leAt m.arg 2 2) }))
      setFld Fl.COLL_STATUS_ROLE (if leAt m.arg 2 2 = s.me then 2 else 0))) ((post_noteManager (hear_inv hs m) m).mono (fun _ t1 h1 => ?_))
  refine post_when_then (m := (do
      setBit Fl.COLL_STATUS_FAILOVER
      raiseEvent { evOf Ev.managerFailover (srcUnit mColl) 0 0 with demotion := true })) ((post_succumb _ h1.inv).mono (fun _ t2 h2 => post_bind (post_look ?_)))
  have hcoll2 : t2.coll = t1.coll := h2.rest .coll (by decide)
  have hnrt2 : t2.nrt = s.nrt := (h2.rest .nrt (by decide)).trans (h1.rest .nrt (by decide))
  have hjob2 : t2.job = s.job := (h2.rest .job (by decide)).trans (h1.rest .job (by decide))
  have hepoch2 : t2.fld Fl.COLL_STATUS_EPOCH = leAt m.arg 0 1 := (h2.status _ (by simp [statusFlds]) (by simp [Fld.apart, Fl.COLL_STATUS_EPOCH, Fl.COLL_STATUS_FAILOVER])).trans h1.epoch
  have hevents1 : t1.events = s.events := (h1.rest .events (by decide)).1
  have harrived : t2.coll.arrived = s.coll.arrived := by
    rw [hcoll2, h1.coll]
    rfl
  refine (post_tellArrivals m.module t2.coll.arrived h2.inv).mono (fun _ t h3 => ?_)
  obtain ⟨l, h4⟩ := h3.posted
  have hcoll : t.coll.manager = t1.coll.manager ∧ t.coll.standby = t1.coll.standby := by
    rw [← hcoll2]
    exact ⟨(congrArg Coll.manager h4.coll :), (congrArg Coll.standby h4.coll :)⟩
  refine ⟨h4.epoch.trans hepoch2, ?_, ?_, ?_, ?_, ?_, fun hwas hne => ⟨?_, ?_⟩, fun hstate e he => ?_⟩
  · exact (State.fld_congr (h4.reg _ (by decide))).trans ((h2.status _ (by simp [statusFlds]) (by simp [Fld.apart, Fl.COLL_STATUS_ROLE, Fl.COLL_STATUS_FAILOVER])).trans h1.role)
  · rw [hcoll.1, h1.coll]
  · rw [hcoll.2, h1.coll]
  · exact ((h4.rest .memory (by decide)).1).trans (((h2.rest .memory (by decide)).1).trans (h1.rest .memory (by decide)).1)
  · exact (h4.rest .tiles (by decide)).trans ((h2.rest .tiles (by decide)).trans (h1.rest .tiles (by decide)))
  · exact (State.fld_congr (h4.reg _ (by decide))).trans (h2.failover ⟨hwas, hne⟩).1
  · exact ((h2.failover ⟨hwas, hne⟩).2.later ⟨[], Adds.of_eq (h4.rest .events (by decide)).1⟩).told_after (Adds.of_eq hevents1) (by simp)
  · have hflow : (t2.flow (4032 + m.module)).state = 1 := by
      rw [State.flow, hnrt2]
      exact hstate
    obtain ⟨x, hx, n, hop, hpay⟩ := h3.told hflow e (harrived ▸ he)
    refine ⟨x, hx, n, hop, ?_⟩
    rw [hpay, hepoch2, State.me, hjob2, ← State.me]

end

end Sys2Proof.Machine
end

section
/-! SUPPORT. HEARTBEAT_SEND (R364, R432). -/

namespace Sys2Proof.Machine

open Sys2Proof

/-- The MAC_STATUS registers of the ports. -/
def macStatus (o : Nat) : Bool := decide (0x200000 ≤ o) && decide (o < 0x290000) && decide (o % 0x10000 = 4)

theorem macStatus_iff {o : Nat} : macStatus o = true ↔ (0x200000 ≤ o ∧ o < 0x290000) ∧ o % 0x10000 = 4 := by simp [macStatus]

theorem macStatus_port {n : Nat} (hn : n ≤ 8) : macStatus (Reg.MAC_STATUS n) = true := by
  rw [macStatus_iff, Reg.MAC_STATUS]
  omega

/-- The changes that the sending of a packet makes. -/
def Act.onWire : Act → Prop
  | .reg o _ => macStatus o = false
  | .port _ f => ∀ p, (f p).paused = p.paused
  | .out _ | .hub _ => True
  | _ => False

/-- What the sending of packets leaves. -/
structure Sends (s t : State) : Prop where
  status : ∀ o, macStatus o = true → t.reg o = s.reg o
  paused : ∀ n, (t.port n).paused = (s.port n).paused
  out : s.out ⊆ t.out
  rest : ∀ p, p ∉ [StatePart.registers, .ports, .outputs, .hub] → p.stands s t

theorem composes_sends : Composes Sends where
  refl s := ⟨fun _ _ => rfl, fun _ => rfl, fun _ h => h, fun p _ => p.stands_refl s⟩
  trans h g := ⟨fun o ho => (g.status o ho).trans (h.status o ho), fun n => (g.paused n).trans (h.paused n), fun _ hx => g.out (h.out hx), fun p hp => p.stands_trans (h.rest p hp) (g.rest p hp)⟩

theorem port_apply_port {s : State} (hs : s.Inv) (n k : Nat) (u : Port → Port) : ((Act.port n u).apply s).port k = if k = n then u (s.port n) else s.port k :=
  Store.get_set (fun _ => Port.empty) n k _ hs.ports

theorem Act.onWire.holds {a : Act} {s : State} (h : a.onWire) (hs : s.Inv) : Sends s (a.apply s) := by
  have hrest : ∀ p, p ∉ [StatePart.registers, .ports, .outputs, .hub] → p.stands s (a.apply s) := fun p hp => Act.apply_stands (fun hmem => hp (by
    cases a with
    | reg _ _ | port _ _ | out _ | hub _ =>
      simp [Act.kind, ActKind.changes] at hmem
      simp [hmem]
    | _ => exact h.elim)) s
  cases a with
  | reg o v => exact ⟨fun k hk => hs.reg_apply_reg_other v (fun heq => by rw [heq, h] at hk; cases hk), fun _ => rfl, fun _ h => h, hrest⟩
  | port n f =>
    refine ⟨fun _ _ => rfl, fun k => ?_, fun _ h => h, hrest⟩
    rw [port_apply_port hs]
    split
    · rename_i heq
      rw [heq, h]
    · rfl
  | out o => exact ⟨fun _ _ => rfl, fun _ => rfl, fun _ hx => List.mem_cons_of_mem _ hx, hrest⟩
  | hub f => exact ⟨fun _ _ => rfl, fun _ => rfl, fun _ h => h, hrest⟩
  | _ => exact h.elim

theorem holds_sends {α : Type} {m : M α} (h : Acts Act.onWire m) : Holds Sends m := h.holds composes_sends (fun _ _ ha hs => ha.holds hs)

theorem onHubCounters_sends : OnHubCounters Act.onWire := fun o _ h => by
  have := pmonCounter_iff.mp h
  show macStatus o = false
  rw [← Bool.not_eq_true, macStatus_iff]
  omega

theorem acts_portSent_sends (n frames bytes : Nat) : Acts Act.onWire (portSent n frames bytes) := by
  refine acts_bind (acts_bump (fun _ => ?_) (fun _ => ?_)) (fun _ => acts_bind (acts_bump (fun _ => ?_) (fun _ => ?_)) (fun _ => acts_bind (acts_act trivial) (fun _ => acts_act (fun _ => rfl))))
  all_goals
    rw [Act.onWire, Reg.MAC_COUNT_LO, ← Bool.not_eq_true, macStatus_iff]
    omega

/-- A packet on a port. -/
theorem acts_portOut_packet (n len : Nat) (x : NrtFrame) : Acts Act.onWire (portOut n len (.packet x)) :=
  acts_bind (acts_look _) (fun _ => acts_bind (acts_portSent_sends _ _ _) (fun _ => acts_bind (acts_act trivial) (fun _ => acts_pure _)))

theorem acts_portSend_packet (n pcp len : Nat) (x : NrtFrame) : Acts Act.onWire (portSend n pcp len (.packet x)) :=
  acts_bind (acts_look _) (fun _ => acts_bind (acts_look _) (fun _ => acts_ite
    (fun _ => acts_bind (acts_act (fun _ => rfl)) (fun _ => acts_when (fun _ => acts_setFld (fun _ => show macStatus Reg.NRT_STATUS = false by decide)))) (fun _ => acts_portOut_packet _ _ _)))

theorem acts_packetOut (f i : Nat) (p : Packet) : Acts Act.onWire (packetOut f i p) := by
  refine acts_bind (acts_look _) (fun fl => ?_)
  cases fl.paths[i]? with
  | none => exact acts_pure _
  | some x =>
    exact acts_bind (acts_look _) (fun _ => acts_bind (acts_look _) (fun _ => acts_bind (acts_look _) (fun _ => acts_bind (acts_getFld _) (fun _ =>
      acts_bind (acts_bind (acts_look _) (fun _ => acts_bind (acts_look _) (fun _ => acts_pmuHub onHubCounters_sends))) (fun _ => acts_portSend_packet _ _ _ _)))))

/-- A port that neither holds nor pauses sends at once. -/
theorem post_portSend_goes {n pcp len : Nat} {x : NrtFrame} {s : State} (hholds : s.portHolds n = false) (hpaused : (s.port n).paused = []) :
    Post (portSend n pcp len (.packet x)) s (fun _ t => .packet x ∈ t.out) := by
  refine post_bind (post_look (post_bind (post_look ?_)))
  rw [if_neg (by simp [hholds, hpaused])]
  exact post_bind (post_look (post_bind ((acts_portSent_sends _ _ _ s).mono (fun _ t _ => post_bind (post_act (post_pure List.mem_cons_self))))))

/-- What a frame on the wire says of the packet it carries. -/
def NrtFrame.carries (x : NrtFrame) (f i : Nat) (w : NPath) (p : Packet) : Prop :=
  x.port = w.port ∧ x.flow = f ∧ x.path = i ∧ x.ip = w.ip ∧ x.ect = isDataOp p.op ∧ x.pkt = { p with path := i }

theorem post_packetOut_goes {f i : Nat} {p : Packet} {w : NPath} {s : State} (hs : s.Inv) (hpath : (s.flow f).paths[i]? = some w) (hport : w.port ≤ 8) (hholds : s.portHolds w.port = false)
    (hpaused : (s.port w.port).paused = []) : Post (packetOut f i p) s (fun _ t => ∃ x : NrtFrame, .packet x ∈ t.out ∧ x.carries f i w p) := by
  refine post_bind (post_look ?_)
  rw [hpath]
  refine post_bind (post_look (post_bind (post_look (post_bind (post_look (post_bind (post_getFld ?_)))))))
  have hpmu : Acts Act.onWire (pmuNrt 0x0A f p) := acts_bind (acts_look _) (fun _ => acts_bind (acts_look _) (fun _ => acts_pmuHub onHubCounters_sends))
  refine post_bind ((holds_sends hpmu s hs).mono (fun _ t1 ⟨_, h1⟩ => (post_portSend_goes ?_ ((h1.paused _).trans hpaused)).mono (fun _ t hout => ⟨_, hout, rfl, rfl, rfl, rfl, rfl, rfl⟩)))
  have hreg : t1.reg (Reg.MAC_STATUS w.port) = s.reg (Reg.MAC_STATUS w.port) := h1.status _ (macStatus_port hport)
  rw [← hholds, State.portHolds, State.portHolds, State.fld_congr (f := Fl.MAC_STATUS_STATE w.port) hreg, State.fld_congr (f := Fl.MAC_STATUS_LPI_TX w.port) hreg]

/-- A HEARTBEAT goes at once by each path that is for it, whose port neither holds nor pauses. -/
structure Beats (f : Nat) (p : Packet) (s : State) (done : List Nat) (t : State) : Prop where
  inv : t.Inv
  sends : Sends s t
  goes : ∀ i ∈ done, ∀ w, (s.flow f).paths[i]? = some w → w.port ≤ 8 → s.portHolds w.port = false → (s.port w.port).paused = [] → ∃ x : NrtFrame, .packet x ∈ t.out ∧ x.carries f i w p

theorem portHolds_congr {s t : State} (h : Sends s t) {n : Nat} (hn : n ≤ 8) : t.portHolds n = s.portHolds n := by
  have hreg : t.reg (Reg.MAC_STATUS n) = s.reg (Reg.MAC_STATUS n) := h.status _ (macStatus_port hn)
  rw [State.portHolds, State.portHolds, State.fld_congr (f := Fl.MAC_STATUS_STATE n) hreg, State.fld_congr (f := Fl.MAC_STATUS_LPI_TX n) hreg]

theorem post_beats (f : Nat) (p : Packet) (l : List Nat) {s : State} (hs : s.Inv) : Post (forIn l PUnit.unit (fun i _ => do
      packetOut f i p
      pure (ForInStep.yield PUnit.unit))) s (fun _ t => Beats f p s l t) := by
  refine post_for (Beats f p s) (fun pre i _ t h => ?_) ⟨hs, composes_sends.refl s, fun _ => (nomatch ·)⟩
  have hnrt : t.nrt = s.nrt := h.sends.rest .nrt (by decide)
  have hpaths : (t.flow f).paths = (s.flow f).paths := by rw [State.flow, hnrt, ← State.flow]
  have hsends := holds_sends (acts_packetOut f i p) t h.inv
  have hold : Post (packetOut f i p) t (fun _ u => (u.Inv ∧ Sends t u) ∧ ∀ w, (s.flow f).paths[i]? = some w → w.port ≤ 8 → s.portHolds w.port = false → (s.port w.port).paused = [] →
      ∃ x : NrtFrame, .packet x ∈ u.out ∧ x.carries f i w p) := by
    by_cases hgo : ∃ w, (s.flow f).paths[i]? = some w ∧ w.port ≤ 8 ∧ s.portHolds w.port = false ∧ (s.port w.port).paused = []
    · obtain ⟨w, hw, hport, hholds, hpaused⟩ := hgo
      have hgoes := post_packetOut_goes (p := p) h.inv (hpaths ▸ hw) hport ((portHolds_congr h.sends hport).trans hholds) ((h.sends.paused _).trans hpaused)
      exact (hsends.and hgoes).mono (fun _ u ⟨hu, hx⟩ => ⟨hu, fun w' hw' _ _ _ => by
        obtain rfl : w = w' := Option.some.inj (hw.symm.trans hw')
        exact hx⟩)
    · exact hsends.mono (fun _ u hu => ⟨hu, fun w hw hport hholds hpaused => absurd ⟨w, hw, hport, hholds, hpaused⟩ hgo⟩)
  refine hold.mono (fun _ u ⟨⟨hu, hsend⟩, hgoes⟩ => ⟨hu, composes_sends.trans h.sends hsend, fun k hk w hw hport hholds hpaused => ?_⟩)
  rcases List.mem_append.mp hk with hk | hk
  · obtain ⟨x, hx, hcarries⟩ := h.goes k hk w hw hport hholds hpaused
    exact ⟨x, hsend.out hx, hcarries⟩
  · obtain rfl := List.mem_singleton.mp hk
    exact hgoes w hw hport hholds hpaused

theorem heartbeatSend_goes {s : State} (hs : s.Inv) {dest : Nat} (hrun : s.fld Fl.COLL_CTRL_RUN = 1) (hnrt : s.fld Fl.NRT_CTRL_RUN = 1) (hme : dest ≠ s.me)
    (hdest : dest = s.coll.manager ∨ s.coll.standby = some dest) (hstate : (s.flow (4032 + dest)).state = 1) : Completes (.heartbeatSend dest) s (fun t => t.mem = s.mem ∧ t.tiles = s.tiles ∧
        ∀ i w, (s.flow (4032 + dest)).paths[i]? = some w → s.pathUsable w false = true → s.heartbeatPort dest w.port = true → s.portHolds w.port = false → (s.port w.port).paused = [] →
          ∃ x : NrtFrame, .packet x ∈ t.out ∧ x.port = w.port ∧ x.flow = 4032 + dest ∧ x.path = i ∧ x.ip = w.ip ∧ x.ect = false ∧ x.pkt.op = opMgmt ∧ x.pkt.dgram = true ∧ x.pkt.path = i ∧
            x.pkt.payload = msgBytes ⟨3, s.fld Fl.COLL_STATUS_EPOCH, s.me, seqTo s dest, 0, []⟩) := by
  refine post_heartbeatSend hrun hme hdest (post_bind (post_look (post_bind (post_getFld ?_))))
  rw [if_neg (by omega), if_neg (by simp [hstate])]
  have hs1 := Act.apply_inv (.coll (fun c => { c with seq := (dest, (seqTo s dest + 1) % 2 ^ 32) :: c.seq.filter (fun e => decide (e.1 ≠ dest)) })) s hs
  refine post_bind (post_bind (post_look (post_bind (post_act (post_pure ?_)))))
  refine post_bind (post_look (post_bind (post_getFld (post_bind (post_look ((post_beats _ _ _ hs1).mono (fun _ t h => ?_)))))))
  refine ⟨(h.sends.rest .memory (by decide)).1, h.sends.rest .tiles (by decide), fun i w hw huse hbeat hholds hpaused => ?_⟩
  have hport : w.port ≤ 8 := by
    simp only [State.pathUsable, State.portUp, Bool.and_eq_true, decide_eq_true_eq] at huse
    exact huse.1.1.2.1
  have hmem : i ∈ ((s.flow (4032 + dest)).paths.zipIdx.filter (fun x => s.pathUsable x.1 false && s.heartbeatPort dest x.1.port)).map (·.2) :=
    List.mem_map.mpr ⟨(w, i), List.mem_filter.mpr ⟨List.mem_zipIdx_iff_getElem?.mpr hw, by simp [huse, hbeat]⟩, rfl⟩
  obtain ⟨x, hx, hport, hflow, hpath, hip, hect, hpkt⟩ := h.goes i hmem w hw hport hholds hpaused
  exact ⟨x, hx, hport, hflow, hpath, hip, hect, congrArg Packet.op hpkt, congrArg Packet.dgram hpkt, congrArg Packet.path hpkt, congrArg Packet.payload hpkt⟩

end Sys2Proof.Machine
end

section
/-! SUPPORT. A lost module returns: the manager orders a restore, and takes its own part (R368, R370, R371). -/

namespace Sys2Proof.Machine

open Sys2Proof

/-! The manager's own part. -/

/-- A report that waits for the standby is not made again. -/
theorem post_report_waits {k r : Nat} {s : State} (hs : s.Inv) (hwait : s.coll.journal.any (fun e => decide (e.2 = .restored k r)) = true) : Post (mgrReport (.restored k r)) s (fun _ t =>
    t.Inv ∧ Within (runScope s.coll.mgr.held) s t) := by
  refine post_bind (post_look (post_bind (post_look ?_)))
  rw [if_neg (by rw [hwait]; simp)]
  exact post_mgrRun 64 hs

/-- What the order of a restore makes due on the manager's module. -/
def State.ownDue (s : State) (r : Nat) : Prop :=
  r = 0 ∨ (s.coll.rejoin = false ∧ ∀ g ∈ s.upd.groups, g.step = r ∧ (s.overlap = false ∨ s.coll.twinLost = true ∨ g.obj = 0xFFFF))

theorem restoreDue_own {s : State} {r : Nat} (h : s.ownDue r) : s.restoreDue r false = true :=
  restoreDue_of (h.imp id (fun ⟨hrejoin, hgroups⟩ => ⟨hrejoin, fun g hg => ⟨(hgroups g hg).1, .inr (hgroups g hg).2⟩⟩))

theorem ownDue_congr {s t : State} {r : Nat} (hrejoin : t.coll.rejoin = s.coll.rejoin) (htwin : t.coll.twinLost = s.coll.twinLost) (hgroups : t.upd.groups = s.upd.groups) (hlap : t.overlap = s.overlap) :
    t.ownDue r ↔ s.ownDue r := by
  rw [State.ownDue, State.ownDue, hrejoin, htwin, hgroups, hlap]

/-- The manager's own part is taken: with other modules RESTORED waits for theirs, and a part that is due is recorded. -/
structure OwnTaken (r : Nat) (s t : State) : Prop where
  inv : t.Inv
  within : Within (ownScope s.coll.mgr.held) s t
  waits : 1 < s.modules → s.fld Fl.COLL_STATUS_RESTORED = 0 → t.fld Fl.COLL_STATUS_RESTORED = 0
  mine : s.coll.journal = [] → s.ownDue r → s.me ∈ t.coll.mgr.restored

theorem not_allRestored {s : State} (h : 1 < s.modules) (k : Nat) : s.allRestored [k] = false := by
  rw [State.allRestored, List.all_eq_false]
  by_cases hk : k = 0
  · exact ⟨1, List.mem_range.mpr h, by simp [hk]⟩
  · exact ⟨0, List.mem_range.mpr (by omega), by simpa using Ne.symm hk⟩

section
variable {s : State} (hs : s.Inv) (hstandby : s.coll.mgr.standby = none) (hfirst : s.coll.mgr.restored = [])
include hs hstandby hfirst

/-- The manager's report of its own part. -/
theorem post_ownReport (r : Nat) : Post (mgrReport (.restored s.me r)) s (fun _ t => t.Inv ∧ Within (seatScope s.coll.mgr.held) s t ∧
    (1 < s.modules → s.fld Fl.COLL_STATUS_RESTORED = 0 → t.fld Fl.COLL_STATUS_RESTORED = 0) ∧ (s.coll.journal = [] → s.me ∈ t.coll.mgr.restored)) := by
  cases hwait : s.coll.journal.any (fun e => decide (e.2 = .restored s.me r)) with
  | true =>
    refine (post_report_waits hs hwait).mono (fun _ t ⟨ht, h⟩ => ⟨ht, h.seat, fun _ hzero => (h.status _ (by simp [runScope])).trans hzero, fun hempty => ?_⟩)
    rw [hempty] at hwait
    cases hwait
  | false =>
    have hfree : ∀ e ∈ s.coll.journal, e.2 ≠ .restored s.me r := fun e he => by simpa using List.any_eq_false.mp hwait e he
    have hlist : s.coll.mgr.withRestored s.me = [s.me] := by
      rw [Mgr.withRestored, hfirst]
      rfl
    refine (post_report_alone hs hstandby (by rw [hfirst]; rfl) hfree).mono (fun _ t h => ⟨h.inv, h.within, fun hmany hzero => ?_, fun _ => ?_⟩)
    · rw [h.status, hlist, if_neg (by simp [not_allRestored hmany]), hzero]
    · rw [h.restored, hlist]
      exact List.mem_singleton_self _

theorem post_ownPart {r : Nat} (hown : s.coll.ownRestore = some r) (hmanager : s.coll.manager = s.me) : Post mgrOwn s (fun _ t => OwnTaken r s t) := by
  have o := composes_within (ownScope s.coll.mgr.held)
  refine post_bind (post_look ?_)
  rw [hown]
  have hact : (Act.coll (fun c => { c with ownRestore := none })).within (workScope false false) := fun _ => rfl
  refine post_bind (post_act (post_bind ((post_restoreBegin r (Act.apply_inv _ s hs)).mono (fun _ t1 ⟨ht1, h1, hcoll⟩ => ?_))))
  have h1 : Within (workScope false false) s t1 := (composes_within _).trans (hact.holds hs) h1
  have hrestored1 : t1.fld Fl.COLL_STATUS_RESTORED = s.fld Fl.COLL_STATUS_RESTORED := h1.status _ (by simp [workScope])
  have hr : t1.coll.restoring = some r := (congrArg Coll.restoring hcoll :)
  have howed : t1.ownDue r ↔ s.ownDue r := ownDue_congr (congrArg Coll.rejoin hcoll :) (congrArg Coll.twinLost hcoll :) (h1.groups rfl) h1.overlap
  cases hdue : t1.restoreDue r false with
  | false =>
    refine (post_restoreTry_not hr hdue).mono ?_
    rintro _ t rfl
    exact ⟨ht1, h1.own_of_work, fun _ hzero => hrestored1.trans hzero, fun _ hmine => by rw [restoreDue_own (howed.mpr hmine)] at hdue; cases hdue⟩
  | true =>
    refine post_bind (post_look ?_)
    rw [hr]
    refine post_bind (post_look ?_)
    rw [if_pos hdue]
    refine post_bind ((post_restoreHere r ht1).mono (fun _ u h2 => post_bind (post_look (post_bind (post_look ?_)))))
    have h2mgr : u.coll.mgr = s.coll.mgr := h2.within.held_work.trans h1.held_work
    have h2manager : u.coll.manager = s.coll.manager := h2.within.manager_work.trans h1.manager_work
    have h2me : u.me = s.me := h2.within.me.trans h1.me
    have h2journal : u.coll.journal = s.coll.journal := (congrArg Coll.journal h2.within.coll :).trans (congrArg Coll.journal h1.coll :)
    rw [if_pos (by rw [h2manager, h2me, hmanager])]
    refine (post_ownReport h2.inv (by rw [h2mgr, hstandby]) (by rw [h2mgr, hfirst]) r).mono (fun _ t ⟨ht, h3, hwaits, hmine⟩ => ⟨ht, ?_, fun hmany hzero => hwaits ?_ ?_, fun hempty _ => ?_⟩)
    · rw [h2mgr] at h3
      exact o.trans h1.own_of_work (o.trans h2.within.own_of_work h3.own_of_seat)
    · rwa [h2.within.modules, h1.modules]
    · rw [h2.within.status _ (by simp [workScope]), hrestored1, hzero]
    · rw [← h2me]
      exact hmine (h2journal.trans hempty)

end

/-! The order. -/

/-- A restore is ordered: what is recorded, and what stands. -/
structure Ordered (r : Nat) (s t : State) : Prop where
  inv : t.Inv
  status : t.reg Reg.COLL_STATUS = s.reg Reg.COLL_STATUS
  coll : t.coll.unnumbered = { s.coll.unnumbered with mgr := (Change.restore r).record s.coll.mgr, ownRestore := some r }
  rest : ∀ p, p ∉ [StatePart.registers, .coll, .nrt] → p.stands s t

theorem post_mgrAct_restore (r : Nat) {s : State} (hs : s.Inv) : Post (mgrAct (.restore r)) s (fun _ t => Ordered r s t) := by
  refine post_bind (post_act (post_bind ((post_sendAll _ _ _ (Act.apply_inv _ s hs)).mono (fun _ t1 ⟨l, h1⟩ => post_act ⟨Act.apply_inv _ t1 h1.inv, h1.reg _ (by decide), ?_, fun p hp => ?_⟩))))
  · exact congrArg (fun c : Coll => { c with ownRestore := some r }) h1.coll
  · have hp' : p ≠ .coll := fun hc => hp (by simp [hc])
    exact p.stands_trans (Act.apply_stands (by simpa [Act.kind, ActKind.changes] using hp') s) (p.stands_trans (h1.rest p hp) (Act.apply_stands (by simpa [Act.kind, ActKind.changes] using hp') t1))

/-- A restart that is not exact is marked and told of. -/
structure Marked (exact : Bool) (s t : State) : Prop where
  inv : t.Inv
  rest : ∀ p, p ∉ [StatePart.registers, .events] → p.stands s t
  told : exact = false → t.fld Fl.COLL_STATUS_INEXACT = 1 ∧ Records s t Ev.restoreInexact (srcUnit mColl) 0

theorem post_markInexact (exact : Bool) (slate : Nat) {s : State} (hs : s.Inv) : Post (if !exact then (do
      setBit Fl.COLL_STATUS_INEXACT
      raise Ev.restoreInexact (srcUnit mColl) 0 slate) else pure ()) s (fun _ t => Marked exact s t) := by
  refine post_ite (fun _ => ?_) (fun hno => post_pure ⟨hs, fun p _ => p.stands_refl s, fun h => absurd (by simp [h]) hno⟩)
  refine post_bind ((post_setStatus (f := Fl.COLL_STATUS_INEXACT) (by simp [statusFlds]) 1 hs).mono (fun _ t1 h1 => (post_raise_records h1.inv _ _ _ _).mono (fun _ t ⟨h2, hrec, _⟩ =>
    ⟨h2.inv, fun p hp => ?_, fun _ => ⟨(State.fld_congr (h2.reg _ (by decide))).trans h1.set, ?_⟩⟩)))
  · exact p.stands_trans (h1.rest p (by simpa using (not_or.mp (by simpa using hp)).1)) (h2.rest p hp)
  · obtain ⟨l, hl, htells⟩ := hrec
    have hevents : t1.events = s.events := (h1.rest .events (by decide)).1
    exact ⟨l, (Adds.of_eq hevents).trans hl, hevents ▸ htells⟩

/-- The place from which a lost module's state is restarted. -/
def State.restartAt (s : State) (lost : Nat) : Restart :=
  s.restart lost (Config.freeValue s.freeCount % 2 ^ 32) (bitOf (Config.freeValue (s.freeCount + 1)) 2) (bitOf (Config.freeValue (s.freeCount + 1)) 0) (bitOf (Config.freeValue (s.freeCount + 1)) 1)

/-- A restore ordered, and the manager's own part taken. -/
structure RestoreTaken (r : Restart) (s t : State) : Prop where
  restore : t.coll.mgr.restore = some r.step
  waits : 1 < s.modules → t.fld Fl.COLL_STATUS_RESTORED = 0
  mine : s.coll.journal = [] → s.ownDue r.step → s.me ∈ t.coll.mgr.restored
  told : r.exact = false → t.fld Fl.COLL_STATUS_INEXACT = 1 ∧ s.Told t Ev.restoreInexact (srcUnit mColl) 0

/-- What the manager does for a lost module that returns. -/
def RestoreAnswered (r : Restart) (s t : State) : Prop :=
  (r.possible = true → RestoreTaken r s t) ∧ (r.possible = false → t.coll.mgr = s.coll.mgr ∧ s.Told t Ev.restoreImpossible (srcUnit mColl) 0)

section
variable {s : State} (hs : s.Inv) (hmanager : s.coll.manager = s.me) (hstandby : s.coll.mgr.standby = none)
include hs hmanager hstandby

/-- RESTORED is cleared, the order recorded and the manager's own part taken. -/
theorem post_takeRestore (r : Nat) : Post (setFld Fl.COLL_STATUS_RESTORED 0 >>= fun _ => mgrChange (.restore r) >>= fun _ => mgrOwn) s (fun _ t => (∃ l, Adds s t l) ∧ t.coll.mgr.restore = some r ∧
    (1 < s.modules → t.fld Fl.COLL_STATUS_RESTORED = 0) ∧ (s.coll.journal = [] → s.ownDue r → s.me ∈ t.coll.mgr.restored) ∧
    (s.fld Fl.COLL_STATUS_INEXACT = 1 → t.fld Fl.COLL_STATUS_INEXACT = 1)) := by
  refine post_bind ((post_setStatus (f := Fl.COLL_STATUS_RESTORED) (by simp [statusFlds]) 0 hs).mono (fun _ t1 h1 => ?_))
  have hcoll1 : t1.coll = s.coll := h1.rest .coll (by decide)
  refine post_bind (post_bind (post_look ?_))
  rw [hcoll1, hstandby]
  refine (post_mgrAct_restore r h1.inv).mono (fun _ t2 h2 => ?_)
  have hmgr2 : t2.coll.mgr = (Change.restore r).record s.coll.mgr := (congrArg Coll.mgr h2.coll :).trans (by rw [hcoll1])
  have hmanager2 : t2.coll.manager = s.coll.manager := (congrArg Coll.manager h2.coll :).trans (congrArg Coll.manager hcoll1 :)
  have hjournal2 : t2.coll.journal = s.coll.journal := (congrArg Coll.journal h2.coll :).trans (congrArg Coll.journal hcoll1 :)
  have hrejoin2 : t2.coll.rejoin = s.coll.rejoin := (congrArg Coll.rejoin h2.coll :).trans (congrArg Coll.rejoin hcoll1 :)
  have htwin2 : t2.coll.twinLost = s.coll.twinLost := (congrArg Coll.twinLost h2.coll :).trans (congrArg Coll.twinLost hcoll1 :)
  have hjob2 : t2.job = s.job := (h2.rest .job (by decide)).trans (h1.rest .job (by decide))
  have hupd2 : t2.upd = s.upd := (h2.rest .upd (by decide)).trans (h1.rest .upd (by decide))
  have hevents2 : t2.events = s.events := (h2.rest .events (by decide)).1.trans (h1.rest .events (by decide)).1
  have hme2 : t2.me = s.me := by rw [State.me, State.me, hjob2]
  have howed : t2.ownDue r ↔ s.ownDue r := ownDue_congr hrejoin2 htwin2 (by rw [hupd2]) (by rw [State.overlap, State.overlap, hjob2])
  refine (post_ownPart h2.inv (by rw [hmgr2]; exact hstandby) (by rw [hmgr2]; rfl) (congrArg Coll.ownRestore h2.coll :) (by rw [hmanager2, hme2, hmanager])).mono (fun _ t h3 =>
    ⟨?_, ?_, fun hmany => h3.waits ?_ ?_, fun hempty hmine => ?_, fun hx => h3.within.inexact ?_⟩)
  · obtain ⟨l, hl⟩ := h3.within.events
    exact ⟨[] ++ l, (Adds.of_eq hevents2).trans hl⟩
  · have hrestore : t.coll.mgr.restore = t2.coll.mgr.restore := congrArg (fun e : Nat × Mgr => e.2.restore) h3.within.coll
    rw [hrestore, hmgr2]
    rfl
  · rw [State.modules, hjob2]
    exact hmany
  · exact (State.fld_congr h2.status).trans h1.set
  · rw [← hme2]
    exact h3.mine (hjournal2.trans hempty) (howed.mpr hmine)
  · exact (State.fld_congr h2.status).trans ((h1.others _ (by simp [statusFlds]) (by simp [Fld.apart, Fl.COLL_STATUS_RESTORED, Fl.COLL_STATUS_INEXACT])).trans hx)

theorem post_restorePossible (r : Restart) : Post (do
      act (.coll (fun c => { c with restartReads := if r.exact then none else some r.step }))
      if !r.exact then
        setBit Fl.COLL_STATUS_INEXACT
        raise Ev.restoreInexact (srcUnit mColl) 0 (mkSlate r.step 0 0 0 0)
      setFld Fl.COLL_STATUS_RESTORED 0
      mgrChange (.restore r.step)
      mgrOwn) s (fun _ t => RestoreTaken r s t) := by
  refine post_bind (post_act (post_when_then (m := (do
      setBit Fl.COLL_STATUS_INEXACT
      raise Ev.restoreInexact (srcUnit mColl) 0 (mkSlate r.step 0 0 0 0))) ((post_markInexact r.exact _ (Act.apply_inv _ s hs)).mono (fun _ t1 h1 => ?_))))
  have hcoll1 : t1.coll = { s.coll with restartReads := if r.exact then none else some r.step } := h1.rest .coll (by decide)
  have hjob1 : t1.job = s.job := h1.rest .job (by decide)
  have hupd1 : t1.upd = s.upd := h1.rest .upd (by decide)
  have hme1 : t1.me = s.me := by rw [State.me, State.me, hjob1]
  have howed : t1.ownDue r.step ↔ s.ownDue r.step := ownDue_congr (by rw [hcoll1]) (by rw [hcoll1]) (by rw [hupd1]) (by rw [State.overlap, State.overlap, hjob1])
  refine (post_takeRestore h1.inv (by rw [hcoll1, hme1]; exact hmanager) (by rw [hcoll1]; exact hstandby) r.step).mono (fun _ t ⟨hevents, hrestore, hwaits, hmine, hinexact⟩ =>
    ⟨hrestore, fun hmany => hwaits ?_, fun hempty howes => ?_, fun hno => ⟨hinexact (h1.told hno).1, ((h1.told hno).2.later hevents).told⟩⟩)
  · rwa [State.modules, hjob1]
  · rw [← hme1]
    exact hmine (by rw [hcoll1]; exact hempty) (howed.mpr howes)

theorem post_orderRestore (lost : Nat) : Post (orderRestore lost) s (fun _ t => RestoreAnswered (s.restartAt lost) s t) := by
  refine post_bind (post_bind (post_look (post_bind (post_act (post_pure ?_)))))
  refine post_bind (post_bind (post_look (post_bind (post_act (post_pure (post_bind (post_look ?_)))))))
  have hs2 := Act.apply_inv .free _ (Act.apply_inv .free s hs)
  show Post (if (!(s.restartAt lost).possible) = true then _ else _) _ _
  refine post_ite (fun hno => ?_) (fun hyes => ?_)
  · refine (post_raise_records hs2 _ _ _ _).mono (fun _ t ⟨h, hrec, _⟩ => ⟨fun hyes => ?_, fun _ => ⟨?_, hrec.told⟩⟩)
    · rw [hyes] at hno
      cases hno
    · exact congrArg Coll.mgr (show t.coll = s.coll from h.rest .coll (by decide))
  · refine (post_restorePossible hs2 hmanager hstandby (s.restartAt lost)).mono (fun _ t h => ⟨fun _ => ⟨h.restore, h.waits, h.mine, h.told⟩, fun hno => ?_⟩)
    rw [hno] at hyes
    exact absurd rfl hyes

end

/-- The JOIN of a lost module that returns. -/
theorem join_returns {s : State} (hs : s.Inv) {m : Msg} (h : hears s m) (hmanager : s.isManager = true) (hrejoin : (joinOf m).rejoin = true) (hlost : s.coll.mgr.lost.contains (joinOf m).module = true)
    (hstandby : s.coll.mgr.standby = none) : Completes (.join m) s (fun t => RestoreAnswered (s.restartAt (joinOf m).module) s t) := by
  refine Post.completes (m := onJoin m) (post_withMsg h (post_asManager (s := s.hear m) hmanager (post_bind (post_look ?_)))) rfl
  rw [if_pos hrejoin, if_pos (show (s.hear m).coll.mgr.lost.contains (joinOf m).module = true from hlost)]
  refine (post_orderRestore (hear_inv hs m) (of_decide_eq_true hmanager) hstandby _).mono (fun _ t ⟨htaken, hno⟩ => ⟨fun hyes => ?_, hno⟩)
  obtain ⟨hrestore, hwaits, hmine, htold⟩ := htaken hyes
  exact ⟨hrestore, hwaits, hmine, htold⟩

end Sys2Proof.Machine
end

section
/-! The obligation on jobs that join, fail over and resume. -/

namespace Sys2Proof.Machine

open Sys2Proof

/-- Settles O51, clause by clause: a message is heard or counted, a JOIN is recorded, refused or answered by a restore, and each of the manager's acts leaves what stands beside it. -/
theorem jobsJoinFailOverAndResume : Obligations.JobsJoinFailOverAndResume := by
  unfold Obligations.JobsJoinFailOverAndResume
  intro s hs
  refine ⟨fun c hc m => ⟨message_outside hc, message_reserved hc hs, message_earlier hc hs⟩, fun m h => ⟨heartbeat_hears h, fun hmanager => ⟨fun hrejoin hadmitted => ?_, fun hrejoin hlost hstandby => ?_⟩,
    joinAck_refuses hs h, joinAck_ignored h, joinAck_admits hs h, manager_noted hs h, hold_holds hs h, fun copies => ⟨?_, ?_, ?_⟩, restored_recorded hs h⟩,
    joinTimeout_told hs, fun dest => heartbeatSend_idle, fun dest hrun hnrt hme hdest => ⟨heartbeatSend_counted hs hrun hnrt hme hdest, heartbeatSend_goes hs hrun hnrt hme hdest⟩,
    fun l hrun hl hme hnew => ⟨loss_holds hs hrun hl hme hnew, loss_succeeds hs hrun hl hme hnew⟩, fun m v _ hresume hrun hmanager hrestored hk r => resume_admits hs hresume hrun hmanager hrestored hk⟩
  · exact ⟨join_refused hs h hmanager hrejoin hadmitted, join_recorded hs h hmanager hrejoin hadmitted⟩
  · obtain ⟨t, hexec, htaken, hno⟩ := join_returns hs h hmanager hrejoin hlost hstandby
    refine ⟨t, hexec, ?_⟩
    dsimp only
    split
    next hyes =>
      obtain ⟨hrestore, hwaits, hmine, htold⟩ := htaken hyes
      exact ⟨hrestore, hwaits, hmine, htold⟩
    next hnot => exact hno (Bool.eq_false_iff.mpr hnot)
  · rintro rfl hepoch hnew hgroups
    exact restore_done hs h hepoch hnew hgroups
  · rintro rfl hne hgroups
    exact restore_waits hs h hne hgroups
  · rintro c g rfl hstep hne hg
    exact restore_takes hs h hstep hne hg

end Sys2Proof.Machine
end

section
/-! SUPPORT. The cap in force as it is kept up (R30, R518). -/

namespace Sys2Proof.Machine

open Sys2Proof

/-- From one state to another only registers listed have changed. -/
structure Rewrites (l : List Nat) (s t : State) : Prop where
  inv : t.Inv
  reg : ∀ o, o ∉ l → t.reg o = s.reg o
  rest : ∀ p, p ≠ StatePart.registers → p.stands s t
  epoch : t.epoch = s.epoch

theorem Rewrites.refl {s : State} (hs : s.Inv) : Rewrites [] s s := ⟨hs, fun _ _ => rfl, fun p _ => p.stands_refl s, rfl⟩

theorem Rewrites.trans {l k : List Nat} {s t u : State} (h : Rewrites l s t) (g : Rewrites k t u) : Rewrites (l ++ k) s u :=
  ⟨g.inv, fun o ho => (g.reg o (fun hk => ho (List.mem_append_right _ hk))).trans (h.reg o (fun hl => ho (List.mem_append_left _ hl))),
    fun p hp => p.stands_trans (h.rest p hp) (g.rest p hp), g.epoch.trans h.epoch⟩

theorem Rewrites.mono {l k : List Nat} {s t : State} (h : Rewrites l s t) (hsub : l ⊆ k) : Rewrites k s t := ⟨h.inv, fun o ho => h.reg o (fun hl => ho (hsub hl)), h.rest, h.epoch⟩

theorem Rewrites.fld {l : List Nat} {s t : State} (h : Rewrites l s t) {f : Fld} (hf : f.off ∉ l) : t.fld f = s.fld f := State.fld_congr (h.reg _ hf)

theorem rewrites_reg {s : State} (hs : s.Inv) (off : Nat) (v : W32) : Rewrites [off] s ((Act.reg off v).apply s) :=
  ⟨Act.apply_inv _ s hs, fun o ho => hs.reg_apply_reg_other v (fun heq => ho (by simp [heq])), fun p hp => Act.apply_stands (by simpa [Act.kind, ActKind.changes] using hp) s, rfl⟩

/-- A field set: it holds its value, the other fields of its register stand, and so do the other registers. -/
structure FldSet (f : Fld) (v : Nat) (s t : State) : Prop where
  rewrites : Rewrites [f.off] s t
  holds : f.covered = true → t.fld f = v % 2 ^ f.width
  apart : f.covered = true → ∀ g : Fld, 0 < g.width → g.off = f.off → f.apart g → t.fld g = s.fld g

theorem fldSet_apply {s : State} (hs : s.Inv) (f : Fld) (v : Nat) : FldSet f v s ((Act.reg f.off (f.put (s.reg f.off) v)).apply s) where
  rewrites := rewrites_reg hs _ _
  holds hf := hs.fld_setFld hf v
  apart hf g hg hoff hap := by
    obtain ⟨hw, h32, -⟩ := Fld.covered_iff.mp hf
    exact hs.fld_setFld_apart hw h32 hg hoff hap v

theorem post_setFld {s : State} (hs : s.Inv) (f : Fld) (v : Nat) : Post (setFld f v) s (fun _ t => FldSet f v s t) := (does_setFld f v s).post (fldSet_apply hs f v)

theorem FldSet.other {f g : Fld} {v : Nat} {s t : State} (h : FldSet f v s t) (hoff : g.off ≠ f.off) : t.fld g = s.fld g := h.rewrites.fld (by simpa using hoff)

/-- The cap turns on the cap that is asked for, the ceiling and the effecter. -/
theorem cap_congr {s t : State} (hcap : t.fld Fl.PWRM_CAP_CAP = s.fld Fl.PWRM_CAP_CAP) (hceiling : t.fld Fl.IDENT_CAP_CEILING_CEILING = s.fld Fl.IDENT_CAP_CEILING_CEILING)
    (heffecter : t.pwr.effecter = s.pwr.effecter) : t.cap = s.cap := by
  rw [State.cap, State.cap, hcap, hceiling, heffecter]

theorem cap_lt (s : State) : s.cap < 2 ^ 10 := by
  have hlt : s.fld Fl.PWRM_CAP_CAP < 2 ^ 10 := s.fld_lt (f := Fl.PWRM_CAP_CAP) (show 0 < 10 by decide)
  unfold State.cap
  cases s.pwr.effecter <;> dsimp only <;> omega

theorem inForce_covered : Fl.PWRM_CAP_IN_FORCE.covered = true := by decide +kernel

/-- IN_FORCE reads the cap, and PWRM_CAP.CAP stands. -/
theorem post_capSync {s : State} (hs : s.Inv) : Post capSync s (fun _ t => Rewrites [Reg.PWRM_CAP] s t ∧ t.cap = s.cap ∧ t.fld Fl.PWRM_CAP_IN_FORCE = t.cap) := by
  refine post_bind (post_look ((post_setFld hs _ _).mono (fun _ t h => ?_)))
  have hpwr : t.pwr = s.pwr := h.rewrites.rest .pwr (by decide)
  have hcap : t.cap = s.cap := cap_congr (h.apart inForce_covered Fl.PWRM_CAP_CAP (show 0 < 10 by decide) rfl (.inr (by decide))) (h.other (by decide)) (by rw [hpwr])
  refine ⟨h.rewrites, hcap, ?_⟩
  rw [hcap, h.holds inForce_covered]
  exact Nat.mod_eq_of_lt (cap_lt s)

/-- The budgets follow; nothing else of the power controller moves. -/
theorem does_budgetSync (s : State) : Does budgetSync s () ((Act.pwr (fun p => { p with budgets := s.classBudgets })).apply s) := does_bind (does_look _ s) (does_act _ s)

end Sys2Proof.Machine
end

section
/-! The BMC and SPDM (R39, R43, R518, R574). -/

namespace Sys2Proof.Machine

open Sys2Proof

theorem mctpHears_own {s : State} (hrun : s.mctpRuns = true) : s.mctpHears s.mctpAddr = true := by simp [State.mctpHears, hrun]

theorem mctpHears_other {s : State} {a : Nat} (ha : a ≠ s.mctpAddr) : s.mctpHears a = false := by simp [State.mctpHears, ha]

/-- Air that flows the wrong way is told of, and that is all. -/
theorem airflow_told {s : State} {i o : Int} (hi : s.temp 5 0 = some i) (ho : s.temp 6 0 = some o) (hcold : o < i - 16) (hpower : 2000 < s.pwr.governs) :
    Completes .airflowReversed s (fun t => s.Told t Ev.airflowReversed (srcSensor 6 0) 0 ∧ t.mem = s.mem ∧ t.tiles = s.tiles) := by
  refine Post.completes ?_ rfl
  refine post_bind (post_look (post_bind (post_look (post_bind (post_look ?_)))))
  rw [hi, ho]
  refine post_ite (fun _ => (post_raise s _ _ _ _).mono (fun _ t h => ?_)) (fun hno => absurd ⟨hcold, hpower⟩ hno)
  obtain ⟨r, l, hadds, -, htold, -⟩ := h
  exact ⟨hadds.told (fun hroom => htold (by omega)), (r.raise_stands .memory (by decide)).1, r.raise_stands .tiles (by decide)⟩

section
variable {s : State} (hrun : s.mctpRuns = true)
include hrun

theorem pldm_power : exec (.pldmRequest ⟨s.mctpAddr, 0⟩ 2) s = .next { s with out := .pldm 0 2 [s.pwr.governs] :: s.out } :=
  Does.next (does_bind (does_look _ s) (does_if_pos (mctpHears_own hrun) (does_if_pos rfl
    (does_bind (does_look _ s) (does_bind (does_look _ s) (does_bind (does_look _ s) (does_bind (does_look _ s) (does_act _ s))))))))

theorem pldm_events : exec (.pldmRequest ⟨s.mctpAddr, 2⟩ 0) s = .next { s with out := .pldm 2 0 s.host.pldmLog :: s.out, host := { s.host with pldmLog := [] } } :=
  Does.next (does_bind (does_look _ s) (does_if_pos (mctpHears_own hrun) (does_if_neg (show ¬ 2 = 0 by decide) (does_if_neg (show ¬ 2 = 1 by decide)
    (does_bind (does_look _ s) (does_bind (does_act _ s) (does_if_pos rfl (does_act _ _))))))))

theorem pldm_cap (w : Nat) : Completes (.pldmRequest ⟨s.mctpAddr, 1⟩ w) s (fun t => t.pwr.effecter = some w ∧ (s.Inv → t.fld Fl.PWRM_CAP_IN_FORCE = t.cap) ∧ .pldm 1 w [] ∈ t.out) := by
  refine Post.completes ?_ rfl
  refine post_bind (post_look ?_)
  dsimp only
  rw [if_pos (mctpHears_own hrun), if_neg (by decide), if_pos rfl]
  refine post_bind (post_act ?_)
  generalize hu : (Act.pwr (fun p => { p with effecter := some w })).apply s = u
  have hset : (u.pwr.effecter = some w) := by rw [← hu]; rfl
  have hsync := fun hs : s.Inv => post_capSync (s := u) (hu ▸ Act.apply_inv _ s hs)
  refine post_bind ((does_bind (does_look _ u) (does_setFld _ _ u)).post (post_bind ((does_budgetSync _).post (post_act ⟨hset, fun hs => ?_, List.mem_cons_self⟩))))
  obtain ⟨_, t, hd, -, hcap, hforce⟩ := hsync hs
  obtain rfl := (hd (fun _ => .done)).symm.trans ((does_bind (does_look _ u) (does_setFld _ _ u)) (fun _ => .done))
  exact hforce

end

theorem pldm_other {s : State} {a : Nat} (ha : a ≠ s.mctpAddr) (op w : Nat) : exec (.pldmRequest ⟨a, op⟩ w) s = .next s :=
  Does.next (does_bind (does_look _ s) (does_if_neg (by rw [mctpHears_other ha]; decide) (does_pure _ s)))

/-- The state after an SPDM answer: it has gone out, and the transcript is what is given, with the request and the answer. -/
def State.spdmSaid (s : State) (old req a : List Byte) (n : Nat) : State :=
  { s with out := .spdm a :: s.out, rst := { s.rst with spdm := old ++ req ++ a, nonces := s.rst.nonces + n } }

theorem does_spdmSend (s : State) (req a : List Byte) : Does (spdmSend req a) s () (s.spdmSaid s.rst.spdm req a 0) := does_bind (does_act _ s) (does_act _ _)

/-- An answer without a nonce. -/
theorem does_spdmAnswer_plain {s : State} (hrun : s.mctpRuns = true) (req body : List Byte) :
    Does (spdmAnswer ⟨s.mctpAddr, req⟩ body false false) s () (s.spdmSaid s.rst.spdm req (Config.spdmAnswer req s.rst.spdm ++ body) 0) := by
  have h := does_spdmSend s req (Config.spdmAnswer req s.rst.spdm ++ body ++ [])
  rw [List.append_nil] at h
  refine does_bind (does_look _ s) (does_if_pos (mctpHears_own hrun) (does_bind (does_look _ s) (does_bind (does_look _ s) ?_)))
  simpa using h

/-- An answer signed over the transcript with a fresh nonce. -/
theorem does_spdmAnswer_signed {s : State} (hrun : s.mctpRuns = true) (req body : List Byte) :
    Does (spdmAnswer ⟨s.mctpAddr, req⟩ body true true) s () (s.spdmSaid s.rst.spdm req
      ((Config.spdmAnswer req s.rst.spdm ++ body ++ Config.spdmNonce s.rst.nonces) ++
        Config.spdmSign (s.rst.spdm ++ req ++ (Config.spdmAnswer req s.rst.spdm ++ body ++ Config.spdmNonce s.rst.nonces))) 1) :=
  does_bind (does_look _ s) (does_if_pos (mctpHears_own hrun) (does_bind (does_look _ s) (does_bind (does_look _ s) (does_bind (does_act _ s) (does_spdmSend _ _ _)))))

/-- GET_VERSION begins a new transcript. -/
theorem does_getVersion {s : State} (hrun : s.mctpRuns = true) (req : List Byte) : exec (.getVersion ⟨s.mctpAddr, req⟩) s = .next (s.spdmSaid [] req (Config.spdmAnswer req []) 0) := by
  have h := does_spdmAnswer_plain (s := (Act.rst (fun r => { r with spdm := [] })).apply s) hrun req []
  rw [List.append_nil] at h
  exact Does.next (does_bind (does_look _ s) (does_if_pos (mctpHears_own hrun) (does_bind (does_act _ s) h)))

/-- Settles O16: the BMC's requests one by one, and SPDM's by whether the answer is signed. -/
theorem bmcAndSpdmAreAnswered : Obligations.BmcAndSpdmAreAnswered := by
  unfold Obligations.BmcAndSpdmAreAnswered
  refine ⟨fun s => ⟨fun i o hi ho hcold hpower => airflow_told hi ho hcold hpower, ?_, fun a op w ha => pldm_other ha op w, fun hcfg => ?_⟩, ?_⟩
  · rintro hrun a rfl
    exact ⟨pldm_power hrun, pldm_events hrun, pldm_cap hrun⟩
  · rw [State.mctpAddr, hcfg]
    rfl
  · rintro s a r hrun rfl
    have plain := fun body => (does_spdmAnswer_plain hrun r body).next
    have signed := fun body => (does_spdmAnswer_signed hrun r body).next
    refine ⟨does_getVersion hrun r, plain [], plain [], ?_, ?_, signed [], fun hno => ?_, fun hyes => ?_⟩
    · exact Does.next (does_bind (does_look _ s) (does_spdmAnswer_plain hrun r _))
    · exact Does.next (does_bind (does_look _ s) (does_spdmAnswer_plain hrun r _))
    · refine Does.next (does_bind (does_look _ s) ?_)
      dsimp only
      rw [hno]
      exact does_spdmAnswer_plain hrun r _
    · refine Does.next (does_bind (does_look _ s) ?_)
      dsimp only
      rw [hyes]
      exact does_spdmAnswer_signed hrun r _

end Sys2Proof.Machine
end

section
/-! SUPPORT. What the links to the far dies change when a message goes out (R485, R552). -/

namespace Sys2Proof.Machine

open Sys2Proof

/-- The registers of CRAXIS and of the firewalls, and the hub's programmable counters. -/
def linkReg (o : Nat) : Bool := (decide (0x500000 ≤ o) && decide (o < 0x700000)) || pmonCounter o

theorem linkReg_iff {o : Nat} : linkReg o = true ↔ (0x500000 ≤ o ∧ o < 0x700000) ∨ pmonCounter o = true := by simp [linkReg]

/-- The changes of the links, and of what is told of. -/
def Act.onLinks : Act → Prop
  | .reg o _ => linkReg o = true
  | .cx _ | .cxm _ _ | .out _ | .event _ | .hub _ => True
  | _ => False

theorem onHubCounters_onLinks : OnHubCounters Act.onLinks := fun _ _ h => linkReg_iff.mpr (.inr h)

theorem cxLink_lt (h : Nat) : cxLink h < 6 := by
  unfold cxLink
  split
  · omega
  · split <;> omega

theorem linkReg_count {l n : Nat} (hl : l < 6) (hn : n < 8) : linkReg (Reg.CRAXIS_COUNT_LO l n) = true ∧ linkReg (Reg.CRAXIS_COUNT_LO l n + 4) = true := by
  rw [linkReg_iff, linkReg_iff, Reg.CRAXIS_COUNT_LO]
  omega

theorem acts_cxFlitsOut (h n : Nat) : Acts Act.onLinks (cxFlitsOut h n) := by
  obtain ⟨hlo, hhi⟩ := linkReg_count (cxLink_lt h) (show 0 < 8 by decide)
  exact acts_bind (acts_bump (fun _ => hlo) (fun _ => hhi)) (fun _ => acts_bind (acts_pmuHub onHubCounters_onLinks) (fun _ => acts_act trivial))

theorem acts_cxEmit (h op : Nat) (m : CxMsg) : Acts Act.onLinks (cxEmit h op m) :=
  acts_when_then (fun _ => acts_act trivial) (fun _ => acts_bind (acts_act trivial) (fun _ => acts_bind (acts_act trivial) (fun _ => acts_cxFlitsOut h _)))

theorem acts_resetNote (d reach cause : Nat) : Acts Act.onLinks (resetNote d reach cause) := by
  refine acts_bind (acts_look _) (fun h => ?_)
  cases h with
  | none => exact acts_pure _
  | some h => exact acts_cxEmit _ _ _

theorem acts_resetNotes (cause : Nat) : Acts Act.onLinks (resetNotes cause) := acts_bind (acts_look _) (fun _ => acts_for _ (fun _ _ => acts_resetNote _ _ _))

theorem Act.onLinks.leaves {a : Act} (h : a.onLinks) {p : StatePart} (hp : p ∉ [StatePart.registers, .cx, .outputs, .events, .hub]) : p ∉ a.kind.changes := by
  simp only [List.mem_cons, List.not_mem_nil, or_false, not_or] at hp
  obtain ⟨hregs, hcx, hout, hev, hhub⟩ := hp
  cases a <;> simp_all [Act.onLinks, Act.kind, ActKind.changes]

end Sys2Proof.Machine
end

section
/-! SUPPORT. What a reset of FULL reach keeps of the registers (R547, R577). -/

namespace Sys2Proof.Machine

open Sys2Proof

/-- Setting a list of registers, none of them o, leaves o. -/
theorem get_foldl_set_other {α β : Type} [DecidableEq α] {d : Nat → α} {m : Store α} (hm : Store.wf d m = true) {l : List β} {k : β → Nat} {o : Nat} (ho : ∀ b ∈ l, o ≠ k b)
    (v : β → α) : Store.get d (l.foldl (fun m b => Store.set d m (k b) (v b)) m) o = Store.get d m o := by
  induction l generalizing m with
  | nil => rfl
  | cons b t ih => exact (ih (Store.wf_set d _ _ hm) (fun c hc => ho c (List.mem_cons_of_mem _ hc))).trans (Store.get_set_other d _ hm (ho b List.mem_cons_self))

/-- Setting each key of a list to what a function gives it, every key of the list holds that. -/
theorem get_foldl_set_mem {α : Type} [DecidableEq α] {d : Nat → α} {m : Store α} (hm : Store.wf d m = true) {l : List Nat} {o : Nat} (ho : o ∈ l) (v : Nat → α) :
    Store.get d (l.foldl (fun m k => Store.set d m k (v k)) m) o = v o := by
  induction l generalizing m with
  | nil => cases ho
  | cons k t ih =>
    have hwf := Store.wf_set d k (v k) hm
    by_cases ht : o ∈ t
    · exact ih hwf ht
    · obtain rfl : o = k := (List.mem_cons.mp ho).resolve_right ht
      exact (get_foldl_set_other (k := fun k => k) hwf (fun c hc (heq : o = c) => ht (heq ▸ hc)) v).trans (Store.get_set_same d o (v o) hm)

/-- A register that is kept reads as it did. -/
theorem resetAll_full_kept {s : State} {o : Nat} (ho : o ∈ keptRegs) : (resetAll s false).reg o = s.reg o := by
  have hk := (show ∀ o ∈ keptRegs, o ≠ Reg.IDENT_SURVEY ∧ (∀ g ∈ List.range 12, o ≠ Reg.CLKG_GROUP g) ∧ ∀ h ∈ List.range 104, o ≠ Reg.CRAXIS_MOD_STATUS h by decide +kernel) o ho
  obtain ⟨hsurvey, hgroup, hmod⟩ := hk
  have h0 : Store.wf regReset [] = true := rfl
  have h1 := foldl_set_wf h0 (keptRegs ++ (List.range 16).map (fun i => 0x20000 + 4 * i)) (fun k => k) s.reg
  have h2 := foldl_set_wf h1 (List.range 12) Reg.CLKG_GROUP (fun g => BitVec.ofNat 32 (s.fld (Fl.CLKG_GROUP_AGE g) * 16 + 64))
  have h3 := foldl_set_wf h2 ((List.range 104).map (fun h => (h, s.fld (Fl.CRAXIS_MOD_STATUS_BAD h)))) (fun k => Reg.CRAXIS_MOD_STATUS k.1) (fun k => BitVec.ofNat 32 (0xFFC0 + k.2 * 65536))
  rw [State.reg, resetAll_full_regs, fullResetRegs]
  rw [Store.get_set_other _ _ h3 hsurvey, get_foldl_set_other h2 (fun b hb => ?_), get_foldl_set_other h1 hgroup, get_foldl_set_mem h0 (List.mem_append_left _ ho)]
  obtain ⟨h, hh, rfl⟩ := List.mem_map.mp hb
  exact hmod h hh

theorem post_bump_rewrites {s : State} (hs : s.Inv) (lo n : Nat) : Post (bump lo n) s (fun _ t => Rewrites [lo, lo + 4] s t) :=
  post_ite (fun _ => post_pure ((Rewrites.refl hs).mono (List.nil_subset _))) (fun _ => post_bind (post_look (post_bind (post_act (post_act
    ((rewrites_reg hs _ _).trans (rewrites_reg (Act.apply_inv _ s hs) _ _)))))))

/-- An entry is in a list that it joins where it was not yet. -/
theorem mem_contains_or_append (l : List Nat) (x : Nat) : x ∈ (if l.contains x then l else l ++ [x]) := by
  split
  · exact List.contains_iff_mem.mp ‹_›
  · exact List.mem_append_right _ (List.mem_singleton_self x)

/-- A source of FULL reach asserts: the cause record takes what R549 leaves of it, the interval is open, and the tiles' state is lost. -/
theorem post_assertFull {s : State} (hs : s.Inv) {src : Nat} (hsrc : src < 16) (hhost : src ≠ srcHostFull) : Post (assertFull src) s (fun _ t =>
    t.fld Fl.RSTC_CAUSE_CAUSE = s.causeKept src ∧ src ∈ t.rst.asserted ∧ t.rst.interval = true ∧ t.tiles = []) := by
  unfold assertFull
  rw [if_neg hhost]
  have hkept : s.causeKept src < 16 := by
    unfold State.causeKept
    dsimp only
    split <;> omega
  refine post_bind (post_look (post_bind (post_look (post_bind (post_look (post_bind (((acts_resetNotes src) s).mono (fun _ t1 r1 => ?_))))))))
  refine post_bind ((post_setFld (r1.inv hs) _ _).mono (fun _ t2 h2 => ?_))
  have hcause : t2.fld Fl.RSTC_CAUSE_CAUSE = s.causeKept src := (h2.holds (by decide +kernel)).trans (Nat.mod_eq_of_lt hkept)
  refine post_bind ((does_setReg _ _ t2).post (post_bind ((does_setReg _ _ _).post ?_)))
  have h4 := (rewrites_reg h2.rewrites.inv Reg.RSTC_CAUSE_TIME_LO (BitVec.ofNat 32 s.time)).trans
    (rewrites_reg (Act.apply_inv _ _ h2.rewrites.inv) Reg.RSTC_CAUSE_TIME_HI (BitVec.ofNat 32 (s.time / 2 ^ 32)))
  generalize (Act.reg Reg.RSTC_CAUSE_TIME_HI (BitVec.ofNat 32 (s.time / 2 ^ 32))).apply ((Act.reg Reg.RSTC_CAUSE_TIME_LO (BitVec.ofNat 32 s.time)).apply t2) = t4 at h4 ⊢
  have h4c : t4.fld Fl.RSTC_CAUSE_CAUSE = s.causeKept src := (h4.fld (by decide)).trans hcause
  have hcount : Post (if s.rst.widest < 2 then bump (Reg.RSTC_COUNT_LO 0) 1 else pure ()) t4 (fun _ t => t.fld Fl.RSTC_CAUSE_CAUSE = s.causeKept src) :=
    post_ite (fun _ => (post_bump_rewrites h4.inv _ _).mono (fun _ _ h5 => (h5.fld (by decide)).trans h4c)) (fun _ => post_pure h4c)
  refine post_when_then (hcount.mono (fun _ t5 h5 => ?_))
  exact post_bind (post_act (post_act ⟨(State.fld_congr (resetAll_full_kept (by decide))).trans h5, mem_contains_or_append _ _, rfl, rfl⟩))

end Sys2Proof.Machine
end

section
/-! The supply survey and the cap ceiling (R30, R46, R47). -/

namespace Sys2Proof.Machine

open Sys2Proof

/-- The registers that the keeper records a supply survey in. -/
def supplyRegs : List Nat := [Reg.IDENT_SUPPLY_SLOT, Reg.IDENT_SUPPLY_CONN0, Reg.IDENT_SUPPLY_CONN1, Reg.IDENT_CAP_CEILING, Reg.IDENT_SURVEY, Reg.PWRM_CAP]

/-- The ceiling c has been recorded: it reads so, and the cap follows it. -/
structure Supplied (c : Nat) (s t : State) : Prop where
  inv : t.Inv
  ceiling : t.fld Fl.IDENT_CAP_CEILING_CEILING = c
  supplyOk : t.fld Fl.IDENT_SURVEY_SUPPLY_OK = (if 300 ≤ c then 1 else 0)
  inForce : t.fld Fl.PWRM_CAP_IN_FORCE = t.cap
  reg : ∀ o, o ∉ supplyRegs → t.reg o = s.reg o
  rst : ∃ v, t.rst = { s.rst with volts := v }
  tripAt : t.pwr.tripAt = s.pwr.tripAt
  time : t.time = s.time

theorem Supplied.fld {c : Nat} {s t : State} (h : Supplied c s t) {f : Fld} (hf : f.off ∉ supplyRegs) : t.fld f = s.fld f := State.fld_congr (h.reg _ hf)

theorem Supplied.rstState {c : Nat} {s t : State} (h : Supplied c s t) : t.rstState = s.rstState := h.fld (f := Fl.RSTC_STATE_STATE) (by decide)

/-- What a cause record takes does not turn on the supplies. -/
theorem Supplied.causeKept {c : Nat} {s t : State} (h : Supplied c s t) (cause : Nat) : t.causeKept cause = s.causeKept cause := by
  obtain ⟨v, hv⟩ := h.rst
  have hreg : ∀ o ∈ [Reg.RSTC_CAUSE_TIME_LO, Reg.RSTC_CAUSE_TIME_LO + 4], o ∉ supplyRegs := by decide
  have h64 : t.reg64 Reg.RSTC_CAUSE_TIME_LO = s.reg64 Reg.RSTC_CAUSE_TIME_LO := State.reg64_congr (h.reg _ (hreg _ (by simp))) (h.reg _ (hreg _ (by simp)))
  unfold State.causeKept
  rw [hv, h64, h.time, h.fld (f := Fl.RSTC_CAUSE_CAUSE) (by decide)]

/-- A field set where the registers of a list are free to change. -/
theorem post_setFld_within {l : List Nat} {s t : State} (h : Rewrites l s t) {f : Fld} (hf : f.off ∈ l) (v : Nat) : Post (setFld f v) t (fun _ u => Rewrites l s u ∧ FldSet f v t u) :=
  (post_setFld h.inv f v).mono (fun _ _ g => ⟨(h.trans g.rewrites).mono (by simp [hf]), g⟩)

theorem ceilingOf_le (l : List Nat) : ceilingOf l ≤ 800 := Nat.min_le_left _ _

theorem post_supplyRecord {s : State} (hs : s.Inv) (x : Supply) (l : List Nat) : Post (supplyRecord x l) s (fun _ t => Supplied (ceilingOf l) s t) := by
  refine post_bind (post_act ?_)
  generalize hu : (Act.rst (fun r => { r with volts := [x.slot, x.conn0, x.conn1, x.v33, x.vaux] })).apply s = u
  have hrst : u.rst = { s.rst with volts := [x.slot, x.conn0, x.conn1, x.v33, x.vaux] } := by rw [← hu]; rfl
  have hrest : ∀ p, p ≠ StatePart.rst → p.stands s u := fun p hp => hu ▸ Act.apply_stands (by simpa [Act.kind, ActKind.changes] using hp) s
  have h0 : Rewrites supplyRegs u u := (Rewrites.refl (hu ▸ Act.apply_inv _ s hs)).mono (List.nil_subset _)
  refine post_bind ((post_setFld_within h0 (by decide) _).mono (fun _ t1 ⟨h1, _⟩ => post_bind ((post_setFld_within h1 (by decide) _).mono (fun _ t2 ⟨h2, _⟩ => ?_))))
  refine post_bind ((post_setFld_within h2 (by decide) _).mono (fun _ t3 ⟨h3, _⟩ => post_bind ((post_setFld_within h3 (by decide) _).mono (fun _ t4 ⟨h4, _⟩ => ?_))))
  refine post_bind ((post_setFld_within h4 (by decide) _).mono (fun _ t5 ⟨h5, _⟩ => post_bind ((post_setFld_within h5 (by decide) _).mono (fun _ t6 ⟨h6, _⟩ => ?_))))
  refine post_bind ((post_setFld_within h6 (by decide) _).mono (fun _ t7 ⟨h7, _⟩ => post_bind ((post_setFld_within h7 (by decide) _).mono (fun _ t8 ⟨h8, _⟩ => ?_))))
  refine post_bind ((post_setFld_within h8 (by decide) _).mono (fun _ t9 ⟨h9, hceiling⟩ => post_bind ((post_setFld_within h9 (by decide) _).mono (fun _ t10 ⟨h10, hok⟩ => ?_))))
  refine post_bind ((post_capSync h10.inv).mono (fun _ t11 ⟨h11, _, hforce⟩ => (does_budgetSync t11).post ?_))
  have hall := h10.trans h11
  have hpwr : ∀ p, p ≠ StatePart.pwr → p.stands t11 ((Act.pwr (fun p => { p with budgets := t11.classBudgets })).apply t11) := fun p hp =>
    Act.apply_stands (by simpa [Act.kind, ActKind.changes] using hp) t11
  have hfld : ∀ f : Fld, ((Act.pwr (fun p => { p with budgets := t11.classBudgets })).apply t11).fld f = t11.fld f := fun f => rfl
  exact {
    inv := Act.apply_inv _ _ h11.inv
    ceiling := by
      rw [hfld, h11.fld (by decide), hok.other (by decide), hceiling.holds (by decide +kernel)]
      exact Nat.mod_eq_of_lt (Nat.lt_of_le_of_lt (ceilingOf_le l) (by decide))
    supplyOk := by
      rw [hfld, h11.fld (by decide), hok.holds (by decide +kernel)]
      split <;> rfl
    inForce := hforce
    reg := fun o ho => (hall.reg o (by simpa using ⟨ho, fun h => ho (by simp [h, supplyRegs])⟩)).trans (congrArg (fun l => Store.get regReset l o) (hrest .registers (by decide)))
    rst := ⟨_, (hall.rest .rst (by decide)).trans hrst⟩
    tripAt := congrArg (·.tripAt) ((hall.rest .pwr (by decide)).trans (hrest .pwr (by decide)))
    time := (hall.rest .time (by decide)).trans (hrest .time (by decide)) }

theorem post_startDies {s : State} (hs : s.Inv) : Post startDies s (fun _ t => FldSet Fl.RSTC_STATE_STATE (if s.pwr.tripAt.isSome then stThermalWait else stDies) s t) :=
  post_bind (post_look (post_setFld hs _ _))

/-- DONE is bit 0; the fields above it stand. -/
theorem post_surveyDone {s : State} (hs : s.Inv) : Post surveyDone s (fun _ t =>
    Rewrites [Reg.IDENT_SURVEY] s t ∧ ∀ g : Fld, g.off = Reg.IDENT_SURVEY → 0 < g.width → 0 < g.lo → t.fld g = s.fld g) :=
  post_bind (post_look (post_ite
    (fun _ => (post_setFld hs _ _).mono (fun _ _ h => ⟨h.rewrites, fun g hoff hw hlo => h.apart (by decide +kernel) g hw hoff (.inl hlo)⟩))
    (fun _ => post_pure ⟨(Rewrites.refl hs).mono (List.nil_subset _), fun _ _ _ _ => rfl⟩)))

/-- The start goes on from 300 W, and waits below. -/
theorem post_supplySurvey {s : State} (hs : s.Inv) (hwait : s.rstState = stSupplyWait) (x : Supply) : Post (supplySurvey x) s (fun _ t =>
    t.fld Fl.IDENT_CAP_CEILING_CEILING = ceilingOf (supplyLimits x) ∧ t.fld Fl.IDENT_SURVEY_SUPPLY_OK = (if 300 ≤ ceilingOf (supplyLimits x) then 1 else 0) ∧
    t.rstState = (if ceilingOf (supplyLimits x) < 300 then stSupplyWait else if s.pwr.tripAt.isSome then stThermalWait else stDies)) := by
  refine post_bind ((post_supplyRecord hs x (supplyLimits x)).mono (fun _ t1 h1 => post_bind (post_getFld (post_bind (post_look ?_)))))
  generalize ceilingOf (supplyLimits x) = c at h1 ⊢
  rw [h1.supplyOk, h1.rstState, hwait]
  by_cases hc : 300 ≤ c
  · rw [if_pos hc, if_pos rfl, if_neg (by omega)]
    refine post_bind ((post_startDies h1.inv).mono (fun _ t2 h2 => (post_surveyDone h2.rewrites.inv).mono (fun _ t3 ⟨h3, hok⟩ => ⟨?_, ?_, ?_⟩)))
    · rw [h3.fld (by decide), h2.other (by decide), h1.ceiling]
    · rw [hok Fl.IDENT_SURVEY_SUPPLY_OK rfl (by decide) (by decide), h2.other (by decide), h1.supplyOk, if_pos hc]
    · rw [State.rstState, h3.fld (by decide), h2.holds (by decide +kernel), h1.tripAt]
      split <;> rfl
  · rw [if_neg hc, if_neg (by decide), if_neg (by decide), if_pos (by omega)]
    exact post_pure ⟨h1.ceiling, h1.supplyOk.trans (if_neg hc), h1.rstState.trans hwait⟩

/-- Settles O14: a supply survey records the ceiling of the limits that count, and what follows turns on it alone. -/
theorem suppliesSetTheCeiling : Obligations.SuppliesSetTheCeiling := by
  unfold Obligations.SuppliesSetTheCeiling
  intro s hs x
  refine ⟨fun hwait => ?_, fun hrun i _ => ?_, fun hrun hceil => ?_, fun hrun hst hceil => ?_⟩
  · refine Post.completes (post_bind (post_look ?_)) rfl
    rw [if_pos hwait]
    exact post_supplySurvey hs hwait x
  · refine Post.completes (post_bind (post_look (post_bind (post_look ?_)))) rfl
    rw [if_pos hrun]
    exact (post_supplyRecord hs x _).mono (fun _ t h => ⟨h.ceiling, h.supplyOk, h.inForce⟩)
  · refine Post.completes (post_bind (post_look (post_bind (post_look ?_)))) rfl
    rw [if_pos hrun]
    refine post_bind ((post_supplyRecord hs x _).mono (fun _ t h => post_bind (post_look ?_)))
    rw [if_neg (fun hlow => Nat.not_lt.mpr hceil hlow.1)]
    exact post_pure ⟨h.ceiling, h.inForce⟩
  · refine Post.completes (post_bind (post_look (post_bind (post_look ?_)))) rfl
    rw [if_pos hrun]
    refine post_bind ((post_supplyRecord hs x _).mono (fun _ t h => post_bind (post_look ?_)))
    rw [if_pos ⟨hceil, h.rstState.trans_ne hst⟩, ← h.causeKept]
    exact post_assertFull h.inv (by decide) (by decide)

end Sys2Proof.Machine
end

section
/-! The survey of the cages, while another cage is still to finish (R48 to R50). -/

namespace Sys2Proof.Machine

open Sys2Proof

/-- A survey with one cage's reads changed. -/
def caged (c : Nat) (f : CageRead → CageRead) (l : List (Nat × CageRead)) : List (Nat × CageRead) := l.map (fun e => if e.1 = c then (c, f e.2) else e)

theorem find_caged (c : Nat) (f : CageRead → CageRead) (l : List (Nat × CageRead)) :
    ((caged c f l).find? (fun e => decide (e.1 = c))).map (·.2) = ((l.find? (fun e => decide (e.1 = c))).map (·.2)).map f := by
  induction l with
  | nil => rfl
  | cons e t ih =>
    by_cases he : e.1 = c
    · simp [caged, he]
    · simpa [caged, he] using ih

theorem unfinished_caged {c : Nat} {l : List (Nat × CageRead)} (h : l.any (fun e => decide (e.1 ≠ c) && !e.2.finished) = true) (f : CageRead → CageRead) :
    (caged c f l).any (fun e => !e.2.finished) = true := by
  obtain ⟨e, he, hne⟩ := List.any_eq_true.mp h
  rw [Bool.and_eq_true, decide_eq_true_eq] at hne
  exact List.any_eq_true.mpr ⟨e, List.mem_map.mpr ⟨e, he, if_neg hne.1⟩, hne.2⟩

/-- The state with a cage's reads changed. -/
def State.withCage (s : State) (c : Nat) (f : CageRead → CageRead) : State := { s with rst := { s.rst with survey := caged c f s.rst.survey } }

theorem does_modCage (c : Nat) (f : CageRead → CageRead) (s : State) : Does (modCage c f) s () (s.withCage c f) := does_act _ s

theorem cageRead_withCage {s : State} {c : Nat} {x : CageRead} (h : s.cageRead c = some x) (f : CageRead → CageRead) : (s.withCage c f).cageRead c = some (f x) := by
  have hfind := find_caged c f s.rst.survey
  unfold State.cageRead at h ⊢
  rw [h] at hfind
  exact hfind

/-- A survey with a cage to come does not end. -/
theorem does_surveyEnd_unfinished {s : State} (h : s.rst.survey.any (fun e => !e.2.finished) = true) : Does surveyEnd s () s := by
  refine does_bind (does_look _ s) (does_if_neg ?_ (does_pure _ s))
  obtain ⟨e, he, hne⟩ := List.any_eq_true.mp h
  rw [Bool.and_eq_true, List.all_eq_true]
  rintro ⟨-, hall⟩
  rw [hall e he] at hne
  cases hne

section
variable {s : State} {c : Nat} {x : CageRead} (hother : s.rst.survey.any (fun e => decide (e.1 ≠ c) && !e.2.finished) = true)
include hother

theorem does_surveyEnd_withCage (f : CageRead → CageRead) : Does surveyEnd (s.withCage c f) () (s.withCage c f) := does_surveyEnd_unfinished (unfinished_caged hother f)

/-- A cage's read is over, and the survey goes on. -/
theorem does_cageReadEnd (ok : Bool) (media length klass : Nat) (low : Bool) : Does (cageReadEnd c ok media length klass low) s ()
    (s.withCage c (fun x => { x with
      read := true, ok := ok, media := media, length := length, klass := klass, lowPower := low, finished := low || !s.cageOn c || (s.cageHeld c && !ok) })) :=
  does_bind (does_look _ s) (does_bind (does_look _ s) (does_bind (does_modCage c _ s) (does_surveyEnd_withCage hother _)))

end

/-- A command that changes a cage's read as f does leaves what f gives. -/
theorem completes_withCage {i : Instr} {s : State} {c : Nat} {x y : CageRead} (hx : s.cageRead c = some x) {f : CageRead → CageRead} (h : exec i s = .next (s.withCage c f)) (hy : f x = y) :
    Completes i s (fun t => t.cageRead c = some y) := ⟨_, h, hy ▸ cageRead_withCage hx f⟩

section
variable {s : State} {c : Nat} {x : CageRead} (hx : s.cageRead c = some x) (hread : x.read = false) (hother : s.rst.survey.any (fun e => decide (e.1 ≠ c) && !e.2.finished) = true)
include hx hread hother

theorem cmisReadDone_records (media length klass watts : Nat) : Completes (.cmisReadDone c media length klass watts) s (fun t => t.cageRead c = some { x with
    read := true, ok := true, media := media, length := length, klass := klass, lowPower := decide (120 < watts), finished := decide (120 < watts) || !s.cageOn c }) := by
  refine completes_withCage hx (Does.next (does_bind (does_look _ s) ?_)) (f := fun x => { x with
    read := true, ok := true, media := media, length := length, klass := klass, lowPower := decide (120 < watts)
    finished := decide (120 < watts) || !s.cageOn c || (s.cageHeld c && !true) }) (by simp)
  rw [hx]
  exact does_if_pos (by rw [hread]; rfl) (does_cageReadEnd hother _ _ _ _ _)

omit hother in
theorem cmisReadTimeout_retries (htries : x.tries = 0) : Completes (.cmisReadTimeout c) s (fun t => t.cageRead c = some { x with tries := 1 }) := by
  refine completes_withCage hx (Does.next (does_bind (does_look _ s) ?_)) (f := fun x => { x with tries := 1 }) rfl
  rw [hx]
  exact does_if_pos (by rw [hread]; rfl) (does_if_pos htries (does_modCage _ _ s))

theorem cmisReadTimeout_records (htries : x.tries ≠ 0) : Completes (.cmisReadTimeout c) s (fun t => t.cageRead c = some { x with
    read := true, ok := false, media := 4, length := 0xFF, klass := 0, lowPower := false, finished := !s.cageOn c || s.cageHeld c }) := by
  refine completes_withCage hx (Does.next (does_bind (does_look _ s) ?_)) (f := fun x => { x with
    read := true, ok := false, media := 4, length := 0xFF, klass := 0, lowPower := false, finished := false || !s.cageOn c || (s.cageHeld c && !false) }) (by simp)
  rw [hx]
  exact does_if_pos (by rw [hread]; rfl) (does_if_neg htries (does_cageReadEnd hother _ _ _ _ _))

/-- A cage whose module changes while it is read: the read begins anew. -/
theorem modprslChange_restarts (p : Bool) (hr : x.restarts < 2) :
    Completes (.modprslChange c p) s (fun t => t.cageRead c = some { CageRead.begin p x.changed with restarts := x.restarts + 1 }) := by
  refine completes_withCage hx (Does.next (does_bind (does_look _ s) (does_bind (does_look _ s) (does_bind (does_look _ s) ?_))))
    (f := fun x => { CageRead.begin p x.changed with restarts := x.restarts + 1 }) rfl
  rw [hx]
  refine does_if_pos (by rw [hread]; rfl) ?_
  rw [if_pos hr]
  exact does_bind (does_modCage _ _ s) (does_surveyEnd_withCage hother _)

/-- The third time it is recorded as it stands. -/
theorem modprslChange_stands (p : Bool) (hr : 2 ≤ x.restarts) : Completes (.modprslChange c p) s (fun t => t.cageRead c = some (x.asItStands p)) := by
  refine completes_withCage hx (Does.next (does_bind (does_look _ s) (does_bind (does_look _ s) (does_bind (does_look _ s) ?_)))) (f := fun x => x.asItStands p) rfl
  rw [hx]
  refine does_if_pos (by rw [hread]; rfl) ?_
  rw [if_neg (Nat.not_lt.mpr hr)]
  exact does_bind (does_modCage _ _ s) (does_surveyEnd_withCage hother _)

end

theorem cageSignalDetect_records {s : State} {c : Nat} {x : CageRead} (hx : s.cageRead c = some x) (hread : x.read = true) (hfinished : x.finished = false)
    (hother : s.rst.survey.any (fun e => decide (e.1 ≠ c) && !e.2.finished) = true) (lanes : Nat) :
    Completes (.cageSignalDetect c lanes) s (fun t => t.cageRead c = some { x with signal := lanes, finished := true }) := by
  refine completes_withCage hx (Does.next (does_bind (does_look _ s) ?_)) (f := fun x => { x with signal := lanes, finished := true }) rfl
  rw [hx]
  exact does_if_pos (by simp [hread, hfinished]) (does_bind (does_modCage _ _ s) (does_surveyEnd_withCage hother _))

/-- A module put in a cage outside its survey: the cage joins the survey. -/
theorem modprslChange_joins {s : State} {c : Nat} (hrun : s.keeperRuns = true) (hnone : s.cageRead c = none) (hfirst : s.rst.firstSurvey = true) :
    Completes (.modprslChange c true) s (fun t => t.rst.survey = s.rst.survey ++ [(c, CageRead.begin true true)]) := by
  let t : State := { s with rst := { s.rst with survey := s.rst.survey ++ [(c, CageRead.begin true true)] } }
  refine ⟨t, Does.next (does_bind (does_look _ s) (does_bind (does_look _ s) (does_bind (does_look _ s) ?_))), rfl⟩
  rw [hnone]
  exact does_if_pos ⟨hrun, hfirst⟩ (does_bind (does_act _ s) (does_surveyEnd_unfinished (s := t) (by simp [t, CageRead.begin])))

/-! The surveys of all five cages. -/

/-- The survey of all five cages, as it begins with the modules that are present. -/
def surveyOf (l : List Bool) : List (Nat × CageRead) := (List.range 5).map (fun i => (i, CageRead.begin (l.getD i false) false))

/-- With a module present it does not end at once. -/
theorem unfinished_surveyOf {l : List Bool} (h : ∃ i < 5, l.getD i false = true) : (surveyOf l).any (fun e => !e.2.finished) = true := by
  obtain ⟨i, hi, hl⟩ := h
  exact List.any_eq_true.mpr ⟨_, List.mem_map.mpr ⟨i, List.mem_range.mpr hi, rfl⟩, by rw [hl]; rfl⟩

theorem post_surveyBegin (s : State) {l : List Bool} (h : ∃ i < 5, l.getD i false = true) :
    Post (modRst (fun r => { r with survey := surveyOf l }) >>= fun _ => surveyEnd) s (fun _ t => t.rst.survey = surveyOf l) :=
  post_bind (post_act ((does_surveyEnd_unfinished (unfinished_surveyOf h)).post rfl))

/-- The changes of the walk. -/
def Act.ofWalk : Act → Prop
  | .reg _ _ | .event _ => True
  | _ => False

theorem acts_cageWalk : Acts Act.ofWalk cageWalk := by
  have hraise : ∀ {src detail slate}, Acts Act.ofWalk (raise Ev.cageConfig src detail slate) := acts_raise (fun _ _ _ => trivial) (fun _ => trivial)
  refine acts_bind (acts_look _) (fun _ => acts_bind (acts_look _) (fun _ => acts_bind (acts_forIn _ _ (fun _ _ _ => ?_)) (fun _ => acts_when (fun _ => hraise))))
  exact acts_bind (acts_setFld (fun _ => trivial)) (fun _ => acts_bind (acts_setFld (fun _ => trivial)) (fun _ => acts_when_then (fun _ => hraise) (fun _ => acts_pure _)))

theorem Act.ofWalk.rst {a : Act} (h : a.ofWalk) (s : State) : StatePart.rst.stands s (a.apply s) := by
  refine Act.apply_stands ?_ s
  cases a with
  | reg _ _ | event _ => simp [Act.kind, ActKind.changes]
  | _ => exact h.elim

theorem cageSurveyStart_begins {s : State} (hrun : s.keeperRuns = true) (hfirst : s.rst.firstSurvey = false) (hidle : s.rst.survey = []) {l : List Bool} (h : ∃ i < 5, l.getD i false = true) :
    Completes (.cageSurveyStart l) s (fun t => t.rst.survey = surveyOf l) := by
  refine Post.completes (post_bind (post_look (post_bind (post_look ?_)))) rfl
  rw [if_pos (by simp [hrun, hfirst, hidle])]
  exact post_bind ((acts_cageWalk s).mono (fun _ t _ => post_surveyBegin t h))

/-- A key that is listed keeps its value when another one is set, in a list in any order. -/
theorem Store.get_set_listed {α : Type} [DecidableEq α] {d : Nat → α} {l : Store α} {k j : Nat} (h : Store.get d l k ≠ d k) (hj : k ≠ j) (v : α) :
    Store.get d (Store.set d l j v) k = Store.get d l k := by
  induction l with
  | nil => exact absurd rfl h
  | cons e t ih =>
    obtain ⟨i, w⟩ := e
    by_cases hki : k = i
    · subst hki
      simp only [Store.set, if_neg (Ne.symm hj)]
      split
      · split
        · rfl
        · simp only [Store.get, if_neg hj]
          rw [if_neg (by omega)]
      · simp only [Store.get, if_pos]
    · have hlt : ¬k < i := fun hlt => h (by simp only [Store.get, if_neg hki, if_pos hlt])
      have hget : ∀ u : Store α, Store.get d ((i, w) :: u) k = Store.get d u k := fun u => by simp only [Store.get, if_neg hki, if_neg hlt]
      rw [hget] at h ⊢
      simp only [Store.set]
      split
      · rename_i hji
        split
        · rfl
        · simp only [Store.get, if_neg hj, if_neg (hji ▸ hlt)]
      · split
        · split
          · exact hget t
          · simp only [Store.get, if_neg hj, if_neg hki, if_neg hlt]
            exact if_neg (by omega)
        · exact (hget _).trans (ih h)

/-- What a write of IDENT_SURVEY changes. -/
def Act.ofSurveyWrite : Act → Prop
  | .reg o _ => o ≠ Reg.RSTC_STATE
  | .shadow _ _ | .event _ => True
  | _ => False

theorem onHubCounters_surveyWrite : OnHubCounters Act.ofSurveyWrite := fun o _ h => by
  have := pmonCounter_iff.mp h
  rw [Act.ofSurveyWrite, Reg.RSTC_STATE]
  omega

theorem acts_commitSurvey (m : Nat) (h : RegHit) (v : Nat) : Acts Act.ofSurveyWrite (commitReg m h Reg.IDENT_SURVEY v) := by
  have hraise : ∀ {e src detail slate}, Acts Act.ofSurveyWrite (raise e src detail slate) := acts_raise onHubCounters_surveyWrite (fun _ => trivial)
  have hset : ∀ {w}, Acts Act.ofSurveyWrite (setReg Reg.IDENT_SURVEY w) := acts_setReg (show Reg.IDENT_SURVEY ≠ Reg.RSTC_STATE by decide)
  refine acts_bind (acts_look _) (fun _ => acts_bind (acts_look _) (fun _ => acts_bind hset (fun _ => acts_when_then (fun _ => hraise) (fun _ => acts_when_then (fun _ => hraise) (fun _ => acts_when (fun _ => ?_))))))
  exact acts_bind (acts_look _) (fun _ => acts_ite (fun _ => acts_bind (acts_look _) (fun _ => acts_bind hset (fun _ => acts_act trivial))) (fun _ => acts_act trivial))

theorem acts_regWrite_survey (m v : Nat) : Acts Act.ofSurveyWrite (regWrite m Reg.IDENT_SURVEY v) := by
  have hk : (findReg Reg.IDENT_SURVEY).all (fun h => decide (h.spec.kind = .plain)) = true := by decide +kernel
  cases hf : findReg Reg.IDENT_SURVEY with
  | none =>
    unfold regWrite
    rw [hf]
    exact acts_raise onHubCounters_surveyWrite (fun _ => trivial)
  | some h =>
    rw [hf, Option.all_some, decide_eq_true_eq] at hk
    rw [regWrite_plain hf hk, byMaster_of_mayWrite (by simp [mayWrite, show keeperReads Reg.IDENT_SURVEY = false by decide])]
    exact acts_commitSurvey m h v

theorem Act.ofSurveyWrite.rst {a : Act} (h : a.ofSurveyWrite) (s : State) : StatePart.rst.stands s (a.apply s) := by
  refine Act.apply_stands ?_ s
  cases a with
  | reg _ _ | event _ | shadow _ _ => simp [Act.kind, ActKind.changes]
  | _ => exact h.elim

/-- A state of the keeper that is not its reset value stands. -/
theorem Act.ofSurveyWrite.listed {a : Act} (h : a.ofSurveyWrite) {s : State} (hs : s.reg Reg.RSTC_STATE ≠ regReset Reg.RSTC_STATE) :
    (a.apply s).reg Reg.RSTC_STATE = s.reg Reg.RSTC_STATE := by
  cases a with
  | reg o v => exact Store.get_set_listed hs (Ne.symm h) _
  | shadow _ _ => rfl
  | event e =>
    rw [apply_event]
    unfold addEvent
    dsimp only
    split
    · rfl
    · have h1 := fun v => Store.get_set_listed (j := Reg.RAS_COUNT_LO 8) hs (by decide) v
      exact (Store.get_set_listed (by rw [h1]; exact hs) (by decide) _).trans (h1 _)
  | _ => exact h.elim

theorem Ran.survey_reg {s t : State} (r : Ran Act.ofSurveyWrite s t) (hs : s.reg Reg.RSTC_STATE ≠ regReset Reg.RSTC_STATE) : t.reg Reg.RSTC_STATE = s.reg Reg.RSTC_STATE := by
  induction r with
  | refl s => rfl
  | step ha _ ih =>
    have hstep := ha.listed hs
    exact (ih (by rwa [hstep])).trans hstep

theorem listed_of_keeperRuns {s : State} (hrun : s.keeperRuns = true) : s.reg Reg.RSTC_STATE ≠ regReset Reg.RSTC_STATE := fun heq => by
  have hzero : s.rstState = 0 := by
    rw [State.rstState, State.fld, show Fl.RSTC_STATE_STATE.off = Reg.RSTC_STATE from rfl, heq]
    decide +kernel
  simp [State.keeperRuns, hzero] at hrun

theorem keeperRuns_congr {s t : State} (h : t.reg Reg.RSTC_STATE = s.reg Reg.RSTC_STATE) : t.keeperRuns = s.keeperRuns := by
  rw [State.keeperRuns, State.keeperRuns, State.rstState, State.rstState, State.fld_congr (f := Fl.RSTC_STATE_STATE) h]

theorem resurvey_begins {s : State} (hrun : s.keeperRuns = true) (hfirst : s.rst.firstSurvey = true) (hidle : s.rst.survey = []) {m v : Nat} (hbit : bitOf v 16 = true) {l : List Bool}
    (h : ∃ i < 5, l.getD i false = true) : Completes (.resurvey m v l) s (fun t => t.rst.survey = surveyOf l) := by
  refine Post.completes (m := surveyWrite m v l) (post_bind ((acts_regWrite_survey m v s).mono (fun _ t r => post_bind (post_look (post_bind (post_look ?_)))))) rfl
  have hrst : t.rst = s.rst := r.keeps (f := (·.rst)) (fun _ s ha => ha.rst s)
  rw [hrst, keeperRuns_congr (r.survey_reg (listed_of_keeperRuns hrun)), if_pos (by simp [hrun, hfirst, hidle, hbit])]
  exact post_surveyBegin t h

end Sys2Proof.Machine
end

section
/-! SUPPORT. What goes on beside the identity registers and the surveys: ports leave and packets go back (R383, R425), sends go on, a job may stop (R464). -/

namespace Sys2Proof.Machine

open Sys2Proof

/-- The identity registers and the retained state stand, and so does memory where the Reel has no transfer. -/
structure Beside (s t : State) : Prop where
  reg : ∀ o < 0x10000, t.reg o = s.reg o
  rst : t.rst = s.rst
  keeps : s.reel.xfers = [] → t.reel.xfers = [] ∧ t.mem = s.mem ∧ t.undef = s.undef

theorem beside_refl (s : State) : Beside s s := ⟨fun _ _ => rfl, rfl, fun h => ⟨h, rfl, rfl⟩⟩

theorem Beside.trans {s t u : State} (h : Beside s t) (g : Beside t u) : Beside s u where
  reg o ho := (g.reg o ho).trans (h.reg o ho)
  rst := g.rst.trans h.rst
  keeps hx := by
    obtain ⟨hx1, hm1, hu1⟩ := h.keeps hx
    obtain ⟨hx2, hm2, hu2⟩ := g.keeps hx1
    exact ⟨hx2, hm2.trans hm1, hu2.trans hu1⟩

theorem composes_beside : Composes Beside := ⟨beside_refl, Beside.trans⟩

/-- The changes that leave this whatever the state. -/
def Act.beside : Act → Prop
  | .reg o _ => 0x10000 ≤ o
  | .reel f => ∀ r, r.xfers = [] → (f r).xfers = []
  | .shadow _ _ | .event _ | .out _ | .free | .tile _ _ | .job _ | .upd _ | .coll _ | .nrt _ | .port _ _ | .hub _ | .host _ | .pwr _ | .clk _ _ | .flow _ _ => True
  | _ => False

theorem onHubCounters_beside : OnHubCounters Act.beside := fun o _ h => by
  have := pmonCounter_iff.mp h
  rw [Act.beside]
  omega

/-- What leaves the registers, memory, the Reel and the retained state. -/
theorem beside_of_stands {s t : State} (h : ∀ p ∈ [StatePart.registers, .memory, .reel, .rst], p.stands s t) : Beside s t := by
  have hregs : t.regs = s.regs := h .registers (by decide)
  obtain ⟨hmem, hundef, -⟩ : StatePart.memory.stands s t := h .memory (by decide)
  have hreel : t.reel = s.reel := h .reel (by decide)
  exact ⟨fun o _ => by rw [State.reg, State.reg, hregs], h .rst (by decide), fun hx => ⟨by rwa [hreel], hmem, hundef⟩⟩

theorem Act.beside.holds {a : Act} {s : State} (h : a.beside) (hs : s.Inv) : Beside s (a.apply s) := by
  cases a with
  | reg o v => exact ⟨fun k hk => hs.reg_apply_reg_other v (fun heq => by rw [Act.beside] at h; omega), rfl, fun hx => ⟨hx, rfl, rfl⟩⟩
  | event e =>
    have hq : ∀ k < 0x10000, quiet k = true := fun k hk => quiet_iff.mpr ⟨Bool.eq_false_iff.mpr (fun hp => by have := pmonCounter_iff.mp hp; omega), by rw [Reg.RAS_COUNT_LO]; omega, by rw [Reg.RAS_COUNT_LO]; omega⟩
    refine ⟨fun k hk => addEvent_reg hs e (hq k hk), by simp [apply_event], fun hx => by simpa [apply_event] using hx⟩
  | reel f => exact ⟨fun _ _ => rfl, rfl, fun hx => ⟨h _ hx, rfl, rfl⟩⟩
  | shadow _ _ | out _ | free | tile _ _ | job _ | upd _ | coll _ | nrt _ | port _ _ | hub _ | host _ | pwr _ | clk _ _ | flow _ _ =>
    exact beside_of_stands (fun p hp => Act.apply_stands (by revert hp; cases p <;> simp [Act.kind, ActKind.changes]) s)
  | _ => exact h.elim

theorem holds_beside {α : Type} {m : M α} (h : Acts Act.beside m) : Holds Beside m := h.holds composes_beside (fun _ _ ha hs => ha.holds hs)

theorem acts_setFld_beside {f : Fld} (h : 0x10000 ≤ f.off) (v : Nat) : Acts Act.beside (setFld f v) := acts_setFld (fun _ => h)
theorem acts_bump_beside {lo : Nat} (h : 0x10000 ≤ lo) (n : Nat) : Acts Act.beside (bump lo n) := acts_bump (fun _ => h) (fun _ => Nat.le_add_right_of_le h)
theorem acts_raise_beside {e : Ev} {src : Nat × Nat} {detail slate : Nat} : Acts Act.beside (raise e src detail slate) := acts_raise onHubCounters_beside (fun _ => trivial)
theorem acts_pmuTile_beside {n ev amount : Nat} {pc : Option Nat} {slate : Nat} {priv : Bool} : Acts Act.beside (pmuTile n ev amount pc slate priv) :=
  acts_pmuTile (fun i _ k _ w => by rw [Act.beside, Reg.TILE_PMU_SEL]; omega)

theorem acts_modTile_beside (n : Nat) (f : Tile → Tile) : Acts Act.beside (modTile n f) := acts_act trivial

/-! Clocks, power and telemetry where a job stops. -/

theorem acts_mhzSync_beside (g : Nat) : Acts Act.beside (mhzSync g) :=
  acts_bind (acts_look _) (fun _ => acts_bind (acts_look _) (fun _ => acts_bind (acts_getFld _) (fun _ => acts_bind (acts_getFld _) (fun _ =>
    acts_setFld_beside (show 0x10000 ≤ Reg.CLKG_GROUP g by rw [Reg.CLKG_GROUP]; omega) _))))

theorem acts_pointTo_beside (g p : Nat) : Acts Act.beside (pointTo g p) := acts_bind (acts_act trivial) (fun _ => acts_mhzSync_beside g)

theorem acts_matchForced_beside (p : Nat) : Acts Act.beside (matchForced p) :=
  acts_bind (acts_look _) (fun _ => acts_bind (acts_look _) (fun _ => acts_bind (acts_look _) (fun _ => acts_when (fun _ =>
    acts_bind (acts_setFld_beside (by decide) _) (fun _ => acts_when (fun _ => acts_bind (acts_act trivial) (fun _ => acts_raise_beside)))))))

theorem acts_matchSync_beside : Acts Act.beside matchSync := by
  refine acts_bind (acts_look _) (fun mp => ?_)
  cases mp with
  | none => exact acts_pure _
  | some mp =>
    refine acts_bind (acts_forIn _ _ (fun g _ _ => ?_)) (fun _ => acts_pure _)
    have hpoint : ∀ p, Acts Act.beside (pointTo g p >>= fun _ => pure (ForInStep.yield PUnit.unit)) := fun p => acts_bind (acts_pointTo_beside g p) (fun _ => acts_pure _)
    refine acts_bind (acts_getFld _) (fun _ => acts_bind (acts_look _) (fun _ => acts_bind (acts_look _) (fun _ => acts_bind (acts_look _) (fun _ => ?_))))
    exact acts_ite (fun _ => acts_ite (fun _ => hpoint _) (fun _ => acts_ite (fun _ => acts_bind (acts_matchForced_beside _) (fun _ => acts_pure _))
      (fun _ => acts_ite (fun _ => hpoint _) (fun _ => acts_pure _)))) (fun _ => acts_pure _)

theorem acts_powerSync_beside : Acts Act.beside powerSync :=
  acts_bind (acts_bind (acts_look _) (fun _ => acts_setFld_beside (by decide) _)) (fun _ => acts_bind (acts_bind (acts_look _) (fun _ => acts_act trivial)) (fun _ => acts_matchSync_beside))

theorem acts_fmthSync_beside : Acts Act.beside fmthSync := acts_bind (acts_look _) (fun _ => acts_setFld_beside (by decide) _)

theorem acts_applyShadows_beside {lo hi : Nat} (h : 0x10000 ≤ lo) : Acts Act.beside (applyShadows lo hi) := by
  intro s
  refine post_bind (post_look ?_)
  have hmem : ∀ e ∈ s.shadows.filter (fun e => decide (lo ≤ e.1) && decide (e.1 < hi)), 0x10000 ≤ e.1 := fun e he => by
    have hin := (List.mem_filter.mp he).2
    rw [Bool.and_eq_true, decide_eq_true_eq] at hin
    omega
  refine acts_bind (acts_forIn _ _ (fun e he _ => ?_)) (fun _ => acts_pure _) s
  have hset : ∀ w, Acts Act.beside (setReg e.1 w) := fun w => acts_setReg (hmem e he)
  cases e.2 with
  | none => exact acts_pure _
  | some v =>
    cases findReg e.1 with
    | none => exact acts_pure _
    | some h => exact acts_bind (acts_getReg _) (fun _ => acts_bind (hset _) (fun _ => acts_bind (acts_act trivial) (fun _ => acts_pure _)))

/-! A job stops. -/

theorem acts_swapLeave_beside (n : Nat) : Acts Act.beside (swapLeave n) :=
  acts_bind (acts_look _) (fun _ => acts_when (fun _ => acts_bind (acts_act trivial) (fun _ =>
    acts_bind (acts_look _) (fun _ => acts_bind (acts_setFld_beside (by decide) _) (fun _ => acts_setFld_beside (by decide) _)))))

theorem acts_toneStart_beside (n : Nat) : Acts Act.beside (toneStart n) :=
  acts_bind (acts_getTile _) (fun _ => acts_when (fun _ => acts_bind (acts_freeValue (P := Act.beside) trivial) (fun _ => acts_bind (acts_look _) (fun _ => acts_modTile_beside _ _))))

theorem acts_tileStop_beside (n : Nat) : Acts Act.beside (tileStop n) := by
  have hseq : 0x10000 ≤ Reg.TILE_SEQ_CTRL n ∧ 0x10000 ≤ Reg.TILE_DSP_STATUS n ∧ 0x10000 ≤ Reg.TILE_SEQ_STATUS n := by
    rw [Reg.TILE_SEQ_CTRL, Reg.TILE_DSP_STATUS, Reg.TILE_SEQ_STATUS]
    omega
  obtain ⟨hctrl, hdsp, hstatus⟩ := hseq
  refine acts_bind (acts_getFld _) (fun was => acts_bind (acts_setFld_beside hctrl _) (fun _ => acts_bind (acts_setFld_beside hdsp _) (fun _ =>
    acts_bind (acts_modTile_beside _ _) (fun _ => acts_bind (acts_swapLeave_beside n) (fun _ => ?_)))))
  exact acts_when_then (fun _ => acts_toneStart_beside n) (fun _ => acts_bind (acts_getFld _) (fun _ => acts_when (fun _ => acts_setFld_beside hstatus _)))

theorem acts_updStop_beside : Acts Act.beside updStop :=
  acts_bind (acts_setFld_beside (by decide) _) (fun _ => acts_bind (acts_act trivial) (fun _ => acts_bind (acts_setFld_beside (by decide) _) (fun _ => acts_bind (acts_look _) (fun _ =>
    acts_when (fun _ => acts_setFld_beside (by decide) _)))))

theorem acts_collStop_beside : Acts Act.beside collStop := acts_bind (acts_setFld_beside (by decide) _) (fun _ => acts_act trivial)

/-- The Reel's transfers are abandoned: where there are none, memory stands. -/
theorem holds_reelStop_beside : Holds Beside reelStop := by
  have hrest : Holds Beside (do
      act (.reel (fun r => { r with ready := false, copying := false, xfers := [], takeRecord := [] }))
      setFld Fl.REEL_CTRL_RUN 0
      setFld Fl.REEL_STATUS_BUSY 0
      setFld Fl.REEL_STATUS_INFLIGHT 0) :=
    holds_beside (acts_bind (acts_act (fun _ _ => rfl)) (fun _ => acts_bind (acts_setFld_beside (by decide) _) (fun _ =>
      acts_bind (acts_setFld_beside (by decide) _) (fun _ => acts_setFld_beside (by decide) _))))
  refine fun s hs => post_bind (post_look (post_bind ?_))
  by_cases hx : s.reel.xfers = []
  · rw [hx]
    exact post_pure (hrest s hs)
  · refine (acts_for s.reel.xfers (fun x _ => acts_abandonXfer x) s).mono (fun _ t r => (hrest t (r.inv hs)).mono (fun _ u ⟨hu, h⟩ => ⟨hu, ?_⟩))
    have hregs : t.regs = s.regs := r.undef_stands .registers (by decide)
    exact Beside.trans ⟨fun o _ => by rw [State.reg, State.reg, hregs], r.undef_stands .rst (by decide), fun hnil => absurd hnil hx⟩ h

theorem holds_stopJob_beside (code : Nat) : Holds Beside (stopJob code) := by
  have o := composes_beside
  refine holds_bind o (holds_look o _) (fun j => holds_when o (fun _ => holds_bind o (holds_beside (acts_act trivial)) (fun _ => holds_bind o ?_ (fun _ => ?_))))
  · exact holds_beside (acts_forIn _ _ (fun n _ _ => acts_bind (acts_getFld _) (fun run =>
      acts_when_then (fun _ => acts_tileStop_beside n) (fun _ => acts_pure _))))
  · refine holds_bind o holds_reelStop_beside (fun _ => holds_beside ?_)
    exact acts_bind acts_updStop_beside (fun _ => acts_bind acts_collStop_beside (fun _ => acts_bind (acts_applyShadows_beside (by decide)) (fun _ =>
      acts_bind (acts_applyShadows_beside (by decide)) (fun _ => acts_bind acts_powerSync_beside (fun _ => acts_bind acts_fmthSync_beside (fun _ => acts_raise_beside))))))

/-! Packets and sends. -/

theorem acts_portSent_beside (n frames bytes : Nat) : Acts Act.beside (portSent n frames bytes) := by
  have hcount : ∀ k, 0x10000 ≤ Reg.MAC_COUNT_LO n k := fun k => by
    rw [Reg.MAC_COUNT_LO]
    omega
  exact acts_bind (acts_bump_beside (hcount _) _) (fun _ => acts_bind (acts_bump_beside (hcount _) _) (fun _ => acts_bind (acts_act trivial) (fun _ => acts_act trivial)))

theorem acts_portOut_beside (n len : Nat) (o : Out) : Acts Act.beside (portOut n len o) := by
  refine acts_bind (acts_look _) (fun t => acts_bind (acts_portSent_beside n _ _) (fun _ => acts_bind (acts_act trivial) (fun _ => ?_)))
  cases o with
  | frame _ _ => exact acts_act trivial
  | pdelayResp _ _ _ => exact acts_bind (acts_portSent_beside n _ _) (fun _ => acts_act trivial)
  | _ => exact acts_pure _

theorem acts_portSend_beside (n pcp len : Nat) (o : Out) : Acts Act.beside (portSend n pcp len o) :=
  acts_bind (acts_look _) (fun _ => acts_bind (acts_look _) (fun _ => acts_ite
    (fun _ => acts_bind (acts_act trivial) (fun _ => acts_when (fun _ => acts_setFld_beside (by decide) _))) (fun _ => acts_portOut_beside _ _ _)))

theorem acts_pmuNrt_beside (ev f : Nat) (p : Packet) : Acts Act.beside (pmuNrt ev f p) :=
  acts_bind (acts_look _) (fun _ => acts_bind (acts_look _) (fun _ => acts_pmuHub onHubCounters_beside))

theorem acts_packetOut_beside (f i : Nat) (p : Packet) : Acts Act.beside (packetOut f i p) := by
  refine acts_bind (acts_look _) (fun fl => ?_)
  cases fl.paths[i]? with
  | none => exact acts_pure _
  | some x =>
    exact acts_bind (acts_look _) (fun _ => acts_bind (acts_look _) (fun _ => acts_bind (acts_look _) (fun _ => acts_bind (acts_getFld _) (fun _ =>
      acts_bind (acts_pmuNrt_beside _ _ _) (fun _ => acts_portSend_beside _ _ _ _)))))

theorem acts_nrtSync_beside : Acts Act.beside nrtSync :=
  acts_bind (acts_look _) (fun _ => acts_bind (acts_look _) (fun _ => acts_bind (acts_setFld_beside (by decide) _) (fun _ => acts_setFld_beside (by decide) _)))

theorem acts_nrtEnqueue_beside (f op key offset : Nat) (payload : List Byte) (slate : Nat) (tile : Option Nat) (ord : Nat) :
    Acts Act.beside (nrtEnqueue f op key offset payload slate tile ord) :=
  acts_bind (acts_look _) (fun _ => acts_when (fun _ => acts_bind (acts_act trivial) (fun _ => acts_setFld_beside (by decide) _)))

theorem acts_nrtWrite_beside (f key offset : Nat) (bytes : List Byte) (slate : Nat) (notify : Bool) (tile : Option Nat) (ord : Nat) :
    Acts Act.beside (nrtWrite f key offset bytes slate notify tile ord) := acts_bind (acts_look _) (fun _ => acts_for _ (fun _ _ => acts_nrtEnqueue_beside _ _ _ _ _ _ _ _))

theorem acts_failTake_beside (n pc line : Nat) (rejected swap : Bool) : Acts Act.beside (failTake n pc line rejected swap) := by
  have hstatus : 0x10000 ≤ Reg.TILE_SEQ_STATUS n := by
    rw [Reg.TILE_SEQ_STATUS]
    omega
  have hfail : Acts Act.beside (getTile n >>= fun t => if t.failed.isNone then (do
      let slate ← look (·.takeSlate n)
      modTile n (fun t => { t with failed := some ⟨slate, swap⟩ })
      setBit (Fl.TILE_SEQ_STATUS_TAKE_FAILED n)
      raise Ev.takeFailed (srcTile n) 0 slate
      pmuTile n 0x14 1 none slate false) else pure ()) :=
    acts_bind (acts_getTile _) (fun _ => acts_when (fun _ => acts_bind (acts_look _) (fun _ => acts_bind (acts_modTile_beside _ _) (fun _ =>
      acts_bind (acts_setFld_beside hstatus _) (fun _ => acts_bind acts_raise_beside (fun _ => acts_pmuTile_beside))))))
  exact acts_ite (fun _ => acts_bind (acts_look _) (fun _ => acts_bind (acts_modTile_beside _ _) (fun _ => hfail))) (fun _ => hfail)

theorem holds_refuseExport_beside (n : Nat) (q : SendItem) : Holds Beside (refuseExport n q) := by
  have o := composes_beside
  refine holds_bind o (holds_look o _) (fun t => holds_ite (fun _ => ?_) (fun _ => holds_beside (acts_bind acts_raise_beside (fun _ => acts_failTake_beside _ _ _ _ _))))
  exact holds_bind o (holds_beside (acts_raiseStop onHubCounters_beside (fun _ => trivial))) (fun _ => holds_stopJob_beside _)

/-- One try of a tile's next send. -/
theorem holds_pumpSends_beside (n : Nat) : Holds Beside (pumpSends n) := by
  have o := composes_beside
  have hstall : 0x10000 ≤ Reg.TILE_DSP_STALL_LO n := by
    rw [Reg.TILE_DSP_STALL_LO]
    omega
  refine holds_bind o (holds_forIn o _ _ (fun _ _ _ => holds_bind o (holds_look o _) (fun t => ?_))) (fun _ => holds_beside (acts_bind (acts_getTile _) (fun t => ?_)))
  · cases t.sendQ with
    | nil => exact holds_pure o _
    | cons q rest =>
      refine holds_bind o (holds_look o _) (fun fl => holds_ite (fun _ => holds_pure o _) (fun _ => holds_ite (fun _ => ?_) (fun _ => holds_pure o _)))
      refine holds_bind o (holds_beside (acts_modTile_beside _ _)) (fun _ => holds_bind o (holds_look o _) (fun _ => holds_bind o (holds_look o _) (fun _ => holds_bind o (holds_look o _) (fun _ => ?_))))
      refine holds_bind o (holds_beside (acts_bump_beside (by decide) _)) (fun _ => holds_bind o (holds_beside acts_pmuTile_beside) (fun _ => ?_))
      refine holds_ite (fun _ => holds_bind o (holds_refuseExport_beside n q) (fun _ => holds_pure o _)) (fun _ => holds_beside ?_)
      refine acts_bind (acts_look _) (fun _ => acts_bind acts_pmuTile_beside (fun _ => acts_bind (acts_modTile_beside _ _) (fun _ => acts_ite (fun _ => acts_bind (acts_act trivial) (fun _ => acts_pure _)) (fun _ => ?_))))
      exact acts_bind (acts_for _ (fun _ _ => acts_nrtWrite_beside _ _ _ _ _ _ _ _)) (fun _ => acts_pure _)
  · cases t.sendQ with
    | nil => exact acts_pure _
    | cons q rest => exact acts_when (fun _ => acts_bump_beside hstall _)

theorem holds_pumpAll_beside : Holds Beside pumpAll :=
  holds_bind composes_beside (holds_look composes_beside _) (fun _ => holds_for composes_beside _ (fun _ _ => holds_pumpSends_beside _))

/-! Packets come back from a port that leaves. -/

theorem acts_modFlow_beside (f : Nat) (g : Flow → Flow) : Acts Act.beside (modFlow f g) := acts_act trivial

theorem acts_sampleDone_beside (n ord : Nat) : Acts Act.beside (sampleDone n ord) := by
  refine acts_bind (acts_getTile _) (fun _ => acts_bind (acts_forIn _ _ (fun _ _ _ => acts_bind (acts_freeValue (P := Act.beside) trivial) (fun _ => acts_bind ?_ (fun _ => acts_pure _)))) (fun _ => acts_modTile_beside _ _))
  exact acts_bind (acts_look _) (fun _ => acts_bind (acts_modTile_beside _ _) (fun _ => acts_pmuTile_beside))

theorem holds_ackTx_beside (f : Nat) (hit : TxPkt → Bool) : Holds Beside (ackTx f hit) := by
  have o := composes_beside
  refine holds_bind o (holds_look o _) (fun fl => holds_when o (fun _ => holds_bind o (holds_beside (acts_modFlow_beside _ _)) (fun _ => holds_bind o (holds_beside ?_) (fun _ => holds_pumpAll_beside))))
  exact acts_forIn _ _ (fun _ _ _ => acts_bind (acts_look _) (fun _ => acts_when_then (fun _ => acts_bind (acts_modTile_beside _ _) (fun _ => acts_sampleDone_beside _ _)) (fun _ => acts_pure _)))

theorem acts_retransmit_beside (f : Nat) (x : TxPkt) (counts : Bool) : Acts Act.beside (retransmit f x counts) := by
  refine acts_bind (acts_look _) (fun fl => acts_bind (acts_look _) (fun _ => acts_bind (acts_look _) (fun path => ?_)))
  have hset : ∀ i x g, Acts Act.beside (modTx i x g) := fun _ _ _ => acts_modFlow_beside _ _
  refine acts_ite (fun _ => acts_ite (fun _ => acts_bind (acts_bump_beside (by decide) _) (fun _ => acts_bind (acts_pmuNrt_beside _ _ _) (fun _ => ?_))) (fun _ => ?_)) (fun _ => ?_)
  all_goals
    cases path with
    | none => exact acts_ite (fun _ => hset _ _ _) (fun _ => hset _ _ _)
    | some i => exact acts_bind (hset _ _ _) (fun _ => acts_packetOut_beside _ _ _)

theorem acts_rateCut_beside (f : Nat) : Acts Act.beside (rateCut f) :=
  acts_bind (acts_look _) (fun _ => acts_bind (acts_look _) (fun _ => acts_bind (acts_look _) (fun _ => acts_bind (acts_look _) (fun _ => acts_modFlow_beside _ _))))

theorem acts_flowEvent_beside (e : Ev) (f detail slate : Nat) : Acts Act.beside (flowEvent e f detail slate) := by
  refine acts_bind (acts_look _) (fun fl => acts_bind (acts_look _) (fun now => ?_))
  have hraise : ∀ g, Acts Act.beside (modFlow f g >>= fun _ => raise e (srcFlow f) detail slate) := fun _ => acts_bind (acts_modFlow_beside _ _) (fun _ => acts_raise_beside)
  cases fl.lastEvent.find? (fun x => decide (x.1 = e.code)) with
  | none => exact hraise _
  | some x => exact acts_ite (fun _ => acts_bump_beside (by decide) _) (fun _ => hraise _)

theorem holds_takeAck_beside (f ackPsn bitmap ce : Nat) : Holds Beside (takeAck f ackPsn bitmap ce) := by
  have o := composes_beside
  refine holds_bind o (holds_look o _) (fun fl => holds_bind o (holds_beside (acts_modFlow_beside _ _)) (fun _ => holds_bind o (holds_ackTx_beside _ _) (fun _ => holds_beside ?_)))
  refine acts_bind (acts_look _) (fun _ => acts_bind (acts_look _) (fun fl => acts_bind (acts_forIn _ _ (fun x _ _ => ?_)) (fun _ => ?_)))
  · cases x.sent with
    | none => exact acts_pure _
    | some t => exact acts_when_then (fun _ => acts_retransmit_beside _ _ _) (fun _ => acts_pure _)
  · exact acts_when_then (fun _ => acts_rateCut_beside f) (fun _ => acts_nrtSync_beside)

theorem holds_takeNak_beside (f psn cause : Nat) : Holds Beside (takeNak f psn cause) := by
  have o := composes_beside
  refine holds_bind o (holds_beside (acts_bump_beside (by decide) _)) (fun _ => holds_bind o (holds_look o _) (fun fl => holds_when_then o (fun _ => holds_beside (acts_modFlow_beside _ _)) (fun _ => ?_)))
  have hsync := holds_beside acts_nrtSync_beside
  have hevent : ∀ e f d s, Holds Beside (flowEvent e f d s) := fun _ _ _ _ => holds_beside (acts_flowEvent_beside _ _ _ _)
  cases fl.tx.find? (fun x => decide (x.psn = psn)) with
  | none =>
    cases fl.asks.find? (fun a => decide (a.psn = psn)) with
    | none => exact hsync
    | some a => exact holds_when_then o (fun _ => hevent _ _ _ _) (fun _ => hsync)
  | some x =>
    refine holds_ite (fun _ => ?_) (fun _ => holds_bind o (holds_ackTx_beside _ _) (fun _ => ?_))
    · exact holds_bind o (holds_look o _) (fun _ => holds_bind o (holds_look o _) (fun _ => holds_bind o (holds_beside (acts_modFlow_beside _ _)) (fun _ => hsync)))
    · cases fl.asks.find? (fun a => decide (a.psn = psn)) with
      | none => exact holds_bind o (hevent _ _ _ _) (fun _ => hsync)
      | some a => exact holds_ite (fun _ => holds_bind o (hevent _ _ _ _) (fun _ => hsync)) (fun _ => holds_bind o (hevent _ _ _ _) (fun _ => hsync))

theorem acts_countNak_beside (f : Nat) (p : Packet) : Acts Act.beside (countNak f p) := by
  refine acts_ite (fun _ => acts_bind (acts_bump_beside (by decide) _) (fun _ => acts_when_then (fun _ => acts_bump_beside ?_ _) (fun _ => acts_pmuNrt_beside _ _ _))) (fun _ => acts_pure _)
  rw [Reg.NRT_KEYFAULT_LO]
  omega

theorem holds_sendCtl_beside (f : Nat) (p : Packet) (again : Bool) : Holds Beside (sendCtl f p again) := by
  have o := composes_beside
  refine holds_bind o (holds_look o _) (fun fl => holds_bind o (holds_look o _) (fun run => holds_bind o (holds_look o _) (fun path => holds_ite (fun _ => holds_pure o _) (fun _ =>
    holds_ite (fun _ => holds_beside (acts_modFlow_beside _ _)) (fun _ => holds_when_then o (fun _ => holds_beside (acts_countNak_beside _ _)) (fun _ =>
      holds_ite (fun _ => holds_bind o (holds_look o _) (fun peer => ?_)) (fun _ => holds_beside (acts_packetOut_beside _ _ _))))))))
  exact holds_ite (fun _ => holds_beside (acts_bump_beside (by decide) _)) (fun _ => holds_ite (fun _ => holds_takeAck_beside _ _ _ _) (fun _ => holds_takeNak_beside _ _ _))

theorem holds_takeBack_beside (x : NrtFrame) : Holds Beside (takeBack x) := by
  have o := composes_beside
  have hsync := holds_beside acts_nrtSync_beside
  exact holds_ite (fun _ => hsync) (fun _ => holds_ite (fun _ => holds_bind o (holds_sendCtl_beside _ _ _) (fun _ => hsync))
    (fun _ => holds_bind o (holds_beside (acts_modFlow_beside _ _)) (fun _ => hsync)))

/-! A port leaves. -/

theorem holds_portDrop_beside (n : Nat) : Holds Beside (portDrop n) := by
  have o := composes_beside
  refine holds_bind o (holds_look o _) (fun p => holds_bind o (holds_beside (acts_act trivial)) (fun _ => holds_bind o (holds_forIn o _ _ (fun x _ _ => ?_)) (fun _ => ?_)))
  · cases x.2.2 with
    | packet k => exact holds_bind o (holds_takeBack_beside k) (fun _ => holds_pure o _)
    | _ => exact holds_pure o _
  · exact holds_pure o _

theorem acts_mirrorLost_beside : Acts Act.beside mirrorLost :=
  acts_bind (acts_look _) (fun _ => acts_when (fun _ => acts_bind (acts_act trivial) (fun _ => acts_bind (acts_setFld_beside (by decide) _) (fun _ => acts_raise_beside))))

theorem le_macStatus (n : Nat) : 0x10000 ≤ Reg.MAC_STATUS n := by
  rw [Reg.MAC_STATUS]
  omega

theorem holds_leavePort_beside (n state : Nat) : Holds Beside (leavePort n state) := by
  have o := composes_beside
  have hset : ∀ f : Fld, f.off = Reg.MAC_STATUS n → ∀ v, Holds Beside (setFld f v) := fun f hf v => holds_beside (acts_setFld_beside (hf ▸ le_macStatus n) v)
  refine holds_bind o (holds_look o _) (fun was => holds_bind o (hset _ rfl _) (fun _ => holds_bind o (hset _ rfl _) (fun _ => holds_bind o (hset _ rfl _) (fun _ =>
    holds_bind o (hset _ rfl _) (fun _ => holds_bind o (hset _ rfl _) (fun _ => holds_bind o (holds_beside (acts_act trivial)) (fun _ => ?_)))))))
  exact holds_when o (fun _ => holds_bind o (holds_portDrop_beside n) (fun _ => holds_beside (acts_bind acts_raise_beside (fun _ => acts_when (fun _ => acts_mirrorLost_beside)))))

theorem holds_cagePorts_beside (c : Nat) (on : Bool) : Holds Beside (cagePorts c on) := by
  have o := composes_beside
  refine holds_bind o (holds_look o _) (fun f => holds_bind o (holds_look o _) (fun k => holds_when o (fun _ => holds_forIn o _ _ (fun n _ _ => ?_))))
  refine holds_bind o (holds_look o _) (fun st => holds_bind o (holds_look o _) (fun run => ?_))
  exact holds_ite (fun _ => holds_bind o (holds_leavePort_beside n _) (fun _ => holds_pure o _)) (fun _ =>
    holds_ite (fun _ => holds_bind o (holds_beside (acts_setFld_beside (le_macStatus n) _)) (fun _ => holds_pure o _)) (fun _ => holds_pure o _))

end Sys2Proof.Machine
end

section
/-! A survey of the cages ends (R36, R48, R52). -/

namespace Sys2Proof.Machine

open Sys2Proof

/-- What a cage's register holds of its results. -/
structure CageHolds (c : Nat) (x : CageRead) (t : State) : Prop where
  signal : t.fld (Fl.IDENT_CAGE_SIGNAL c) = x.signal % 16
  lowPwr : t.fld (Fl.IDENT_CAGE_LOWPWR c) = if x.lowPower then 1 else 0
  mode : x.lowPower = true → t.fld (Fl.IDENT_CAGE_MODE c) = 0

theorem CageHolds.congr {c : Nat} {x : CageRead} {s t : State} (h : CageHolds c x s) (hreg : t.reg (Reg.IDENT_CAGE c) = s.reg (Reg.IDENT_CAGE c)) : CageHolds c x t where
  signal := (State.fld_congr (f := Fl.IDENT_CAGE_SIGNAL c) hreg).trans h.signal
  lowPwr := (State.fld_congr (f := Fl.IDENT_CAGE_LOWPWR c) hreg).trans h.lowPwr
  mode hlow := (State.fld_congr (f := Fl.IDENT_CAGE_MODE c) hreg).trans (h.mode hlow)

/-- From one state to another only the registers of cages have changed of what stands beside the ports. -/
structure CageWritten (l : List Nat) (s t : State) : Prop where
  inv : t.Inv
  reg : ∀ o < 0x10000, o ∉ l.map Reg.IDENT_CAGE → t.reg o = s.reg o
  rst : t.rst = s.rst
  keeps : s.reel.xfers = [] → t.reel.xfers = [] ∧ t.mem = s.mem ∧ t.undef = s.undef

theorem CageWritten.of_rewrites {c : Nat} {s t : State} (h : Rewrites [Reg.IDENT_CAGE c] s t) : CageWritten [c] s t where
  inv := h.inv
  reg o _ ho := h.reg o ho
  rst := h.rest .rst (by decide)
  keeps hx := by
    obtain ⟨hmem, hundef, -⟩ : StatePart.memory.stands s t := h.rest .memory (by decide)
    have hreel : t.reel = s.reel := h.rest .reel (by decide)
    exact ⟨by rwa [hreel], hmem, hundef⟩

theorem CageWritten.of_beside {s t : State} (ht : t.Inv) (h : Beside s t) : CageWritten [] s t := ⟨ht, fun o ho _ => h.reg o ho, h.rst, h.keeps⟩

theorem CageWritten.trans {l k : List Nat} {s t u : State} (h : CageWritten l s t) (g : CageWritten k t u) : CageWritten (l ++ k) s u where
  inv := g.inv
  reg o ho hlk := by
    rw [List.map_append, List.mem_append, not_or] at hlk
    exact (g.reg o ho hlk.2).trans (h.reg o ho hlk.1)
  rst := g.rst.trans h.rst
  keeps hx := by
    obtain ⟨hx1, hm1, hu1⟩ := h.keeps hx
    obtain ⟨hx2, hm2, hu2⟩ := g.keeps hx1
    exact ⟨hx2, hm2.trans hm1, hu2.trans hu1⟩

theorem CageWritten.mono {l k : List Nat} {s t : State} (h : CageWritten l s t) (hsub : l ⊆ k) : CageWritten k s t :=
  { h with reg := fun o ho hk => h.reg o ho (fun hl => hk (List.map_subset _ hsub hl)) }

/-- A field of a cage's register. -/
theorem cage_covered {c : Nat} (hc : c < 5) : (Fl.IDENT_CAGE_SIGNAL c).covered = true ∧ (Fl.IDENT_CAGE_LOWPWR c).covered = true ∧ (Fl.IDENT_CAGE_MODE c).covered = true := by
  revert c
  decide +kernel

theorem identCage_lt {c : Nat} (hc : c < 5) : Reg.IDENT_CAGE c < 0x10000 := by
  rw [Reg.IDENT_CAGE]
  omega

/-- A cage's results are recorded: its register holds them, and a module above 12 W has it held. -/
theorem post_cageRecord {s : State} (hs : s.Inv) {c : Nat} (hc : c < 5) (x : CageRead) : Post (cageRecord c x) s (fun _ t => CageWritten [c] s t ∧ CageHolds c x t) := by
  obtain ⟨hsignal, hlow, hmode⟩ := cage_covered hc
  refine post_bind (post_look (post_bind (post_look (post_bind (post_look (post_bind (post_look ?_)))))))
  have h0 : Rewrites [Reg.IDENT_CAGE c] s s := (Rewrites.refl hs).mono (List.nil_subset _)
  have hmem : Reg.IDENT_CAGE c ∈ [Reg.IDENT_CAGE c] := List.mem_singleton_self _
  refine post_bind ((post_setFld_within h0 hmem _).mono (fun _ t1 ⟨h1, _⟩ => post_bind ((post_setFld_within h1 hmem _).mono (fun _ t2 ⟨h2, _⟩ => ?_))))
  refine post_bind ((post_setFld_within h2 hmem _).mono (fun _ t3 ⟨h3, _⟩ => post_bind ((post_setFld_within h3 hmem _).mono (fun _ t4 ⟨h4, _⟩ => ?_))))
  refine post_bind ((post_setFld_within h4 hmem _).mono (fun _ t5 ⟨h5, _⟩ => post_bind ((post_setFld_within h5 hmem _).mono (fun _ t6 ⟨h6, g6⟩ => ?_))))
  refine post_bind ((post_setFld_within h6 hmem _).mono (fun _ t7 ⟨h7, g7⟩ => ?_))
  have h7s : t7.fld (Fl.IDENT_CAGE_SIGNAL c) = x.signal % 16 := (g7.apart hlow (Fl.IDENT_CAGE_SIGNAL c) (show 0 < 4 by decide) rfl (.inr (show 20 + 4 ≤ 28 by decide))).trans (g6.holds hsignal)
  have h7l : t7.fld (Fl.IDENT_CAGE_LOWPWR c) = if x.lowPower then 1 else 0 := (g7.holds hlow).trans (by cases x.lowPower <;> rfl)
  have hports : ∀ (p : Prop) [Decidable p] (on : Bool), Holds Beside (if p then cagePorts c on else pure ()) := fun _ _ _ => holds_when composes_beside (fun _ => holds_cagePorts_beside c _)
  have hraise : ∀ (p : Prop) [Decidable p] (e : Ev), Holds Beside (if p then raise e srcKeeper 0 0 else pure ()) := fun _ _ _ => holds_when composes_beside (fun _ => holds_beside acts_raise_beside)
  refine post_when_then ((hports _ _ t7 h7.inv).mono (fun _ t8 ⟨ht8, h8⟩ => post_bind ((post_setFld ht8 _ _).mono (fun _ t9 h9 => post_when_then ((hports _ _ t9 h9.rewrites.inv).mono (fun _ t10 ⟨ht10, h10⟩ => ?_))))))
  refine post_when_then ((hraise _ _ t10 ht10).mono (fun _ t11 ⟨ht11, h11⟩ => post_bind (post_look (post_bind (post_getReg ((hraise _ _ t11 ht11).mono (fun _ t ⟨ht, h12⟩ => ?_)))))))
  have hlast := h10.trans (h11.trans h12)
  have h8r := h8.reg _ (identCage_lt hc)
  refine ⟨((CageWritten.of_rewrites h7).trans ((CageWritten.of_beside ht8 h8).trans ((CageWritten.of_rewrites h9.rewrites).trans (CageWritten.of_beside ht hlast)))).mono (by simp), ?_⟩
  refine CageHolds.congr (s := t9) ⟨?_, ?_, fun hx => ?_⟩ (hlast.reg _ (identCage_lt hc))
  · exact (h9.apart hmode (Fl.IDENT_CAGE_SIGNAL c) (show 0 < 4 by decide) rfl (.inl (show 2 + 2 ≤ 20 by decide))).trans ((State.fld_congr h8r).trans h7s)
  · exact (h9.apart hmode (Fl.IDENT_CAGE_LOWPWR c) Nat.one_pos rfl (.inl (show 2 + 2 ≤ 28 by decide))).trans ((State.fld_congr h8r).trans h7l)
  · rw [h9.holds hmode, if_neg]
    · rfl
    · simp [CageRead.holds, hx]

/-- The results of the cages of a list are in the registers: those of each cage's first entry. -/
def CagesWritten (s : State) (l : List Nat) (t : State) : Prop := CageWritten (List.range 5) s t ∧ ∀ c ∈ l, c < 5 ∧ ∀ x, s.cageRead c = some x → CageHolds c x t

theorem CagesWritten.skip {s t : State} {l : List Nat} {c : Nat} (h : CagesWritten s l t) (hc : c < 5) (hx : s.cageRead c = none) : CagesWritten s (l ++ [c]) t := by
  refine ⟨h.1, fun k hk => ?_⟩
  rcases List.mem_append.mp hk with hk | hk
  · exact h.2 k hk
  · rw [List.mem_singleton.mp hk]
    exact ⟨hc, fun y hy => by rw [hx] at hy; cases hy⟩

theorem CagesWritten.record {s t u : State} {l : List Nat} {c : Nat} {x : CageRead} (h : CagesWritten s l t) (hc : c < 5) (hx : s.cageRead c = some x) (hu : CageWritten [c] t u)
    (hholds : CageHolds c x u) : CagesWritten s (l ++ [c]) u := by
  refine ⟨(h.1.trans hu).mono (by simpa using hc), fun k hk => ?_⟩
  by_cases heq : k = c
  · subst heq
    exact ⟨hc, fun y hy => Option.some.inj (hx.symm.trans hy) ▸ hholds⟩
  · obtain ⟨hk5, hall⟩ := h.2 k ((List.mem_append.mp hk).resolve_right (fun h => heq (List.mem_singleton.mp h)))
    refine ⟨hk5, fun y hy => (hall y hy).congr (hu.reg _ (identCage_lt hk5) ?_)⟩
    rw [List.map_singleton, List.mem_singleton, Reg.IDENT_CAGE, Reg.IDENT_CAGE]
    omega

/-- A survey has ended: no cage is in it, its results are in the registers, and COUNT has risen. -/
structure SurveyOver (s t : State) : Prop where
  survey : t.rst.survey = []
  first : t.rst.firstSurvey = true
  cage : ∀ c < 5, ∀ x, s.cageRead c = some x → CageHolds c x t
  count : t.fld Fl.IDENT_SURVEY_COUNT = min (s.fld Fl.IDENT_SURVEY_COUNT + 1) 255
  keeps : s.Keeps t

theorem post_bumpFld {s : State} (hs : s.Inv) (f : Fld) (n : Nat) : Post (bumpFld f n) s (fun _ t => FldSet f (min (s.fld f + n) (2 ^ f.width - 1)) s t) :=
  post_bind (post_getFld (post_setFld hs _ _))

/-- What follows the results: COUNT and DONE. -/
theorem CagesWritten.over {s t : State} (h : CagesWritten s (List.range 5) t) : Post (do
    modRst (fun r => { r with survey := [], firstSurvey := true })
    bumpFld Fl.IDENT_SURVEY_COUNT 1
    surveyDone) t (fun _ u => SurveyOver s u) := by
  obtain ⟨hw, hcages⟩ := h
  have hcount : Fl.IDENT_SURVEY_COUNT.covered = true := by decide +kernel
  refine post_bind (post_act ?_)
  generalize ht1 : (Act.rst (fun r => { r with survey := [], firstSurvey := true })).apply t = t1
  have hreg1 : ∀ o, t1.reg o = t.reg o := fun o => by rw [← ht1]; rfl
  have hrest1 : ∀ p, p ≠ StatePart.rst → p.stands t t1 := fun p hp => ht1 ▸ Act.apply_stands (by simpa [Act.kind, ActKind.changes] using hp) t
  refine post_bind ((post_bumpFld (ht1 ▸ Act.apply_inv _ t hw.inv) _ _).mono (fun _ t2 h2 => ?_))
  refine (post_surveyDone h2.rewrites.inv).mono (fun _ u ⟨hu, hup⟩ => ?_)
  have hreg : ∀ o ≠ Reg.IDENT_SURVEY, u.reg o = t.reg o := fun o ho => ((hu.reg o (by simpa using ho)).trans (h2.rewrites.reg o (fun h => ho (List.mem_singleton.mp h)))).trans (hreg1 o)
  have hrest : ∀ p, p ≠ StatePart.registers → p.stands t1 u := fun p hp => p.stands_trans (h2.rewrites.rest p hp) (hu.rest p hp)
  have hrst : u.rst = { t.rst with survey := [], firstSurvey := true } := (hrest .rst (by decide)).trans (by rw [← ht1]; rfl)
  have hfld : t.fld Fl.IDENT_SURVEY_COUNT = s.fld Fl.IDENT_SURVEY_COUNT := State.fld_congr (hw.reg _ (by decide) (by decide))
  exact {
    survey := by rw [hrst]
    first := by rw [hrst]
    cage := fun c hc x hx => ((hcages c (List.mem_range.mpr hc)).2 x hx).congr (hreg _ (by rw [Reg.IDENT_CAGE, Reg.IDENT_SURVEY]; omega))
    count := by
      rw [hup _ rfl (by decide) (by decide), h2.holds hcount, State.fld_congr (hreg1 _), hfld]
      exact Nat.mod_eq_of_lt (Nat.lt_of_le_of_lt (Nat.min_le_right _ _) (by decide))
    keeps := fun hx => by
      obtain ⟨-, hmem, hundef⟩ := hw.keeps hx
      obtain ⟨hmem1, hundef1, -⟩ : StatePart.memory.stands t u := StatePart.stands_trans (hrest1 .memory (by decide)) (hrest .memory (by decide))
      exact ⟨hmem1.trans hmem, hundef1.trans hundef⟩ }

/-- The last cage has finished. -/
theorem post_surveyEnd {s : State} (hs : s.Inv) (hsome : s.rst.survey ≠ []) (hall : ∀ e ∈ s.rst.survey, e.2.finished = true) : Post surveyEnd s (fun _ t => SurveyOver s t) := by
  refine post_bind (post_look ?_)
  rw [if_pos (by simpa [hsome] using hall)]
  refine post_bind ((post_forIn_split (l := List.range 5) (fun l t => CagesWritten s l t) (fun pre c rest hl t ht => ?_)
    ⟨⟨hs, fun _ _ _ => rfl, rfl, fun hx => ⟨hx, rfl, rfl⟩⟩, fun c hc => absurd hc List.not_mem_nil⟩).mono (fun _ t h => h.over))
  have hc : c < 5 := List.mem_range.mp (by rw [hl]; simp)
  refine post_bind (post_look ?_)
  rw [State.cageRead, ht.1.rst, ← State.cageRead]
  cases hx : s.cageRead c with
  | none => exact post_pure ⟨rfl, ht.skip hc hx⟩
  | some x => exact post_bind ((post_cageRecord ht.1.inv hc x).mono (fun _ u ⟨hu, hholds⟩ => post_pure ⟨rfl, ht.record hc hx hu hholds⟩))

/-! The last cage finishes. -/

/-- A cage's change that leaves it finished, where every other cage has finished, ends the survey. -/
theorem post_surveyEnd_withCage {s : State} (hs : s.Inv) {c : Nat} (hc : c < 5) {x : CageRead} (hx : s.cageRead c = some x) (hothers : ∀ e ∈ s.rst.survey, e.1 ≠ c → e.2.finished = true)
    {f : CageRead → CageRead} (hf : ∀ y, (f y).finished = true) : Post surveyEnd (s.withCage c f) (fun _ t => SurveyOver (s.withCage c f) t ∧ CageHolds c (f x) t) := by
  have hinv : (s.withCage c f).Inv := Act.apply_inv (.rst (fun r => { r with survey := caged c f r.survey })) s hs
  have hread := cageRead_withCage hx f
  refine (post_surveyEnd hinv (fun hnil => ?_) (fun e he => ?_)).mono (fun _ t h => ⟨h, h.cage c hc _ hread⟩)
  · rw [State.cageRead, hnil] at hread
    cases hread
  · obtain ⟨e, hmem, rfl⟩ := List.mem_map.mp he
    split
    · exact hf e.2
    · exact hothers e hmem ‹_›

theorem cageSignalDetect_ends {s : State} (hs : s.Inv) {c lanes : Nat} {x : CageRead} (hc : c < 5) (hlanes : lanes < 16) (hx : s.cageRead c = some x) (hread : x.read = true)
    (hfinished : x.finished = false) (hothers : ∀ e ∈ s.rst.survey, e.1 ≠ c → e.2.finished = true) : Completes (.cageSignalDetect c lanes) s (fun t =>
      t.rst.survey = [] ∧ t.rst.firstSurvey = true ∧ t.fld (Fl.IDENT_CAGE_SIGNAL c) = lanes ∧ t.fld Fl.IDENT_SURVEY_COUNT = min (s.fld Fl.IDENT_SURVEY_COUNT + 1) 255 ∧ s.Keeps t) := by
  refine Post.completes (post_bind (post_look ?_)) rfl
  rw [hx]
  dsimp only
  rw [if_pos (by simp [hread, hfinished])]
  refine post_bind ((does_modCage _ _ s).post ((post_surveyEnd_withCage hs hc hx hothers (fun _ => rfl)).mono (fun _ t ⟨h, hholds⟩ => ?_)))
  exact ⟨h.survey, h.first, hholds.signal.trans (Nat.mod_eq_of_lt hlanes), h.count, h.keeps⟩

theorem cmisReadDone_ends {s : State} (hs : s.Inv) {c media length klass watts : Nat} {x : CageRead} (hc : c < 5) (hx : s.cageRead c = some x) (hread : x.read = false)
    (hwatts : 120 < watts) (hothers : ∀ e ∈ s.rst.survey, e.1 ≠ c → e.2.finished = true) : Completes (.cmisReadDone c media length klass watts) s (fun t =>
      t.rst.survey = [] ∧ t.fld (Fl.IDENT_CAGE_LOWPWR c) = 1 ∧ t.fld (Fl.IDENT_CAGE_MODE c) = 0) := by
  refine Post.completes (post_bind (post_look ?_)) rfl
  rw [hx]
  dsimp only
  rw [if_pos (by simp [hread])]
  refine post_bind (post_look (post_bind (post_look (post_bind ((does_modCage _ _ s).post ((post_surveyEnd_withCage hs hc hx hothers (fun _ => by simp [hwatts])).mono (fun _ t ⟨h, hholds⟩ => ?_)))))))
  exact ⟨h.survey, hholds.lowPwr.trans (by simp [hwatts]), hholds.mode (by simp [hwatts])⟩

/-- Settles O15: a cage's reads while the survey goes on, and the end of a survey with its last cage. -/
theorem cagesAreSurveyed : Obligations.CagesAreSurveyed := by
  unfold Obligations.CagesAreSurveyed
  refine ⟨fun s c x hrun => ⟨fun l hfirst hidle h => cageSurveyStart_begins hrun hfirst hidle h, fun m v l hfirst hidle hbit h => resurvey_begins hrun hfirst hidle hbit h, ?_, ?_, ?_⟩, ?_, ?_⟩
  · intro hx hread hother
    exact ⟨cmisReadDone_records hx hread hother, cmisReadTimeout_retries hx hread, cmisReadTimeout_records hx hread hother, modprslChange_restarts hx hread hother,
      modprslChange_stands hx hread hother⟩
  · exact fun hx hread hfinished hother => cageSignalDetect_records hx hread hfinished hother
  · exact fun hnone hfirst => modprslChange_joins hrun hnone hfirst
  · exact fun s hs c lanes x hc hlanes hx hread hfinished hothers => cageSignalDetect_ends hs hc hlanes hx hread hfinished hothers
  · exact fun s hs c media length klass watts x hc hx hread hwatts hothers => cmisReadDone_ends hs hc hx hread hwatts hothers

end Sys2Proof.Machine
end

section
/-! SUPPORT. The links of a far die whose reset wire pulses (R493, R498, R552). -/

namespace Sys2Proof.Machine

open Sys2Proof

/-- The update die's registers read their reset values. -/
def UpdRegsReset (s : State) : Prop := ∀ o, 0x900000 ≤ o → o < 0xA00000 → s.reg o = regReset o

/-- What a pulse of a die's reset wire leaves: the registers below those of the firewalls, the update die's where they are at reset, and the state apart from the links. -/
structure Linked (s t : State) : Prop where
  reg : ∀ o < 0x500000, t.reg o = s.reg o
  upd : UpdRegsReset s → UpdRegsReset t
  rest : ∀ p, p ∉ [StatePart.registers, .cx, .outputs, .events, .hub, .rst] → p.stands s t

theorem linked_refl (s : State) : Linked s s := ⟨fun _ _ => rfl, fun h => h, fun p _ => p.stands_refl s⟩

theorem composes_linked : Composes Linked := ⟨linked_refl, fun h g =>
  ⟨fun o ho => (g.reg o ho).trans (h.reg o ho), fun hu => g.upd (h.upd hu), fun p hp => p.stands_trans (h.rest p hp) (g.rest p hp)⟩⟩

/-- Registers from the firewalls' on, none of the update die's that is at reset. -/
theorem linked_of_reg {s t : State} (hreg : ∀ o, o < 0x500000 ∨ (UpdRegsReset s ∧ 0x900000 ≤ o ∧ o < 0xA00000) → t.reg o = s.reg o)
    (hrest : ∀ p, p ∉ [StatePart.registers, .cx, .outputs, .events, .hub, .rst] → p.stands s t) : Linked s t :=
  ⟨fun o ho => hreg o (.inl ho), fun hu o hlo hhi => (hreg o (.inr ⟨hu, hlo, hhi⟩)).trans (hu o hlo hhi), hrest⟩

theorem Act.onLinks.linked {a : Act} {s : State} (h : a.onLinks) (hs : s.Inv) : Linked s (a.apply s) := by
  refine linked_of_reg (fun o ho => ?_) (fun p hp => Act.apply_stands (h.leaves (fun hmem => hp (by revert hmem; cases p <;> simp))) s)
  have hout : o < 0x500000 ∨ 0x900000 ≤ o ∧ o < 0xA00000 := ho.imp_right (fun h => h.2)
  cases a with
  | reg k v =>
    refine hs.reg_apply_reg_other v (fun heq => ?_)
    have hk : (0x500000 ≤ k ∧ k < 0x700000) ∨ pmonCounter k = true := linkReg_iff.mp h
    rw [pmonCounter_iff] at hk
    omega
  | event e =>
    refine addEvent_reg hs e (quiet_iff.mpr ⟨Bool.eq_false_iff.mpr (fun hp => ?_), ?_, ?_⟩)
    · have := pmonCounter_iff.mp hp
      omega
    · rw [Reg.RAS_COUNT_LO]
      omega
    · rw [Reg.RAS_COUNT_LO]
      omega
  | cx _ | cxm _ _ | out _ | hub _ => rfl
  | _ => exact h.elim

theorem holds_links {α : Type} {m : M α} (h : Acts Act.onLinks m) : Holds Linked m := h.holds composes_linked (fun _ _ ha hs => ha.linked hs)

theorem acts_setFld_links {f : Fld} (h : 0x500000 ≤ f.off ∧ f.off < 0x700000) (v : Nat) : Acts Act.onLinks (setFld f v) := acts_setFld (fun _ => linkReg_iff.mpr (.inl h))

theorem acts_cx_links (f : Cx → Cx) : Acts Act.onLinks (act (.cx f)) := acts_act trivial

theorem acts_modCx_links (h : Nat) (f : CxMod → CxMod) : Acts Act.onLinks (modCx h f) := acts_act trivial

/-! Registers of the links. -/

theorem link_linkStatus {l : Nat} (hl : l < 6) : 0x500000 ≤ Reg.CRAXIS_LINK_STATUS l ∧ Reg.CRAXIS_LINK_STATUS l < 0x700000 := by
  rw [Reg.CRAXIS_LINK_STATUS]
  omega

theorem link_modStatus {h : Nat} (hh : h < 104) : 0x500000 ≤ Reg.CRAXIS_MOD_STATUS h ∧ Reg.CRAXIS_MOD_STATUS h < 0x700000 := by
  rw [Reg.CRAXIS_MOD_STATUS]
  omega

theorem dieLink_lt {d : Nat} (hd : d < 8) : dieLink d < 6 := by
  unfold dieLink
  split
  · omega
  · split <;> omega

theorem dieMods_lt {d h : Nat} (hd : d < 8) (hh : h ∈ dieMods d) : h < 104 := by
  have hall : ∀ d < 8, ∀ h ∈ dieMods d, h < 104 := by decide +kernel
  exact hall d hd h hh

/-! Messages. -/

theorem acts_cxSend (h op : Nat) (m : CxMsg) : Acts Act.onLinks (cxSend h op m) := by
  refine acts_bind (acts_look _) (fun _ => acts_bind (acts_look _) (fun _ => acts_bind (acts_getFld _) (fun _ => acts_bind (acts_look _) (fun _ => ?_))))
  exact acts_ite (fun _ => acts_cxEmit _ _ _) (fun _ => acts_when_then (fun _ => acts_act trivial) (fun _ => acts_modCx_links _ _))

theorem acts_answer (h op : Nat) (m : CxMsg) (len : Nat) (poison : Bool) (data : List Byte) : Acts Act.onLinks (answer h op m len poison data) := acts_when (fun _ => acts_cxSend _ _ _)

theorem acts_flushRelease (l : Nat) : Acts Act.onLinks (flushRelease l) :=
  acts_bind (acts_look _) (fun _ => acts_bind (acts_look _) (fun _ => acts_when (fun _ => acts_bind (acts_act trivial) (fun _ => acts_for _ (fun _ _ => acts_answer _ _ _ _ _ _)))))

theorem acts_linkSync {l : Nat} (hl : l < 6) : Acts Act.onLinks (linkSync l) :=
  acts_bind (acts_look _) (fun _ => acts_bind (acts_look _) (fun _ => acts_bind (acts_setFld_links (link_linkStatus hl) _) (fun _ =>
    acts_bind (acts_setFld_links (link_linkStatus hl) _) (fun _ => acts_setFld_links (link_linkStatus hl) _))))

theorem acts_cxDropped (l n : Nat) : Acts Act.onLinks (cxDropped l n) := acts_act trivial

theorem acts_cxFailAll (p : CxReq → Bool) : Acts Act.onLinks (cxFailAll p) :=
  acts_bind (acts_look _) (fun _ => acts_bind (acts_act trivial) (fun _ => acts_for _ (fun _ _ => acts_act trivial)))

theorem acts_linkLost (l : Nat) : Acts Act.onLinks (linkLost l) := acts_bind (acts_look _) (fun _ => acts_bind (acts_cxDropped _ _) (fun _ => acts_act trivial))

theorem acts_raise_links {e : Ev} {src : Nat × Nat} {detail slate : Nat} : Acts Act.onLinks (raise e src detail slate) := acts_raise onHubCounters_onLinks (fun _ => trivial)

/-! RELEARN names modules that no register bounds: one that retrains has its status ACTIVE, which no register of the update die reads at reset. -/

/-- The word that a register's fields have at reset. -/
def RegSpec.resetWord (r : RegSpec) : W32 := BitVec.ofNat 32 (r.fields.foldl (fun m f => m ||| f.reset * 2 ^ f.lo) 0)

/-- Of all registers' lowest three bits, one register's alone read 2 at reset: one of NRT. -/
theorem resetWord_active : blocks.all (fun b => b.regs.all (fun r => decide (bitsOf r.resetWord.toNat 2 0 = cxActive → b.base = 0x300000 ∧ b.stride = 0 ∧ r.off = 12 ∧ r.s1 = 0))) = true := by
  decide +kernel

/-- A register found in a block without copies hits at its distance from the base. -/
theorem BlockSpec.find_hits {b : BlockSpec} {a : Nat} {h : RegHit} (hf : b.find a = some h) (hstride : b.stride = 0) : b.base ≤ a ∧ h.spec.hits (a - b.base) = true := by
  simp only [BlockSpec.find, hstride, if_true, Nat.zero_mul, Nat.sub_zero] at hf
  split at hf
  · cases hf
  · rename_i hbase
    split at hf
    · cases hf
    · split at hf
      · cases hf
      · rename_i r hr
        have hhits : r.hits (a - b.base) = true := List.find?_some (p := fun r : RegSpec => r.hits (a - b.base)) hr
        rw [← Option.some.inj hf]
        exact ⟨Nat.le_of_not_lt hbase, hhits⟩

/-- The state field of an update die's register at reset is not ACTIVE. -/
theorem regReset_not_active {o : Nat} (hlo : 0x900000 ≤ o) (hhi : o < 0xA00000) : bitsOf (regReset o).toNat 2 0 ≠ cxActive := by
  intro hact
  unfold regReset at hact
  rw [if_neg (by omega), if_neg (by omega)] at hact
  cases hf : findReg o with
  | none =>
    rw [hf] at hact
    exact absurd hact (by decide)
  | some h =>
    rw [hf] at hact
    obtain ⟨b, hb, hfind⟩ := findReg_mem hf
    have hword := of_decide_eq_true (List.all_eq_true.mp (List.all_eq_true.mp resetWord_active b hb) h.spec (BlockSpec.find_mem hfind)) hact
    obtain ⟨hbase, hstride, hoff, hs1⟩ := hword
    obtain ⟨-, hhits⟩ := BlockSpec.find_hits hfind hstride
    rw [RegSpec.hits, hbase, hoff, hs1] at hhits
    simp at hhits
    omega
/-- A module that was ACTIVE retrains: its status is no register of the update die at reset. -/
theorem post_cxStartRetrain {s : State} (hs : s.Inv) {h : Nat} (hactive : s.cxState h = cxActive) (recal : Bool) : Post (cxStartRetrain h recal) s (fun _ t => t.Inv ∧ Linked s t) := by
  have hcount := (linkReg_count (cxLink_lt h) (show 3 < 8 by decide))
  have hrest : Holds Linked (modCx h (fun x => { x with calibrating := recal, replay := (0, 0) }) >>= fun _ => bump (Reg.CRAXIS_COUNT_LO (cxLink h) 3) 1) :=
    holds_links (acts_bind (acts_modCx_links _ _) (fun _ => acts_bump (fun _ => hcount.1) (fun _ => hcount.2)))
  refine post_bind ((post_setFld hs _ _).mono (fun _ t1 h1 => (hrest t1 h1.rewrites.inv).mono (fun _ t ⟨ht, h2⟩ => ⟨ht, composes_linked.trans ?_ h2⟩)))
  refine linked_of_reg (fun o ho => h1.rewrites.reg o (fun hmem => ?_)) (fun p hp => h1.rewrites.rest p (fun heq => hp (by simp [heq])))
  have hoff : o = Reg.CRAXIS_MOD_STATUS h := List.mem_singleton.mp hmem
  rcases ho with ho | ⟨hupd, hlo, hhi⟩
  · rw [hoff, Reg.CRAXIS_MOD_STATUS] at ho
    omega
  · refine regReset_not_active hlo hhi ?_
    rw [← hupd o hlo hhi, hoff]
    exact hactive

theorem holds_relearnNext (l : Nat) : Holds Linked (relearnNext l) := by
  have o := composes_linked
  intro s hs
  refine post_bind (post_look (post_bind (post_look (post_ite (fun _ => ?_) (fun _ => post_pure ⟨hs, linked_refl s⟩)))))
  cases hnext : s.cx.relearn.find? (fun h => decide (cxLink h = l) && decide (s.cxState h = cxActive)) with
  | none => exact holds_links (acts_cx_links _) s hs
  | some h =>
    have hfound := List.find?_some hnext
    rw [Bool.and_eq_true, decide_eq_true_eq, decide_eq_true_eq] at hfound
    refine post_bind (post_act ?_)
    generalize hu : (Act.cx (fun c => { c with relearn := c.relearn.filter (fun x => decide (x ≠ h)) })).apply s = u
    have hinv : u.Inv := hu ▸ Act.apply_inv _ s hs
    have hactive : u.cxState h = cxActive := hu ▸ hfound.2
    exact (post_cxStartRetrain hinv hactive false).mono (fun _ t ⟨ht, g⟩ => ⟨ht, o.trans (hu ▸ Act.onLinks.linked (a := .cx _) trivial hs) g⟩)

theorem holds_cxRebuild {l : Nat} (hl : l < 6) : Holds Linked (cxRebuild l []) := by
  have o := composes_linked
  refine holds_bind o (holds_links (acts_pure _)) (fun _ => holds_bind o (holds_links (acts_forIn _ _ (fun h _ _ => acts_bind (acts_look _) (fun x => ?_)))) (fun _ => ?_))
  · exact acts_when_then (fun _ => acts_bind (acts_act trivial) (fun _ => acts_modCx_links _ _)) (fun _ => acts_pure _)
  · exact holds_bind o (holds_links (acts_setFld_links (link_linkStatus hl) _)) (fun _ => holds_bind o (holds_links (acts_linkSync hl)) (fun _ =>
      holds_bind o (holds_links (acts_flushRelease l)) (fun _ => holds_relearnNext l)))

theorem holds_dieResetEnter {d : Nat} (hd : d < 8) : Holds Linked (dieResetEnter d) := by
  have o := composes_linked
  have hmods : Acts Act.onLinks (forIn (dieMods d) PUnit.unit (fun h _ => do
      let x ← look (·.cxm h)
      cxDropped (dieLink d) x.posted
      modCx h (fun x => { CxMod.empty with badSpares := x.badSpares })
      setFld (Fl.CRAXIS_MOD_STATUS_STATE h) cxReset
      pure (ForInStep.yield PUnit.unit))) :=
    acts_forIn _ _ (fun h hh _ => acts_bind (acts_look _) (fun _ => acts_bind (acts_cxDropped _ _) (fun _ => acts_bind (acts_modCx_links _ _) (fun _ =>
      acts_bind (acts_setFld_links (link_modStatus (dieMods_lt hd hh)) _) (fun _ => acts_pure _)))))
  refine holds_bind o (holds_links (acts_cx_links _)) (fun _ => holds_bind o (holds_links (acts_cxFailAll _)) (fun _ => holds_bind o (holds_links hmods) (fun _ => holds_bind o (holds_links (acts_cx_links _)) (fun _ => ?_))))
  exact holds_when_then o (fun _ => holds_links (acts_linkLost _)) (fun _ => holds_bind o (holds_links acts_raise_links) (fun _ => holds_cxRebuild (dieLink_lt hd)))

theorem acts_dieResetRelease {d : Nat} (hd : d < 8) : Acts Act.onLinks (dieResetRelease d) := by
  have hmods : Acts Act.onLinks (forIn (dieMods d) PUnit.unit (fun h _ => do
      setFld (Fl.CRAXIS_MOD_STATUS_STATE h) cxTraining
      pure (ForInStep.yield PUnit.unit))) := acts_for _ (fun h hh => acts_setFld_links (link_modStatus (dieMods_lt hd hh)) _)
  refine acts_bind (acts_act trivial) (fun _ => acts_ite (fun hd4 => ?_) (fun _ => hmods))
  refine acts_bind (acts_setFld_links (link_linkStatus (dieLink_lt hd)) _) (fun _ => acts_bind (acts_setFld_links (f := Fl.FWALL_STATUS_ISOLATED (d - 1)) ?_ _) (fun _ => hmods))
  rw [show (Fl.FWALL_STATUS_ISOLATED (d - 1)).off = Reg.FWALL_STATUS (d - 1) from rfl, Reg.FWALL_STATUS]
  omega

/-- A far die's reset wire pulses. -/
theorem holds_diePulse {d : Nat} (hd : d < 8) : Holds Linked (diePulse d) := by
  have o := composes_linked
  have hready : ∀ f, Holds Linked (modRst f) := fun f s hs => post_act ⟨Act.apply_inv _ s hs, fun _ _ => rfl, fun h => h, fun p hp =>
    Act.apply_stands (fun hmem => hp (by simp [Act.kind, ActKind.changes] at hmem; simp [hmem])) s⟩
  refine holds_bind o (holds_look o _) (fun held => holds_when o (fun _ => holds_bind o (holds_links (acts_resetNote _ _ _)) (fun _ => holds_bind o (hready _) (fun _ =>
    holds_bind o (holds_dieResetEnter hd) (fun _ => holds_links (acts_dieResetRelease hd))))))

end Sys2Proof.Machine
end

section
/-! Twin resets (R34, R553). -/

namespace Sys2Proof.Machine

open Sys2Proof

/-- A commit that refuses nothing and has no shadow sets the register, and that is all. -/
theorem does_commitReg_silent {s : State} {m off v : Nat} {h : RegHit} (hpriv : (h.spec.write m (s.running h) (s.reg off).toNat v).privilege = false)
    (hrun : (h.spec.write m (s.running h) (s.reg off).toNat v).whileRunning = false) (hrws : h.spec.hasRws = false) :
    Does (commitReg m h off v) s () ((Act.reg off (BitVec.ofNat 32 (h.spec.write m (s.running h) (s.reg off).toNat v).value)).apply s) := by
  refine does_bind (does_look _ s) (does_bind (does_look _ s) (does_bind (does_setReg _ _ s) ?_))
  rw [hpriv, hrun, hrws]
  exact does_pure _ _

/-- A register of fields that are written only takes every write without more. -/
theorem does_regWrite_wo {off : Nat} (ho : (findReg off).any (fun h => decide (h.spec.kind = .plain) && h.spec.fields.all (fun f => decide (f.ty = .wo))) = true)
    {m : Nat} (hm : mayWrite m off = true) (v : Nat) (s : State) : ∃ w, Does (regWrite m off v) s () ((Act.reg off w).apply s) := by
  cases hf : findReg off with
  | none =>
    rw [hf] at ho
    cases ho
  | some h =>
    rw [hf, Option.any_some, Bool.and_eq_true, decide_eq_true_eq, List.all_eq_true] at ho
    obtain ⟨hkind, hwo⟩ := ho
    have hty : ∀ f ∈ h.spec.fields, f.ty = .wo := fun f hmem => of_decide_eq_true (hwo f hmem)
    rw [regWrite_plain hf hkind, byMaster_of_mayWrite hm]
    refine ⟨_, does_commitReg_silent ?_ ?_ ?_⟩
    · rw [RegSpec.write_eq]
      exact List.any_eq_false.mpr (fun f hmem => by simp [FieldSpec.write, hty f hmem])
    · rw [RegSpec.write_eq]
      exact List.any_eq_false.mpr (fun f hmem => by simp [FieldSpec.write, hty f hmem])
    · exact List.any_eq_false.mpr (fun f hmem => by simp [hty f hmem])

theorem mayWrite_rstcCtrl (m : Nat) : mayWrite m Reg.RSTC_CTRL = true := by simp [mayWrite, show keeperReads Reg.RSTC_CTRL = false by decide]

/-- What two states share that agree in all registers but RSTC_CTRL and in all else. -/
theorem twin_congr {s t : State} (hreg : ∀ o ≠ Reg.RSTC_CTRL, t.reg o = s.reg o) (hports : t.ports = s.ports) : t.hasTwin = s.hasTwin ∧ t.portUp 8 = s.portUp 8 ∧ t.myPair = s.myPair := by
  have hfld : ∀ f : Fld, f.off ≠ Reg.RSTC_CTRL → t.fld f = s.fld f := fun f hf => State.fld_congr (hreg _ hf)
  refine ⟨?_, ?_, ?_⟩
  · rw [State.hasTwin, State.hasTwin, hfld _ (by decide)]
  · rw [State.portUp, State.portUp, hfld _ (by decide)]
  · rw [State.myPair, State.myPair, State.portMac, State.portMac, hreg _ (by decide), hfld _ (by decide), State.port, State.port, hports]

/-- The changes of what a port counts. -/
def Act.ofPort : Act → Prop
  | .reg _ _ | .hub _ | .port _ _ => True
  | _ => False

theorem acts_portSent_ofPort (n frames bytes : Nat) : Acts Act.ofPort (portSent n frames bytes) :=
  acts_bind (acts_bump (fun _ => trivial) (fun _ => trivial)) (fun _ => acts_bind (acts_bump (fun _ => trivial) (fun _ => trivial)) (fun _ => acts_bind (acts_act trivial) (fun _ => acts_act trivial)))

theorem Ran.port_stands {s t : State} (r : Ran Act.ofPort s t) (p : StatePart) (hp : p ∉ [StatePart.registers, .hub, .ports]) : p.stands s t :=
  r.stands p (fun a ha hmem => hp (by
    cases a with
    | reg _ _ | hub _ | port _ _ => simp [Act.kind, ActKind.changes] at hmem; simp [hmem]
    | _ => exact ha.elim))

/-- The parts that the sending of the twin reset TLV leaves. -/
theorem post_twinSend (s : State) : Post twinSend s (fun _ t =>
    t.out = (if s.hasTwin && s.portUp 8 then Out.twinReset s.myPair ((s.job.map (·.jobId)).getD 0 % 2 ^ 32) :: s.out else s.out) ∧
    ∀ p, p ∉ [StatePart.registers, .hub, .ports, .outputs] → p.stands s t) := by
  refine post_bind (post_look (post_bind (post_look (post_bind (post_look ?_)))))
  by_cases hgo : (s.hasTwin && s.portUp 8) = true
  · rw [if_pos hgo, if_pos hgo]
    refine post_bind (post_look (post_bind (((acts_portSent_ofPort _ _ _) s).mono (fun _ t r => post_bind (post_act (post_pure ⟨?_, fun p hp => ?_⟩))))))
    · exact congrArg _ (r.port_stands .outputs (by decide))
    · exact p.stands_trans (r.port_stands p (fun h => hp (by revert h; cases p <;> simp))) (Act.apply_stands (fun h => hp (by revert h; cases p <;> simp [Act.kind, ActKind.changes])) t)
  · rw [if_neg hgo, if_neg hgo]
    exact post_pure ⟨rfl, fun p _ => p.stands_refl s⟩

section
variable {s : State} (hs : s.Inv)
include hs

theorem twinReq_sends {m v : Nat} (hreq : bitOf v 1 = true) (hreset : bitOf v 0 = false) (hready : bitOf v 2 = false) (hkey : bitsOf v 15 8 = 0xC3) : Completes (.twinReq m v) s (fun t =>
    t.out = (if s.hasTwin && s.portUp 8 then Out.twinReset s.myPair ((s.job.map (·.jobId)).getD 0 % 2 ^ 32) :: s.out else s.out) ∧
    t.rst = { s.rst with twinLeft := 2 } ∧ t.mem = s.mem ∧ t.events = s.events) := by
  obtain ⟨w, hwrite⟩ := does_regWrite_wo (off := Reg.RSTC_CTRL) (by decide +kernel) (mayWrite_rstcCtrl m) v s
  refine Post.completes (m := rstcCtrlWrite m v) (post_bind (hwrite.post ?_)) rfl
  generalize hu : (Act.reg Reg.RSTC_CTRL w).apply s = u
  have hreg : ∀ o ≠ Reg.RSTC_CTRL, u.reg o = s.reg o := fun o ho => hu ▸ hs.reg_apply_reg_other w ho
  have hrest : ∀ p, p ≠ StatePart.registers → p.stands s u := fun p hp => hu ▸ Act.apply_stands (by simpa [Act.kind, ActKind.changes] using hp) s
  obtain ⟨htwin, hup, hpair⟩ := twin_congr hreg (hrest .ports (by decide))
  have hjob : u.job = s.job := hrest .job (by decide)
  have hout : u.out = s.out := hrest .outputs (by decide)
  rw [if_neg (by simp [hkey]), if_neg (by simp [hready]), if_pos (by simp [hreq, hkey])]
  refine post_bind ((post_twinSend u).mono (fun _ t ⟨htout, ht⟩ => post_bind (post_act ?_)))
  rw [htwin, hup, hpair, hjob, hout] at htout
  rw [if_neg (by simp [hreset])]
  have hrst : t.rst = s.rst := (ht .rst (by decide)).trans (hrest .rst (by decide))
  have hmem : t.mem = s.mem := (ht .memory (by decide)).1.trans (hrest .memory (by decide)).1
  have hev : t.events = s.events := (ht .events (by decide)).1.trans (hrest .events (by decide)).1
  exact post_pure ⟨htout, congrArg (fun r : Rst => { r with twinLeft := 2 }) hrst, hmem, hev⟩

omit hs in
theorem twinReqRepeat_sends (hleft : s.rst.twinLeft ≠ 0) : Completes .twinReqRepeat s (fun t =>
    t.out = (if s.hasTwin && s.portUp 8 then Out.twinReset s.myPair ((s.job.map (·.jobId)).getD 0 % 2 ^ 32) :: s.out else s.out) ∧
    t.rst = { s.rst with twinLeft := s.rst.twinLeft - 1 } ∧ t.mem = s.mem ∧ t.events = s.events) := by
  refine Post.completes (post_bind (post_look ?_)) rfl
  rw [if_pos hleft]
  refine post_bind ((post_twinSend s).mono (fun _ t ⟨hout, ht⟩ => post_act ⟨hout, ?_, (ht .memory (by decide)).1, (ht .events (by decide)).1⟩))
  exact congrArg (fun r : Rst => { r with twinLeft := r.twinLeft - 1 }) (ht .rst (by decide))

omit hs in
theorem twinResetRequest_unheard (p j : Nat) (hdeaf : (s.hasTwin && s.receives 8) = false) : exec (.twinResetRequest p j) s = .next s := by
  refine Does.next (does_bind (does_look _ s) ?_)
  cases hpow : s.rst.powered with
  | false => exact does_if_neg (by decide) (does_pure _ s)
  | true =>
    refine does_if_pos rfl (does_bind (does_look _ s) (does_bind (does_look _ s) (does_bind (does_look _ s) (does_bind (does_look _ s) (does_if_pos ?_ (does_pure _ s))))))
    simp [hdeaf]

omit hs in
theorem twinResetRequest_refused {p : Nat} (j : Nat) (hpow : s.rst.powered = true) (htwin : s.hasTwin = true) (hrx : s.receives 8 = true)
    (hno : s.fld Fl.OPTS_VALUES_TWIN_RESET_EN = 0 ∨ p ≠ s.myPair) : Completes (.twinResetRequest p j) s (fun t =>
      s.Told t Ev.twinResetRefused srcKeeper 0 ∧ t.rst = s.rst ∧ t.mem = s.mem ∧ t.tiles = s.tiles ∧ t.job = s.job) := by
  refine Post.completes (post_bind (post_look ?_)) rfl
  rw [if_pos hpow]
  refine post_bind (post_look (post_bind (post_look (post_bind (post_look (post_bind (post_look ?_)))))))
  rw [if_neg (by simp [htwin, hrx]), if_neg ?_]
  · refine (post_raise s _ _ _ _).mono (fun _ t ⟨r, l, hadds, _, htold, _⟩ => ⟨hadds.told (fun hroom => htold (by omega)), r.raise_stands .rst (by decide), ?_⟩)
    exact ⟨(r.raise_stands .memory (by decide)).1, r.raise_stands .tiles (by decide), r.raise_stands .job (by decide)⟩
  · rintro ⟨hen, hpair, -⟩
    rcases hno with hno | hno
    · rw [hno] at hen
      cases hen
    · exact hno hpair

end

end Sys2Proof.Machine
end

section
/-! SUPPORT. A write of RSTC_BLOCK by keeper firmware that asks for one block's reset (R558, R576). -/

namespace Sys2Proof.Machine

open Sys2Proof

/-- The reset of one block. -/
def blockReset (i : Nat) : M Unit :=
  if i = 0 then updReset else if i ≤ 4 then stackReset (i - 1) else if i ≤ 7 then fieldReset (i - 5) else do
    let st ← look (·.rst.stage)
    if st ≠ .none then stageRestart

theorem blockReset_stacks {k : Nat} (hk : k < 4) : blockReset (1 + k) = stackReset k := by
  rw [blockReset, if_neg (by omega), if_pos (by omega), Nat.add_sub_cancel_left]

theorem blockReset_fields {f : Nat} (hf : f < 3) : blockReset (5 + f) = fieldReset f := by
  rw [blockReset, if_neg (by omega), if_neg (by omega), if_pos (by omega), Nat.add_sub_cancel_left]

/-- The registers that a block's reset writes before the block's own. -/
def blockRegs : List Nat := [Reg.RSTC_BLOCK, Reg.RSTC_COUNT_LO 2, Reg.RSTC_COUNT_LO 2 + 4]

/-- Keeper firmware's write of one bit over none set is that bit. -/
theorem rstcBlock_write : ∀ b < 9, ∀ run, (findReg Reg.RSTC_BLOCK).any (fun h => decide (h.spec.kind = .plain) && !h.spec.hasRws &&
    decide (h.spec.write mKeeper run 0 (2 ^ b) = ⟨2 ^ b, false, false⟩)) = true := by decide +kernel

theorem implemented_rstcBlock : ∀ w < 2 ^ 9, Implemented Reg.RSTC_BLOCK (BitVec.ofNat 32 w) := by
  unfold Implemented
  decide +kernel

theorem does_regWrite_rstcBlock {s : State} (hzero : s.reg Reg.RSTC_BLOCK = 0) {b : Nat} (hb : b < 9) :
    Does (regWrite mKeeper Reg.RSTC_BLOCK (2 ^ b)) s () ((Act.reg Reg.RSTC_BLOCK (BitVec.ofNat 32 (2 ^ b))).apply s) := by
  cases hf : findReg Reg.RSTC_BLOCK with
  | none => exact absurd (rstcBlock_write b hb false) (by simp [hf])
  | some h =>
    have hh := rstcBlock_write b hb (s.running h)
    rw [hf, Option.any_some, Bool.and_eq_true, Bool.and_eq_true, decide_eq_true_eq, decide_eq_true_eq, Bool.not_eq_true'] at hh
    obtain ⟨⟨hkind, hrws⟩, hword⟩ := hh
    rw [regWrite_plain hf hkind, byMaster_of_mayWrite (by decide)]
    have hold : (s.reg Reg.RSTC_BLOCK).toNat = 0 := by rw [hzero]; rfl
    have hdoes := does_commitReg_silent (s := s) (m := mKeeper) (off := Reg.RSTC_BLOCK) (v := 2 ^ b) (h := h) (by rw [hold, hword]) (by rw [hold, hword]) hrws
    rwa [hold, hword] at hdoes

/-- Of the bits that are set and were not, it is the one. -/
theorem rstcBlock_new : ∀ b < 9, ∀ i < 9, (bitOf (BitVec.ofNat 32 (2 ^ b)).toNat i && !bitOf (BitVec.toNat (0 : W32)) i) = decide (i = b) := by decide +kernel

theorem post_yield {m : M Unit} {s : State} {Q : State → Prop} (h : Post m s (fun _ t => Q t)) :
    Post (m >>= fun _ => pure (ForInStep.yield PUnit.unit)) s (fun r t => r = ForInStep.yield PUnit.unit ∧ Q t) := post_bind (h.mono (fun _ _ hq => post_pure ⟨rfl, hq⟩))

theorem post_yield_when {α : Type} {f : State → α} {c : α → Prop} [∀ a, Decidable (c a)] {m : M Unit} {s : State} {Q : State → Prop}
    (h : Post (look f >>= fun a => if c a then m else pure ()) s (fun _ t => Q t)) :
    Post (look f >>= fun a => if c a then m >>= fun _ => pure (ForInStep.yield PUnit.unit) else pure (ForInStep.yield PUnit.unit)) s
      (fun r t => r = ForInStep.yield PUnit.unit ∧ Q t) := by
  refine post_bind (post_look ?_)
  have hnow : Post (if c (f s) then m else pure ()) s (fun _ t => Q t) := h
  by_cases hc : c (f s)
  · rw [if_pos hc] at hnow ⊢
    exact post_yield hnow
  · rw [if_neg hc] at hnow ⊢
    obtain ⟨_, t, hd, hq⟩ := hnow
    exact ⟨_, t, fun k => hd (fun _ => k _), rfl, hq⟩

/-- The pass of the loop over the blocks that resets one. -/
theorem post_blockReset_yield {i : Nat} {s : State} {Q : State → Prop} (h : Post (blockReset i) s (fun _ t => Q t)) :
    Post (if i = 0 then updReset >>= fun _ => pure (ForInStep.yield PUnit.unit)
      else if i ≤ 4 then stackReset (i - 1) >>= fun _ => pure (ForInStep.yield PUnit.unit)
      else if i ≤ 7 then fieldReset (i - 5) >>= fun _ => pure (ForInStep.yield PUnit.unit)
      else look (·.rst.stage) >>= fun st => if st ≠ .none then stageRestart >>= fun _ => pure (ForInStep.yield PUnit.unit) else pure (ForInStep.yield PUnit.unit)) s
      (fun r t => r = ForInStep.yield PUnit.unit ∧ Q t) := by
  unfold blockReset at h
  by_cases h0 : i = 0
  · rw [if_pos h0] at h ⊢
    exact post_yield h
  rw [if_neg h0] at h ⊢
  by_cases h4 : i ≤ 4
  · rw [if_pos h4] at h ⊢
    exact post_yield h
  rw [if_neg h4] at h ⊢
  by_cases h7 : i ≤ 7
  · rw [if_pos h7] at h ⊢
    exact post_yield h
  rw [if_neg h7] at h ⊢
  exact post_yield_when h

/-- One bit is new, and its block is reset. -/
theorem post_rstcBlockWrite_keeper {s : State} (hs : s.Inv) (hclosed : s.rst.interval = false) (hzero : s.reg Reg.RSTC_BLOCK = 0) {b : Nat} (hb : b < 9) {Q : State → Prop}
    (hreset : ∀ u, Rewrites blockRegs s u → u.reg Reg.RSTC_BLOCK = BitVec.ofNat 32 (2 ^ b) → Post (blockReset b) u (fun _ t => Q t)) :
    Post (rstcBlockWrite mKeeper (2 ^ b)) s (fun _ t => Q t) := by
  refine post_bind (post_look (post_bind ((does_regWrite_rstcBlock hzero hb).post ?_)))
  have himpl := implemented_rstcBlock (2 ^ b) (Nat.pow_lt_pow_right Nat.one_lt_two hb)
  have h1 := rewrites_reg hs Reg.RSTC_BLOCK (BitVec.ofNat 32 (2 ^ b))
  have hw1 : ((Act.reg Reg.RSTC_BLOCK (BitVec.ofNat 32 (2 ^ b))).apply s).reg Reg.RSTC_BLOCK = BitVec.ofNat 32 (2 ^ b) := hs.reg_apply_reg_implemented himpl
  generalize (Act.reg Reg.RSTC_BLOCK (BitVec.ofNat 32 (2 ^ b))).apply s = u1 at h1 hw1 ⊢
  refine post_bind (post_look (post_bind ((does_setReg _ _ u1).post ?_)))
  rw [hzero, hw1, show (0 : W32) ||| BitVec.ofNat 32 (2 ^ b) = BitVec.ofNat 32 (2 ^ b) from BitVec.zero_or]
  have h2 := h1.trans (rewrites_reg h1.inv Reg.RSTC_BLOCK (BitVec.ofNat 32 (2 ^ b)))
  have hw2 : ((Act.reg Reg.RSTC_BLOCK (BitVec.ofNat 32 (2 ^ b))).apply u1).reg Reg.RSTC_BLOCK = BitVec.ofNat 32 (2 ^ b) := h1.inv.reg_apply_reg_implemented himpl
  generalize (Act.reg Reg.RSTC_BLOCK (BitVec.ofNat 32 (2 ^ b))).apply u1 = u2 at h2 hw2 ⊢
  refine post_bind (post_look ?_)
  have hrst : u2.rst = s.rst := h2.rest .rst (by decide)
  rw [hrst, hclosed, Bool.false_and, if_neg (by decide)]
  refine post_bind ((post_forIn_split (l := List.range 9) (fun pre t => if b ∈ pre then Q t else t = u2) (fun pre i rest hl t ht => ?_) rfl).mono (fun _ t ht => post_pure ?_))
  · have hi : i < 9 := List.mem_range.mp (by rw [hl]; simp)
    have hnew := rstcBlock_new b hb i hi
    by_cases hib : i = b
    · subst hib
      have hfresh : i ∉ pre := fun hmem => by
        have hnodup : (pre ++ i :: rest).Nodup := hl ▸ List.nodup_range
        exact (List.disjoint_of_nodup_append hnodup) hmem List.mem_cons_self
      rw [if_neg hfresh] at ht
      subst ht
      rw [if_pos (hnew.trans (decide_eq_true rfl))]
      refine post_bind ((post_bump_rewrites h2.inv _ _).mono (fun _ u3 h3 => ?_))
      have hdone := hreset u3 ((h2.trans h3).mono (by decide)) ((h3.reg _ (by decide)).trans hw2)
      simp only [List.mem_append, List.mem_singleton, or_true, if_true]
      exact post_blockReset_yield hdone
    · rw [if_neg (fun hset => hib (of_decide_eq_true (hnew.symm.trans hset)))]
      refine post_pure ⟨rfl, ?_⟩
      simpa [Ne.symm hib] using ht
  · rwa [if_pos (List.mem_range.mpr hb)] at ht

end Sys2Proof.Machine
end

section
/-! Stage firmware restarts (R571). -/

namespace Sys2Proof.Machine

open Sys2Proof

/-- The changes that spare the tiles and the retained state. -/
def Act.spares : Act → Prop
  | .tile _ _ | .rst _ | .flash _ _ | .reset _ => False
  | _ => True

theorem onHubCounters_spares : OnHubCounters Act.spares := fun _ _ _ => trivial

theorem Ran.spares_stands {s t : State} (r : Ran Act.spares s t) : t.rst = s.rst ∧ t.tiles = s.tiles := by
  have hkind : ∀ a : Act, a.spares → StatePart.rst ∉ a.kind.changes ∧ StatePart.tiles ∉ a.kind.changes := fun a ha => by
    cases a <;> simp_all [Act.spares, Act.kind, ActKind.changes]
  exact ⟨r.stands .rst (fun a ha => (hkind a ha).1), r.stands .tiles (fun a ha => (hkind a ha).2)⟩

theorem acts_raise_spares {e : Ev} {src : Nat × Nat} {detail slate : Nat} : Acts Act.spares (raise e src detail slate) := acts_raise onHubCounters_spares (fun _ => trivial)
theorem acts_setFld_spares (f : Fld) (v : Nat) : Acts Act.spares (setFld f v) := acts_setFld (fun _ => trivial)
theorem acts_bump_spares (lo n : Nat) : Acts Act.spares (bump lo n) := acts_bump (fun _ => trivial) (fun _ => trivial)
theorem acts_modRing_spares (f q : Nat) (g : HRing → HRing) : Acts Act.spares (modRing f q g) := acts_act trivial

theorem acts_tierWrite_spares (a : Nat) (bs : List Byte) : Acts Act.spares (tierWrite a bs) :=
  acts_bind (acts_look _) (fun _ => acts_ite (fun _ => acts_act trivial) (fun _ => acts_bind (acts_for _ (fun _ _ => acts_act trivial)) (fun _ => acts_for _ (fun _ _ => acts_act trivial))))

theorem acts_msixSend_spares (f v : Nat) : Acts Act.spares (msixSend f v) :=
  acts_bind (acts_look _) (fun _ => acts_bind (acts_look _) (fun _ => acts_ite (fun _ => acts_pure _) (fun _ => acts_ite (fun _ => acts_act trivial) (fun _ => acts_act trivial))))

theorem acts_byteTraffic_spares (write : Bool) (a n : Nat) (priv master cls : Option Nat) : Acts Act.spares (byteTraffic write a n priv master cls) :=
  (acts_byteTraffic_onHub write a n priv master cls).mono (fun a ha => by
    cases a with
    | reg _ _ | shadow _ _ | event _ | pwr _ | clk _ _ | free => trivial
    | _ => exact ha.elim)

theorem acts_cqSync_spares (f q : Nat) : Acts Act.spares (cqSync f q) := acts_bind (acts_look _) (fun _ => acts_bind (acts_setFld_spares _ _) (fun _ => acts_when (fun _ => acts_modRing_spares _ _ _)))

theorem acts_completeNow_spares (f q : Nat) (c : HostCmd) (status : Nat) (result : List Byte) : Acts Act.spares (completeNow f q c status result) := by
  refine acts_bind (acts_look _) (fun r => acts_bind (acts_look _) (fun e => acts_bind (acts_pmuHub onHubCounters_spares) (fun _ => acts_bind (acts_modRing_spares _ _ _) (fun _ =>
    acts_ite (fun _ => ?_) (fun _ => ?_)))))
  · exact acts_bind (acts_look _) (fun _ => acts_bind (acts_look _) (fun _ => acts_when (fun _ => acts_bind (acts_tierWrite_spares _ _) (fun _ => acts_byteTraffic_spares _ _ _ _ _ _))))
  · have hput : ∀ a bs, Acts Act.spares (hostPut f a bs) := fun _ _ => acts_bind (acts_act trivial) (fun _ => acts_act trivial)
    have hsignal : Acts Act.spares (ringSignal f q) := acts_bind (acts_getFld _) (fun _ => acts_bind (acts_modRing_spares _ _ _) (fun _ => acts_msixSend_spares _ _))
    exact acts_bind (acts_look _) (fun _ => acts_bind (acts_look _) (fun _ => acts_bind (hput _ _) (fun _ => acts_bind (acts_modRing_spares _ _ _) (fun _ =>
      acts_bind (acts_cqSync_spares f q) (fun _ => acts_bind (acts_getFld _) (fun _ => acts_when (fun _ => hsignal)))))))

theorem acts_complete_spares (f q status : Nat) (result : List Byte) : Acts Act.spares (complete f q status result) := by
  refine acts_bind (acts_look _) (fun r => acts_bind (acts_look _) (fun _ => ?_))
  cases r.cur with
  | none => exact acts_pure _
  | some c => exact acts_ite (fun _ => acts_pure _) (fun _ => acts_ite (fun _ => acts_modRing_spares _ _ _) (fun _ => acts_completeNow_spares _ _ _ _ _))

theorem acts_abortCommands : Acts Act.spares abortCommands :=
  acts_bind (acts_forIn _ _ (fun _ _ _ => acts_bind (acts_for _ (fun _ _ => acts_complete_spares _ _ _ _)) (fun _ => acts_pure _))) (fun _ => acts_pure _)

theorem acts_measure_spares (i : Nat) (item : List Byte) : Acts Act.spares (measure i item) :=
  acts_bind (acts_look _) (fun _ => acts_bind (acts_for _ (fun _ _ => acts_setReg trivial)) (fun _ => acts_pure _))

/-- Where stage firmware stands after a restart. -/
def State.restarted (s : State) : Stage :=
  if 3 ≤ (s.rst.restarts.filter (fun x => decide (s.time - x < 60000000000))).length then .stopped
  else if s.stageOk (s.fld Fl.OPTS_STATUS_STAGE_SLOT) then .loaded else .stopped

/-- The restart in work joins those within 60 s. -/
theorem length_restarts (now : Nat) (l : List Nat) : ((now :: l).filter (fun t => decide (now - t < 60000000000))).length = (l.filter (fun x => decide (now - x < 60000000000))).length + 1 := by
  rw [List.filter_cons_of_pos (by simp)]
  rfl

theorem post_stageRestart (s : State) : Post stageRestart s (fun _ t => t.rst.stage = s.restarted ∧ t.tiles = s.tiles) := by
  refine post_bind (post_look (post_bind (post_look (post_bind (post_look (post_bind (post_look ?_)))))))
  refine post_bind ((acts_bump_spares _ _ s).mono (fun _ t1 r1 => post_bind ((acts_raise_spares t1).mono (fun _ t2 r2 => post_bind ((acts_abortCommands t2).mono (fun _ t3 r3 => ?_))))))
  obtain ⟨hrst, htiles⟩ := (r1.trans (r2.trans r3)).spares_stands
  refine post_bind (post_act (post_bind (post_look ?_)))
  unfold State.restarted
  have hlen : (((Act.rst (fun r => { r with restarts := (s.time :: r.restarts).filter (fun t => decide (s.time - t < 60000000000)) })).apply t3).rst.restarts).length =
      (s.rst.restarts.filter (fun x => decide (s.time - x < 60000000000))).length + 1 := by
    rw [← hrst]
    exact length_restarts s.time t3.rst.restarts
  refine post_ite (fun hfour => ?_) (fun hfew => post_ite (fun hok => ?_) (fun hbad => ?_))
  · rw [if_pos (by omega)]
    refine post_bind (post_act ((acts_raise_spares _).mono (fun _ t r => ?_)))
    obtain ⟨hr, ht⟩ := r.spares_stands
    exact ⟨congrArg Rst.stage hr, ht.trans htiles⟩
  · rw [if_neg (by omega), if_pos hok]
    refine post_bind ((acts_measure_spares _ _ _).mono (fun _ t r => post_act ⟨rfl, (r.spares_stands).2.trans htiles⟩))
  · rw [if_neg (by omega), if_neg hbad]
    exact post_act ⟨rfl, htiles⟩

theorem flashByte_congr {s t : State} (h : t.rst = s.rst) (a : Nat) : t.flashByte a = s.flashByte a := by rw [State.flashByte, State.flashByte, h]

theorem flashBytes_congr {s t : State} (h : t.rst = s.rst) (a n : Nat) : t.flashBytes a n = s.flashBytes a n := by
  unfold State.flashBytes
  exact List.map_congr_left (fun i _ => flashByte_congr h _)

theorem slotOk_congr {s t : State} (h : t.rst = s.rst) (a size magic minVer : Nat) : t.slotOk a size magic minVer = s.slotOk a size magic minVer := by
  have hwhole : ∀ a n, t.flashWhole a n = s.flashWhole a n := fun a n => by rw [State.flashWhole, State.flashWhole, h]
  unfold State.slotOk State.signed State.keyBad
  simp only [flashBytes_congr h, hwhole]

/-- The restart turns on the retained state, the time and the slot in use. -/
theorem restarted_congr {s t : State} (hrst : t.rst = s.rst) (htime : t.time = s.time) (hslot : t.fld Fl.OPTS_STATUS_STAGE_SLOT = s.fld Fl.OPTS_STATUS_STAGE_SLOT) : t.restarted = s.restarted := by
  unfold State.restarted State.stageOk
  rw [hrst, htime, hslot, slotOk_congr hrst]

end Sys2Proof.Machine
end

section
/-! Block resets of the dies (R558). -/

namespace Sys2Proof.Machine

open Sys2Proof

/-! Registers return to their reset values. -/

/-- What is forgotten of registers beside their words. -/
def Act.ofForget : Act → Prop
  | .latch _ _ | .hold _ _ | .shadow _ _ => True
  | _ => False

theorem Ran.forget_stands {s t : State} (r : Ran Act.ofForget s t) (p : StatePart) (hp : p ∉ [StatePart.latches, .holds, .shadows]) : p.stands s t :=
  r.stands p (fun a ha hmem => hp (by
    cases a with
    | latch _ _ | hold _ _ | shadow _ _ => simp [Act.kind, ActKind.changes] at hmem; simp [hmem]
    | _ => exact ha.elim))

/-- The registers of a range are at reset, the others and the rest of the state stand. -/
structure RegsReset (lo hi : Nat) (s t : State) : Prop where
  inv : t.Inv
  reset : ∀ o, lo ≤ o → o < hi → t.reg o = regReset o
  reg : ∀ o, o < lo ∨ hi ≤ o → t.reg o = s.reg o
  rest : ∀ p, p ∉ [StatePart.registers, .latches, .holds, .shadows] → p.stands s t

/-- A register that is not listed reads its reset value. -/
theorem Store.get_not_mem {α : Type} (d : Nat → α) (l : Store α) (k : Nat) (h : k ∉ l.map (·.1)) : Store.get d l k = d k := by
  induction l with
  | nil => rfl
  | cons e t ih =>
    rw [List.map_cons, List.mem_cons, not_or] at h
    simp only [Store.get, if_neg h.1]
    split
    · rfl
    · exact ih h.2

theorem post_resetRegs {s : State} (hs : s.Inv) (lo hi : Nat) : Post (resetRegs lo hi) s (fun _ t => RegsReset lo hi s t) := by
  refine post_bind (post_look ?_)
  generalize hks : (s.regs.filter (fun e => decide (lo ≤ e.1) && decide (e.1 < hi))).map (·.1) = ks
  have hin : ∀ k ∈ ks, lo ≤ k ∧ k < hi := fun k hk => by
    rw [← hks] at hk
    obtain ⟨e, he, rfl⟩ := List.mem_map.mp hk
    simpa using (List.mem_filter.mp he).2
  have hout : ∀ o, lo ≤ o → o < hi → o ∉ ks → s.reg o = regReset o := fun o hlo hhi ho => by
    refine Store.get_not_mem _ _ _ (fun hmem => ho ?_)
    obtain ⟨e, he, rfl⟩ := List.mem_map.mp hmem
    rw [← hks]
    exact List.mem_map.mpr ⟨e, List.mem_filter.mpr ⟨he, by simp [hlo, hhi]⟩, rfl⟩
  refine post_bind ((post_for (l := ks) (fun pre t => Rewrites ks s t ∧ ∀ o, (o ∈ pre ∨ s.reg o = regReset o) → t.reg o = regReset o) (fun pre k hk t ⟨ht, hreset⟩ => ?_)
    ⟨(Rewrites.refl hs).mono (List.nil_subset _), fun o ho => ho.resolve_left List.not_mem_nil⟩).mono (fun _ t ⟨ht, hreset⟩ => ?_))
  · refine post_act ⟨(ht.trans (rewrites_reg ht.inv k (regReset k))).mono (by simp [hk]), fun o ho => ?_⟩
    by_cases heq : o = k
    · rw [heq]
      exact ht.inv.reg_apply_reg_implemented (implemented_regReset k)
    · rw [ht.inv.reg_apply_reg_other _ heq]
      exact hreset o (ho.imp_left (fun hmem => (List.mem_append.mp hmem).resolve_right (fun h => heq (List.mem_singleton.mp h))))
  · have hlatch : ∀ k, Acts Act.ofForget (act (.latch k none)) := fun _ => acts_act trivial
    have hhold : ∀ k, Acts Act.ofForget (act (.hold k none)) := fun _ => acts_act trivial
    have hshadow : ∀ k, Acts Act.ofForget (act (.shadow k none)) := fun _ => acts_act trivial
    refine Post.mono (acts_bind (acts_look _) (fun _ => acts_bind (acts_for _ (fun k _ => hlatch k)) (fun _ => acts_bind (acts_look _) (fun _ => acts_bind (acts_for _ (fun k _ => hhold k)) (fun _ =>
      acts_bind (acts_look _) (fun _ => acts_bind (acts_for _ (fun k _ => hshadow k)) (fun _ => acts_pure _)))))) t) (fun _ u r => ?_)
    have hregs : u.regs = t.regs := r.forget_stands .registers (by decide)
    have hreg : ∀ o, u.reg o = t.reg o := fun o => by rw [State.reg, State.reg, hregs]
    exact {
      inv := r.inv ht.inv
      reset := fun o hlo hhi => (hreg o).trans (hreset o (by
        by_cases ho : o ∈ ks
        · exact .inl ho
        · exact .inr (hout o hlo hhi ho)))
      reg := fun o ho => (hreg o).trans (ht.reg o (fun hmem => by have := hin o hmem; omega))
      rest := fun p hp => p.stands_trans (ht.rest p (fun heq => hp (by simp [heq]))) (r.forget_stands p (fun hmem => hp (List.mem_cons_of_mem _ hmem))) }

/-! The update die and the stacks. -/

theorem does_blockStop_idle {s : State} (hjob : s.job = none) : Does blockStop s () s := by
  have hrun : s.runJob = none := by rw [State.runJob, hjob]; rfl
  exact does_bind (does_look _ s) (does_if_neg (by rw [hrun]; decide) (does_pure _ s))

theorem post_updReset {s : State} (hs : s.Inv) (hjob : s.job = none) : Post updReset s (fun _ t =>
    t.upd = Upd.empty ∧ (∀ o < 0x500000, t.reg o = s.reg o) ∧ UpdRegsReset t ∧ t.tiles = s.tiles ∧ t.mem = s.mem) := by
  refine post_bind ((does_blockStop_idle hjob).post (post_bind (post_act ?_)))
  generalize hu : (Act.upd (fun _ => Upd.empty)).apply s = u
  have hupd : u.upd = Upd.empty := by rw [← hu]; rfl
  have hrest : ∀ p, p ≠ StatePart.upd → p.stands s u := fun p hp => hu ▸ Act.apply_stands (by simpa [Act.kind, ActKind.changes] using hp) s
  have hreg : ∀ o, u.reg o = s.reg o := fun o => by rw [State.reg, State.reg, show u.regs = s.regs from hrest .registers (by decide)]
  refine post_bind ((post_resetRegs (hu ▸ Act.apply_inv _ s hs) _ _).mono (fun _ t1 h1 => (holds_diePulse (show 0 < 8 by decide) t1 h1.inv).mono (fun _ t ⟨_, h⟩ => ⟨?_, fun o ho => ?_, ?_, ?_, ?_⟩)))
  · exact (h.rest .upd (by decide)).trans ((h1.rest .upd (by decide)).trans hupd)
  · rw [h.reg o ho, h1.reg o (.inl (by omega)), hreg]
  · exact h.upd (fun o hlo hhi => h1.reset o hlo hhi)
  · exact (h.rest .tiles (by decide)).trans ((h1.rest .tiles (by decide)).trans (hrest .tiles (by decide)))
  · exact (h.rest .memory (by decide)).1.trans ((h1.rest .memory (by decide)).1.trans (hrest .memory (by decide)).1)

/-- A byte turns on memory and on its undefined ranges. -/
theorem byte_congr {s t : State} (h : StatePart.memory.stands s t) (a : Nat) : t.byte a = s.byte a := by
  obtain ⟨hmem, hundef, -⟩ := h
  rw [State.byte, State.byte, hmem, hundef]

/-- What is dropped of a map leaves the other keys. -/
theorem Store.get_drop {α : Type} [DecidableEq α] {d : Nat → α} {l : Store α} (h : Store.wf d l = true) {p : Nat → Bool} {k : Nat} (hk : p k = false) :
    Store.get d (Store.drop l p) k = Store.get d l k := by
  induction l with
  | nil => rfl
  | cons e t ih =>
    obtain ⟨i, v⟩ := e
    obtain ⟨-, ha, ht⟩ := Store.wf_cons.mp h
    have hih : Store.get d (t.filter (fun e => !p e.1)) k = Store.get d t k := ih ht
    rw [Store.drop, List.filter_cons]
    by_cases hi : p i = true
    · have hki : k ≠ i := fun heq => by rw [heq, hi] at hk; cases hk
      rw [if_neg (by simp [hi]), hih]
      simp only [Store.get, if_neg hki]
      split
      · rename_i hlt
        exact Store.get_of_above d (Store.above_mono (Nat.le_of_lt hlt) ha)
      · rfl
    · rw [if_pos (by simp [hi])]
      simp only [Store.get, hih]

/-- A stack's T1 bytes are free after its reset, and only they. -/
theorem byte_undefStack {s : State} (hs : s.Inv) (k a : Nat) :
    ((Act.undefStack k).apply s).byte a = if inT1 a = true ∧ t1Stack a = k then Config.freeByte (s.epoch + 1) a else s.byte a := by
  rw [State.byte, apply_undefStack]
  dsimp only
  by_cases hk : inT1 a = true ∧ t1Stack a = k
  · obtain ⟨ht1, hstack⟩ := hk
    have hhas : UndefRange.has ⟨baseT1, 0x33FFFFFFFF, s.epoch + 1, some k⟩ a = true := by
      simp only [inT1, Bool.and_eq_true, decide_eq_true_eq] at ht1
      simp only [UndefRange.has, Bool.and_eq_true, decide_eq_true_eq]
      exact ⟨⟨ht1.1, by omega⟩, hstack⟩
    rw [List.find?_cons_of_pos (p := fun y : UndefRange => y.has a) hhas, if_pos ⟨ht1, hstack⟩]
  · have hhead : ¬UndefRange.has ⟨baseT1, 0x33FFFFFFFF, s.epoch + 1, some k⟩ a = true := fun hhas => by
      simp only [UndefRange.has, Bool.and_eq_true, decide_eq_true_eq] at hhas
      obtain ⟨⟨hlo, hhi⟩, hstack⟩ := hhas
      exact hk ⟨by simp only [inT1, Bool.and_eq_true, decide_eq_true_eq]; exact ⟨hlo, by omega⟩, hstack⟩
    have hkeep : ∀ r ∈ s.undef, r.has a = true → r.only ≠ some k := fun r hr hhas honly => by
      have hok := hs.undef_ok r hr
      simp only [UndefRange.ok, honly, Option.isNone_some, Bool.false_or, Bool.and_eq_true, decide_eq_true_eq] at hok
      simp only [UndefRange.has, honly, Bool.and_eq_true, decide_eq_true_eq] at hhas
      obtain ⟨⟨hlo, hhi⟩, hstack⟩ := hhas
      exact hk ⟨by simp only [inT1, Bool.and_eq_true, decide_eq_true_eq]; exact ⟨by omega, by omega⟩, hstack⟩
    have hfind : (s.undef.filter (fun r => decide (r.only ≠ some k))).find? (·.has a) = s.undef.find? (·.has a) := by
      rw [List.find?_filter]
      refine List.find?_congr (fun r hr => ?_)
      cases hhas : r.has a with
      | false => simp
      | true => simp [hkeep r hr hhas]
    have hdrop : Store.get (fun _ => 0) (Store.drop s.mem (fun a => inT1 a && decide (t1Stack a = k))) a = Store.get (fun _ => 0) s.mem a :=
      Store.get_drop ((Memory.wf_iff s.mem).mp hs.mem).1 (by simpa using hk)
    rw [List.find?_cons_of_neg (p := fun y : UndefRange => y.has a) hhead, if_neg hk, hfind, hdrop, State.byte]

theorem post_stackReset {s : State} (hs : s.Inv) (hjob : s.job = none) {k : Nat} (hk : k < 4) : Post (stackReset k) s (fun _ t =>
    (∀ o < 0x500000, t.reg o = s.reg o) ∧ t.tiles = s.tiles ∧ ∀ a, t.byte a = if inT1 a = true ∧ t1Stack a = k then Config.freeByte (s.epoch + 1) a else s.byte a) := by
  refine post_bind ((does_blockStop_idle hjob).post (post_bind (post_act (post_bind (post_act ?_)))))
  have hbyte := byte_undefStack hs k
  have hrest1 : ∀ p, p ≠ StatePart.memory → p.stands s ((Act.undefStack k).apply s) := fun p hp => Act.apply_stands (by simpa [Act.kind, ActKind.changes] using hp) s
  have hinv1 := Act.apply_inv (.undefStack k) s hs
  generalize (Act.undefStack k).apply s = t1 at hbyte hrest1 hinv1 ⊢
  have hrest2 : ∀ p, p ≠ StatePart.rst → p.stands t1 ((Act.rst (fun r => { r with softRepairs := r.softRepairs.filter (fun x => decide (x ≠ k)) })).apply t1) := fun p hp =>
    Act.apply_stands (by simpa [Act.kind, ActKind.changes] using hp) t1
  have hinv2 := Act.apply_inv (.rst (fun r => { r with softRepairs := r.softRepairs.filter (fun x => decide (x ≠ k)) })) t1 hinv1
  generalize (Act.rst (fun r => { r with softRepairs := r.softRepairs.filter (fun x => decide (x ≠ k)) })).apply t1 = t2 at hrest2 hinv2 ⊢
  have hregs : t2.regs = s.regs := StatePart.stands_trans (p := .registers) (hrest1 _ (by decide)) (hrest2 _ (by decide))
  refine (holds_diePulse (show 1 + k < 8 by omega) t2 hinv2).mono (fun _ t ⟨_, h⟩ => ⟨fun o ho => ?_, ?_, fun a => ?_⟩)
  · rw [h.reg o ho, State.reg, State.reg, hregs]
  · exact StatePart.stands_trans (p := .tiles) (StatePart.stands_trans (hrest1 _ (by decide)) (hrest2 _ (by decide))) (h.rest _ (by decide))
  · rw [← hbyte]
    exact byte_congr (StatePart.stands_trans (hrest2 .memory (by decide)) (h.rest _ (by decide))) a

/-! A field. -/

/-- A byte outside a range that becomes undefined reads as before. -/
theorem byte_undef_out {s : State} (hs : s.Inv) {lo n a : Nat} (ha : a < lo ∨ lo + n ≤ a) : ((Act.undef lo n).apply s).byte a = s.byte a := by
  cases n with
  | zero => rw [apply_undef_zero]
  | succ n =>
    have hhead : ¬UndefRange.has ⟨lo, lo + (n + 1) - 1, s.epoch + 1, none⟩ a = true := by
      simp only [UndefRange.has, Bool.and_eq_true, decide_eq_true_eq]
      omega
    have hcut := cutRanges_out s.undef (lo := lo) (hi := lo + (n + 1) - 1) (x := a) (by omega)
    have hdrop : Store.get (fun _ => 0) (Store.drop s.mem (fun k => decide (lo ≤ k) && decide (k < lo + (n + 1)))) a = Store.get (fun _ => 0) s.mem a :=
      Store.get_drop ((Memory.wf_iff s.mem).mp hs.mem).1 (by simp only [Bool.and_eq_false_iff, decide_eq_false_iff_not]; omega)
    rw [State.byte, apply_undef_pos]
    dsimp only
    rw [List.find?_cons_of_neg (p := fun y : UndefRange => y.has a) hhead, hdrop, State.byte]
    cases hfind : s.undef.find? (·.has a) with
    | none =>
      rw [hfind, Option.map_none, Option.map_eq_none_iff] at hcut
      rw [hcut]
    | some r =>
      rw [hfind, Option.map_some] at hcut
      obtain ⟨r', hr', hepoch⟩ := Option.map_eq_some_iff.mp hcut
      rw [hr']
      exact congrArg (fun e => Config.freeByte e a) hepoch

/-- What lies in a tile's scratchpad is an address of that tile. -/
theorem physAt_scratchpad {p a : Nat} (hp : p < 192) (hlo : physBase p ≤ a) (hhi : a < physBase p + tileBytes) : physAt a = some p := by
  simp only [physBase, baseT0, tileBytes] at hlo hhi
  have hdiv : (a - 0x40000000) / 0x400000 = p := by omega
  unfold physAt baseT0 tileBytes
  dsimp only
  rw [if_pos (by omega), hdiv, if_pos (by omega)]

/-- The bytes outside the scratchpads, the registers of the hub, and the power of the tiles outside a field. -/
structure FieldKept (f : Nat) (s t : State) : Prop where
  inv : t.Inv
  reg : ∀ o < 0x10000000, t.reg o = s.reg o
  byte : ∀ a, physAt a = none → t.byte a = s.byte a
  power : ∀ p, p / 64 ≠ f → t.power p = s.power p
  off : ∀ p, s.power p = .off → t.power p = .off

theorem FieldKept.refl {f : Nat} {s : State} (hs : s.Inv) : FieldKept f s s := ⟨hs, fun _ _ => rfl, fun _ _ => rfl, fun _ _ => rfl, fun _ h => h⟩

theorem FieldKept.trans {f : Nat} {s t u : State} (h : FieldKept f s t) (g : FieldKept f t u) : FieldKept f s u :=
  ⟨g.inv, fun o ho => (g.reg o ho).trans (h.reg o ho), fun a ha => (g.byte a ha).trans (h.byte a ha), fun p hp => (g.power p hp).trans (h.power p hp), fun p hp => g.off p (h.off p hp)⟩

theorem FieldKept.of_stands {f : Nat} {s t : State} (ht : t.Inv) (hreg : ∀ o < 0x10000000, t.reg o = s.reg o) (hmem : t.mem = s.mem ∧ t.undef = s.undef) (hphys : t.phys = s.phys) : FieldKept f s t where
  inv := ht
  reg := hreg
  byte a _ := by rw [State.byte, State.byte, hmem.1, hmem.2]
  power p _ := by rw [State.power, State.power, hphys]
  off p hp := by rwa [State.power, hphys]

/-- The changes of the marks of poisoned lines in T0. -/
def Act.ofPoison0 : Act → Prop
  | .poison0 _ _ => True
  | _ => False

theorem fieldKept_poison0 {f : Nat} {s t : State} (hs : s.Inv) (r : Ran Act.ofPoison0 s t) : FieldKept f s t := by
  have hkeep : ∀ {β : Type} (g : State → β), (∀ k b s, g ((Act.poison0 k b).apply s) = g s) → g t = g s := fun g hg => r.keeps (f := g) (fun a s ha => by
    cases a with
    | poison0 k b => exact hg k b s
    | _ => exact ha.elim)
  exact .of_stands (r.inv hs) (fun o _ => hkeep (·.reg o) (fun _ _ _ => rfl)) ⟨hkeep (·.mem) (fun _ _ _ => rfl), hkeep (·.undef) (fun _ _ _ => rfl)⟩ (hkeep (·.phys) (fun _ _ _ => rfl))

theorem post_loseT0 {f p : Nat} {s : State} (hs : s.Inv) (hp : p < 192) : Post (loseT0 p) s (fun _ t => FieldKept f s t) := by
  have hpoison : ∀ k, Acts Act.ofPoison0 (act (.poison0 k false)) := fun _ => acts_act trivial
  have hkept : FieldKept f s ((Act.undef (physBase p) tileBytes).apply s) := by
    have hrest : ∀ q, q ≠ StatePart.memory → q.stands s ((Act.undef (physBase p) tileBytes).apply s) := fun q hq => Act.apply_stands (by simpa [Act.kind, ActKind.changes] using hq) s
    have hregs : ((Act.undef (physBase p) tileBytes).apply s).regs = s.regs := hrest .registers (by decide)
    have hphys : ((Act.undef (physBase p) tileBytes).apply s).phys = s.phys := hrest .powers (by decide)
    refine ⟨Act.apply_inv _ s hs, fun o _ => by rw [State.reg, State.reg, hregs], fun a ha => byte_undef_out hs ?_, fun q _ => by rw [State.power, State.power, hphys],
      fun q hq => by rwa [State.power, hphys]⟩
    by_contra hin
    rw [physAt_scratchpad hp (by omega) (by omega)] at ha
    cases ha
  refine post_bind (post_act ?_)
  generalize (Act.undef (physBase p) tileBytes).apply s = u at hkept ⊢
  refine post_bind (post_look (Post.mono (acts_bind (acts_for _ (fun k _ => hpoison k)) (fun _ => acts_pure _) u) (fun _ t r => ?_)))
  exact hkept.trans (fieldKept_poison0 hkept.inv r)

/-- A physical tile of the field is switched off. -/
theorem fieldKept_off {f p : Nat} {s : State} (hs : s.Inv) (hp : p / 64 = f) : FieldKept f s ((Act.phys p .off).apply s) ∧ ((Act.phys p .off).apply s).power p = .off := by
  have hpower : ∀ q, ((Act.phys p .off).apply s).power q = if q = p then .off else s.power q := fun q => Store.get_set _ p q _ hs.phys
  refine ⟨⟨Act.apply_inv _ s hs, fun _ _ => rfl, fun _ _ => rfl, fun q hq => ?_, fun q hq => ?_⟩, by rw [hpower, if_pos rfl]⟩
  · rw [hpower, if_neg (fun heq : q = p => hq (heq ▸ hp))]
  · rw [hpower]
    split
    · rfl
    · exact hq

theorem fieldKept_tile {f : Nat} {s : State} (hs : s.Inv) (n : Nat) (g : Tile → Tile) : FieldKept f s ((Act.tile n g).apply s) := .of_stands (Act.apply_inv _ s hs) (fun _ _ => rfl) ⟨rfl, rfl⟩ rfl

theorem RegsReset.fieldKept {f lo hi : Nat} {s t : State} (h : RegsReset lo hi s t) (hlo : 0x10000000 ≤ lo) : FieldKept f s t := by
  obtain ⟨hmem, hundef, -⟩ : StatePart.memory.stands s t := h.rest .memory (by decide)
  exact .of_stands h.inv (fun o ho => h.reg o (.inl (by omega))) ⟨hmem, hundef⟩ (h.rest .powers (by decide))

/-- The tiles of a field are lost. -/
def FieldOff (f : Nat) (s : State) (l : List Nat) (t : State) : Prop := FieldKept f s t ∧ ∀ i ∈ l, t.power (64 * f + i) = .off

theorem FieldOff.later {f : Nat} {s t u : State} {l : List Nat} (h : FieldOff f s l t) (g : FieldKept f t u) : FieldOff f s l u := ⟨h.1.trans g, fun i hi => g.off _ (h.2 i hi)⟩

theorem FieldOff.add {f i : Nat} {s t : State} {l : List Nat} (h : FieldOff f s l t) (hi : t.power (64 * f + i) = .off) : FieldOff f s (l ++ [i]) t :=
  ⟨h.1, fun k hk => (List.mem_append.mp hk).elim (h.2 k) (fun hk => List.mem_singleton.mp hk ▸ hi)⟩

/-! Its clocks stop. -/

/-- The groups of a list of a field's four are stopped; registers but the groups', memory and the tiles' power stand. -/
structure GroupsStopped (f : Nat) (l : List Nat) (s t : State) : Prop where
  inv : t.Inv
  stopped : ∀ i ∈ l, t.fld (Fl.CLKG_GROUP_STOPPED (4 * f + i)) = 1
  reg : ∀ o, (∀ g < 12, o ≠ Reg.CLKG_GROUP g) → t.reg o = s.reg o
  rest : ∀ p, p ∉ [StatePart.registers, .pwr] → p.stands s t

theorem group_covered {g : Nat} (hg : g < 12) : (Fl.CLKG_GROUP_STOPPED g).covered = true ∧ (Fl.CLKG_GROUP_STRETCHED g).covered = true ∧ (Fl.CLKG_GROUP_MHZ g).covered = true := by
  revert g
  decide +kernel

theorem post_mhzSync {s : State} (hs : s.Inv) (g : Nat) : Post (mhzSync g) s (fun _ t => ∃ v, FldSet (Fl.CLKG_GROUP_MHZ g) v s t) :=
  post_bind (post_look (post_bind (post_look (post_bind (post_look (post_bind (post_look ((post_setFld hs _ _).mono (fun _ _ h => ⟨_, h⟩)))))))))

/-- One group stops. -/
theorem post_groupStop {f i : Nat} (hf : f < 3) (hi : i < 4) {s t : State} {l : List Nat} (h : GroupsStopped f l s t) : Post (do
    modClk (4 * f + i) (fun k => { k with target := none })
    setFld (Fl.CLKG_GROUP_STOPPED (4 * f + i)) 1
    setFld (Fl.CLKG_GROUP_STRETCHED (4 * f + i)) 0
    mhzSync (4 * f + i)) t (fun _ u => GroupsStopped f (l ++ [i]) s u) := by
  have hg : 4 * f + i < 12 := by omega
  obtain ⟨hstopped, hstretched, hmhz⟩ := group_covered hg
  refine post_bind (post_act ?_)
  generalize hu : (Act.clk (4 * f + i) (fun k => { k with target := none })).apply t = t1
  have hreg1 : ∀ o, t1.reg o = t.reg o := fun o => by rw [← hu]; rfl
  have hrest1 : ∀ p, p ≠ StatePart.pwr → p.stands t t1 := fun p hp => hu ▸ Act.apply_stands (by simpa [Act.kind, ActKind.changes] using hp) t
  have hinv1 : t1.Inv := hu ▸ Act.apply_inv _ t h.inv
  refine post_bind ((post_setFld hinv1 _ _).mono (fun _ t2 h2 => post_bind ((post_setFld h2.rewrites.inv _ _).mono (fun _ t3 h3 => (post_mhzSync h3.rewrites.inv _).mono (fun _ u ⟨v, h4⟩ => ?_)))))
  have hgroup : Rewrites (List.replicate 3 (Reg.CLKG_GROUP (4 * f + i))) t1 u := h2.rewrites.trans (h3.rewrites.trans h4.rewrites)
  have hall : Rewrites [Reg.CLKG_GROUP (4 * f + i)] t1 u := hgroup.mono (by simp)
  have hone : u.fld (Fl.CLKG_GROUP_STOPPED (4 * f + i)) = 1 := by
    rw [h4.apart hmhz (Fl.CLKG_GROUP_STOPPED (4 * f + i)) Nat.one_pos rfl (.inr (show 6 + 1 ≤ 8 by decide)),
      h3.apart hstretched (Fl.CLKG_GROUP_STOPPED (4 * f + i)) Nat.one_pos rfl (.inr (show 6 + 1 ≤ 7 by decide)), h2.holds hstopped]
    rfl
  refine ⟨hall.inv, fun k hk => ?_, fun o ho => ?_, fun p hp => ?_⟩
  · by_cases hki : k = i
    · rw [hki, hone]
    · have hmem := (List.mem_append.mp hk).resolve_right (fun h => hki (List.mem_singleton.mp h))
      refine (hall.fld ?_).trans ((State.fld_congr (hreg1 _)).trans (h.stopped k hmem))
      rw [List.mem_singleton, show (Fl.CLKG_GROUP_STOPPED (4 * f + k)).off = Reg.CLKG_GROUP (4 * f + k) from rfl, Reg.CLKG_GROUP, Reg.CLKG_GROUP]
      omega
  · exact (hall.reg o (fun hmem => ho _ hg (List.mem_singleton.mp hmem))).trans ((hreg1 o).trans (h.reg o ho))
  · exact p.stands_trans (h.rest p hp) (p.stands_trans (hrest1 p (fun heq => hp (by simp [heq]))) (hall.rest p (fun heq => hp (by simp [heq]))))

theorem post_fieldReset {s : State} (hs : s.Inv) (hjob : s.job = none) {f : Nat} (hf : f < 3) : Post (fieldReset f) s (fun _ t =>
    (∀ i < 64, t.power (64 * f + i) = .off) ∧ (∀ p, p / 64 ≠ f → t.power p = s.power p) ∧ (∀ g < 4, t.fld (Fl.CLKG_GROUP_STOPPED (4 * f + g)) = 1) ∧
    (∀ a, physAt a = none → t.byte a = s.byte a) ∧ t.reg Reg.RSTC_BLOCK = s.reg Reg.RSTC_BLOCK) := by
  refine post_bind ((does_blockStop_idle hjob).post (post_bind ((post_forIn_split (l := List.range 64) (fun pre t => FieldOff f s pre t) (fun pre i rest hl t ht => ?_)
    ⟨.refl hs, fun i hi => absurd hi List.not_mem_nil⟩).mono (fun _ t1 h1 => ?_))))
  · have hi : i < 64 := List.mem_range.mp (by rw [hl]; simp)
    refine post_bind ((post_loseT0 (f := f) ht.1.inv (show 64 * f + i < 192 by omega)).mono (fun _ t1 h1 => post_bind (post_act ?_)))
    obtain ⟨hkept, hoff⟩ := fieldKept_off h1.inv (show (64 * f + i) / 64 = f by omega)
    have h2 := ((ht.later h1).later hkept).add hoff
    generalize (Act.phys (64 * f + i) .off).apply t1 = t2 at h2 ⊢
    refine post_bind (post_look ?_)
    cases t2.logicalOf (64 * f + i) with
    | none => exact post_pure ⟨rfl, h2⟩
    | some n =>
      have h3 := h2.later (fieldKept_tile (f := f) h2.1.inv n (fun t => { Tile.empty with wakes := t.wakes + 1 }))
      refine post_bind (post_act ?_)
      generalize (Act.tile n (fun t => { Tile.empty with wakes := t.wakes + 1 })).apply t2 = t3 at h3 ⊢
      exact post_bind ((post_resetRegs h3.1.inv _ _).mono (fun _ t4 h4 => post_pure ⟨rfl, h3.later (h4.fieldKept (by omega))⟩))
  · obtain ⟨hkept, hoff⟩ := h1
    refine post_bind ((post_forIn_split (l := List.range 4) (fun pre t => GroupsStopped f pre t1 t) (fun pre i rest hl t ht => ?_)
      ⟨hkept.inv, fun i hi => absurd hi List.not_mem_nil, fun _ _ => rfl, fun p _ => p.stands_refl t1⟩).mono (fun _ t2 h2 => ?_))
    · have hi : i < 4 := List.mem_range.mp (by rw [hl]; simp)
      exact post_yield (post_groupStop hf hi ht)
    · refine (holds_diePulse (show 5 + f < 8 by omega) t2 h2.inv).mono (fun _ t ⟨_, h3⟩ => ?_)
      have hphys : t.phys = t1.phys := StatePart.stands_trans (p := .powers) (h2.rest _ (by decide)) (h3.rest _ (by decide))
      have hpower : ∀ p, t.power p = t1.power p := fun p => by rw [State.power, State.power, hphys]
      refine ⟨fun i hi => (hpower _).trans (hoff i (List.mem_range.mpr hi)), fun p hp => (hpower p).trans (hkept.power p hp), fun g hg => ?_, fun a ha => ?_, ?_⟩
      · refine (State.fld_congr (h3.reg _ ?_)).trans (h2.stopped g (List.mem_range.mpr hg))
        rw [show (Fl.CLKG_GROUP_STOPPED (4 * f + g)).off = Reg.CLKG_GROUP (4 * f + g) from rfl, Reg.CLKG_GROUP]
        omega
      · exact (byte_congr (StatePart.stands_trans (h2.rest .memory (by decide)) (h3.rest _ (by decide))) a).trans (hkept.byte a ha)
      · rw [h3.reg _ (by decide), h2.reg _ (by decide), hkept.reg _ (by decide)]

end Sys2Proof.Machine
end

section
/-! The twins and the blocks are reset. -/

namespace Sys2Proof.Machine

open Sys2Proof

section
variable {s : State} (hs : s.Inv) (hclosed : s.rst.interval = false) (hjob : s.job = none) (hzero : s.reg Reg.RSTC_BLOCK = 0)
include hs hclosed hjob hzero

theorem blockReset_upd : Completes (.blockResetUpd mKeeper 1) s (fun t =>
    t.upd = Upd.empty ∧ t.fld Fl.RSTC_BLOCK_UPD = 1 ∧ (∀ o, 0x900000 ≤ o → o < 0xA00000 → t.reg o = regReset o) ∧ t.tiles = s.tiles ∧ t.mem = s.mem) := by
  refine Post.completes (m := rstcBlockWrite mKeeper (2 ^ 0)) (post_rstcBlockWrite_keeper hs hclosed hzero (show 0 < 9 by decide) (fun u hu hword => ?_)) rfl
  refine (post_updReset hu.inv ((hu.rest .job (by decide)).trans hjob)).mono (fun _ t ⟨hupd, hreg, hreset, htiles, hmem⟩ => ⟨hupd, ?_, hreset, ?_, ?_⟩)
  · rw [State.fld, show Fl.RSTC_BLOCK_UPD.off = Reg.RSTC_BLOCK from rfl, hreg _ (by decide), hword]
    decide
  · exact htiles.trans (hu.rest .tiles (by decide))
  · exact hmem.trans (hu.rest .memory (by decide)).1

theorem blockReset_stack {k : Nat} (hk : k < 4) : Completes (.blockResetStack mKeeper (2 ^ (1 + k))) s (fun t =>
    bitOf (t.fld Fl.RSTC_BLOCK_STK) k = true ∧ t.tiles = s.tiles ∧ ∀ a, t.byte a = if inT1 a = true ∧ t1Stack a = k then Config.freeByte (s.epoch + 1) a else s.byte a) := by
  refine Post.completes (m := rstcBlockWrite mKeeper (2 ^ (1 + k))) (post_rstcBlockWrite_keeper hs hclosed hzero (show 1 + k < 9 by omega) (fun u hu hword => ?_)) rfl
  have hbit : ∀ k < 4, bitOf (bitsOf (BitVec.ofNat 32 (2 ^ (1 + k))).toNat 4 1) k = true := by decide
  rw [blockReset_stacks hk]
  refine (post_stackReset hu.inv ((hu.rest .job (by decide)).trans hjob) hk).mono (fun _ t ⟨hreg, htiles, hbyte⟩ => ⟨?_, htiles.trans (hu.rest .tiles (by decide)), fun a => ?_⟩)
  · rw [State.fld, show Fl.RSTC_BLOCK_STK.off = Reg.RSTC_BLOCK from rfl, hreg _ (by decide), hword]
    exact hbit k hk
  · rw [hbyte, hu.epoch, byte_congr (hu.rest .memory (by decide))]

theorem blockReset_field {f : Nat} (hf : f < 3) : Completes (.blockResetField mKeeper (2 ^ (5 + f))) s (fun t =>
    bitOf (t.fld Fl.RSTC_BLOCK_FLD) f = true ∧ (∀ i < 64, t.power (64 * f + i) = .off) ∧ (∀ p, p / 64 ≠ f → t.power p = s.power p) ∧
    (∀ g < 4, t.fld (Fl.CLKG_GROUP_STOPPED (4 * f + g)) = 1) ∧ (∀ a, physAt a = none → t.byte a = s.byte a)) := by
  refine Post.completes (m := rstcBlockWrite mKeeper (2 ^ (5 + f))) (post_rstcBlockWrite_keeper hs hclosed hzero (show 5 + f < 9 by omega) (fun u hu hword => ?_)) rfl
  have hbit : ∀ f < 3, bitOf (bitsOf (BitVec.ofNat 32 (2 ^ (5 + f))).toNat 7 5) f = true := by decide
  have hphys : u.phys = s.phys := hu.rest .powers (by decide)
  rw [blockReset_fields hf]
  refine (post_fieldReset hu.inv ((hu.rest .job (by decide)).trans hjob) hf).mono (fun _ t ⟨hoff, hpower, hstopped, hbyte, hreg⟩ => ⟨?_, hoff, fun p hp => ?_, hstopped, fun a ha => ?_⟩)
  · rw [State.fld, show Fl.RSTC_BLOCK_FLD.off = Reg.RSTC_BLOCK from rfl, hreg, hword]
    exact hbit f hf
  · rw [hpower p hp, State.power, State.power, hphys]
  · rw [hbyte a ha, byte_congr (hu.rest .memory (by decide))]

omit hjob in
theorem blockReset_mgmt (hstage : s.rst.stage = .running) : Completes (.blockResetMgmt mKeeper 0x100) s (fun t => t.rst.stage = s.restarted ∧ t.tiles = s.tiles) := by
  refine Post.completes (m := rstcBlockWrite mKeeper (2 ^ 8)) (post_rstcBlockWrite_keeper hs hclosed hzero (show 8 < 9 by decide) (fun u hu _ => ?_)) rfl
  have hrst : u.rst = s.rst := hu.rest .rst (by decide)
  refine post_bind (post_look ?_)
  rw [if_pos (by rw [hrst, hstage]; decide)]
  refine (post_stageRestart u).mono (fun _ t ⟨hto, htiles⟩ => ⟨hto.trans ?_, htiles.trans (hu.rest .tiles (by decide))⟩)
  exact restarted_congr hrst (hu.rest .time (by decide)) (hu.fld (by decide))

end

/-! A block is back. -/

/-- A die's readiness turns on the status of its modules and on what has told so. -/
theorem dieReady_congr {s t : State} (hreg : ∀ o ≠ Reg.RSTC_BLOCK, t.reg o = s.reg o) (hrst : t.rst = s.rst) (d : Nat) : t.dieReady d = s.dieReady d := by
  have hst : ∀ h, t.cxState h = s.cxState h := fun h => State.fld_congr (hreg _ (by
    rw [show (Fl.CRAXIS_MOD_STATUS_STATE h).off = Reg.CRAXIS_MOD_STATUS h from rfl, Reg.CRAXIS_MOD_STATUS, Reg.RSTC_BLOCK]
    omega))
  unfold State.dieReady State.dieUp
  simp only [hst, hrst]

theorem blockReset_back {s : State} (hs : s.Inv) {b w : Nat} (hb : b ≤ 8) (hw : w < 2 ^ 9) (hbit : bitOf w b = true) (hstage : b = 8 → s.rst.stage = .running) (hready : b ≠ 8 → s.dieReady b = true) :
    Completes (.blockResetDone b) { s with regs := Store.set regReset s.regs Reg.RSTC_BLOCK (BitVec.ofNat 32 w) } (fun t =>
      t.reg Reg.RSTC_BLOCK = BitVec.ofNat 32 (w - 2 ^ b) ∧ ∀ o ≠ Reg.RSTC_BLOCK, t.reg o = s.reg o) := by
  have himpl := implemented_rstcBlock w hw
  have hset : { s with regs := Store.set regReset s.regs Reg.RSTC_BLOCK (BitVec.ofNat 32 w) } = (Act.reg Reg.RSTC_BLOCK (BitVec.ofNat 32 w)).apply s := by
    rw [Act.apply, show BitVec.ofNat 32 w &&& BitVec.ofNat 32 (implMask Reg.RSTC_BLOCK) = BitVec.ofNat 32 w from himpl]
  rw [hset]
  have hword : ((Act.reg Reg.RSTC_BLOCK (BitVec.ofNat 32 w)).apply s).reg Reg.RSTC_BLOCK = BitVec.ofNat 32 w := hs.reg_apply_reg_implemented himpl
  have hother : ∀ o ≠ Reg.RSTC_BLOCK, ((Act.reg Reg.RSTC_BLOCK (BitVec.ofNat 32 w)).apply s).reg o = s.reg o := fun o ho => hs.reg_apply_reg_other _ ho
  have hrst : ((Act.reg Reg.RSTC_BLOCK (BitVec.ofNat 32 w)).apply s).rst = s.rst := rfl
  have hinv := Act.apply_inv (.reg Reg.RSTC_BLOCK (BitVec.ofNat 32 w)) s hs
  generalize (Act.reg Reg.RSTC_BLOCK (BitVec.ofNat 32 w)).apply s = u at hword hother hrst hinv ⊢
  have hnat : (u.reg Reg.RSTC_BLOCK).toNat = w := by rw [hword, BitVec.toNat_ofNat, Nat.mod_eq_of_lt (by omega)]
  have hback : (if b = 8 then decide (u.rst.stage = .running) else u.dieReady b) = true := by
    split
    · rw [hrst, hstage ‹_›]
      rfl
    · rw [dieReady_congr hother hrst, hready ‹_›]
  refine Post.completes (post_bind (post_look (post_bind (post_look ?_)))) rfl
  refine post_ite (fun _ => post_act ⟨?_, fun o ho => (hinv.reg_apply_reg_other _ ho).trans (hother o ho)⟩) (fun hno => absurd ⟨hnat.symm ▸ hbit, hb, hback⟩ hno)
  dsimp only
  rw [hnat]
  exact hinv.reg_apply_reg_implemented (implemented_rstcBlock _ (Nat.lt_of_le_of_lt (Nat.sub_le _ _) hw))

/-- Settles O26: the twin reset TLV and its refusals, then the reset of each block and its end. -/
theorem twinsAndBlocksAreReset : Obligations.TwinsAndBlocksAreReset := by
  unfold Obligations.TwinsAndBlocksAreReset
  refine ⟨fun s hs => ⟨fun m v hreq hreset hready hkey => twinReq_sends hs hreq hreset hready hkey, fun hleft => twinReqRepeat_sends hleft, fun p j hdeaf => twinResetRequest_unheard p j hdeaf,
    fun p j hpow htwin hrx hno => twinResetRequest_refused j hpow htwin hrx hno⟩, fun s hs hclosed hjob hzero => ⟨blockReset_upd hs hclosed hjob hzero, fun k hk => blockReset_stack hs hclosed hjob hzero hk,
    fun f hf => blockReset_field hs hclosed hjob hzero hf, fun hstage => blockReset_mgmt hs hclosed hzero hstage, fun b hb w hw hbit hstage hready => blockReset_back hs hb hw hbit hstage hready⟩⟩

end Sys2Proof.Machine
end
